-- ==== Sys2Proof/Word.lean ====
section
/-! DEFINITION. The words of the module: bytes, 32-bit registers, 64-bit values (R5, R6). -/

namespace Sys2Proof

/-- One byte of a memory. -/
abbrev Byte := BitVec 8

/-- A control-window register (R6), a ring word, or the bits of an FP32 value (Table 3.1). -/
abbrev Word := BitVec 32

/-- A 64-bit register or a scalar register of a thread (R44). -/
abbrev DWord := BitVec 64

end Sys2Proof
end

