-- ==== Sys2Proof/Syntax.lean ====
section
/-! DEFINITION. The commands of the block: one constructor per row of the opcode table, and the data they carry.
The table gives the rows no bits, so the operands are what the row's rule says the step depends on. -/

namespace Sys2Proof

/-- Who makes a control-window access (R34, R597). -/
inductive Agent where
  | runtime      -- a privileged runtime thread (R583)
  | harebell
  | cowslip
  | management   -- REG_WRITE or REG_READ of a management queue (R579)
  | other
  deriving DecidableEq, Repr

/-- Why a power stage shut off (R468). -/
inductive PhaseCause where
  | overcurrent
  | overtemperature
  deriving DecidableEq, Repr

/-- One gather slot as it enters end B (Table 10.2). -/
structure GatherSlot where
  seqEcho : Nat
  nstatus : Nat
  ninfo   : Nat
  fb      : List Word
  bulk    : List Byte
  deriving DecidableEq, Repr

/-- A CYCLIC frame's lap 0 as it enters end B (R296). -/
structure RingReturn where
  fcsOk       : Bool
  gatherCount : Nat
  slots       : List GatherSlot
  deriving DecidableEq, Repr

/-- Pixel data types of a camera (Table 12.1). -/
inductive PixelType where
  | raw8
  | raw10
  | raw12
  | yuv422
  deriving DecidableEq, Repr

/-- A sample at a port of Table 12.1: the bytes the sensor sent, for a camera its pixels as packed on the bus and their type, R343's
error (2 packet-header ECC failure, 3 payload CRC failure, else 0). -/
structure SampleIn where
  raw      : List Byte
  type     : PixelType
  error    : Nat
  deriving DecidableEq, Repr

/-- What other modules have answered to a FENCE (R219, R220): the entries whose queue has reached its count there, those whose queue
is not enabled there, and those whose queue belongs to another context there. -/
structure FenceAnswers where
  reached : List Nat
  off     : List Nat
  other   : List Nat
  deriving DecidableEq, Repr

/-- A gPTP Sync with its follow-up (R320, R322): the Ethernet port, the origin time in the domain, and the port's mean link delay. -/
structure SyncIn where
  port      : Nat
  origin    : Nat
  linkDelay : Nat
  deriving DecidableEq, Repr

/-- What the best-master algorithm finds (R320): the grandmaster's identity, and the priority1 of the best one announced. -/
structure Master where
  gmid : DWord
  best : Option Nat
  deriving DecidableEq, Repr

/-- What the port knows of a CYCLIC frame at its return deadline (R308). -/
structure RingOutcome where
  completed    : Bool
  lap1FcsOk    : Bool
  deliverCount : Nat
  roundNs      : Nat
  deriving DecidableEq, Repr

/-- An identity slot of a DISCOVER frame (Table 10.6). -/
structure NodeIdentity where
  vendor  : Word
  product : Word
  serial  : DWord
  hwRev   : Nat
  hopNs   : Nat
  fbMax   : Nat
  cmdMax  : Nat
  bulkMax : Nat
  rateMax : Nat
  deriving DecidableEq, Repr

/-- How a DISCOVER frame came back; `none` slots means its deadline passed (R305, R306). -/
structure DiscoverReturn where
  returned    : Bool
  fcsOk       : Bool
  gatherCount : Nat
  nodes       : List NodeIdentity
  deriving DecidableEq, Repr

/-- Access width of a scalar load or store in bytes is `2 ^ size` (R581: load and store instructions). -/
inductive ScalarOp where
  | int    (f : Nat) (rd rs1 rs2 : Nat) (imm : DWord)      -- 64-bit integer instruction, function f
  | fp     (f : Nat) (rd rs1 rs2 rs3 : Nat)                -- FP32 scalar instruction, function f
  | load   (size : Nat) (signed : Bool) (rd rs1 : Nat) (off : DWord)
  | store  (size : Nat) (rs1 rs2 : Nat) (off : DWord)
  | branch (cond : Nat) (rs1 rs2 : Nat) (off : DWord) (link : Nat)
  | illegal                                                  -- a word that decodes to no instruction
  deriving DecidableEq, Repr

/-- A tensor unit command (R52..R57, R85..R90). Formats are the TARGET codes of Table 3.4. -/
structure TensorCmd where
  fmtA      : Nat
  fmtW      : Nat
  sparse    : Bool
  m         : Nat
  n         : Nat
  k         : Nat
  actVA     : Nat
  actScale  : Nat          -- address of the activation scale plane rows
  wVA       : Nat
  wScale    : Nat          -- address of the weight scale planes
  idxVA     : Nat          -- index plane of 2:4 sparse weights
  zeroPoint : Int
  colsumVA  : Nat
  scaleAct  : Word         -- FP32
  scaleWVA  : Nat          -- FP32 per column, or one value
  perColumn : Bool
  outKind   : Nat          -- 0 FP32; 1 BF16; 2 through the record
  record    : Nat
  outVA     : Nat
  outScale  : Nat          -- sideband plane of a block output
  deriving DecidableEq, Repr

/-- A lane operation of the vector unit (R58). -/
inductive VectorOp where
  | fma   (d a b c : Nat)
  | exp2  (d a : Nat)
  | recip (d a : Nat)
  | rsqrt (d a : Nat)
  | load  (d va : Nat)
  | store (a va : Nat)
  deriving DecidableEq, Repr

/-- A chain of vector result, rotation and scale (R61). -/
structure ChainCmd where
  srcReg  : Nat
  regs    : Nat
  block   : Nat            -- 0: no rotation; otherwise 32, 64 or 128
  record  : Option Nat
  outVA   : Nat
  outScale : Nat
  deriving DecidableEq, Repr

/-- A rotation unit command on one row (R95, R96). -/
structure RotateCmd where
  block : Nat
  len   : Nat
  bf16  : Bool
  srcVA : Nat
  dstVA : Nat
  deriving DecidableEq, Repr

/-- A scale unit command: narrows `count` FP32 values with a record (R97..R103). -/
structure ScaleCmd where
  record   : Nat
  count    : Nat
  srcVA    : Nat
  dstVA    : Nat
  dstScale : Nat
  deriving DecidableEq, Repr

/-- A stream decoder command: one chunk of a stream into an engine tile (R132..R135). -/
structure DecodeCmd where
  headerVA : Nat
  chunk    : Nat
  dstVA    : Nat
  dstScale : Nat
  deriving DecidableEq, Repr

/-- A data mover transfer (R48, R69): addresses are virtual, or a global address of a peer (R22). -/
structure MoveCmd where
  srcVA  : Nat
  dstVA  : Nat
  bytes  : Nat
  remote : Option Nat      -- the module the source lies on, when it is not the issuing one
  data   : List Byte       -- what the remote module sends
  dest   : Option Nat      -- the module the destination lies on, when it is not the issuing one
  deriving DecidableEq, Repr

/-- What a unit command's descriptor says; the descriptor layouts are not given (R582). -/
inductive UnitOp where
  | tensor  (c : TensorCmd)
  | vector  (op : VectorOp)
  | chain   (c : ChainCmd)
  | rotate  (c : RotateCmd)
  | scale   (c : ScaleCmd)
  | stepClose (record : Nat) (summary : Option Nat)
  | decode  (c : DecodeCmd)
  | move    (c : MoveCmd)
  | barrier (b local_ : Nat)                                 -- BARRIER of R509
  | launchBarrier                                            -- LBAR of R585
  | invalid                                                  -- a descriptor that fails R582's check
  deriving DecidableEq, Repr

/-- What a gated input of Cowslip shows in both copies at a gate close (R402). -/
structure GateSample where
  valueA   : Nat
  valueB   : Nat
  changedA : Bool
  changedB : Bool
  deriving DecidableEq, Repr

/-- A contact pattern of SAFE_A or SAFE_B (Table 14.6). -/
inductive Pattern where
  | sto
  | run
  | fault
  deriving DecidableEq, Repr

/-- A join request (R502). -/
structure JoinRequest where
  module_  : Nat
  mask     : Nat
  imageId  : DWord
  imageVer : Word
  digest   : List Byte
  glbId    : Word
  fixed    : Bool
  rev      : Nat           -- REV_LETTER and REV_DIGIT of GLB_ID
  reach    : Nat           -- modules the joining one has an UP port to
  members  : List (Nat × Bool)  -- each member's answer: in IMAGE_HOLD or the safe state
  deriving DecidableEq, Repr

/-- A LOST or LEFT message (R506). -/
inductive LossMessage where
  | lost (m : Nat)
  | left (m : Nat)
  deriving DecidableEq, Repr

/-- What starts a retrain (R499). -/
inductive RetrainCause where
  | replays
  | laneLock
  | command
  deriving DecidableEq, Repr

/-- A peer's remote access (R497, R35). -/
structure RemoteReq where
  peer  : Nat
  write : Bool
  addr  : Nat              -- LOCAL address
  bytes : Nat
  data  : List Byte
  /-- A FENCE capture request instead of an access (R219): the queue here, whether a management queue asks, and the owner of the
  queue that asks. -/
  fence : Option (Nat × Bool × Nat)
  deriving DecidableEq, Repr

/-- A management frame as it arrives (R573, Table 23.3). -/
structure MgmtFrame where
  dst     : Nat
  src     : Nat
  vlan    : Option Nat
  fcsOk   : Bool
  payload : List Byte
  deriving DecidableEq, Repr

/-- What answers an indirect PCIe access (R566). -/
inductive PcieCompletion where
  | data (v : Word)
  | unsupported
  | timeout
  deriving DecidableEq, Repr

/-- A downstream device's inbound request (R566). -/
structure PcieRequest where
  write : Bool
  addr  : Nat
  bytes : Nat
  data  : List Byte
  deriving DecidableEq, Repr

/-- A request in the debug request page (R594). -/
inductive CowslipRequest where
  | read (addr : Nat) (value : Word)   -- what copy A's register or memory word holds
  | halt
  | step
  | write (addr : Nat) (value : Word)
  deriving DecidableEq, Repr

/-- What the patrol scrubber finds at a word (R140). -/
inductive ScrubResult where
  | clean
  | corrected
  | uncorrectable
  deriving DecidableEq, Repr

/-- The commands of the block: one constructor per row of the opcode table. -/
inductive Instr where
  -- power, contacts and bring-up
  | powerOnReset (msel failedInjection : Nat)
  | rstNAssert
  | rstNRelease (msel failedInjection : Nat)
  | bootDone
  | trialBootTimeout (failedInjection : Nat)
  | identityTreeRebuild
  | wakeNLow (failedInjection : Nat)
  | wakeAfterMsExpiry (failedInjection : Nat)
  | presNChange (present : Bool)
  | presTermRemoval
  | vinLow (mv : Nat)
  | busShutoff
  | phaseFault (phase : Nat) (cause : PhaseCause)
  | powerSample (vinMv : Nat) (currentsMa : List Nat) (eUw : Nat)
  | boostStep
  | railRampDone
  | powerMessageReceive (member own mhz : Nat)
  | jobShareAdopt
  | thermalScan (temps : List Nat)
  | thermalTrip (sensor : Nat)
  | thermalShutdown (sensor : Nat)
  | coolantSample (inletDeciC outletDeciC : Nat)
  -- triggers, rings
  | triggerFire (trig failedInjection : Nat)
  | ringDeliverCopy (port : Nat)
  | ringFrameReturn (port : Nat) (ret : RingReturn)
  | ringFrameOutcome (port : Nat) (out : RingOutcome)
  | ringLinkChange (port : Nat) (endB up : Bool)
  | ringDiscoverReturn (port : Nat) (ret : DiscoverReturn)
  | ringLayoutReturn (port : Nat)
  -- contexts and queues
  | frameRelease (ctx : Nat)
  | preclear (ctx : Nat)
  | preclearLift (ctx : Nat)
  | sliceEnd (lane : Nat)
  | npForced (ctx : Nat)
  | goldenFrameStart
  | goldenOverdue
  | commandStart (q : Nat)
  | replyPost (q : Nat)
  | fenceTimeout (q : Nat)
  | teardownComplete (ctx : Nat)
  | kvRegionInitDone (ctx : Nat)
  -- threads and units
  | scalarInstruction (tile thread : Nat) (op : ScalarOp)
  | halt (tile thread : Nat)
  | ucmd (tile thread : Nat) (op : UnitOp)
  | unitCommandStart (tile unit_ : Nat)
  | unitCommandComplete (tile unit_ : Nat)
  | stepClose (tile ctx record : Nat) (summary : Option Nat)
  | twait (tile thread : Nat)
  | level (tile thread : Nat)
  | dbell (tile thread : Nat)
  | qwait (tile thread : Nat)
  | npenter (tile thread : Nat)
  | npexit (tile thread : Nat)
  | jbar (tile thread : Nat)
  | barrierArrival (member barrier : Nat)
  | lbar (tile thread : Nat)
  | tnow (tile thread : Nat)
  | cwld (tile thread : Nat) (remote : Word) (answer : PcieCompletion)
  | cwst (tile thread : Nat) (answer : PcieCompletion)
  -- tile commands
  | kernelLaunch (q n : Nat)
  | shareZero (q n : Nat)
  | perfSnapshot (q n : Nat)
  -- KV commands
  | seqCreate (q n : Nat)
  | seqFree (q n : Nat)
  | seqFork (q n : Nat)
  | prefixMatch (q n : Nat)
  | seqExtend (q n : Nat)
  | seqTruncate (q n : Nat)
  | seqTrim (q n : Nat)
  | kvWrite (q n : Nat)
  | attend (q n : Nat)
  | stepRetire (q n : Nat)
  -- memory-move commands
  | migrate (q n : Nat)
  | copy (q n : Nat)
  | fill (q n : Nat)
  | translationInvalidate (q n : Nat)
  -- planner commands
  | mapUpdate (q n : Nat)
  | mapPublish (q n : Nat)
  | planQuery (q n : Nat)
  | planCheck (q n : Nat)
  | libLoad (q n : Nat)
  -- sensor commands
  | streamStart (q n : Nat)
  | streamStop (q n : Nat)
  | sampleRead (q n : Nat)
  | calibFeed (q n : Nat)
  | calibSet (q n : Nat)
  | calibRead (q n : Nat)
  -- configuration sets
  | setWrite (q n : Nat)
  | setCommit (q n : Nat)
  | setRead (q n : Nat)
  | imageHoldTimeout
  -- management and power commands
  | fence (q n : Nat) (answers : FenceAnswers)
  | powerCapSet (q n : Nat)
  | powerModeSet (q n : Nat)
  | powerRead (q n : Nat)
  | storeWrite (q n : Nat)
  | storeVerify (q n : Nat)
  | fwActivate (q n : Nat)
  | rollbackRaise (q n : Nat)
  | attest (q n : Nat)
  | identityRead (q n : Nat)
  | measExtend (q n : Nat)
  | warmReset (q n failedInjection : Nat)
  | powerStateSet (q n : Nat)
  | netSend (q n : Nat)
  | regRead (q n : Nat) (remote : List Word) (answers : List PcieCompletion)
  | regWrite (q n : Nat) (answers : List PcieCompletion)
  -- recorder
  | logRead (q n : Nat)
  | logFreeze (q n : Nat)
  | logThaw (q n : Nat)
  | logClear (q n : Nat)
  | freezeExpired
  | logRecordWrite
  | recordStaging
  | opSecondsTick
  -- safety
  | safeRead (q n : Nat)
  | safeModeSet (q n : Nat)
  | safeStopRequest (q n : Nat)
  | checkInput (q n : Nat)
  | mainOutput (q n : Nat)
  | thistlePassDone (outputs : List Word) (uncorrectable : Bool)
  | comparatorDecision
  | compareDeadline
  | verdictAction
  | goldenFrameCheck
  | goldenPassOverdue
  | sampleGateClose (inputs : List GateSample)
  | cowslipFrameTick
  | lockstepMismatch
  | stopDiscrepancy
  | watchdogExpiry
  | outputReadbackCheck (seenA seenB : Pattern)
  | clockMonitor (copyB : Bool) (kHz : Nat)
  | cowslipDebugHalt
  | postureSettled
  | safeTimeout
  | proofIntervalDue
  -- links
  | jobJoin (q n : Nat) (masks : List Nat) (refused : Option (Nat × Nat))
  | joinRequestReceive (port : Nat) (req : JoinRequest)
  | joinCommitReceive (port module_ mask : Nat)
  | joinTimeout
  | jobLeave (q n : Nat)
  | lossMessageReceive (port : Nat) (msg : LossMessage)
  | linkRetrain (q n : Nat)
  | linkRead (q n : Nat)
  | flitReplay (port : Nat) (fec : Bool)
  | retrainStart (port : Nat) (cause : RetrainCause)
  | retrainEnd (port : Nat) (success : Bool) (lockedLanes : Nat)
  | lanesSilent (port : Nat)
  | linkTrainDone (port : Nat) (success : Bool) (peer : Nat)
  | linkFailedHoldoff (port : Nat)
  | remoteAccess (req : RemoteReq) (answer : PcieCompletion)
  -- time
  | timeSetIncr (q n : Nat)
  | triggerArm (q n : Nat)
  | timeRead (q n : Nat)
  | syncReceive (domain : Nat) (sync : SyncIn)
  | syncLost (domain : Nat)
  | holdoverEnd
  | domainReturn
  | steeringUpdate
  | gateEntryExpiry (port : Nat)
  | netFrameTransmit (port : Nat)
  -- management frames
  | mgmtSubmit (port : Nat) (frame : MgmtFrame)
  | mgmtPoll (port : Nat) (frame : MgmtFrame)
  | mgmtFrameRefused (port : Nat) (frame : MgmtFrame)
  | replyFrameSend (port : Nat)
  | replyResend (port : Nat)
  -- sensors
  | sampleIngress (stream : Nat) (sample : SampleIn) (ticksAgo : Nat)
  | fuseRecordRelease (group : Nat)
  | fuseReleaseDeadline (group : Nat)
  -- control commands
  | loopEnable (q n : Nat)
  | loopDisable (q n : Nat)
  | coefWrite (q n : Nat)
  | bankSwap (q n : Nat)
  | setpointWrite (q n : Nat)
  | tripClear (q n : Nat)
  | loopRead (q n : Nat)
  -- ring commands
  | ringPortStart (q n : Nat)
  | ringPortStop (q n : Nat)
  | ringWordWrite (q n : Nat)
  | ringSnapshot (q n : Nat)
  | teaselArm (q n : Nat)
  | teaselRelease (q n : Nat)
  -- register writes with rows of their own
  | qmgrDoorbellWrite (agent : Agent) (value : Word)
  | queueCfgWrite (agent : Agent) (off : Nat) (value : Word)
  | ctxReset (agent : Agent) (ctx : Nat)
  | tileShareWrite (agent : Agent) (tile ctx : Nat) (value : Word)
  | tileThrAssign (agent : Agent) (tile thread ctx : Nat)
  | tileThrRelease (agent : Agent) (tile thread ctx : Nat)
  | perfClear (agent : Agent) (tile : Nat)
  | tileFaultClear (agent : Agent) (tile : Nat)
  | tileDbgHalt (agent : Agent) (tile thread : Nat)
  | tileDbgResume (agent : Agent) (tile thread : Nat)
  | tileDbgStep (agent : Agent) (tile thread : Nat)
  | tileDbgRegWrite (agent : Agent) (tile thread reg : Nat) (value : DWord)
  | memCtxWrite (agent : Agent) (off : Nat) (value : Word)
  | kvmCtxWrite (agent : Agent) (off : Nat) (value : Word)
  | ctlCfgWrite (agent : Agent) (off : Nat) (value : Word)
  | ctlCommit (agent : Agent) (value : Word)
  | ringCfgWrite (agent : Agent) (off : Nat) (value : Word)
  | timeSet (agent : Agent) (value : DWord)
  | timeCfgWrite (agent : Agent) (off : Nat) (value : Word)
  | safeReqReq (agent : Agent) (cause : Nat)
  | safeReqSto (agent : Agent)
  | safeWdtServe (agent : Agent) (key : Word)
  | pwrCfgWrite (agent : Agent) (off : Nat) (value : Word)
  | pcieInboundWrite (agent : Agent) (value : DWord)
  | pcieCfgRead (agent : Agent) (answer : PcieCompletion)
  | pcieCfgWrite (agent : Agent) (value : Word) (answer : PcieCompletion)
  | pcieMemRead (agent : Agent) (answer : PcieCompletion)
  | pcieMemWrite (agent : Agent) (value : Word) (answer : PcieCompletion)
  | pcieInboundRequest (req : PcieRequest)
  | pcieLinkChange (up : Bool) (speed width : Nat)
  | memDbgAddrWrite (agent : Agent) (value : Word)
  | debugReadComplete
  | registerWrite (agent : Agent) (off : Nat) (value : Word)
  -- memory upkeep and the rest
  | scrubPassRead (addr : Nat) (result : ScrubResult)
  | corrHourRoll
  | trainingPatternSeen (port : Nat)
  | gmChange (domain : Nat) (self : Bool) (master : Master)
  | syncTransmit (domain : Nat)
  | stopInput (copyB : Bool)
  | otherDropped (port : Nat)
  | cowslipRequestPagePoll (reqs : List CowslipRequest)
  | safetySramScrub (thistleCorr cowslipCorr : Nat) (cowslipUncorr : Bool)
  deriving DecidableEq, Repr

end Sys2Proof
end

