-- ==== Sys2Proof/Machine/Bits.lean ====
section
/-! DEFINITION. Bit fields, sign extension, byte order (R5: little-endian) and small integer helpers. -/

namespace Sys2Proof.Machine

/-- Bits `hi..lo` of a number. -/
def bits (w hi lo : Nat) : Nat := (w / 2 ^ lo) % 2 ^ (hi + 1 - lo)

/-- Bit `i` of a number. -/
def bitAt (w i : Nat) : Bool := (w / 2 ^ i) % 2 = 1

/-- Put `v` into bits `hi..lo` of `w`. -/
def setBits (w hi lo v : Nat) : Nat :=
  w - bits w hi lo * 2 ^ lo + (v % 2 ^ (hi + 1 - lo)) * 2 ^ lo

/-- Set or clear bit `i`. -/
def setBit (w i : Nat) (b : Bool) : Nat := setBits w i i (if b then 1 else 0)

/-- 1 or 0. -/
def b2n (b : Bool) : Nat := if b then 1 else 0

/-- The two's complement value of the low `n` bits (s16, s32, s64 of the notation). -/
def sint (n w : Nat) : Int :=
  let v := w % 2 ^ n
  if v < 2 ^ (n - 1) then (v : Int) else (v : Int) - (2 ^ n : Nat)

/-- The `n`-bit two's complement word of an integer. -/
def wrapInt (n : Nat) (i : Int) : Nat := (i % (2 ^ n : Nat)).toNat

/-- Clamp an integer to `lo..hi`. -/
def clampInt (lo hi i : Int) : Int := if i < lo then lo else if hi < i then hi else i

/-- Saturating unsigned add into `n` bits. -/
def satAdd (n a b : Nat) : Nat := min (a + b) (2 ^ n - 1)

/-- Little-endian value of bytes (R5). -/
def leNat : List Byte → Nat
  | [] => 0
  | b :: bs => b.toNat + 256 * leNat bs

/-- `n` little-endian bytes of a value (R5). -/
def leBytes : Nat → Nat → List Byte
  | 0, _ => []
  | n + 1, v => BitVec.ofNat 8 v :: leBytes n (v / 256)

/-- Bytes `off..off+n-1` of a block, as a little-endian value; a missing byte counts as 0. -/
def fieldAt (bs : List Byte) (off n : Nat) : Nat := leNat ((bs.drop off).take n)

/-- Bytes `off..off+n-1` of a block. -/
def slice (bs : List Byte) (off n : Nat) : List Byte := (bs.drop off).take n

/-- Every byte is zero. -/
def allZero : List Byte → Bool
  | [] => true
  | b :: bs => decide (b = 0) && allZero bs

/-- A block brought to exactly `n` bytes: cut, or filled with zero bytes. -/
def padTo (n : Nat) (bs : List Byte) : List Byte := bs.take n ++ List.replicate (n - bs.length) 0

/-- Replace bytes `off..` of a block by `v`. -/
def putAt (bs : List Byte) (off : Nat) (v : List Byte) : List Byte :=
  bs.take off ++ v ++ bs.drop (off + v.length)

/-- The words of a block of bytes, little-endian, four bytes each. -/
def bytesToWords : Nat → List Byte → List Word
  | 0, _ => []
  | n + 1, bs => BitVec.ofNat 32 (leNat (bs.take 4)) :: bytesToWords n (bs.drop 4)

/-- The bytes of words, little-endian. -/
def wordsToBytes : List Word → List Byte
  | [] => []
  | w :: ws => leBytes 4 w.toNat ++ wordsToBytes ws

/-- Cut a block into pieces of `n` bytes. -/
def chunks : Nat → Nat → List Byte → List (List Byte)
  | 0, _, _ => []
  | k + 1, n, bs => bs.take n :: chunks k n (bs.drop n)

/-- Position of the lowest set bit below `n` of a mask. -/
def lowestBit (m : Nat) : Nat → Option Nat
  | 0 => none
  | n + 1 => match lowestBit m n with
    | some i => some i
    | none => if bitAt m n then some n else none

/-- The numbers below `n` whose bit is set in `m`, rising. -/
def setBitsOf (m n : Nat) : List Nat := (List.range n).filter (fun i => bitAt m i)

/-- The number of set bits below `n`. -/
def popCount (m n : Nat) : Nat := (setBitsOf m n).length

/-- Ceiling of a division. -/
def ceilDiv (a b : Nat) : Nat := (a + b - 1) / b

/-- Integer division that rounds to nearest, ties to even. -/
def divRne (a b : Nat) : Nat :=
  let q := a / b
  let r := a % b
  if 2 * r < b then q else if b < 2 * r then q + 1 else if q % 2 = 0 then q else q + 1

/-- The greatest `r ≤ 2^n` with `r * r ≤ a`, found bit by bit from bit `n - 1`. -/
def isqrtBits (a : Nat) : Nat → Nat → Nat
  | 0, r => r
  | n + 1, r => let r' := r + 2 ^ n; if r' * r' ≤ a then isqrtBits a n r' else isqrtBits a n r

/-- Integer square root of a value below `2^128`. -/
def isqrt (a : Nat) : Nat := isqrtBits a 64 0

/-- Update position `i` of a list. -/
def listSet {α : Type} (l : List α) (i : Nat) (v : α) : List α := l.set i v

/-- Insert into a list sorted by a key, after equal keys. -/
def insertBy {α : Type} (key : α → Nat) (x : α) : List α → List α
  | [] => [x]
  | y :: ys => if key x < key y then x :: y :: ys else y :: insertBy key x ys

/-- Sort by a key, keeping the order of equal keys. -/
def sortBy {α : Type} (key : α → Nat) : List α → List α
  | [] => []
  | x :: xs => insertByFront key x (sortBy key xs)
where
  /-- Insert before equal keys, so that the sort is stable. -/
  insertByFront {α : Type} (key : α → Nat) (x : α) : List α → List α
    | [] => [x]
    | y :: ys => if key x ≤ key y then x :: y :: ys else y :: insertByFront key x ys

end Sys2Proof.Machine
end

