-- ==== Sys2Proof/Machine/Hss.lean ====
section
/-! DEFINITION. Verification of HSS signatures (R518). The spec names RFC 8554 for it; the arithmetic below is PRESUMED from
that standard (log entry 32). Only the parameter sets that R518 allows verify. -/

namespace Sys2Proof.Machine

/-- A big-endian value of bytes. -/
def beNat (bs : List Byte) : Nat := leNat bs.reverse

/-- Height of an allowed LMS type: LMS_SHA256_M32_H10, H15, H20. -/
def lmsHeight (t : Nat) : Option Nat := if t = 6 then some 10 else if t = 7 then some 15 else if t = 8 then some 20 else none

/-- Parameters (w, p, ls) of an allowed LM-OTS type: LMOTS_SHA256_N32_W4, W8. -/
def otsParams (t : Nat) : Option (Nat × Nat × Nat) :=
  if t = 3 then some (4, 67, 4) else if t = 4 then some (8, 34, 0) else none

/-- Coefficient `i` of width `w` of a byte string. -/
def otsCoef (w : Nat) (s : List Byte) (i : Nat) : Nat :=
  (s.getD (i * w / 8) 0).toNat / 2 ^ (8 - w * (i % (8 / w)) - w) % 2 ^ w

/-- Checksum of a 32-byte digest. -/
def otsChecksum (w ls : Nat) (d : List Byte) : Nat :=
  (List.range (256 / w)).foldl (fun a i => a + (2 ^ w - 1 - otsCoef w d i)) 0 * 2 ^ ls

/-- One hash chain from step `j` on, for `k` steps. -/
def otsChain (pre : List Byte) : (k j : Nat) → List Byte → List Byte
  | 0, _, x => x
  | k + 1, j, x => otsChain pre k (j + 1) (sha256 (pre ++ beBytes 1 j ++ x))

/-- The LM-OTS public key that a signature gives for a message: `c` the randomizer, `y` the chain values. -/
def otsCandidate (w p ls : Nat) (id : List Byte) (q : Nat) (c y msg : List Byte) : List Byte :=
  let pre := id ++ beBytes 4 q
  let d := sha256 (pre ++ [0x81, 0x81] ++ c ++ msg)
  let d := d ++ beBytes 2 (otsChecksum w ls d)
  let z := (List.range p).flatMap (fun i =>
    let a := otsCoef w d i
    otsChain (pre ++ beBytes 2 i) (2 ^ w - 1 - a) a (slice y (32 * i) 32))
  sha256 (pre ++ [0x80, 0x80] ++ z)

/-- The root that a leaf and its path give; `node` counts from the leaf up. -/
def lmsRoot (id : List Byte) : List (List Byte) → (node : Nat) → List Byte → List Byte
  | [], _, x => x
  | sib :: rest, node, x =>
    let pair := if node % 2 = 1 then sib ++ x else x ++ sib
    lmsRoot id rest (node / 2) (sha256 (id ++ beBytes 4 (node / 2) ++ [0x83, 0x83] ++ pair))

/-- Bytes of an LMS signature with the types inside it, when they are allowed. -/
def lmsSigLen (sig : List Byte) : Option Nat :=
  match otsParams (beNat (slice sig 4 4)) with
  | none => none
  | some (_, p, _) => (lmsHeight (beNat (slice sig (40 + 32 * p) 4))).map (fun h => 44 + 32 * p + 32 * h)

/-- An LMS signature of exactly its length verifies a message under a 56-byte LMS public key. -/
def lmsVerifies (key msg sig : List Byte) : Bool :=
  match otsParams (beNat (slice sig 4 4)), lmsHeight (beNat (slice key 0 4)) with
  | some (w, p, ls), some h =>
    let q := beNat (slice sig 0 4)
    let id := slice key 8 16
    let at_ := 40 + 32 * p
    let kc := otsCandidate w p ls id q (slice sig 8 32) (slice sig 40 (32 * p)) msg
    let leaf := sha256 (id ++ beBytes 4 (2 ^ h + q) ++ [0x82, 0x82] ++ kc)
    decide (slice key 4 4 = slice sig 4 4 ∧ slice key 0 4 = slice sig at_ 4 ∧ q < 2 ^ h
      ∧ sig.length = at_ + 4 + 32 * h ∧ key.length = 56)
      && decide (lmsRoot id (chunks h 32 (sig.drop (at_ + 4))) (2 ^ h + q) leaf = slice key 24 32)
  | _, _ => false

/-- An HSS signature of L = 1 or 2 levels verifies under a 60-byte HSS public key. -/
def hssVerifies (key msg sig : List Byte) : Bool :=
  let l := beNat (slice key 0 4)
  let n := beNat (slice sig 0 4)
  let sig := sig.drop 4
  let key := key.drop 4
  if l = 1 ∧ n = 0 then lmsVerifies key msg sig
  else if l = 2 ∧ n = 1 then
    match lmsSigLen sig with
    | none => false
    | some k => lmsVerifies key (slice sig k 56) (sig.take k) && lmsVerifies (slice sig k 56) msg (sig.drop (k + 56))
  else false

end Sys2Proof.Machine
end

