-- ==== Sys2Proof/Machine/Fp.lean ====
section
/-! DEFINITION. Exact binary arithmetic and the one rounding of R91: values are kept exactly as signed dyadics, and every
narrowing rounds once, to nearest, ties to even, saturating as R92 says. -/

namespace Sys2Proof.Machine

/-- An exact value: NaN, an infinity, or `±m × 2^e` (a zero keeps its sign). -/
inductive Num where
  | nan
  | inf (neg : Bool)
  | fin (neg : Bool) (m : Nat) (e : Int)
  deriving DecidableEq, Repr

/-- +0. -/
def Num.zero : Num := .fin false 0 0

/-- An integer as an exact value. -/
def Num.ofInt (i : Int) : Num := .fin (decide (i < 0)) i.natAbs 0

/-- Negation. -/
def Num.neg : Num → Num
  | .nan => .nan
  | .inf s => .inf !s
  | .fin s m e => .fin (!s) m e

/-- Magnitude. -/
def Num.abs : Num → Num
  | .nan => .nan
  | .inf _ => .inf false
  | .fin _ m e => .fin false m e

/-- Neither NaN nor infinite. -/
def Num.isFin : Num → Bool
  | .fin _ _ _ => true
  | _ => false

/-- NaN. -/
def Num.isNan : Num → Bool
  | .nan => true
  | _ => false

/-- A zero of either sign. -/
def Num.isZero : Num → Bool
  | .fin _ m _ => decide (m = 0)
  | _ => false

/-- The sign bit. -/
def Num.sign : Num → Bool
  | .nan => false
  | .inf s => s
  | .fin s _ _ => s

/-- `m × 2^(e - lo)` for `lo ≤ e`, signed. -/
def dyInt (s : Bool) (m : Nat) (e lo : Int) : Int :=
  let v : Int := (m * 2 ^ (e - lo).toNat : Nat)
  if s then -v else v

/-- Exact sum, with the zero signs of R91. -/
def Num.add : Num → Num → Num
  | .nan, _ => .nan
  | _, .nan => .nan
  | .inf s, .inf t => if s = t then .inf s else .nan
  | .inf s, .fin _ _ _ => .inf s
  | .fin _ _ _, .inf t => .inf t
  | .fin s m e, .fin t n f =>
    if m = 0 ∧ n = 0 then .fin (s && t) 0 0
    else
      let lo := if e ≤ f then e else f
      let v := dyInt s m e lo + dyInt t n f lo
      if v = 0 then .fin false 0 0 else .fin (decide (v < 0)) v.natAbs lo

/-- Exact difference. -/
def Num.sub (a b : Num) : Num := a.add b.neg

/-- Exact product. -/
def Num.mul : Num → Num → Num
  | .nan, _ => .nan
  | _, .nan => .nan
  | .inf s, .inf t => .inf (s != t)
  | .inf s, .fin t n _ => if n = 0 then .nan else .inf (s != t)
  | .fin s m _, .inf t => if m = 0 then .nan else .inf (s != t)
  | .fin s m e, .fin t n f => .fin (s != t) (m * n) (e + f)

/-- Quotient with a sticky last bit, exact for every rounding of this model. -/
def Num.div : Num → Num → Num
  | .nan, _ => .nan
  | _, .nan => .nan
  | .inf _, .inf _ => .nan
  | .inf s, .fin t _ _ => .inf (s != t)
  | .fin s _ _, .inf t => .fin (s != t) 0 0
  | .fin s m e, .fin t n f =>
    if n = 0 then (if m = 0 then .nan else .inf (s != t))
    else
      let k := Nat.log2 n + 400
      let q := m * 2 ^ k / n
      let r := m * 2 ^ k % n
      .fin (s != t) (2 * q + (if r = 0 then 0 else 1)) (e - f - (k + 1 : Nat))

/-- `2^k`. -/
def Num.pow2 (k : Int) : Num := .fin false 1 k

/-- Multiply by `2^k`. -/
def Num.scale (a : Num) (k : Int) : Num :=
  match a with
  | .fin s m e => .fin s m (e + k)
  | x => x

/-- Order of two values that are not NaN: the sign of `a - b`. -/
def Num.cmp (a b : Num) : Int :=
  match a, b with
  | .nan, _ => 0
  | _, .nan => 0
  | .inf s, .inf t => (if s then -1 else 1) - (if t then -1 else 1)
  | .inf s, .fin _ _ _ => if s then -1 else 1
  | .fin _ _ _, .inf t => if t then 1 else -1
  | .fin s m e, .fin t n f =>
    let lo := if e ≤ f then e else f
    dyInt s m e lo - dyInt t n f lo

/-- `a < b`; false with a NaN. -/
def Num.lt (a b : Num) : Bool := !a.isNan && !b.isNan && decide (Num.cmp a b < 0)

/-- `a ≤ b`; false with a NaN. -/
def Num.le (a b : Num) : Bool := !a.isNan && !b.isNan && decide (Num.cmp a b ≤ 0)

/-- The larger of two values that are not NaN. -/
def Num.max (a b : Num) : Num := if a.lt b then b else a

/-- Exponent of the leading bit: the greatest `k` with `2^k ≤ |a|`, for a non-zero finite value. -/
def Num.lead : Num → Int
  | .fin _ m e => (Nat.log2 m : Int) + e
  | _ => 0

/-- A value as an exact integer, rounded to nearest, ties to even. -/
def Num.rneInt : Num → Int
  | .fin s m e =>
    let v : Nat := if 0 ≤ e then m * 2 ^ e.toNat else divRne m (2 ^ (-e).toNat)
    if s then -(v : Int) else v
  | _ => 0

/-- A floating-point format: mantissa bits, exponent of its smallest step, the code of its largest finite magnitude. -/
structure Fmt where
  mb   : Nat
  qmin : Int
  maxCode : Nat
  deriving DecidableEq, Repr

/-- FP32 (Table 3.1). -/
def Fmt.fp32 : Fmt := ⟨23, -149, 0x7F7FFFFF⟩
/-- BF16. -/
def Fmt.bf16 : Fmt := ⟨7, -133, 0x7F7F⟩
/-- FP8 E4M3. -/
def Fmt.e4m3 : Fmt := ⟨3, -9, 0x7E⟩
/-- FP8 E5M2. -/
def Fmt.e5m2 : Fmt := ⟨2, -16, 0x7B⟩
/-- FP4 E2M1. -/
def Fmt.e2m1 : Fmt := ⟨1, -1, 0x7⟩
/-- UE5M3 (Table 3.2). -/
def Fmt.ue5m3 : Fmt := ⟨3, -17, 0xFF⟩

/-- The magnitude code nearest to a finite magnitude, ties to even, before saturation (R91). -/
def roundMag (f : Fmt) (m : Nat) (e : Int) : Nat :=
  if m = 0 then 0 else
    let top : Int := (Nat.log2 m : Int) + e - f.mb
    let q := if top < f.qmin then f.qmin else top
    let k := if q ≤ e then m * 2 ^ (e - q).toNat else divRne m (2 ^ (q - e).toNat)
    (q - f.qmin).toNat * 2 ^ f.mb + k

/-- Magnitude code and whether it saturated (R92); a NaN gives 0 here, its own code is the caller's. -/
def roundSat (f : Fmt) : Num → Nat × Bool
  | .nan => (0, false)
  | .inf _ => (f.maxCode, true)
  | .fin _ m e => let c := roundMag f m e; if f.maxCode < c then (f.maxCode, true) else (c, false)

/-- The value of a magnitude code. -/
def magVal (f : Fmt) (neg : Bool) (code : Nat) : Num :=
  let ex := code / 2 ^ f.mb
  let mant := code % 2 ^ f.mb
  if ex = 0 then .fin neg mant f.qmin else .fin neg (2 ^ f.mb + mant) (f.qmin + (ex - 1 : Nat))

/-- The value an FP32 word encodes (Table 3.1). -/
def val32 (w : Word) : Num :=
  let n := w.toNat
  let neg := bitAt n 31
  let mag := n % 2 ^ 31
  if mag < 0x7F800000 then magVal .fp32 neg mag else if mag = 0x7F800000 then .inf neg else .nan

/-- One rounding to FP32 (R91, R92). The quiet NaN it writes is 0x7FC00000 (DESIGN CHOICE, log entry 64: R92 names no payload). -/
def rne32 (a : Num) : Word :=
  match a with
  | .nan => 0x7FC00000
  | _ => BitVec.ofNat 32 (b2n a.sign * 2 ^ 31 + (roundSat .fp32 a).1)

/-- Whether that rounding saturates (R92). -/
def sat32 (a : Num) : Bool := (roundSat .fp32 a).2

/-- Sum rounded to FP32. -/
def fadd32 (a b : Word) : Word := rne32 ((val32 a).add (val32 b))
/-- Difference rounded to FP32. -/
def fsub32 (a b : Word) : Word := rne32 ((val32 a).sub (val32 b))
/-- Product rounded to FP32. -/
def fmul32 (a b : Word) : Word := rne32 ((val32 a).mul (val32 b))
/-- Quotient rounded to FP32. -/
def fdiv32 (a b : Word) : Word := rne32 ((val32 a).div (val32 b))
/-- Fused multiply-add rounded to FP32. -/
def fma32 (a b c : Word) : Word := rne32 (((val32 a).mul (val32 b)).add (val32 c))
/-- `a < b` on FP32 values. -/
def flt32 (a b : Word) : Bool := (val32 a).lt (val32 b)
/-- `a ≤ b` on FP32 values. -/
def fle32 (a b : Word) : Bool := (val32 a).le (val32 b)
/-- Magnitude of an FP32 value. -/
def fabs32 (a : Word) : Word := a &&& 0x7FFFFFFF
/-- Negation of an FP32 value. -/
def fneg32 (a : Word) : Word := a ^^^ 0x80000000
/-- Whether an FP32 word is finite. -/
def finite32 (a : Word) : Bool := (val32 a).isFin
/-- An integer as FP32. -/
def ofInt32 (i : Int) : Word := rne32 (Num.ofInt i)
/-- FP32 1.0. -/
def one32 : Word := 0x3F800000

/-! ### Functions that are not exact (R58, R91, R169, R352)

Their values are irrational but for the cases named below: a value computed to more than 480 binary places, with a sticky last
bit, rounds as the exact value does (log entry 63). -/

/-- Binary places of the fixed-point series. -/
def fixBits : Nat := 512

/-- The sum of `n` terms of u + u³/3 + u⁵/5 + …, from term `k` with `t` = u^(2k+1) and `sq` = u². -/
def artanhSum : (n k t sq : Nat) → Nat
  | 0, _, _, _ => 0
  | n + 1, k, t, sq => t / (2 * k + 1) + artanhSum n (k + 1) (t * sq / 2 ^ fixBits) sq

/-- ln (a / b) for b ≤ a ≤ 2 b. -/
def lnFix (a b : Nat) : Nat :=
  let u := (a - b) * 2 ^ fixBits / (a + b)
  2 * artanhSum 170 0 u (u * u / 2 ^ fixBits)

/-- ln 2. -/
def ln2Fix : Nat := lnFix 2 1

/-- The sum of `n` terms of 1 + x + x²/2 + …, from term `k`, which is `t`. -/
def expSum : (n k t x : Nat) → Nat
  | 0, _, _, _ => 0
  | n + 1, k, t, x => t + expSum n (k + 1) (t * x / 2 ^ fixBits / (k + 1)) x

/-- A fixed-point value that is not exact, with its sticky bit, over `2^places`. -/
def stickyNum (v : Int) (places : Nat) : Num := .fin (decide (v < 0)) (2 * v.natAbs + 1) (-(places + 1 : Nat))

/-- 2 to the power of an FP32 value; 2^−∞ is 0 (R167), and only whole powers are exact. -/
def Num.exp2 : Num → Num
  | .nan => .nan
  | .inf neg => if neg then .zero else .inf false
  | .fin neg m e =>
    let v := dyInt neg m e (-(fixBits : Int))
    let k := clampInt (-200) 200 (v / 2 ^ fixBits)
    let f := (v % 2 ^ fixBits).toNat
    if f = 0 then .pow2 k
    else (stickyNum (expSum 110 0 (2 ^ fixBits) (f * ln2Fix / 2 ^ fixBits)) fixBits).scale k

/-- 1 / √a; the root of a negative value is a NaN, that of a zero gives an infinity. -/
def Num.rsqrt : Num → Num
  | .nan => .nan
  | .inf neg => if neg then .nan else .zero
  | .fin neg m e =>
    if m = 0 then .inf neg
    else if neg then .nan
    else
      let m := if e % 2 = 0 then m else 2 * m
      let q := 2 ^ 400 / m
      let r := isqrtBits q 201 0
      .fin false (2 * r + (if r * r * m = 2 ^ 400 then 0 else 1)) (-201 - e / 2)

/-- √a. -/
def Num.sqrt : Num → Num
  | .nan => .nan
  | .inf neg => if neg then .nan else .inf false
  | .fin neg m e =>
    if m = 0 then .fin neg 0 0
    else if neg then .nan
    else
      let m := (if e % 2 = 0 then m else 2 * m) * 2 ^ 200
      let r := isqrtBits m 130 0
      .fin false (2 * r + (if r * r = m then 0 else 1)) (e / 2 - 101)

/-- ln 2 × (m + log2 l) for l above 0 (R169): exact only where it is 0. -/
def Num.lse : Num → Num → Num
  | .fin ms mm me, .fin ls lm le =>
    if ls = true ∧ lm ≠ 0 then .nan
    else if lm = 0 then .inf true
    else
      let k := Nat.log2 lm
      match (Num.fin ms mm me).add (Num.ofInt (k + le)) with
      | .fin as am ae =>
        let v := dyInt as am ae (-149) * ln2Fix + lnFix lm (2 ^ k) * 2 ^ 149
        if v = 0 then .zero else stickyNum v (fixBits + 149)
      | x => x
  | .nan, _ => .nan
  | _, .nan => .nan
  | .inf s, .fin _ lm _ => if s = false ∧ lm = 0 then .nan else .inf s
  | .inf s, .inf t => if s = t then .inf s else .nan
  | .fin _ _ _, .inf t => if t then .nan else .inf false

/-- The sum of `n` terms of 1/u − 1/(3 u³) + …, from term `k` with `t` = 1/u^(2k+1). -/
def arctanSum (u : Nat) : (n k : Nat) → (t : Int) → Int
  | 0, _, _ => 0
  | n + 1, k, t => t / (2 * k + 1 : Nat) - arctanSum u n (k + 1) (t / (u * u : Nat))

/-- 2 π to `places` binary places: Machin's sum 8 (4 arctan 1/5 − arctan 1/239). -/
def twoPiFix (places : Nat) : Int :=
  8 * (4 * arctanSum 5 160 0 (2 ^ places / 5) - arctanSum 239 60 0 (2 ^ places / 239))

/-- The sum of `n` terms of a sine (from `k` = 1, t = x) or a cosine (from `k` = 0, t = 1): signs alternate. -/
def circleSum (sq : Int) : (n k : Nat) → (t : Int) → Int
  | 0, _, _ => 0
  | n + 1, k, t => t - circleSum sq n (k + 2) (t * sq / 2 ^ fixBits / ((k + 1) * (k + 2) : Nat))

/-- An angle taken into 0 .. 2 π. -/
def turnFix (neg : Bool) (m : Nat) (e : Int) : Int :=
  dyInt neg m e (-(fixBits + 160 : Nat)) % twoPiFix (fixBits + 160) / 2 ^ 160

/-- The sine of an angle in radians. -/
def Num.sin : Num → Num
  | .fin neg m e =>
    if m = 0 then .fin neg 0 0
    else let x := turnFix neg m e; stickyNum (circleSum (x * x / 2 ^ fixBits) 80 1 x) fixBits
  | _ => .nan

/-- The cosine of an angle in radians. -/
def Num.cos : Num → Num
  | .fin neg m e =>
    if m = 0 then .pow2 0
    else let x := turnFix neg m e; stickyNum (circleSum (x * x / 2 ^ fixBits) 80 0 (2 ^ fixBits)) fixBits
  | _ => .nan

/-- The sum of `n` terms of u − u³/3 + u⁵/5 − …, from term `k` with `t` = u^(2k+1) and `sq` = u². -/
def arcSum (sq : Nat) : (n k t : Nat) → Int
  | 0, _, _ => 0
  | n + 1, k, t => (t / (2 * k + 1) : Nat) - arcSum sq n (k + 1) (t * sq / 2 ^ fixBits)

/-- The tangent of half the angle whose tangent is `u`. -/
def halfTangent (u : Nat) : Nat := u * 2 ^ fixBits / (2 ^ fixBits + isqrtBits (2 ^ (2 * fixBits) + u * u) (fixBits + 1) 0)

/-- The angle whose tangent is `u`, for u at most 1. -/
def arcFix (u : Nat) : Int :=
  let v := halfTangent (halfTangent (halfTangent u))
  8 * arcSum (v * v / 2 ^ fixBits) 100 0 v

/-- The angle in 0 .. π/2 of a point with the sides `y` and `x`, both taken as magnitudes. -/
def Num.arc : Num → Num → Num
  | .fin _ m e, .fin _ n f =>
    if m = 0 then .zero
    else
      let lo := if e ≤ f then e else f
      let p := (dyInt false m e lo).toNat
      let q := (dyInt false n f lo).toNat
      stickyNum (if p ≤ q then arcFix (p * 2 ^ fixBits / q) else twoPiFix fixBits / 4 - arcFix (q * 2 ^ fixBits / p)) fixBits
  | _, _ => .nan

/-- The whole part of a magnitude. -/
def Num.whole : Num → Nat
  | .fin _ m e => if 0 ≤ e then m * 2 ^ e.toNat else m / 2 ^ (-e).toNat
  | _ => 0

/-- exp2 rounded to FP32. -/
def fexp2 (a : Word) : Word := rne32 (val32 a).exp2
/-- The reciprocal rounded to FP32. -/
def frecip (a : Word) : Word := rne32 ((Num.pow2 0).div (val32 a))
/-- The reciprocal square root rounded to FP32. -/
def frsqrt (a : Word) : Word := rne32 (val32 a).rsqrt
/-- ln 2 × (m + log2 l) rounded to FP32 (R169). -/
def flse (m l : Word) : Word := rne32 ((val32 m).lse (val32 l))
/-- The square root rounded to FP32. -/
def fsqrt32 (a : Word) : Word := rne32 (val32 a).sqrt

/-- The value a BF16 code encodes. -/
def valBf16 (n : Nat) : Num := val32 (BitVec.ofNat 32 (n % 2 ^ 16 * 2 ^ 16))

/-- The value of an FP8 E4M3 code. -/
def valE4m3 (n : Nat) : Num := if n % 128 = 127 then .nan else magVal .e4m3 (bitAt n 7) (n % 128)

/-- The value of an FP8 E5M2 code. -/
def valE5m2 (n : Nat) : Num :=
  let g := n % 128
  if g < 0x7C then magVal .e5m2 (bitAt n 7) g else if g = 0x7C then .inf (bitAt n 7) else .nan

/-- The value of an FP4 E2M1 code. -/
def valE2m1 (n : Nat) : Num := magVal .e2m1 (bitAt n 3) (n % 8)

/-- The value of an E8M0 group scale (Table 3.2). -/
def valE8m0 (n : Nat) : Num := if n % 256 = 255 then .nan else .fin false 1 ((n % 256 : Nat) - 127)

/-- The value of a UE5M3 group scale. -/
def valUe5m3 (n : Nat) : Num := magVal .ue5m3 false (n % 256)

/-! ### Formats by TARGET code (Table 3.4) -/

/-- Bits of an element. -/
def elemBits (t : Nat) : Nat :=
  if t = 0 then 32 else if t = 1 then 16
  else if t = 4 ∨ t = 6 ∨ t = 9 ∨ t = 0xB then 4 else 8

/-- Whether a format has group scales (Table 3.3). -/
def isBlockFmt (t : Nat) : Bool := decide (7 ≤ t ∧ t ≤ 0xB)

/-- The value an element code encodes, without its scales. -/
def elemVal (t code : Nat) : Num :=
  if t = 0 then val32 (BitVec.ofNat 32 code)
  else if t = 1 then valBf16 code
  else if t = 2 ∨ t = 7 then valE4m3 code
  else if t = 3 ∨ t = 8 then valE5m2 code
  else if t = 4 ∨ t = 9 ∨ t = 0xB then valE2m1 code
  else if t = 6 then Num.ofInt (sint 4 code)
  else if t = 0xA then (Num.ofInt (sint 8 code)).scale (-6)
  else Num.ofInt (sint 8 code)

/-- The value of a group scale code of a format; 1 where it has none. -/
def groupVal (t code : Nat) : Num :=
  if t = 0xB then valUe5m3 code else if isBlockFmt t then valE8m0 code else Num.pow2 0

/-- The divisor q(TARGET) of the tensor scale for a zero point, or none (Table 3.4). -/
def divisorQ (t : Nat) (z : Int) : Option Num :=
  if t = 2 then some (Num.ofInt 448)
  else if t = 3 then some (Num.ofInt 57344)
  else if t = 4 then some (Num.ofInt 6)
  else if t = 5 then some (Num.ofInt (127 - z))
  else if t = 6 then some (Num.ofInt (7 - z))
  else if t = 0xB then some (Num.ofInt 1536)
  else none

/-- An element code as a format's narrowing writes it, and whether it saturated: `v` is the value after the reciprocal
scale (R92 to R94, Table 3.4). -/
def narrowElem (t : Nat) (z : Int) (v : Num) : Nat × Bool :=
  let sgn (top : Nat) (r : Nat × Bool) : Nat × Bool := (b2n v.sign * top + r.1, r.2)
  let int (n : Nat) (k : Int) (zz : Int) : Nat × Bool :=
    let hi : Int := 2 ^ (n - 1) - 1
    let lo : Int := if zz = 0 then -hi else -hi - 1
    match v with
    | .nan => (0, false)
    | .inf s => (wrapInt n (if s then lo else hi), true)
    | .fin s m e =>
      let i := (Num.fin s m (e + k)).rneInt + zz
      let c := clampInt lo hi i
      (wrapInt n c, decide (c ≠ i))
  if t = 0 then (match v with | .nan => (0x7FC00000, false) | _ => sgn (2 ^ 31) (roundSat .fp32 v))
  else if t = 1 then (match v with | .nan => (0x7FC0, false) | _ => sgn (2 ^ 15) (roundSat .bf16 v))
  else if t = 2 ∨ t = 7 then (match v with | .nan => (0x7F, false) | _ => sgn 128 (roundSat .e4m3 v))
  else if t = 3 ∨ t = 8 then (match v with | .nan => (0x7F, false) | _ => sgn 128 (roundSat .e5m2 v))
  else if t = 4 ∨ t = 9 ∨ t = 0xB then (match v with | .nan => (0, false) | _ => sgn 8 (roundSat .e2m1 v))
  else if t = 5 then int 8 0 z
  else if t = 6 then int 4 0 z
  else int 8 6 0

/-- Pack element codes into bytes, two 4-bit elements to a byte with the lower index low (Table 3.1 (b)). -/
def packElems (bitsPer : Nat) : List Nat → List Byte
  | [] => []
  | [a] => if bitsPer = 4 then [BitVec.ofNat 8 (a % 16)] else leBytes (bitsPer / 8) a
  | a :: b :: rest =>
    if bitsPer = 4 then BitVec.ofNat 8 (a % 16 + 16 * (b % 16)) :: packElems bitsPer rest
    else leBytes (bitsPer / 8) a ++ packElems bitsPer (b :: rest)

/-- Code of element `i` of packed bytes. -/
def elemCode (bitsPer : Nat) (bs : List Byte) (i : Nat) : Nat :=
  if bitsPer = 4 then bits (fieldAt bs (i / 2) 1) (4 * (i % 2) + 3) (4 * (i % 2))
  else fieldAt bs (i * (bitsPer / 8)) (bitsPer / 8)

end Sys2Proof.Machine
end

