-- ==== Sys2Proof/Config.lean ====
section
/-! DEFINITION. What one module fixes (fuses, straps, trust anchors) and the free values: constants without a body, so
that nothing can be proved of a value the spec leaves open (log entry 9). -/

namespace Sys2Proof.Config

/-- A free byte: contents the spec calls undefined, by the model's counter and the byte's position. -/
opaque freeByte : Nat → Nat → BitVec 8

/-- A free 64-bit value, by the model's counter. -/
opaque freeWord : Nat → BitVec 64

/-- Which value of a page-table entry an access uses while a cache may hold an edited one (R118), by the model's counter. -/
opaque stalePick : (n entry : Nat) → Nat

/-- The value of the 64-bit integer instruction with function `f` (R581: no list of the scalar set is given). -/
opaque scalarInt : (f : Nat) → (a b imm : BitVec 64) → BitVec 64

/-- The value of the FP32 scalar instruction with function `f` (R581). -/
opaque scalarFp : (f : Nat) → (a b c : BitVec 64) → BitVec 64

/-- Whether the branch condition `f` holds (R581). -/
opaque scalarCond : (f : Nat) → (a b : BitVec 64) → Bool


/-- The LMS signature made with the identity key at signature index `n` (R533: RFC 8554, SP 800-208). -/
opaque lmsSignature : (n : Nat) → (message : List (BitVec 8)) → List (BitVec 8)

/-- The identity certificate written in production (R533, Table 20.2 of the protected store). -/
opaque certificate : List (BitVec 8)

/-- MODULE_UID fuses (R516). -/
opaque moduleUid : BitVec 64

/-- SHA-256 of the owner public key in each of the four fuse slots (R516). -/
opaque ownerKey : Nat → List (BitVec 8)

/-- VALID fuses of the owner slots (R516). -/
opaque ownerValid : BitVec 4

/-- REVOKED fuses of the owner slots (R516). -/
opaque ownerRevoked : BitVec 4

/-- DEBUG_OK fuses of the owner slots (R516). -/
opaque ownerDebugOk : BitVec 4

/-- Digest of the ROM identity and fuse words that measurement 0 starts with (R532). -/
opaque romDigest : List (BitVec 8)

/-- Public key hash of Nelari, in the ROM of Harebell (R516, R522). -/
opaque nelariKey : List (BitVec 8)

/-- Whether ATTN_PARAMS marks a layer windowed; the section's byte layout is not given (Table 6.4). -/
opaque attnWindowed : (section_ : List (BitVec 8)) → (layer : Nat) → Bool

/-- The layer's default WINDOW in ATTN_PARAMS (Table 6.4). -/
opaque attnWindow : (section_ : List (BitVec 8)) → (layer : Nat) → Nat

/-- SM_SCALE of a layer in ATTN_PARAMS (R167). -/
opaque attnSmScale : (section_ : List (BitVec 8)) → (layer : Nat) → BitVec 32

/-- K_SCALE[h] of a layer in ATTN_PARAMS (R167). -/
opaque attnKScale : (section_ : List (BitVec 8)) → (layer head : Nat) → BitVec 32

/-- V_SCALE[h] of a layer in ATTN_PARAMS (R167). -/
opaque attnVScale : (section_ : List (BitVec 8)) → (layer head : Nat) → BitVec 32

/-- In which order operation `op` of R352 or R361 takes the FP32 steps of its component `i`: each step is rounded, their order is not
stated (log entry 70). -/
opaque quatOrder : (op i : Nat) → Nat

end Sys2Proof.Config
end

