-- ==== Sys2Proof/Machine/Store.lean ====
section
/-! DEFINITION. Sparse stores in one canonical form: keys strictly rising, no entry equal to its key's default.
Every large array of the module (memories, the control window, contexts, queues, loops) is one of these, so that equal
contents are equal data and the state after reset lists nothing. -/

namespace Sys2Proof.Machine

/-- A sparse array of `α` by number. -/
abbrev Store (α : Type) := List (Nat × α)

/-- The entry at `a`; `d a` where the store lists none. -/
def storeGet {α : Type} (d : Nat → α) : Store α → Nat → α
  | [], a => d a
  | (k, v) :: rest, a => if a = k then v else if a < k then d a else storeGet d rest a

/-- Write `v` at `a`, keeping the canonical form. -/
def storeSet {α : Type} [DecidableEq α] (d : Nat → α) : Store α → Nat → α → Store α
  | [], a, v => if v = d a then [] else [(a, v)]
  | (k, w) :: rest, a, v =>
    if a = k then (if v = d a then rest else (a, v) :: rest)
    else if a < k then (if v = d a then (k, w) :: rest else (a, v) :: (k, w) :: rest)
    else (k, w) :: storeSet d rest a v

/-- Change the entry at `a` by `f`. -/
def storeMod {α : Type} [DecidableEq α] (d : Nat → α) (st : Store α) (a : Nat) (f : α → α) : Store α :=
  storeSet d st a (f (storeGet d st a))

/-- Every key of the store is above `lo`, keys rise strictly, and no entry equals its default. -/
def storeWfFrom {α : Type} [DecidableEq α] (d : Nat → α) : Nat → Store α → Bool
  | _, [] => true
  | lo, (k, v) :: rest => decide (lo ≤ k) && (decide (v ≠ d k) && storeWfFrom d (k + 1) rest)

/-- The canonical form. -/
def storeWf {α : Type} [DecidableEq α] (d : Nat → α) (st : Store α) : Bool := storeWfFrom d 0 st

/-- Write a list of values at consecutive numbers from `a`. -/
def storeSetList {α : Type} [DecidableEq α] (d : Nat → α) (st : Store α) (a : Nat) : List α → Store α
  | [] => st
  | v :: vs => storeSetList d (storeSet d st a v) (a + 1) vs

/-- Read `n` consecutive values from `a`. -/
def storeGetList {α : Type} (d : Nat → α) (st : Store α) (a : Nat) : Nat → List α
  | 0 => []
  | n + 1 => storeGet d st a :: storeGetList d st (a + 1) n

/-- Drop every entry whose number satisfies `p`, so that it reads as its default. -/
def storeDrop {α : Type} (p : Nat → Bool) (st : Store α) : Store α := st.filter (fun e => !p e.1)

/-- Keep the canonical form while mapping a function over a store. -/
def storeMap {α : Type} [DecidableEq α] (d : Nat → α) (f : Nat → α → α) (st : Store α) : Store α :=
  st.filterMap (fun e => let v := f e.1 e.2; if v = d e.1 then none else some (e.1, v))

end Sys2Proof.Machine
end

