-- ==== Sys2Proof/Machine/Registers.lean ====
section
/-! DEFINITION. The control window's registers as the spec's register maps give them: the offset of each register within
the 64 MiB window (slot × 0x10_0000 + offset, R32), its fields, its reset value (R7) and its access masks (Table 0.6). -/

namespace Sys2Proof.Machine

/-- A field of a register: the window offset of the register's low word, the field's lowest bit, its length. -/
structure Field where
  off : Nat
  lo  : Nat
  len : Nat
  deriving DecidableEq, Repr

/-- A row of the register map: first offset, outer stride and count, inner stride and count, 32-bit words per register,
reset value, and the bits of each access code. -/
structure RegDesc where
  base  : Nat
  s1    : Nat
  n1    : Nat
  s2    : Nat
  n2    : Nat
  words : Nat
  reset : Nat
  rw    : Nat
  w1c   : Nat
  w1s   : Nat
  wo    : Nat
  deriving DecidableEq, Repr

namespace Reg

/-- GLB_ID: 01_module_architecture. -/
def GLB_ID : Nat := 0x0

def GLB_ID_PART : Field := ⟨GLB_ID, 16, 16⟩

def GLB_ID_REV_LETTER : Field := ⟨GLB_ID, 12, 4⟩

def GLB_ID_REV_DIGIT : Field := ⟨GLB_ID, 8, 4⟩

/-- GLB_MODNUM: 01_module_architecture. -/
def GLB_MODNUM : Nat := 0x4

def GLB_MODNUM_JOB_MASK : Field := ⟨GLB_MODNUM, 4, 4⟩

def GLB_MODNUM_MODNUM : Field := ⟨GLB_MODNUM, 0, 2⟩

/-- GLB_SCRATCH: 01_module_architecture. -/
def GLB_SCRATCH : Nat := 0x8

def GLB_SCRATCH_VALUE : Field := ⟨GLB_SCRATCH, 0, 32⟩

/-- TILE_ID: 02_campion_tiles. -/
def TILE_ID (tile : Nat) : Nat := 0x1000000 + 0x100000 * tile

def TILE_ID_COL (tile : Nat) : Field := ⟨TILE_ID tile, 12, 3⟩

def TILE_ID_ROW (tile : Nat) : Field := ⟨TILE_ID tile, 8, 3⟩

def TILE_ID_TILE_NUM (tile : Nat) : Field := ⟨TILE_ID tile, 0, 6⟩

/-- TILE_CTRL: 02_campion_tiles. -/
def TILE_CTRL (tile : Nat) : Nat := 0x1000004 + 0x100000 * tile

def TILE_CTRL_PERF_CLEAR (tile : Nat) : Field := ⟨TILE_CTRL tile, 1, 1⟩

def TILE_CTRL_ISSUE_EN (tile : Nat) : Field := ⟨TILE_CTRL tile, 0, 1⟩

/-- TILE_STATUS: 02_campion_tiles. -/
def TILE_STATUS (tile : Nat) : Nat := 0x1000008 + 0x100000 * tile

def TILE_STATUS_WAITING_COUNT (tile : Nat) : Field := ⟨TILE_STATUS tile, 16, 8⟩

def TILE_STATUS_READY_COUNT (tile : Nat) : Field := ⟨TILE_STATUS tile, 8, 8⟩

def TILE_STATUS_QUIESCENT (tile : Nat) : Field := ⟨TILE_STATUS tile, 5, 1⟩

def TILE_STATUS_DECODE_BUSY (tile : Nat) : Field := ⟨TILE_STATUS tile, 4, 1⟩

def TILE_STATUS_SCALE_BUSY (tile : Nat) : Field := ⟨TILE_STATUS tile, 3, 1⟩

def TILE_STATUS_ROT_BUSY (tile : Nat) : Field := ⟨TILE_STATUS tile, 2, 1⟩

def TILE_STATUS_VECTOR_BUSY (tile : Nat) : Field := ⟨TILE_STATUS tile, 1, 1⟩

def TILE_STATUS_TENSOR_BUSY (tile : Nat) : Field := ⟨TILE_STATUS tile, 0, 1⟩

/-- TILE_FAULT: 02_campion_tiles. -/
def TILE_FAULT (tile : Nat) : Nat := 0x1000010 + 0x100000 * tile

def TILE_FAULT_VALID (tile : Nat) : Field := ⟨TILE_FAULT tile, 31, 1⟩

def TILE_FAULT_CAUSE (tile : Nat) : Field := ⟨TILE_FAULT tile, 24, 4⟩

def TILE_FAULT_CTX (tile : Nat) : Field := ⟨TILE_FAULT tile, 16, 6⟩

def TILE_FAULT_MESH (tile : Nat) : Field := ⟨TILE_FAULT tile, 15, 1⟩

def TILE_FAULT_THREAD (tile : Nat) : Field := ⟨TILE_FAULT tile, 8, 7⟩

def TILE_FAULT_MORE (tile : Nat) : Field := ⟨TILE_FAULT tile, 0, 8⟩

/-- TILE_ECC: 02_campion_tiles. -/
def TILE_ECC (tile : Nat) : Nat := 0x1000014 + 0x100000 * tile

def TILE_ECC_UNCORR (tile : Nat) : Field := ⟨TILE_ECC tile, 16, 1⟩

def TILE_ECC_CORR (tile : Nat) : Field := ⟨TILE_ECC tile, 0, 16⟩

/-- TILE_CTX_RUN: 02_campion_tiles. -/
def TILE_CTX_RUN (tile : Nat) : Nat := 0x1000040 + 0x100000 * tile

def TILE_CTX_RUN_RUN (tile : Nat) : Field := ⟨TILE_CTX_RUN tile, 0, 64⟩

/-- TILE_PERF: 02_campion_tiles. -/
def TILE_PERF (tile : Nat) (k : Nat) : Nat := 0x1000100 + 0x100000 * tile + 8 * k

def TILE_PERF_COUNT (tile : Nat) (k : Nat) : Field := ⟨TILE_PERF tile k, 0, 64⟩

/-- TILE_SHARE: 02_campion_tiles. -/
def TILE_SHARE (tile : Nat) (c : Nat) : Nat := 0x1000200 + 0x100000 * tile + 4 * c

def TILE_SHARE_VCOUNT (tile : Nat) (c : Nat) : Field := ⟨TILE_SHARE tile c, 24, 7⟩

def TILE_SHARE_VBASE (tile : Nat) (c : Nat) : Field := ⟨TILE_SHARE tile c, 16, 6⟩

def TILE_SHARE_SIZE (tile : Nat) (c : Nat) : Field := ⟨TILE_SHARE tile c, 8, 8⟩

def TILE_SHARE_BASE (tile : Nat) (c : Nat) : Field := ⟨TILE_SHARE tile c, 0, 7⟩

/-- TILE_THR: 02_campion_tiles. -/
def TILE_THR (tile : Nat) (t : Nat) : Nat := 0x1000400 + 0x100000 * tile + 4 * t

def TILE_THR_RELEASE (tile : Nat) (t : Nat) : Field := ⟨TILE_THR tile t, 14, 1⟩

def TILE_THR_ASSIGN (tile : Nat) (t : Nat) : Field := ⟨TILE_THR tile t, 13, 1⟩

def TILE_THR_STATE (tile : Nat) (t : Nat) : Field := ⟨TILE_THR tile t, 8, 3⟩

def TILE_THR_PIPE (tile : Nat) (t : Nat) : Field := ⟨TILE_THR tile t, 6, 2⟩

def TILE_THR_CTX (tile : Nat) (t : Nat) : Field := ⟨TILE_THR tile t, 0, 6⟩

/-- TILE_THR_PC: 02_campion_tiles. -/
def TILE_THR_PC (tile : Nat) (t : Nat) : Nat := 0x1000800 + 0x100000 * tile + 8 * t

def TILE_THR_PC_PC (tile : Nat) (t : Nat) : Field := ⟨TILE_THR_PC tile t, 0, 48⟩

/-- MEM_STATUS: 04_memory_tiers. -/
def MEM_STATUS : Nat := 0xa00000

def MEM_STATUS_FLASH_READY : Field := ⟨MEM_STATUS, 9, 1⟩

def MEM_STATUS_SCRUB_BUSY : Field := ⟨MEM_STATUS, 8, 1⟩

def MEM_STATUS_ACTIVE : Field := ⟨MEM_STATUS, 0, 5⟩

/-- MEM_IMAGE: 04_memory_tiers. -/
def MEM_IMAGE : Nat := 0xa00008

def MEM_IMAGE_SIZE : Field := ⟨MEM_IMAGE, 32, 17⟩

def MEM_IMAGE_BASE : Field := ⟨MEM_IMAGE, 0, 17⟩

/-- MEM_SCRUB: 04_memory_tiers. -/
def MEM_SCRUB : Nat := 0xa00010

def MEM_SCRUB_EN : Field := ⟨MEM_SCRUB, 8, 1⟩

def MEM_SCRUB_HOURS : Field := ⟨MEM_SCRUB, 0, 8⟩

/-- MEM_CORR_LIMIT: 04_memory_tiers. -/
def MEM_CORR_LIMIT : Nat := 0xa00014

def MEM_CORR_LIMIT_LIMIT : Field := ⟨MEM_CORR_LIMIT, 0, 16⟩

/-- MEM_UNCORR: 04_memory_tiers. -/
def MEM_UNCORR : Nat := 0xa00018

def MEM_UNCORR_STACK : Field := ⟨MEM_UNCORR, 16, 4⟩

def MEM_UNCORR_SCRUB : Field := ⟨MEM_UNCORR, 3, 1⟩

def MEM_UNCORR_FLASH : Field := ⟨MEM_UNCORR, 2, 1⟩

def MEM_UNCORR_STAGING : Field := ⟨MEM_UNCORR, 1, 1⟩

def MEM_UNCORR_LPDDR : Field := ⟨MEM_UNCORR, 0, 1⟩

/-- MEM_LP_ECC: 04_memory_tiers. -/
def MEM_LP_ECC (s : Nat) : Nat := 0xa00040 + 4 * s

def MEM_LP_ECC_CORR_HOUR (s : Nat) : Field := ⟨MEM_LP_ECC s, 16, 16⟩

def MEM_LP_ECC_CORR_TOTAL (s : Nat) : Field := ⟨MEM_LP_ECC s, 0, 16⟩

/-- MEM_FLASH_HEALTH: 04_memory_tiers. -/
def MEM_FLASH_HEALTH : Nat := 0xa00080

def MEM_FLASH_HEALTH_RETRIES : Field := ⟨MEM_FLASH_HEALTH, 24, 8⟩

def MEM_FLASH_HEALTH_TBW : Field := ⟨MEM_FLASH_HEALTH, 8, 16⟩

def MEM_FLASH_HEALTH_SPARE_PCT : Field := ⟨MEM_FLASH_HEALTH, 0, 8⟩

/-- MEM_CTX_CFG: 04_memory_tiers. -/
def MEM_CTX_CFG (c : Nat) : Nat := 0xa00100 + 4 * c

def MEM_CTX_CFG_PLACE (c : Nat) : Field := ⟨MEM_CTX_CFG c, 0, 1⟩

/-- MEM_CTX_PTROOT: 04_memory_tiers. -/
def MEM_CTX_PTROOT (c : Nat) : Nat := 0xa00200 + 8 * c

def MEM_CTX_PTROOT_ROOT (c : Nat) : Field := ⟨MEM_CTX_PTROOT c, 12, 43⟩

/-- MEM_CTX_LP: 04_memory_tiers. -/
def MEM_CTX_LP (c : Nat) : Nat := 0xa00400 + 8 * c

def MEM_CTX_LP_SIZE (c : Nat) : Field := ⟨MEM_CTX_LP c, 32, 17⟩

def MEM_CTX_LP_BASE (c : Nat) : Field := ⟨MEM_CTX_LP c, 0, 17⟩

/-- MEM_CTX_FLASH: 04_memory_tiers. -/
def MEM_CTX_FLASH (c : Nat) : Nat := 0xa00600 + 4 * c

def MEM_CTX_FLASH_SIZE (c : Nat) : Field := ⟨MEM_CTX_FLASH c, 16, 10⟩

def MEM_CTX_FLASH_BASE (c : Nat) : Field := ⟨MEM_CTX_FLASH c, 0, 10⟩

/-- MEM_CTX_RSV: 04_memory_tiers. -/
def MEM_CTX_RSV (c : Nat) : Nat := 0xa00700 + 4 * c

def MEM_CTX_RSV_UNITS (c : Nat) : Field := ⟨MEM_CTX_RSV c, 0, 17⟩

/-- KVM_STATUS: 05_attention_kv. -/
def KVM_STATUS : Nat := 0x800000

def KVM_STATUS_ACTIVE : Field := ⟨KVM_STATUS, 8, 8⟩

def KVM_STATUS_INIT_BUSY : Field := ⟨KVM_STATUS, 4, 1⟩

def KVM_STATUS_WIDE_COUNT : Field := ⟨KVM_STATUS, 0, 4⟩

/-- KVM_GEOM: 05_attention_kv. -/
def KVM_GEOM : Nat := 0x800008

def KVM_GEOM_SLOT_UNITS : Field := ⟨KVM_GEOM, 40, 16⟩

def KVM_GEOM_KV_FMT : Field := ⟨KVM_GEOM, 32, 4⟩

def KVM_GEOM_HEAD_DIM : Field := ⟨KVM_GEOM, 24, 8⟩

def KVM_GEOM_GROUP : Field := ⟨KVM_GEOM, 16, 8⟩

def KVM_GEOM_KV_HEADS : Field := ⟨KVM_GEOM, 8, 8⟩

def KVM_GEOM_LAYERS : Field := ⟨KVM_GEOM, 0, 8⟩

/-- KVM_CTX_REG: 05_attention_kv. -/
def KVM_CTX_REG (c : Nat) : Nat := 0x800100 + 8 * c

def KVM_CTX_REG_SIZE (c : Nat) : Field := ⟨KVM_CTX_REG c, 32, 17⟩

def KVM_CTX_REG_BASE (c : Nat) : Field := ⟨KVM_CTX_REG c, 0, 17⟩

/-- KVM_CTX_SEQ: 05_attention_kv. -/
def KVM_CTX_SEQ (c : Nat) : Nat := 0x800300 + 4 * c

def KVM_CTX_SEQ_PT_UNITS (c : Nat) : Field := ⟨KVM_CTX_SEQ c, 24, 5⟩

def KVM_CTX_SEQ_SEQ_MAX (c : Nat) : Field := ⟨KVM_CTX_SEQ c, 0, 13⟩

/-- KVM_CTX_POOL: 05_attention_kv. -/
def KVM_CTX_POOL (c : Nat) : Nat := 0x800400 + 4 * c

def KVM_CTX_POOL_WIDE_UNITS (c : Nat) : Field := ⟨KVM_CTX_POOL c, 24, 8⟩

def KVM_CTX_POOL_NARROW_SLOTS (c : Nat) : Field := ⟨KVM_CTX_POOL c, 0, 24⟩

/-- KVM_PAGE_FREE: 05_attention_kv. -/
def KVM_PAGE_FREE (c : Nat) : Nat := 0x800500 + 4 * c

def KVM_PAGE_FREE_FREE_WIDE (c : Nat) : Field := ⟨KVM_PAGE_FREE c, 24, 8⟩

def KVM_PAGE_FREE_FREE_NARROW (c : Nat) : Field := ⟨KVM_PAGE_FREE c, 0, 24⟩

/-- KVM_PAGE_CACHED: 05_attention_kv. -/
def KVM_PAGE_CACHED (c : Nat) : Nat := 0x800600 + 4 * c

def KVM_PAGE_CACHED_CACHED (c : Nat) : Field := ⟨KVM_PAGE_CACHED c, 0, 24⟩

/-- KVM_CTX_EPOCH: 05_attention_kv. -/
def KVM_CTX_EPOCH (c : Nat) : Nat := 0x800700 + 4 * c

def KVM_CTX_EPOCH_RETIRED (c : Nat) : Field := ⟨KVM_CTX_EPOCH c, 0, 32⟩

/-- KVM_CTX_CNT: 05_attention_kv. -/
def KVM_CTX_CNT (c : Nat) (k : Nat) : Nat := 0x800800 + 16 * c + 4 * k

def KVM_CTX_CNT_COUNT (c : Nat) (k : Nat) : Field := ⟨KVM_CTX_CNT c k, 0, 32⟩

/-- QMGR_STATUS: 07_queues_commands. -/
def QMGR_STATUS : Nat := 0x900000

def QMGR_STATUS_IMAGE_HOLD : Field := ⟨QMGR_STATUS, 2, 1⟩

def QMGR_STATUS_SAFE_HOLD : Field := ⟨QMGR_STATUS, 1, 1⟩

def QMGR_STATUS_ACCEPTING : Field := ⟨QMGR_STATUS, 0, 1⟩

/-- QMGR_DOORBELL: 07_queues_commands. -/
def QMGR_DOORBELL : Nat := 0x900004

def QMGR_DOORBELL_QUEUE : Field := ⟨QMGR_DOORBELL, 16, 14⟩

def QMGR_DOORBELL_COUNT : Field := ⟨QMGR_DOORBELL, 0, 13⟩

/-- QMGR_DB_REFUSED: 07_queues_commands. -/
def QMGR_DB_REFUSED : Nat := 0x900008

def QMGR_DB_REFUSED_VALID : Field := ⟨QMGR_DB_REFUSED, 31, 1⟩

def QMGR_DB_REFUSED_QUEUE : Field := ⟨QMGR_DB_REFUSED, 16, 14⟩

def QMGR_DB_REFUSED_CAUSE : Field := ⟨QMGR_DB_REFUSED, 0, 4⟩

/-- QMGR_LATE: 07_queues_commands. -/
def QMGR_LATE : Nat := 0x90000c

def QMGR_LATE_COUNT : Field := ⟨QMGR_LATE, 0, 32⟩

/-- QMGR_FENCE_TIMEOUT: 07_queues_commands. -/
def QMGR_FENCE_TIMEOUT : Nat := 0x900010

def QMGR_FENCE_TIMEOUT_MS : Field := ⟨QMGR_FENCE_TIMEOUT, 0, 16⟩

/-- QMGR_QCFG: 07_queues_commands. -/
def QMGR_QCFG (q : Nat) : Nat := 0x980000 + 32 * q

def QMGR_QCFG_EN (q : Nat) : Field := ⟨QMGR_QCFG q, 31, 1⟩

def QMGR_QCFG_CLASS (q : Nat) : Field := ⟨QMGR_QCFG q, 30, 1⟩

def QMGR_QCFG_PRIO (q : Nat) : Field := ⟨QMGR_QCFG q, 28, 2⟩

def QMGR_QCFG_OWNER (q : Nat) : Field := ⟨QMGR_QCFG q, 16, 6⟩

def QMGR_QCFG_OPMASK (q : Nat) : Field := ⟨QMGR_QCFG q, 0, 16⟩

/-- QMGR_QDEPTH: 07_queues_commands. -/
def QMGR_QDEPTH (q : Nat) : Nat := 0x980004 + 32 * q

def QMGR_QDEPTH_DEPTH (q : Nat) : Field := ⟨QMGR_QDEPTH q, 0, 13⟩

/-- QMGR_QSQ: 07_queues_commands. -/
def QMGR_QSQ (q : Nat) : Nat := 0x980008 + 32 * q

def QMGR_QSQ_BASE (q : Nat) : Field := ⟨QMGR_QSQ q, 12, 43⟩

/-- QMGR_QCQ: 07_queues_commands. -/
def QMGR_QCQ (q : Nat) : Nat := 0x980010 + 32 * q

def QMGR_QCQ_BASE (q : Nat) : Field := ⟨QMGR_QCQ q, 6, 49⟩

/-- QMGR_QSTATE: 07_queues_commands. -/
def QMGR_QSTATE (q : Nat) : Nat := 0x980018 + 32 * q

def QMGR_QSTATE_NOTIFY (q : Nat) : Field := ⟨QMGR_QSTATE q, 31, 1⟩

def QMGR_QSTATE_OVERFLOW (q : Nat) : Field := ⟨QMGR_QSTATE q, 30, 1⟩

def QMGR_QSTATE_TEARDOWN (q : Nat) : Field := ⟨QMGR_QSTATE q, 29, 1⟩

def QMGR_QSTATE_FENCE_WAIT (q : Nat) : Field := ⟨QMGR_QSTATE q, 28, 1⟩

def QMGR_QSTATE_TRIGGER_WAIT (q : Nat) : Field := ⟨QMGR_QSTATE q, 27, 1⟩

def QMGR_QSTATE_OUTSTANDING (q : Nat) : Field := ⟨QMGR_QSTATE q, 0, 13⟩

/-- QMGR_SCHED_CFG: 08_contexts_scheduling. -/
def QMGR_SCHED_CFG : Nat := 0x900020

def QMGR_SCHED_CFG_GOLDEN_BUDGET : Field := ⟨QMGR_SCHED_CFG, 24, 8⟩

def QMGR_SCHED_CFG_GOLDEN_MAX : Field := ⟨QMGR_SCHED_CFG, 14, 10⟩

def QMGR_SCHED_CFG_NP_LIMIT : Field := ⟨QMGR_SCHED_CFG, 0, 8⟩

/-- QMGR_CTX_STATE: 08_contexts_scheduling. -/
def QMGR_CTX_STATE (c : Nat) : Nat := 0x910000 + 64 * c

def QMGR_CTX_STATE_RESET (c : Nat) : Field := ⟨QMGR_CTX_STATE c, 31, 1⟩

def QMGR_CTX_STATE_STATE (c : Nat) : Field := ⟨QMGR_CTX_STATE c, 24, 2⟩

def QMGR_CTX_STATE_SLICE_HOLDER (c : Nat) : Field := ⟨QMGR_CTX_STATE c, 21, 1⟩

def QMGR_CTX_STATE_FRAME_OPEN (c : Nat) : Field := ⟨QMGR_CTX_STATE c, 20, 1⟩

def QMGR_CTX_STATE_LEVEL (c : Nat) : Field := ⟨QMGR_CTX_STATE c, 18, 2⟩

def QMGR_CTX_STATE_ROLE (c : Nat) : Field := ⟨QMGR_CTX_STATE c, 0, 16⟩

/-- QMGR_CTX_SCHED: 08_contexts_scheduling. -/
def QMGR_CTX_SCHED (c : Nat) : Nat := 0x910004 + 64 * c

def QMGR_CTX_SCHED_CLASS (c : Nat) : Field := ⟨QMGR_CTX_SCHED c, 31, 1⟩

def QMGR_CTX_SCHED_EXCL (c : Nat) : Field := ⟨QMGR_CTX_SCHED c, 30, 1⟩

def QMGR_CTX_SCHED_GOLDEN_HOST (c : Nat) : Field := ⟨QMGR_CTX_SCHED c, 29, 1⟩

def QMGR_CTX_SCHED_LANE (c : Nat) : Field := ⟨QMGR_CTX_SCHED c, 24, 3⟩

def QMGR_CTX_SCHED_PRIO (c : Nat) : Field := ⟨QMGR_CTX_SCHED c, 20, 4⟩

def QMGR_CTX_SCHED_SLICE (c : Nat) : Field := ⟨QMGR_CTX_SCHED c, 10, 10⟩

def QMGR_CTX_SCHED_MARGIN (c : Nat) : Field := ⟨QMGR_CTX_SCHED c, 0, 8⟩

/-- QMGR_CTX_TIMING: 08_contexts_scheduling. -/
def QMGR_CTX_TIMING (c : Nat) (k : Nat) : Nat := 0x910008 + 64 * c + 4 * k

def QMGR_CTX_TIMING_VALUE (c : Nat) (k : Nat) : Field := ⟨QMGR_CTX_TIMING c k, 0, 32⟩

/-- QMGR_CTX_RT: 08_contexts_scheduling. -/
def QMGR_CTX_RT (c : Nat) : Nat := 0x910018 + 64 * c

def QMGR_CTX_RT_TRIGGER_ID (c : Nat) : Field := ⟨QMGR_CTX_RT c, 16, 16⟩

def QMGR_CTX_RT_ENTRY_ID (c : Nat) : Field := ⟨QMGR_CTX_RT c, 0, 16⟩

/-- QMGR_CTX_CNT: 08_contexts_scheduling. -/
def QMGR_CTX_CNT (c : Nat) (k : Nat) : Nat := 0x910020 + 64 * c + 4 * k

def QMGR_CTX_CNT_COUNT (c : Nat) (k : Nat) : Field := ⟨QMGR_CTX_CNT c k, 0, 32⟩

/-- CTL_STATUS: 09_yarrow_control. -/
def CTL_STATUS : Nat := 0x400000

def CTL_STATUS_LAST_EVAL_US : Field := ⟨CTL_STATUS, 12, 8⟩

def CTL_STATUS_RUN_COUNT : Field := ⟨CTL_STATUS, 3, 9⟩

def CTL_STATUS_SAFE : Field := ⟨CTL_STATUS, 2, 1⟩

def CTL_STATUS_HOLD : Field := ⟨CTL_STATUS, 1, 1⟩

def CTL_STATUS_IMAGE_HOLD : Field := ⟨CTL_STATUS, 0, 1⟩

/-- CTL_FRAME_CFG: 09_yarrow_control. -/
def CTL_FRAME_CFG : Nat := 0x400004

def CTL_FRAME_CFG_COMMIT_US : Field := ⟨CTL_FRAME_CFG, 20, 12⟩

def CTL_FRAME_CFG_TRIGGER_ID : Field := ⟨CTL_FRAME_CFG, 0, 16⟩

/-- CTL_COMMIT: 09_yarrow_control. -/
def CTL_COMMIT : Nat := 0x400008

def CTL_COMMIT_ACTION : Field := ⟨CTL_COMMIT, 0, 2⟩

/-- CTL_RATE_TRIG: 09_yarrow_control. -/
def CTL_RATE_TRIG (r : Nat) : Nat := 0x400010 + 4 * r

def CTL_RATE_TRIG_TRIGGER_ID (r : Nat) : Field := ⟨CTL_RATE_TRIG r, 0, 16⟩

/-- CTL_TRIP: 09_yarrow_control. -/
def CTL_TRIP (k : Nat) : Nat := 0x400040 + 4 * k

def CTL_TRIP_TRIPPED (k : Nat) : Field := ⟨CTL_TRIP k, 0, 32⟩

/-- CTL_GROUP: 09_yarrow_control. -/
def CTL_GROUP (g : Nat) : Nat := 0x400100 + 8 * g

def CTL_GROUP_SEL (g : Nat) : Field := ⟨CTL_GROUP g, 36, 2⟩

def CTL_GROUP_COUNT (g : Nat) : Field := ⟨CTL_GROUP g, 33, 3⟩

def CTL_GROUP_EXISTS (g : Nat) : Field := ⟨CTL_GROUP g, 32, 1⟩

def CTL_GROUP_MEMBER3 (g : Nat) : Field := ⟨CTL_GROUP g, 24, 8⟩

def CTL_GROUP_MEMBER2 (g : Nat) : Field := ⟨CTL_GROUP g, 16, 8⟩

def CTL_GROUP_MEMBER1 (g : Nat) : Field := ⟨CTL_GROUP g, 8, 8⟩

def CTL_GROUP_MEMBER0 (g : Nat) : Field := ⟨CTL_GROUP g, 0, 8⟩

/-- CTL_LOOP_CFG: 09_yarrow_control. -/
def CTL_LOOP_CFG (l : Nat) : Nat := 0x410000 + 64 * l

def CTL_LOOP_CFG_SP_LOOP (l : Nat) : Field := ⟨CTL_LOOP_CFG l, 24, 8⟩

def CTL_LOOP_CFG_SP_SRC (l : Nat) : Field := ⟨CTL_LOOP_CFG l, 20, 2⟩

def CTL_LOOP_CFG_STALE_LIMIT (l : Nat) : Field := ⟨CTL_LOOP_CFG l, 16, 4⟩

def CTL_LOOP_CFG_TRIP_OUT (l : Nat) : Field := ⟨CTL_LOOP_CFG l, 9, 1⟩

def CTL_LOOP_CFG_CRIT (l : Nat) : Field := ⟨CTL_LOOP_CFG l, 8, 1⟩

def CTL_LOOP_CFG_RATE (l : Nat) : Field := ⟨CTL_LOOP_CFG l, 0, 3⟩

/-- CTL_LOOP_BIND: 09_yarrow_control. -/
def CTL_LOOP_BIND (l : Nat) : Nat := 0x410004 + 64 * l

def CTL_LOOP_BIND_CMD_EN (l : Nat) : Field := ⟨CTL_LOOP_BIND l, 27, 1⟩

def CTL_LOOP_BIND_CMD_PORT (l : Nat) : Field := ⟨CTL_LOOP_BIND l, 24, 3⟩

def CTL_LOOP_BIND_CMD_NODE (l : Nat) : Field := ⟨CTL_LOOP_BIND l, 20, 4⟩

def CTL_LOOP_BIND_CMD_WORD (l : Nat) : Field := ⟨CTL_LOOP_BIND l, 16, 4⟩

def CTL_LOOP_BIND_FB_PORT (l : Nat) : Field := ⟨CTL_LOOP_BIND l, 8, 3⟩

def CTL_LOOP_BIND_FB_NODE (l : Nat) : Field := ⟨CTL_LOOP_BIND l, 4, 4⟩

def CTL_LOOP_BIND_FB_WORD (l : Nat) : Field := ⟨CTL_LOOP_BIND l, 0, 4⟩

/-- CTL_LOOP_STATE: 09_yarrow_control. -/
def CTL_LOOP_STATE (l : Nat) : Nat := 0x410008 + 64 * l

def CTL_LOOP_STATE_SAT_COUNT (l : Nat) : Field := ⟨CTL_LOOP_STATE l, 16, 16⟩

def CTL_LOOP_STATE_STALE_RUN (l : Nat) : Field := ⟨CTL_LOOP_STATE l, 12, 4⟩

def CTL_LOOP_STATE_CAUSE (l : Nat) : Field := ⟨CTL_LOOP_STATE l, 8, 2⟩

def CTL_LOOP_STATE_SWAP_PENDING (l : Nat) : Field := ⟨CTL_LOOP_STATE l, 4, 1⟩

def CTL_LOOP_STATE_EXTRAPOLATED (l : Nat) : Field := ⟨CTL_LOOP_STATE l, 3, 1⟩

def CTL_LOOP_STATE_BANK (l : Nat) : Field := ⟨CTL_LOOP_STATE l, 2, 1⟩

def CTL_LOOP_STATE_STATE (l : Nat) : Field := ⟨CTL_LOOP_STATE l, 0, 2⟩

/-- RING_STATUS: 10_bindweed_rings. -/
def RING_STATUS : Nat := 0x500000

def RING_STATUS_PORT_STATE : Field := ⟨RING_STATUS, 0, 32⟩

/-- RING_TEASEL: 10_bindweed_rings. -/
def RING_TEASEL : Nat := 0x500004

def RING_TEASEL_ARMED : Field := ⟨RING_TEASEL, 16, 9⟩

def RING_TEASEL_SAFE_SUSPEND : Field := ⟨RING_TEASEL, 0, 1⟩

/-- RING_PORT_CFG: 10_bindweed_rings. -/
def RING_PORT_CFG (p : Nat) : Nat := 0x501000 + 1024 * p

def RING_PORT_CFG_EN (p : Nat) : Field := ⟨RING_PORT_CFG p, 31, 1⟩

def RING_PORT_CFG_NODES (p : Nat) : Field := ⟨RING_PORT_CFG p, 24, 5⟩

def RING_PORT_CFG_RATE (p : Nat) : Field := ⟨RING_PORT_CFG p, 20, 3⟩

def RING_PORT_CFG_LOSS_LIMIT (p : Nat) : Field := ⟨RING_PORT_CFG p, 16, 4⟩

def RING_PORT_CFG_TRIGGER_ID (p : Nat) : Field := ⟨RING_PORT_CFG p, 0, 16⟩

/-- RING_PORT_STATE: 10_bindweed_rings. -/
def RING_PORT_STATE (p : Nat) : Nat := 0x501004 + 1024 * p

def RING_PORT_STATE_FOUND (p : Nat) : Field := ⟨RING_PORT_STATE p, 16, 5⟩

def RING_PORT_STATE_BAD_RUN (p : Nat) : Field := ⟨RING_PORT_STATE p, 8, 4⟩

def RING_PORT_STATE_LINK_B (p : Nat) : Field := ⟨RING_PORT_STATE p, 5, 1⟩

def RING_PORT_STATE_LINK_A (p : Nat) : Field := ⟨RING_PORT_STATE p, 4, 1⟩

def RING_PORT_STATE_STATE (p : Nat) : Field := ⟨RING_PORT_STATE p, 0, 3⟩

/-- RING_PORT_ROUND: 10_bindweed_rings. -/
def RING_PORT_ROUND (p : Nat) : Nat := 0x501008 + 1024 * p

def RING_PORT_ROUND_ROUND_NS (p : Nat) : Field := ⟨RING_PORT_ROUND p, 0, 32⟩

/-- RING_PORT_CNT: 10_bindweed_rings. -/
def RING_PORT_CNT (p : Nat) (k : Nat) : Nat := 0x501010 + 1024 * p + 4 * k

def RING_PORT_CNT_VALUE (p : Nat) (k : Nat) : Field := ⟨RING_PORT_CNT p k, 0, 32⟩

/-- RING_NODE_LAYOUT: 10_bindweed_rings. -/
def RING_NODE_LAYOUT (p : Nat) (n : Nat) : Nat := 0x501100 + 1024 * p + 16 * n

def RING_NODE_LAYOUT_HOP_NS (p : Nat) (n : Nat) : Field := ⟨RING_NODE_LAYOUT p n, 22, 10⟩

def RING_NODE_LAYOUT_FB_WORDS (p : Nat) (n : Nat) : Field := ⟨RING_NODE_LAYOUT p n, 17, 5⟩

def RING_NODE_LAYOUT_CMD_WORDS (p : Nat) (n : Nat) : Field := ⟨RING_NODE_LAYOUT p n, 12, 5⟩

def RING_NODE_LAYOUT_BULK_UNITS (p : Nat) (n : Nat) : Field := ⟨RING_NODE_LAYOUT p n, 0, 8⟩

/-- RING_NODE_VENDOR: 10_bindweed_rings. -/
def RING_NODE_VENDOR (p : Nat) (n : Nat) : Nat := 0x501104 + 1024 * p + 16 * n

def RING_NODE_VENDOR_VENDOR (p : Nat) (n : Nat) : Field := ⟨RING_NODE_VENDOR p n, 0, 32⟩

/-- RING_NODE_PRODUCT: 10_bindweed_rings. -/
def RING_NODE_PRODUCT (p : Nat) (n : Nat) : Nat := 0x501108 + 1024 * p + 16 * n

def RING_NODE_PRODUCT_PRODUCT (p : Nat) (n : Nat) : Field := ⟨RING_NODE_PRODUCT p n, 0, 32⟩

/-- RING_NODE_STATUS: 10_bindweed_rings. -/
def RING_NODE_STATUS (p : Nat) (n : Nat) : Nat := 0x50110c + 1024 * p + 16 * n

def RING_NODE_STATUS_PRESENT (p : Nat) (n : Nat) : Field := ⟨RING_NODE_STATUS p n, 31, 1⟩

def RING_NODE_STATUS_NSTATUS (p : Nat) (n : Nat) : Field := ⟨RING_NODE_STATUS p n, 16, 8⟩

def RING_NODE_STATUS_SILENT (p : Nat) (n : Nat) : Field := ⟨RING_NODE_STATUS p n, 0, 16⟩

/-- RING_RULE_STATE: 10_bindweed_rings. -/
def RING_RULE_STATE (r : Nat) : Nat := 0x50a000 + 4 * r

def RING_RULE_STATE_ARMED (r : Nat) : Field := ⟨RING_RULE_STATE r, 31, 1⟩

def RING_RULE_STATE_LATCHED (r : Nat) : Field := ⟨RING_RULE_STATE r, 30, 1⟩

def RING_RULE_STATE_FIRED_LAST (r : Nat) : Field := ⟨RING_RULE_STATE r, 29, 1⟩

def RING_RULE_STATE_COUNT (r : Nat) : Field := ⟨RING_RULE_STATE r, 0, 24⟩

/-- TIME_STATUS: 11_time. -/
def TIME_STATUS : Nat := 0x300000

def TIME_STATUS_RAMPING : Field := ⟨TIME_STATUS, 5, 1⟩

def TIME_STATUS_LOCKED : Field := ⟨TIME_STATUS, 4, 1⟩

def TIME_STATUS_D1_VALID : Field := ⟨TIME_STATUS, 3, 1⟩

def TIME_STATUS_D0_VALID : Field := ⟨TIME_STATUS, 2, 1⟩

def TIME_STATUS_SOURCE : Field := ⟨TIME_STATUS, 0, 2⟩

/-- TIME_CFG: 11_time. -/
def TIME_CFG : Nat := 0x300004

def TIME_CFG_MODE : Field := ⟨TIME_CFG, 31, 1⟩

def TIME_CFG_RAMP_PPM : Field := ⟨TIME_CFG, 19, 9⟩

def TIME_CFG_HOLDOVER_MS : Field := ⟨TIME_CFG, 9, 10⟩

def TIME_CFG_RETURN_100MS : Field := ⟨TIME_CFG, 0, 8⟩

/-- TIME_NOW: 11_time. -/
def TIME_NOW : Nat := 0x300008

def TIME_NOW_TIME : Field := ⟨TIME_NOW, 0, 64⟩

/-- TIME_FRAC: 11_time. -/
def TIME_FRAC : Nat := 0x300010

def TIME_FRAC_FRAC : Field := ⟨TIME_FRAC, 0, 32⟩

/-- TIME_INCR: 11_time. -/
def TIME_INCR : Nat := 0x300018

def TIME_INCR_INCR : Field := ⟨TIME_INCR, 0, 36⟩

/-- TIME_SET: 11_time. -/
def TIME_SET : Nat := 0x300020

def TIME_SET_VALUE : Field := ⟨TIME_SET, 0, 64⟩

/-- TIME_LOCK: 11_time. -/
def TIME_LOCK : Nat := 0x300028

def TIME_LOCK_NS : Field := ⟨TIME_LOCK, 0, 16⟩

/-- TIME_DOM_CFG: 11_time. -/
def TIME_DOM_CFG (d : Nat) : Nat := 0x300100 + 64 * d

def TIME_DOM_CFG_EN (d : Nat) : Field := ⟨TIME_DOM_CFG d, 31, 1⟩

def TIME_DOM_CFG_PRIORITY1 (d : Nat) : Field := ⟨TIME_DOM_CFG d, 16, 8⟩

def TIME_DOM_CFG_LOG_SYNC (d : Nat) : Field := ⟨TIME_DOM_CFG d, 8, 8⟩

def TIME_DOM_CFG_PORT (d : Nat) : Field := ⟨TIME_DOM_CFG d, 0, 1⟩

/-- TIME_TRIG_STATE: 11_time. -/
def TIME_TRIG_STATE (i : Nat) : Nat := 0x301000 + 16 * i

def TIME_TRIG_STATE_ARMED (i : Nat) : Field := ⟨TIME_TRIG_STATE i, 31, 1⟩

def TIME_TRIG_STATE_FIRED (i : Nat) : Field := ⟨TIME_TRIG_STATE i, 0, 24⟩

/-- NET_GCL_CFG: 11_time. -/
def NET_GCL_CFG (port : Nat) : Nat := 0xe01000 + 256 * port

def NET_GCL_CFG_EN (port : Nat) : Field := ⟨NET_GCL_CFG port, 31, 1⟩

def NET_GCL_CFG_ENTRIES (port : Nat) : Field := ⟨NET_GCL_CFG port, 16, 7⟩

def NET_GCL_CFG_TRIGGER_ID (port : Nat) : Field := ⟨NET_GCL_CFG port, 0, 16⟩

/-- NET_GCL_STATUS: 11_time. -/
def NET_GCL_STATUS (port : Nat) : Nat := 0xe01004 + 256 * port

def NET_GCL_STATUS_CURRENT (port : Nat) : Field := ⟨NET_GCL_STATUS port, 16, 7⟩

def NET_GCL_STATUS_LATE (port : Nat) : Field := ⟨NET_GCL_STATUS port, 0, 16⟩

/-- SNS_STATUS: 12_sensors_clover. -/
def SNS_STATUS : Nat := 0x600000

def SNS_STATUS_REFINE_SUSPENDED : Field := ⟨SNS_STATUS, 24, 1⟩

def SNS_STATUS_GROUPS_RUN : Field := ⟨SNS_STATUS, 16, 8⟩

def SNS_STATUS_RUN_STREAMS : Field := ⟨SNS_STATUS, 0, 8⟩

/-- SNS_CAL_EPOCH: 12_sensors_clover. -/
def SNS_CAL_EPOCH : Nat := 0x600004

def SNS_CAL_EPOCH_EPOCH : Field := ⟨SNS_CAL_EPOCH, 0, 32⟩

/-- SNS_STREAM_STATE: 12_sensors_clover. -/
def SNS_STREAM_STATE (s : Nat) : Nat := 0x601000 + 32 * s

def SNS_STREAM_STATE_RUN (s : Nat) : Field := ⟨SNS_STREAM_STATE s, 31, 1⟩

def SNS_STREAM_STATE_TRUSTED (s : Nat) : Field := ⟨SNS_STREAM_STATE s, 30, 1⟩

/-- SNS_STREAM_CNT: 12_sensors_clover. -/
def SNS_STREAM_CNT (s : Nat) (k : Nat) : Nat := 0x601004 + 32 * s + 4 * k

def SNS_STREAM_CNT_COUNT (s : Nat) (k : Nat) : Field := ⟨SNS_STREAM_CNT s k, 0, 32⟩

/-- SNS_STREAM_OFFSET: 12_sensors_clover. -/
def SNS_STREAM_OFFSET (s : Nat) : Nat := 0x601018 + 32 * s

def SNS_STREAM_OFFSET_OFFSET (s : Nat) : Field := ⟨SNS_STREAM_OFFSET s, 0, 64⟩

/-- SNS_GROUP_STATUS: 12_sensors_clover. -/
def SNS_GROUP_STATUS (g : Nat) : Nat := 0x603000 + 16 * g

def SNS_GROUP_STATUS_RUN (g : Nat) : Field := ⟨SNS_GROUP_STATUS g, 31, 1⟩

def SNS_GROUP_STATUS_INCOMPLETE (g : Nat) : Field := ⟨SNS_GROUP_STATUS g, 0, 16⟩

/-- SNS_GROUP_CNT: 12_sensors_clover. -/
def SNS_GROUP_CNT (g : Nat) (k : Nat) : Nat := 0x603004 + 16 * g + 4 * k

def SNS_GROUP_CNT_VALUE (g : Nat) (k : Nat) : Field := ⟨SNS_GROUP_CNT g k, 0, 32⟩

/-- PLN_STATUS: 13_vetch_planner. -/
def PLN_STATUS : Nat := 0x700000

def PLN_STATUS_LIB_BOUND : Field := ⟨PLN_STATUS, 9, 1⟩

def PLN_STATUS_EN : Field := ⟨PLN_STATUS, 8, 1⟩

def PLN_STATUS_ACTIVE : Field := ⟨PLN_STATUS, 0, 3⟩

/-- PLN_CFG: 13_vetch_planner. -/
def PLN_CFG : Nat := 0x700004

def PLN_CFG_OWNER : Field := ⟨PLN_CFG, 16, 6⟩

def PLN_CFG_PITCH_MS : Field := ⟨PLN_CFG, 8, 8⟩

def PLN_CFG_EN : Field := ⟨PLN_CFG, 0, 1⟩

/-- PLN_MAP_EPOCH: 13_vetch_planner. -/
def PLN_MAP_EPOCH : Nat := 0x700008

def PLN_MAP_EPOCH_PUBLISHED : Field := ⟨PLN_MAP_EPOCH, 0, 32⟩

/-- PLN_MAP_FREE: 13_vetch_planner. -/
def PLN_MAP_FREE : Nat := 0x70000c

def PLN_MAP_FREE_FREE : Field := ⟨PLN_MAP_FREE, 0, 24⟩

/-- PLN_MAP_REG: 13_vetch_planner. -/
def PLN_MAP_REG : Nat := 0x700010

def PLN_MAP_REG_SIZE : Field := ⟨PLN_MAP_REG, 32, 17⟩

def PLN_MAP_REG_BASE : Field := ⟨PLN_MAP_REG, 0, 17⟩

/-- PLN_WORK_REG: 13_vetch_planner. -/
def PLN_WORK_REG : Nat := 0x700018

def PLN_WORK_REG_SIZE : Field := ⟨PLN_WORK_REG, 32, 17⟩

def PLN_WORK_REG_BASE : Field := ⟨PLN_WORK_REG, 0, 17⟩

/-- PLN_SLICE_BASE: 13_vetch_planner. -/
def PLN_SLICE_BASE : Nat := 0x700020

def PLN_SLICE_BASE_SB : Field := ⟨PLN_SLICE_BASE, 0, 64⟩

/-- PLN_ORIGIN: 13_vetch_planner. -/
def PLN_ORIGIN (k : Nat) : Nat := 0x700028 + 4 * k

def PLN_ORIGIN_ORIGIN (k : Nat) : Field := ⟨PLN_ORIGIN k, 0, 32⟩

/-- PLN_CNT: 13_vetch_planner. -/
def PLN_CNT (k : Nat) : Nat := 0x700040 + 4 * k

def PLN_CNT_COUNT (k : Nat) : Field := ⟨PLN_CNT k, 0, 32⟩

/-- SAFE_STATUS: 14_safety_concept. -/
def SAFE_STATUS : Nat := 0xb00000

def SAFE_STATUS_BENCH : Field := ⟨SAFE_STATUS, 17, 1⟩

def SAFE_STATUS_CORE_CAUSE : Field := ⟨SAFE_STATUS, 16, 1⟩

def SAFE_STATUS_MODE : Field := ⟨SAFE_STATUS, 12, 2⟩

def SAFE_STATUS_OUT_B : Field := ⟨SAFE_STATUS, 10, 2⟩

def SAFE_STATUS_OUT_A : Field := ⟨SAFE_STATUS, 8, 2⟩

def SAFE_STATUS_LATCH_B : Field := ⟨SAFE_STATUS, 3, 1⟩

def SAFE_STATUS_LATCH_A : Field := ⟨SAFE_STATUS, 2, 1⟩

def SAFE_STATUS_STATE : Field := ⟨SAFE_STATUS, 0, 2⟩

/-- SAFE_CAUSE: 14_safety_concept. -/
def SAFE_CAUSE : Nat := 0xb00004

def SAFE_CAUSE_FIRST : Field := ⟨SAFE_CAUSE, 16, 8⟩

/-- SAFE_ENTRY_TIME: 14_safety_concept. -/
def SAFE_ENTRY_TIME : Nat := 0xb00008

def SAFE_ENTRY_TIME_E : Field := ⟨SAFE_ENTRY_TIME, 0, 64⟩

/-- SAFE_CAUSES: 14_safety_concept. -/
def SAFE_CAUSES : Nat := 0xb00010

def SAFE_CAUSES_MASK : Field := ⟨SAFE_CAUSES, 1, 18⟩

/-- SAFE_REQ: 14_safety_concept. -/
def SAFE_REQ : Nat := 0xb00014

def SAFE_REQ_CAUSE : Field := ⟨SAFE_REQ, 8, 8⟩

def SAFE_REQ_STO : Field := ⟨SAFE_REQ, 1, 1⟩

def SAFE_REQ_REQ : Field := ⟨SAFE_REQ, 0, 1⟩

/-- SAFE_WDT: 14_safety_concept. -/
def SAFE_WDT : Nat := 0xb00018

def SAFE_WDT_KEY : Field := ⟨SAFE_WDT, 0, 32⟩

/-- SAFE_CFG: 14_safety_concept. -/
def SAFE_CFG : Nat := 0xb00020

def SAFE_CFG_COMPARE_US : Field := ⟨SAFE_CFG, 22, 10⟩

def SAFE_CFG_TIMEOUT_MS : Field := ⟨SAFE_CFG, 8, 14⟩

def SAFE_CFG_STOP_DISC_MS : Field := ⟨SAFE_CFG, 0, 8⟩

/-- SAFE_SETTLE: 14_safety_concept. -/
def SAFE_SETTLE : Nat := 0xb00024

def SAFE_SETTLE_SETTLE_MS : Field := ⟨SAFE_SETTLE, 0, 10⟩

/-- SAFE_DIS_HIST: 14_safety_concept. -/
def SAFE_DIS_HIST : Nat := 0xb00028

def SAFE_DIS_HIST_HIST : Field := ⟨SAFE_DIS_HIST, 0, 16⟩

/-- SAFE_CNT: 14_safety_concept. -/
def SAFE_CNT (k : Nat) : Nat := 0xb00040 + 4 * k

def SAFE_CNT_COUNT (k : Nat) : Field := ⟨SAFE_CNT k, 0, 32⟩

/-- SAFE_GOLDEN_TIME: 14_safety_concept. -/
def SAFE_GOLDEN_TIME : Nat := 0xb00060

def SAFE_GOLDEN_TIME_PASSED : Field := ⟨SAFE_GOLDEN_TIME, 0, 64⟩

/-- SAFE_INJECT: 14_safety_concept. -/
def SAFE_INJECT : Nat := 0xb00068

def SAFE_INJECT_DONE : Field := ⟨SAFE_INJECT, 31, 1⟩

def SAFE_INJECT_FAILED : Field := ⟨SAFE_INJECT, 0, 8⟩

/-- LOG_STATUS: 17_tansy_recorder. -/
def LOG_STATUS : Nat := 0xc00000

def LOG_STATUS_STAGED : Field := ⟨LOG_STATUS, 16, 7⟩

def LOG_STATUS_SCAN_DONE : Field := ⟨LOG_STATUS, 3, 1⟩

def LOG_STATUS_RESERVE_FULL : Field := ⟨LOG_STATUS, 2, 1⟩

def LOG_STATUS_FULL : Field := ⟨LOG_STATUS, 1, 1⟩

def LOG_STATUS_FROZEN : Field := ⟨LOG_STATUS, 0, 1⟩

/-- PWR_STATUS: 18_mallow_power_thermal. -/
def PWR_STATUS : Nat := 0x200000

def PWR_STATUS_TRIP : Field := ⟨PWR_STATUS, 31, 1⟩

def PWR_STATUS_SENSE_SUSPECT : Field := ⟨PWR_STATUS, 30, 1⟩

def PWR_STATUS_DIVERGED : Field := ⟨PWR_STATUS, 29, 1⟩

def PWR_STATUS_EXHAUSTED : Field := ⟨PWR_STATUS, 28, 1⟩

def PWR_STATUS_THROTTLING : Field := ⟨PWR_STATUS, 27, 1⟩

def PWR_STATUS_CAPPING : Field := ⟨PWR_STATUS, 26, 1⟩

def PWR_STATUS_RAMPING : Field := ⟨PWR_STATUS, 25, 1⟩

def PWR_STATUS_FIXED : Field := ⟨PWR_STATUS, 24, 1⟩

/-- PWR_CFG: 18_mallow_power_thermal. -/
def PWR_CFG : Nat := 0x200004

def PWR_CFG_DERATE_W : Field := ⟨PWR_CFG, 24, 8⟩

def PWR_CFG_THROTTLE_C : Field := ⟨PWR_CFG, 16, 8⟩

def PWR_CFG_GAIN : Field := ⟨PWR_CFG, 8, 4⟩

def PWR_CFG_FIXED : Field := ⟨PWR_CFG, 0, 1⟩

/-- PWR_CAP: 18_mallow_power_thermal. -/
def PWR_CAP : Nat := 0x200008

def PWR_CAP_CAP_P : Field := ⟨PWR_CAP, 16, 16⟩

def PWR_CAP_CAP_S : Field := ⟨PWR_CAP, 0, 16⟩

/-- PWR_TARGET: 18_mallow_power_thermal. -/
def PWR_TARGET : Nat := 0x20000c

def PWR_TARGET_TARGET : Field := ⟨PWR_TARGET, 16, 16⟩

def PWR_TARGET_CAP_S_EFF : Field := ⟨PWR_TARGET, 0, 16⟩

/-- PWR_MEAS: 18_mallow_power_thermal. -/
def PWR_MEAS : Nat := 0x200010

def PWR_MEAS_E : Field := ⟨PWR_MEAS, 16, 16⟩

def PWR_MEAS_M : Field := ⟨PWR_MEAS, 0, 16⟩

/-- PWR_BUBBLE: 18_mallow_power_thermal. -/
def PWR_BUBBLE : Nat := 0x200014

def PWR_BUBBLE_EFF : Field := ⟨PWR_BUBBLE, 16, 9⟩

def PWR_BUBBLE_JOB : Field := ⟨PWR_BUBBLE, 8, 8⟩

def PWR_BUBBLE_OWN : Field := ⟨PWR_BUBBLE, 0, 8⟩

/-- PWR_FREQ: 18_mallow_power_thermal. -/
def PWR_FREQ : Nat := 0x200018

def PWR_FREQ_CURRENT_MHZ : Field := ⟨PWR_FREQ, 16, 10⟩

def PWR_FREQ_PERMITTED_MHZ : Field := ⟨PWR_FREQ, 0, 10⟩

/-- PWR_BUCKET: 18_mallow_power_thermal. -/
def PWR_BUCKET : Nat := 0x20001c

def PWR_BUCKET_Q : Field := ⟨PWR_BUCKET, 0, 32⟩

/-- PWR_VIN: 18_mallow_power_thermal. -/
def PWR_VIN : Nat := 0x200020

def PWR_VIN_VIN : Field := ⟨PWR_VIN, 0, 16⟩

/-- PWR_THERM: 18_mallow_power_thermal. -/
def PWR_THERM : Nat := 0x200024

def PWR_THERM_TRIP_MAX : Field := ⟨PWR_THERM, 24, 8⟩

def PWR_THERM_TJ : Field := ⟨PWR_THERM, 16, 8⟩

def PWR_THERM_INLET : Field := ⟨PWR_THERM, 8, 8⟩

def PWR_THERM_OUTLET : Field := ⟨PWR_THERM, 0, 8⟩

/-- PWR_PHASE: 18_mallow_power_thermal. -/
def PWR_PHASE (k : Nat) : Nat := 0x200040 + 4 * k

def PWR_PHASE_FAULT (k : Nat) : Field := ⟨PWR_PHASE k, 31, 1⟩

def PWR_PHASE_I_IN (k : Nat) : Field := ⟨PWR_PHASE k, 0, 16⟩

/-- PWR_CNT: 18_mallow_power_thermal. -/
def PWR_CNT (k : Nat) : Nat := 0x200060 + 4 * k

def PWR_CNT_COUNT (k : Nat) : Field := ⟨PWR_CNT k, 0, 32⟩

/-- PWR_TEMP: 18_mallow_power_thermal. -/
def PWR_TEMP (i : Nat) : Nat := 0x200100 + 4 * i

def PWR_TEMP_TEMP (i : Nat) : Field := ⟨PWR_TEMP i, 0, 8⟩

/-- LINK_STATUS: 19_pyilarek_links. -/
def LINK_STATUS : Nat := 0xd00000

def LINK_STATUS_READY_TO_REMOVE : Field := ⟨LINK_STATUS, 11, 1⟩

def LINK_STATUS_LEAVING : Field := ⟨LINK_STATUS, 10, 1⟩

def LINK_STATUS_JOIN_BUSY : Field := ⟨LINK_STATUS, 9, 1⟩

def LINK_STATUS_SEATED : Field := ⟨LINK_STATUS, 8, 1⟩

/-- LINK_CFG: 19_pyilarek_links. -/
def LINK_CFG : Nat := 0xd00004

def LINK_CFG_AUTO_JOIN : Field := ⟨LINK_CFG, 31, 1⟩

def LINK_CFG_REPLAY_LIMIT : Field := ⟨LINK_CFG, 16, 8⟩

def LINK_CFG_RETRAIN_MS : Field := ⟨LINK_CFG, 0, 5⟩

/-- LINK_PORT_STATE: 19_pyilarek_links. -/
def LINK_PORT_STATE (p : Nat) : Nat := 0xd00100 + 64 * p

def LINK_PORT_STATE_LOCK (p : Nat) : Field := ⟨LINK_PORT_STATE p, 24, 8⟩

def LINK_PORT_STATE_PEER (p : Nat) : Field := ⟨LINK_PORT_STATE p, 16, 2⟩

def LINK_PORT_STATE_PEER_VALID (p : Nat) : Field := ⟨LINK_PORT_STATE p, 15, 1⟩

def LINK_PORT_STATE_STATE (p : Nat) : Field := ⟨LINK_PORT_STATE p, 0, 3⟩

/-- LINK_PORT_CNT: 19_pyilarek_links. -/
def LINK_PORT_CNT (p : Nat) (k : Nat) : Nat := 0xd00104 + 64 * p + 4 * k

def LINK_PORT_CNT_COUNT (p : Nat) (k : Nat) : Field := ⟨LINK_PORT_CNT p k, 0, 32⟩

/-- SEC_STATUS: 20_boot_security. -/
def SEC_STATUS : Nat := 0x100000

def SEC_STATUS_KEY_LOW : Field := ⟨SEC_STATUS, 19, 1⟩

def SEC_STATUS_KEY_DONE : Field := ⟨SEC_STATUS, 18, 1⟩

def SEC_STATUS_BENCH : Field := ⟨SEC_STATUS, 17, 1⟩

def SEC_STATUS_TRIAL : Field := ⟨SEC_STATUS, 16, 1⟩

def SEC_STATUS_TRIAL_BANK : Field := ⟨SEC_STATUS, 10, 2⟩

def SEC_STATUS_BOOT_BANK : Field := ⟨SEC_STATUS, 8, 2⟩

def SEC_STATUS_FAIL_STAGE : Field := ⟨SEC_STATUS, 4, 4⟩

def SEC_STATUS_PHASE : Field := ⟨SEC_STATUS, 0, 4⟩

/-- SEC_UID: 20_boot_security. -/
def SEC_UID : Nat := 0x100008

def SEC_UID_UID : Field := ⟨SEC_UID, 0, 64⟩

/-- SEC_OWNER: 20_boot_security. -/
def SEC_OWNER : Nat := 0x100010

def SEC_OWNER_DEBUG_OK : Field := ⟨SEC_OWNER, 8, 4⟩

def SEC_OWNER_REVOKED : Field := ⟨SEC_OWNER, 4, 4⟩

def SEC_OWNER_VALID : Field := ⟨SEC_OWNER, 0, 4⟩

/-- SEC_SIG_INDEX: 20_boot_security. -/
def SEC_SIG_INDEX : Nat := 0x100014

def SEC_SIG_INDEX_NEXT : Field := ⟨SEC_SIG_INDEX, 0, 21⟩

/-- SEC_SET: 20_boot_security. -/
def SEC_SET : Nat := 0x100018

def SEC_SET_COMMIT_PENDING : Field := ⟨SEC_SET, 2, 1⟩

def SEC_SET_SHADOW_VALID : Field := ⟨SEC_SET, 1, 1⟩

def SEC_SET_ACTIVE_AREA : Field := ⟨SEC_SET, 0, 1⟩

/-- GLB_RESET_CAUSE: 21_resets_power_states. -/
def GLB_RESET_CAUSE : Nat := 0xc

def GLB_RESET_CAUSE_WAKE : Field := ⟨GLB_RESET_CAUSE, 4, 4⟩

def GLB_RESET_CAUSE_CAUSE : Field := ⟨GLB_RESET_CAUSE, 0, 4⟩

/-- PWR_LPSTATE: 21_resets_power_states. -/
def PWR_LPSTATE : Nat := 0x200028

def PWR_LPSTATE_LAST_WAKE : Field := ⟨PWR_LPSTATE, 16, 3⟩

def PWR_LPSTATE_STATE : Field := ⟨PWR_LPSTATE, 0, 2⟩

/-- PWR_WAKE: 21_resets_power_states. -/
def PWR_WAKE : Nat := 0x20002c

def PWR_WAKE_REMAIN_MS : Field := ⟨PWR_WAKE, 0, 32⟩

/-- PCIE_STATUS: 22_connectors_electrical. -/
def PCIE_STATUS : Nat := 0xf00000

def PCIE_STATUS_WIDTH : Field := ⟨PCIE_STATUS, 8, 4⟩

def PCIE_STATUS_SPEED : Field := ⟨PCIE_STATUS, 2, 3⟩

def PCIE_STATUS_LINK_UP : Field := ⟨PCIE_STATUS, 0, 1⟩

/-- PCIE_CFG: 22_connectors_electrical. -/
def PCIE_CFG : Nat := 0xf00004

def PCIE_CFG_EN : Field := ⟨PCIE_CFG, 31, 1⟩

def PCIE_CFG_PERST : Field := ⟨PCIE_CFG, 30, 1⟩

def PCIE_CFG_MAX_SPEED : Field := ⟨PCIE_CFG, 0, 3⟩

/-- PCIE_CFG_ADDR: 22_connectors_electrical. -/
def PCIE_CFG_ADDR : Nat := 0xf00008

def PCIE_CFG_ADDR_BUS : Field := ⟨PCIE_CFG_ADDR, 20, 8⟩

def PCIE_CFG_ADDR_DEV : Field := ⟨PCIE_CFG_ADDR, 15, 5⟩

def PCIE_CFG_ADDR_FN : Field := ⟨PCIE_CFG_ADDR, 12, 3⟩

def PCIE_CFG_ADDR_REG : Field := ⟨PCIE_CFG_ADDR, 2, 10⟩

/-- PCIE_CFG_DATA: 22_connectors_electrical. -/
def PCIE_CFG_DATA : Nat := 0xf0000c

def PCIE_CFG_DATA_DATA : Field := ⟨PCIE_CFG_DATA, 0, 32⟩

/-- PCIE_MEM_ADDR: 22_connectors_electrical. -/
def PCIE_MEM_ADDR : Nat := 0xf00010

def PCIE_MEM_ADDR_ADDR : Field := ⟨PCIE_MEM_ADDR, 2, 62⟩

/-- PCIE_MEM_DATA: 22_connectors_electrical. -/
def PCIE_MEM_DATA : Nat := 0xf00018

def PCIE_MEM_DATA_DATA : Field := ⟨PCIE_MEM_DATA, 0, 32⟩

/-- PCIE_INBOUND: 22_connectors_electrical. -/
def PCIE_INBOUND : Nat := 0xf00020

def PCIE_INBOUND_SIZE : Field := ⟨PCIE_INBOUND, 32, 17⟩

def PCIE_INBOUND_CTX : Field := ⟨PCIE_INBOUND, 26, 6⟩

def PCIE_INBOUND_BASE : Field := ⟨PCIE_INBOUND, 0, 17⟩

/-- NET_MGMT_CFG: 23_command_reference. -/
def NET_MGMT_CFG (e : Nat) : Nat := 0xe00000 + 64 * e

def NET_MGMT_CFG_EN (e : Nat) : Field := ⟨NET_MGMT_CFG e, 31, 1⟩

def NET_MGMT_CFG_CLASS (e : Nat) : Field := ⟨NET_MGMT_CFG e, 28, 3⟩

/-- NET_MGMT_SESSION: 23_command_reference. -/
def NET_MGMT_SESSION (e : Nat) : Nat := 0xe00004 + 64 * e

def NET_MGMT_SESSION_SESSION (e : Nat) : Field := ⟨NET_MGMT_SESSION e, 0, 32⟩

/-- NET_MGMT_PEER: 23_command_reference. -/
def NET_MGMT_PEER (e : Nat) : Nat := 0xe00008 + 64 * e

def NET_MGMT_PEER_MAC (e : Nat) : Field := ⟨NET_MGMT_PEER e, 0, 48⟩

/-- NET_MGMT_CNT: 23_command_reference. -/
def NET_MGMT_CNT (e : Nat) (k : Nat) : Nat := 0xe00010 + 64 * e + 4 * k

def NET_MGMT_CNT_COUNT (e : Nat) (k : Nat) : Field := ⟨NET_MGMT_CNT e k, 0, 32⟩

/-- TILE_DBG: 24_quelor_programming. -/
def TILE_DBG (tile : Nat) (t : Nat) : Nat := 0x1000c00 + 0x100000 * tile + 4 * t

def TILE_DBG_STEP (tile : Nat) (t : Nat) : Field := ⟨TILE_DBG tile t, 2, 1⟩

def TILE_DBG_RESUME (tile : Nat) (t : Nat) : Field := ⟨TILE_DBG tile t, 1, 1⟩

def TILE_DBG_HALT (tile : Nat) (t : Nat) : Field := ⟨TILE_DBG tile t, 0, 1⟩

/-- TILE_DBG_REG: 24_quelor_programming. -/
def TILE_DBG_REG (tile : Nat) (t : Nat) (r : Nat) : Nat := 0x1001000 + 0x100000 * tile + 256 * t + 8 * r

def TILE_DBG_REG_VALUE (tile : Nat) (t : Nat) (r : Nat) : Field := ⟨TILE_DBG_REG tile t r, 0, 64⟩

/-- MEM_DBG_ADDR: 24_quelor_programming. -/
def MEM_DBG_ADDR : Nat := 0xa00800

def MEM_DBG_ADDR_ERR : Field := ⟨MEM_DBG_ADDR, 63, 1⟩

def MEM_DBG_ADDR_ADDR : Field := ⟨MEM_DBG_ADDR, 3, 52⟩

/-- MEM_DBG_DATA: 24_quelor_programming. -/
def MEM_DBG_DATA : Nat := 0xa00808

def MEM_DBG_DATA_DATA : Field := ⟨MEM_DBG_DATA, 0, 64⟩

/-- LOG_NEXT_SEQ: 17_tansy_recorder. -/
def LOG_NEXT_SEQ : Nat := 0xc00004

def LOG_NEXT_SEQ_VALUE : Field := ⟨LOG_NEXT_SEQ, 0, 32⟩

/-- LOG_FREEZE_SEQ: 17_tansy_recorder. -/
def LOG_FREEZE_SEQ : Nat := 0xc00008

def LOG_FREEZE_SEQ_VALUE : Field := ⟨LOG_FREEZE_SEQ, 0, 32⟩

/-- LOG_LOST: 17_tansy_recorder. -/
def LOG_LOST : Nat := 0xc0000c

def LOG_LOST_VALUE : Field := ⟨LOG_LOST, 0, 32⟩

/-- LOG_DROPPED: 17_tansy_recorder. -/
def LOG_DROPPED : Nat := 0xc00010

def LOG_DROPPED_VALUE : Field := ⟨LOG_DROPPED, 0, 32⟩

/-- LOG_POWER_CYCLES: 17_tansy_recorder. -/
def LOG_POWER_CYCLES : Nat := 0xc00014

def LOG_POWER_CYCLES_VALUE : Field := ⟨LOG_POWER_CYCLES, 0, 32⟩

/-- LOG_OP_SECONDS: 17_tansy_recorder. -/
def LOG_OP_SECONDS : Nat := 0xc00018

def LOG_OP_SECONDS_VALUE : Field := ⟨LOG_OP_SECONDS, 0, 32⟩

end Reg

/-- The rows of the GLB block. -/
def regRowsGlb : List RegDesc := [
  ⟨0x0, 0x4000000, 1, 0x4000000, 1, 1, 0x11921000, 0x0, 0x0, 0x0, 0x0⟩,
  ⟨0x4, 0x4000000, 1, 0x4000000, 1, 1, 0x0, 0x0, 0x0, 0x0, 0x0⟩,
  ⟨0x8, 0x4000000, 1, 0x4000000, 1, 1, 0x0, 0xffffffff, 0x0, 0x0, 0x0⟩,
  ⟨0xc, 0x4000000, 1, 0x4000000, 1, 1, 0x0, 0x0, 0x0, 0x0, 0x0⟩]

/-- The rows of the TILE block. -/
def regRowsTile : List RegDesc := [
  ⟨0x1000000, 0x100000, 48, 0x100000, 1, 1, 0x0, 0x0, 0x0, 0x0, 0x0⟩,
  ⟨0x1000004, 0x100000, 48, 0x100000, 1, 1, 0x0, 0x1, 0x0, 0x2, 0x0⟩,
  ⟨0x1000008, 0x100000, 48, 0x100000, 1, 1, 0x0, 0x0, 0x0, 0x0, 0x0⟩,
  ⟨0x1000010, 0x100000, 48, 0x100000, 1, 1, 0x0, 0x0, 0x80000000, 0x0, 0x0⟩,
  ⟨0x1000014, 0x100000, 48, 0x100000, 1, 1, 0x0, 0x0, 0x10000, 0x0, 0x0⟩,
  ⟨0x1000040, 0x100000, 48, 0x100000, 1, 2, 0x0, 0x0, 0x0, 0x0, 0x0⟩,
  ⟨0x1000100, 0x100000, 48, 0x8, 6, 2, 0x0, 0x0, 0x0, 0x0, 0x0⟩,
  ⟨0x1000200, 0x100000, 48, 0x4, 64, 1, 0x0, 0x7f3fff7f, 0x0, 0x0, 0x0⟩,
  ⟨0x1000400, 0x100000, 48, 0x4, 128, 1, 0x0, 0x3f, 0x0, 0x6000, 0x0⟩,
  ⟨0x1000800, 0x100000, 48, 0x8, 128, 2, 0x0, 0x0, 0x0, 0x0, 0x0⟩,
  ⟨0x1000c00, 0x100000, 48, 0x4, 128, 1, 0x0, 0x0, 0x0, 0x7, 0x0⟩,
  ⟨0x1001000, 0x100000, 48, 0x8, 4096, 2, 0x0, 0xffffffffffffffff, 0x0, 0x0, 0x0⟩]

/-- The rows of the MEM block. -/
def regRowsMem : List RegDesc := [
  ⟨0xa00000, 0x4000000, 1, 0x4000000, 1, 1, 0x0, 0x0, 0x0, 0x0, 0x0⟩,
  ⟨0xa00008, 0x4000000, 1, 0x4000000, 1, 2, 0x0, 0x0, 0x0, 0x0, 0x0⟩,
  ⟨0xa00010, 0x4000000, 1, 0x4000000, 1, 1, 0x118, 0x1ff, 0x0, 0x0, 0x0⟩,
  ⟨0xa00014, 0x4000000, 1, 0x4000000, 1, 1, 0x100, 0xffff, 0x0, 0x0, 0x0⟩,
  ⟨0xa00018, 0x4000000, 1, 0x4000000, 1, 1, 0x0, 0x0, 0xf, 0x0, 0x0⟩,
  ⟨0xa00040, 0x4, 12, 0x4, 1, 1, 0x0, 0x0, 0x0, 0x0, 0x0⟩,
  ⟨0xa00080, 0x4000000, 1, 0x4000000, 1, 1, 0x64, 0x0, 0x0, 0x0, 0x0⟩,
  ⟨0xa00100, 0x4, 64, 0x4, 1, 1, 0x0, 0x1, 0x0, 0x0, 0x0⟩,
  ⟨0xa00200, 0x8, 64, 0x8, 1, 2, 0x0, 0x7ffffffffff000, 0x0, 0x0, 0x0⟩,
  ⟨0xa00400, 0x8, 64, 0x8, 1, 2, 0x0, 0x1ffff0001ffff, 0x0, 0x0, 0x0⟩,
  ⟨0xa00600, 0x4, 64, 0x4, 1, 1, 0x0, 0x3ff03ff, 0x0, 0x0, 0x0⟩,
  ⟨0xa00700, 0x4, 64, 0x4, 1, 1, 0x0, 0x0, 0x0, 0x0, 0x0⟩,
  ⟨0xa00800, 0x4000000, 1, 0x4000000, 1, 2, 0x0, 0x7ffffffffffff8, 0x0, 0x0, 0x0⟩,
  ⟨0xa00808, 0x4000000, 1, 0x4000000, 1, 2, 0x0, 0x0, 0x0, 0x0, 0x0⟩]

/-- The rows of the KVM block. -/
def regRowsKvm : List RegDesc := [
  ⟨0x800000, 0x4000000, 1, 0x4000000, 1, 1, 0x0, 0x0, 0x0, 0x0, 0x0⟩,
  ⟨0x800008, 0x4000000, 1, 0x4000000, 1, 2, 0x0, 0x0, 0x0, 0x0, 0x0⟩,
  ⟨0x800100, 0x8, 64, 0x8, 1, 2, 0x0, 0x1ffff0001ffff, 0x0, 0x0, 0x0⟩,
  ⟨0x800300, 0x4, 64, 0x4, 1, 1, 0x0, 0x1f001fff, 0x0, 0x0, 0x0⟩,
  ⟨0x800400, 0x4, 64, 0x4, 1, 1, 0x0, 0xffffffff, 0x0, 0x0, 0x0⟩,
  ⟨0x800500, 0x4, 64, 0x4, 1, 1, 0x0, 0x0, 0x0, 0x0, 0x0⟩,
  ⟨0x800600, 0x4, 64, 0x4, 1, 1, 0x0, 0x0, 0x0, 0x0, 0x0⟩,
  ⟨0x800700, 0x4, 64, 0x4, 1, 1, 0x0, 0x0, 0x0, 0x0, 0x0⟩,
  ⟨0x800800, 0x10, 64, 0x4, 4, 1, 0x0, 0x0, 0x0, 0x0, 0x0⟩]

/-- The rows of the QMGR block. -/
def regRowsQmgr : List RegDesc := [
  ⟨0x900000, 0x4000000, 1, 0x4000000, 1, 1, 0x0, 0x0, 0x0, 0x0, 0x0⟩,
  ⟨0x900004, 0x4000000, 1, 0x4000000, 1, 1, 0x0, 0x0, 0x0, 0x0, 0x3fff1fff⟩,
  ⟨0x900008, 0x4000000, 1, 0x4000000, 1, 1, 0x0, 0x0, 0x80000000, 0x0, 0x0⟩,
  ⟨0x90000c, 0x4000000, 1, 0x4000000, 1, 1, 0x0, 0x0, 0x0, 0x0, 0x0⟩,
  ⟨0x900010, 0x4000000, 1, 0x4000000, 1, 1, 0x64, 0xffff, 0x0, 0x0, 0x0⟩,
  ⟨0x980000, 0x20, 16384, 0x20, 1, 1, 0x0, 0xb03f1ffe, 0x0, 0x0, 0x0⟩,
  ⟨0x980004, 0x20, 16384, 0x20, 1, 1, 0x0, 0x1fff, 0x0, 0x0, 0x0⟩,
  ⟨0x980008, 0x20, 16384, 0x20, 1, 2, 0x0, 0x7ffffffffff000, 0x0, 0x0, 0x0⟩,
  ⟨0x980010, 0x20, 16384, 0x20, 1, 2, 0x0, 0x7fffffffffffc0, 0x0, 0x0, 0x0⟩,
  ⟨0x980018, 0x20, 16384, 0x20, 1, 1, 0x0, 0x0, 0xc0000000, 0x0, 0x0⟩,
  ⟨0x900020, 0x4000000, 1, 0x4000000, 1, 1, 0xa190040, 0xffffc0ff, 0x0, 0x0, 0x0⟩,
  ⟨0x910000, 0x40, 64, 0x40, 1, 1, 0x0, 0x0, 0x0, 0x80000000, 0x0⟩,
  ⟨0x910004, 0x40, 64, 0x40, 1, 1, 0x0, 0x0, 0x0, 0x0, 0x0⟩,
  ⟨0x910008, 0x40, 64, 0x4, 4, 1, 0x0, 0x0, 0x0, 0x0, 0x0⟩,
  ⟨0x910018, 0x40, 64, 0x40, 1, 1, 0x0, 0x0, 0x0, 0x0, 0x0⟩,
  ⟨0x910020, 0x40, 64, 0x4, 8, 1, 0x0, 0x0, 0x0, 0x0, 0x0⟩]

/-- The rows of the CTL block. -/
def regRowsCtl : List RegDesc := [
  ⟨0x400000, 0x4000000, 1, 0x4000000, 1, 1, 0x0, 0x0, 0x0, 0x0, 0x0⟩,
  ⟨0x400004, 0x4000000, 1, 0x4000000, 1, 1, 0x28a00000, 0xfff0ffff, 0x0, 0x0, 0x0⟩,
  ⟨0x400008, 0x4000000, 1, 0x4000000, 1, 1, 0x0, 0x0, 0x0, 0x0, 0x3⟩,
  ⟨0x400010, 0x4, 5, 0x4, 1, 1, 0x0, 0xffff, 0x0, 0x0, 0x0⟩,
  ⟨0x400040, 0x4, 8, 0x4, 1, 1, 0x0, 0x0, 0x0, 0x0, 0x0⟩,
  ⟨0x400100, 0x8, 64, 0x8, 1, 2, 0x0, 0xfffffffff, 0x0, 0x0, 0x0⟩,
  ⟨0x410000, 0x40, 256, 0x40, 1, 1, 0x40000, 0xff3f0307, 0x0, 0x0, 0x0⟩,
  ⟨0x410004, 0x40, 256, 0x40, 1, 1, 0x0, 0xfff07ff, 0x0, 0x0, 0x0⟩,
  ⟨0x410008, 0x40, 256, 0x40, 1, 1, 0x0, 0x0, 0x0, 0x0, 0x0⟩]

/-- The rows of the RING block. -/
def regRowsRing : List RegDesc := [
  ⟨0x500000, 0x4000000, 1, 0x4000000, 1, 1, 0x0, 0x0, 0x0, 0x0, 0x0⟩,
  ⟨0x500004, 0x4000000, 1, 0x4000000, 1, 1, 0x0, 0x0, 0x0, 0x0, 0x0⟩,
  ⟨0x501000, 0x400, 8, 0x400, 1, 1, 0x30000, 0x9f7fffff, 0x0, 0x0, 0x0⟩,
  ⟨0x501004, 0x400, 8, 0x400, 1, 1, 0x0, 0x0, 0x0, 0x0, 0x0⟩,
  ⟨0x501008, 0x400, 8, 0x400, 1, 1, 0x0, 0x0, 0x0, 0x0, 0x0⟩,
  ⟨0x501010, 0x400, 8, 0x4, 6, 1, 0x0, 0x0, 0x0, 0x0, 0x0⟩,
  ⟨0x501100, 0x400, 8, 0x10, 16, 1, 0xfa000000, 0xfffff0ff, 0x0, 0x0, 0x0⟩,
  ⟨0x501104, 0x400, 8, 0x10, 16, 1, 0x0, 0xffffffff, 0x0, 0x0, 0x0⟩,
  ⟨0x501108, 0x400, 8, 0x10, 16, 1, 0x0, 0xffffffff, 0x0, 0x0, 0x0⟩,
  ⟨0x50110c, 0x400, 8, 0x10, 16, 1, 0x0, 0x0, 0x0, 0x0, 0x0⟩,
  ⟨0x50a000, 0x4, 256, 0x4, 1, 1, 0x0, 0x0, 0x0, 0x0, 0x0⟩]

/-- The rows of the TIME block. -/
def regRowsTime : List RegDesc := [
  ⟨0x300000, 0x4000000, 1, 0x4000000, 1, 1, 0x0, 0x0, 0x0, 0x0, 0x0⟩,
  ⟨0x300004, 0x4000000, 1, 0x4000000, 1, 1, 0x3206414, 0x8ffffeff, 0x0, 0x0, 0x0⟩,
  ⟨0x300008, 0x4000000, 1, 0x4000000, 1, 2, 0x0, 0x0, 0x0, 0x0, 0x0⟩,
  ⟨0x300010, 0x4000000, 1, 0x4000000, 1, 1, 0x0, 0x0, 0x0, 0x0, 0x0⟩,
  ⟨0x300018, 0x4000000, 1, 0x4000000, 1, 2, 0x200000000, 0x0, 0x0, 0x0, 0x0⟩,
  ⟨0x300020, 0x4000000, 1, 0x4000000, 1, 2, 0x0, 0xffffffffffffffff, 0x0, 0x0, 0x0⟩,
  ⟨0x300028, 0x4000000, 1, 0x4000000, 1, 1, 0x3e8, 0xffff, 0x0, 0x0, 0x0⟩,
  ⟨0x300100, 0x40, 2, 0x40, 1, 1, 0xfffd00, 0x80ffff01, 0x0, 0x0, 0x0⟩,
  ⟨0x301000, 0x10, 64, 0x10, 1, 1, 0x0, 0x0, 0x0, 0x0, 0x0⟩]

/-- The rows of the NET block. -/
def regRowsNet : List RegDesc := [
  ⟨0xe01000, 0x100, 2, 0x100, 1, 1, 0x0, 0x807fffff, 0x0, 0x0, 0x0⟩,
  ⟨0xe01004, 0x100, 2, 0x100, 1, 1, 0x0, 0x0, 0x0, 0x0, 0x0⟩,
  ⟨0xe00000, 0x40, 2, 0x40, 1, 1, 0xf0000000, 0xf0000000, 0x0, 0x0, 0x0⟩,
  ⟨0xe00004, 0x40, 2, 0x40, 1, 1, 0x0, 0x0, 0x0, 0x0, 0x0⟩,
  ⟨0xe00008, 0x40, 2, 0x40, 1, 2, 0x0, 0xffffffffffff, 0x0, 0x0, 0x0⟩,
  ⟨0xe00010, 0x40, 2, 0x4, 5, 1, 0x0, 0x0, 0x0, 0x0, 0x0⟩]

/-- The rows of the SNS block. -/
def regRowsSns : List RegDesc := [
  ⟨0x600000, 0x4000000, 1, 0x4000000, 1, 1, 0x0, 0x0, 0x0, 0x0, 0x0⟩,
  ⟨0x600004, 0x4000000, 1, 0x4000000, 1, 1, 0x0, 0x0, 0x0, 0x0, 0x0⟩,
  ⟨0x601000, 0x20, 128, 0x20, 1, 1, 0x0, 0x0, 0x0, 0x0, 0x0⟩,
  ⟨0x601004, 0x20, 128, 0x4, 5, 1, 0x0, 0x0, 0x0, 0x0, 0x0⟩,
  ⟨0x601018, 0x20, 128, 0x20, 1, 2, 0x0, 0x0, 0x0, 0x0, 0x0⟩,
  ⟨0x603000, 0x10, 8, 0x10, 1, 1, 0x0, 0x0, 0x0, 0x0, 0x0⟩,
  ⟨0x603004, 0x10, 8, 0x4, 3, 1, 0x0, 0x0, 0x0, 0x0, 0x0⟩]

/-- The rows of the PLN block. -/
def regRowsPln : List RegDesc := [
  ⟨0x700000, 0x4000000, 1, 0x4000000, 1, 1, 0x0, 0x0, 0x0, 0x0, 0x0⟩,
  ⟨0x700004, 0x4000000, 1, 0x4000000, 1, 1, 0x3200, 0x0, 0x0, 0x0, 0x0⟩,
  ⟨0x700008, 0x4000000, 1, 0x4000000, 1, 1, 0x0, 0x0, 0x0, 0x0, 0x0⟩,
  ⟨0x70000c, 0x4000000, 1, 0x4000000, 1, 1, 0x0, 0x0, 0x0, 0x0, 0x0⟩,
  ⟨0x700010, 0x4000000, 1, 0x4000000, 1, 2, 0x0, 0x0, 0x0, 0x0, 0x0⟩,
  ⟨0x700018, 0x4000000, 1, 0x4000000, 1, 2, 0x0, 0x0, 0x0, 0x0, 0x0⟩,
  ⟨0x700020, 0x4000000, 1, 0x4000000, 1, 2, 0x0, 0x0, 0x0, 0x0, 0x0⟩,
  ⟨0x700028, 0x4, 3, 0x4, 1, 1, 0x0, 0x0, 0x0, 0x0, 0x0⟩,
  ⟨0x700040, 0x4, 6, 0x4, 1, 1, 0x0, 0x0, 0x0, 0x0, 0x0⟩]

/-- The rows of the SAFE block. -/
def regRowsSafe : List RegDesc := [
  ⟨0xb00000, 0x4000000, 1, 0x4000000, 1, 1, 0x0, 0x0, 0x0, 0x0, 0x0⟩,
  ⟨0xb00004, 0x4000000, 1, 0x4000000, 1, 1, 0x0, 0x0, 0x0, 0x0, 0x0⟩,
  ⟨0xb00008, 0x4000000, 1, 0x4000000, 1, 2, 0x0, 0x0, 0x0, 0x0, 0x0⟩,
  ⟨0xb00010, 0x4000000, 1, 0x4000000, 1, 1, 0x0, 0x0, 0x0, 0x0, 0x0⟩,
  ⟨0xb00014, 0x4000000, 1, 0x4000000, 1, 1, 0x0, 0x0, 0x0, 0x0, 0xff03⟩,
  ⟨0xb00018, 0x4000000, 1, 0x4000000, 1, 1, 0x0, 0x0, 0x0, 0x0, 0xffffffff⟩,
  ⟨0xb00020, 0x4000000, 1, 0x4000000, 1, 1, 0x960fa014, 0x0, 0x0, 0x0, 0x0⟩,
  ⟨0xb00024, 0x4000000, 1, 0x4000000, 1, 1, 0xc8, 0x0, 0x0, 0x0, 0x0⟩,
  ⟨0xb00028, 0x4000000, 1, 0x4000000, 1, 1, 0x0, 0x0, 0x0, 0x0, 0x0⟩,
  ⟨0xb00040, 0x4, 8, 0x4, 1, 1, 0x0, 0x0, 0x0, 0x0, 0x0⟩,
  ⟨0xb00060, 0x4000000, 1, 0x4000000, 1, 2, 0x0, 0x0, 0x0, 0x0, 0x0⟩,
  ⟨0xb00068, 0x4000000, 1, 0x4000000, 1, 1, 0x0, 0x0, 0x0, 0x0, 0x0⟩]

/-- The rows of the LOG block. -/
def regRowsLog : List RegDesc := [
  ⟨0xc00000, 0x4000000, 1, 0x4000000, 1, 1, 0x0, 0x0, 0x0, 0x0, 0x0⟩,
  ⟨0xc00004, 0x4000000, 1, 0x4000000, 1, 1, 0x0, 0x0, 0x0, 0x0, 0x0⟩,
  ⟨0xc00008, 0x4000000, 1, 0x4000000, 1, 1, 0x0, 0x0, 0x0, 0x0, 0x0⟩,
  ⟨0xc0000c, 0x4000000, 1, 0x4000000, 1, 1, 0x0, 0x0, 0x0, 0x0, 0x0⟩,
  ⟨0xc00010, 0x4000000, 1, 0x4000000, 1, 1, 0x0, 0x0, 0x0, 0x0, 0x0⟩,
  ⟨0xc00014, 0x4000000, 1, 0x4000000, 1, 1, 0x0, 0x0, 0x0, 0x0, 0x0⟩,
  ⟨0xc00018, 0x4000000, 1, 0x4000000, 1, 1, 0x0, 0x0, 0x0, 0x0, 0x0⟩]

/-- The rows of the PWR block. -/
def regRowsPwr : List RegDesc := [
  ⟨0x200000, 0x4000000, 1, 0x4000000, 1, 1, 0x1000000, 0x0, 0x0, 0x0, 0x0⟩,
  ⟨0x200004, 0x4000000, 1, 0x4000000, 1, 1, 0xa640401, 0xffff0f01, 0x0, 0x0, 0x0⟩,
  ⟨0x200008, 0x4000000, 1, 0x4000000, 1, 1, 0x17c012c, 0xffffffff, 0x0, 0x0, 0x0⟩,
  ⟨0x20000c, 0x4000000, 1, 0x4000000, 1, 1, 0x17c012c, 0x0, 0x0, 0x0, 0x0⟩,
  ⟨0x200010, 0x4000000, 1, 0x4000000, 1, 1, 0x0, 0x0, 0x0, 0x0, 0x0⟩,
  ⟨0x200014, 0x4000000, 1, 0x4000000, 1, 1, 0x0, 0x0, 0x0, 0x0, 0x0⟩,
  ⟨0x200018, 0x4000000, 1, 0x4000000, 1, 1, 0x32003e8, 0x0, 0x0, 0x0, 0x0⟩,
  ⟨0x20001c, 0x4000000, 1, 0x4000000, 1, 1, 0x0, 0x0, 0x0, 0x0, 0x0⟩,
  ⟨0x200020, 0x4000000, 1, 0x4000000, 1, 1, 0x0, 0x0, 0x0, 0x0, 0x0⟩,
  ⟨0x200024, 0x4000000, 1, 0x4000000, 1, 1, 0x0, 0x0, 0x0, 0x0, 0x0⟩,
  ⟨0x200040, 0x4, 8, 0x4, 1, 1, 0x0, 0x0, 0x0, 0x0, 0x0⟩,
  ⟨0x200060, 0x4, 6, 0x4, 1, 1, 0x0, 0x0, 0x0, 0x0, 0x0⟩,
  ⟨0x200100, 0x4, 78, 0x4, 1, 1, 0x0, 0x0, 0x0, 0x0, 0x0⟩,
  ⟨0x200028, 0x4000000, 1, 0x4000000, 1, 1, 0x0, 0x0, 0x0, 0x0, 0x0⟩,
  ⟨0x20002c, 0x4000000, 1, 0x4000000, 1, 1, 0x0, 0x0, 0x0, 0x0, 0x0⟩]

/-- The rows of the LINK block. -/
def regRowsLink : List RegDesc := [
  ⟨0xd00000, 0x4000000, 1, 0x4000000, 1, 1, 0x0, 0x0, 0x0, 0x0, 0x0⟩,
  ⟨0xd00004, 0x4000000, 1, 0x4000000, 1, 1, 0x100002, 0x80ff001f, 0x0, 0x0, 0x0⟩,
  ⟨0xd00100, 0x40, 3, 0x40, 1, 1, 0x0, 0x0, 0x0, 0x0, 0x0⟩,
  ⟨0xd00104, 0x40, 3, 0x4, 5, 1, 0x0, 0x0, 0x0, 0x0, 0x0⟩]

/-- The rows of the SEC block. -/
def regRowsSec : List RegDesc := [
  ⟨0x100000, 0x4000000, 1, 0x4000000, 1, 1, 0x0, 0x0, 0x0, 0x0, 0x0⟩,
  ⟨0x100008, 0x4000000, 1, 0x4000000, 1, 2, 0x0, 0x0, 0x0, 0x0, 0x0⟩,
  ⟨0x100010, 0x4000000, 1, 0x4000000, 1, 1, 0x0, 0x0, 0x0, 0x0, 0x0⟩,
  ⟨0x100014, 0x4000000, 1, 0x4000000, 1, 1, 0x0, 0x0, 0x0, 0x0, 0x0⟩,
  ⟨0x100018, 0x4000000, 1, 0x4000000, 1, 1, 0x0, 0x0, 0x0, 0x0, 0x0⟩]

/-- The rows of the PCIE block. -/
def regRowsPcie : List RegDesc := [
  ⟨0xf00000, 0x4000000, 1, 0x4000000, 1, 1, 0x0, 0x0, 0x0, 0x0, 0x0⟩,
  ⟨0xf00004, 0x4000000, 1, 0x4000000, 1, 1, 0x40000005, 0xc0000007, 0x0, 0x0, 0x0⟩,
  ⟨0xf00008, 0x4000000, 1, 0x4000000, 1, 1, 0x0, 0xffffffc, 0x0, 0x0, 0x0⟩,
  ⟨0xf0000c, 0x4000000, 1, 0x4000000, 1, 1, 0x0, 0xffffffff, 0x0, 0x0, 0x0⟩,
  ⟨0xf00010, 0x4000000, 1, 0x4000000, 1, 2, 0x0, 0xfffffffffffffffc, 0x0, 0x0, 0x0⟩,
  ⟨0xf00018, 0x4000000, 1, 0x4000000, 1, 1, 0x0, 0xffffffff, 0x0, 0x0, 0x0⟩,
  ⟨0xf00020, 0x4000000, 1, 0x4000000, 1, 2, 0x0, 0x1fffffc01ffff, 0x0, 0x0, 0x0⟩]

/-- The rows of one slot of the window (Table 1.4). -/
def regRows : Nat → List RegDesc
  | 0 => regRowsGlb
  | 1 => regRowsSec
  | 2 => regRowsPwr
  | 3 => regRowsTime
  | 4 => regRowsCtl
  | 5 => regRowsRing
  | 6 => regRowsSns
  | 7 => regRowsPln
  | 8 => regRowsKvm
  | 9 => regRowsQmgr
  | 10 => regRowsMem
  | 11 => regRowsSafe
  | 12 => regRowsLog
  | 13 => regRowsLink
  | 14 => regRowsNet
  | 15 => regRowsPcie
  | _ => regRowsTile

/-- Whether a row holds the word at `off`; the outer index, the inner index and which word of the register it is. -/
def regMatch (r : RegDesc) (off : Nat) : Option (Nat × Nat × Nat) :=
  if off < r.base then none else
    let i := (off - r.base) / r.s1
    let m := (off - r.base) % r.s1
    let j := m / r.s2
    let w := m % r.s2
    if i < r.n1 ∧ j < r.n2 ∧ w < 4 * r.words then some (i, j, w / 4) else none

/-- The first row of a list that holds the word at `off`. -/
def regFindIn (off : Nat) : List RegDesc → Option (RegDesc × Nat × Nat × Nat)
  | [] => none
  | r :: rs => match regMatch r off with
    | some (i, j, w) => some (r, i, j, w)
    | none => regFindIn off rs

/-- The row that holds the aligned word at a window offset; none where no chapter defines one (R36). -/
def regFind (off : Nat) : Option (RegDesc × Nat × Nat × Nat) :=
  if off % 4 = 0 ∧ off < 0x4000000 then regFindIn off (regRows (off / 0x100000)) else none

end Sys2Proof.Machine
end

