-- ==== Sys2Proof/Machine/State.lean ====
section
/-! DEFINITION. The machine's state: every register, buffer, counter and mode the spec gives the module, as plain data,
and the state right after power-on reset. Large arrays are sparse stores whose unlisted entries are the records named
`init`, so that reset lists nothing. -/

namespace Sys2Proof.Machine

/-- Why a step stops with a fault. No command of the spec stops the block: every one has an effect, a completion status, an
event record or no effect at all, so no fault has a name. -/
inductive Fault where
  deriving DecidableEq, Repr

/-- Why a step gives no meaning. -/
inductive Refusal where
  /-- Raised by the dispatch for a command that has no meaning yet; safe. -/
  | notModelled (mnemonic : String)
  deriving DecidableEq, Repr

/-! ### Campion tiles (02, 24) -/

/-- Thread states (Table 2.2). -/
inductive ThreadState where
  | unassigned
  | idle
  | ready
  | waiting
  | debugHalt
  deriving DecidableEq, Repr

/-- What a WAITING thread waits on (R45, R583, R584, R586, R595). -/
inductive Wait where
  | nothing
  | tokens (mask : Nat)
  | unitQueue (unit_ : Nat)
  | queue (q expected rd : Nat)
  | debugData (rd : Nat)
  deriving DecidableEq, Repr

/-- A hardware thread (R44, R45, R587); x0 is not stored and reads 0. -/
structure Thread where
  state  : ThreadState
  ctx    : Nat
  regs   : Store DWord
  pc     : Nat
  tokens : Nat
  wait   : Wait
  depth  : Nat
  launch : Option Nat
  lbars  : Nat
  /-- A debugger halt takes effect at the next instruction boundary (R593). -/
  haltNext : Bool
  /-- One instruction is to be issued in DEBUG_HALT (R593). -/
  step   : Bool
  /-- HALT has been issued and retires once the thread's unit commands have completed (R47). -/
  halting : Bool
  deriving DecidableEq, Repr

/-- An unassigned thread. -/
def Thread.init : Thread := ⟨.unassigned, 0, [], 0, 0, .nothing, 0, none, 0, false, false, false⟩

/-- A unit command in a queue or started (R48, R50). `seq` is the issue number of an LBAR within its thread; `dead` marks
a command ended by a fault or a teardown, whose end signals nothing. -/
structure UnitCmd where
  ctx    : Nat
  thread : Nat
  token  : Nat
  op     : UnitOp
  launch : Option Nat
  seq    : Nat
  dead   : Bool
  /-- JBAR: the barrier generation it waits for (R509). -/
  gen    : Nat
  /-- The unit has let the command go and serves others (R243). -/
  released : Bool
  deriving DecidableEq, Repr

/-- The step figures that a narrowing command writes into a scale-state record when it ends (R100): the context and address
of the record, the largest value it narrowed, and its counts of saturated elements, of all elements and of NaNs. -/
structure Figures where
  ctx    : Nat
  record : Nat
  amax   : Word
  sat    : Nat
  total  : Nat
  nan    : Nat
  deriving DecidableEq, Repr

/-- One of the six units of a tile: its queue of at most 16 commands, its started commands, the context it served
last (R48, R50), and the figures its started command writes at its end (R100). -/
structure UnitState where
  queue   : List UnitCmd
  started : List UnitCmd
  last    : Nat
  figures : Option Figures
  deriving DecidableEq, Repr

/-- An idle unit. -/
def UnitState.init : UnitState := ⟨[], [], 63, none⟩

/-- A job barrier (R509): its generation here, the local arrivals of this generation, and per module how many arrivals
from this generation on have come. -/
structure Barrier where
  gen     : Nat
  here    : Nat
  arrived : List Nat
  deriving DecidableEq, Repr

/-- A barrier nobody has arrived at. -/
def Barrier.init : Barrier := ⟨0, 0, [0, 0, 0, 0]⟩

/-- An earlier value of a page-table entry that a translation cache may still hold (R118): the context whose table it lies in, the
entry's address, the value, and the virtual ranges (first byte, bytes) invalidated since the entry was edited. -/
structure Stale where
  ctx   : Nat
  entry : Nat
  old   : Nat
  gone  : List (Nat × Nat)
  deriving DecidableEq, Repr

/-- A running ATTEND: its snapshot (R158). `slots` are (page index, slot). -/
structure Attend where
  q      : Nat
  n      : Nat
  ctx    : Nat
  epoch  : Nat
  length : Nat
  trim   : Nat
  window : Nat
  page   : Nat
  slots  : List (Nat × Nat)
  deriving DecidableEq, Repr

/-- A running KERNEL_LAUNCH (R72, R186, R449). -/
structure Launch where
  id       : Nat
  ctx      : Nat
  q        : Nat
  n        : Nat
  entry    : Nat
  length   : Nat
  level    : Nat
  latched  : List (Nat × Nat)
  switched : Bool
  remote   : Bool
  start    : Nat
  golden   : Bool
  /-- The fewest LBARs a thread of the launch had issued when it halted (R585). -/
  lbarCap  : Option Nat
  deriving DecidableEq, Repr

/-! ### Queues and contexts (07, 08) -/

/-- How far a command has come (R207, R208). -/
inductive Phase where
  | waiting
  | started
  | complete
  deriving DecidableEq, Repr

/-- What a FENCE still waits for at one named queue (R219). -/
inductive FenceWait where
  | here (q count : Nat)
  | remote (m q : Nat)
  | reached
  deriving DecidableEq, Repr

/-- An outstanding command of a queue: its 64 bytes as fetched, its phase, and what its reply will carry (Table 7.6).
`unread` marks a submission entry that read uncorrectable (R442). `captured` holds what a FENCE waits for
(R219); `startedAt` is when it started; `engaged` marks a command whose engine has accepted it and which waits for an event;
`done` counts the pages a memory-move command has completed (R122, R148). -/
structure QCmd where
  n        : Nat
  packet   : List Byte
  phase    : Phase
  status   : Nat
  detail   : Nat
  time     : Nat
  unread   : Bool
  startedAt    : Nat
  engaged  : Bool
  captured : List FenceWait
  done     : Nat
  deriving DecidableEq, Repr

/-- The queue manager's own view of a queue (R200, R201, R229). -/
structure Queue where
  submitted : Nat
  cqTail    : Nat
  out       : List QCmd
  deriving DecidableEq, Repr

/-- A queue right after enabling. -/
def Queue.init : Queue := ⟨0, 0, []⟩

/-- A context plan record (Table 8.1). -/
structure Plan where
  role       : Nat
  cls        : Nat
  cflags     : Nat
  prio       : Nat
  lane       : Nat
  slice      : Nat
  tileMask   : Nat
  threads    : Nat
  sramBase   : Nat
  sramUnits  : Nat
  vbase      : Nat
  vregs      : Nat
  margin     : Nat
  flashGib   : Nat
  lpUnits    : Nat
  queueFirst : Nat
  queueCount : Nat
  kvUnits    : Nat
  kvPool     : Nat
  kvSeq      : Nat
  triggerId  : Nat
  entryId    : Nat
  periodNs   : Nat
  releaseNs  : Nat
  deadlineNs : Nat
  budgetNs   : Nat
  deriving DecidableEq, Repr

/-- A real-time frame that is open (R246): its release, its deadline, the launch that carries it once started. -/
structure CFrame where
  release  : Nat
  deadline : Nat
  launch   : Option Nat
  deriving DecidableEq, Repr

/-- A clear of RUN bits that a no-pre-empt section defers (R241): since when, and the tiles whose bits it keeps set. -/
structure Deferral where
  since : Nat
  tiles : Nat
  deriving DecidableEq, Repr

/-- What the queue manager holds for a context beside its registers. `plan` is none while the context is ABSENT. -/
structure Ctx where
  plan        : Option Plan
  charge      : Nat
  deferral    : Option Deferral
  frame       : Option CFrame
  /-- Firing of the frame trigger whose release is still to come. -/
  releaseAt   : Option Nat
  lastFiring  : Option Nat
  preclear    : Option Nat
  resetStarted : Bool
  /-- KVM: release stamp counter, KV_SATURATED at the last STEP_RETIRE, region initialisation under way. -/
  kvStamp     : Nat
  kvSatSeen   : Nat
  kvInit      : Bool
  deriving DecidableEq, Repr

/-- An absent context. -/
def Ctx.init : Ctx := ⟨none, 0, none, none, none, none, none, false, 0, 0, false⟩

/-- A best-effort lane (R239): its slice holder, when the slice began, its length, and by PRIO the context served last; the round
robin of each PRIO begins with the lowest context (log entry 4). -/
structure Lane where
  holder : Option Nat
  start  : Nat
  length : Nat
  last   : Store Nat
  deriving DecidableEq, Repr

/-- A lane without a holder. -/
def Lane.init : Lane := ⟨none, 0, 0, []⟩

/-! ### Resident image (06) -/

/-- A tolerance record (Table 6.7). -/
structure Tolerance where
  output   : Nat
  loop     : Nat
  quantity : Nat
  tolAbs   : Word
  tolRel   : Word
  deriving DecidableEq, Repr

/-- An entry-point record (Table 6.5). -/
structure Entry where
  kind        : Nat
  levels      : Nat
  eflags      : Nat
  switchCount : Nat
  code        : List Nat
  wcet        : List Nat
  switchFirst : Nat
  deriving DecidableEq, Repr

/-- A switch record (Table 6.6). -/
structure Switch where
  point  : Nat
  remain : List Nat
  resume : List Nat
  deriving DecidableEq, Repr

/-- A placement record (Table 6.8). -/
structure Placement where
  role    : Nat
  section_ : Nat
  tile    : Nat
  unit_   : Nat
  src     : Nat
  bytes   : Nat
  va      : Nat
  deriving DecidableEq, Repr

/-- A section table entry (Table 6.3). -/
structure Section where
  type    : Nat
  target  : Nat
  sflags  : Nat
  file    : Nat
  bytes   : Nat
  load    : Nat
  digest  : List Byte
  deriving DecidableEq, Repr

/-- What the module keeps of the resident image outside LPDDR5X (R190). -/
structure Image where
  slot      : Nat
  imageId   : Nat
  version   : Nat
  units     : Nat
  digest    : List Byte
  entries   : List Entry
  switches  : List Switch
  placement : List Placement
  sections  : List Section
  attn      : List Byte
  tolerance : List Tolerance
  goldenIn  : List Byte
  sigMain   : Nat
  sigChk    : Nat
  thistle   : List Byte
  deriving DecidableEq, Repr

/-! ### Memory upkeep (04, 16) -/

/-- What R445 and MEM_CORR_LIMIT ask of a stack: its latest uncorrectable words (operating second, address), the operating hours in
which it raised 0x1003, and whether it has raised it in the current hour. -/
structure StackLog where
  uncorr : List (Nat × Nat)
  hours  : List Nat
  said   : Bool
  deriving DecidableEq, Repr

/-- A stack without errors. -/
def StackLog.init : StackLog := ⟨[], [], false⟩

/-! ### Recorder (17) -/

/-- A record as its source raises it (Table 17.2). -/
structure Event where
  code   : Nat
  island : Nat
  rflags : Nat
  ctx    : Nat
  time   : Nat
  data   : List Byte
  deriving DecidableEq, Repr

/-- Tansy (R453..R463). `slots` are the 64-byte slots of the log area in MRAM. `lost` are the losses no 0xC001 has reported
yet, with the first and last TIME. -/
structure Tansy where
  slots      : Store (List Byte)
  bad        : List Nat
  frozen     : Bool
  full       : Bool
  reserveFull : Bool
  clearTime  : Nat
  clearCycle : Nat
  clearSeconds : Nat
  nextSeq    : Nat
  freezeSeq  : Nat
  lostTotal  : Nat
  dropped    : Nat
  powerCycle : Nat
  opSeconds  : Nat
  stored     : Nat
  scanDone   : Bool
  raised     : List Event
  staging    : List Event
  lost       : Nat
  lostFirst  : Nat
  lostLast   : Nat
  freezeAt   : Nat
  deriving DecidableEq, Repr

/-- An empty log (log entry 5). -/
def Tansy.init : Tansy :=
  ⟨[], [], false, false, false, 0, 0, 0, 1, 0, 0, 0, 0, 0, 0, false, [], [], 0, 0, 0, 0⟩
/-! ### Vetch (13) -/

/-- A brick of 64 voxels: static states, two bits each (R368), and predicted bits, 32 each (R369), with the epoch that
wrote its block (R371). -/
structure Brick where
  static : Nat
  pred   : Nat
  epoch  : Nat
  deriving DecidableEq, Repr

/-- An absent brick: UNKNOWN without prediction. -/
def Brick.init : Brick := ⟨0, 0, 0⟩

/-- One epoch's map: bricks by position (x + 128 y + 16384 z), and by key the interior nodes present, each with one more than
the epoch that wrote its block. -/
structure VMap where
  bricks : Store Brick
  nodes  : Store Nat
  epoch  : Nat
  sb     : Nat
  pitch  : Nat
  origin : List Int
  deriving DecidableEq, Repr

/-- The empty map of an epoch. -/
def VMap.init : VMap := ⟨[], [], 0, 0, 50, [0, 0, 0]⟩

/-- Vetch: published and open maps, the maps pinned by running queries (queue, command), the bound library's size in
bytes, PITCH_MS from the next publish. -/
structure Vetch where
  pub    : VMap
  opn    : VMap
  pins   : List (Nat × Nat × VMap)
  lib    : Option Nat
  nextPitch : Nat
  deriving DecidableEq, Repr

/-- Vetch after reset: an empty map and no library. -/
def Vetch.init : Vetch := ⟨VMap.init, { VMap.init with epoch := 1 }, [], none, 50⟩

/-! ### Management frames (23) -/

/-- What the module sends out, in order; the model's own record of its wires (log entry 10). -/
inductive Wire where
  /-- A frame leaving its Ethernet port in a class, from its destination to the end of its payload. -/
  | net (port cls : Nat) (frame : List Byte)
  /-- A two-step gPTP Sync of a domain leaving the domain's port, carrying module time (R321). -/
  | sync (port domain time : Nat)
  /-- A frame leaving end A of a ring port, from its destination to its last payload byte or padding (R283); its FCS follows, or the
  bitwise inverse of its FCS (R300). -/
  | ring (port : Nat) (inverse : Bool) (frame : List Byte)
  /-- A firing pulses the TRIG_OUTk of the mask from its nominal instant for a width in ns (R329). -/
  | pulse (mask time width : Nat)
  /-- Messages to other modules: JOIN request, JOIN_COMMIT, refusal, LOST, LEFT, power, barrier arrival. -/
  | join (port member : Nat)
  | joinCommit (member mask : Nat)
  | joinRefuse (member reason : Nat)
  | lostMsg (port member : Nat)
  | leftMsg (port member : Nat)
  | powerMsg (own mhz : Nat)
  | barrier (member b gen : Nat)
  | remoteWrite (peer addr : Nat) (data : List Byte)
  | remoteReply (peer : Nat) (ok : Bool) (data : List Byte)
  | pcieCfg (write : Bool) (addr : Nat) (value : Word)
  | pcieMem (write : Bool) (addr : Nat) (value : Word)
  | pcieReply (ok : Bool) (data : List Byte)
  /-- A FENCE's request to module `m` for its queue `q`, and whether it comes from a management queue, with the queue's owner. -/
  | fenceCapture (m q : Nat) (mgmt : Bool) (own : Nat)
  /-- To a module whose FENCE names queue `q` here: the queue has reached the captured count, or the FENCE cannot be (R219, R220). -/
  | fenceReached (m q : Nat)
  | fenceRefused (m q : Nat)
  | cowslipReply (addr : Nat) (value : Word)
  deriving DecidableEq, Repr

/-- Reply sending of one management port (R573, R576, R577): the first reply not yet sent, when the oldest unsent one was
posted, the command numbers of those that ask for notification, when replies were last sent, the latest peer, and the refused run. -/
structure Mgmt where
  unsent   : Nat
  postedAt : Nat
  notify   : List Nat
  sentAt   : Nat
  peer     : Nat
  vlan     : Option Nat
  refused  : Nat
  deriving DecidableEq, Repr

/-- A FENCE of another module that waits for a queue here: the module, the queue, and the count captured at the request's arrival
(R219). -/
structure Capture where
  member : Nat
  queue  : Nat
  count  : Nat
  deriving DecidableEq, Repr

/-- A port that has taken no frame. -/
def Mgmt.init : Mgmt := ⟨0, 0, [], 0, 0, none, 0⟩

/-! ### Yarrow (09) -/

/-- What a waiting control command asks of a loop at a boundary (R272, R275, R601). -/
inductive ReqKind where
  | swap
  | setpoint
  | enable
  | clear
  deriving DecidableEq, Repr

/-- A request taken at an instant for a command (queue, number), or for a SET_COMMIT (R267). -/
structure Req where
  kind  : ReqKind
  taken : Nat
  cmd   : Option (Nat × Nat)
  deriving DecidableEq, Repr

/-- A loop instance (R255 to R276). Banks are the 32 words of Table 9.2. `feNs` is the following-error timer, `feOn` whether it
runs; `lastSample` the boundary of its latest sample since it was enabled; `committed` the frame whose commit boundary it
passed last; `spE` its SP at E; `okSince` the first sample of the present run within SETTLE_TOL. -/
structure Loop where
  state      : Nat
  cause      : Nat
  sat        : Nat
  staleRun   : Nat
  extrap     : Bool
  bank       : Bool
  bankA      : List Word
  bankB      : List Word
  sp         : Word
  spPrev     : Word
  spIdle     : Word
  out        : Word
  integ      : Word
  d          : Word
  e          : Word
  fb         : Word
  s1         : List Word
  s2         : List Word
  feNs       : Nat
  feOn       : Bool
  lastSample : Option Nat
  reqs       : List Req
  committed  : Option Nat
  spE        : Word
  feSafe     : Bool
  okSince    : Option Nat
  deriving DecidableEq, Repr

/-- A loop that is OFF with zeroed states and empty banks. -/
def Loop.init : Loop :=
  ⟨0, 0, 0, 0, false, false, List.replicate 32 0, List.replicate 32 0, 0, 0, 0, 0, 0, 0, 0, 0, [0, 0, 0], [0, 0, 0], 0, false,
   none, [], none, 0, false, none⟩

/-- A whole-body frame in Yarrow (R274): T, the first CTL_COMMIT write with its instant, and whether 0x4002 and 0x4003 have
been raised for it. -/
structure YFrame where
  t       : Nat
  action  : Option (Nat × Nat)
  held    : Bool
  missing : Bool
  deriving DecidableEq, Repr

/-- A COEF_WRITE that waits for a swap (R273): the records still to be written. -/
structure CoefWait where
  q    : Nat
  n    : Nat
  rest : List (Nat × List Word)
  deriving DecidableEq, Repr

/-- The last firing that made boundaries of a rate: its instant, its trigger, and the loops that were running at it (R256). -/
structure RateMark where
  at_   : Nat
  trig  : Nat
  loops : List Nat
  deriving DecidableEq, Repr

/-- Yarrow: loops, the frames of which a commit boundary may still come, per rate the last firing, waiting COEF_WRITEs, per feedback
word the values received with their instants, newest first, and the words of a SET_COMMIT that wait for loops to be disabled
(R267), by register offset. -/
structure Yarrow where
  loops  : Store Loop
  frames : List YFrame
  rates  : Store (Option RateMark)
  coefs  : List CoefWait
  fb     : Store (List (Nat × Word))
  later  : List (Nat × Word)
  /-- Feedback words that read uncorrectable (R443). -/
  fbBad  : List Nat
  deriving DecidableEq, Repr

/-- Yarrow after reset. -/
def Yarrow.init : Yarrow := ⟨[], [], [], [], [], [], []⟩

/-! ### Bindweed rings (10) -/

/-- What a frame in flight is. -/
inductive FlightKind where
  | discover
  | layout
  | cyclic
  deriving DecidableEq, Repr

/-- A frame on a line: its launch time, whether COMMAND_INVALID and SAFE are set, its command areas, and lap 0's return
(FCS valid, GATHER_COUNT). -/
structure Flight where
  kind    : FlightKind
  seq     : Nat
  launch  : Nat
  invalid : Bool
  safe    : Bool
  cmds    : List (List Word)
  lap0    : Option (Bool × Nat)
  /-- It was launched before the discovery that is under way or came last. -/
  old     : Bool
  deriving DecidableEq, Repr

/-- A ring port beside its registers. `flight` is the DISCOVER or LAYOUT frame on the line, `line` the CYCLIC frames that are not
classed yet, oldest first. `image` is the deliver image by 16 × node + word: values with the instant from which a
copy takes them, newest first. `copied` holds the command areas copied for a launch. `last` is the deliver lap of the
previous frame of this RUN. `silent` marks the nodes silent in the latest frame. -/
structure RPort where
  image    : Store (List (Nat × Word))
  copied   : Option (Nat × List (List Word))
  seq      : Nat
  layoutId : Nat
  lastFire : Option Nat
  flight   : Option Flight
  line     : List Flight
  last     : Option (List (List Word))
  snapSeq  : Nat
  snapTime : Nat
  snap     : List Byte
  lostRun  : Bool
  badFcs   : Bool
  silent   : List Nat
  stopping : Bool
  laidOut  : Bool
  /-- Configuration words kept back until the port passes through LINK (R310). -/
  later    : List (Nat × Word)
  /-- Words of the deliver image that read uncorrectable, and the CYCLIC frames built from one (R443). -/
  badWords : List Nat
  badSeqs  : List Nat
  deriving DecidableEq, Repr

/-- A port that has sent nothing. -/
def RPort.init : RPort :=
  ⟨[], none, 0, 0, none, none, [], none, 0, 0, [], false, false, [], false, false, [], [], []⟩

/-- The ring ports, Teasel's rule records by number, and the failed ports of the running RING_PORT_STARTs: queue, command, DETAIL. -/
structure Rings where
  ports : Store RPort
  rules : Store (List Byte)
  fails : List (Nat × Nat × Nat)
  deriving DecidableEq, Repr

/-- An unused rule. -/
def ruleInit : List Byte := List.replicate 32 0

/-- Rings after reset. -/
def Rings.init : Rings := ⟨[], [], []⟩

/-! ### Time unit and Ethernet (11, 23) -/

/-- A gPTP domain (R321, R322): whether a grandmaster is selected, whether it is this module. OFFSET is in 2^-32 ns; RATE is
`rateNum / rateDen`; `syncs` are the last Syncs while VALID as (domain time, ticks), newest first, `lastSync` the module time of
the newest; `advanced` the ticks up to which OFFSET counts; `validAt` when the domain became VALID; `sentAt` the last Sync sent. -/
structure Domain where
  gm       : Bool
  self_    : Bool
  gmid     : Nat
  offset   : Int
  rateNum  : Nat
  rateDen  : Nat
  syncs    : List (Nat × Nat)
  lastSync : Nat
  advanced : Nat
  validAt  : Nat
  sentAt   : Option Nat
  deriving DecidableEq, Repr

/-- A domain without a grandmaster. -/
def Domain.init : Domain := ⟨false, false, 0, 0, 1, 1, [], 0, 0, 0, none⟩

/-- An Ethernet frame waiting at its port (R334, R573, R578): its class, launch time if it has one, and the NET_SEND it belongs to. -/
structure NetFrame where
  cls    : Nat
  launch : Option Nat
  bytes  : List Byte
  own    : Option (Nat × Nat)
  /-- When it was handed to the port. -/
  handed : Nat
  deriving DecidableEq, Repr

/-- An Ethernet port's gates (R333, R335): the list of the running cycle as (GATES, INTERVAL_NS), the set's entries, which the next
cycle takes, when the current entry began, the gates open now, the frames waiting, and the mean link delay in ns (R320). -/
structure NetPort where
  list    : List (Nat × Nat)
  entries : List (Nat × Nat)
  began   : Nat
  running : Bool
  gates   : Nat
  frames  : List NetFrame
  linkDelay : Nat
  deriving DecidableEq, Repr

/-- A port whose gates are all open. -/
def NetPort.init : NetPort := ⟨[], [], 0, false, 0xFF, [], 0⟩

/-- The time unit beside its registers: NEXT and record of each trigger, the domains, when HOLDOVER began, gate lists. `incr`
counts 2^-32 ns; `fracLatch` is TIME_FRAC. -/
structure TimeUnit where
  next     : Store Nat
  records  : Store (List Byte)
  domains  : Store Domain
  holdAt   : Option Nat
  net      : Store NetPort
  incr     : Nat
  fracLatch : Nat
  /-- Pulses on the trigger outputs: contacts, from, width in ns (R329). -/
  pulses   : List (Nat × Nat × Nat)
  deriving DecidableEq, Repr

/-- A trigger record nobody has set. -/
def trigInit : List Byte := List.replicate 32 0

/-- The time unit at power-on reset (R316). -/
def TimeUnit.init : TimeUnit := ⟨[], [], [], none, [], 0x200000000, 0, []⟩

/-! ### Mallow (18) and power states (21, 22) -/

/-- Mallow beside its registers. The bucket is in pJ (5 × µW per 5 µs sample); the runs count consecutive samples.
`peers` are the latest power messages (member, OWN, MHz); `adopt` is when one not yet adopted arrived. `shown` is OWN,
PERMITTED_MHZ and the clock of a power message as of the latest sample (R480). -/
structure Power where
  off       : Bool
  rstLow    : Bool
  dormant   : Bool
  bucket    : Nat
  measured  : Nat
  divRun    : Nat
  calmRun   : Nat
  overRun   : Nat
  overSaid  : Bool
  boostRun  : Nat
  capS      : Option Nat
  capP      : Option Nat
  ramp      : Option (Nat × Nat × Nat)
  peers     : List (Nat × Nat × Nat)
  adopt     : Option Nat
  sentAt    : Nat
  hot       : Bool
  hotMs     : Nat
  absent    : Bool
  presentAt : Option Nat
  presTerm  : Bool
  /-- REMAIN_MS: the time-clock tick at which WAKE_AFTER_MS ends. -/
  wakeTick  : Option Nat
  lpSince   : Nat
  coolWarn  : Option Nat
  lowFlow   : Option Nat
  shown     : Nat × Nat × Nat
  deriving DecidableEq, Repr

/-- Mallow at power-on reset. -/
def Power.init : Power :=
  ⟨false, false, false, 0, 0, 0, 0, 0, false, 0, none, none, none, [], none, 0, false, 0, false, none, false, none, 0,
   none, none, (0, 1000, 800)⟩

/-! ### Safety blocks (14) -/

/-- A Thistle pass: the input, whether it is the golden one, the frame T it belongs to. -/
structure Pass where
  golden : Bool
  frame  : Nat
  input  : List Byte
  deriving DecidableEq, Repr

/-- A verdict of the comparator (R397). -/
inductive Verdict3 where
  | agree
  | disagree
  | severe
  deriving DecidableEq, Repr

/-- A verdict on its way to Cowslip: the frame, and what its record carries. -/
structure Decision where
  verdict : Verdict3
  frame   : Nat
  data    : List Byte
  deriving DecidableEq, Repr

/-- A limit record's run (R404): violated ticks in a row, and the value at the previous tick. -/
structure LimitRun where
  run  : Nat
  prev : Option Word
  deriving DecidableEq, Repr

/-- A limit record never evaluated. -/
def LimitRun.init : LimitRun := ⟨0, none⟩

/-- Cowslip, Thistle and the comparator beside the SAFE registers. `frame` is the latest firing of the whole-body frame trigger;
`submitted` and `checked` say which submissions it has had, `main` and `check` are its results. `gates` holds the value taken last
by input of Table 14.2; `skewed` marks an input sampled again. `ticked` is the latest FRAME_TICK evaluated; `history` holds per
timing entry MISSES and BUDGET_OVERRUNS at the latest ticks, newest first. `stopSince` is when the stop contacts began to
differ, `served` when SAFE_WDT was written last, `missA` and `missB` mismatches in a row. `injectAt` is the tick of the latest
passed injection 7, `proofSaid` how often 0x8032 has been raised since. `gateBase` is the tick of the release of power-on reset, from
which the gates count, `gatesDone` how many have closed (R332). `critTrip` is Yarrow's signal of a tripped CRIT loop with its
instant (R269). -/
structure Safety where
  frame     : Option Nat
  submitted : Bool
  checked   : Bool
  main      : Option (List Word)
  check     : Option (List Word)
  decided   : Bool
  passes    : List Pass
  decision  : Option Decision
  goldenOut : Option (List Word)
  goldenChk : Option (List Word)
  goldenBase : Nat
  gates     : Store Nat
  skewed    : List Nat
  modeNext  : Option Nat
  ticked    : Option Nat
  limits    : Store LimitRun
  history   : Store (List (Nat × Nat))
  limitRecs : List (List Byte)
  timingRecs : List (List Byte)
  trajRecs  : List (List Byte)
  stopA     : Bool
  stopB     : Bool
  stopSince : Option Nat
  served    : Nat
  missA     : Nat
  missB     : Nat
  halted    : Bool
  injectAt  : Option Nat
  proofSaid : Nat
  gateBase  : Nat
  gatesDone : Nat
  critTrip  : Option (Nat × Nat)
  deriving DecidableEq, Repr

/-- The safety blocks after reset; the stop contacts read high (log entry 6). -/
def Safety.init : Safety :=
  ⟨none, false, false, none, none, true, [], none, none, none, 0, [], [], none, none, [], [], [], [], [], true, true, none, 0, 0, 0,
   false, none, 0, 0, 0, none⟩


/-! ### Sensor ingress and Clover (12) -/

/-- What a stream remembers of a record in its staging ring: SEQ, t, i, the groups it is late for, whether it is used by no
group (R346), whether a group has read it (R343), and whether it has aged out unused (R349). -/
structure StreamRec where
  seq   : Nat
  t     : Int
  i     : Nat
  late  : Nat
  order : Bool
  read  : Bool
  aged  : Bool
  deriving DecidableEq, Repr

/-- A stream: its descriptor and one kept back (R363), SEQ, the previous t, SENSOR_T, the counter last seen, o and o_ref, whether
a sample has come since STREAM_START, whether the last record overran, and its records in staging, newest first. -/
structure Stream where
  desc    : List Byte
  next    : Option (List Byte)
  seq     : Nat
  prev    : Option Int
  sensorT : Nat
  count   : Nat
  o       : Int
  oRef    : Int
  first   : Bool
  overrun : Bool
  samples : List StreamRec
  deriving DecidableEq, Repr

/-- An unused stream. -/
def Stream.init : Stream := ⟨List.replicate 64 0, none, 0, none, 0, 0, 0, 0, true, false, []⟩

/-- An entry of a fused-state record: its head and value area, the late samples used, its greatest cost in ns. -/
structure FuseEntry where
  bytes : List Byte
  late  : Nat
  cost  : Nat
  deriving DecidableEq, Repr

/-- A record Clover is building: T, its SEQ, CAL_EPOCH and entries. -/
structure FuseOpen where
  t       : Nat
  seq     : Nat
  epoch   : Nat
  entries : List FuseEntry
  deriving DecidableEq, Repr

/-- A fusion group: its descriptor and one kept back (R363), the instants so far (SEQ), the first and the latest instant, the
late samples not yet reported as (stream, missed instant, count), the latest instant reported for each stream, and the record being
built. -/
structure Group where
  desc    : List Byte
  next    : Option (List Byte)
  seq     : Nat
  firstT  : Nat
  lastT   : Nat
  missed  : List (Nat × Nat × Nat)
  told    : Store Nat
  open_   : Option FuseOpen
  deriving DecidableEq, Repr

/-- An unused group. -/
def Group.init : Group := ⟨List.replicate 32 0, none, 0, 0, 0, [], [], none⟩

/-- An extrinsic slot: the factory record, the current Q and P (28 bytes), and the accumulators A, b, n of R361. -/
structure Slot where
  factory : List Byte
  pose    : List Byte
  a       : List Word
  b       : List Word
  n       : Nat
  deriving DecidableEq, Repr

/-- An empty slot. -/
def Slot.init : Slot := ⟨List.replicate 64 0, List.replicate 28 0, List.replicate 9 0, List.replicate 3 0, 0⟩

/-- Sensor ingress and Clover beside the SNS registers. -/
structure Sensors where
  streams  : Store Stream
  groups   : Store Group
  slots    : Store Slot
  /-- Gather slots on their way to sensor ingress (R296), oldest first: stream, stamp, bytes. -/
  arrivals : List (Nat × Nat × List Byte)
  deriving DecidableEq, Repr

/-- Sensors after reset. -/
def Sensors.init : Sensors := ⟨[], [], [], []⟩

/-! ### Pyilarek links (19) -/

/-- A port beside its registers: the instants of the replays of the last millisecond, newest first, when its retrain began, and
when it failed. -/
structure LPort where
  replays   : List Nat
  retrainAt : Nat
  failedAt  : Nat
  deriving DecidableEq, Repr

/-- A port without history. -/
def LPort.init : LPort := ⟨[], 0, 0⟩

/-- A JOB_JOIN of this module: its command (none for AUTO_JOIN), when the request left, the arbiter, whether the commit has
come. -/
structure Join where
  cmd       : Option (Nat × Nat)
  at_       : Nat
  arbiter   : Nat
  committed : Bool
  deriving DecidableEq, Repr

/-- Links beside the LINK registers: `held` are join requests that wait for a retrain to end; `noAuto` keeps AUTO_JOIN from
acting after a removal (R556). -/
structure Links where
  ports  : Store LPort
  join   : Option Join
  held   : List (Nat × JoinRequest)
  noAuto : Bool
  deriving DecidableEq, Repr

/-- Links after reset. -/
def Links.init : Links := ⟨[], none, [], false⟩

/-! ### Harebell (20), image swap (06) -/

/-- IMAGE_HOLD while a SET_COMMIT runs (R192 to R196): its command, when it began, whether the previous image is back after a
failed step, and whether step 5 has passed. -/
structure Hold where
  q        : Nat
  n        : Nat
  start    : Nat
  fallback : Bool
  ready    : Bool
  deriving DecidableEq, Repr

/-- Harebell: a SET_COMMIT waiting for its trigger (queue, command, trigger), IMAGE_HOLD, the set areas in MRAM by byte offset
(R520) with their uncorrectable words, the two copies of the signature counter and of the minima (none where uncorrectable),
what is stored beside them, and what the running bring-up holds. `booted` says BOOT_DONE has come; `waiting` that bring-up has
reached it. `entry3` is where stage 3 starts: its context, tile and program counter; `stage3Bytes` what of it is mapped. -/
structure Harebell where
  commit    : Option (Nat × Nat × Nat)
  hold      : Option Hold
  abandoned : Bool
  areas     : Store Byte
  areaBad   : List Nat
  sigCopies : List (Option Nat)
  minCopies : List (Option (List Nat))
  active    : Nat
  shadowOk  : Bool
  bootBank  : Nat
  trialBank : Nat
  verified  : List Nat
  bank      : Nat
  trial     : Bool
  meas      : List (List Byte)
  stageVer  : List Nat
  entry3    : Option (Nat × Nat × Nat)
  stage3Bytes : Nat
  waiting   : Bool
  booted    : Bool
  resetAt   : Nat
  treeAt    : Option Nat
  signed    : Bool
  deriving DecidableEq, Repr

/-- Harebell with its stored state as shipped (log entry 5): no set, bank A, all minima and the signature counter 0. -/
def Harebell.init : Harebell :=
  ⟨none, none, false, [], [], [some 0, some 0], [some [0, 0, 0, 0, 0], some [0, 0, 0, 0, 0]], 0, false, 1, 0, [], 1, false,
   List.replicate 8 (List.replicate 32 0), [0, 0, 0], none, 0, false, false, 0, none, false⟩

/-! ### The machine -/

/-- The module's state. -/
structure State where
  /-- Commands waiting, first in, first out: the block's queue. -/
  pending  : List Instr
  /-- Control-window words by window offset; an unlisted word holds its reset value (R7). -/
  cw       : Store Word
  /-- High words latched by reads of low words of 64-bit registers and not read yet, by register offset (R33). -/
  latch    : Store (Option Word)
  /-- High-word writes held until the low word is written, by register offset (R33). -/
  held     : Store (Option Word)
  /-- LPDDR5X, tile SRAM and staging SRAM, by LOCAL address (R25). -/
  mem      : List Host.Cell
  /-- First addresses of protected units that read uncorrectable (R599). -/
  uncorr   : List Nat
  /-- Page-table entries that software has edited and no invalidation has covered (R118). -/
  stale    : List Stale
  /-- NAND flash by flash offset (R110), and its uncorrectable 4 KiB units. -/
  flash    : List Host.Cell
  flashBad : List Nat
  /-- Bytes programmed into flash over the module's life (MEM_FLASH_HEALTH.TBW; log entry 24). -/
  flashBytes : Nat
  stackLogs   : Store StackLog
  /-- The debug window's read under way: its address (R595). -/
  dbgRead  : Option Nat
  /-- Threads by 128 × tile + thread; units by 8 × tile + unit; vector registers by 4096 × tile + 64 × register + lane. -/
  threads  : Store Thread
  units    : Store UnitState
  vregs    : Store Word
  /-- The thread each barrel pipe issued last, by 4 × tile + pipe; after reset thread 31 of the pipe (log entry 4). -/
  pipes    : Store Nat
  attends  : List Attend
  barriers : Store Barrier
  /-- A collective step boundary that Mallow has not used yet (R480, R509). -/
  boundary : Bool
  launches : List Launch
  nextLaunch : Nat
  queues   : Store Queue
  /-- The queue served last by PRIO, with 4 for reached TIMED commands (R209; log entry 4). -/
  served   : Store Nat
  /-- Queues here that FENCEs of other modules wait for (R219). -/
  captures : List Capture
  mgmt     : Store Mgmt
  outbox   : List Wire
  ctxs     : Store Ctx
  lanes    : Store Lane
  image    : Option Image
  tansy    : Tansy
  vetch    : Vetch
  yarrow   : Yarrow
  rings    : Rings
  timeu    : TimeUnit
  sensors  : Sensors
  links    : Links
  power    : Power
  safety   : Safety
  /-- Cowslip copy A's memory (1 MiB of SRAM, Table 1.1) and registers, by address: what bench debug has written there (R418); none
  for a word that only the firmware has written, whose contents the spec does not give (log entry 15). -/
  cowslip  : Store (Option Word)
  harebell : Harebell
  /-- When the last golden frame started, the launch that carries one, and whether 0x2059 has been raised for this interval
  (R251). -/
  goldenAt : Nat
  golden   : Option Nat
  goldenLate : Bool
  /-- The time unit's counts (R315, R332). -/
  time     : Nat
  frac     : Nat
  ticks    : Nat
  /-- The model's own: the next free value (log entry 9). -/
  free     : Nat
  deriving DecidableEq, Repr

/-- The reset value of the control-window word at an offset (R7): the register map's value, with the few that depend on
the register's own number. GLB_MODNUM is sampled from the straps, which read 0 here (log entry 6). -/
def resetWord (off : Nat) : Word :=
  match regFind off with
  | none => 0
  | some (r, i, j, w) =>
    let base := (r.reset / 2 ^ (32 * w)) % 2 ^ 32
    if r.base = Reg.TILE_ID 0 then BitVec.ofNat 32 ((i % 8) * 2 ^ 12 + (i / 8) * 2 ^ 8 + i)
    else if r.base = Reg.TILE_THR 0 0 then BitVec.ofNat 32 (j / 32 * 2 ^ 6)
    else if r.base = Reg.QMGR_QCFG 0 then (if i < 16 then 0x40000000 else 0)
    else if r.base = Reg.TIME_DOM_CFG 0 then BitVec.ofNat 32 (base + i)
    else if r.base = Reg.GLB_MODNUM then 0x10
    else BitVec.ofNat 32 base


/-- The machine right after power-on reset, with the stored state as shipped (log entry 5): nothing is listed, Harebell is in ROM and
bring-up has not begun. GLB_RESET_CAUSE says power-on. -/
def State.reset : State where
  pending := []
  cw := [(Reg.GLB_RESET_CAUSE, 1)]
  latch := []
  held := []
  mem := []
  uncorr := []
  stale := []
  flash := []
  flashBad := []
  flashBytes := 0
  stackLogs := []
  dbgRead := none
  threads := []
  units := []
  vregs := []
  pipes := []
  attends := []
  barriers := []
  boundary := false
  launches := []
  nextLaunch := 0
  queues := []
  served := []
  captures := []
  mgmt := []
  outbox := []
  ctxs := []
  lanes := []
  image := none
  tansy := Tansy.init
  vetch := Vetch.init
  yarrow := Yarrow.init
  rings := Rings.init
  timeu := TimeUnit.init
  sensors := Sensors.init
  links := Links.init
  power := Power.init
  safety := Safety.init
  cowslip := []
  harebell := Harebell.init
  goldenAt := 0
  golden := none
  goldenLate := false
  time := 0
  frac := 0
  ticks := 0
  free := 0

end Sys2Proof.Machine
end

