-- ==== Sys2Proof/Machine/Ops.lean ====
section
/-! DEFINITION. The shared operations over the state: registers by field, memory by LOCAL address with its protected units,
events on their way to Tansy, module time, free values. -/

namespace Sys2Proof.Machine

/-- The outcome of a command. -/
abbrev Out := Host.Outcome State Fault Refusal

/-! ### Registers -/

/-- The word a register offset holds. -/
def regWord (s : State) (off : Nat) : Nat := (storeGet resetWord s.cw off).toNat

/-- Two consecutive words as a 64-bit register. -/
def reg64 (s : State) (off : Nat) : Nat := regWord s off + 2 ^ 32 * regWord s (off + 4)

/-- Store a word at a register offset. -/
def setRegWord (s : State) (off v : Nat) : State :=
  { s with cw := storeSet resetWord s.cw off (BitVec.ofNat 32 v) }

/-- Store a 64-bit register. -/
def setReg64 (s : State) (off v : Nat) : State :=
  setRegWord (setRegWord s off v) (off + 4) (v / 2 ^ 32)

/-- A field's value. -/
def fget (s : State) (f : Field) : Nat := (reg64 s f.off / 2 ^ f.lo) % 2 ^ f.len

/-- Set a field. -/
def fset (s : State) (f : Field) (v : Nat) : State :=
  if f.lo + f.len ≤ 32 then setRegWord s f.off (setBits (regWord s f.off) (f.lo + f.len - 1) f.lo v)
  else setReg64 s f.off (setBits (reg64 s f.off) (f.lo + f.len - 1) f.lo v)

/-- Whether a one-bit field is set. -/
def fbit (s : State) (f : Field) : Bool := decide (fget s f = 1)

/-- Set a one-bit field. -/
def fsetb (s : State) (f : Field) (b : Bool) : State := fset s f (b2n b)

/-- Add to a saturating counter field. -/
def fadd (s : State) (f : Field) (k : Nat) : State := fset s f (satAdd f.len (fget s f) k)

/-- Count one event in a saturating counter field. -/
def finc (s : State) (f : Field) : State := fadd s f 1

/-- Write a register word through its RW bits; other bits keep (R8, R36). -/
def rwStore (s : State) (off v : Nat) : State :=
  match regFind off with
  | none => s
  | some (r, _, _, w) =>
    let m := r.rw / 2 ^ (32 * w) % 2 ^ 32
    setRegWord s off ((regWord s off &&& (2 ^ 32 - 1 - m)) ||| (v &&& m))

/-- The DATA field that names a register: its offset within its slot, a u32 (R36, R597). -/
def regData (off : Nat) : List Byte := leBytes 4 (off % 0x100000)

/-! ### Time and free values -/

/-- Take the next free value (log entry 9). -/
def takeFree (s : State) : Nat × State := (s.free, { s with free := s.free + 1 })

/-- Free bytes: `n` bytes whose contents the spec leaves undefined. -/
def freeBytes (seed : Nat) : Nat → List Byte
  | 0 => []
  | n + 1 => freeBytes seed n ++ [Config.freeByte seed n]

/-- Signed difference of two u32 counts or instants (R201, R212). -/
def s32diff (a b : Nat) : Int := sint 32 ((a + 2 ^ 32 - b % 2 ^ 32) % 2 ^ 32)

/-- d of R319 for a time value. -/
def timeDiff (s : State) (x : Nat) : Int := s32diff (x % 2 ^ 32) (s.time % 2 ^ 32)

/-- Whether a time value is reached (R319). -/
def reached (s : State) (x : Nat) : Bool := decide (timeDiff s x ≤ 0)

/-- The instant next to TIME that a time value stands for: R319 weighs only its low 32 bits. -/
def near (s : State) (x : Nat) : Nat := ((s.time : Int) + timeDiff s x).toNat

/-- Two ranges that have a number in common. -/
def rangesMeet (a n b m : Nat) : Bool := decide (0 < n ∧ 0 < m ∧ a < b + m ∧ b < a + n)

/-- Add to a u32 count, wrapping. -/
def wrap32 (a : Nat) : Nat := a % 2 ^ 32

/-- Whether a power-stage phase supplies its islands (R467). -/
def phaseUp (s : State) (k : Nat) : Bool := !fbit s (Reg.PWR_PHASE_FAULT k)

/-! ### The address map (Table 1.2) -/

/-- LPDDR5X. -/
def isLp (a : Nat) : Bool := decide (a < 0x3000000000)

/-- The tile SRAM window. -/
def isTileSram (a : Nat) : Bool := decide (0x10000000000 ≤ a ∧ a < 0x10018000000)

/-- I/O-die staging SRAM. -/
def isStaging (a : Nat) : Bool := decide (0x18000000000 ≤ a ∧ a < 0x18001000000)

/-- The control window. -/
def isWindow (a : Nat) : Bool := decide (0x1FFC0000000 ≤ a ∧ a < 0x1FFC4000000)

/-- A memory that holds data bytes. -/
def isMemory (a : Nat) : Bool := isLp a || isTileSram a || isStaging a

/-- Every byte of a range lies in one of the memories, and in the same one. -/
def rangeIn (p : Nat → Bool) (a n : Nat) : Bool := p a && p (a + n - 1)

/-- LOCAL address of a byte of a tile's SRAM. -/
def tileAddr (tile off : Nat) : Nat := 0x10000000000 + tile * 0x800000 + off

/-- Tile of a tile-SRAM address. -/
def tileOf (a : Nat) : Nat := (a - 0x10000000000) / 0x800000

/-- Offset within its tile of a tile-SRAM address. -/
def tileOff (a : Nat) : Nat := (a - 0x10000000000) % 0x800000

/-- LPDDR5X channel of an address (R26). -/
def lpChannel (a : Nat) : Nat := bits a 40 12 % 48

/-- LPDDR5X stack of an address (R26). -/
def lpStack (a : Nat) : Nat := lpChannel a / 4

/-- Block of an address within its LPDDR5X channel (R107). -/
def lpBlock (a : Nat) : Nat := bits a 37 12 / 48

/-- Rank of an address within its LPDDR5X channel (R107). -/
def lpRank (a : Nat) : Nat := bits (lpBlock a) 19 19

/-- Flash channel of an offset (R110). -/
def flashChannel (f : Nat) : Nat := bits f 39 14 % 16

/-! ### Memory -/

/-- What an unlisted byte reads as (log entry 3). -/
def memDefault (_ : Nat) : Byte := 0

/-- The canonical form of a memory. -/
def Memory.wf (m : List Host.Cell) : Bool := storeWf memDefault m

/-- One byte of memory. -/
def memByte (s : State) (a : Nat) : Byte := storeGet memDefault s.mem a

/-- Read `n` bytes. -/
def memRead (s : State) (a n : Nat) : List Byte := storeGetList memDefault s.mem a n

/-- Size of the protected unit at an address (R599): a 64 B line of LPDDR5X, otherwise a 64-bit word. -/
def unitSize (a : Nat) : Nat := if isLp a then 64 else 8

/-- The lowest uncorrectable unit that a range touches. -/
def badUnit (s : State) (a n : Nat) : Option Nat :=
  s.uncorr.find? (fun u => decide (u < a + n ∧ a < u + unitSize u))

/-- The lowest uncorrectable unit that a range touches without covering it (R599). -/
def badPartial (s : State) (a n : Nat) : Option Nat :=
  s.uncorr.find? (fun u => decide ((u < a + n ∧ a < u + unitSize u) ∧ ¬ (a ≤ u ∧ u + unitSize u ≤ a + n)))

/-- Write bytes; every unit wholly covered gets fresh check bits (R599). The caller has checked `badPartial`. -/
def memWrite (s : State) (a : Nat) (bs : List Byte) : State :=
  { s with
    mem := storeSetList memDefault s.mem a bs,
    uncorr := s.uncorr.filter (fun u => !decide (a ≤ u ∧ u + unitSize u ≤ a + bs.length)) }

/-- Record that the unit holding an address reads uncorrectable. -/
def markBad (s : State) (a : Nat) : State :=
  let u := a - a % unitSize a
  if s.uncorr.contains u then s else { s with uncorr := insertBy id u s.uncorr }

/-- Zero a range: its bytes are no longer listed; every unit wholly covered gets fresh check bits (R599). -/
def memZero (s : State) (a n : Nat) : State :=
  { s with
    mem := storeDrop (fun k => decide (a ≤ k ∧ k < a + n)) s.mem,
    uncorr := s.uncorr.filter (fun u => !decide (a ≤ u ∧ u + unitSize u ≤ a + n)) }

/-- Read flash bytes. -/
def flashRead (s : State) (f n : Nat) : List Byte := storeGetList memDefault s.flash f n

/-- Program flash bytes; whole 4 KiB units get fresh check bits (R599). -/
def flashWrite (s : State) (f : Nat) (bs : List Byte) : State :=
  { s with
    flash := storeSetList memDefault s.flash f bs,
    flashBad := s.flashBad.filter (fun u => !decide (f ≤ u ∧ u + 4096 ≤ f + bs.length)) }

/-- The lowest uncorrectable flash unit that a range touches. -/
def flashBadUnit (s : State) (f n : Nat) : Option Nat :=
  s.flashBad.find? (fun u => decide (u < f + n ∧ f < u + 4096))

/-! ### Events (R455, R596, R597) -/

/-- Hand a record to Tansy with its flags (R456). -/
def raiseFlags (s : State) (code island ctx rflags : Nat) (data : List Byte) : State :=
  { s with tansy := { s.tansy with raised := s.tansy.raised ++ [⟨code, island, rflags, ctx, s.time, data⟩] } }

/-- Hand a record that names no context. -/
def raise (s : State) (code island : Nat) (data : List Byte) : State := raiseFlags s code island 0xFF 0 data

/-- Hand a record that names a context. -/
def raiseCtx (s : State) (code island ctx : Nat) (data : List Byte) : State := raiseFlags s code island ctx 0 data

/-- DATA fields by size (R597). -/
def u8 (v : Nat) : List Byte := leBytes 1 v
/-- A u16 DATA field. -/
def u16 (v : Nat) : List Byte := leBytes 2 v
/-- A u32 DATA field, saturating (a count or a duration). -/
def u32 (v : Nat) : List Byte := leBytes 4 (min v 0xFFFFFFFF)
/-- A u64 DATA field. -/
def u64 (v : Nat) : List Byte := leBytes 8 v

/-- This module's number (R23). -/
def modnum (s : State) : Nat := fget s Reg.GLB_MODNUM_MODNUM

/-- Whether a module is a joined member of the job (R24). -/
def inJob (s : State) (m : Nat) : Bool := decide (m < 4) && bitAt (fget s Reg.GLB_MODNUM_JOB_MASK) m

/-- A stack's log. -/
def stackLog (s : State) (k : Nat) : StackLog := storeGet (fun _ => StackLog.init) s.stackLogs k

/-- Replace a stack's log. -/
def setStackLog (s : State) (k : Nat) (x : StackLog) : State :=
  { s with stackLogs := storeSet (fun _ => StackLog.init) s.stackLogs k x }

/-- Whether R445 advises to retire a stack. -/
def StackLog.advised (x : StackLog) : Bool := decide (2 ≤ x.uncorr.length ∨ 8 ≤ x.hours.length)

/-- A stack's log takes a change; 0x100B when R445 begins to hold. -/
def stackNote (k : Nat) (f : StackLog → StackLog) (s : State) : State :=
  let x := stackLog s k
  let now := s.tansy.opSeconds
  let keepU := x.uncorr.filter (fun e => decide (now < e.1 + 86400))
  let keepH := x.hours.filter (fun h => decide (now / 3600 < h + 24))
  let old := { x with uncorr := keepU, hours := keepH }
  let new := f old
  let s := setStackLog s k new
  if new.advised = true ∧ old.advised = false
  then raise s 0x100B (48 + k) (u16 k ++ u32 new.uncorr.length ++ u32 new.hours.length) else s

/-- A stack has an uncorrectable word at an address, reported by 0x1004 or 0x1005 (R445); one word counts once in 24 h. -/
def stackUncorr (k a : Nat) (s : State) : State :=
  stackNote k (fun x => { x with
    uncorr := (s.tansy.opSeconds, a) :: x.uncorr.filter (fun e => decide (e.2 / unitSize a ≠ a / unitSize a)) }) s

/-- Whether 0x1003 is due for a stack: CORR_HOUR exceeds LIMIT and the stack has not raised it in this hour. -/
def corrDue (s : State) (k : Nat) : Bool :=
  decide (fget s Reg.MEM_CORR_LIMIT_LIMIT < fget s (Reg.MEM_LP_ECC_CORR_HOUR k)) && !(stackLog s k).said

/-- A stack raises 0x1003; the hour counts for R445. -/
def corrRaise (k : Nat) (s : State) : State :=
  let s := raise s 0x1003 (48 + k) []
  stackNote k (fun x => { x with said := true, hours := s.tansy.opSeconds / 3600 :: x.hours }) s

/-- A correction on a stack (MEM_LP_ECC). -/
def corrCount (k : Nat) (s : State) : State :=
  let s := finc (finc s (Reg.MEM_LP_ECC_CORR_HOUR k)) (Reg.MEM_LP_ECC_CORR_TOTAL k)
  if corrDue s k then corrRaise k s else s

/-- The number of protected units that `n` bytes at an address touch (Table 4.7). -/
def unitsTouched (a n : Nat) : Nat := if n = 0 then 0 else (a + n - 1) / unitSize a - a / unitSize a + 1

/-- `m` corrections on a stack. -/
def corrCounts (k m : Nat) (s : State) : State :=
  let t := (List.range m).foldl (fun s _ => corrCount k s) s
  { s with cw := t.cw, tansy := t.tansy, stackLogs := t.stackLogs }

/-- A read of LOCAL memory within one 4 KiB block meets a free number of correctable units (R66, R137; log entry 65): they are
counted in TILE_ECC of the tile or in MEM_LP_ECC of the stack; corrections of staging SRAM are not counted. -/
def noteCorr (a n : Nat) (s : State) : State :=
  let m := (Config.freeWord s.free).toNat % (unitsTouched a n + 1)
  let s := { s with free := s.free + 1 }
  if isLp a then corrCounts (lpStack a) m s
  else if isTileSram a then fadd s (Reg.TILE_ECC_CORR (tileOf a)) m
  else s

/-- Reads of several pieces (R66, R137). -/
def noteCorrs (ps : List (Nat × Nat)) (s : State) : State := ps.foldl (fun s p => noteCorr p.1 p.2 s) s

/-- A free number of corrections on every stack: reads whose addresses lie all over a context's share (log entry 65). -/
def noteStacks (s : State) : State :=
  (List.range 12).foldl (fun s k =>
    corrCounts k ((Config.freeWord s.free).toNat % 2 ^ 16) { s with free := s.free + 1 }) s

/-- A flash read that succeeds may have needed retries: a free number of its units counts in RETRIES (R113, log entry 65). -/
def noteRetries (n : Nat) (s : State) : State :=
  fadd { s with free := s.free + 1 } Reg.MEM_FLASH_HEALTH_RETRIES ((Config.freeWord s.free).toNat % (n / 4096 + 1))

/-- Bytes programmed into flash count towards TBW (log entry 24) and may use up spare blocks: SPARE_PCT becomes a free value no
higher than before, and 0x1007 is raised when it falls below 10 (Table 4.8, log entry 65). -/
def countFlash (s : State) (n : Nat) : State :=
  let old := fget s Reg.MEM_FLASH_HEALTH_SPARE_PCT
  let new := min old (Config.freeWord s.free).toNat
  let s := fset { s with flashBytes := s.flashBytes + n, free := s.free + 1 } Reg.MEM_FLASH_HEALTH_SPARE_PCT new
  if new < 10 ∧ 10 ≤ old then raise s 0x1007 70 [] else s

/-- Report an uncorrectable flash read (R113, Table 4.8): RETRIES, MEM_UNCORR and 0x1006. -/
def flashUnread (s : State) (ctx : Nat) : State :=
  raiseCtx (finc (fsetb s Reg.MEM_UNCORR_FLASH true) Reg.MEM_FLASH_HEALTH_RETRIES) 0x1006 70 ctx []

/-- Report an uncorrectable read of staging SRAM by a reader of the given island (R443). -/
def stagingUncorr (s : State) (reader ctx rflags : Nat) : State :=
  raiseFlags (fsetb s Reg.MEM_UNCORR_STAGING true) 0x1002 reader ctx rflags []

/-- Report an uncorrectable read at a LOCAL address by a reader of the given island for a context (Table 4.8, R137, R440,
R441, R596). -/
def reportUncorr (s : State) (a reader ctx rflags : Nat) : State :=
  if isLp a then
    let s := fsetb (fset s Reg.MEM_UNCORR_STACK (lpStack a)) Reg.MEM_UNCORR_LPDDR true
    let inImage := decide (a < fget s Reg.MEM_IMAGE_SIZE * 0x200000)
    stackUncorr (lpStack a) a (raiseFlags s 0x1004 (48 + lpStack a) ctx (rflags ||| b2n inImage) (u64 a ++ u16 (lpStack a)))
  else if isTileSram a then
    let t := tileOf a
    raiseFlags (fsetb s (Reg.TILE_ECC_UNCORR t) true) 0x1001 t ctx rflags (u64 a)
  else
    stagingUncorr s reader ctx rflags

/-! ### Threads, units, queues, contexts, by number -/

/-- Return the registers that `p` names to their reset values. -/
def dropRegs (p : Nat → Bool) (s : State) : State := { s with cw := storeDrop p s.cw }

/-- Thread `t` of a tile. -/
def thread (s : State) (tile t : Nat) : Thread := storeGet (fun _ => Thread.init) s.threads (128 * tile + t)

/-- Replace a thread. -/
def setThread (s : State) (tile t : Nat) (th : Thread) : State :=
  { s with threads := storeSet (fun _ => Thread.init) s.threads (128 * tile + t) th }

/-- A unit of a tile. -/
def unit (s : State) (tile u : Nat) : UnitState := storeGet (fun _ => UnitState.init) s.units (8 * tile + u)

/-- Replace a unit. -/
def setUnit (s : State) (tile u : Nat) (x : UnitState) : State :=
  { s with units := storeSet (fun _ => UnitState.init) s.units (8 * tile + u) x }

/-- Scalar register of a thread; x0 reads 0 (R44). -/
def xreg (th : Thread) (r : Nat) : DWord := if r = 0 then 0 else storeGet (fun _ => 0) th.regs r

/-- Write a scalar register; x0 discards the write (R44). -/
def setXreg (th : Thread) (r : Nat) (v : DWord) : Thread :=
  if r = 0 then th else { th with regs := storeSet (fun _ => 0) th.regs r v }

/-- A queue. -/
def queue (s : State) (q : Nat) : Queue := storeGet (fun _ => Queue.init) s.queues q

/-- Replace a queue. -/
def setQueue (s : State) (q : Nat) (x : Queue) : State :=
  { s with queues := storeSet (fun _ => Queue.init) s.queues q x }

/-- A context. -/
def ctx (s : State) (c : Nat) : Ctx := storeGet (fun _ => Ctx.init) s.ctxs c

/-- Replace a context. -/
def setCtx (s : State) (c : Nat) (x : Ctx) : State :=
  { s with ctxs := storeSet (fun _ => Ctx.init) s.ctxs c x }

/-- A lane. -/
def lane (s : State) (l : Nat) : Lane := storeGet (fun _ => Lane.init) s.lanes l

/-- Replace a lane. -/
def setLane (s : State) (l : Nat) (x : Lane) : State :=
  { s with lanes := storeSet (fun _ => Lane.init) s.lanes l x }

/-- A port's management state. -/
def mgmt (s : State) (e : Nat) : Mgmt := storeGet (fun _ => Mgmt.init) s.mgmt e

/-- Replace a port's management state. -/
def setMgmt (s : State) (e : Nat) (m : Mgmt) : State := { s with mgmt := storeSet (fun _ => Mgmt.init) s.mgmt e m }

/-- Change every thread; the function gets 128 × tile + thread. -/
def mapThreads (f : Nat → Thread → Thread) (s : State) : State :=
  { s with threads := storeMap (fun _ => Thread.init) f s.threads }

/-- Change every unit; the function gets 8 × tile + unit. -/
def mapUnits (f : Nat → UnitState → UnitState) (s : State) : State :=
  { s with units := storeMap (fun _ => UnitState.init) f s.units }

/-- STATE of a context: 0 ABSENT, 1 ACTIVE, 2 TEARDOWN, 3 FAULTED. -/
def ctxState (s : State) (c : Nat) : Nat := fget s (Reg.QMGR_CTX_STATE_STATE c)

/-- Whether a context is ACTIVE. -/
def ctxActive (s : State) (c : Nat) : Bool := decide (c < 64 ∧ ctxState s c = 1)

/-- Whether a queue is a management queue (Table 7.1). -/
def isMgmt (q : Nat) : Bool := decide (q < 16)

/-- Owner of a context queue. -/
def owner (s : State) (q : Nat) : Nat := fget s (Reg.QMGR_QCFG_OWNER q)

/-- Fold an update over numbers `0..n-1`. -/
def forRange (n : Nat) (f : Nat → State → State) (s : State) : State := (List.range n).foldl (fun s i => f i s) s

/-- Fold an update over a list. -/
def forEach {α : Type} (l : List α) (f : α → State → State) (s : State) : State := l.foldl (fun s x => f x s) s

/-! ### The time unit and the Ethernet ports -/

/-- Change the time unit. -/
def modTime (s : State) (f : TimeUnit → TimeUnit) : State := { s with timeu := f s.timeu }

/-- Ethernet port `p`. -/
def netPort (s : State) (p : Nat) : NetPort := storeGet (fun _ => NetPort.init) s.timeu.net p

/-- Replace Ethernet port `p`. -/
def setNetPort (s : State) (p : Nat) (x : NetPort) : State :=
  modTime s (fun t => { t with net := storeSet (fun _ => NetPort.init) t.net p x })

/-- Hand a frame to an Ethernet port. -/
def handFrame (p : Nat) (f : NetFrame) (s : State) : State :=
  setNetPort s p { netPort s p with frames := (netPort s p).frames ++ [f] }

end Sys2Proof.Machine
end

