-- ==== Sys2Proof/Machine/Operands.lean ====
section
/-! DEFINITION. Operand forms: command-packet fields (Table 7.3), the virtual address translation of R114 to R117, and the
two ways a command names memory (a context's virtual address, or a LOCAL address on a management queue, Table 9.5, R598). -/

namespace Sys2Proof.Machine

/-! ### Status codes (Table 0.7) -/

namespace Status
/-- Completed as asked. -/
def ok : Nat := 0x0000
/-- Length, count or size was zero. -/
def okEmpty : Nat := 0x0001
/-- Completed on the fallback path. -/
def deadlineFallback : Nat := 0x0002
/-- Not executed; its context was torn down. -/
def cancelled : Nat := 0x0010
/-- A remote module was lost before the command finished. -/
def remoteLost : Nat := 0x0011
/-- The command ended its own context. -/
def contextFault : Nat := 0x0020
/-- Refused. -/
def accessRefused : Nat := 0x0021
/-- A field is out of range, a reserved byte non-zero, or the opcode unassigned. -/
def invalidParam : Nat := 0x0022
/-- The context's share cannot hold the request. -/
def noResource : Nat := 0x0023
/-- A result whose epoch was overtaken. -/
def staleEpoch : Nat := 0x0030
/-- No collision-free path. -/
def noPath : Nat := 0x0031
/-- Deadline reached. -/
def bestEffort : Nat := 0x0032
/-- Refused by the safe state. -/
def safetyHold : Nat := 0x0040
end Status

/-- R13, R14: whether a status lets the command's writes stand as completed. -/
def statusCompleted (st : Nat) : Bool := decide (st ≤ 0x000F ∨ (0x0030 ≤ st ∧ st ≤ 0x003F))

/-! ### Packet fields (Table 7.3) -/

/-- `n` bytes of a packet at an offset, little-endian. -/
def QCmd.field (c : QCmd) (off n : Nat) : Nat := fieldAt c.packet off n

/-- OPCODE. -/
def QCmd.opcode (c : QCmd) : Nat := c.field 0 2
/-- FLAGS. -/
def QCmd.flags (c : QCmd) : Nat := c.field 2 1
/-- CONTEXT. -/
def QCmd.context (c : QCmd) : Nat := c.field 3 1
/-- TAG; 0xFFFF_FFFF for a submission entry that could not be read (R442). -/
def QCmd.tag (c : QCmd) : Nat := if c.unread then 0xFFFFFFFF else c.field 4 4
/-- LENGTH. -/
def QCmd.length (c : QCmd) : Nat := c.field 8 4
/-- TRIGGER. -/
def QCmd.trigger (c : QCmd) : Nat := c.field 12 4
/-- FENCE_BEFORE (Table 7.4); a FENCE always acts as though set (R219). -/
def QCmd.fenceBefore (c : QCmd) : Bool := bitAt c.flags 0 || decide (c.opcode = 0x0700)
/-- FENCE_AFTER; a FENCE always acts as though set (R219). -/
def QCmd.fenceAfter (c : QCmd) : Bool := bitAt c.flags 1 || decide (c.opcode = 0x0700)
/-- NOTIFY. -/
def QCmd.notify (c : QCmd) : Bool := bitAt c.flags 2
/-- TIMED. -/
def QCmd.timed (c : QCmd) : Bool := bitAt c.flags 3

/-- Whether every byte of the packet from 16 on that lies outside the used ranges (offset, size) is zero (R10). -/
def QCmd.reservedZero (c : QCmd) (used : List (Nat × Nat)) : Bool :=
  (List.range 48).all fun i =>
    used.any (fun r => decide (r.1 ≤ i + 16 ∧ i + 16 < r.1 + r.2)) || decide (c.field (i + 16) 1 = 0)

/-- The context a command acts for: OWNER on a context queue, the context byte on a management queue (R199). -/
def cmdCtx (s : State) (q : Nat) (c : QCmd) : Nat := if isMgmt q then c.context else owner s q

/-! ### Shares -/

/-- An LPDDR5X range lies in the context's LPDDR5X share. -/
def inLpShare (s : State) (c a n : Nat) : Bool :=
  let b := fget s (Reg.MEM_CTX_LP_BASE c) * 0x200000
  let e := b + fget s (Reg.MEM_CTX_LP_SIZE c) * 0x200000
  decide (isLp a ∧ b ≤ a ∧ a + n ≤ e)

/-- A range of one tile's SRAM lies in the context's SRAM share there (R65). -/
def inSramShare (s : State) (c a n : Nat) : Bool :=
  let t := tileOf a
  let b := fget s (Reg.TILE_SHARE_BASE t c) * 0x10000
  let e := b + fget s (Reg.TILE_SHARE_SIZE t c) * 0x10000
  decide (isTileSram a ∧ b ≤ tileOff a ∧ tileOff a + n ≤ e)

/-- A range lies in the resident image region. -/
def inImageRegion (s : State) (a n : Nat) : Bool :=
  let b := fget s Reg.MEM_IMAGE_BASE * 0x200000
  let e := b + fget s Reg.MEM_IMAGE_SIZE * 0x200000
  decide (b ≤ a ∧ a + n ≤ e)

/-! ### Translation (R114 to R117) -/

/-- Why an access fails: no translation, a LOCAL address outside the SRAM share (R65), outside every memory (R27), or an
uncorrectable read at a LOCAL address, of the data or of a page-table entry (R441). -/
inductive AccErr where
  | translation
  | share (a : Nat)
  | unmapped
  | uncorr (a : Nat)
  | ptUncorr (a : Nat)
  deriving DecidableEq, Repr

/-- A leaf entry that a walk reached: the entry, where it lies, whether it maps 2 MiB. -/
structure Leaf where
  pte   : Nat
  entry : Nat
  big   : Bool
  deriving DecidableEq, Repr

/-- Bytes a leaf maps. -/
def Leaf.size (l : Leaf) : Nat := if l.big then 0x200000 else 0x1000
/-- KIND of Table 4.3. -/
def Leaf.kind (l : Leaf) : Nat := bits l.pte 5 4
/-- TIER of Table 4.3. -/
def Leaf.tier (l : Leaf) : Nat := bits l.pte 7 6
/-- W of Table 4.3. -/
def Leaf.w (l : Leaf) : Bool := bitAt l.pte 2
/-- X of Table 4.3. -/
def Leaf.x (l : Leaf) : Bool := bitAt l.pte 3
/-- MIG of Table 4.3. -/
def Leaf.mig (l : Leaf) : Bool := bitAt l.pte 8
/-- The first byte the leaf maps, in its tier. The bits of ADDR below a 2 MiB page's size are dropped (DESIGN CHOICE, log entry 64:
no rule says what they do). -/
def Leaf.addr (l : Leaf) : Nat := let a := bits l.pte 54 12 * 0x1000; a - a % l.size

/-- Checks of R116 on every entry of a walk. -/
def pteSound (level pte : Nat) : Bool :=
  decide (bitAt pte 0 = true ∧ bits pte 11 9 = 0 ∧ bits pte 63 55 = 0 ∧ (level ≤ 1 → bitAt pte 1 = false)
    ∧ bits pte 5 4 ≠ 3 ∧ bits pte 7 6 ≤ 1 ∧ (bits pte 7 6 = 1 → bits pte 54 40 = 0))

/-! ### Cached translations (R118, R146) -/

/-- The context in whose page tables a LOCAL address lies: Harebell builds them in the units that MEM_CTX_RSV counts at the bottom
of the LPDDR5X share (R234). -/
def tableOwner (s : State) (a : Nat) : Option Nat :=
  (s.ctxs.find? (fun e =>
    let b := fget s (Reg.MEM_CTX_LP_BASE e.1) * 0x200000
    decide (b ≤ a ∧ a < b + fget s (Reg.MEM_CTX_RSV_UNITS e.1) * 0x200000))).map (·.1)

/-- The entries that `n` bytes at an address touch, with their present values. -/
def staleWords (s : State) (c a n : Nat) : List Stale :=
  (List.range ((a + n - 1) / 8 - a / 8 + 1)).map fun i => ⟨c, (a / 8 + i) * 8, leNat (memRead s ((a / 8 + i) * 8) 8), []⟩

/-- Software is about to write `n` bytes at an address: where they are page-table entries, caches may keep the old ones (R118). -/
def noteStale (s : State) (a n : Nat) : State :=
  { s with stale := match (if isLp a ∧ n ≠ 0 then tableOwner s a else none) with
    | none => s.stale
    | some c => s.stale ++ staleWords s c a n }

/-- Discard a context's cached translations of `n` bytes from `va` (R122, R146). -/
def invalidateRange (c va n : Nat) (s : State) : State :=
  { s with stale := s.stale.map (fun e => if e.ctx = c then { e with gone := e.gone ++ [(va, n)] } else e) }

/-- Discard all cached translations of a context (R146). -/
def invalidateAll (c : Nat) (s : State) : State := { s with stale := s.stale.filter (fun e => decide (e.ctx ≠ c)) }

/-- The values that a walk for `va` may take an entry to hold beside the present one (R118). -/
def staleValues (s : State) (c va entry : Nat) : List Nat :=
  (s.stale.filter (fun e => decide (e.ctx = c ∧ e.entry = entry)
    && e.gone.all (fun g => decide (va < g.1 ∨ g.1 + g.2 ≤ va)))).map (·.old)

/-- An entry as a walk for `va` finds it: the present value, or freely an edited one that a cache still holds (R118; log
entry 14). -/
def pteValue (s : State) (c va entry : Nat) : Nat :=
  let now := leNat (memRead s entry 8)
  match staleValues s c va entry with
  | [] => now
  | olds => olds.getD (Config.stalePick s.free entry % (olds.length + 1)) now

/-- Walk the table at `tbl` from `level`, over at most `fuel` levels. -/
def walkFrom (s : State) (c va : Nat) : (fuel level tbl : Nat) → Except AccErr Leaf
  | 0, _, _ => .error .translation
  | fuel + 1, level, tbl =>
    let entry := tbl + 8 * (va / 2 ^ (39 - 9 * level) % 512)
    if !inLpShare s c entry 8 then .error .translation
    else match badUnit s entry 8 with
      | some _ => .error (.ptUncorr entry)
      | none =>
        let pte := pteValue s c va entry
        if !pteSound level pte then .error .translation
        else if level = 3 then .ok ⟨pte, entry, false⟩
        else if level = 2 ∧ bitAt pte 1 = true then .ok ⟨pte, entry, true⟩
        else if bits pte 7 6 ≠ 0 then .error .translation
        else walkFrom s c va fuel (level + 1) (bits pte 54 12 * 0x1000)

/-- The leaf of a virtual address. -/
def walk (s : State) (c va : Nat) : Except AccErr Leaf :=
  if va < 2 ^ 48 then walkFrom s c va 4 0 (fget s (Reg.MEM_CTX_PTROOT_ROOT c) * 0x1000) else .error .translation

/-- How an access uses memory. -/
inductive Use where
  | read
  | write
  | fetch
  deriving DecidableEq, Repr

/-- Where a leaf's home may be used by a context (R116), for an access of `n` bytes at LOCAL address `pa`. -/
def homeAllowed (s : State) (c pa n : Nat) (l : Leaf) : Except AccErr Unit :=
  if isLp pa then
    (if inLpShare s c pa n || (inImageRegion s pa n && decide (l.kind = 2)) then .ok () else .error .translation)
  else if isTileSram pa then (if inSramShare s c pa n then .ok () else .error (.share pa))
  else if isStaging pa then (if l.w || l.x then .error .translation else .ok ())
  else .error .unmapped

/-- Whether a leaf allows a use: its KIND and TIER are a context's, W allows a write, and X a fetch; a page of KIND 2 is the
read-only image (Table 4.3, R116, R599). -/
def Leaf.allows (l : Leaf) (u : Use) : Bool :=
  decide (l.kind ≠ 1 ∧ l.tier = 0) && (match u with
    | .read => true
    | .write => l.w && decide (l.kind ≠ 2)
    | .fetch => l.x)

/-- LOCAL address of `n` bytes at a virtual address that one page holds. -/
def translate (s : State) (c va n : Nat) (u : Use) : Except AccErr Nat :=
  match walk s c va with
  | .error e => .error e
  | .ok l =>
    if l.allows u = false then .error .translation
    else
      let pa := l.addr + va % l.size
      match homeAllowed s c pa n l with
      | .error e => .error e
      | .ok _ => .ok pa

/-- Cut a virtual range into pieces that each lie in one 4 KiB page; `fuel` is one more than its pages. -/
def vaPieces : (fuel va n : Nat) → List (Nat × Nat)
  | 0, _, _ => []
  | fuel + 1, va, n =>
    if n = 0 then [] else
      let k := min n (0x1000 - va % 0x1000)
      (va, k) :: vaPieces fuel (va + k) (n - k)

/-- Translate a virtual range piece by piece. -/
def translateAll (s : State) (c : Nat) (u : Use) : List (Nat × Nat) → Except AccErr (List (Nat × Nat))
  | [] => .ok []
  | (va, n) :: rest =>
    match translate s c va n u with
    | .error e => .error e
    | .ok pa => match translateAll s c u rest with
      | .error e => .error e
      | .ok ps => .ok ((pa, n) :: ps)

/-- LOCAL pieces of a virtual range. -/
def vaRange (s : State) (c va n : Nat) (u : Use) : Except AccErr (List (Nat × Nat)) :=
  if va + n ≤ 2 ^ 48 then translateAll s c u (vaPieces (n / 0x1000 + 2) va n) else .error .translation

/-- Read LOCAL pieces, stopping at the first uncorrectable unit. -/
def readPieces (s : State) : List (Nat × Nat) → Except AccErr (List Byte)
  | [] => .ok []
  | (a, n) :: rest => match badUnit s a n with
    | some u => .error (.uncorr (max u a))
    | none => match readPieces s rest with
      | .error e => .error e
      | .ok bs => .ok (memRead s a n ++ bs)

/-- The first piece whose write would need the read of an uncorrectable unit (R599). -/
def writeBlocked (s : State) : List (Nat × Nat) → Option Nat
  | [] => none
  | (a, n) :: rest => match badPartial s a n with
    | some u => some u
    | none => writeBlocked s rest

/-- A write by software: page-table entries among its bytes may stay in caches (R118). -/
def softWrite (s : State) (a : Nat) (bs : List Byte) : State := memWrite (noteStale s a bs.length) a bs

/-- Write bytes over LOCAL pieces. -/
def writePieces (s : State) : List (Nat × Nat) → List Byte → State
  | [], _ => s
  | (a, n) :: rest, bs => writePieces (softWrite s a (bs.take n)) rest (bs.drop n)

/-- Read `n` bytes at a context's virtual address. -/
def vaRead (s : State) (c va n : Nat) : Except AccErr (List Byte) :=
  match vaRange s c va n .read with
  | .error e => .error e
  | .ok ps => readPieces s ps

/-- Write bytes at a context's virtual address. -/
def vaWrite (s : State) (c va : Nat) (bs : List Byte) : Except AccErr State :=
  match vaRange s c va bs.length .write with
  | .error e => .error e
  | .ok ps => match writeBlocked s ps with
    | some u => .error (.uncorr u)
    | none => .ok (writePieces s ps bs)

/-- LOCAL pieces of those virtual ranges of a context that it can read. -/
def readable (s : State) (c : Nat) (rs : List (Nat × Nat)) : List (Nat × Nat) :=
  rs.flatMap fun r => match vaRange s c r.1 r.2 .read with
    | .ok ps => ps
    | .error _ => []

/-- The corrections that reading virtual ranges in `s` met, counted in `u` (R66, R137). -/
def readNoted (s : State) (c : Nat) (rs : List (Nat × Nat)) (u : State) : State := noteCorrs (readable s c rs) u

/-- Write a range where the context may; nothing is written where it may not. -/
def vaPut (s : State) (c va : Nat) (bs : List Byte) : State :=
  match vaWrite s c va bs with
  | .ok s => s
  | .error _ => s

/-! ### The addressing of Table 9.5 -/

/-- A LOCAL range a command may name: bits 63:55 zero and inside one memory (R27, R598). -/
def localOk (a n : Nat) : Bool :=
  decide (a < 2 ^ 55) && (rangeIn isLp a n || rangeIn isTileSram a n || rangeIn isStaging a n)

/-- Pieces of a command's memory operand, by queue. Only image loading writes the image region (R599). -/
def opPieces (s : State) (q : Nat) (va n : Nat) (u : Use) : Except AccErr (List (Nat × Nat)) :=
  if n = 0 then .ok []
  else if isMgmt q then
    (if localOk va n && !(decide (u = .write) && inImageRegion s va 1) then .ok [(va, n)] else .error .unmapped)
  else vaRange s (owner s q) va n u

/-- Read a command's memory operand. -/
def opRead (s : State) (q va n : Nat) : Except AccErr (List Byte) :=
  match opPieces s q va n .read with
  | .error e => .error e
  | .ok ps => readPieces s ps

/-- Write a command's memory operand. -/
def opWrite (s : State) (q va : Nat) (bs : List Byte) : Except AccErr State :=
  match opPieces s q va bs.length .write with
  | .error e => .error e
  | .ok ps => match writeBlocked s ps with
    | some u => .error (.uncorr u)
    | none => .ok (writePieces s ps bs)

/-- The corrections that reading a command's memory operand in `s` met, counted in `u` (R137). -/
def operandNoted (s : State) (q va n : Nat) (u : State) : State :=
  match opPieces s q va n .read with
  | .ok ps => noteCorrs ps u
  | .error _ => u

/-- A command's memory operand is aligned to `al` and its high bits are zero for its kind of address. -/
def opAligned (q va al : Nat) : Bool :=
  decide (va % al = 0 ∧ va < (if isMgmt q then 2 ^ 55 else 2 ^ 48))

end Sys2Proof.Machine
end

