-- ==== Sys2Proof/Machine/KvPool.lean ====
section
/-! DEFINITION. Chicory's pool operations over a context's KV region in LPDDR5X: geometry (R149, R150), the region's parts
(Table 5.1), sequences (Table 5.2), slot metadata (Table 5.3), reference counts (R160), allocation (R163), copy-on-write
(R161) and the prefix index (R164, R165). -/

namespace Sys2Proof.Machine

/-! ### Geometry -/

/-- LAYERS of the resident image. -/
def kvLayers (s : State) : Nat := fget s Reg.KVM_GEOM_LAYERS
/-- KV_HEADS. -/
def kvHeads (s : State) : Nat := fget s Reg.KVM_GEOM_KV_HEADS
/-- HEAD_DIM in elements. -/
def kvDim (s : State) : Nat := 32 * fget s Reg.KVM_GEOM_HEAD_DIM
/-- Bytes of an element of K or V: 2 for BF16, 1 for FP8 (R149). -/
def kvElem (s : State) : Nat := if fget s Reg.KVM_GEOM_KV_FMT = 1 then 2 else 1
/-- Bytes of a slot (R149). -/
def kvSlotBytes (s : State) : Nat := 0x1000 * fget s Reg.KVM_GEOM_SLOT_UNITS

/-- First byte of a context's KV region. -/
def kvBase (s : State) (c : Nat) : Nat := 0x200000 * fget s (Reg.KVM_CTX_REG_BASE c)
/-- SIZE of the region in bytes. -/
def kvSize (s : State) (c : Nat) : Nat := 0x200000 * fget s (Reg.KVM_CTX_REG_SIZE c)
/-- SEQ_MAX. -/
def kvSeqMax (s : State) (c : Nat) : Nat := fget s (Reg.KVM_CTX_SEQ_SEQ_MAX c)
/-- PT_ENTRIES. -/
def kvPtEntries (s : State) (c : Nat) : Nat := 1024 * fget s (Reg.KVM_CTX_SEQ_PT_UNITS c)
/-- WIDE_UNITS. -/
def kvWideUnits (s : State) (c : Nat) : Nat := fget s (Reg.KVM_CTX_POOL_WIDE_UNITS c)
/-- NARROW_SLOTS. -/
def kvNarrow (s : State) (c : Nat) : Nat := fget s (Reg.KVM_CTX_POOL_NARROW_SLOTS c)
/-- All slots. -/
def kvSlots (s : State) (c : Nat) : Nat := 16 * kvWideUnits s c + kvNarrow s c
/-- log2 of the number of prefix buckets: the least power of two at or above NARROW_SLOTS (Table 5.1). -/
def kvBucketBits (s : State) (c : Nat) : Nat := if kvNarrow s c ≤ 1 then 0 else Nat.log2 (kvNarrow s c - 1) + 1

/-- Address of a sequence descriptor. -/
def kvSeqAddr (s : State) (c q : Nat) : Nat := kvBase s c + 64 * q
/-- Address of page-table entry `i` of a sequence. -/
def kvPtAddr (s : State) (c q i : Nat) : Nat := kvBase s c + 64 * kvSeqMax s c + 4 * (q * kvPtEntries s c + i)
/-- Address of a slot's metadata. -/
def kvMetaAddr (s : State) (c slot : Nat) : Nat :=
  kvBase s c + 64 * kvSeqMax s c + 4 * kvSeqMax s c * kvPtEntries s c + 128 * slot
/-- Address of a prefix bucket. -/
def kvBucketAddr (s : State) (c b : Nat) : Nat := kvMetaAddr s c (kvSlots s c) + 4 * b
/-- First byte of the slots: the next 64 KiB boundary. -/
def kvSlotsAddr (s : State) (c : Nat) : Nat :=
  ceilDiv (kvBucketAddr s c (2 ^ kvBucketBits s c)) 0x10000 * 0x10000
/-- First byte of a slot. -/
def kvSlotAddr (s : State) (c slot : Nat) : Nat := kvSlotsAddr s c + slot * kvSlotBytes s
/-- Bytes the parts of Table 5.1 take. -/
def kvNeeds (s : State) (c : Nat) : Nat := kvSlotAddr s c (kvSlots s c) - kvBase s c

/-- The no-slot mark of chains and parents. -/
def noSlot : Nat := 0xFFFFFFFF

/-! ### Sequences -/

/-- A little-endian value in memory. -/
def memNat (s : State) (a n : Nat) : Nat := leNat (memRead s a n)
/-- Store a little-endian value in memory. -/
def memPut (s : State) (a n v : Nat) : State := memWrite s a (leBytes n v)

/-- LENGTH of a sequence. -/
def seqLength (s : State) (c q : Nat) : Nat := memNat s (kvSeqAddr s c q) 4
/-- TRIM of a sequence. -/
def seqTrimOf (s : State) (c q : Nat) : Nat := memNat s (kvSeqAddr s c q + 4) 4
/-- WINDOW of a sequence. -/
def seqWindow (s : State) (c q : Nat) : Nat := memNat s (kvSeqAddr s c q + 8) 4
/-- FLAGS of a sequence. -/
def seqFlags (s : State) (c q : Nat) : Nat := memNat s (kvSeqAddr s c q + 12) 1
/-- VALID. -/
def seqValid (s : State) (c q : Nat) : Bool := bitAt (seqFlags s c q) 0
/-- WIDE. -/
def seqWide (s : State) (c q : Nat) : Bool := bitAt (seqFlags s c q) 1
/-- SHARE. -/
def seqShare (s : State) (c q : Nat) : Bool := bitAt (seqFlags s c q) 2
/-- Positions of a page of the sequence (R153). -/
def seqPage (s : State) (c q : Nat) : Nat := if seqWide s c q then 256 else 16

/-- Write a descriptor (Table 5.2). -/
def setSeq (s : State) (c q len trim window flags : Nat) : State :=
  memWrite s (kvSeqAddr s c q) (leBytes 4 len ++ leBytes 4 trim ++ leBytes 4 window ++ leBytes 1 flags ++ List.replicate 51 0)

/-- Set LENGTH. -/
def setSeqLength (s : State) (c q len : Nat) : State := memPut s (kvSeqAddr s c q) 4 len

/-- The slot that entry `i` of a sequence names, if the entry is valid (R153). -/
def ptSlot (s : State) (c q i : Nat) : Option Nat :=
  let e := memNat s (kvPtAddr s c q i) 4
  if bitAt e 31 then some (bits e 23 0) else none

/-- Make entry `i` name a slot, or invalid. -/
def setPt (s : State) (c q i : Nat) : Option Nat → State
  | some slot => memPut s (kvPtAddr s c q i) 4 (2 ^ 31 + slot % 2 ^ 24)
  | none => memPut s (kvPtAddr s c q i) 4 0

/-- The VALID wide sequences of the module (KVM_STATUS.WIDE_COUNT). -/
def wideCount (s : State) : Nat :=
  ((List.range 64).map fun c =>
    if kvSize s c = 0 then 0
    else ((List.range (kvSeqMax s c)).filter (fun q => seqValid s c q && seqWide s c q)).length).sum

/-! ### Slot metadata -/

/-- REFCOUNT. -/
def slotRef (s : State) (c k : Nat) : Nat := memNat s (kvMetaAddr s c k) 2
/-- FILLED. -/
def slotFilled (s : State) (c k : Nat) : Nat := memNat s (kvMetaAddr s c k + 2) 2
/-- STATE: 0 FREE, 1 HELD, 2 CACHED, 3 PENDING. -/
def slotState (s : State) (c k : Nat) : Nat := memNat s (kvMetaAddr s c k + 4) 1
/-- INDEXED. -/
def slotIndexed (s : State) (c k : Nat) : Bool := decide (memNat s (kvMetaAddr s c k + 5) 1 = 1)
/-- PIN. -/
def slotPin (s : State) (c k : Nat) : Nat := memNat s (kvMetaAddr s c k + 8) 4
/-- NEXT. -/
def slotNext (s : State) (c k : Nat) : Nat := memNat s (kvMetaAddr s c k + 12) 4
/-- KEY. -/
def slotKey (s : State) (c k : Nat) : Nat := memNat s (kvMetaAddr s c k + 16) 8
/-- PARENT. -/
def slotParent (s : State) (c k : Nat) : Nat := memNat s (kvMetaAddr s c k + 24) 4
/-- RELEASED. -/
def slotReleased (s : State) (c k : Nat) : Nat := memNat s (kvMetaAddr s c k + 28) 4
/-- TOKENS. -/
def slotTokens (s : State) (c k : Nat) : List Byte := memRead s (kvMetaAddr s c k + 32) 64
/-- LAYER_MASK. -/
def slotMask (s : State) (c k : Nat) : Nat := memNat s (kvMetaAddr s c k + 96) 32

/-- Set REFCOUNT. -/
def setSlotRef (s : State) (c k v : Nat) : State := memPut s (kvMetaAddr s c k) 2 v
/-- Set FILLED. -/
def setSlotFilled (s : State) (c k v : Nat) : State := memPut s (kvMetaAddr s c k + 2) 2 v
/-- Set STATE. -/
def setSlotState (s : State) (c k v : Nat) : State := memPut s (kvMetaAddr s c k + 4) 1 v
/-- Set INDEXED. -/
def setSlotIndexed (s : State) (c k : Nat) (b : Bool) : State := memPut s (kvMetaAddr s c k + 5) 1 (b2n b)
/-- Set PIN. -/
def setSlotPin (s : State) (c k v : Nat) : State := memPut s (kvMetaAddr s c k + 8) 4 v
/-- Set NEXT. -/
def setSlotNext (s : State) (c k v : Nat) : State := memPut s (kvMetaAddr s c k + 12) 4 v
/-- Set LAYER_MASK. -/
def setSlotMask (s : State) (c k v : Nat) : State := memPut s (kvMetaAddr s c k + 96) 32 v

/-- RETIRED of a context (R159). -/
def kvRetired (s : State) (c : Nat) : Nat := fget s (Reg.KVM_CTX_EPOCH_RETIRED c)

/-- The state a slot without references takes (R160); a slot that becomes CACHED takes the next order stamp. -/
def settleSlot (s : State) (c k : Nat) : State :=
  if 0 < s32diff (slotPin s c k) (kvRetired s c) then setSlotState s c k 3
  else if slotIndexed s c k then
    let x := ctx s c
    let s := setCtx s c { x with kvStamp := wrap32 (x.kvStamp + 1) }
    memPut (setSlotState s c k 2) (kvMetaAddr s c k + 28) 4 x.kvStamp
  else setSlotState s c k 0

/-- Drop one reference from a slot (R160). -/
def dropRef (s : State) (c k : Nat) : State :=
  let s := setSlotRef s c k (slotRef s c k - 1)
  if slotRef s c k = 0 then settleSlot s c k else s

/-- Make an entry invalid and drop its reference. -/
def dropEntry (s : State) (c q i : Nat) : State :=
  match ptSlot s c q i with
  | none => s
  | some k => dropRef (setPt s c q i none) c k

/-! ### The prefix index (R164, R165) -/

/-- Key of a page from its parent's key and its tokens (R164). -/
def prefixKey (parent : Nat) (tokens : List Byte) : Nat := fieldAt (sha256 (leBytes 8 parent ++ tokens)) 0 8

/-- Bucket of a key. -/
def keyBucket (s : State) (c key : Nat) : Nat := key % 2 ^ kvBucketBits s c

/-- First slot of a chain from `k` that satisfies `p`, over at most `fuel` slots. -/
def chainFind (s : State) (c : Nat) (p : Nat → Bool) : (fuel k : Nat) → Option Nat
  | 0, _ => none
  | fuel + 1, k => if k = noSlot then none else if p k then some k else chainFind s c p fuel (slotNext s c k)

/-- The indexed slot of a key that satisfies `p`. -/
def indexFind (s : State) (c key : Nat) (p : Nat → Bool) : Option Nat :=
  chainFind s c (fun k => decide (slotKey s c k = key) && p k) (kvSlots s c + 1)
    (memNat s (kvBucketAddr s c (keyBucket s c key)) 4)

/-- Take a slot out of the prefix index (R162). -/
def unindex (s : State) (c k : Nat) : State :=
  if !slotIndexed s c k then s else
    let b := kvBucketAddr s c (keyBucket s c (slotKey s c k))
    let next := slotNext s c k
    let s := if memNat s b 4 = k then memPut s b 4 next
      else match chainFind s c (fun j => decide (slotNext s c j = k)) (kvSlots s c + 1) (memNat s b 4) with
        | some j => setSlotNext s c j next
        | none => s
    setSlotNext (setSlotIndexed s c k false) c k noSlot

/-- Put a slot into the prefix index under a key. -/
def index (s : State) (c k key parent : Nat) : State :=
  let b := kvBucketAddr s c (keyBucket s c key)
  let head := memNat s b 4
  let s := memPut (memPut s (kvMetaAddr s c k + 16) 8 key) (kvMetaAddr s c k + 24) 4 parent
  memPut (setSlotNext (setSlotIndexed s c k true) c k head) b 4 k

/-- Page `i` of a sequence enters the index when R165 holds, and then page `i + 1` is tried, over at most `fuel` pages. The
result names the first page after `i` that was not tried. -/
def tryIndex (s : State) (c q : Nat) : (fuel i : Nat) → Nat × State
  | 0, i => (i, s)
  | fuel + 1, i =>
    match ptSlot s c q i with
    | none => (i + 1, s)
    | some k =>
      let parent := if i = 0 then some (noSlot, 0) else match ptSlot s c q (i - 1) with
        | some j => if slotIndexed s c j then some (j, slotKey s c j) else none
        | none => none
      match parent with
      | none => (i + 1, s)
      | some (pslot, pkey) =>
        if slotIndexed s c k ∨ seqWide s c q = true ∨ seqShare s c q = false ∨ slotFilled s c k ≠ 16
            ∨ slotMask s c k % 2 ^ kvLayers s ≠ 2 ^ kvLayers s - 1 ∨ seqTrimOf s c q ≠ 0 then (i + 1, s)
        else
          let key := prefixKey pkey (slotTokens s c k)
          match indexFind s c key (fun _ => true) with
          | none => tryIndex (index s c k key pslot) c q fuel (i + 1)
          | some j =>
            if slotTokens s c j = slotTokens s c k then (i + 1, s)
            else (i + 1, raiseCtx (finc s (Reg.KVM_CTX_CNT_COUNT c 2)) 0x3001 69 c (u64 key ++ u16 j ++ u16 k))

/-- Pages that a command changed enter the index, in increasing order; each page is tried once (R165). -/
def tryPages (c q upto : Nat) : List Nat → State → State
  | [], s => s
  | i :: rest, s =>
    if i < upto then tryPages c q upto rest s
    else
      let r := tryIndex s c q (kvPtEntries s c) i
      tryPages c q r.1 rest r.2

/-! ### Allocation (R163) -/

/-- Free narrow slots. -/
def freeNarrow (s : State) (c : Nat) : List Nat :=
  (List.range (kvNarrow s c)).map (· + 16 * kvWideUnits s c) |>.filter (fun k => decide (slotState s c k = 0))

/-- Cached narrow slots. -/
def cachedNarrow (s : State) (c : Nat) : List Nat :=
  (List.range (kvNarrow s c)).map (· + 16 * kvWideUnits s c) |>.filter (fun k => decide (slotState s c k = 2))

/-- First slots of free wide units. -/
def freeWide (s : State) (c : Nat) : List Nat :=
  (List.range (kvWideUnits s c)).map (16 * ·) |>.filter (fun k => decide (slotState s c k = 0))

/-- Age of a cached slot's order stamp. -/
def stampAge (s : State) (c k : Nat) : Nat := (ctx s c).kvStamp + 2 ^ 32 - slotReleased s c k

/-- The slot with the oldest stamp of a list. -/
def oldest (s : State) (c : Nat) : List Nat → Option Nat
  | [] => none
  | k :: ks => match oldest s c ks with
    | none => some k
    | some j => if (stampAge s c j) % 2 ^ 32 ≤ (stampAge s c k) % 2 ^ 32 then some k else some j

/-- Pages that can still be allocated. -/
def slotsAvail (s : State) (c : Nat) (wide : Bool) : Nat :=
  if wide then (freeWide s c).length else (freeNarrow s c).length + (cachedNarrow s c).length

/-- Write the metadata of a slot just allocated. -/
def freshSlot (s : State) (c k : Nat) : State :=
  let pin := slotPin s c k
  memWrite s (kvMetaAddr s c k)
    (leBytes 2 1 ++ leBytes 2 0 ++ [1, 0] ++ leBytes 2 0 ++ leBytes 4 pin ++ leBytes 4 noSlot ++ List.replicate 112 0)

/-- Take a slot for a page: HELD, one reference, not indexed, nothing filled. -/
def allocSlot (s : State) (c : Nat) (wide : Bool) : Option (Nat × State) :=
  if wide then (freeWide s c).head?.map (fun k => (k, freshSlot s c k))
  else match (freeNarrow s c).head? with
    | some k => some (k, freshSlot s c k)
    | none => (oldest s c (cachedNarrow s c)).map (fun k => (k, freshSlot (unindex s c k) c k))

/-! ### Rows of K and V (R150) -/

/-- Address of the row of one head of K (`v = 0`) or V (`v = 1`) of page-relative position `t` in a page of `p` positions. -/
def kvRowAddr (s : State) (c slot p layer v head t : Nat) : Nat :=
  let run := p * kvDim s * kvElem s
  kvSlotAddr s c slot + layer * (2 * kvHeads s * run) + (v * kvHeads s + head) * run + t * kvDim s * kvElem s

/-- Every row of a position: layer, plane, head. -/
def kvRows (s : State) : List (Nat × Nat × Nat) :=
  (List.range (kvLayers s)).flatMap fun l => (List.range 2).flatMap fun v => (List.range (kvHeads s)).map fun h => (l, v, h)

/-- Copy one position's rows of every layer to another page. -/
def copyPosition (c src dst p t : Nat) (s : State) : State :=
  forEach (kvRows s) (fun (l, v, h) s =>
    memWrite s (kvRowAddr s c dst p l v h t) (memRead s (kvRowAddr s c src p l v h t) (kvDim s * kvElem s))) s

/-- Leave one position's rows of every layer undefined until KV_WRITE fills them (R172). -/
def undefPosition (c slot p t : Nat) (s : State) : State :=
  forEach (kvRows s) (fun (l, v, h) s =>
    let (f, s) := takeFree s
    memWrite s (kvRowAddr s c slot p l v h t) (freeBytes f (kvDim s * kvElem s))) s

/-- Make page `i` of a sequence safe to change: copy-on-write when shared (R161), out of the index when not (R162). -/
def ownPage (s : State) (c q i : Nat) : Option State :=
  match ptSlot s c q i with
  | none => some s
  | some k =>
    if slotRef s c k ≤ 1 then some (unindex s c k)
    else match allocSlot s c (seqWide s c q) with
      | none => none
      | some (n, s) =>
        let p := seqPage s c q
        let held := min p (seqLength s c q - i * p)
        let s := forRange held (fun t s => copyPosition c k n p t s) s
        let s := setSlotFilled s c n (min (slotFilled s c k) held)
        let s := if seqWide s c q then s else
          memWrite s (kvMetaAddr s c n + 32) (padTo 64 ((slotTokens s c k).take (4 * held)))
        let s := setSlotMask s c n (slotMask s c k)
        some (dropRef (setPt s c q i (some n)) c k)

/-- Invalidate every sequence and free every slot of a context (R171). -/
def kvFreeAll (s : State) (c : Nat) : State :=
  if kvSize s c = 0 then s else
    let s := forRange (kvSeqMax s c) (fun q s => memPut s (kvSeqAddr s c q + 12) 1 0) s
    let s := forRange (kvSlots s c) (fun k s => setSlotIndexed (setSlotState (setSlotRef s c k 0) c k 0) c k false) s
    forRange (2 ^ kvBucketBits s c) (fun b s => memPut s (kvBucketAddr s c b) 4 noSlot) s

/-- The initial contents of the parts of a KV region (R175). -/
def kvClearParts (s : State) (c : Nat) : State :=
  if kvSize s c = 0 then s else
    let s := forRange (kvSeqMax s c) (fun q s => memZero s (kvSeqAddr s c q) 64) s
    let s := forRange (kvSlots s c) (fun k s => memZero s (kvMetaAddr s c k) 128) s
    forRange (2 ^ kvBucketBits s c) (fun b s => memPut s (kvBucketAddr s c b) 4 noSlot) s

/-- Write the initial contents of a KV region (R175); INIT_BUSY is set while this runs. -/
def kvInitRegion (s : State) (c : Nat) : State :=
  let s := kvClearParts s c
  let s := fset s (Reg.KVM_CTX_EPOCH_RETIRED c) 0
  let s := forRange 4 (fun k s => fset s (Reg.KVM_CTX_CNT_COUNT c k) 0) s
  setCtx s c { ctx s c with kvStamp := 0, kvSatSeen := 0, kvInit := true }

/-- Bytes of a slot that R149 gives for a geometry: 16 × LAYERS × KV_HEADS × HEAD_DIM × 2 e, rounded up to whole 64 KiB. -/
def slotBytesOf (layers heads dim e : Nat) : Nat := ceilDiv (16 * (layers * heads * dim * 2 * e)) 0x10000 * 0x10000

end Sys2Proof.Machine
end

