-- ==== Sys2Proof/Machine/Contexts.lean ====
section
/-! DEFINITION. Contexts: RUN bits and lanes (R238 to R243), frames (R246, R249), completion of commands (R207), the fault of
a thread (TILE_FAULT), and the teardown of a context (R252) as ONE shared operation. -/

namespace Sys2Proof.Machine

/-! ### Commands -/

/-- Change command `n` of a queue. -/
def modCmd (s : State) (q n : Nat) (f : QCmd → QCmd) : State :=
  let x := queue s q
  setQueue s q { x with out := x.out.map (fun c => if c.n = n then f c else c) }

/-- Command `n` of a queue, while it is outstanding. -/
def findCmd (s : State) (q n : Nat) : Option QCmd := (queue s q).out.find? (fun c => decide (c.n = n))

/-- Decide a command's status (R207, R446: a status never changes once decided). -/
def completeCmd (s : State) (q n status detail : Nat) : State :=
  modCmd s q n (fun c => if c.phase = .complete then c else
    { c with phase := .complete, status := status, detail := detail % 0x10000, time := s.time })

/-- OUTSTANDING of a queue. -/
def outstanding (s : State) (q : Nat) : Nat := (queue s q).out.length

/-- Whether a queue is enabled. -/
def queueOn (s : State) (q : Nat) : Bool := fbit s (Reg.QMGR_QCFG_EN q)

/-- Enabled queues, found by their configuration words (EN resets to 0). -/
def enabledQueues (s : State) : List Nat :=
  s.cw.filterMap fun e =>
    if 0x980000 ≤ e.1 ∧ e.1 < 0xA00000 ∧ (e.1 - 0x980000) % 32 = 0 ∧ bitAt e.2.toNat 31 = true
    then some ((e.1 - 0x980000) / 32) else none

/-- The queues a context owns: those of its plan record and every other enabled queue whose OWNER it is (R232). -/
def ownedQueues (s : State) (c : Nat) : List Nat :=
  let planned := match (ctx s c).plan with
    | none => []
    | some p => (List.range p.queueCount).map (· + p.queueFirst)
  let own := planned.filter (fun q => decide (owner s q = c))
  own ++ (enabledQueues s).filter (fun q => !isMgmt q && decide (owner s q = c) && !own.contains q)

/-- Opcodes that act on a context named in byte 3 of a management-queue command: tile, KV, memory-move and planner
commands (R199). -/
def ctxOpcode (op : Nat) : Bool := decide (op / 0x100 = 1 ∨ op / 0x100 = 2 ∨ op / 0x100 = 3 ∨ op / 0x100 = 4)

/-- Every outstanding command that acts for a context: (queue, command). -/
def ctxCommands (s : State) (c : Nat) : List (Nat × QCmd) :=
  ((ownedQueues s c).flatMap fun q => (queue s q).out.map fun d => (q, d)) ++
  ((List.range 16).flatMap fun q => ((queue s q).out.filter fun d =>
    decide (d.phase = .started) && ctxOpcode d.opcode && decide (d.context = c)).map fun d => (q, d))

/-! ### Threads of a context -/

/-- Threads listed in State: (tile, thread, record). -/
def listedThreads (s : State) : List (Nat × Nat × Thread) := s.threads.map fun e => (e.1 / 128, e.1 % 128, e.2)

/-- Whether a thread is READY or WAITING. -/
def Thread.busy (t : Thread) : Bool := decide (t.state = .ready ∨ t.state = .waiting)

/-- Whether a context has a READY or WAITING thread anywhere. -/
def ctxThreadsBusy (s : State) (c : Nat) : Bool :=
  (listedThreads s).any fun e => decide (e.2.2.ctx = c) && e.2.2.busy

/-- Whether a thread of the context is inside a no-pre-empt section (R587). -/
def ctxInSection (s : State) (c : Nat) : Bool :=
  (listedThreads s).any fun e => decide (e.2.2.ctx = c ∧ 0 < e.2.2.depth)

/-- Pending work of a best-effort context (R239); the instruction a STEP asks for is work too (R593). -/
def ctxPending (s : State) (c : Nat) : Bool :=
  ctxThreadsBusy s c || (listedThreads s).any (fun e => decide (e.2.2.ctx = c) && e.2.2.step) || (ownedQueues s c).any (fun q => decide (0 < outstanding s q))

/-! ### RUN bits -/

/-- Whether an ACTIVE EXCL context with a tile satisfies `p`. -/
def exclOn (s : State) (tile : Nat) (p : Plan → Ctx → Bool) : Bool :=
  s.ctxs.any fun e => match e.2.plan with
    | none => false
    | some x => ctxActive s e.1 && bitAt x.tileMask tile && bitAt x.cflags 1 && p x e.2

/-- Whether an EXCL context's open frame holds best-effort RUN bits clear on a tile (R238). -/
def frameOn (s : State) (tile : Nat) : Bool := exclOn s tile (fun _ x => x.frame.isSome)

/-- Whether an EXCL context's open frame, a pre-clear before it, or a golden frame holds best-effort RUN bits clear on a
tile (R238, R242, R251). -/
def tileExcluded (s : State) (tile : Nat) : Bool :=
  exclOn s tile (fun p x => x.frame.isSome || x.preclear.isSome || (s.golden.isSome && bitAt p.cflags 2))

/-- Whether a deferred clear keeps a context's bit set on a tile (R241). -/
def deferredOn (s : State) (tile c : Nat) : Bool :=
  (match (ctx s c).deferral with
    | some d => bitAt d.tiles tile
    | none => false) && !frameOn s tile

/-- The RUN bit of a context on a tile (TILE_CTX_RUN; R238, R239, R241). -/
def runBit (s : State) (tile c : Nat) : Bool :=
  match (ctx s c).plan with
  | none => false
  | some p =>
    ctxActive s c && bitAt p.tileMask tile
      && (decide (p.cls = 1) || deferredOn s tile c || (decide ((lane s p.lane).holder = some c) && !tileExcluded s tile))

/-- The tiles of a mask on which a context's RUN bit is set, as a mask. -/
def runMask (s : State) (c mask : Nat) : Nat :=
  ((setBitsOf mask 48).filter (fun t => runBit s t c)).foldl (fun m t => m + 2 ^ t) 0

/-- A tile has supply, clock and cycles that are no bubbles: no reset or shutdown, no DROWSE (R542), its phases up (R467), no
thermal trip (R484), and no abandoned image swap (R415). -/
def tileWorks (s : State) (tile : Nat) : Bool :=
  !(s.power.off || s.power.rstLow || s.power.dormant || s.harebell.abandoned) && decide (fget s Reg.PWR_LPSTATE_STATE ≠ 1)
    && [tile / 16, 3, 4].all (phaseUp s) && !fbit s Reg.PWR_STATUS_TRIP

/-- A WAITING thread whose condition has cleared: READY, or DEBUG_HALT when a halt was asked for (Table 2.2, R593). -/
def Thread.wake (t : Thread) : Thread :=
  { t with state := if t.haltNext then .debugHalt else .ready, haltNext := false, wait := .nothing }

/-- Whether a thread meets the conditions to issue (R43); a halted one only for the one instruction of a STEP (R593), and one whose
HALT waits for its unit commands issues nothing more (R47). -/
def threadEligible (s : State) (tile t : Nat) : Bool :=
  let th := thread s tile t
  (decide (th.state = .ready) || (decide (th.state = .debugHalt) && th.step)) && !th.halting && runBit s tile th.ctx && tileWorks s tile
    && fbit s (Reg.TILE_CTRL_ISSUE_EN tile)

/-- The thread that a barrel pipe issued last, counted within the pipe (R42, R43). -/
def pipeLast (s : State) (tile pipe : Nat) : Nat := storeGet (fun _ => 31) s.pipes (4 * tile + pipe)

/-- Whether a thread is the next to issue (R43): it is eligible, and no eligible thread of its pipe stands between the last one
issued and it. -/
def mayIssue (s : State) (tile t : Nat) : Bool :=
  let l := pipeLast s tile (t / 32)
  threadEligible s tile t
    && (List.range ((t % 32 + 31 - l) % 32)).all (fun k => !threadEligible s tile (t / 32 * 32 + (l + 1 + k) % 32))

/-! ### Lanes (R239, R241) -/

/-- SLICE_HOLDER follows the lane. -/
def setHolder (s : State) (l : Nat) (h : Option Nat) : State :=
  let old := (lane s l).holder
  let s := match old with | some c => fsetb s (Reg.QMGR_CTX_STATE_SLICE_HOLDER c) false | none => s
  let s := match h with | some c => fsetb s (Reg.QMGR_CTX_STATE_SLICE_HOLDER c) true | none => s
  setLane s l { lane s l with holder := h, start := s.time }

/-- Begin the deferral of a context's clear on the tiles of a mask when one of its threads is inside a section; otherwise the clear
is now. A clear that falls into a running deferral joins it. -/
def deferClear (s : State) (c tiles : Nat) : State :=
  if ctxInSection s c = false ∨ tiles = 0 then s
  else match (ctx s c).deferral with
    | none => finc (setCtx s c { ctx s c with deferral := some ⟨s.time, tiles⟩ }) (Reg.QMGR_CTX_CNT_COUNT c 5)
    | some d => setCtx s c { ctx s c with deferral := some { d with tiles := d.tiles ||| tiles } }

/-- End a deferral: charge it to the context (R241). -/
def endDeferral (s : State) (c : Nat) : State :=
  match (ctx s c).deferral with
  | none => s
  | some d => setCtx s c { ctx s c with deferral := none, charge := (ctx s c).charge + (s.time - d.since) }

/-- A deferral loses the tiles of a mask, whose bits are clear now; with none left it ends (R238, R241). -/
def cutDeferral (s : State) (c mask : Nat) : State :=
  match (ctx s c).deferral with
  | none => s
  | some d =>
    let left := d.tiles - (d.tiles &&& mask)
    if left = 0 then endDeferral s c else setCtx s c { ctx s c with deferral := some { d with tiles := left } }

/-- The ACTIVE best-effort contexts of a lane with pending work: (context, PRIO). -/
def laneReady (s : State) (l : Nat) : List (Nat × Nat) :=
  s.ctxs.filterMap fun e => match e.2.plan with
    | none => none
    | some p => if p.cls = 0 ∧ p.lane = l ∧ ctxActive s e.1 = true ∧ ctxPending s e.1 = true then some (e.1, p.prio) else none

/-- Highest PRIO among contexts. -/
def topPrio (l : List (Nat × Nat)) : Nat := l.foldl (fun m e => max m e.2) 0

/-- The next one of the highest PRIO, round robin; `last` gives by PRIO the one served last. -/
def nextInTurn (l : List (Nat × Nat)) (last : Nat → Nat) : Option Nat :=
  let cs := (l.filter (fun e => decide (e.2 = topPrio l))).map (·.1)
  match cs.find? (fun c => decide (last (topPrio l) < c)) with
  | some c => some c
  | none => cs.head?

/-- The context of a lane that held the slice last, by PRIO. -/
def laneLast (s : State) (l prio : Nat) : Nat := storeGet (fun _ => 63) (lane s l).last prio

/-- Give a free lane to the next context in turn; a context whose slice length is 0 skips its turn, and its deferral, if one runs,
goes on (R241). A deferral that runs when the context takes the slice ends without a clear and is charged to the slice after
(DESIGN CHOICE, log entry 66). -/
def grantSlice (l : Nat) : (fuel : Nat) → State → State
  | 0, s => s
  | fuel + 1, s =>
    match nextInTurn (laneReady s l) (laneLast s l) with
    | none => s
    | some c =>
      match (ctx s c).plan with
      | none => s
      | some p =>
        let slice := p.slice * 10000
        let charge := (ctx s c).charge
        let s := setCtx s c { ctx s c with charge := charge - slice }
        let s := setLane s l { lane s l with last := storeSet (fun _ => 63) (lane s l).last p.prio c }
        if slice - charge = 0 then grantSlice l fuel s
        else
          let s := setHolder (endDeferral s c) l (some c)
          setLane s l { lane s l with length := slice - charge }

/-- Turns tried before a lane gives up: charges fall by a slice each turn. -/
def sliceFuel (s : State) : Nat := s.ctxs.foldl (fun n e => n + 2 + e.2.charge / 10000) 2

/-- Take the slice from its holder. -/
def dropHolder (s : State) (l : Nat) : State :=
  match (lane s l).holder with
  | none => s
  | some c =>
    let tiles := runMask s c (((ctx s c).plan.map (·.tileMask)).getD 0)
    deferClear (setHolder s l none) c tiles

/-- Data movers let go of started commands that wait for another module once their context's RUN bit is clear (R243). -/
def releaseMovers (s : State) : State :=
  mapUnits (fun k u =>
    if k % 8 = 5 then { u with started := u.started.map (fun d => match d.op with
      | .move c => { d with released := d.released || (c.remote.isSome && !runBit s (k / 8) d.ctx) }
      | _ => d) } else u) s

/-- Threads that wait on a full unit queue try again once an entry is free (R50). -/
def wakeUnitWaiters (s : State) : State :=
  mapThreads (fun k t => match t.state, t.wait with
    | .waiting, .unitQueue u => if (unit s (k / 128) u).queue.length < 16 then t.wake else t
    | _, _ => t) s

/-- Re-evaluate a lane after work came or went (R239): a holder without pending work gives the slice up, a context of
higher PRIO pre-empts, and a free lane is granted. -/
def reschedule (s : State) (l : Nat) : State :=
  let ready := laneReady s l
  let s := match (lane s l).holder with
    | none => s
    | some h =>
      match ready.find? (fun e => decide (e.1 = h)) with
      | none => dropHolder s l
      | some e => if e.2 < topPrio ready then finc (dropHolder s l) (Reg.QMGR_CTX_CNT_COUNT h 7) else s
  releaseMovers (if (lane s l).holder.isSome then s else grantSlice l (sliceFuel s) s)

/-- Re-evaluate every lane. -/
def rescheduleAll (s : State) : State := forRange 8 (fun l s => reschedule s l) s

/-! ### Frames (R246, R249) -/

/-- Close the open frame of a context; `ran` is how long its launch ran, if it had started. -/
def closeFrame (s : State) (c : Nat) (ran : Option Nat) : State :=
  match (ctx s c).frame with
  | none => s
  | some f =>
    let s := setCtx s c { ctx s c with frame := none }
    let s := fset (fsetb s (Reg.QMGR_CTX_STATE_FRAME_OPEN c) false) (Reg.QMGR_CTX_STATE_LEVEL c) 0
    let s := if f.deadline < s.time
      then raiseCtx (finc s (Reg.QMGR_CTX_CNT_COUNT c 2)) 0x2051 69 c (u32 (s.time - f.deadline)) else s
    match ran with
    | none => s
    | some r => if fget s (Reg.QMGR_CTX_TIMING_VALUE c 3) < r
        then raiseCtx (finc s (Reg.QMGR_CTX_CNT_COUNT c 3)) 0x2052 69 c (u32 r) else s

/-- The launch with a number. -/
def findLaunch (s : State) (id : Nat) : Option Launch := s.launches.find? (fun l => decide (l.id = id))

/-- Replace a launch. -/
def setLaunch (s : State) (x : Launch) : State :=
  { s with launches := s.launches.map (fun l => if l.id = x.id then x else l) }

/-- Remove a launch. -/
def dropLaunch (s : State) (id : Nat) : State := { s with launches := s.launches.filter (fun l => decide (l.id ≠ id)) }

/-! ### Teardown (R252) -/

/-- Discard Vetch's map and library (R389): the empty map is published as epoch P + 1. `cause` is the position in R389's list:
1 the owner torn down, 2 re-created, 3 a SET_COMMIT. -/
def vetchDiscard (cause : Nat) (s : State) : State :=
  let v := s.vetch
  let p := wrap32 (v.pub.epoch + 1)
  let m : VMap := ⟨[], [], p, v.pub.sb, v.pub.pitch, v.pub.origin⟩
  let s := { s with vetch := { v with pub := m, opn := { m with epoch := wrap32 (p + 1) }, pins := [], lib := none } }
  raiseCtx (fsetb (fset s Reg.PLN_MAP_EPOCH_PUBLISHED p) Reg.PLN_STATUS_LIB_BOUND false) 0x7007 64
    (fget s Reg.PLN_CFG_OWNER) (leBytes 4 p ++ u8 cause)

/-- A thread as teardown leaves it: IDLE, at the first instruction not issued (Table 2.2, TILE_THR_PC). -/
def Thread.ended (t : Thread) : Thread :=
  if t.state = .unassigned then t else { t with state := .idle, wait := .nothing, depth := 0, launch := none, lbars := 0,
                                                   haltNext := false, step := false, halting := false }

/-- A unit after its context ends: queued commands go, started ones run to their end and signal nothing (R252 step 2). -/
def UnitState.ended (c : Nat) (u : UnitState) : UnitState :=
  { u with queue := u.queue.filter (fun d => decide (d.ctx ≠ c)),
           started := u.started.map (fun d => if d.ctx = c then { d with dead := true } else d) }

/-- TAG of the record 0x2056: the faulting command's, free where there is none. -/
def teardownTag (s : State) (faulting : Option (Nat × Nat × Nat)) : Nat × State :=
  match faulting.bind (fun f => (findCmd s f.1 f.2.1).map QCmd.tag) with
  | some t => (t, s)
  | none => let (f, s) := takeFree s; ((Config.freeWord f).toNat % 2 ^ 32, s)

/-- How long the launch of a context's open frame has run. -/
def frameRan (s : State) (c : Nat) : Option Nat :=
  match (ctx s c).frame.bind (·.launch) with
  | some id => (findLaunch s id).map (fun l => s.time - l.start)
  | none => none

/-- A context's threads, unit commands, launches and ATTENDs end, a golden launch among them (R251). -/
def endWork (c : Nat) (s : State) : State :=
  let s := mapUnits (fun _ u => u.ended c) (mapThreads (fun _ t => if t.ctx = c then t.ended else t) s)
  let golden := if (s.golden.bind (findLaunch s)).any (fun l => decide (l.ctx = c)) then none else s.golden
  { s with
    launches := s.launches.filter (fun l => decide (l.ctx ≠ c)),
    attends := s.attends.filter (fun a => decide (a.ctx ≠ c)),
    golden := golden }

/-- Clear MIG in the leaf entry of a page. -/
def clearMig (x va : Nat) (s : State) : State :=
  match walk s x va with
  | .ok l => memWrite s l.entry (leBytes 8 (setBit (memNat s l.entry 8) 8 false))
  | .error _ => s

/-- MIG is cleared on every page of a MIGRATE that has not moved (R125, R148). -/
def releasePages (x : Nat) (c : QCmd) (s : State) : State :=
  if c.opcode = 0x0300 ∧ c.engaged = true ∧ c.phase = .started
  then forRange (c.length - c.done) (fun i s => clearMig x (c.field 16 8 + 0x1000 * (c.done + i)) s) s else s

/-- DETAIL of a cancelled command: the pages that a running memory-move command has completed (Table 4.10), else 0. -/
def cancelDetail (c : QCmd) : Nat := if c.opcode / 0x100 = 3 ∧ c.engaged = true then c.done else 0

/-- The faulting command settles with CONTEXT_FAULT and the context's other commands with CANCELLED; their map pins end. -/
def cancelWork (x : Nat) (faulting : Option (Nat × Nat × Nat)) (cmds : List (Nat × QCmd)) (s : State) : State :=
  let s := forEach cmds (fun (_, d) s => releasePages x d s) s
  let s := match faulting with
    | some (q, n, detail) => completeCmd s q n Status.contextFault detail
    | none => s
  let s := forEach cmds (fun (q, d) s => completeCmd s q d.n Status.cancelled (cancelDetail d)) s
  let pins := s.vetch.pins.filter (fun p => !cmds.any (fun d => decide (d.1 = p.1 ∧ d.2.n = p.2.1)))
  { s with vetch := { s.vetch with pins := pins } }

/-- A context of class 0 gives up its lane. -/
def yieldLane (c : Nat) (s : State) : State :=
  match (ctx s c).plan with
  | some p => if p.cls = 0 ∧ (lane s p.lane).holder = some c then setHolder s p.lane none else s
  | none => s

/-- End a context (R252). `cause` is the position of the cause in R252's list; `faulting` is the command that caused the
fault with the DETAIL its reply carries. A context already in TEARDOWN or FAULTED starts no second teardown (R447). -/
def beginTeardown (s : State) (c cause : Nat) (faulting : Option (Nat × Nat × Nat)) : State :=
  if !ctxActive s c then s else
    let cmds := ctxCommands s c
    let (tag, s) := teardownTag s faulting
    let s := fset s (Reg.QMGR_CTX_STATE_STATE c) 2
    let s := forEach (ownedQueues s c) (fun q s => fsetb s (Reg.QMGR_QSTATE_TEARDOWN q) true) s
    let s := raiseCtx s 0x2056 69 c (u8 cause ++ leBytes 4 tag)
    let s := cancelWork c faulting cmds (endWork c (closeFrame s c (frameRan s c)))
    let s := yieldLane c (setCtx s c { ctx s c with deferral := none, preclear := none })
    let s := kvFreeAll s c
    let s := if fbit s Reg.PLN_CFG_EN ∧ fget s Reg.PLN_CFG_OWNER = c then vetchDiscard 1 s else s
    let s := if fget s Reg.PCIE_INBOUND_CTX = c then fsetb s Reg.PCIE_CFG_EN false else s
    rescheduleAll (wakeUnitWaiters s)

/-- DETAIL of a KERNEL_LAUNCH that faulted: the tile and the CAUSE (R73). -/
def faultDetail (tile cause : Nat) : Nat := tile + cause * 0x100

/-- Record a fault in TILE_FAULT (its register's rules): the first is recorded and raises 0x2001, further ones count. -/
def recordFault (s : State) (tile t cause c : Nat) (mesh : Bool) : State :=
  if fbit s (Reg.TILE_FAULT_VALID tile) then finc s (Reg.TILE_FAULT_MORE tile)
  else
    let s := fsetb s (Reg.TILE_FAULT_VALID tile) true
    let s := fset (fset s (Reg.TILE_FAULT_CAUSE tile) cause) (Reg.TILE_FAULT_CTX tile) c
    let s := fset (fsetb s (Reg.TILE_FAULT_MESH tile) mesh) (Reg.TILE_FAULT_THREAD tile) (if mesh then 0 else t)
    raiseCtx s 0x2001 tile c (u8 cause ++ u8 (if mesh then 0 else t) ++ u8 (b2n mesh))

/-- The command of a launch, with the DETAIL its CONTEXT_FAULT carries. -/
def launchCmd (s : State) (id : Option Nat) (detail : Nat) : Option (Nat × Nat × Nat) :=
  (id.bind (findLaunch s)).map (fun l => (l.q, l.n, detail))

/-- A fault of a thread or of its unit command: TILE_FAULT, then the teardown of its context (R65, R252). -/
def threadFault (s : State) (tile t cause c : Nat) (launch : Option Nat) : State :=
  let by_ := launchCmd s launch (faultDetail tile cause)
  beginTeardown (recordFault s tile t cause c false) c 1 by_

/-- A mesh write outside the sender context's share (cause 0x8), recorded on the tile written to. The DETAIL of the sender's launch
names the sender's tile with cause 8 (DESIGN CHOICE, log entry 64: R73 does not say which of the two tiles it names). -/
def meshFault (s : State) (tile dest c : Nat) (launch : Option Nat) : State :=
  let by_ := launchCmd s launch (faultDetail tile 8)
  beginTeardown (recordFault s dest 0 8 c true) c 1 by_

/-- An uncorrectable read by a thread or unit command (R66, R138, R441): SRAM reads are recorded in TILE_FAULT. -/
def tileUncorr (s : State) (tile t c : Nat) (launch : Option Nat) (a flags : Nat) : State :=
  let s := reportUncorr s a tile c flags
  if isTileSram a then threadFault s tile t 6 c launch
  else beginTeardown s c 2 (launchCmd s launch (faultDetail tile 0))

/-- A failed access of a thread or unit command of a context on a tile; an SRAM access outside the share has cause 0x2 (R65). -/
def tileAccessFault (s : State) (tile t c : Nat) (launch : Option Nat) (e : AccErr) : State :=
  match e with
  | .translation => threadFault s tile t 1 c launch
  | .unmapped => threadFault s tile t 1 c launch
  | .share _ => threadFault s tile t 2 c launch
  | .uncorr a => tileUncorr s tile t c launch a 0
  | .ptUncorr a => tileUncorr s tile t c launch a 2

/-- A failed write of a thread or unit command on a tile: one outside the share on another tile is a mesh write there (R65). -/
def tileWriteFault (s : State) (tile t c : Nat) (launch : Option Nat) (e : AccErr) : State :=
  match e with
  | .share a => if tileOf a ≠ tile then meshFault s tile (tileOf a) c launch else threadFault s tile t 2 c launch
  | e => tileAccessFault s tile t c launch e

end Sys2Proof.Machine
end

