-- ==== Sys2Proof/Machine/Queues.lean ====
section
/-! DEFINITION. The queue manager: doorbells (R203, R205), fetching (R212, R442), start order and its checks (R208 to R215),
replies (R216 to R218), fences (R219, R220), and how an engine settles a command. -/

namespace Sys2Proof.Machine

/-! ### Opcodes (Table 23.1) -/

/-- The assigned opcodes (R571). -/
def opAssigned (op : Nat) : Bool :=
  let h := op / 0x100
  let l := op % 0x100
  decide ((h = 1 ∧ l ≤ 2) ∨ (h = 2 ∧ l ≤ 9) ∨ (h = 3 ∧ l ≤ 3) ∨ (h = 4 ∧ l ≤ 4) ∨ (h = 5 ∧ l ≤ 5) ∨ (h = 6 ∧ l ≤ 2)
    ∨ (h = 7 ∧ (l = 0 ∨ (0x10 ≤ l ∧ l ≤ 0x12) ∨ (0x20 ≤ l ∧ l ≤ 0x26) ∨ (0x30 ≤ l ∧ l ≤ 0x31) ∨ (0x40 ≤ l ∧ l ≤ 0x42)))
    ∨ (h = 8 ∧ l ≤ 3) ∨ (h = 9 ∧ l ≤ 4) ∨ (h = 0xA ∧ l ≤ 3) ∨ (h = 0xB ∧ l ≤ 2)
    ∨ (h = 0xC ∧ (l ≤ 6 ∨ (0x10 ≤ l ∧ l ≤ 0x15))))

/-- Opcodes marked M: management queues only. -/
def opMgmt (op : Nat) : Bool :=
  [0x0404, 0x0500, 0x0501, 0x0504, 0x0600, 0x0601, 0x0710, 0x0711, 0x0720, 0x0721, 0x0722, 0x0723, 0x0730, 0x0731,
   0x0740, 0x0741, 0x0742, 0x0801, 0x0802, 0x0803, 0x0901, 0x0A00, 0x0A01, 0x0A02, 0x0B00, 0x0B01,
   0x0C00, 0x0C01, 0x0C02, 0x0C03, 0x0C04, 0x0C05, 0x0C10, 0x0C11, 0x0C14, 0x0C15].contains op

/-- Opcodes marked S: SAFETY_HOLD in the safe state. -/
def opSafety (op : Nat) : Bool :=
  [0x0501, 0x0503, 0x0504, 0x0601, 0x0711, 0x0722, 0x0723, 0x0730, 0x0731, 0x0803, 0x0901, 0x0903, 0x0904, 0x0A00,
   0x0C00, 0x0C01, 0x0C02, 0x0C03, 0x0C04, 0x0C05, 0x0C11, 0x0C12, 0x0C15].contains op

/-- Whether the safe state refuses a command; TEASEL_ARM only when it disarms (mark D; ARM of Table 10.10 is 0). -/
def safetyRefuses (c : QCmd) : Bool :=
  opSafety c.opcode || (decide (c.opcode = 0x0C14) && decide (c.field 19 1 = 0))

/-- Opcodes whose LENGTH 0 has a meaning of its own: FENCE, LOG_READ, and TRANSLATION_INVALIDATE with ALL (R219, R464,
R146). -/
def lengthZeroMeans (c : QCmd) : Bool :=
  decide (c.opcode = 0x0700 ∨ c.opcode = 0x0800) || (decide (c.opcode = 0x0303) && bitAt (c.field 24 1) 0)

/-- Commands whose byte 3 names a context on a management queue (R199); CHECK_INPUT and MAIN_OUTPUT name the GOLDEN_HOST
context there (R194). -/
def namesContext (op : Nat) : Bool := ctxOpcode op || decide (op = 0x0903 ∨ op = 0x0904)

/-- Harebell's commands, taken one at a time from all queues (R534). -/
def opHarebell (op : Nat) : Bool := decide (op / 0x100 = 6 ∨ (op / 0x10 = 0x72))

/-- Engines that take one command of a queue at a time: all but tile, KV and memory-move commands, FENCE and Harebell's, whose
own rule is below. -/
def oneAtATime (op : Nat) : Bool :=
  !(decide (op / 0x100 = 1 ∨ op / 0x100 = 2 ∨ op / 0x100 = 3 ∨ op = 0x0700) || opHarebell op)

/-! ### Queue memory -/

/-- First byte of the submission ring. -/
def sqBase (s : State) (q : Nat) : Nat := fget s (Reg.QMGR_QSQ_BASE q) * 0x1000
/-- First byte of the completion area: the queue record. -/
def cqBase (s : State) (q : Nat) : Nat := fget s (Reg.QMGR_QCQ_BASE q) * 0x40
/-- QDEPTH. -/
def qDepth (s : State) (q : Nat) : Nat := fget s (Reg.QMGR_QDEPTH_DEPTH q)

/-- CTX of a record about a queue: its owner, or none (R231). -/
def queueCtx (s : State) (q : Nat) : Nat := if isMgmt q then 0xFF else owner s q

/-- A write by the queue manager into a queue's rings; a partial write to an uncorrectable unit is not made and ends the
owner (R599, R439). -/
def qmWrite (s : State) (q a : Nat) (bs : List Byte) : State :=
  match badPartial s a bs.length with
  | none => memWrite s a bs
  | some u =>
    let s := reportUncorr s u 69 (queueCtx s q) 0
    if isMgmt q then s else beginTeardown s (owner s q) 2 none

/-! ### Doorbells (R203) -/

/-- A command as fetched from the submission ring (R442). -/
def fetchCmd (s : State) (q n : Nat) : QCmd :=
  let a := sqBase s q + n % qDepth s q * 64
  match badUnit s a 64 with
  | none => ⟨n, memRead s a 64, .waiting, 0, 0, 0, false, 0, false, [], 0⟩
  | some _ => ⟨n, List.replicate 64 0, .complete,
      if isMgmt q then Status.invalidParam else Status.contextFault, 0xFFFF, s.time, true, 0, false, [], 0⟩

/-- Fetch `count` commands from number `n`. -/
def fetchAll (q : Nat) : (count n : Nat) → State → State
  | 0, _, s => s
  | k + 1, n, s =>
    let c := fetchCmd s q (n % 2 ^ 32)
    let s := setQueue s q { queue s q with out := (queue s q).out ++ [c] }
    let s := if c.unread then
        let s := reportUncorr s (sqBase s q + n % 2 ^ 32 % qDepth s q * 64) 69 (queueCtx s q) 4
        if isMgmt q then s else beginTeardown s (owner s q) 2 (some (q, n % 2 ^ 32, 0xFFFF))
      else s
    fetchAll q k (n + 1) s

/-- The submission entries of `count` commands from number `n`. -/
def entryPieces (s : State) (q count n : Nat) : List (Nat × Nat) :=
  (List.range count).map fun i => (sqBase s q + (n + i) % 2 ^ 32 % qDepth s q * 64, 64)

/-- Add accepted commands to a queue; their entries' reads may have been corrected (R137). -/
def acceptDoorbell (s : State) (q count : Nat) : State :=
  let n := (queue s q).submitted
  let ps := entryPieces s q count n
  let s := setQueue s q { queue s q with submitted := wrap32 (n + count) }
  let s := fetchAll q count n s
  let s := qmWrite s q (cqBase s q) (leBytes 4 (n + count))
  let s := qmWrite s q (cqBase s q + 12) (leBytes 4 (n + count))
  noteCorrs ps (rescheduleAll s)

/-- Record a refused doorbell: QMGR_DB_REFUSED keeps the first, OVERFLOW on a depth failure, 0x2040 (R203). -/
def refuseDoorbell (s : State) (q count cause : Nat) : State :=
  let s := if fbit s Reg.QMGR_DB_REFUSED_VALID then s else
    fsetb (fset (fset s Reg.QMGR_DB_REFUSED_QUEUE q) Reg.QMGR_DB_REFUSED_CAUSE cause) Reg.QMGR_DB_REFUSED_VALID true
  let s := if cause = 2 then fsetb s (Reg.QMGR_QSTATE_OVERFLOW q) true else s
  raiseCtx s 0x2040 69 (queueCtx s q) (u16 q ++ u8 cause ++ u32 count)

/-- Whether the depth check of R203 passes for a CQ_HEAD. -/
def depthOk (s : State) (q count cqHead : Nat) : Bool :=
  decide (s32diff ((queue s q).submitted + count) cqHead ≤ (qDepth s q : Int))

/-- A doorbell for COUNT commands; `foreign` is the first condition of R203's precedence. -/
def doorbell (s : State) (q count : Nat) (foreign : Bool) : State :=
  if count = 0 ∨ phaseUp s 5 = false then s
  else if foreign then refuseDoorbell s q count 3
  else if !queueOn s q then refuseDoorbell s q count 1
  else match badUnit s (cqBase s q + 8) 4 with
    | some _ =>
      let s := refuseDoorbell s q count 4
      let s := reportUncorr s (cqBase s q + 8) 69 (queueCtx s q) 0
      if isMgmt q then s else beginTeardown s (owner s q) 2 none
    | none =>
      if depthOk s q count (memNat s (cqBase s q + 8) 4) then acceptDoorbell s q count
      else refuseDoorbell s q count 2

/-! ### Start (R208 to R215) -/

/-- The next command of a queue to start. -/
def nextWaiting (s : State) (q : Nat) : Option QCmd := (queue s q).out.find? (fun c => decide (c.phase = .waiting))

/-- Whether a command's trigger has been reached (R212). -/
def triggerReached (s : State) (c : QCmd) : Bool := !c.timed || decide (s32diff c.trigger s.time ≤ 0)

/-- Whether the fences before a command allow its start (R208). -/
def fencesOpen (s : State) (q : Nat) (c : QCmd) : Bool :=
  let before := (queue s q).out.takeWhile (fun d => decide (d.n ≠ c.n))
  (!c.fenceBefore || before.all (fun d => decide (d.phase = .complete)))
    && before.all (fun d => !d.fenceAfter || decide (d.phase = .complete))

/-- Whether the slice allows it (R240). -/
def sliceAllows (s : State) (q : Nat) (c : QCmd) : Bool :=
  if c.opcode / 0x100 = 1 ∨ c.opcode = 0x0208 then
    match (ctx s (cmdCtx s q c)).plan with
    | some p => decide (p.cls = 1 ∨ (lane s p.lane).holder = some (cmdCtx s q c))
    | none => true
  else true

/-- Commands an engine has taken and not finished, over all queues. -/
def startedCmds (s : State) : List (Nat × QCmd) :=
  s.queues.flatMap fun e => (e.2.out.filter fun c => decide (c.phase = .started)).map fun c => (e.1, c)

/-- Whether Vetch can take a command: four queries, none beside a library load, map writes one at a time (R378, R387, R390). -/
def vetchTakes (st : List (Nat × QCmd)) (op : Nat) : Bool :=
  let count (p : Nat → Bool) : Nat := (st.filter (fun e => p e.2.opcode)).length
  if op = 0x0402 ∨ op = 0x0403 then
    decide (count (fun o => decide (o = 0x0402 ∨ o = 0x0403)) < 4 ∧ count (fun o => decide (o = 0x0404)) = 0)
  else if op = 0x0400 ∨ op = 0x0401 then decide (count (fun o => decide (o = 0x0400 ∨ o = 0x0401)) = 0)
  else true

/-- A SET_COMMIT that only waits for its instant does not keep Harebell busy (R530). -/
def commitWaits (s : State) (q : Nat) (c : QCmd) : Bool :=
  s.harebell.hold.isNone && (match s.harebell.commit with
    | some (q', n, _) => decide (q' = q ∧ n = c.n)
    | none => false)

/-- The context whose teardown settles a waiting command: the owner, or the context a management command acts on (R446). -/
def settledCtx (s : State) (q : Nat) (c : QCmd) : Option Nat :=
  if isMgmt q then (if ctxOpcode c.opcode then some (c.context % 64) else none) else some (owner s q)

/-- Whether the engine can take the command: one at a time per queue, Harebell one at a time, 16 memory moves (R142), no
command of a context while its KV region is initialised (R175). -/
def engineTakes (s : State) (q : Nat) (c : QCmd) : Bool :=
  let st := startedCmds s
  (!oneAtATime c.opcode || st.all (fun e => !(decide (e.1 = q ∧ e.2.opcode / 0x10 = c.opcode / 0x10))))
    && (!opHarebell c.opcode || st.all (fun e => !opHarebell e.2.opcode || commitWaits s e.1 e.2))
    && (decide (c.opcode / 0x100 ≠ 3) || decide ((st.filter (fun e => decide (e.2.opcode / 0x100 = 3))).length < 16))
    && vetchTakes st c.opcode
    && !(settledCtx s q c).any (fun x => (ctx s x).kvInit)

/-- Whether the command's context is in TEARDOWN or FAULTED (R446, R253). -/
def ctxEnded (s : State) (q : Nat) (c : QCmd) : Bool :=
  match settledCtx s q c with
  | some x => decide (2 ≤ ctxState s x)
  | none => false

/-- Whether command `c`, the next of queue `q`, may start now. -/
def mayStart (s : State) (q : Nat) (c : QCmd) : Bool :=
  ctxEnded s q c || (fencesOpen s q c && triggerReached s c && sliceAllows s q c && engineTakes s q c)

/-- The class of R209 in which a queue is served for its next command: 4 for a TIMED command whose trigger has been reached, else
PRIO. -/
def servedClass (s : State) (q : Nat) (c : QCmd) : Nat :=
  if c.timed = true ∧ triggerReached s c = true then 4 else fget s (Reg.QMGR_QCFG_PRIO q)

/-- Queues with a command ready to start: (queue, class of R209); none while the queue manager has no supply (R467). -/
def readyQueues (s : State) : List (Nat × Nat) :=
  (if phaseUp s 5 then s.queues else []).filterMap fun e => match nextWaiting s e.1 with
    | none => none
    | some c => if mayStart s e.1 c then some (e.1, servedClass s e.1 c) else none

/-- The queue of a class that was served last (R209). -/
def servedLast (s : State) (cls : Nat) : Nat := storeGet (fun _ => 16383) s.served cls

/-- The queue the manager serves next (R209): reached TIMED commands first, then by PRIO, round robin within each. -/
def servedNext (s : State) : Option Nat := nextInTurn (readyQueues s) (servedLast s)

/-- The status a check of Table 7.5 gives, if one stops the command. -/
def startCheck (s : State) (q : Nat) (c : QCmd) : Option Nat :=
  let op := c.opcode
  if !fbit s Reg.QMGR_STATUS_ACCEPTING then some Status.accessRefused
  else if opAssigned op = false ∨ bits c.flags 7 4 ≠ 0 ∨ bits c.context 7 6 ≠ 0 ∨ (c.timed = false ∧ c.trigger ≠ 0)
    then some Status.invalidParam
  else if (isMgmt q = false ∧ c.context ≠ owner s q) ∨ (isMgmt q = true ∧ namesContext op = false ∧ c.context ≠ 0)
      ∨ (op ≠ 0x0700 ∧ bitAt (fget s (Reg.QMGR_QCFG_OPMASK q)) (op / 0x100) = false)
      ∨ (opMgmt op = true ∧ isMgmt q = false)
    then some Status.accessRefused
  else if isMgmt q = false ∧ fbit s Reg.QMGR_STATUS_IMAGE_HOLD = true then some Status.accessRefused
  else if fbit s Reg.QMGR_STATUS_SAFE_HOLD = true ∧ safetyRefuses c = true then some Status.safetyHold
  else if c.length = 0 ∧ lengthZeroMeans c = false then some Status.okEmpty
  else none

/-- What a FENCE captures when it starts (R219). -/
def fenceCapture (s : State) (c : QCmd) : List FenceWait :=
  (List.range (min c.length 8)).map fun i =>
    let g := c.field (16 + 2 * i) 2
    if g / 0x4000 = modnum s then .here (g % 0x4000) (queue s (g % 0x4000)).submitted
    else .remote (g / 0x4000) (g % 0x4000)

/-- Count and record a TIMED command that starts more than 1 µs after its trigger (R213). -/
def noteLate (s : State) (q : Nat) (c : QCmd) : State :=
  let late := wrap32 (s.time + 2 ^ 32 - c.trigger % 2 ^ 32)
  if c.timed = true ∧ triggerReached s c = true ∧ 1000 < late
  then raiseCtx (finc s Reg.QMGR_LATE_COUNT) 0x2042 69 (queueCtx s q) (u16 q ++ leBytes 4 c.tag ++ u32 late)
  else s

/-- A KERNEL_LAUNCH of the monitored entry point that started at or after the release of its context's open frame and completes
without threads closes the frame (R246). -/
def closeEmptyFrame (s : State) (q : Nat) (c : QCmd) (startedAt : Nat) : State :=
  let x := cmdCtx s q c
  match (ctx s x).frame with
  | none => s
  | some f =>
    if c.opcode = 0x0100 ∧ f.launch = none ∧ f.release ≤ startedAt ∧ fget s (Reg.QMGR_CTX_RT_ENTRY_ID x) = c.field 24 2
    then closeFrame s x (some (s.time - startedAt)) else s

/-- DETAIL of a command that a check stops: a control command that IMAGE_HOLD refuses names its first loop (R280), others 0. -/
def startDetail (s : State) (q : Nat) (c : QCmd) (st : Nat) : Nat :=
  if c.opcode / 0x10 = 0xC0 ∧ st = Status.accessRefused
      ∧ startCheck (fsetb s Reg.QMGR_STATUS_IMAGE_HOLD false) q c ≠ some Status.accessRefused
  then c.field 16 2
  else if c.opcode = 0x0C12 ∧ st = Status.accessRefused then c.field 18 1 else 0

/-- Start command `c` of queue `q`: it is stopped by a check, or goes to its engine. A KERNEL_LAUNCH that ends with OK_EMPTY here has
started for R246; one that another row stops has not (DESIGN CHOICE, log entry 66). -/
def startCmd (s : State) (q : Nat) (c : QCmd) : State :=
  let s := { s with served := storeSet (fun _ => 16383) s.served (servedClass s q c) q }
  if ctxEnded s q c then completeCmd s q c.n Status.cancelled 0
  else
    let s := noteLate s q c
    match startCheck s q c with
    | some st =>
      let s := completeCmd s q c.n st (startDetail s q c st)
      if st = Status.okEmpty then closeEmptyFrame s q c s.time else s
    | none =>
      let cap := if c.opcode = 0x0700 then fenceCapture s c else []
      let s := modCmd s q c.n (fun d => { d with phase := .started, startedAt := s.time, captured := cap })
      if c.opcode = 0x0402 ∨ c.opcode = 0x0403 then
        { s with vetch := { s.vetch with pins := s.vetch.pins ++ [(q, c.n, s.vetch.pub)] } }
      else s

/-- The queue manager starts the next command of a queue (R208, R209). -/
def execCommandStart (q : Nat) (s : State) : Out :=
  match nextWaiting s q with
  | none => .next s
  | some c => if servedNext s = some q then .next (startCmd s q c) else .next s

/-! ### Engines -/

/-- What an engine makes of a command it has taken: settled with a status and DETAIL, or waiting for an event. -/
inductive Verdict where
  | done (status detail : Nat) (s : State)
  | wait (s : State)
  deriving DecidableEq, Repr

/-- Run an engine on the command `n` that queue `q` started with opcode `op`; otherwise nothing happens (log entry 2). -/
def runEngine (op q n : Nat) (f : QCmd → State → Verdict) (s : State) : Out :=
  match findCmd s q n with
  | none => .next s
  | some c =>
    if c.phase = .started ∧ c.opcode = op then
      match f c s with
      | .done st d s' => .next (completeCmd s' q n st d)
      | .wait s' => .next s'
    else .next s

/-- A verdict with one more effect on its state; `f` also sees whether the command is done. -/
def Verdict.after (v : Verdict) (f : Bool → State → State) : Verdict :=
  match v with
  | .done st d s => .done st d (f true s)
  | .wait s => .wait (f false s)

/-- Settle with INVALID_PARAM. -/
def invalid (s : State) (detail : Nat := 0) : Verdict := .done Status.invalidParam detail s
/-- Settle with ACCESS_REFUSED. -/
def refuse (s : State) (detail : Nat := 0) : Verdict := .done Status.accessRefused detail s
/-- Settle with NO_RESOURCE. -/
def noResource (s : State) (detail : Nat := 0) : Verdict := .done Status.noResource detail s
/-- Settle with OK. -/
def okay (s : State) (detail : Nat := 0) : Verdict := .done Status.ok detail s

/-- The context an uncorrectable read of a command ends (R439). -/
def readerCtx (s : State) (q : Nat) (c : QCmd) : Option Nat :=
  if isMgmt q then (if ctxOpcode c.opcode then some c.context else none) else some (owner s q)

/-- Settle a command whose read met uncorrectable units: it reports them and ends its reader's context (R252). -/
def failUnread (s : State) (q : Nat) (c : QCmd) (island detail a flags : Nat) : Verdict :=
  let who := readerCtx s q c
  let s := reportUncorr s a island (who.getD 0xFF) flags
  match who with
  | some x => .done Status.contextFault detail (beginTeardown s x 2 (some (q, c.n, detail)))
  | none => .done Status.contextFault detail s

/-- Settle a command whose memory operand failed: INVALID_PARAM for a translation, CONTEXT_FAULT for an uncorrectable read,
which ends the reader's context (R117, R439, R441). -/
def failAccess (s : State) (q : Nat) (c : QCmd) (island detail : Nat) (e : AccErr) : Verdict :=
  match e with
  | .uncorr a => failUnread s q c island detail a 0
  | .ptUncorr a => failUnread s q c island detail a 2
  | _ => .done Status.invalidParam 0 s

/-- An uncorrectable read of a command that names LOCAL memory on a management queue ends no context (R439). -/
def failOperand (s : State) (q : Nat) (c : QCmd) (island detail : Nat) (e : AccErr) : Verdict :=
  if isMgmt q then
    match e with
    | .uncorr a => .done Status.contextFault detail (reportUncorr s a island 0xFF 0)
    | .ptUncorr a => .done Status.contextFault detail (reportUncorr s a island 0xFF 2)
    | _ => .done Status.invalidParam 0 s
  else failAccess s q c island detail e

/-! ### Replies (R216 to R218) -/

/-- The 16 bytes of a reply (Table 7.6). -/
def replyBytes (c : QCmd) : List Byte := leBytes 4 c.tag ++ leBytes 2 c.status ++ leBytes 2 c.detail ++ leBytes 8 c.time

/-- A thread that R218 wakes checks again (R586). -/
def wakeQueueWaiters (s : State) (q : Nat) : State :=
  let tail := (queue s q).cqTail
  mapThreads (fun _ t =>
    match t.state, t.wait with
    | .waiting, .queue q' expected rd =>
      if q' = q ∧ tail ≠ expected then setXreg t.wake rd (BitVec.ofNat 64 tail) else t
    | _, _ => t) s

/-- What a FENCE waits for after the queues' present counts (R219). -/
def fenceProgress (s : State) (w : FenceWait) : FenceWait :=
  match w with
  | .here q v => if 0 ≤ s32diff (queue s q).cqTail v then .reached else w
  | w => w

/-- Complete every engaged FENCE whose named queues have all been reached. -/
def settleFences (s : State) : State :=
  forEach ((startedCmds s).filter (fun e => decide (e.2.opcode = 0x0700) && e.2.engaged)) (fun (q, c) s =>
    let cap := c.captured.map (fenceProgress s)
    let s := modCmd s q c.n (fun d => { d with captured := cap })
    if cap.all (fun w => decide (w = .reached)) then completeCmd s q c.n Status.ok 0 else s) s

/-- What another module's FENCE learns of a queue here: it is told once the queue's CQ_TAIL has reached the captured count
(R219). -/
def settleCaptures (s : State) : State :=
  let met (w : Capture) : Bool := decide (0 ≤ s32diff (queue s w.queue).cqTail w.count)
  { s with
    captures := s.captures.filter (fun w => !met w),
    outbox := s.outbox ++ (s.captures.filter met).map (fun w => .fenceReached w.member w.queue) }

/-- Another module's FENCE asks for queue `q`, from a queue that names management queues or not (`mgmt`) and has owner `own`: its
SUBMITTED is captured as the request arrives (R219); the request is turned down for a disabled queue and for one that R220 keeps
from a context queue. -/
def captureRequest (m q : Nat) (mgmt : Bool) (own : Nat) (s : State) : State :=
  if queueOn s q = false ∨ (mgmt = false ∧ (isMgmt q = true ∨ owner s q ≠ own))
  then { s with outbox := s.outbox ++ [.fenceRefused m q] }
  else settleCaptures { s with captures := s.captures ++ [⟨m, q, (queue s q).submitted⟩] }

/-- Post the head reply of a queue: reply bytes, then CQ_TAIL, then notification (R217, R218). -/
def postReply (s : State) (q : Nat) (c : QCmd) : State :=
  let s := qmWrite s q (cqBase s q + 64 + c.n % qDepth s q * 16) (replyBytes c)
  let tail := wrap32 (c.n + 1)
  let s := setQueue s q { queue s q with out := (queue s q).out.tail, cqTail := tail }
  let s := qmWrite s q (cqBase s q + 4) (leBytes 4 tail)
  let s := if c.notify then wakeQueueWaiters (fsetb s (Reg.QMGR_QSTATE_NOTIFY q) true) q else s
  let s := if q < 2 then
      let m := mgmt s q
      let at_ := if wrap32 m.unsent = c.n then s.time else m.postedAt
      setMgmt s q { m with postedAt := at_, notify := if c.notify then m.notify ++ [c.n] else m.notify }
    else s
  rescheduleAll (settleCaptures (settleFences s))

/-- A complete command's reply is posted in order, once its event records have been handed over (R217, R437). -/
def execReplyPost (q : Nat) (s : State) : Out :=
  match (queue s q).out with
  | [] => .next s
  | c :: _ => if c.phase = .complete ∧ s.tansy.raised = [] ∧ phaseUp s 5 = true then .next (postReply s q c) else .next s

/-! ### FENCE (R219, R220) -/

/-- Whether a FENCE still waits for another module's queue. -/
def FenceWait.isRemote : FenceWait → Bool
  | .remote _ _ => true
  | _ => false

/-- Index of the first named queue that satisfies `p`. -/
def firstNamed (c : QCmd) (p : Nat → Bool) : Option Nat :=
  (List.range (min c.length 8)).find? (fun i => p (c.field (16 + 2 * i) 2))

/-- The FENCE engine: its checks, then it waits. `reached` names the entries whose remote queue has reported its count, `off` those
whose module reports the queue disabled, `other` those whose module reports another owner (R220). -/
def fenceEngine (q : Nat) (reached off other : List Nat) (c : QCmd) (s : State) : Verdict :=
  let here (g : Nat) : Bool := decide (g / 0x4000 = modnum s)
  if c.length = 0 then .done Status.okEmpty 0 s
  else if 8 < c.length then invalid s
  else if c.reservedZero [(16, 2 * c.length)] = false then invalid s
  else if !c.engaged then
    match firstNamed c (fun g => here g && (decide (g % 0x4000 = q) || !queueOn s (g % 0x4000))) with
    | some i => invalid s i
    | none =>
      match firstNamed c (fun g => !inJob s (g / 0x4000)
          || (!isMgmt q && (isMgmt (g % 0x4000) || (here g && decide (owner s (g % 0x4000) ≠ owner s q))))) with
      | some i => refuse s i
      | none =>
        let s := modCmd s q c.n (fun d => { d with engaged := true })
        let s := forEach c.captured (fun w s => match w with
          | .remote m g => { s with outbox := s.outbox ++ [.fenceCapture m g (isMgmt q) (owner s q)] }
          | _ => s) s
        .wait (settleFences s)
  else
    let named := c.captured.zip (List.range c.captured.length)
    let answers (l : List Nat) : Option Nat := (named.find? (fun (w, i) => l.contains i && w.isRemote)).map (·.2)
    match answers off, answers other with
    | some i, _ => invalid s i
    | none, some i => refuse s i
    | none, none =>
      let cap := named.map (fun (w, i) => if w.isRemote && reached.contains i then FenceWait.reached else w)
      .wait (settleFences (modCmd s q c.n (fun d => { d with captured := cap })))

/-- FENCE (0x0700). -/
def execFence (q n : Nat) (a : FenceAnswers) (s : State) : Out :=
  runEngine 0x0700 q n (fenceEngine q a.reached a.off a.other) s

/-- A FENCE has waited longer than QMGR_FENCE_TIMEOUT (R220). -/
def execFenceTimeout (q : Nat) (s : State) : Out :=
  let ms := fget s Reg.QMGR_FENCE_TIMEOUT_MS
  match (queue s q).out.find? (fun c => decide (c.phase = .started ∧ c.opcode = 0x0700) && c.engaged
      && decide (ms ≠ 0 ∧ c.startedAt + ms * 1000000 < s.time)) with
  | none => .next s
  | some c =>
    let i := c.captured.findIdx (fun w => decide (w ≠ .reached))
    let s := raiseCtx s 0x2043 69 (queueCtx s q) (u16 q ++ leBytes 4 c.tag ++ u16 (c.field (16 + 2 * i) 2))
    let s := completeCmd s q c.n Status.contextFault i
    .next (if isMgmt q then s else beginTeardown s (owner s q) 4 (some (q, c.n, i)))

end Sys2Proof.Machine
end

