-- ==== Sys2Proof/Machine/Threads.lean ====
section
/-! DEFINITION. Threads (R42 to R47, R581 to R587): fetching an instruction, the module instructions of Table 24.2, scalar
instructions, launches and the deadline monitor's level latch (R72, R186, R247). -/

namespace Sys2Proof.Machine

/-- The fields of a module instruction (Table 24.1), with its source registers' values. -/
structure ModInstr where
  func : Nat
  rd   : Nat
  rs1  : DWord
  rs2  : DWord
  imm  : Nat
  deriving DecidableEq, Repr

/-- Decode Table 24.1 against a thread's registers. -/
def decodeMod (th : Thread) (w : Nat) : ModInstr :=
  ⟨bits w 25 20, bits w 19 15, xreg th (bits w 14 10), xreg th (bits w 9 5), bits w 4 0⟩

/-- What fetching at a thread's program counter gives: a fault's state, or the 32-bit word (R581). -/
def fetchWord (s : State) (tile t : Nat) : Except State Nat :=
  let th := thread s tile t
  if th.pc % 4 ≠ 0 then .error (threadFault s tile t 5 th.ctx th.launch)
  else match translate s th.ctx th.pc 4 .fetch with
    | .error e => .error (tileAccessFault s tile t th.ctx th.launch e)
    | .ok a => match badUnit s a 4 with
      | some _ => .error (tileUncorr s tile t th.ctx th.launch a 0)
      | none => .ok (memNat s a 4)

/-- Where the word at a thread's program counter lies. -/
def fetchPieces (s : State) (tile t : Nat) : List (Nat × Nat) :=
  match translate s (thread s tile t).ctx (thread s tile t).pc 4 .fetch with
  | .ok a => [(a, 4)]
  | .error _ => []

/-- A thread issues an instruction: it is the last one of its pipe (R43), and the instruction is counted (Table 2.7, k = 1). -/
def countIssue (s : State) (tile t : Nat) : State :=
  setReg64 { s with pipes := storeSet (fun _ => 31) s.pipes (4 * tile + t / 32) (t % 32) } (Reg.TILE_PERF tile 1)
    (reg64 s (Reg.TILE_PERF tile 1) + 1)

/-- After the one instruction of a STEP the thread halts again (R593). -/
def settleStep (s : State) (tile t : Nat) (stepped : Bool) : State :=
  let th := thread s tile t
  if !stepped then s
  else if th.state = .ready then setThread s tile t { th with state := .debugHalt, step := false }
  else if th.state = .waiting then setThread s tile t { th with haltNext := true, step := false }
  else s

/-- What stands at the end of an issued instruction of a thread that stood in `s` and has run to `u`: a stepped thread halts again
(R593), and the fetch may have been corrected (R66, R137). -/
def issued (s : State) (tile t : Nat) (u : State) : State :=
  noteCorrs (fetchPieces s tile t) (settleStep u tile t (decide ((thread s tile t).state = .debugHalt)))

/-- Issue the instruction with function `func` of thread `t`: it must be eligible (R43) and stand at its program counter.
`k` runs it on the thread with its program counter past the instruction. -/
def issue (s : State) (tile t func : Nat) (k : ModInstr → Thread → State → State) : State :=
  if tile < 48 ∧ t < 128 ∧ mayIssue s tile t = true then
    match fetchWord s tile t with
    | .error s' => s'
    | .ok w =>
      if bits w 31 26 = 0x3F ∧ bits w 25 20 = func then
        let th := thread s tile t
        let th' := { th with pc := (th.pc + 4) % 2 ^ 48, state := .ready, step := false }
        issued s tile t (k (decodeMod th w) th' (countIssue s tile t))
      else s
  else s

/-- An issued instruction faults: its thread, which ends at the first instruction not issued (TILE_THR_PC), stands past it. -/
def issueFault (s : State) (tile t : Nat) (th : Thread) (cause : Nat) : State :=
  threadFault (setThread s tile t th) tile t cause th.ctx th.launch

/-- A read of an issued instruction fails. -/
def issueAccessFault (s : State) (tile t : Nat) (th : Thread) (e : AccErr) : State :=
  tileAccessFault (setThread s tile t th) tile t th.ctx th.launch e

/-- Illegal instruction, or an operand out of range (cause 0x4, R581). -/
def illegal (s : State) (tile t : Nat) (th : Thread) : State := issueFault s tile t th 4

/-! ### Launches -/

/-- The entry-point record of a number. -/
def entryOf (s : State) (e : Nat) : Option Entry := s.image.bind (fun i => i.entries[e]?)

/-- The switch record of a point of an entry. -/
def switchOf (s : State) (e : Entry) (point : Nat) : Option Switch :=
  s.image.bind (fun i => i.switches[e.switchFirst + point - 1]?)

/-- Whether `cycles` at the bubble share and tile clock meet a deadline (R247), by exact integers:
now + r (256 + margin) / 256 / f ≤ deadline with f = min(clock, 800 MHz) (256 − EFF) / 256. -/
def projMeets (s : State) (cycles margin deadline : Nat) : Bool :=
  let mhz := min (fget s Reg.PWR_FREQ_CURRENT_MHZ) 800
  let eff := fget s Reg.PWR_BUBBLE_EFF
  decide (s.time ≤ deadline ∧ cycles * (256 + margin) * 1000 ≤ (deadline - s.time) * mhz * (256 - eff))

/-- The least level at or above `l0`, up to `levels`, whose projection meets the deadline, else `levels` (R247). -/
def chooseLevel (s : State) (r : List Nat) (margin deadline levels : Nat) : (fuel l0 : Nat) → Nat
  | 0, l0 => l0
  | fuel + 1, l0 =>
    if levels ≤ l0 then levels
    else if projMeets s (r.getD l0 0) margin deadline then l0
    else chooseLevel s r margin deadline levels fuel (l0 + 1)

/-- Raise a monitored launch's level, with its event and count (R247). -/
def riseLevel (s : State) (x : Launch) (point new : Nat) : State :=
  let s := if x.level < new then
      let s := raiseCtx s 0x2050 69 x.ctx (u16 x.entry ++ u16 point ++ u16 x.level ++ u16 new)
      if x.switched then s else finc s (Reg.QMGR_CTX_CNT_COUNT x.ctx 1)
    else s
  let s := setLaunch s { x with level := new, switched := x.switched || decide (x.level < new),
                                latched := if point = 0 then x.latched else x.latched ++ [(point, new)] }
  fset s (Reg.QMGR_CTX_STATE_LEVEL x.ctx) new

/-- The frame a launch carries, if it is monitored (R246). -/
def monitored (s : State) (x : Launch) : Option CFrame :=
  match (ctx s x.ctx).frame with
  | some f => if f.launch = some x.id then some f else none
  | none => none

/-- The level at a switch point, latched now if the launch's first thread is here (R186, R247). -/
def latchLevel (s : State) (x : Launch) (e : Entry) (point : Nat) : Nat × State :=
  match x.latched.find? (fun p => decide (p.1 = point)) with
  | some p => (p.2, s)
  | none =>
    match monitored s x, switchOf s e point with
    | some f, some w =>
      let margin := fget s (Reg.QMGR_CTX_SCHED_MARGIN x.ctx)
      let l := chooseLevel s w.remain margin f.deadline e.levels 4 x.level
      (l, riseLevel s x point l)
    | _, _ => (x.level, setLaunch s { x with latched := x.latched ++ [(point, x.level)] })

/-- Complete a launch whose threads have all halted (R72, R73, R449). -/
def finishLaunch (s : State) (x : Launch) : State :=
  let st := if x.remote then Status.remoteLost else if x.switched then Status.deadlineFallback else Status.ok
  let s := completeCmd (dropLaunch s x.id) x.q x.n st 0
  let s := match (ctx s x.ctx).frame with
    | some f => if f.launch = some x.id then closeFrame s x.ctx (some (s.time - x.start)) else s
    | none => s
  { s with golden := if s.golden = some x.id then none else s.golden }

/-- The lowest-numbered IDLE threads of a context on a tile. -/
def idleThreads (s : State) (tile c : Nat) : List Nat :=
  (List.range 128).filter (fun t => decide ((thread s tile t).state = .idle ∧ (thread s tile t).ctx = c))

/-- The thread of a launch as it starts (R46). -/
def launchThread (c id code arg tile index tiles position : Nat) : Thread :=
  let regs : List DWord := [BitVec.ofNat 64 arg, BitVec.ofNat 64 tile, BitVec.ofNat 64 index, BitVec.ofNat 64 tiles,
    BitVec.ofNat 64 position]
  ⟨.ready, c, storeSetList (fun _ => 0) [] 1 regs, code % 2 ^ 48, 0, .nothing, 0, some id, 0, false, false, false⟩

/-- Start `length` threads of a launch on each tile of a list. -/
def startThreads (c id code arg length tiles : Nat) : (position : Nat) → List Nat → State → State
  | _, [], s => s
  | p, tile :: rest, s =>
    let idle := (idleThreads s tile c).take length
    let s := forEach (idle.zip (List.range length)) (fun (t, i) s =>
      setThread s tile t (launchThread c id code arg tile i tiles p)) s
    startThreads c id code arg length tiles (p + 1) rest s

/-- The virtual address at which every context maps the image (R182). -/
def imageVa : Nat := 0xC00000000000

/-- What KERNEL_LAUNCH comes to before R246's close of a frame by a launch without threads. -/
def launchCore (q : Nat) (c : QCmd) (s : State) : Verdict :=
  let mask := c.field 16 8
  let e := c.field 24 2
  let arg := c.field 32 8
  let x := cmdCtx s q c
  if c.engaged then .wait s
  else if c.reservedZero [(16, 8), (24, 2), (32, 8)] = false ∨ 128 < c.length ∨ 2 ^ 48 ≤ mask ∨ 2 ^ 48 ≤ arg then invalid s
  else match entryOf s e with
    | none => invalid s
    | some en =>
      if mask = 0 then .done Status.okEmpty 0 s
      else
        let tiles := setBitsOf mask 48
        match tiles.find? (fun t => decide ((idleThreads s t x).length < c.length)) with
        | some t => noResource s t
        | none =>
          let id := s.nextLaunch
          let frame := match (ctx s x).frame with
            | some f => if f.launch = none ∧ f.release ≤ c.startedAt ∧ fget s (Reg.QMGR_CTX_RT_ENTRY_ID x) = e then some f else none
            | none => none
          let l : Launch := ⟨id, x, q, c.n, e, c.length, 0, [], false, false, c.startedAt, false, none⟩
          let s := { modCmd s q c.n (fun d => { d with engaged := true }) with
            launches := s.launches ++ [l], nextLaunch := id + 1 }
          let s := match frame with
            | none => s
            | some f =>
              let s := setCtx s x { ctx s x with frame := some { f with launch := some id } }
              riseLevel s l 0 (chooseLevel s en.wcet (fget s (Reg.QMGR_CTX_SCHED_MARGIN x)) f.deadline en.levels 4 0)
          let level := ((findLaunch s id).map (·.level)).getD 0
          .wait (startThreads x id (imageVa + en.code.getD level 0) arg c.length tiles.length 0 tiles s)

/-- The engine of KERNEL_LAUNCH (R72, R73, R184, R246). -/
def launchEngine (q : Nat) (c : QCmd) (s : State) : Verdict :=
  (launchCore q c s).after (fun done s => if done then closeEmptyFrame s q c c.startedAt else s)

/-- KERNEL_LAUNCH (0x0100). -/
def execKernelLaunch (q n : Nat) (s : State) : Out := runEngine 0x0100 q n (launchEngine q) s

/-! ### Module instructions -/

/-- Whether a thread still has unit commands queued or started (R47). -/
def threadHasUnits (s : State) (tile t : Nat) : Bool :=
  (List.range 6).any fun u =>
    (unit s tile u).queue.any (fun d => decide (d.thread = t)) || (unit s tile u).started.any (fun d => decide (d.thread = t))

/-- Leave a section: a deferred clear happens once no thread of the context is inside one (R241). -/
def sectionLeft (s : State) (c : Nat) : State :=
  if (ctx s c).deferral.isSome ∧ ctxInSection s c = false then rescheduleAll (endDeferral s c) else s

/-- A HALT retires (R47, R73, R587): the thread is IDLE past it, and the launch completes once all its threads have halted. -/
def retireHalt (tile t : Nat) (th : Thread) (s : State) : State :=
  let id := th.launch
  let s := setThread s tile t { th with state := .idle, depth := 0, launch := none, lbars := 0, halting := false }
  let s := match id.bind (findLaunch s) with
    | none => s
    | some x =>
      let x := { x with lbarCap := some (min (x.lbarCap.getD th.lbars) th.lbars) }
      let s := setLaunch s x
      if (listedThreads s).any (fun e => decide (e.2.2.launch = id)) then s else finishLaunch s x
  rescheduleAll (sectionLeft s th.ctx)

/-- HALT (R47): it issues, and retires once every unit command of the thread has completed; until then the thread issues nothing
more. -/
def execHalt (tile t : Nat) (s : State) : Out :=
  .next (issue s tile t 0x00 (fun _ th s =>
    if threadHasUnits s tile t then setThread s tile t { th with halting := true } else retireHalt tile t th s))

/-- A thread whose HALT waits has no unit command left: the HALT retires (R47). -/
def settleHalt (tile t : Nat) (s : State) : State :=
  let th := thread s tile t
  if th.halting = true ∧ threadHasUnits s tile t = false then retireHalt tile t th s else s

/-- Put a unit command into a unit's queue, or leave the thread WAITING at the instruction when it is full (R48, R50). Such a thread
issues the instruction anew when it wakes, and TILE_PERF counts it again (DESIGN CHOICE, log entry 64: R50 does not say). -/
def issueUnit (s : State) (tile t u : Nat) (th : Thread) (token seq : Nat) (op : UnitOp) : State :=
  let x := unit s tile u
  if 16 ≤ x.queue.length then
    setThread s tile t { th with state := .waiting, wait := .unitQueue u, pc := (th.pc + 2 ^ 48 - 4) % 2 ^ 48 }
  else
    let d : UnitCmd := ⟨th.ctx, t, token, op, th.launch, seq, false, 0, false⟩
    setThread (setUnit s tile u { x with queue := x.queue ++ [d] }) tile t { th with lbars := if seq = 0 then th.lbars else seq }

/-- The unit a descriptor is for (Table 24.2); none for one that fails R582's check. -/
def unitOf : UnitOp → Option Nat
  | .tensor _ => some 0
  | .vector _ => some 1
  | .chain _ => some 1
  | .rotate _ => some 2
  | .scale _ => some 3
  | .stepClose _ _ => some 3
  | .decode _ => some 4
  | .move _ => some 5
  | .barrier _ _ => some 5
  | .launchBarrier => some 5
  | .invalid => none

/-- UCMD (R48, R50, R582): the descriptor lies 64-byte aligned in the context's share. -/
def execUcmd (tile t : Nat) (op : UnitOp) (s : State) : Out :=
  .next (issue s tile t 0x01 (fun i th s =>
    let va := i.rs1.toNat
    let u := i.rs2.toNat
    if 6 ≤ u then illegal s tile t th
    else if va % 64 ≠ 0 then issueFault s tile t th 5
    else match vaRead s th.ctx va 64 with
      | .error e => issueAccessFault s tile t th e
      | .ok _ =>
        readNoted s th.ctx [(va, 64)] (issueUnit s tile t u th (i.imm % 16) 0 (if unitOf op = some u then op else .invalid))))

/-- Whether every token of a mask has signalled. -/
def tokensIn (tokens mask : Nat) : Bool := decide (tokens &&& mask = mask)

/-- Clear the tokens of a mask. -/
def clearTokens (tokens mask : Nat) : Nat := tokens - (tokens &&& mask)

/-- TWAIT (R48, Table 24.2). -/
def execTwait (tile t : Nat) (s : State) : Out :=
  .next (issue s tile t 0x02 (fun i th s =>
    let mask := i.rs1.toNat % 2 ^ 16
    if tokensIn th.tokens mask then setThread s tile t { th with tokens := clearTokens th.tokens mask }
    else setThread s tile t { th with state := .waiting, wait := .tokens mask }))

/-- LEVEL (R584): the level latched at POINT. -/
def execLevel (tile t : Nat) (s : State) : Out :=
  .next (issue s tile t 0x03 (fun i th s =>
    match th.launch.bind (findLaunch s) with
    | none => illegal s tile t th
    | some x => match entryOf s x.entry with
      | none => illegal s tile t th
      | some e =>
        let p := i.rs1.toNat
        if p = 0 ∨ e.switchCount < p then illegal s tile t th
        else
          let (l, s) := latchLevel s x e p
          setThread s tile t (setXreg th i.rd (BitVec.ofNat 64 l))))

/-- QWAIT (R586). -/
def execQwait (tile t : Nat) (s : State) : Out :=
  .next (issue s tile t 0x05 (fun i th s =>
    let q := i.rs1.toNat
    if q < 16 ∨ 16384 ≤ q ∨ owner s q ≠ th.ctx then illegal s tile t th
    else
      let tail := (queue s q).cqTail
      let want := i.rs2.toNat % 2 ^ 32
      if tail ≠ want then setThread s tile t (setXreg th i.rd (BitVec.ofNat 64 tail))
      else setThread s tile t { th with state := .waiting, wait := .queue q want i.rd }))

/-- NPENTER (R587). -/
def execNpenter (tile t : Nat) (s : State) : Out :=
  .next (issue s tile t 0x06 (fun _ th s =>
    if 15 ≤ th.depth then illegal s tile t th else setThread s tile t { th with depth := th.depth + 1 }))

/-- NPEXIT (R587, R241). -/
def execNpexit (tile t : Nat) (s : State) : Out :=
  .next (issue s tile t 0x07 (fun _ th s =>
    if th.depth = 0 then illegal s tile t th
    else sectionLeft (setThread s tile t { th with depth := th.depth - 1 }) th.ctx))

/-- JBAR (R509): the BARRIER unit command of the data mover. -/
def execJbar (tile t : Nat) (s : State) : Out :=
  .next (issue s tile t 0x08 (fun i th s =>
    if 64 ≤ i.rs1.toNat then illegal s tile t th
    else issueUnit s tile t 5 th (i.imm % 16) 0 (.barrier i.rs1.toNat i.rs2.toNat)))

/-- LBAR (R585). -/
def execLbar (tile t : Nat) (s : State) : Out :=
  .next (issue s tile t 0x0C (fun i th s => issueUnit s tile t 5 th (i.imm % 16) (th.lbars + 1) .launchBarrier))

/-- TNOW (R315). -/
def execTnow (tile t : Nat) (s : State) : Out :=
  .next (issue s tile t 0x09 (fun i th s => setThread s tile t (setXreg th i.rd (BitVec.ofNat 64 s.time))))

/-- Give the records raised after the first `k` the TIME one nanosecond later, so that a reader that orders by TIME finds them after
those (R204, R456; the distance is the model's, log entry 66). -/
def laterRecords (k : Nat) (s : State) : State :=
  { s with tansy := { s.tansy with
      raised := s.tansy.raised.take k ++ (s.tansy.raised.drop k).map (fun r => { r with time := (r.time + 1) % 2 ^ 64 }) } }

/-- The doorbell instruction (R203, R204): a queue that is not the context's own also ends the context. -/
def dbellThread (tile t : Nat) (s : State) : State :=
  issue s tile t 0x04 (fun i th s =>
    let q := i.rs1.toNat
    let count := i.rs2.toNat
    let s := setThread s tile t th
    if 4096 < count ∨ 16384 ≤ q then illegal s tile t th
    else if count = 0 then s
    else if q < 16 ∨ owner s q ≠ th.ctx then
      let s := refuseDoorbell s q count 3
      let by_ := launchCmd s th.launch (faultDetail tile 4)
      laterRecords s.tansy.raised.length (beginTeardown (recordFault s tile t 4 th.ctx false) th.ctx 3 by_)
    else doorbell s q count false)

/-! ### Scalar instructions (R581) -/

/-- Run a scalar instruction on a thread whose program counter `pc` holds it; `th` already stands at the next one. -/
def scalarEffect (tile t pc : Nat) (th : Thread) (s : State) : ScalarOp → State
  | .int f rd rs1 rs2 imm =>
    setThread s tile t (setXreg th (rd % 32) (Config.scalarInt f (xreg th (rs1 % 32)) (xreg th (rs2 % 32)) imm))
  | .fp f rd rs1 rs2 rs3 =>
    setThread s tile t (setXreg th (rd % 32)
      (Config.scalarFp f (xreg th (rs1 % 32)) (xreg th (rs2 % 32)) (xreg th (rs3 % 32))))
  | .load size sg rd rs1 off =>
    let n := 2 ^ (size % 4)
    let va := (xreg th (rs1 % 32) + off).toNat
    if va % n ≠ 0 then issueFault s tile t th 5
    else match vaRead s th.ctx va n with
      | .error e => issueAccessFault s tile t th e
      | .ok bs =>
        let v := leNat bs
        readNoted s th.ctx [(va, n)]
          (setThread s tile t (setXreg th (rd % 32) (if sg then BitVec.ofInt 64 (sint (8 * n) v) else BitVec.ofNat 64 v)))
  | .store size rs1 rs2 off =>
    let n := 2 ^ (size % 4)
    let va := (xreg th (rs1 % 32) + off).toNat
    if va % n ≠ 0 then issueFault s tile t th 5
    else match vaWrite s th.ctx va (leBytes n (xreg th (rs2 % 32)).toNat) with
      | .error e => tileWriteFault (setThread s tile t th) tile t th.ctx th.launch e
      | .ok s => setThread s tile t th
  | .branch f rs1 rs2 off link =>
    let th' := if Config.scalarCond f (xreg th (rs1 % 32)) (xreg th (rs2 % 32))
      then { th with pc := (pc + off.toNat) % 2 ^ 48 } else th
    setThread s tile t (setXreg th' (link % 32) (BitVec.ofNat 64 th.pc))
  | .illegal => illegal s tile t th

/-- A thread issues a scalar instruction; a word of MAJOR 0x3F without a FUNC of Table 24.2 decodes to none (R581). -/
def execScalarInstruction (tile t : Nat) (op : ScalarOp) (s : State) : Out :=
  if tile < 48 ∧ t < 128 ∧ mayIssue s tile t = true then
    match fetchWord s tile t with
    | .error s' => .next s'
    | .ok w =>
      let th := thread s tile t
      let th' := { th with pc := (th.pc + 4) % 2 ^ 48, state := .ready, step := false }
      if bits w 31 26 = 0x3F then
        if bits w 25 20 ≤ 0x0C then .next s else .next (issued s tile t (illegal (countIssue s tile t) tile t th'))
      else .next (issued s tile t (scalarEffect tile t th.pc th' (countIssue s tile t) op))
  else .next s

end Sys2Proof.Machine
end

