-- ==== Sys2Proof/Machine/Units.lean ====
section
/-! DEFINITION. The units of a tile (R48 to R62, R78 to R104, R127 to R135): what a unit command reads, computes and writes.
A command's effect comes about when it starts; its figures in a scale-state record (R100) and its token come at its end (log
entry 20). -/

namespace Sys2Proof.Machine

/-- Why a unit command ends its context. -/
inductive UFault where
  /-- A failed read. -/
  | read (e : AccErr)
  /-- A failed write. -/
  | write (e : AccErr)
  /-- A fault cause of TILE_FAULT. -/
  | cause (c : Nat)
  /-- A malformed stream chunk: its index and the destination left undefined (R135). -/
  | chunk (index dst : Nat)
  deriving DecidableEq, Repr

/-- Read for a unit. A home in LPDDR5X serves every unit's reads, not the data mover's alone (DESIGN CHOICE, log entry 64: Table 4.1
names threads, data movers and memory moves, and no rule says what the other units' accesses do there). -/
def uRead (s : State) (c va n : Nat) : Except UFault (List Byte) :=
  match vaRead s c va n with
  | .ok bs => .ok bs
  | .error e => .error (.read e)

/-- Write for a unit; homes as for `uRead`. -/
def uWrite (s : State) (c va : Nat) (bs : List Byte) : Except UFault State :=
  match vaWrite s c va bs with
  | .ok s => .ok s
  | .error e => .error (.write e)

/-- Read several pieces, one after the other. -/
def uReadMany (s : State) (c : Nat) : List (Nat × Nat) → Except UFault (List Byte)
  | [] => .ok []
  | (va, n) :: rest =>
    match uRead s c va n with
    | .error e => .error e
    | .ok bs => match uReadMany s c rest with
      | .error e => .error e
      | .ok more => .ok (bs ++ more)

/-- FP32 word `i` of bytes. -/
def fp32At (bs : List Byte) (i : Nat) : Word := BitVec.ofNat 32 (fieldAt bs (4 * i) 4)

/-- FP32 words as bytes. -/
def fp32Bytes (ws : List Word) : List Byte := wordsToBytes ws

/-! ### Scale-state records (R97 to R101) -/

/-- A scale-state record's fields (Table 3.5). -/
structure ScaleRec where
  tensorId : Nat
  target   : Nat
  flags    : Nat
  window   : Nat
  headroom : Nat
  head     : Nat
  filled   : Nat
  zero     : Int
  satLimit : Nat
  scale    : Word
  rcp      : Word
  step     : Nat
  amax     : Word
  sat      : Nat
  total    : Nat
  nan      : Nat
  ring     : List Word
  deriving DecidableEq, Repr

/-- Read a record's 128 bytes. -/
def scaleRec (b : List Byte) : ScaleRec :=
  ⟨fieldAt b 0 2, fieldAt b 2 1, fieldAt b 3 1, fieldAt b 4 1, fieldAt b 5 1, fieldAt b 6 1, fieldAt b 7 1,
   sint 8 (fieldAt b 8 1), fieldAt b 12 2, fp32At (b.drop 16) 0, fp32At (b.drop 20) 0, fieldAt b 28 4,
   fp32At (b.drop 32) 0, fieldAt b 36 4, fieldAt b 40 4, fieldAt b 44 4, (List.range 16).map (fp32At (b.drop 64))⟩

/-- The checks of R98 on a record and its address. -/
def recordSound (addr : Nat) (r : ScaleRec) : Bool :=
  decide (addr % 128 = 0 ∧ 1 ≤ r.window ∧ r.window ≤ 16 ∧ r.headroom ≤ 3 ∧ r.target ≤ 0xB
    ∧ (r.zero ≠ 0 → r.target = 5 ∨ r.target = 6) ∧ r.flags < 8)

/-- Read a record for a scale unit command. -/
def readRecord (s : State) (c addr : Nat) : Except UFault ScaleRec :=
  if addr % 128 ≠ 0 then .error (.cause 7)
  else match uRead s c addr 128 with
    | .error e => .error e
    | .ok b => if recordSound addr (scaleRec b) then .ok (scaleRec b) else .error (.cause 7)

/-! ### Narrowing (R91 to R94, R99, R102, R103) -/

/-- What a narrowing gives: element codes, group scale codes, which elements saturated, and how many were NaN. -/
structure Narrowed where
  codes  : List Nat
  groups : List Nat
  sat    : List Bool
  nan    : Nat
  deriving DecidableEq, Repr

/-- The largest finite magnitude of a list, +0 when there is none. -/
def amaxOf (vs : List Num) : Num :=
  vs.foldl (fun m v => if v.isFin then m.max v.abs else m) .zero

/-- Count. -/
def countIf {α : Type} (p : α → Bool) (l : List α) : Nat := (l.filter p).length

/-- An infinity. -/
def Num.isInf : Num → Bool
  | .inf _ => true
  | _ => false

/-- Elements with one factor `f`: each exact product is narrowed once (R91). -/
def narrowPlain (t : Nat) (z : Int) (f : Num) (vs : List Num) : Narrowed :=
  let rs := vs.map (fun v => narrowElem t z (v.mul f))
  ⟨rs.map (·.1), [], rs.map (·.2), countIf Num.isNan vs⟩

/-- A group of zero elements with its scale code: infinities count as saturated, NaNs as NaNs (R99, R102, R103). -/
def zeroGroup (code : Nat) (vs : List Num) : Narrowed :=
  ⟨vs.map (fun _ => 0), [code], vs.map Num.isInf, countIf Num.isNan vs⟩

/-- `e` of R102. -/
def mxBias (t : Nat) : Int := if t = 9 then 2 else if t = 7 then 8 else if t = 8 then 15 else 0

/-- One group of an MX target (R102). -/
def narrowMx (t : Nat) (vs : List Num) : Narrowed :=
  let am := amaxOf vs
  if vs.any Num.isNan then zeroGroup 0xFF vs
  else if am.isZero then zeroGroup 127 vs
  else
    let x := clampInt (-127) 127 (am.lead - mxBias t)
    { narrowPlain t 0 (Num.pow2 (-x)) vs with groups := [(x + 127).toNat] }

/-- One group of NX4 (R103). -/
def narrowNx4 (scale rcp : Word) (vs : List Num) : Narrowed :=
  let am := amaxOf vs
  let g := (roundSat .ue5m3 ((am.mul (val32 rcp)).div (Num.ofInt 6))).1
  if vs.any Num.isNan ∨ g = 0 then zeroGroup 0 vs
  else
    let u := rne32 ((valUe5m3 g).mul (val32 scale))
    { narrowPlain 0xB 0 (val32 (rne32 ((Num.pow2 0).div (val32 u)))) vs with groups := [g] }

/-- Join two narrowings. -/
def Narrowed.append (a b : Narrowed) : Narrowed :=
  ⟨a.codes ++ b.codes, a.groups ++ b.groups, a.sat ++ b.sat, a.nan + b.nan⟩

/-- Narrow in groups of 32, over at most `fuel` groups. A last group of fewer elements has a scale of its own (DESIGN CHOICE, log
entry 64: no rule says what a count that is no multiple of 32 does). -/
def narrowGroups (f : List Num → Narrowed) : (fuel : Nat) → List Num → Narrowed
  | 0, _ => ⟨[], [], [], 0⟩
  | fuel + 1, vs => if vs = [] then ⟨[], [], [], 0⟩ else (f (vs.take 32)).append (narrowGroups f fuel (vs.drop 32))

/-- Narrow FP32 values with a record. -/
def narrowWith (r : ScaleRec) (vs : List Num) : Narrowed :=
  if r.target = 0xB then narrowGroups (narrowNx4 r.scale r.rcp) (vs.length / 32 + 1) vs
  else if isBlockFmt r.target then narrowGroups (narrowMx r.target) (vs.length / 32 + 1) vs
  else if r.target ≤ 1 then narrowPlain r.target 0 (Num.pow2 0) vs
  else narrowPlain r.target r.zero (val32 r.rcp) vs

/-- A value rounded to FP32 on its way to a narrowing, with whether one of its roundings saturated (R92; log entry 64). -/
abbrev Rounded := Word × Bool

/-- One rounding (R91); an element stays marked once a rounding of it has saturated. -/
def roundNote (a : Num) (sat : Bool) : Rounded := (rne32 a, sat || sat32 a)

/-- The largest value of a narrowing command that counts for STEP_AMAX, at least 0 (R99). -/
def ownAmax (r : ScaleRec) (vs : List Num) : Word :=
  rne32 (vs.foldl (fun m v => if v.isFin then m.max (if r.zero = 0 then v.abs else v) else m) .zero)

/-- Narrow values with the record at `addr`, and write the elements at `dst` and the group scales at `sideband`. The unit keeps
the figures for the record until its command ends (R100). -/
def scaleOut (s : State) (tile u c addr dst sideband : Nat) (ws : List Rounded) : Except UFault State :=
  match readRecord s c addr with
  | .error e => .error e
  | .ok r =>
    let vs := ws.map (fun w => val32 w.1)
    let n := narrowWith r vs
    match uWrite s c dst (packElems (elemBits r.target) n.codes) with
    | .error e => .error e
    | .ok s => match uWrite s c sideband (n.groups.map (BitVec.ofNat 8)) with
      | .error e => .error e
      | .ok s => .ok (setUnit s tile u { unit s tile u with
          figures := some ⟨c, addr, ownAmax r vs, countIf (fun p => p.1.2 || p.2) (ws.zip n.sat), vs.length, n.nan⟩ })

/-- STEP_AMAX and the three counts take a command's figures, in one access (R100). -/
def writeFigures (s : State) (f : Figures) : Except UFault State :=
  match uRead s f.ctx (f.record + 32) 16 with
  | .error e => .error e
  | .ok b =>
    uWrite s f.ctx (f.record + 32)
      (leBytes 4 (rne32 ((val32 (fp32At b 0)).max (val32 f.amax))).toNat ++ leBytes 4 (satAdd 32 (fieldAt b 4 4) f.sat)
        ++ leBytes 4 (satAdd 32 (fieldAt b 8 4) f.total) ++ leBytes 4 (satAdd 32 (fieldAt b 12 4) f.nan))

/-! ### The step close (R101, R104) -/

/-- The largest of the `n` most recent entries of the AMAX ring, whose next slot is `head`. -/
def ringMax (ring : List Word) (head n : Nat) : Num :=
  (List.range n).foldl (fun m i => m.max (val32 (ring.getD ((head + 15 - i) % 16) 0))) .zero

/-- DATA of 0x2010 and 0x2011 (R104). -/
def stepData (r : ScaleRec) (amax : Word) (sat total nan : Nat) : List Byte :=
  u16 r.tensorId ++ u32 r.step ++ leBytes 4 amax.toNat ++ u32 sat ++ u32 total ++ u32 nan

/-- `step_close` of R101 on a record for context `c`. A summary that is not 16-byte aligned has cause 0x5 (DESIGN CHOICE, log entry
64: R101 requires the alignment and gives no effect). -/
def stepClose (s : State) (tile c addr : Nat) (summary : Option Nat) : Except UFault State :=
  match readRecord s c addr with
  | .error e => .error e
  | .ok r =>
    let fig : Except UFault (List Byte) := match summary with
      | none => .ok (leBytes 4 r.amax.toNat ++ leBytes 4 r.sat ++ leBytes 4 r.total ++ leBytes 4 r.nan)
      | some a => if a % 16 ≠ 0 then .error (.cause 5) else uRead s c a 16
    match fig with
    | .error e => .error e
    | .ok b =>
      let amax0 := fp32At b 0
      let amax : Word := if (val32 amax0).isNan || (val32 amax0).lt .zero then 0 else amax0
      let sat := fieldAt b 4 4
      let total := fieldAt b 8 4
      let nan := fieldAt b 12 4
      let report := bitAt r.flags 2
      let data := stepData r amax sat total nan
      let s := if report ∧ bitAt r.flags 0 = true ∧ r.satLimit * total < sat * 65536
        then raiseCtx s 0x2010 tile c data else s
      let s := if report ∧ bitAt r.flags 1 = true ∧ 0 < nan then raiseCtx s 0x2011 tile c data else s
      let ring := listSet r.ring (r.head % 16) amax
      let head := (r.head + 1) % 16
      let filled := min (r.filled + 1) 16
      let m := ringMax ring head (min filled r.window)
      let (scale, rcp) := match divisorQ r.target r.zero with
        | some q => if m.isZero then (r.scale, r.rcp) else
            let sc := rne32 ((m.scale r.headroom).div q)
            let sc : Word := if flt32 sc 0x00800000 then 0x00800000 else sc
            (sc, rne32 ((Num.pow2 0).div (val32 sc)))
        | none => (r.scale, r.rcp)
      match uWrite s c (addr + 64) (wordsToBytes ring) with
      | .error e => .error e
      | .ok s => match uWrite s c (addr + 6) (leBytes 1 head ++ leBytes 1 filled) with
        | .error e => .error e
        | .ok s => match uWrite s c (addr + 16) (leBytes 4 scale.toNat ++ leBytes 4 rcp.toNat) with
          | .error e => .error e
          | .ok s => uWrite s c (addr + 28) (leBytes 4 (r.step + 1) ++ List.replicate 16 0)

/-! ### The tensor array (R52 to R57, R85 to R90, R127 to R130) -/

/-- A 4-bit element format. -/
def fmt4 (t : Nat) : Bool := decide (t = 4 ∨ t = 6 ∨ t = 9 ∨ t = 0xB)
/-- An 8-bit element format. -/
def fmt8 (t : Nat) : Bool := decide (t = 2 ∨ t = 3 ∨ t = 5 ∨ t = 7 ∨ t = 8 ∨ t = 0xA)

/-- Block K, block N and the limit of K of the mode of two formats (Table 2.3, R55); none for a pair without a mode. -/
def tensorMode (a w : Nat) : Option (Nat × Nat × Nat) :=
  if fmt4 a && fmt4 w then some (128, 128, 16384)
  else if (fmt4 a || fmt8 a) && (fmt4 w || fmt8 w) then some (128, 64, 16384)
  else if a = 1 ∧ w = 1 then some (64, 32, 8192)
  else none

/-- The cycles that R51 keeps every unit command below. -/
def cycleLimit : Nat := 16384

/-- A command of `n` steps at `rate` a cycle with a latency stays below the bound of R51; the rates are those of R59, R60 and R69
(log entry 64). -/
def inCycles (n rate latency : Nat) : Bool := decide (ceilDiv n rate + latency < cycleLimit)

/-- The descriptor checks of R55. Its limits of K count logical elements, of sparse weights too (DESIGN CHOICE, log entry 64: R57
does not say). -/
def tensorSound (c : TensorCmd) : Bool :=
  match tensorMode c.fmtA c.fmtW with
  | none => false
  | some (bk, bn, kmax) =>
    decide (1 ≤ c.m ∧ c.m ≤ 32 ∧ c.n = bn ∧ 0 < c.k ∧ c.k ≤ kmax
      ∧ c.k % (if c.sparse then 2 * bk else bk) = 0 ∧ c.outKind ≤ 2)

/-- Bytes of a line of an engine tile (R127). -/
def lineBytes (t : Nat) : Nat := 16 * elemBits t

/-- What a tensor command reads. -/
structure TensorIn where
  act    : List Byte       -- activation lines: by engine tile along K, then by row
  actSc  : List Byte       -- their scale bytes, 4 a line
  w      : List Byte       -- weight lines: by engine tile along K, then by column
  wSc    : List Byte       -- their scale bytes, 4 a line, or 8 for sparse weights
  idx    : List Byte       -- index bytes, 32 a line
  colsum : List Byte
  wScale : List Byte
  deriving DecidableEq, Repr

/-- Engine tiles of weights along K. -/
def weightTiles (c : TensorCmd) : Nat := ceilDiv c.k (if c.sparse then 256 else 128)
/-- Engine tiles of activations along K. -/
def actTiles (c : TensorCmd) : Nat := ceilDiv c.k 128

/-- Lines of `per` bytes in `count` tiles of `tile` bytes that start `step` apart: (address, bytes). -/
def planeLines (base step lines per count : Nat) : List (Nat × Nat) :=
  (List.range count).map (fun t => (base + t * step, lines * per))

/-- Read everything a tensor command needs. Weight engine tiles lie one after the other from `wVA`, those of a 4-bit block
side by side, along K (log entry 21). -/
def tensorRead (s : State) (x : Nat) (c : TensorCmd) : Except UFault TensorIn :=
  let la := lineBytes c.fmtA
  let lw := lineBytes c.fmtW
  let wide := decide (c.n = 128)
  let cols := if wide then 64 else c.n
  let wt := if wide then 2 * weightTiles c else weightTiles c
  let isc := if c.sparse then 512 else 256
  let integer := decide ((c.fmtA = 5 ∨ c.fmtA = 6) ∧ (c.fmtW = 5 ∨ c.fmtW = 6))
  match uReadMany s x (planeLines c.actVA (64 * la) c.m la (actTiles c)) with
  | .error e => .error e
  | .ok act => match uReadMany s x (if isBlockFmt c.fmtA then planeLines c.actScale 256 c.m 4 (actTiles c) else []) with
    | .error e => .error e
    | .ok actSc => match uReadMany s x (planeLines c.wVA (64 * lw) cols lw wt) with
      | .error e => .error e
      | .ok w => match uReadMany s x (if isBlockFmt c.fmtW then planeLines c.wScale isc cols (isc / 64) wt else []) with
        | .error e => .error e
        | .ok wSc => match uReadMany s x (if c.sparse then planeLines c.idxVA 2048 cols 32 wt else []) with
          | .error e => .error e
          | .ok idx => match uReadMany s x (if integer ∧ c.zeroPoint ≠ 0 then [(c.colsumVA, 4 * c.n)] else []) with
            | .error e => .error e
            | .ok colsum => match uRead s x c.scaleWVA (if c.perColumn then 4 * c.n else 4) with
              | .error e => .error e
              | .ok wScale => .ok ⟨act, actSc, w, wSc, idx, colsum, wScale⟩

/-- Code of activation element (row, k). -/
def actCode (c : TensorCmd) (i : TensorIn) (row k : Nat) : Nat :=
  let l := lineBytes c.fmtA
  elemCode (elemBits c.fmtA) (slice i.act ((k / 128 * c.m + row) * l) l) (k % 128)

/-- Line of weight column `n` in K tile `t`. -/
def wLine (c : TensorCmd) (t n : Nat) : Nat :=
  if c.n = 128 then (2 * t + n / 64) * 64 + n % 64 else t * c.n + n

/-- Code of kept weight element `e` of line (t, n). -/
def wCode (c : TensorCmd) (i : TensorIn) (t n e : Nat) : Nat :=
  let l := lineBytes c.fmtW
  elemCode (elemBits c.fmtW) (slice i.w (wLine c t n * l) l) e

/-- 2-bit position of kept value `e` of line (t, n) (R130). -/
def wPos (c : TensorCmd) (i : TensorIn) (t n e : Nat) : Nat :=
  (fieldAt i.idx (wLine c t n * 32 + e / 4) 1 / 4 ^ (e % 4)) % 4

/-- The products' operands of group `g` of (row, n): activation code and weight code. -/
def groupPairs (c : TensorCmd) (i : TensorIn) (row n g : Nat) : List (Nat × Nat) :=
  if c.sparse then
    (List.range 16).map fun j =>
      let e := 16 * (g % 8) + j
      let t := g / 8
      (actCode c i row (256 * t + 4 * (e / 2) + wPos c i t n e), wCode c i t n e)
  else
    (List.range 32).map fun j =>
      let k := 32 * g + j
      (actCode c i row k, wCode c i (k / 128) n (k % 128))

/-- Group scale of an activation. -/
def actScaleOf (c : TensorCmd) (i : TensorIn) (row g : Nat) : Num :=
  groupVal c.fmtA (fieldAt i.actSc ((g / 4 * c.m + row) * 4 + g % 4) 1)

/-- Group scale of a weight. -/
def wScaleOf (c : TensorCmd) (i : TensorIn) (n g : Nat) : Num :=
  let per := if c.sparse then 8 else 4
  groupVal c.fmtW (fieldAt i.wSc (wLine c (g / per) n * per + g % per) 1)

/-- A product cut to 48 places below `lead`, towards zero (R87). -/
def cutProduct (lead : Int) : Num → Num
  | .fin s m e => if e < lead - 48 then .fin s (m / 2 ^ (lead - 48 - e).toNat) (lead - 48) else .fin s m e
  | x => x

/-- Sum of one group's products (R87). -/
def groupSum (ps : List Num) : Num :=
  let live := ps.filter (fun p => !p.isZero)
  match live with
  | [] => .zero
  | p :: rest =>
    let lead := rest.foldl (fun m q => if m < q.lead then q.lead else m) p.lead
    let sum := live.foldl (fun a q => a.add (cutProduct lead q)) .zero
    if sum.isZero then .zero else sum

/-- FP32 accumulation over the groups from `g`, in increasing K (R87, R88, R92). -/
def accumulate (c : TensorCmd) (i : TensorIn) (row n : Nat) : (groups g : Nat) → Rounded → Rounded
  | 0, _, acc => acc
  | k + 1, g, acc =>
    let vs := (groupPairs c i row n g).map (fun p => (elemVal c.fmtA p.1, elemVal c.fmtW p.2))
    let sa := if isBlockFmt c.fmtA then actScaleOf c i row g else Num.pow2 0
    let sw := if isBlockFmt c.fmtW then wScaleOf c i n g else Num.pow2 0
    let bad := !sa.isFin || !sw.isFin || vs.any (fun p => !p.1.isFin || !p.2.isFin)
    if bad || (val32 acc.1).isNan then (0x7FC00000, acc.2)
    else
      let g' := groupSum (vs.map (fun p => p.1.mul p.2))
      let t := roundNote (g'.mul (sa.mul sw)) acc.2
      accumulate c i row n k (g + 1) (roundNote ((val32 acc.1).add (val32 t.1)) t.2)

/-- Exact integer accumulation (R85, R86). -/
def accumulateInt (c : TensorCmd) (i : TensorIn) (row n : Nat) : (groups g : Nat) → Int → Int
  | 0, _, acc => acc
  | k + 1, g, acc =>
    accumulateInt c i row n k (g + 1) ((groupPairs c i row n g).foldl
      (fun a p => a + sint (elemBits c.fmtA) p.1 * sint (elemBits c.fmtW) p.2) acc)

/-- scale_act of R90: 1 for the MX formats. -/
def actScale (c : TensorCmd) : Word := if 7 ≤ c.fmtA ∧ c.fmtA ≤ 0xA then one32 else c.scaleAct

/-- The drained value of output element (row, n) (R90). -/
def drain (c : TensorCmd) (i : TensorIn) (row n : Nat) : Rounded :=
  let integer := decide ((c.fmtA = 5 ∨ c.fmtA = 6) ∧ (c.fmtW = 5 ∨ c.fmtW = 6))
  let a : Rounded := if integer then
      roundNote (Num.ofInt (accumulateInt c i row n (c.k / 32) 0 0
        - (if c.zeroPoint = 0 then 0 else c.zeroPoint * sint 32 (fieldAt i.colsum (4 * n) 4)))) false
    else accumulate c i row n (c.k / 32) 0 (0, false)
  let sc := roundNote ((val32 (actScale c)).mul (val32 (fp32At i.wScale (if c.perColumn then n else 0)))) a.2
  roundNote ((val32 a.1).mul (val32 sc.1)) sc.2

/-- Write FP32 values as FP32, as BF16, or through a record (R90, R97). -/
def writeOut (s : State) (tile u x kind record dst sideband : Nat) (ws : List Rounded) : Except UFault State :=
  if kind = 0 then uWrite s x dst (fp32Bytes (ws.map (·.1)))
  else if kind = 1 then uWrite s x dst (packElems 16 (ws.map (fun w => (narrowElem 1 0 (val32 w.1)).1)))
  else scaleOut s tile u x record dst sideband ws

/-- The record that a command narrows through is checked before the command reads anything else (R51, R98). -/
def recordChecked (s : State) (x : Nat) (record : Option Nat) : Except UFault Unit :=
  match record with
  | none => .ok ()
  | some r => match readRecord s x r with
    | .ok _ => .ok ()
    | .error e => .error e

/-- A tensor unit command: one output tile. Its elements and their group scales lie without gaps, row by row (DESIGN CHOICE, log
entry 64: the descriptor layouts are not given, R582). -/
def runTensor (s : State) (tile x : Nat) (c : TensorCmd) : Except UFault State :=
  if !tensorSound c then .error (.cause 7)
  else match recordChecked s x (if c.outKind = 2 then some c.record else none) with
    | .error e => .error e
    | .ok _ => match tensorRead s x c with
      | .error e => .error e
      | .ok i =>
        writeOut s tile 0 x c.outKind c.record c.outVA c.outScale
          ((List.range c.m).flatMap fun row => (List.range c.n).map fun n => drain c i row n)

/-! ### Vector unit, rotation, chains (R58, R59, R61, R95, R96) -/

/-- Whether a context may use vector register `r` on a tile (TILE_SHARE). -/
def vregOk (s : State) (tile x r : Nat) : Bool :=
  let b := fget s (Reg.TILE_SHARE_VBASE tile x)
  decide (b ≤ r ∧ r < b + fget s (Reg.TILE_SHARE_VCOUNT tile x) ∧ r < 64)

/-- The 64 lanes of a vector register. -/
def vreg (s : State) (tile r : Nat) : List Word := storeGetList (fun _ => 0) s.vregs (4096 * tile + 64 * r) 64

/-- Write a vector register. -/
def setVreg (s : State) (tile r : Nat) (ws : List Word) : State :=
  { s with vregs := storeSetList (fun _ => 0) s.vregs (4096 * tile + 64 * r) ws }

/-- Lanes combined elementwise. -/
def zip3 (f : Word → Word → Word → Word) : List Word → List Word → List Word → List Word
  | a :: as, b :: bs, c :: cs => f a b c :: zip3 f as bs cs
  | _, _, _ => []

/-- A vector unit command on the registers that TILE_SHARE grants (R58); each lane's result is rounded once (R91; log entry 63). -/
def runVector (s : State) (tile x : Nat) : VectorOp → Except UFault State
  | .fma d a b c =>
    if [d, a, b, c].all (vregOk s tile x) then
      .ok (setVreg s tile d (zip3 fma32 (vreg s tile a) (vreg s tile b) (vreg s tile c)))
    else .error (.cause 3)
  | .exp2 d a => if [d, a].all (vregOk s tile x) then .ok (setVreg s tile d ((vreg s tile a).map fexp2)) else .error (.cause 3)
  | .recip d a =>
    if [d, a].all (vregOk s tile x) then .ok (setVreg s tile d ((vreg s tile a).map frecip)) else .error (.cause 3)
  | .rsqrt d a =>
    if [d, a].all (vregOk s tile x) then .ok (setVreg s tile d ((vreg s tile a).map frsqrt)) else .error (.cause 3)
  | .load d va =>
    if vregOk s tile x d then match uRead s x va 256 with
      | .error e => .error e
      | .ok bs => .ok (setVreg s tile d (bytesToWords 64 bs))
    else .error (.cause 3)
  | .store a va => if vregOk s tile x a then uWrite s x va (fp32Bytes (vreg s tile a)) else .error (.cause 3)

/-- One butterfly stage: elements whose indices differ in bit `b` become their sum and difference (R95). -/
def butterfly (b : Nat) (v : List Rounded) : List Rounded :=
  (List.range v.length).map fun i =>
    let x := v.getD i (0, false)
    if bitAt i b then roundNote ((val32 (v.getD (i - 2 ^ b) (0, false)).1).sub (val32 x.1)) x.2
    else roundNote ((val32 x.1).add (val32 (v.getD (i + 2 ^ b) (0, false)).1)) x.2

/-- The transform of one block, stages in increasing order. -/
def hadamard : (stages b : Nat) → List Rounded → List Rounded
  | 0, _, v => v
  | k + 1, b, v => hadamard k (b + 1) (butterfly b v)

/-- Rotate a row in blocks of `b`, over at most `fuel` blocks. -/
def rotateRow (b : Nat) : (fuel : Nat) → List Rounded → List Rounded
  | 0, v => v
  | fuel + 1, v => if v = [] then [] else hadamard (Nat.log2 b) 0 (v.take b) ++ rotateRow b fuel (v.drop b)

/-- A block size of the rotation unit. -/
def blockOk (b : Nat) : Bool := decide (b = 32 ∨ b = 64 ∨ b = 128)

/-- A rotation unit command: BF16 inputs are widened exactly, results are FP32. -/
def runRotate (s : State) (x : Nat) (c : RotateCmd) : Except UFault State :=
  if !blockOk c.block || decide (c.len % c.block ≠ 0) || !inCycles c.len 128 8 then .error (.cause 7)
  else match uRead s x c.srcVA (c.len * (if c.bf16 then 2 else 4)) with
    | .error e => .error e
    | .ok bs =>
      let v := if c.bf16 then (List.range c.len).map (fun i => BitVec.ofNat 32 (fieldAt bs (2 * i) 2 * 2 ^ 16))
        else bytesToWords c.len bs
      uWrite s x c.dstVA (fp32Bytes ((rotateRow c.block (c.len / c.block + 1) (v.map (·, false))).map (·.1)))

/-- A chain: vector result, then rotation, then the scale unit (R61). -/
def runChain (s : State) (tile x : Nat) (c : ChainCmd) : Except UFault State :=
  if (c.block ≠ 0 ∧ (blockOk c.block = false ∨ 64 * c.regs % c.block ≠ 0)) ∨ inCycles (64 * c.regs) 128 12 = false then
    .error (.cause 7)
  else if !(List.range c.regs).all (fun i => vregOk s tile x (c.srcReg + i)) then .error (.cause 3)
  else
    let v : List Rounded := ((List.range c.regs).flatMap (fun i => vreg s tile (c.srcReg + i))).map (·, false)
    let v := if c.block = 0 then v else rotateRow c.block (v.length / c.block + 1) v
    match c.record with
    | none => uWrite s x c.outVA (fp32Bytes (v.map (·.1)))
    | some r => scaleOut s tile 1 x r c.outVA c.outScale v

/-- A scale unit command on FP32 values in memory (R60, R98). -/
def runScale (s : State) (tile x : Nat) (c : ScaleCmd) : Except UFault State :=
  if inCycles c.count 128 4 = false then .error (.cause 7)
  else match recordChecked s x (some c.record) with
    | .error e => .error e
    | .ok _ => match uRead s x c.srcVA (4 * c.count) with
      | .error e => .error e
      | .ok bs => scaleOut s tile 3 x c.record c.dstVA c.dstScale ((bytesToWords c.count bs).map (·, false))

/-! ### The stream decoder (R132 to R135) -/

/-- A symbol's code length, or none for an absent one. -/
def symLength (lengths : List Byte) (sym : Nat) : Option Nat :=
  let v := bits (fieldAt lengths (sym / 2) 1) (4 * (sym % 2) + 3) (4 * (sym % 2))
  if v ≤ 10 then some (v + 5) else none

/-- Whether the table holds an invalid nibble (0xB..0xE). -/
def badNibble (lengths : List Byte) : Bool :=
  (List.range 256).any fun sym =>
    let v := bits (fieldAt lengths (sym / 2) 1) (4 * (sym % 2) + 3) (4 * (sym % 2))
    decide (0xB ≤ v ∧ v ≤ 0xE)

/-- Give canonical codes to symbols in order of (length, symbol): (length, code, symbol) (R134). -/
def assignCodes : List (Nat × Nat) → (prevLen prevCode : Nat) → List (Nat × Nat × Nat)
  | [], _, _ => []
  | (len, sym) :: rest, pl, pc =>
    let code := if pl = 0 then 0 else (pc + 1) * 2 ^ (len - pl)
    (len, code, sym) :: assignCodes rest len code

/-- The canonical code of a table. -/
def canonical (lengths : List Byte) : List (Nat × Nat × Nat) :=
  let syms := (List.range 256).filterMap (fun y => (symLength lengths y).map (fun l => (l, y)))
  assignCodes (sortBy (·.1) syms) 0 0

/-- Decode one symbol from bit `pos`: its bits enter most-significant first. Over at most `fuel` bits. -/
def decodeSym (codes : List (Nat × Nat × Nat)) (bs : List Byte) (nbits : Nat) :
    (fuel pos len acc : Nat) → Option (Nat × Nat)
  | 0, _, _, _ => none
  | fuel + 1, pos, len, acc =>
    if nbits ≤ pos then none
    else
      let acc := 2 * acc + b2n (bitAt (fieldAt bs (pos / 8) 1) (pos % 8))
      match codes.find? (fun c => decide (c.1 = len + 1 ∧ c.2.1 = acc)) with
      | some c => some (c.2.2, pos + 1)
      | none => decodeSym codes bs nbits fuel (pos + 1) (len + 1) acc

/-- Decode `n` symbols. -/
def decodeSyms (codes : List (Nat × Nat × Nat)) (bs : List Byte) (nbits : Nat) : (n pos : Nat) → Option (List Byte)
  | 0, _ => some []
  | n + 1, pos =>
    match decodeSym codes bs nbits 15 pos 0 0 with
    | none => none
    | some (sym, pos) => (decodeSyms codes bs nbits n pos).map (BitVec.ofNat 8 sym :: ·)

/-- The 4,096 bytes of a chunk's engine tile, or none when it is malformed (R135). -/
def decodeChunk (lengths : List Byte) (chunk index coded flags : Nat) (bs : List Byte) : Option (List Byte) :=
  if index ≠ chunk then none
  else if bitAt flags 0 then (if coded = 4096 then some bs else none)
  else if badNibble lengths then none
  else decodeSyms (canonical lengths) bs (8 * coded) 4096 0

/-- A stream decoder command. The chunk offsets of the index table count from the header, as INDEX_OFFSET does, and the stored bytes
are read before the chunk is judged, so that a failed read wins over a malformed chunk (DESIGN CHOICE, log entry 64: R132 and R135
say neither). -/
def runDecode (s : State) (x : Nat) (c : DecodeCmd) : Except UFault State :=
  match uRead s x c.headerVA 192 with
  | .error e => .error e
  | .ok h => match uRead s x (c.headerVA + fieldAt h 16 8 + 8 * c.chunk) 8 with
    | .error e => .error e
    | .ok o =>
      let at_ := c.headerVA + leNat o
      let scaled := bitAt (fieldAt h 7 1) 0
      match uRead s x at_ 16 with
      | .error e => .error e
      | .ok ch =>
        let index := fieldAt ch 0 4
        let coded := fieldAt ch 4 2
        match uRead s x (at_ + 16) (if scaled then 256 else 0) with
        | .error e => .error e
        | .ok sc => match uRead s x (at_ + (if scaled then 272 else 16)) coded with
          | .error e => .error e
          | .ok bs =>
            match (if c.chunk < fieldAt h 8 4 then decodeChunk (slice h 64 128) c.chunk index coded (fieldAt ch 6 1) bs else none) with
            | none => .error (.chunk index c.dstVA)
            | some out => match uWrite s x c.dstVA out with
              | .error e => .error e
              | .ok s => if scaled then uWrite s x c.dstScale sc else .ok s

/-! ### The data mover (R48, R69, R497) -/

/-- Whether a transfer names a module outside the job (R449). -/
def moveOutside (s : State) (c : MoveCmd) : Bool :=
  (c.remote.any (fun m => !inJob s m)) || c.dest.any (fun m => !inJob s m)

/-- Copy `n` bytes in mesh packets of at most 4 KiB, in address order; packets before a failed one have landed (R69). Over at most
`fuel` packets. -/
def movePackets (x : Nat) : (fuel src dst n : Nat) → State → Option UFault × State
  | 0, _, _, _, s => (none, s)
  | fuel + 1, src, dst, n, s =>
    if n = 0 then (none, s) else
      let k := min n 0x1000
      match uRead s x src k with
      | .error e => (some e, s)
      | .ok bs => match uWrite s x dst bs with
        | .error e => (some e, s)
        | .ok s => movePackets x fuel (src + k) (dst + k) (n - k) s

/-- Write bytes in packets, as a transfer from another module lands (R69). -/
def landPackets (x : Nat) : (fuel dst : Nat) → List Byte → State → Option UFault × State
  | 0, _, _, s => (none, s)
  | fuel + 1, dst, bs, s =>
    if bs = [] then (none, s) else
      match uWrite s x dst (bs.take 0x1000) with
      | .error e => (some e, s)
      | .ok s => landPackets x fuel (dst + 0x1000) (bs.drop 0x1000) s

/-- Starting a transfer: a local one moves now, one with another module at its completion, its own operand checked now. -/
def runMove (s : State) (x : Nat) (c : MoveCmd) : Option UFault × State :=
  if moveOutside s c then (some (.cause 1), s)
  else if inCycles c.bytes 512 0 = false then (some (.cause 7), s)
  else if c.remote.isSome ∨ c.dest.isSome then
    match (if c.dest.isNone then vaRange s x c.dstVA c.bytes .write else .ok []),
        (if c.remote.isNone then vaRange s x c.srcVA c.bytes .read else .ok []) with
    | .error e, _ => (some (.write e), s)
    | .ok _, .error e => (some (.read e), s)
    | .ok _, .ok _ => (none, s)
  else movePackets x (c.bytes / 0x1000 + 1) c.srcVA c.dstVA c.bytes s

/-! ### Barriers (R509, R510, R585) -/

/-- A job barrier. -/
def barrierOf (s : State) (b : Nat) : Barrier := storeGet (fun _ => Barrier.init) s.barriers b

/-- Replace a job barrier. -/
def setBarrier (s : State) (b : Nat) (x : Barrier) : State :=
  { s with barriers := storeSet (fun _ => Barrier.init) s.barriers b x }

/-- An arrival of a member at a barrier, for its next generation. -/
def barrierArrive (s : State) (m b : Nat) : State :=
  let x := barrierOf s b
  setBarrier s b { x with arrived := listSet x.arrived m (x.arrived.getD m 0 + 1) }

/-- Close a barrier's generation once every module of the job has arrived (R509); Mallow sees a collective step boundary
(R480). -/
def settleBarrier (s : State) (b : Nat) : State :=
  let x := barrierOf s b
  if (setBitsOf (fget s Reg.GLB_MODNUM_JOB_MASK) 4).all (fun m => decide (0 < x.arrived.getD m 0)) then
    { setBarrier s b ⟨x.gen + 1, 0, x.arrived.map (· - 1)⟩ with boundary := true }
  else s

/-- A BARRIER command starts: one local arrival; the last one sends an arrival message to every other member. -/
def startBarrier (s : State) (b expected : Nat) : State :=
  let x := barrierOf s b
  let s := setBarrier s b { x with here := x.here + 1 }
  if x.here + 1 = max expected 1 then
    let others := (setBitsOf (fget s Reg.GLB_MODNUM_JOB_MASK) 4).filter (fun m => decide (m ≠ modnum s))
    let s := { s with outbox := s.outbox ++ others.map (fun m => Wire.barrier m b x.gen) }
    settleBarrier (barrierArrive s (modnum s) b) b
  else s

/-- Whether every thread of a launch has issued LBAR `seq` times (R585). -/
def launchArrived (s : State) (id seq : Nat) : Bool :=
  (listedThreads s).all (fun e => decide (e.2.2.launch ≠ some id ∨ seq ≤ e.2.2.lbars))
    && (match findLaunch s id with
        | none => false
        | some x => (match x.lbarCap with | none => true | some k => decide (seq ≤ k)))

/-! ### Starting and completing unit commands -/

/-- The outcome of an effect that happens whole or not at all. -/
def whole (s : State) : Except UFault State → Option UFault × State
  | .ok s => (none, s)
  | .error e => (some e, s)

/-- A unit command's effect as it starts, and its fault. -/
def runUnit (s : State) (tile : Nat) (d : UnitCmd) : Option UFault × State :=
  match d.op with
  | .tensor c => whole s (runTensor s tile d.ctx c)
  | .vector op => whole s (runVector s tile d.ctx op)
  | .chain c => whole s (runChain s tile d.ctx c)
  | .rotate c => whole s (runRotate s d.ctx c)
  | .scale c => whole s (runScale s tile d.ctx c)
  | .stepClose r sm => whole s (stepClose s tile d.ctx r sm)
  | .decode c => whole s (runDecode s d.ctx c)
  | .move c => runMove s d.ctx c
  | .barrier b expected => (none, startBarrier s b expected)
  | .launchBarrier => (none, s)
  | .invalid => (some (.cause 7), s)

/-- The virtual ranges that a unit command reads. -/
def unitReads (d : UnitCmd) : List (Nat × Nat) :=
  match d.op with
  | .tensor c => planeLines c.actVA (64 * lineBytes c.fmtA) c.m (lineBytes c.fmtA) (actTiles c)
      ++ planeLines c.wVA (64 * lineBytes c.fmtW) (min c.n 64) (lineBytes c.fmtW) (if c.n = 128 then 2 * weightTiles c else weightTiles c)
      ++ [(c.scaleWVA, if c.perColumn then 4 * c.n else 4)]
  | .vector (.load _ va) => [(va, 256)]
  | .vector _ => []
  | .chain c => (c.record.map (fun r => (r, 128))).toList
  | .rotate c => [(c.srcVA, c.len * (if c.bf16 then 2 else 4))]
  | .scale c => [(c.record, 128), (c.srcVA, 4 * c.count)]
  | .stepClose r sm => (r, 128) :: (sm.map (fun a => (a, 16))).toList
  | .decode c => [(c.headerVA, 192)]
  | .move c => if c.remote.isNone then [(c.srcVA, c.bytes)] else []
  | _ => []

/-- A unit command's fault ends its context (R65, R66, R135). -/
def unitFault (s : State) (tile : Nat) (d : UnitCmd) (f : UFault) : State :=
  match f with
  | .read e => tileAccessFault s tile d.thread d.ctx d.launch e
  | .write e => tileWriteFault s tile d.thread d.ctx d.launch e
  | .cause c => threadFault s tile d.thread c d.ctx d.launch
  | .chunk index dst =>
    let (f, s) := takeFree s
    let s := vaPut s d.ctx dst (freeBytes f 4096)
    threadFault (raiseCtx s 0x1009 tile d.ctx (u16 index)) tile d.thread 7 d.ctx d.launch

/-- Whether a unit can start a command: units 0 to 4 run one at a time; the data mover also while all it holds are barriers,
launch barriers and released transfers (R243, R585). -/
def unitFree (u : Nat) (x : UnitState) : Bool :=
  if u = 5 then x.started.all (fun d => match d.op with
    | .barrier _ _ => true
    | .launchBarrier => true
    | _ => d.released)
  else x.started.isEmpty

/-- The command a unit takes next: contexts with a set RUN bit in rotation, issue order within one (R50). -/
def unitNext (s : State) (tile u : Nat) : Option UnitCmd :=
  let x := unit s tile u
  let cs := (x.queue.map (·.ctx)).filter (runBit s tile)
  match nextInTurn (sortBy (·.1) (cs.map (fun c => (c, 0)))) (fun _ => x.last) with
  | none => none
  | some c => x.queue.find? (fun d => decide (d.ctx = c))

/-- Remove the first occurrence of a command. -/
def removeCmd (d : UnitCmd) : List UnitCmd → List UnitCmd
  | [] => []
  | e :: rest => if e = d then rest else e :: removeCmd d rest

/-- A unit starts its next queued command (R50, R51): a command beyond its limits is not started and ends its context. -/
def execUnitCommandStart (tile u : Nat) (s : State) : Out :=
  if 48 ≤ tile ∨ 6 ≤ u ∨ tileWorks s tile = false ∨ fbit s (Reg.TILE_CTRL_ISSUE_EN tile) = false ∨ unitFree u (unit s tile u) = false then .next s
  else match unitNext s tile u with
    | none => .next s
    | some d =>
      let x := unit s tile u
      let gen := match d.op with | .barrier b _ => (barrierOf s b).gen | _ => 0
      let d' := { d with gen := gen }
      let r := runUnit s tile d
      match r.1 with
      | some f => .next (unitFault (wakeUnitWaiters (setUnit r.2 tile u { x with queue := removeCmd d x.queue, last := d.ctx }))
          tile d f)
      | none =>
        .next (readNoted s d.ctx (unitReads d) (wakeUnitWaiters (setUnit r.2 tile u
          ⟨removeCmd d x.queue, x.started ++ [d'], d.ctx, (unit r.2 tile u).figures⟩)))

/-- Port of this module that faces another one (R491). -/
def portTo (s : State) (m : Nat) : Nat := (modnum s ^^^ m) - 1

/-- The link to a module retrains, and what is on it waits (R450). -/
def linkHolds (s : State) (m : Option Nat) : Bool :=
  match m with
  | none => false
  | some m => decide (fget s (Reg.LINK_PORT_STATE_STATE (portTo s m)) = 4)

/-- Whether a started command may complete now. -/
def mayComplete (s : State) (d : UnitCmd) : Bool :=
  match d.op with
  | .move c => !linkHolds s c.remote && !linkHolds s c.dest
  | .barrier b _ => d.dead || decide (d.gen < (barrierOf s b).gen)
  | .launchBarrier => d.dead || (match d.launch with | some id => launchArrived s id d.seq | none => true)
  | _ => true

/-- The started command of a unit that completes next; one thread's commands complete in issue order (R49). -/
def completesNext (s : State) : List UnitCmd → List UnitCmd → Option UnitCmd
  | _, [] => none
  | before, d :: rest =>
    if mayComplete s d ∧ before.all (fun e => decide (e.thread ≠ d.thread ∨ e.dead = true)) then some d
    else completesNext s (before ++ [d]) rest

/-- Signal a completion token of a thread, and wake it when its wait is satisfied (R48). -/
def signalToken (s : State) (tile t token : Nat) : State :=
  let th := thread s tile t
  let th := { th with tokens := setBit th.tokens token true }
  match th.state, th.wait with
  | .waiting, .tokens mask =>
    if tokensIn th.tokens mask then setThread s tile t { th.wake with tokens := clearTokens th.tokens mask }
    else setThread s tile t th
  | _, _ => setThread s tile t th

/-- Mark that a launch waited on a lost module (R449). -/
def markRemote (s : State) (id : Option Nat) : State :=
  match id.bind (findLaunch s) with
  | none => s
  | some x => setLaunch s { x with remote := true }

/-- What lands when a transfer with another module ends: its data, or undefined bytes when the module was lost (R449); and its
fault. -/
def moveEnd (s : State) (d : UnitCmd) (c : MoveCmd) : Option UFault × State :=
  let lost := moveOutside s c
  let s := if lost ∧ d.dead = false then markRemote s d.launch else s
  match c.dest with
  | some m => if lost then (none, s) else
    match c.remote with
    | some _ => (none, { s with outbox := s.outbox ++ [.remoteWrite m c.dstVA (padTo c.bytes c.data)] })
    | none => match uRead s d.ctx c.srcVA c.bytes with
      | .ok bs => (none, { s with outbox := s.outbox ++ [.remoteWrite m c.dstVA bs] })
      | .error e => (some e, s)
  | none => if c.remote.isNone then (none, s) else
    let (f, s') := takeFree s
    let (bs, s) := if lost then (freeBytes f c.bytes, s') else (padTo c.bytes c.data, s)
    landPackets d.ctx (c.bytes / 0x1000 + 1) c.dstVA bs s

/-- What a unit command does at its end, and its fault: a transfer with another module lands, and a narrowing's figures go into
their record (R100). -/
def unitEnd (s : State) (d : UnitCmd) (f : Option Figures) : Option UFault × State :=
  match d.op, f with
  | .move c, _ => moveEnd s d c
  | _, some f => whole s (writeFigures s f)
  | _, none => (none, s)

/-- A started unit command ends: its writes are visible and its token signals (R48, R61); the last one of a thread that has
issued HALT lets it retire (R47). -/
def execUnitCommandComplete (tile u : Nat) (s : State) : Out :=
  if 48 ≤ tile ∨ 6 ≤ u ∨ tileWorks s tile = false then .next s
  else
    let x := unit s tile u
    match completesNext s [] x.started with
    | none => .next s
    | some d =>
      let r := unitEnd (setUnit s tile u { x with started := removeCmd d x.started, figures := none }) d x.figures
      if d.dead then .next r.2
      else match r.1 with
        | some f => .next (unitFault r.2 tile d f)
        | none => .next (settleHalt tile d.thread (signalToken r.2 tile d.thread d.token))

/-- A step close on a record outside a unit queue's walk: the scale unit, when it runs no command, closes it for a context (R100,
R101). A fault of it names thread 0 (DESIGN CHOICE, log entry 64: no thread issued it). -/
def execStepClose (tile c record : Nat) (summary : Option Nat) (s : State) : Out :=
  if 48 ≤ tile ∨ tileWorks s tile = false ∨ ctxActive s c = false ∨ runBit s tile c = false
      ∨ (unit s tile 3).started ≠ [] then .next s
  else match stepClose s tile c record summary with
    | .ok s => .next s
    | .error f => .next (unitFault s tile ⟨c, 0, 0, .stepClose record summary, none, 0, false, 0, false⟩ f)

/-- An arrival message of another member at a job barrier (R509). -/
def execBarrierArrival (m b : Nat) (s : State) : Out :=
  if 64 ≤ b ∨ m = modnum s ∨ inJob s m = false ∨ linkHolds s (some m) = true then .next s
  else .next (settleBarrier (barrierArrive s m b) b)

end Sys2Proof.Machine
end

