-- ==== Sys2Proof/Machine/TileCmds.lean ====
section
/-! DEFINITION. Tile commands other than the launch: SHARE_ZERO (R75) and PERF_SNAPSHOT (R76). -/

namespace Sys2Proof.Machine

/-- Whether a context has a READY or WAITING thread on a tile. -/
def tileThreadsBusy (s : State) (tile c : Nat) : Bool :=
  (listedThreads s).any fun e => decide (e.1 = tile ∧ e.2.2.ctx = c) && e.2.2.busy

/-- The engine of SHARE_ZERO (R75). -/
def shareZeroEngine (q : Nat) (c : QCmd) (s : State) : Verdict :=
  let mask := c.field 16 8
  let x := cmdCtx s q c
  let tiles := setBitsOf mask 48
  if c.reservedZero [(16, 8)] = false ∨ 2 ^ 48 ≤ mask then invalid s
  else if tiles.any (fun t => decide (fget s (Reg.TILE_SHARE_SIZE t x) < c.length) || tileThreadsBusy s t x) then invalid s
  else if mask = 0 then .done Status.okEmpty 0 s
  else okay (forEach tiles (fun t s =>
    memZero s (tileAddr t (fget s (Reg.TILE_SHARE_BASE t x) * 0x10000)) (c.length * 0x10000)) s)

/-- SHARE_ZERO (0x0101). -/
def execShareZero (q n : Nat) (s : State) : Out := runEngine 0x0101 q n (shareZeroEngine q) s

/-- A performance counter's value: the instructions issued, or a free value for a count of cycles (log entry 22). -/
def perfValue (s : State) (tile k : Nat) : Nat :=
  if k = 1 then reg64 s (Reg.TILE_PERF tile 1) else (Config.freeWord (s.free + 8 * tile + k)).toNat

/-- The engine of PERF_SNAPSHOT (R76). -/
def perfEngine (q : Nat) (c : QCmd) (s : State) : Verdict :=
  let mask := c.field 16 8
  let dest := c.field 24 8
  let x := cmdCtx s q c
  let tiles := setBitsOf mask 48
  if c.reservedZero [(16, 8), (24, 8)] = false ∨ 2 ^ 48 ≤ mask ∨ 6 < c.length ∨ dest % 8 ≠ 0 ∨ 2 ^ 48 ≤ dest then invalid s
  else if mask = 0 then .done Status.okEmpty 0 s
  else
    let data := tiles.flatMap fun t => (List.range c.length).flatMap fun k => leBytes 8 (perfValue s t k)
    match vaWrite s x dest data with
    | .error e => failAccess s q c (tiles.headD 0) 0 e
    | .ok s => okay { s with free := s.free + 512 }

/-- PERF_SNAPSHOT (0x0102). -/
def execPerfSnapshot (q n : Nat) (s : State) : Out := runEngine 0x0102 q n (perfEngine q) s

end Sys2Proof.Machine
end

