-- ==== Sys2Proof/Machine/Move.lean ====
section
/-! DEFINITION. The memory-move engine (R119 to R126, R142 to R148): MIGRATE, COPY, FILL and TRANSLATION_INVALIDATE. The first row of a
move checks its range and reserves it; each further row moves one page, in increasing order, as one step (R119, log entry 23). -/

namespace Sys2Proof.Machine

/-- The engine's island (R142). -/
def moveIsland : Nat := 79

/-- An uncorrectable read by the engine at page `i`: the context ends (R125, R138). -/
def moveUnread (s : State) (q : Nat) (c : QCmd) (i : Nat) (e : AccErr) : Verdict := failAccess s q c moveIsland i e

/-- A page of a range: its first page index and its leaf. -/
structure Page where
  index : Nat
  leaf  : Leaf
  deriving DecidableEq, Repr

/-- 4 KiB pages that a leaf covers. -/
def Leaf.pages (l : Leaf) : Nat := l.size / 0x1000

/-- Why a page of a range fails. -/
inductive PageErr where
  | invalid
  | unread (e : AccErr)
  deriving DecidableEq, Repr

/-- Whether the `k`-th 4 KiB of a leaf's home passes R116 for its tier. -/
def homeOk (s : State) (x : Nat) (l : Leaf) (k : Nat) : Bool :=
  let a := l.addr + 0x1000 * k
  if l.tier = 1 then
    let base := fget s (Reg.MEM_CTX_FLASH_BASE x) * 2 ^ 30
    decide (base ≤ a ∧ a + 0x1000 ≤ base + fget s (Reg.MEM_CTX_FLASH_SIZE x) * 2 ^ 30)
  else match homeAllowed s x a 0x1000 l with
    | .ok _ => true
    | .error _ => false

/-- The leaf of page `i` of a range at `va`. -/
def pageLeaf (s : State) (x va i : Nat) : Except PageErr Leaf :=
  match walk s x (va + 0x1000 * i) with
  | .error (.ptUncorr a) => .error (.unread (.ptUncorr a))
  | .error _ => .error .invalid
  | .ok l => .ok l

/-- What a walk over `n` pages from index `i` finds: the leaves, whole 2 MiB pages only (R143), and the page indices that fail (R116).
Over at most `fuel` entries. -/
def rangePages (s : State) (x va : Nat) : (fuel i n : Nat) → List (Nat × Except PageErr Leaf)
  | 0, _, _ => []
  | fuel + 1, i, n =>
    if n = 0 then []
    else match pageLeaf s x va i with
      | .error e => (i, .error e) :: rangePages s x va fuel (i + 1) (n - 1)
      | .ok l =>
        if l.big = true ∧ ((va + 0x1000 * i) % 0x200000 ≠ 0 ∨ n < 512) then (i, .error .invalid) :: rangePages s x va fuel (i + 1) (n - 1)
        else
          (match (List.range l.pages).find? (fun k => !homeOk s x l k) with
            | some k => (i + k, .error .invalid)
            | none => (i, .ok l)) :: rangePages s x va fuel (i + l.pages) (n - l.pages)

/-- The failing pages of a range. -/
def failedPages (ps : List (Nat × Except PageErr Leaf)) : List Nat :=
  ps.filterMap fun p => match p.2 with
    | .error .invalid => some p.1
    | _ => none

/-- The uncorrectable walk that stops the engine before any failing page. -/
def firstUnread (ps : List (Nat × Except PageErr Leaf)) : Option (Nat × AccErr) :=
  match ps.find? (fun p => match p.2 with | .error _ => true | .ok _ => false) with
  | some (i, .error (.unread e)) => some (i, e)
  | _ => none

/-- The leaves of a range that has no failing page. -/
def goodPages (ps : List (Nat × Except PageErr Leaf)) : List Page :=
  ps.filterMap fun p => match p.2 with
    | .ok l => some ⟨p.1, l⟩
    | .error _ => none

/-- The destination memory of a DST_TIER holds `n` bytes at an address (Table 4.9). -/
def destIn (tier a n : Nat) : Bool :=
  if tier = 0 then rangeIn isTileSram a n else if tier = 1 then isLp a && isLp (a + n - 1)
  else decide (a + n ≤ 2 ^ 40)

/-- The destination lies in the context's share of a DST_TIER. -/
def destShare (s : State) (x tier a n : Nat) : Bool :=
  if tier = 0 then (if tileOf a = tileOf (a + n - 1) then inSramShare s x a n else false)
  else if tier = 1 then inLpShare s x a n
  else
    let base := fget s (Reg.MEM_CTX_FLASH_BASE x) * 2 ^ 30
    decide (base ≤ a ∧ a + n ≤ base + fget s (Reg.MEM_CTX_FLASH_SIZE x) * 2 ^ 30)

/-- The first 4 KiB page of the range whose destination fails a test. -/
def firstUnit (n dst : Nat) (ok : Nat → Bool) : Option Nat := (List.range n).find? (fun i => !ok (dst + 0x1000 * i))

/-- Read a page's contents at its home. -/
def readHome (s : State) (p : Page) : Except AccErr (List Byte) :=
  if p.leaf.tier = 1 then
    match flashBadUnit s p.leaf.addr p.leaf.size with
    | some u => .error (.uncorr u)
    | none => .ok (flashRead s p.leaf.addr p.leaf.size)
  else match badUnit s p.leaf.addr p.leaf.size with
    | some u => .error (.uncorr (max u p.leaf.addr))
    | none => .ok (memRead s p.leaf.addr p.leaf.size)

/-- LOCAL 4 KiB blocks of a leaf's home. -/
def homeBlocks (l : Leaf) : List (Nat × Nat) := (List.range l.pages).map (fun k => (l.addr + 0x1000 * k, 0x1000))

/-- The corrections and retries that reading a page's home met (R113, R137). -/
def homeNoted (l : Leaf) (s : State) : State := if l.tier = 1 then noteRetries l.size s else noteCorrs (homeBlocks l) s

/-- Move one page to its place: contents, zeros over the source when asked, leaf entry, translations (R122, R126). -/
def movePage (s : State) (x va tier dst : Nat) (zero : Bool) (p : Page) (bs : List Byte) : State :=
  let s := if tier = 2 then countFlash (flashWrite s dst bs) bs.length else softWrite s dst bs
  let s := if zero then
      (if p.leaf.tier = 1 then countFlash (flashWrite s p.leaf.addr (List.replicate p.leaf.size 0)) p.leaf.size
        else memZero s p.leaf.addr p.leaf.size)
    else s
  let e := setBits (setBits (p.leaf.pte % 2 ^ 64) 7 6 (if tier = 2 then 1 else 0)) 54 12 (dst / 0x1000)
  invalidateRange x (va + 0x1000 * p.index) p.leaf.size (memWrite s p.leaf.entry (leBytes 8 (setBit e 8 false)))

/-- Set MIG on a page's leaf entry (R122). -/
def reservePage (p : Page) (s : State) : State := memWrite s p.leaf.entry (leBytes 8 (setBit (p.leaf.pte % 2 ^ 64) 8 true))

/-- A running move has completed its pages below `i`: it waits for the next, or completes. -/
def pagesDone (q : Nat) (c : QCmd) (i : Nat) (s : State) : Verdict :=
  if i < c.length then .wait (modCmd s q c.n (fun d => { d with done := i })) else okay s

/-- A move is accepted: it runs page by page. -/
def engage (q : Nat) (c : QCmd) (s : State) : Verdict := .wait (modCmd s q c.n (fun d => { d with engaged := true }))

/-- The next page of a running MIGRATE (R122, R125). A page that no longer translates stops it (log entry 23). -/
def migrateStep (q : Nat) (c : QCmd) (s : State) : Verdict :=
  let va := c.field 16 8
  let tier := c.field 24 1
  let dst := c.field 32 8
  let x := cmdCtx s q c
  match pageLeaf s x va c.done with
  | .error (.unread e) => moveUnread s q c c.done e
  | .error .invalid => invalid (releasePages x c s) c.done
  | .ok l =>
    let p : Page := ⟨c.done, l⟩
    match readHome s p with
    | .ok bs =>
      pagesDone q c (c.done + l.pages)
        (homeNoted l (movePage s x va tier (dst + 0x1000 * c.done) (bitAt (c.field 25 1) 0) p bs))
    | .error e =>
      if l.tier = 1 then .done Status.contextFault c.done (beginTeardown (flashUnread s x) x 2 (some (q, c.n, c.done)))
      else moveUnread s q c c.done e

/-- The engine of MIGRATE, its statuses in the order of R147. -/
def migrateEngine (q : Nat) (c : QCmd) (s : State) : Verdict :=
  let va := c.field 16 8
  let tier := c.field 24 1
  let mflags := c.field 25 1
  let dst := c.field 32 8
  let x := cmdCtx s q c
  let n := c.length
  if c.engaged then migrateStep q c s
  else if c.reservedZero [(16, 8), (24, 2), (32, 8)] = false ∨ 2 < tier ∨ 1 < mflags ∨ va % 0x1000 ≠ 0 ∨ dst % 0x1000 ≠ 0
      ∨ 2 ^ 48 ≤ va ∨ 2 ^ 55 ≤ dst then invalid s
  else
    let found := rangePages s x va n 0 n
    match firstUnread found with
    | some (i, e) => moveUnread s q c i e
    | none =>
      let ps := goodPages found
      let bad := failedPages found ++ (ps.filter (fun p => p.leaf.mig)).map (·.index)
        ++ (firstUnit n dst (fun a => destIn tier a 0x1000)).toList
        ++ (if ps.any (fun p => p.leaf.big) ∧ dst % 0x200000 ≠ 0 then [0] else [])
        ++ (ps.filter (fun p => p.leaf.big && decide ((dst + 0x1000 * p.index) % 0x200000 ≠ 0))).map (·.index)
      match bad.min? with
      | some i => invalid s i
      | none =>
        let refused := (if fget s (Reg.MEM_CTX_CFG_PLACE x) = 0 then [0] else [])
          ++ (ps.filter (fun p => decide (p.leaf.kind ≠ 0))).map (·.index)
          ++ (if tier = 2 then (firstUnit n dst (fun a => destShare s x 2 a 0x1000)).toList else [])
        match refused.min? with
        | some i => refuse s i
        | none =>
          if tier ≠ 2 ∧ (List.range n).any (fun i => !destShare s x tier (dst + 0x1000 * i) 0x1000) then noResource s
          else engage q c (forEach ps reservePage s)

/-- MIGRATE (0x0300). -/
def execMigrate (q n : Nat) (s : State) : Out := runEngine 0x0300 q n (migrateEngine q) s

/-- The LOCAL address of page `i` of a range: context data, or readable, in TIER 0 (R116, R144, R145). -/
def tier0Page (s : State) (x va : Nat) (write : Bool) (i : Nat) : Except PageErr Nat :=
  match pageLeaf s x va i with
  | .error e => .error e
  | .ok l =>
    let k := (va + 0x1000 * i) % l.size / 0x1000
    if l.tier ≠ 0 ∨ l.kind = 1 ∨ (write = true ∧ (l.kind ≠ 0 ∨ l.w = false)) ∨ homeOk s x l k = false then .error .invalid
    else .ok (l.addr + 0x1000 * k)

/-- The LOCAL addresses of `n` pages from index `i`, or the first that fails. -/
def tier0Pages (s : State) (x va : Nat) (write : Bool) : (n i : Nat) → Except (Nat × PageErr) (List Nat)
  | 0, _ => .ok []
  | n + 1, i =>
    match tier0Page s x va write i with
    | .error e => .error (i, e)
    | .ok a => match tier0Pages s x va write n (i + 1) with
      | .error e => .error e
      | .ok ps => .ok (a :: ps)

/-- Settle a command at a failed page. -/
def pageFail (s : State) (q : Nat) (c : QCmd) (i : Nat) : PageErr → Verdict
  | .invalid => invalid s i
  | .unread e => moveUnread s q c i e

/-- The next page of a running COPY, translated again (R123, R124). -/
def copyStep (q : Nat) (c : QCmd) (s : State) : Verdict :=
  let x := cmdCtx s q c
  let i := c.done
  match tier0Page s x (c.field 16 8) false i, tier0Page s x (c.field 24 8) true i with
  | .error e, _ => pageFail s q c i e
  | .ok _, .error e => pageFail s q c i e
  | .ok a, .ok b =>
    match badUnit s a 0x1000 with
    | some u => moveUnread s q c i (.uncorr (max u a))
    | none => pagesDone q c (i + 1) (noteCorr a 0x1000 (softWrite s b (memRead s a 0x1000)))

/-- The engine of COPY (R144). -/
def copyEngine (q : Nat) (c : QCmd) (s : State) : Verdict :=
  let src := c.field 16 8
  let dst := c.field 24 8
  let x := cmdCtx s q c
  let n := c.length
  if c.engaged then copyStep q c s
  else if c.reservedZero [(16, 16)] = false ∨ src % 0x1000 ≠ 0 ∨ dst % 0x1000 ≠ 0 ∨ 2 ^ 48 ≤ src ∨ 2 ^ 48 ≤ dst
      ∨ (src < dst + 0x1000 * n ∧ dst < src + 0x1000 * n) then invalid s
  else match tier0Pages s x src false n 0, tier0Pages s x dst true n 0 with
    | .ok as, .ok bs =>
      if as.any (fun a => bs.contains a) then invalid s (as.findIdx (fun a => bs.contains a)) else engage q c s
    | .error (i, e), .error (j, f) => if j < i then pageFail s q c j f else pageFail s q c i e
    | .error (i, e), .ok _ => pageFail s q c i e
    | .ok _, .error (j, f) => pageFail s q c j f

/-- COPY (0x0301). -/
def execCopy (q n : Nat) (s : State) : Out := runEngine 0x0301 q n (copyEngine q) s

/-- A page filled with a pattern. -/
def fillPage (c : QCmd) : List Byte := (List.replicate 512 ((c.packet.drop 24).take 8)).flatten

/-- The next page of a running FILL, translated again (R123, R124). -/
def fillStep (q : Nat) (c : QCmd) (s : State) : Verdict :=
  match tier0Page s (cmdCtx s q c) (c.field 16 8) true c.done with
  | .error e => pageFail s q c c.done e
  | .ok a => pagesDone q c (c.done + 1) (softWrite s a (fillPage c))

/-- The engine of FILL (R145). -/
def fillEngine (q : Nat) (c : QCmd) (s : State) : Verdict :=
  let dst := c.field 16 8
  if c.engaged then fillStep q c s
  else if c.reservedZero [(16, 16)] = false ∨ dst % 0x1000 ≠ 0 ∨ 2 ^ 48 ≤ dst then invalid s
  else match tier0Pages s (cmdCtx s q c) dst true c.length 0 with
    | .error (i, e) => pageFail s q c i e
    | .ok _ => engage q c s

/-- FILL (0x0302). -/
def execFill (q n : Nat) (s : State) : Out := runEngine 0x0302 q n (fillEngine q) s

/-- The engine of TRANSLATION_INVALIDATE (R146). -/
def invalidateEngine (q : Nat) (c : QCmd) (s : State) : Verdict :=
  let va := c.field 16 8
  let x := cmdCtx s q c
  if c.reservedZero [(16, 8), (24, 1)] = false ∨ 1 < c.field 24 1 ∨ va % 0x1000 ≠ 0 ∨ 2 ^ 48 ≤ va then invalid s
  else okay (if bitAt (c.field 24 1) 0 then invalidateAll x s else invalidateRange x va (0x1000 * c.length) s)

/-- TRANSLATION_INVALIDATE (0x0303). -/
def execTranslationInvalidate (q n : Nat) (s : State) : Out := runEngine 0x0303 q n (invalidateEngine q) s

end Sys2Proof.Machine
end

