-- ==== Sys2Proof/Machine/Kv.lean ====
section
/-! DEFINITION. Chicory's commands (R155 to R176): pool operations, KV_WRITE, ATTEND and STEP_RETIRE. -/

namespace Sys2Proof.Machine

/-- Chicory's island (R596). -/
def kvIsland : Nat := 69

/-- An earlier KV command of the queue that Chicory has not taken yet (R157). -/
def kvBehind (s : State) (q n : Nat) : Bool :=
  ((queue s q).out.takeWhile (fun d => decide (d.n ≠ n))).any
    (fun d => decide (d.phase = .started ∧ d.opcode / 0x100 = 2) && !d.engaged)

/-- An uncorrectable unit in the tables of a context's region (log entry 25). -/
def kvTablesBad (s : State) (c : Nat) : Option Nat :=
  s.uncorr.find? (fun u => decide (kvBase s c ≤ u ∧ u < kvSlotsAddr s c))

/-- Run a KV engine in queue order, with the checks common to all: a region, reserved fields, readable tables (R173). What it
reads of the region and of its operands may have been corrected (R137). -/
def kvEngine (q n : Nat) (used : List (Nat × Nat)) (f : Nat → QCmd → State → Verdict) (c : QCmd) (s : State) : Verdict :=
  let x := cmdCtx s q c
  if kvBehind s q n then .wait s
  else if kvSize s x = 0 then refuse s
  else if c.reservedZero used = false then invalid s
  else match kvTablesBad s x with
    | some u => failAccess s q c kvIsland 0 (.uncorr u)
    | none => (f x c s).after (fun _ => noteStacks)

/-- SEQ. -/
def QCmd.seq (c : QCmd) : Nat := c.field 16 4
/-- AUX. -/
def QCmd.aux (c : QCmd) : Nat := c.field 20 4

/-- The sequences of a range all exist and have VALID as wanted. -/
def seqRange (s : State) (x first n : Nat) (valid : Bool) : Bool :=
  decide (first + n ≤ kvSeqMax s x) && (List.range n).all (fun i => decide (seqValid s x (first + i) = valid))

/-- A sequence exists and is VALID. -/
def seqOk (s : State) (x q : Nat) : Bool := decide (q < kvSeqMax s x) && seqValid s x q

/-- Settle with NO_RESOURCE and 0x3003 (R163). -/
def exhausted (s : State) (x : Nat) : Verdict := noResource (raiseCtx s 0x3003 kvIsland x [])

/-! ### Sequences -/

/-- SEQ_CREATE's effect on one sequence: VALID, empty, no valid entry. -/
def createSeq (x window flags q : Nat) (s : State) : State :=
  setSeq (memZero s (kvPtAddr s x q 0) (4 * kvPtEntries s x)) x q 0 0 window flags

/-- The engine of SEQ_CREATE. -/
def seqCreateEngine (x : Nat) (c : QCmd) (s : State) : Verdict :=
  let k := c.field 26 1
  if 3 < k ∨ seqRange s x c.seq c.length false = false then invalid s
  else if bitAt k 0 = true ∧ 8 < wideCount s + c.length then noResource s
  else okay (forRange c.length (fun i s => createSeq x c.aux (1 + 2 * (k % 2) + 4 * (k / 2)) (c.seq + i) s) s)

/-- SEQ_CREATE (0x0200). -/
def execSeqCreate (q n : Nat) (s : State) : Out :=
  runEngine 0x0200 q n (kvEngine q n [(16, 8), (26, 1)] seqCreateEngine) s

/-- Drop every valid entry of a sequence and mark it not VALID. -/
def freeSeq (x q : Nat) (s : State) : State :=
  memPut (forRange (kvPtEntries s x) (fun i s => dropEntry s x q i) s) (kvSeqAddr s x q + 12) 1 0

/-- The engine of SEQ_FREE. -/
def seqFreeEngine (x : Nat) (c : QCmd) (s : State) : Verdict :=
  if seqRange s x c.seq c.length true = false then invalid s
  else okay (forRange c.length (fun i s => freeSeq x (c.seq + i) s) s)

/-- SEQ_FREE (0x0201). -/
def execSeqFree (q n : Nat) (s : State) : Out := runEngine 0x0201 q n (kvEngine q n [(16, 4)] seqFreeEngine) s

/-- One child of a fork: the parent's descriptor and entries, one more reference per entry. -/
def forkSeq (x parent child : Nat) (s : State) : State :=
  let s := memWrite s (kvSeqAddr s x child) (memRead s (kvSeqAddr s x parent) 64)
  forRange (kvPtEntries s x) (fun i s =>
    let s := memPut s (kvPtAddr s x child i) 4 (memNat s (kvPtAddr s x parent i) 4)
    match ptSlot s x parent i with
    | some k => setSlotRef s x k (slotRef s x k + 1)
    | none => s) s

/-- The engine of SEQ_FORK. -/
def seqForkEngine (x : Nat) (c : QCmd) (s : State) : Verdict :=
  if seqOk s x c.aux = false ∨ seqRange s x c.seq c.length false = false then invalid s
  else if seqWide s x c.aux = true ∧ 8 < wideCount s + c.length then noResource s
  else okay (forRange c.length (fun i s => forkSeq x c.aux (c.seq + i) s) s)

/-- SEQ_FORK (0x0202). -/
def execSeqFork (q n : Nat) (s : State) : Out := runEngine 0x0202 q n (kvEngine q n [(16, 8)] seqForkEngine) s

/-! ### Prefix matching (R166) -/

/-- Match chunks from `i`; the result is the number of accepted pages. Over at most `fuel` chunks. -/
def matchChunks (x q : Nat) : (fuel i pkey pslot : Nat) → List Byte → State → Nat × State
  | 0, i, _, _, _, s => (i, s)
  | fuel + 1, i, pkey, pslot, toks, s =>
    let chunk := toks.take 64
    let key := prefixKey pkey chunk
    match indexFind s x key (fun k => decide (slotTokens s x k = chunk ∧ slotParent s x k = pslot)) with
    | some k =>
      let s := setPt s x q i (some k)
      let s := setSlotState (setSlotRef s x k (slotRef s x k + 1)) x k 1
      matchChunks x q fuel (i + 1) key k (toks.drop 64) s
    | none =>
      let hit := (indexFind s x key (fun k => decide (slotTokens s x k ≠ chunk))).isSome
      (i, if hit then finc s (Reg.KVM_CTX_CNT_COUNT x 2) else s)

/-- The engine of PREFIX_MATCH. -/
def prefixMatchEngine (q : Nat) (x : Nat) (c : QCmd) (s : State) : Verdict :=
  if seqOk s x c.seq = false ∨ seqLength s x c.seq ≠ 0 ∨ seqWide s x c.seq = true ∨ seqShare s x c.seq = false
      ∨ kvPtEntries s x * 16 < c.length ∨ 2 ^ 48 ≤ c.field 32 8 then invalid s
  else match vaRead s x (c.field 32 8) (4 * c.length) with
    | .error e => failAccess s q c kvIsland 0 e
    | .ok toks =>
      let (k, s) := matchChunks x c.seq (c.length / 16) 0 0 noSlot toks s
      okay (fadd (setSeqLength s x c.seq (16 * k)) (Reg.KVM_CTX_CNT_COUNT x 1) k) (min k 0xFFFF)

/-- PREFIX_MATCH (0x0203). -/
def execPrefixMatch (q n : Nat) (s : State) : Out :=
  runEngine 0x0203 q n (kvEngine q n [(16, 4), (32, 8)] (prefixMatchEngine q)) s

/-! ### Extending, truncating, trimming -/

/-- Rows of positions of a page hold an uncorrectable unit, over every layer. -/
def pageRowsBad (s : State) (x slot p count : Nat) : Option Nat :=
  ((List.range count).flatMap fun t => (kvRows s).filterMap fun (l, v, h) =>
    badUnit s (kvRowAddr s x slot p l v h t) (kvDim s * kvElem s)).head?

/-- An uncorrectable unit that copying page `i` of a sequence would read (R161). -/
def cowBad (s : State) (x q i : Nat) : Option Nat :=
  match ptSlot s x q i with
  | none => none
  | some k => if slotRef s x k ≤ 1 then none
    else pageRowsBad s x k (seqPage s x q) (min (seqPage s x q) (seqLength s x q - i * seqPage s x q))

/-- Append one position with its token ID. -/
def addPosition (x q : Nat) (tok : List Byte) (s : State) : State :=
  let p := seqPage s x q
  let len := seqLength s x q
  let i := len / p
  let t := len % p
  let s := match ptSlot s x q i with
    | some _ => s
    | none => match allocSlot s x (seqWide s x q) with
      | some (k, s) => setPt s x q i (some k)
      | none => s
  match ptSlot s x q i with
  | none => s
  | some k =>
    let s := undefPosition x k p t s
    let s := setSlotMask (setSlotFilled s x k (t + 1)) x k 0
    let s := if seqWide s x q then s else memWrite s (kvMetaAddr s x k + 32 + 4 * t) tok
    setSeqLength s x q (len + 1)

/-- 1 where the last page of a sequence is partly filled and shared, so that an extension must own it first. -/
def tailShared (s : State) (x sq : Nat) : Nat :=
  match ptSlot s x sq (seqLength s x sq / seqPage s x sq) with
  | some k => if seqLength s x sq % seqPage s x sq ≠ 0 ∧ 1 < slotRef s x k then 1 else 0
  | none => 0

/-- Pages that a run of positions touches. -/
def pagesOf (p first n : Nat) : List Nat := (List.range ((first + n - 1) / p + 1 - first / p)).map (· + first / p)

/-- Slots that appending positions takes: one for every page without a valid entry, and one for a shared tail (R161, R163). -/
def extendNeeds (s : State) (x sq n : Nat) : Nat :=
  countIf (fun i => (ptSlot s x sq i).isNone) (pagesOf (seqPage s x sq) (seqLength s x sq) n) + tailShared s x sq

/-- The engine of SEQ_EXTEND. -/
def seqExtendEngine (q : Nat) (x : Nat) (c : QCmd) (s : State) : Verdict :=
  let sq := c.seq
  let p := seqPage s x sq
  let len := seqLength s x sq
  if seqOk s x sq = false ∨ kvPtEntries s x * p < len + c.length ∨ 2 ^ 48 ≤ c.field 32 8 then invalid s
  else match vaRead s x (c.field 32 8) (4 * c.length) with
    | .error e => failAccess s q c kvIsland 0 e
    | .ok toks =>
      if slotsAvail s x (seqWide s x sq) < extendNeeds s x sq c.length then exhausted s x
      else match (if len % p ≠ 0 then cowBad s x sq (len / p) else none) with
        | some u => failAccess s q c kvIsland 0 (.uncorr u)
        | none =>
          let s := if len % p ≠ 0 then (ownPage s x sq (len / p)).getD s else s
          okay (forEach (chunks c.length 4 toks) (fun tok s => addPosition x sq tok s) s)

/-- SEQ_EXTEND (0x0204). -/
def execSeqExtend (q n : Nat) (s : State) : Out :=
  runEngine 0x0204 q n (kvEngine q n [(16, 4), (32, 8)] (seqExtendEngine q)) s

/-- The engine of SEQ_TRUNCATE. -/
def seqTruncateEngine (x : Nat) (c : QCmd) (s : State) : Verdict :=
  let len := seqLength s x c.seq
  if seqOk s x c.seq = false ∨ len < c.length then invalid s
  else
    let p := seqPage s x c.seq
    let keep := ceilDiv (len - c.length) p
    let s := forRange (ceilDiv len p - keep) (fun i s => dropEntry s x c.seq (keep + i)) s
    okay (setSeqLength s x c.seq (len - c.length))

/-- SEQ_TRUNCATE (0x0205). -/
def execSeqTruncate (q n : Nat) (s : State) : Out := runEngine 0x0205 q n (kvEngine q n [(16, 4)] seqTruncateEngine) s

/-- The engine of SEQ_TRIM (R156). -/
def seqTrimEngine (x : Nat) (c : QCmd) (s : State) : Verdict :=
  let trim := seqTrimOf s x c.seq + c.length
  if seqOk s x c.seq = false ∨ seqLength s x c.seq < trim then invalid s
  else
    let s := memPut s (kvSeqAddr s x c.seq + 4) 4 trim
    okay (forRange (trim / seqPage s x c.seq) (fun i s => dropEntry s x c.seq i) s)

/-- SEQ_TRIM (0x0206). -/
def execSeqTrim (q n : Nat) (s : State) : Out := runEngine 0x0206 q n (kvEngine q n [(16, 4)] seqTrimEngine) s

/-! ### KV_WRITE (R172) -/

/-- ATTN_PARAMS of the resident image. -/
def attnSection (s : State) : List Byte := match s.image with | some i => i.attn | none => []

/-- Scale of K (`v = 0`) or V of a head in a layer (R167). -/
def kvScale (s : State) (layer v head : Nat) : Word :=
  if v = 0 then Config.attnKScale (attnSection s) layer head else Config.attnVScale (attnSection s) layer head

/-- One row of one head, narrowed from BF16: bytes and saturated elements. -/
def narrowRow (s : State) (scale : Word) (src : List Byte) : List Byte × Nat :=
  let t := fget s Reg.KVM_GEOM_KV_FMT
  let f := val32 (rne32 ((Num.pow2 0).div (val32 scale)))
  let n := narrowPlain t 0 f ((List.range (kvDim s)).map (fun i => valBf16 (fieldAt src (2 * i) 2)))
  (packElems (8 * kvElem s) n.codes, countIf id n.sat)

/-- The rows of one layer: plane and head. -/
def layerRows (s : State) : List (Nat × Nat) :=
  (List.range 2).flatMap fun v => (List.range (kvHeads s)).map fun h => (v, h)

/-- Write one position of a layer from its source bytes. -/
def writePosition (x q layer pos : Nat) (src : List Byte) (s : State) : State :=
  let p := seqPage s x q
  match ptSlot s x q (pos / p) with
  | none => s
  | some k =>
    let row := 2 * kvDim s
    let s := forEach (layerRows s) (fun (v, h) s =>
      let (bs, sat) := narrowRow s (kvScale s layer v h) (slice src ((v * kvHeads s + h) * row) row)
      fadd (memWrite s (kvRowAddr s x k p layer v h (pos % p)) bs) (Reg.KVM_CTX_CNT_COUNT x 3) sat) s
    if seqWide s x q = false ∧ pos % p = 15 then setSlotMask s x k (setBit (slotMask s x k) layer true) else s

/-- Write positions in order. -/
def writePositions (x q layer : Nat) : (pos : Nat) → List (List Byte) → State → State
  | _, [], s => s
  | pos, src :: rest, s => writePositions x q layer (pos + 1) rest (writePosition x q layer pos src s)

/-- An uncorrectable unit that writing rows of one layer would have to read (R599). -/
def rowsPartial (s : State) (x q layer first n : Nat) : Option Nat :=
  let p := seqPage s x q
  ((List.range n).flatMap fun i => match ptSlot s x q ((first + i) / p) with
    | none => []
    | some k => (layerRows s).filterMap fun (v, h) =>
        badPartial s (kvRowAddr s x k p layer v h ((first + i) % p)) (kvDim s * kvElem s)).head?

/-- Is this page of the sequence shared with another sequence or the index? -/
def sharedPage (s : State) (x sq i : Nat) : Bool :=
  match ptSlot s x sq i with
  | some k => decide (1 < slotRef s x k)
  | none => false

/-- The engine of KV_WRITE. -/
def kvWriteEngine (q : Nat) (x : Nat) (c : QCmd) (s : State) : Verdict :=
  let sq := c.seq
  let pos := c.aux
  let layer := c.field 24 2
  let bytes := 4 * kvHeads s * kvDim s
  if seqOk s x sq = false ∨ pos < seqTrimOf s x sq ∨ seqLength s x sq < pos + c.length ∨ kvLayers s ≤ layer
      ∨ 2 ^ 48 ≤ c.field 32 8 then invalid s
  else match vaRead s x (c.field 32 8) (bytes * c.length) with
    | .error e => failAccess s q c kvIsland 0 e
    | .ok src =>
      let pages := pagesOf (seqPage s x sq) pos c.length
      let need := countIf (sharedPage s x sq) pages
      if slotsAvail s x (seqWide s x sq) < need then exhausted s x
      else match (pages.filterMap (cowBad s x sq)).head?, rowsPartial s x sq layer pos c.length with
        | some u, _ => failAccess s q c kvIsland 0 (.uncorr u)
        | none, some u => failAccess s q c kvIsland 0 (.uncorr u)
        | none, none =>
          let s := forEach pages (fun i s => (ownPage s x sq i).getD s) s
          let s := writePositions x sq layer pos (chunks c.length bytes src) s
          okay (tryPages x sq 0 pages s)

/-- KV_WRITE (0x0207). -/
def execKvWrite (q n : Nat) (s : State) : Out :=
  runEngine 0x0207 q n (kvEngine q n [(16, 10), (32, 8)] (kvWriteEngine q)) s

/-! ### ATTEND (R155, R158, R167 to R171) -/

/-- Window of a layer for a sequence; none for a full layer (R155, Table 5.2). -/
def layerWindow (s : State) (layer window : Nat) : Option Nat :=
  if Config.attnWindowed (attnSection s) layer then
    some (if window = 0 then Config.attnWindow (attnSection s) layer else window)
  else none

/-- Whether a row at query position `qp` may attend position `t` (R167). -/
def mayAttend (trim len : Nat) (w : Option Nat) (mask : List Byte) (qp t : Nat) : Bool :=
  decide (trim ≤ t ∧ t < len ∧ t ≤ qp)
    && (match w with | none => true | some w => decide (qp + 1 ≤ t + w))
    && !bitAt (fieldAt mask (t / 8) 1) (t % 8)

/-- The range of positions that `rows` rows from `qpos` can attend: first, and one past the last. -/
def attendRange (trim len : Nat) (w : Option Nat) (qpos rows : Nat) : Nat × Nat :=
  let lo := match w with | none => trim | some w => max trim (qpos + 1 - w)
  (lo, min len (qpos + rows))

/-- The result of R87 over exact operand pairs without group scales, in groups of 32. -/
def dotGroups : (fuel : Nat) → List (Num × Num) → Word → Word
  | 0, _, acc => acc
  | fuel + 1, ps, acc =>
    if ps = [] then acc
    else if (ps.take 32).any (fun p => !p.1.isFin || !p.2.isFin) then 0x7FC00000
    else dotGroups fuel (ps.drop 32) (fadd32 acc (rne32 (groupSum ((ps.take 32).map (fun p => p.1.mul p.2)))))

/-- A dot product accumulated per R87. -/
def dotR87 (ps : List (Num × Num)) : Word := dotGroups (ps.length / 32 + 1) ps 0

/-- A partial result of one row and head. -/
structure Partial where
  m : Word
  l : Word
  o : List Word
  deriving DecidableEq, Repr

/-- The greater of two FP32 values; a NaN wins. -/
def maxNan (a b : Word) : Word :=
  if (val32 a).isNan || (val32 b).isNan then 0x7FC00000 else if flt32 a b then b else a

/-- exp2 of a difference of two running maxima or scores, rounded to FP32; −infinity less anything stays −infinity, and
exp2(−infinity) is 0 (R167). -/
def expDiff (a m : Word) : Word := fexp2 (if a = 0xFF800000 then a else fsub32 a m)

/-- A row of K or V: its elements' values. -/
def kvRow (s : State) (x slot p layer v h t : Nat) : List Num :=
  let e := kvElem s
  let bs := memRead s (kvRowAddr s x slot p layer v h t) (kvDim s * e)
  (List.range (kvDim s)).map fun i => elemVal (fget s Reg.KVM_GEOM_KV_FMT) (fieldAt bs (i * e) e)

/-- The slot of a position in a snapshot. -/
def snapSlot (a : Attend) (t : Nat) : Option Nat := (a.slots.find? (fun e => decide (e.1 = t / a.page))).map (·.2)

/-- One block's update (R167): `ok` says which positions the row may attend. -/
def attendBlock (s : State) (a : Attend) (layer h : Nat) (c : Word) (qv : List Num) (ok : Nat → Bool) (block : Nat)
    (r : Partial) : Partial :=
  let ts := ((List.range 16).map (· + 16 * block)).filter (fun t => decide (a.trim ≤ t ∧ t < a.length))
  let sc := ts.map fun t =>
    if ok t then match snapSlot a t with
      | some k => fmul32 (dotR87 (qv.zip (kvRow s a.ctx k a.page layer 0 h (t % a.page)))) c
      | none => 0xFF800000
    else 0xFF800000
  let m' := sc.foldl maxNan r.m
  if m' = 0xFF800000 then r
  else
    let al := expDiff r.m m'
    let p := sc.map (expDiff · m')
    let l := rne32 (p.foldl (fun e v => e.add (val32 v)) ((val32 r.l).mul (val32 al)))
    let pb := p.map (fun v => valBf16 (narrowElem 1 0 (val32 v)).1)
    let rows := ts.map fun t => match snapSlot a t with
      | some k => kvRow s a.ctx k a.page layer 1 h (t % a.page)
      | none => []
    let o := (List.range (kvDim s)).map fun i =>
      let d := dotR87 (pb.zip (rows.map (fun v => v.getD i .zero)))
      rne32 (((val32 (r.o.getD i 0)).mul (val32 al)).add (val32 d))
    ⟨m', l, o⟩

/-- The update of R167 with another tile's partial (R169). -/
def combine (a b : Partial) : Partial :=
  let m := maxNan a.m b.m
  if m = 0xFF800000 then a
  else
    let ea := expDiff a.m m
    let eb := expDiff b.m m
    let f (u v : Word) : Word := rne32 (((val32 u).mul (val32 ea)).add ((val32 v).mul (val32 eb)))
    ⟨m, f a.l b.l, (a.o.zip b.o).map (fun p => f p.1 p.2)⟩

/-- Contiguous runs of blocks for `tiles` tiles: (first, count); lower tiles take the extra blocks (R169). -/
def blockRuns (first blocks tiles : Nat) : List (Nat × Nat) :=
  (List.range tiles).map fun i =>
    (first + i * (blocks / tiles) + min i (blocks % tiles), blocks / tiles + b2n (decide (i < blocks % tiles)))

/-- Output and LSE of one row and head, and whether it was wholly masked (R168, R169). -/
def attendHead (s : State) (a : Attend) (layer h : Nat) (qv : List Num) (ok : Nat → Bool) (runs : List (Nat × Nat)) :
    List Word × Word × Bool :=
  let c := fmul32 (Config.attnSmScale (attnSection s) layer) (Config.attnKScale (attnSection s) layer h)
  let empty : Partial := ⟨0xFF800000, 0, List.replicate (kvDim s) 0⟩
  let parts := (runs.filter (fun r => decide (0 < r.2))).map fun r =>
    (List.range r.2).foldl (fun acc i => attendBlock s a layer h c qv ok (r.1 + i) acc) empty
  let r := match parts with
    | [] => empty
    | p :: rest => rest.foldl combine p
  if (val32 r.l).isZero then (List.replicate (kvDim s) 0, 0xFF800000, true)
  else
    let f := rne32 ((val32 (Config.attnVScale (attnSection s) layer h)).div (val32 r.l))
    (r.o.map (fmul32 · f), flse r.m r.l, false)

/-- The landing buffers of the tiles that stream positions hold undefined bytes afterwards (R170). -/
def clobberLanding (s : State) (x unit_ : Nat) (tiles : List Nat) (runs : List (Nat × Nat)) : State :=
  forEach (tiles.zip runs) (fun (t, r) s =>
    if r.2 = 0 then s else
      let (f, s) := takeFree s
      memWrite s (tileAddr t ((fget s (Reg.TILE_SHARE_BASE t x) + unit_) * 0x10000)) (freeBytes f 0x40000)) s

/-- Compute a running ATTEND and write its outputs. -/
def attendFinish (q : Nat) (c : QCmd) (a : Attend) (s : State) : Verdict :=
  let layer := c.field 24 2
  let qpos := c.field 28 4
  let rows := c.length
  let group := fget s Reg.KVM_GEOM_GROUP
  let heads := kvHeads s * group
  let tiles := setBitsOf (c.field 56 8) 48
  let w := layerWindow s layer a.window
  let (lo, hi) := attendRange a.trim a.length w qpos rows
  let blocks := if lo < hi then (hi - 1) / 16 + 1 - lo / 16 else 0
  let runs := blockRuns (lo / 16) blocks tiles.length
  let s := { s with attends := s.attends.filter (fun b => decide (b.q ≠ q ∨ b.n ≠ c.n)) }
  let bad := ((List.range (hi - lo)).flatMap fun i => match snapSlot a (lo + i) with
    | none => []
    | some k => (layerRows s).filterMap fun (v, h) =>
        badUnit s (kvRowAddr s a.ctx k a.page layer v h ((lo + i) % a.page)) (kvDim s * kvElem s)).head?
  match bad with
  | some u => failAccess s q c kvIsland 0 (.uncorr u)
  | none =>
    match vaRead s a.ctx (c.field 32 8) (rows * heads * kvDim s * 2),
        (if bitAt (c.field 26 1) 0 then vaRead s a.ctx (c.field 48 8) (ceilDiv a.length 8) else .ok []) with
    | .error e, _ => failAccess s q c kvIsland 0 e
    | .ok _, .error e => failAccess s q c kvIsland 0 e
    | .ok qs, .ok mask =>
      let res := (List.range rows).map fun r => (List.range heads).map fun j =>
        let qv := (List.range (kvDim s)).map fun i => valBf16 (fieldAt qs (((r * heads + j) * kvDim s + i) * 2) 2)
        attendHead s a layer (j / group) qv (mayAttend a.trim a.length w mask (qpos + r)) runs
      let out := fp32Bytes (res.flatMap fun row => row.flatMap (·.1)) ++ fp32Bytes (res.flatMap fun row => row.map (·.2.1))
      let s := clobberLanding s a.ctx (c.field 27 1) tiles runs
      match vaWrite s a.ctx (c.field 40 8) out with
      | .error e => failAccess s q c kvIsland 0 e
      | .ok s => okay (fadd s (Reg.KVM_CTX_CNT_COUNT a.ctx 0) (countIf (fun row => row.any (·.2.2)) res))

/-- Every selected tile runs the context (R171). -/
def attendRuns (s : State) (x mask : Nat) : Bool := (setBitsOf mask 48).all (fun t => runBit s t x && tileWorks s t)

/-- The snapshot of an ATTEND and its pins, as one pool operation (R158). -/
def attendSnapshot (q : Nat) (x : Nat) (c : QCmd) (s : State) : Attend × State :=
  let sq := c.seq
  let p := seqPage s x sq
  let len := seqLength s x sq
  let slots := (List.range (ceilDiv len p)).filterMap fun i => (ptSlot s x sq i).map fun k => (i, k)
  let a : Attend := ⟨q, c.n, x, c.aux, len, seqTrimOf s x sq, seqWindow s x sq, p, slots⟩
  let (lo, hi) := attendRange a.trim len (layerWindow s (c.field 24 2) a.window) (c.field 28 4) c.length
  let read := slots.filter (fun e => decide (lo < hi ∧ lo / p ≤ e.1 ∧ e.1 ≤ (hi - 1) / p))
  (a, forEach read (fun e s => if 0 < s32diff c.aux (slotPin s x e.2) then setSlotPin s x e.2 c.aux else s) s)

/-- The engine of ATTEND. -/
def attendEngine (q : Nat) (x : Nat) (c : QCmd) (s : State) : Verdict :=
  match s.attends.find? (fun a => decide (a.q = q ∧ a.n = c.n)) with
  | some a => if attendRuns s x (c.field 56 8) then attendFinish q c a s else .wait s
  | none =>
    let mask := c.field 56 8
    if seqOk s x c.seq = false ∨ 32 < c.length ∨ kvLayers s ≤ c.field 24 2 ∨ 1 < c.field 26 1 ∨ mask = 0 ∨ 2 ^ 48 ≤ mask
        ∨ s32diff c.aux (kvRetired s x) ≤ 0 ∨ 2 ^ 48 ≤ c.field 32 8 ∨ 2 ^ 48 ≤ c.field 40 8 then
      invalid s
    else
      let heads := kvHeads s * fget s Reg.KVM_GEOM_GROUP
      let outBytes := 4 * (c.length * heads * kvDim s + c.length * heads)
      match vaRange s x (c.field 32 8) (c.length * heads * kvDim s * 2) .read, vaRange s x (c.field 40 8) outBytes .write,
          (if bitAt (c.field 26 1) 0 then vaRange s x (c.field 48 8) (ceilDiv (seqLength s x c.seq) 8) .read else .ok []) with
      | .error e, _, _ => failAccess s q c kvIsland 0 e
      | .ok _, .error e, _ => failAccess s q c kvIsland 0 e
      | .ok _, .ok _, .error e => failAccess s q c kvIsland 0 e
      | .ok _, .ok _, .ok _ =>
        match (setBitsOf mask 48).find? (fun t => decide (fget s (Reg.TILE_SHARE_SIZE t x) < c.field 27 1 + 4)) with
        | some t => noResource s t
        | none =>
          let (a, s) := attendSnapshot q x c s
          let s := { modCmd s q c.n (fun d => { d with engaged := true }) with attends := s.attends ++ [a] }
          if attendRuns s x mask then attendFinish q c a s else .wait s

/-- ATTEND (0x0208). -/
def execAttend (q n : Nat) (s : State) : Out :=
  runEngine 0x0208 q n (kvEngine q n [(16, 48)] (attendEngine q)) s

/-! ### STEP_RETIRE (R159, R160) -/

/-- PENDING slots whose pin has retired change state (R160). -/
def settlePending (x : Nat) (s : State) : State :=
  forRange (kvSlots s x) (fun k s => if slotState s x k = 3 then settleSlot s x k else s) s

/-- Whether an ATTEND of the context that Chicory has taken still runs at or below an epoch; one that it takes only after this
STEP_RETIRE meets the epoch rule of R159 instead. -/
def attendBelow (s : State) (x epoch : Nat) : Bool := s.attends.any fun a => decide (a.ctx = x ∧ s32diff a.epoch epoch ≤ 0)

/-- The engine of STEP_RETIRE. -/
def stepRetireEngine (x : Nat) (c : QCmd) (s : State) : Verdict :=
  let new := wrap32 (kvRetired s x + c.length)
  if attendBelow s x new then .wait s
  else
    let s := settlePending x (fset s (Reg.KVM_CTX_EPOCH_RETIRED x) new)
    let sat := fget s (Reg.KVM_CTX_CNT_COUNT x 3)
    let s := if (ctx s x).kvSatSeen < sat then raiseCtx s 0x3002 kvIsland x [] else s
    okay (setCtx s x { ctx s x with kvSatSeen := sat })

/-- STEP_RETIRE (0x0209). -/
def execStepRetire (q n : Nat) (s : State) : Out := runEngine 0x0209 q n (kvEngine q n [] stepRetireEngine) s

/-- The initialisation of a KV region ends (R175). -/
def execKvRegionInitDone (c : Nat) (s : State) : Out :=
  if 64 ≤ c ∨ (ctx s c).kvInit = false then .next s
  else .next (fsetb (setCtx s c { ctx s c with kvInit := false }) Reg.KVM_STATUS_INIT_BUSY
    (s.ctxs.any (fun e => decide (e.1 ≠ c) && e.2.kvInit)))

end Sys2Proof.Machine
end

