-- ==== Sys2Proof/Machine/Recorder.lean ====
section
/-! DEFINITION. Tansy (R453 to R466): staging, the log in MRAM, freezing, reading and clearing. -/

namespace Sys2Proof.Machine

/-- Tansy's island. -/
def logIsland : Nat := 78

/-- Change Tansy. -/
def modTansy (s : State) (f : Tansy → Tansy) : State := { s with tansy := f s.tansy }

/-- The slot of MRAM at a position. -/
def logSlot (t : Tansy) (i : Nat) : List Byte := storeGet (fun _ => List.replicate 64 0) t.slots i

/-- Write a slot; its check bits are fresh. -/
def setLogSlot (t : Tansy) (i : Nat) (bs : List Byte) : Tansy :=
  { t with slots := storeSet (fun _ => List.replicate 64 0) t.slots i bs, bad := t.bad.filter (· ≠ i) }

/-- The header of slot 0 (Table 17.1). -/
def logHeader (t : Tansy) : List Byte :=
  leBytes 4 0x54534C47 ++ leBytes 2 1 ++ leBytes 2 (b2n t.frozen + 2 * b2n t.full + 4 * b2n t.reserveFull)
    ++ leBytes 8 t.clearTime ++ leBytes 4 t.clearCycle ++ leBytes 4 t.clearSeconds ++ leBytes 4 t.nextSeq
    ++ leBytes 4 t.freezeSeq ++ leBytes 4 t.lostTotal ++ leBytes 4 t.dropped ++ List.replicate 24 0

/-- The 64 bytes of a record (Table 17.2): stamped and numbered as it is written. -/
def recordBytes (t : Tansy) (module_ : Nat) (e : Event) : List Byte :=
  leBytes 4 t.nextSeq ++ leBytes 2 e.code ++ leBytes 1 e.island ++ leBytes 1 e.rflags ++ leBytes 8 e.time
    ++ leBytes 4 t.powerCycle ++ leBytes 4 t.opSeconds ++ leBytes 1 e.ctx ++ leBytes 1 module_
    ++ leBytes 2 (min e.data.length 32) ++ padTo 32 e.data ++ leBytes 4 (2 ^ 32 - 1 - t.nextSeq % 2 ^ 32)

/-- Write one record at NEXT_SEQ: its bytes, then its mark, then NEXT_SEQ (R454, R457). -/
def logAppend (t : Tansy) (module_ : Nat) (e : Event) : Tansy :=
  { setLogSlot t t.nextSeq (recordBytes t module_ e) with nextSeq := t.nextSeq + 1 }

/-- Last slot of the general area. -/
def generalLast : Nat := 30719
/-- Last slot of the reserve area. -/
def reserveLast : Nat := 32767

/-- Records that the reserve area takes (R461). -/
def reserveClass (code : Nat) : Bool := decide (code / 0x1000 = 8 ∨ code / 0x1000 = 0xB ∨ code / 0x1000 = 0xC)

/-- After a record: FULL with its 0xC004 once the general area is full, RESERVE_FULL once the reserve area is (R461). -/
def logFill (t : Tansy) (module_ now : Nat) : Tansy :=
  let t := if t.full = false ∧ generalLast < t.nextSeq
    then logAppend { t with full := true } module_ ⟨0xC004, logIsland, 0, 0xFF, now, []⟩ else t
  if reserveLast < t.nextSeq then { t with reserveFull := true } else t

/-- Whether the full log refuses a record (R461). -/
def logRefuses (t : Tansy) (e : Event) : Bool := t.reserveFull || (t.full && !reserveClass e.code)

/-- Write a record, or refuse it when the log is full (R461). -/
def logWrite (t : Tansy) (module_ now : Nat) (e : Event) : Tansy :=
  if logRefuses t e then { t with dropped := satAdd 32 t.dropped 1 }
  else logFill (logAppend t module_ e) module_ now

/-- The 0xC001 record that the first free entry takes (R460). -/
def lossEvent (t : Tansy) (now : Nat) : Event :=
  ⟨0xC001, logIsland, 0, 0xFF, now, u32 t.lost ++ u64 t.lostFirst ++ u64 t.lostLast⟩

/-- An entry of staging has become free: while losses are counted, a 0xC001 takes it (R460). -/
def noteLost (t : Tansy) (now : Nat) : Tansy :=
  if 0 < t.lost then { t with staging := t.staging ++ [lossEvent t now], lost := 0 } else t

/-- Records that a full log refuses leave staging at once (R461). -/
def dropRefused (t : Tansy) (now : Nat) : Tansy :=
  let n := (t.staging.filter (logRefuses t)).length
  if n = 0 then t
  else noteLost { t with staging := t.staging.filter (fun e => !logRefuses t e), dropped := satAdd 32 t.dropped n } now

/-- A raised record enters staging, or is lost when staging is full (R460). -/
def execRecordStaging (s : State) : Out :=
  match s.tansy.raised with
  | [] => .next s
  | e :: rest =>
    .next (modTansy s (fun t =>
      if t.staging.length < 64 then dropRefused { t with raised := rest, staging := t.staging ++ [e] } s.time
      else { t with raised := rest, lost := t.lost + 1, lostTotal := satAdd 32 t.lostTotal 1,
                    lostFirst := if t.lost = 0 then e.time else t.lostFirst, lostLast := e.time }))

/-- Tansy writes the oldest staged record (R457, R460 to R462); not while frozen or before the scan has ended. -/
def execLogRecordWrite (s : State) : Out :=
  match s.tansy.staging with
  | [] => .next s
  | e :: rest =>
    if s.tansy.frozen ∨ s.tansy.scanDone = false then .next s
    else .next (modTansy s (fun t =>
      dropRefused (logWrite (noteLost { t with staging := rest } s.time) (modnum s) s.time e) s.time))

/-- A freeze has lasted 50 ms (R462). -/
def execFreezeExpired (s : State) : Out :=
  if s.tansy.frozen ∧ s.tansy.freezeAt + 50000000 ≤ s.time
  then .next (raise (modTansy s (fun t => { t with frozen := false })) 0xC005 logIsland [])
  else .next s

/-- One second of operation (R459): OP_SECONDS counts outside DORMANT and is stored every 60 s. -/
def execOpSecondsTick (s : State) : Out :=
  if s.power.dormant ∨ s.power.off then .next s
  else .next (modTansy s (fun t =>
    let n := (t.opSeconds + 1) % 2 ^ 32
    { t with opSeconds := n, stored := if n % 60 = 0 then n else t.stored }))

/-- Whether slot `i` holds a record: below NEXT_SEQ. -/
def slotHeld (t : Tansy) (i : Nat) : Bool := decide (1 ≤ i ∧ i < t.nextSeq)

/-- What LOG_READ copies of slot `i`: its bytes, or zeros with 0x100A raised (R464). -/
def readSlot (i : Nat) (p : List Byte × Nat × State) : List Byte × Nat × State :=
  let (bs, n, s) := p
  let t := s.tansy
  if slotHeld t i = false then (bs ++ List.replicate 64 0, n, s)
  else if t.bad.contains i then
    (bs ++ List.replicate 64 0, n, raise s 0x100A logIsland (u8 3 ++ u32 (8 * i)))
  else (bs ++ logSlot t i, n + 1, s)

/-- The engine of LOG_READ. -/
def logReadEngine (q : Nat) (c : QCmd) (s : State) : Verdict :=
  let first := c.field 16 4
  let va := c.field 24 8
  if c.reservedZero [(16, 4), (24, 8)] = false ∨ first = 0 ∨ 32767 < c.length ∨ opAligned q va 64 = false then invalid s
  else
    let (bs, n, s') := (List.range c.length).foldl (fun p i => readSlot (first + i) p) (logHeader s.tansy, 0, s)
    match opWrite s' q va bs with
    | .error (.uncorr a) => failOperand s' q c logIsland 0 (.uncorr a)
    | .error (.ptUncorr a) => failOperand s' q c logIsland 0 (.ptUncorr a)
    | .error e => failOperand s q c logIsland 0 e
    | .ok s => okay s (min n 0xFFFF)

/-- LOG_READ (0x0800). -/
def execLogRead (q n : Nat) (s : State) : Out := runEngine 0x0800 q n (logReadEngine q) s

/-- The engine of LOG_FREEZE (R462). -/
def logFreezeEngine (c : QCmd) (s : State) : Verdict :=
  if c.reservedZero [] = false ∨ c.length ≠ 1 ∨ s.tansy.frozen = true then invalid s
  else okay (modTansy s (fun t => { t with frozen := true, freezeSeq := t.nextSeq - 1, freezeAt := s.time }))

/-- LOG_FREEZE (0x0801). -/
def execLogFreeze (q n : Nat) (s : State) : Out := runEngine 0x0801 q n logFreezeEngine s

/-- The engine of LOG_THAW (R462). -/
def logThawEngine (c : QCmd) (s : State) : Verdict :=
  if c.reservedZero [] = false ∨ c.length ≠ 1 then invalid s
  else okay (modTansy s (fun t => { t with frozen := false }))

/-- LOG_THAW (0x0802). -/
def execLogThaw (q n : Nat) (s : State) : Out := runEngine 0x0802 q n logThawEngine s

/-- The engine of LOG_CLEAR (R463). -/
def logClearEngine (c : QCmd) (s : State) : Verdict :=
  if c.reservedZero [] = false ∨ c.length ≠ 1 ∨ s.tansy.frozen = false then invalid s
  else
    let old := s.tansy
    let e : Event := ⟨0xC003, logIsland, 0, 0xFF, s.time, u32 old.nextSeq ++ u32 old.lostTotal ++ u32 old.dropped⟩
    okay (modTansy s (fun t =>
      logAppend { t with slots := storeDrop (fun i => decide (i < t.nextSeq)) t.slots,
                         bad := t.bad.filter (fun i => decide (t.nextSeq ≤ i)), clearTime := s.time, clearCycle := t.powerCycle, clearSeconds := t.opSeconds,
                         nextSeq := 1, full := false, reserveFull := false, lostTotal := 0, dropped := 0, freezeSeq := 0 }
        (modnum s) e))

/-- LOG_CLEAR (0x0803). -/
def execLogClear (q n : Nat) (s : State) : Out := runEngine 0x0803 q n logClearEngine s

/-! ### The power-on scan (R458) -/

/-- Whether slot `i` holds a valid record: its SEQ is its position and its mark the complement. -/
def slotValid (t : Tansy) (i : Nat) : Bool :=
  let b := logSlot t i
  decide (i ≤ reserveLast) && !t.bad.contains i && decide (fieldAt b 0 4 = i ∧ fieldAt b 60 4 = 2 ^ 32 - 1 - i)

/-- Scan from slot `i`: where it stops, and the slots lost to uncorrectable reads. Over at most `fuel` slots. -/
def scanFrom (t : Tansy) : (fuel i : Nat) → List Nat → Nat × List Nat
  | 0, i, lost => (i, lost)
  | fuel + 1, i, lost =>
    if slotValid t i then scanFrom t fuel (i + 1) lost
    else if t.bad.contains i ∧ slotValid t (i + 1) = true then scanFrom t fuel (i + 2) (lost ++ [i])
    else (i, lost)

/-- The scan at the start of a bring-up: the torn slot is zeroed, the header rebuilt, 0xC002 written first (R458). -/
def logScan (s : State) (powerOn : Bool) : State :=
  let s := modTansy s (fun t => { t with frozen := false })
  if !powerOn then modTansy s (fun t => { t with scanDone := true })
  else
    let (stop, lost) := scanFrom s.tansy 32768 1 []
    let s := modTansy s (fun t =>
      let t := if stop ≤ reserveLast then setLogSlot t stop (List.replicate 64 0) else t
      { t with nextSeq := stop, full := decide (generalLast < stop), reserveFull := decide (reserveLast < stop), scanDone := true })
    let s := lost.foldl (fun s i => raise s 0x100A logIsland (u8 3 ++ u32 (8 * i))) s
    modTansy s (fun t => logWrite t (modnum s) s.time ⟨0xC002, logIsland, 0, 0xFF, s.time, u32 lost.length⟩)

end Sys2Proof.Machine
end

