-- ==== Sys2Proof/Machine/Mgmt.lean ====
section
/-! DEFINITION. Management frames on the Ethernet ports (R572 to R577): queue `e` serves port `e`. -/

namespace Sys2Proof.Machine

/-- The module's address on port `e`: 02-00-4E-4C-1m-0e (R573). -/
def mgmtAddress (s : State) (e : Nat) : Nat := 0x02004E4C1000 + modnum s * 0x100 + e

/-- Whether the port takes a frame (R573). -/
def frameTaken (s : State) (e : Nat) (f : MgmtFrame) : Bool :=
  let peer := fget s (Reg.NET_MGMT_PEER_MAC e)
  decide (e < 2 ∧ f.dst = mgmtAddress s e ∧ (peer = 0 ∨ f.src = peer)) && f.fcsOk && fbit s (Reg.NET_MGMT_CFG_EN e) && phaseUp s 5

/-- Whether a payload follows Table 23.3 from a controller (R577); a frame shorter than Ethernet's least is padded. -/
def payloadSound (p : List Byte) : Bool :=
  let ty := fieldAt p 1 1
  let count := fieldAt p 2 1
  let want := 16 + 64 * count
  decide (fieldAt p 0 1 = 1 ∧ (ty = 1 ∨ ty = 4) ∧ fieldAt p 3 1 = 0 ∧ count ≤ 23 ∧ (ty = 4 → count = 0 ∧ fieldAt p 4 4 = 0)
    ∧ (p.length = want ∨ (want < p.length ∧ p.length ≤ 46 ∧ allZero (p.drop want) = true)))

/-- Note a taken frame: its sender and VLAN ID, and the count. -/
def noteTaken (s : State) (e : Nat) (f : MgmtFrame) : State :=
  finc (setMgmt s e { mgmt s e with peer := f.src, vlan := f.vlan }) (Reg.NET_MGMT_CNT_COUNT e 0)

/-- A 16-byte management header (Table 23.3). -/
def mgmtHeader (s : State) (e ty count mflags first : Nat) : List Byte :=
  leBytes 1 1 ++ leBytes 1 ty ++ leBytes 1 count ++ leBytes 1 mflags ++ leBytes 4 first
    ++ leBytes 4 (queue s e).cqTail ++ leBytes 4 (fget s (Reg.NET_MGMT_SESSION_SESSION e))

/-- A management frame up to its FCS (R573): to the latest peer, with the 802.1Q tag `tag`, padded to Ethernet's least payload. -/
def mgmtBytes (s : State) (e : Nat) (tag payload : List Byte) : List Byte :=
  (leBytes 6 (mgmt s e).peer).reverse ++ (leBytes 6 (mgmtAddress s e)).reverse ++ tag ++ [0x88, 0xB6]
    ++ padTo (max 46 payload.length) payload

/-- The 802.1Q tag of the module's frames (R573): the VLAN ID of the latest frame taken; its priority bits are free (log entry 69). -/
def mgmtTag (s : State) (e : Nat) : List Byte × State :=
  match (mgmt s e).vlan with
  | none => ([], s)
  | some v =>
    let (k, s) := takeFree s
    ([0x81, 0x00] ++ (leBytes 2 ((Config.freeWord k).toNat % 16 * 0x1000 + v % 0x1000)).reverse, s)

/-- Hand a management frame to port `e` in traffic class CLASS (R573); it leaves under the port's gates (R334). -/
def sendMgmt (s : State) (e : Nat) (payload : List Byte) : State :=
  let (tag, s) := mgmtTag s e
  handFrame e ⟨fget s (Reg.NET_MGMT_CFG_CLASS e), none, mgmtBytes s e tag payload, none, s.time⟩ s

/-- Send an ACK (R575). -/
def sendAck (s : State) (e : Nat) : State := sendMgmt s e (mgmtHeader s e 2 0 0 (queue s e).submitted)

/-- Apply a frame's CQ to CQ_HEAD (R575 step 1). -/
def applyCq (s : State) (e cq : Nat) : State :=
  let head := memNat s (cqBase s e + 8) 4
  if 0 < s32diff cq head ∧ 0 ≤ s32diff (queue s e).cqTail cq then qmWrite s e (cqBase s e + 8) (leBytes 4 cq) else s

/-- Write packets from number `n` into the submission ring. -/
def writePackets (e : Nat) : (n : Nat) → List (List Byte) → State → State
  | _, [], s => s
  | n, p :: rest, s => writePackets e (n + 1) rest (qmWrite s e (sqBase s e + n % 2 ^ 32 % qDepth s e * 64) p)

/-- Take the packets of a SUBMIT (R575 steps 2 to 4); a refused doorbell takes none. -/
def takePackets (s : State) (e first count : Nat) (packets : List (List Byte)) : State :=
  let done := s32diff (queue s e).submitted first
  if done < 0 ∨ (count : Int) ≤ done then s
  else
    let k := count - done.toNat
    let taken := (badUnit s (cqBase s e + 8) 4).isNone && depthOk s e k (memNat s (cqBase s e + 8) 4)
    let s := if taken then writePackets e (queue s e).submitted (packets.drop done.toNat) s else s
    doorbell s e k false

/-- Drop a frame and count it in REFUSED; the first of a run raises 0xA201 (R577). -/
def refuseFrame (s : State) (e : Nat) (f : MgmtFrame) : State :=
  let m := mgmt s e
  let s := finc (setMgmt s e { m with refused := m.refused + 1 }) (Reg.NET_MGMT_CNT_COUNT e 1)
  if m.refused = 0 then raise s 0xA201 75 (u16 e ++ u64 f.src ++ u32 1) else s

/-- A SUBMIT frame arrives (R575). -/
def submitFrame (e : Nat) (f : MgmtFrame) (s : State) : State :=
  let p := f.payload
  let s := noteTaken s e f
  let s := setMgmt s e { mgmt s e with refused := 0 }
  if fieldAt p 12 4 = fget s (Reg.NET_MGMT_SESSION_SESSION e) then
    let s := applyCq s e (fieldAt p 8 4)
    let count := fieldAt p 2 1
    sendAck (takePackets s e (fieldAt p 4 4) count (chunks count 64 (p.drop 16))) e
  else sendAck s e

/-- The reply bytes of completion entries from `n`. -/
def repliesFrom (s : State) (e n count : Nat) : List Byte :=
  (List.range count).flatMap fun i => memRead s (cqBase s e + 64 + (n + i) % 2 ^ 32 % qDepth s e * 16) 16

/-- Whether number `k` is one of `count` command numbers from `n`. -/
def numberIn (n count k : Nat) : Bool := decide (0 ≤ s32diff k n ∧ s32diff k n < (count : Int))

/-- Send one REPLY frame of `count` replies from number `n` (R576). It is a notification frame when it carries a reply that asks for
one and has not been sent yet. -/
def sendReplies (s : State) (e n count : Nat) : State :=
  let m := mgmt s e
  let s := finc (sendMgmt s e (mgmtHeader s e 3 count (b2n (m.notify.any (numberIn n count))) (n % 2 ^ 32) ++ repliesFrom s e n count))
    (Reg.NET_MGMT_CNT_COUNT e 2)
  setMgmt s e { m with notify := m.notify.filter (fun k => !numberIn n count k) }

/-- Send `total` replies from `n` again, at most 90 a frame. -/
def resend (e : Nat) : (fuel n total : Nat) → State → State
  | 0, _, _, s => s
  | fuel + 1, n, total, s =>
    if total = 0 then s
    else
      let k := min total 90
      resend e fuel (n + k) (total - k) (finc (sendReplies s e n k) (Reg.NET_MGMT_CNT_COUNT e 3))

/-- A POLL frame arrives (R575). -/
def pollFrame (e : Nat) (f : MgmtFrame) (s : State) : State :=
  let s := noteTaken s e f
  let s := setMgmt s e { mgmt s e with refused := 0 }
  let s := sendAck (applyCq s e (fieldAt f.payload 8 4)) e
  let head := memNat s (cqBase s e + 8) 4
  let tail := (queue s e).cqTail
  let s := resend e 4096 head (s32diff tail head).toNat s
  setMgmt s e { mgmt s e with unsent := tail, sentAt := s.time }

/-- A management frame meets the port: dropped before stage 1 starts (R572), refused when it breaks Table 23.3. -/
def mgmtArrival (ty e : Nat) (f : MgmtFrame) (act : Nat → MgmtFrame → State → State) (s : State) : State :=
  if frameTaken s e f = false then s
  else if queueOn s e = false then refuseFrame s e f
  else if payloadSound f.payload = true ∧ fieldAt f.payload 1 1 = ty then act e f s else s

/-- MGMT_FRAME_REFUSED (R577). -/
def execMgmtFrameRefused (e : Nat) (f : MgmtFrame) (s : State) : Out :=
  if frameTaken s e f = false ∨ payloadSound f.payload = true then .next s
  else .next (refuseFrame (noteTaken s e f) e f)

/-- REPLY_FRAME_SEND (R576): 16 unsent replies, 100 µs, or a notification. -/
def execReplyFrameSend (e : Nat) (s : State) : Out :=
  if 2 ≤ e ∨ queueOn s e = false ∨ phaseUp s 5 = false then .next s
  else
    let m := mgmt s e
    let unsent := (s32diff (queue s e).cqTail m.unsent).toNat
    if unsent = 0 ∨ (unsent < 16 ∧ m.notify = [] ∧ s.time < m.postedAt + 100000) then .next s
    else
      let k := min unsent 90
      let s := sendReplies s e m.unsent k
      .next (setMgmt s e { mgmt s e with unsent := wrap32 (m.unsent + k), sentAt := s.time })

/-- REPLY_RESEND (R576): sent replies not consumed within 10 ms. -/
def execReplyResend (e : Nat) (s : State) : Out :=
  if 2 ≤ e ∨ queueOn s e = false ∨ phaseUp s 5 = false then .next s
  else
    let m := mgmt s e
    let head := memNat s (cqBase s e + 8) 4
    let open_ := (s32diff m.unsent head).toNat
    if open_ = 0 ∨ s.time < m.sentAt + 10000000 then .next s
    else
      let s := resend e 4096 head open_ s
      .next (setMgmt s e { mgmt s e with sentAt := s.time })

/-- A frame that is no management, gPTP or sensor stream frame arrives (R577). -/
def execOtherDropped (e : Nat) (s : State) : Out :=
  if 2 ≤ e ∨ phaseUp s 5 = false then .next s else .next (finc s (Reg.NET_MGMT_CNT_COUNT e 4))

end Sys2Proof.Machine
end

