-- ==== Sys2Proof/Machine/Entry.lean ====
section
/-! DEFINITION. Whether the module runs, the exit from DROWSE (R544), and the entry to the safe state (R410, R412, R415,
R276) as ONE shared operation. -/

namespace Sys2Proof.Machine

/-! ### Is the module running -/

/-- The islands have supply, clock and no reset: no shutdown, RST_N high, not DORMANT. -/
def alive (s : State) : Bool := !(s.power.off || s.power.rstLow || s.power.dormant)

/-- Run an operation while the module is alive; otherwise the event reaches nothing (log entry 2). -/
def whenAlive (s : State) (f : State → Out) : Out := if alive s then f s else .next s

/-- Run an operation of an island that phase `k` supplies, while the module is alive and the phase is up (R467). -/
def whenFed (k : Nat) (s : State) (f : State → Out) : Out := whenAlive s (fun s => if phaseUp s k then f s else .next s)

/-- The module is in DROWSE. -/
def inDrowse (s : State) : Bool := decide (fget s Reg.PWR_LPSTATE_STATE = 1)

/-- The module is in, or entering, the safe state: a latch is set. -/
def inSafe (s : State) : Bool := fbit s Reg.SAFE_STATUS_LATCH_A || fbit s Reg.SAFE_STATUS_LATCH_B

/-- IMAGE_HOLD (R193). -/
def inHold (s : State) : Bool := fbit s Reg.QMGR_STATUS_IMAGE_HOLD

/-- Whole-body frames do not run: IMAGE_HOLD, the safe state, or DROWSE (R193, R399, R543). -/
def framesHeld (s : State) : Bool := inHold s || inSafe s || inDrowse s

/-- Island of Mallow, the power stages and the trip chain. -/
def powerIsland : Nat := 77

/-- Change Mallow. -/
def modPower (s : State) (f : Power → Power) : State := { s with power := f s.power }

/-- Change the safety blocks. -/
def modSafety (s : State) (f : Safety → Safety) : State := { s with safety := f s.safety }

/-- Change Yarrow. -/
def modYarrow (s : State) (f : Yarrow → Yarrow) : State := { s with yarrow := f s.yarrow }

/-- Change Harebell. -/
def modHarebell (s : State) (f : Harebell → Harebell) : State := { s with harebell := f s.harebell }

/-! ### DROWSE exit (R544) -/

/-- Leave DROWSE for a wake source (PWR_LPSTATE.LAST_WAKE); nothing in another state. The golden intervals restart
(R543) and the Pyilarek ports in DETECT (Table 21.3). -/
def drowseExit (source : Nat) (s : State) : State :=
  if inDrowse s = false ∨ alive s = false then s
  else
    let s := fset (fset s Reg.PWR_LPSTATE_STATE 0) Reg.PWR_LPSTATE_LAST_WAKE source
    let s := raise s 0x900E powerIsland (u8 source ++ u32 ((s.time - s.power.lpSince) / 1000000))
    let s := modPower s (fun p => { p with wakeTick := none })
    let s := forRange 3 (fun p s => fset s (Reg.LINK_PORT_STATE_STATE p) 1) s
    { modSafety s (fun x => { x with goldenBase := s.time }) with goldenAt := s.time, goldenLate := false }

/-! ### Loops -/

/-- A loop. -/
def loop (s : State) (l : Nat) : Loop := storeGet (fun _ => Loop.init) s.yarrow.loops l

/-- Replace a loop. -/
def setLoop (s : State) (l : Nat) (x : Loop) : State :=
  modYarrow s (fun y => { y with loops := storeSet (fun _ => Loop.init) y.loops l x })

/-- SP_SRC of a loop is COMMITTED (R264). -/
def loopCommitted (s : State) (l : Nat) : Bool := decide (fget s (Reg.CTL_LOOP_CFG_SP_SRC l) = 1)

/-- Whether command (q, n) still waits for a boundary of some loop. -/
def ctlWaits (s : State) (q n : Nat) : Bool :=
  s.yarrow.loops.any fun e => e.2.reqs.any fun r => decide (r.cmd = some (q, n))

/-- Complete the waiting control commands that no loop keeps waiting any more (R601). -/
def settleControl (s : State) : State :=
  forEach ((startedCmds s).filter (fun e => e.2.engaged && decide (e.2.opcode / 0x10 = 0xC0)))
    (fun (q, c) s =>
      if ctlWaits s q c.n ∨ s.yarrow.coefs.any (fun w => decide (w.q = q ∧ w.n = c.n)) = true then s
      else completeCmd s q c.n Status.ok 0) s

/-- Yarrow takes the safe-state request (R276): waiting requests are discarded and their commands end with SAFETY_HOLD,
TRIPPED loops return to RUN, SP_E is kept for the trajectories. -/
def yarrowSafe (s : State) : State :=
  let s := forEach ((startedCmds s).filter (fun e => e.2.engaged && decide (e.2.opcode / 0x10 = 0xC0)))
    (fun (q, c) s => completeCmd s q c.n Status.safetyHold 0) s
  let s := modSafety s (fun x => { x with critTrip := none })
  fsetb (modYarrow s (fun y => { y with
    coefs := [],
    loops := storeMap (fun _ => Loop.init) (fun _ x =>
      { x with reqs := [], spE := x.sp, feSafe := false, okSince := none,
               state := if x.state = 2 then 1 else x.state }) y.loops })) Reg.CTL_STATUS_SAFE true

/-! ### Safe-state entry -/

/-- Causes of Table 14.5 marked as core causes. -/
def coreCause (cause : Nat) : Bool := [3, 4, 0xD, 0x10, 0x11, 0x12].contains cause

/-- Island of Cowslip copy A and the SAFE block (R596). -/
def safeIsland : Nat := 67

/-- When E falls in IMAGE_HOLD, SET_COMMIT ends with SAFETY_HOLD and no context runs until the next reset (R415). -/
def holdAbandon (s : State) : State :=
  match s.harebell.hold with
  | none => s
  | some h =>
    modHarebell (completeCmd s h.q h.n Status.safetyHold 0) (fun x => { x with hold := none, abandoned := true })

/-- One output after a latch has set: FAULT where RUN was shown (Table 14.6). -/
def faultPattern (s : State) (f : Field) : State := if fget s f = 1 then fset s f 2 else s

/-- In the safe state Clover applies no refinement update and clears its observations (R359). -/
def suspendRefine (s : State) : State :=
  fsetb { s with sensors := { s.sensors with slots := storeMap (fun _ => Slot.init) (fun _ x =>
    { x with a := List.replicate 9 0, b := List.replicate 3 0, n := 0 }) s.sensors.slots } } Reg.SNS_STATUS_REFINE_SUSPENDED true

/-- At E (R412): SAFE_HOLD, Yarrow, the outputs, Teasel's suspension, Mallow's permitted clock (R479). -/
def enterSafe (cause : Nat) (s : State) : State :=
  let s := drowseExit 4 s
  let s := setReg64 (fset (fset s Reg.SAFE_CAUSE_FIRST cause) Reg.SAFE_STATUS_STATE 2) Reg.SAFE_ENTRY_TIME s.time
  let s := raise s 0x8020 safeIsland (u8 cause)
  let s := fsetb s Reg.QMGR_STATUS_SAFE_HOLD true
  let s := suspendRefine (yarrowSafe s)
  let s := faultPattern (faultPattern s Reg.SAFE_STATUS_OUT_A) Reg.SAFE_STATUS_OUT_B
  let s := fsetb s Reg.RING_TEASEL_SAFE_SUSPEND true
  let s := fset s Reg.PWR_FREQ_PERMITTED_MHZ 800
  holdAbandon (fset s Reg.PWR_FREQ_CURRENT_MHZ (min 800 (fget s Reg.PWR_FREQ_CURRENT_MHZ)))

/-- A safe-state cause sets latch A, latch B or both (R410); the first starts the safe state, a later one is recorded
(R415). -/
def safeCause (cause : Nat) (a b : Bool) (s : State) : State :=
  let first := !inSafe s
  let s := if a then fsetb s Reg.SAFE_STATUS_LATCH_A true else s
  let s := if b then fsetb s Reg.SAFE_STATUS_LATCH_B true else s
  let s := if 1 ≤ cause ∧ cause ≤ 18 then setRegWord s Reg.SAFE_CAUSES (setBit (regWord s Reg.SAFE_CAUSES) cause true) else s
  let s := if coreCause cause then fsetb s Reg.SAFE_STATUS_CORE_CAUSE true else s
  if first then enterSafe cause s else raise s 0x8021 safeIsland []

/-- Both latches. -/
def safeBoth (cause : Nat) (s : State) : State := safeCause cause true true s

end Sys2Proof.Machine
end

