-- ==== Sys2Proof/Machine/Power.lean ====
section
/-! DEFINITION. Mallow (R467 to R490): samples, divergence, the energy bucket, targets, bubbles, clock modes, job shares,
thermal scans and coolant. Powers are kept in µW and the bucket in pJ, so that every step is exact. -/

namespace Sys2Proof.Machine

/-! ### Caps -/

/-- CAP_S in force in W: the set's value, or the lower one of POWER_CAP_SET (R473). -/
def capS (s : State) : Nat := s.power.capS.getD (fget s Reg.PWR_CAP_CAP_S)

/-- CAP_P in force in W. -/
def capP (s : State) : Nat := s.power.capP.getD (fget s Reg.PWR_CAP_CAP_P)

/-- Q_MAX in pJ: 10 ms of the difference of the caps. -/
def qMax (s : State) : Nat := (capP s - capS s) * 10000000000

/-- A power in µW as the FP32 figure in W that a record carries (R597). -/
def watts (uw : Nat) : Word := rne32 ((Num.ofInt uw).div (Num.ofInt 1000000))

/-- FP32 bytes. -/
def wordLe (w : Word) : List Byte := leBytes 4 w.toNat

/-- Test the bucket against Q_MAX (R473); 0x9002 when the base changes to CAP_S. With Q_MAX 0 an empty bucket is not exhausted when the
test ends, and no event comes of it (DEDUCED, log entry 73). -/
def bucketTest (s : State) : State :=
  let was := fbit s Reg.PWR_STATUS_EXHAUSTED
  let now := if s.power.bucket = 0 then false else if qMax s ≤ s.power.bucket then true else was
  let s := fsetb s Reg.PWR_STATUS_EXHAUSTED now
  if now ∧ was = false then raise (finc s (Reg.PWR_CNT_COUNT 1)) 0x9002 powerIsland [] else s

/-- Whether JOB_MASK names another module. -/
def inJobWithOthers (s : State) : Bool := (List.range 4).any (fun m => decide (m ≠ modnum s) && inJob s m)

/-! ### The power sample -/

/-- DIVERGED (R471, R472). -/
def divergence (m e : Nat) (s : State) : State :=
  let big := max m e
  let diff := big - min m e
  if fbit s Reg.PWR_STATUS_DIVERGED then
    let calm := if 5 * diff ≤ big then s.power.calmRun + 1 else 0
    let s := modPower s (fun p => { p with calmRun := calm, divRun := 0 })
    if 10000 ≤ calm then
      raise (modPower (fsetb s Reg.PWR_STATUS_DIVERGED false) (fun p => { p with calmRun := 0 })) 0x9004 powerIsland []
    else s
  else
    let run := if big < 4 * diff then s.power.divRun + 1 else 0
    let s := modPower s (fun p => { p with divRun := run, calmRun := 0 })
    if 1000 ≤ run then
      let s := modPower (fsetb s Reg.PWR_STATUS_DIVERGED true) (fun p => { p with divRun := 0 })
      let s := finc (if m < e then fsetb s Reg.PWR_STATUS_SENSE_SUSPECT true else s) (Reg.PWR_CNT_COUNT 2)
      raise s 0x9003 powerIsland (wordLe (watts m) ++ wordLe (watts e) ++ u8 (b2n (fbit s Reg.PWR_STATUS_SENSE_SUSPECT)))
    else s

/-- The control power p (R471). -/
def controlPower (s : State) (m e : Nat) : Nat := if fbit s Reg.PWR_STATUS_DIVERGED then max m e else m

/-- The bucket's update of one sample (R473). -/
def bucketStep (p : Nat) (s : State) : State :=
  bucketTest (modPower s (fun x => { x with bucket := x.bucket + 5 * p - 5 * (capS s * 1000000) }))

/-- The target t in µW (R474, R556). -/
def target (s : State) (vinMv : Nat) : Nat :=
  let base := (if fbit s Reg.PWR_STATUS_EXHAUSTED then capS s else capP s) * 1000000
  let tj := fget s Reg.PWR_THERM_TJ
  let lim := fget s Reg.PWR_CFG_THROTTLE_C
  let derate := (capS s - fget s Reg.PWR_CFG_DERATE_W * (tj - lim)) * 1000000
  let t := min base (vinMv * 8400)
  let t := if lim < tj then min t derate else t
  let t := if s.power.presTerm then min t 40000000 else t
  max t 40000000

/-- Set EFF (R475); a thermal trip forces 256 (R484). -/
def setEff (s : State) : State :=
  fset s Reg.PWR_BUBBLE_EFF
    (if fbit s Reg.PWR_STATUS_TRIP then 256 else max (fget s Reg.PWR_BUBBLE_OWN) (fget s Reg.PWR_BUBBLE_JOB))

/-- OWN after a sample (R475): `rne(gain × x × 256)` is added and the sum clamped to 0..224. -/
def ownStep (own gain p t : Nat) : Nat :=
  if t ≤ p then min (own + divRne (gain * 16 * (p - t)) t) 224 else own - divRne (gain * 16 * (t - p)) t

/-- The clock a power message carries (R480). -/
def ownMhz (s : State) : Nat := min (fget s Reg.PWR_FREQ_PERMITTED_MHZ) (fget s Reg.PWR_FREQ_CURRENT_MHZ)

/-- Send a power message on every link when OWN or the permitted clock has changed since the latest sample, and at least once per ms
(R480). -/
def powerMessage (s : State) : State :=
  let now := (fget s Reg.PWR_BUBBLE_OWN, fget s Reg.PWR_FREQ_PERMITTED_MHZ, ownMhz s)
  let s' := modPower s (fun p => { p with shown := now })
  if inJobWithOthers s = true ∧ (now ≠ s.power.shown ∨ s.power.sentAt + 1000000 ≤ s.time)
  then modPower { s' with outbox := s.outbox ++ [.powerMsg now.1 now.2.2] } (fun p => { p with sentAt := s.time })
  else s'

/-- Bubbles and boost of one sample (R475, R478). -/
def bubbleStep (p t : Nat) (s : State) : State :=
  let own := fget s Reg.PWR_BUBBLE_OWN
  let mhz := fget s Reg.PWR_FREQ_CURRENT_MHZ
  let s := if t < p ∧ 800 < mhz then fset s Reg.PWR_FREQ_CURRENT_MHZ 800
    else fset s Reg.PWR_BUBBLE_OWN (ownStep own (fget s Reg.PWR_CFG_GAIN) p t)
  let new := fget s Reg.PWR_BUBBLE_OWN
  let s := fsetb s Reg.PWR_STATUS_CAPPING (decide (0 < new))
  let s := if 0 < new then finc s (Reg.PWR_CNT_COUNT 0) else s
  let s := if 0 < new ∧ own = 0 then raise s 0x9001 powerIsland (wordLe (watts p) ++ wordLe (watts t)) else s
  let runs := if new = 224 ∧ t < p then s.power.overRun + 1 else 0
  let s := modPower s (fun x => { x with overRun := runs, overSaid := x.overSaid && decide (0 < runs) })
  let s := if 200 ≤ runs ∧ s.power.overSaid = false
    then raise (modPower s (fun x => { x with overSaid := true })) 0x900A powerIsland [] else s
  setEff s

/-- POWER_SAMPLE (R470 to R475): V_in in mV, the eight input currents in mA, and E in µW, whose energy weights are fused
(log entry 12). -/
def powerSample (vinMv : Nat) (currents : List Nat) (e : Nat) (s : State) : State :=
  let m := vinMv * (currents.take 8).foldl (· + ·) 0
  let s := fset s Reg.PWR_VIN_VIN (min vinMv 65535)
  let s := forRange 8 (fun k s => fset s (Reg.PWR_PHASE_I_IN k) (min (currents.getD k 0) 65535)) s
  let s := fset (fset s Reg.PWR_MEAS_M (min (m / 100000) 65535)) Reg.PWR_MEAS_E (min (e / 100000) 65535)
  let s := divergence m e (modPower s (fun p => { p with measured := m }))
  let p := controlPower s m e
  let s := bucketStep p s
  let s := fset s Reg.PWR_BUCKET_Q (min (s.power.bucket / 1000000) 0xFFFFFFFF)
  let t := target s vinMv
  let s := fset (fset s Reg.PWR_TARGET_TARGET (t / 1000000)) Reg.PWR_TARGET_CAP_S_EFF (capS s)
  let s := bubbleStep p t s
  let cool := decide (fget s Reg.PWR_BUBBLE_EFF = 0 ∧ 10 * p ≤ 9 * t
    ∧ fget s Reg.PWR_THERM_TJ + 10 ≤ fget s Reg.PWR_CFG_THROTTLE_C)
  powerMessage (modPower s (fun x => { x with boostRun := if cool then x.boostRun + 1 else 0 }))

/-- POWER_SAMPLE. -/
def execPowerSample (vinMv : Nat) (currents : List Nat) (e : Nat) (s : State) : Out :=
  whenAlive s (fun s => .next (powerSample vinMv currents e s))

/-- BOOST_STEP (R478): in boost mode, after 1 ms of eligible samples; in a job a clock rises only at an adoption (R480). -/
def execBoostStep (s : State) : Out :=
  if alive s ∧ fbit s Reg.PWR_STATUS_FIXED = false ∧ s.power.ramp = none ∧ 200 ≤ s.power.boostRun ∧ inJobWithOthers s = false
  then .next (modPower (fset s Reg.PWR_FREQ_CURRENT_MHZ
      (max (fget s Reg.PWR_FREQ_CURRENT_MHZ)
        (min (fget s Reg.PWR_FREQ_CURRENT_MHZ + 25) (fget s Reg.PWR_FREQ_PERMITTED_MHZ)))) (fun p => { p with boostRun := 0 }))
  else .next s

/-! ### Clock modes (R478, R479) -/

/-- Start a mode change: the clock falls to 800 MHz, the rail ramps; `q`, `n` is the command to complete at its end. -/
def startRamp (fixed q n : Nat) (s : State) : State :=
  let s := fset (fset s Reg.PWR_CFG_FIXED fixed) Reg.PWR_FREQ_CURRENT_MHZ 800
  modPower (fsetb s Reg.PWR_STATUS_RAMPING true) (fun p => { p with ramp := some (fixed, q, n), boostRun := 0 })

/-- The engine of POWER_MODE_SET (R479, R482, R489). -/
def powerModeEngine (q : Nat) (c : QCmd) (s : State) : Verdict :=
  let fixed := c.field 16 1
  if c.engaged then .wait s
  else if c.length ≠ 1 ∨ c.reservedZero [(16, 1)] = false ∨ 1 < fixed then invalid s
  else if inSafe s then .done Status.safetyHold 0 s
  else if inJobWithOthers s then refuse s
  else if s.power.ramp.isSome then .wait s
  else if fget s Reg.PWR_STATUS_FIXED = fixed then okay s
  else .wait (startRamp fixed q c.n (modCmd s q c.n (fun d => { d with engaged := true })))

/-- POWER_MODE_SET (0x0711). -/
def execPowerModeSet (q n : Nat) (s : State) : Out := runEngine 0x0711 q n (powerModeEngine q) s

/-- RAIL_RAMP_DONE (R479). -/
def execRailRampDone (s : State) : Out :=
  match s.power.ramp with
  | none => .next s
  | some (fixed, q, n) =>
    let s := modPower (fsetb s Reg.PWR_STATUS_RAMPING false) (fun p => { p with ramp := none })
    .next (completeCmd (fset s Reg.PWR_STATUS_FIXED fixed) q n Status.ok 0)

/-! ### Job shares (R480, R481) -/

/-- The share the job asks for: the largest OWN of the other members' latest messages. -/
def jobShare (s : State) : Nat := s.power.peers.foldl (fun m e => max m e.2.1) 0

/-- The job clock: the least clock of the latest messages and the module's own. -/
def jobClock (s : State) : Nat := s.power.peers.foldl (fun m e => min m e.2.2) (ownMhz s)

/-- POWER_MESSAGE_RECEIVE: what differs is adopted at the next boundary. -/
def execPowerMessageReceive (member own mhz : Nat) (s : State) : Out :=
  if alive s = false ∨ member = modnum s ∨ inJob s member = false then .next s
  else
    let s := modPower s (fun p => { p with
      peers := insertBy (·.1) (member, min own 224, mhz) (p.peers.filter (fun e => decide (e.1 ≠ member))) })
    let changed := decide (jobShare s ≠ fget s Reg.PWR_BUBBLE_JOB ∨ jobClock s ≠ fget s Reg.PWR_FREQ_CURRENT_MHZ)
    if changed = true ∧ s.power.adopt = none
    then .next { modPower s (fun p => { p with adopt := some s.time }) with boundary := false }
    else .next s

/-- Adopt JOB and the job clock. -/
def adoptJob (s : State) : State :=
  let s := fset (fset s Reg.PWR_BUBBLE_JOB (jobShare s)) Reg.PWR_FREQ_CURRENT_MHZ (jobClock s)
  { setEff (finc (modPower s (fun p => { p with adopt := none })) (Reg.PWR_CNT_COUNT 4)) with boundary := false }

/-- JOB_SHARE_ADOPT: at a boundary, or 1 ms after the message. -/
def execJobShareAdopt (s : State) : Out :=
  match s.power.adopt with
  | none => .next s
  | some t => if s.boundary ∨ t + 1000000 ≤ s.time then .next (adoptJob s) else .next s

/-- A lost member's values leave JOB and the job clock (R449, R481). -/
def forgetPeer (m : Nat) (s : State) : State :=
  let s := modPower s (fun p => { p with peers := p.peers.filter (fun e => decide (e.1 ≠ m)) })
  setEff (fset s Reg.PWR_BUBBLE_JOB (min (fget s Reg.PWR_BUBBLE_JOB) (jobShare s)))

/-! ### Temperatures -/

/-- The hottest reading and its sensor, lowest index first. -/
def hottest (temps : List Nat) : Nat × Nat :=
  (List.range temps.length).foldl (fun b i => if b.1 < temps.getD i 0 then (temps.getD i 0, i) else b) (0, 0)

/-- THERMAL_SCAN (R483): 78 readings in °C. -/
def thermalScan (temps : List Nat) (s : State) : State :=
  let readings := (List.range 78).map (fun i => min (temps.getD i 0) 255)
  let (tj, at_) := hottest readings
  let lim := fget s Reg.PWR_CFG_THROTTLE_C
  let s := forRange 78 (fun i s => fset s (Reg.PWR_TEMP_TEMP i) (readings.getD i 0)) s
  let (f, s) := takeFree (fset s Reg.PWR_THERM_TJ tj)
  let s := fset s Reg.PWR_THERM_TRIP_MAX ((Config.freeWord f).toNat % 256)
  let s := fsetb s Reg.PWR_STATUS_THROTTLING (decide (lim < tj))
  let s := if lim ≤ tj ∧ s.power.hot = false then raise s 0x9005 powerIsland (u8 tj ++ u16 at_) else s
  let tenths := if lim < tj then s.power.hotMs + 1 else s.power.hotMs
  let s := if 10 ≤ tenths then finc s (Reg.PWR_CNT_COUNT 3) else s
  let s := modPower s (fun p => { p with hot := decide (lim ≤ tj), hotMs := tenths % 10 })
  if lim ≤ tj then fset s Reg.PWR_FREQ_CURRENT_MHZ (min 800 (fget s Reg.PWR_FREQ_CURRENT_MHZ)) else s

/-- THERMAL_SCAN. -/
def execThermalScan (temps : List Nat) (s : State) : Out := whenAlive s (fun s => .next (thermalScan temps s))

/-- THERMAL_TRIP (R484): both latches, EFF 256, 0x9006; it stays until a reset. -/
def execThermalTrip (sensor : Nat) (s : State) : Out :=
  if alive s = false ∨ fbit s Reg.PWR_STATUS_TRIP = true ∨ 8 ≤ sensor then .next s
  else .next (raise (safeBoth 0xB (setEff (fsetb s Reg.PWR_STATUS_TRIP true))) 0x9006 powerIsland (u16 sensor))

/-- Estimated flow in L/min for M in µW and a difference in 0.1 K (R486). -/
def flowEstimate (m diff : Nat) : Num := (Num.ofInt (m * 600)).div (Num.ofInt (3965500000 * diff))

/-- COOLANT_SAMPLE (R486): inlet and outlet in 0.1 °C. -/
def coolantSample (inlet outlet : Nat) (s : State) : State :=
  let s := fset (fset s Reg.PWR_THERM_INLET (min (inlet / 10) 255)) Reg.PWR_THERM_OUTLET (min (outlet / 10) 255)
  let known := decide (inlet + 10 ≤ outlet)
  let low := known && decide (s.power.measured * 600 < 3965500000 * (outlet - inlet))
  let s := modPower s (fun p => { p with lowFlow := if low then some (p.lowFlow.getD s.time) else none })
  let long := match s.power.lowFlow with | some t => decide (t + 1000000000 ≤ s.time) | none => false
  let quiet := match s.power.coolWarn with | some t => decide (t + 60000000000 ≤ s.time) | none => true
  if (450 < inlet ∨ long = true) ∧ quiet = true then
    let (f, s) := takeFree s
    let flow := if known then rne32 (flowEstimate s.power.measured (outlet - inlet))
      else BitVec.ofNat 32 (Config.freeWord f).toNat
    raise (modPower s (fun p => { p with coolWarn := some s.time })) 0x900B powerIsland
      (u8 (min (inlet / 10) 255) ++ u8 (min (outlet / 10) 255) ++ wordLe flow)
  else s

/-- COOLANT_SAMPLE. -/
def execCoolantSample (inlet outlet : Nat) (s : State) : Out := whenAlive s (fun s => .next (coolantSample inlet outlet s))

/-- VIN_LOW (R469): V_in below 36 V for 1 ms. -/
def execVinLow (mv : Nat) (s : State) : Out :=
  if alive s ∧ mv < 36000 then .next (raise s 0x9008 powerIsland (u16 mv)) else .next s

/-- PRES_TERM_REMOVAL (R556). -/
def execPresTermRemoval (s : State) : Out :=
  match s.power.presentAt with
  | none => .next s
  | some t =>
    if s.power.presTerm = true ∧ s.power.absent = false ∧ t + 10000000 ≤ s.time
    then .next (modPower s (fun p => { p with presTerm := false, presentAt := none })) else .next s

/-! ### Power commands (R488) -/

/-- A cap field of POWER_CAP_SET: 0 restores the set's value. -/
def capField (v set_ : Nat) : Option Nat := if v = 0 ∨ v = set_ then none else some v

/-- The engine of POWER_CAP_SET: Q is kept and tested against the new Q_MAX (Table 18.4). -/
def powerCapEngine (c : QCmd) (s : State) : Verdict :=
  let vs := if c.field 16 2 = 0 then fget s Reg.PWR_CAP_CAP_S else c.field 16 2
  let vp := if c.field 18 2 = 0 then fget s Reg.PWR_CAP_CAP_P else c.field 18 2
  if c.length ≠ 1 ∨ c.reservedZero [(16, 4)] = false ∨ vs < 60 ∨ fget s Reg.PWR_CAP_CAP_S < vs ∨ vp < 60
      ∨ fget s Reg.PWR_CAP_CAP_P < vp ∨ vp < vs then invalid s
  else
    okay (bucketTest (modPower s (fun p => { p with
      capS := capField vs (fget s Reg.PWR_CAP_CAP_S), capP := capField vp (fget s Reg.PWR_CAP_CAP_P) })))

/-- POWER_CAP_SET (0x0710). -/
def execPowerCapSet (q n : Nat) (s : State) : Out := runEngine 0x0710 q n powerCapEngine s

end Sys2Proof.Machine
end

