-- ==== Sys2Proof/Machine/Yarrow.lean ====
section
/-! DEFINITION. Yarrow (R255 to R276): boundaries, the cascade, trips, groups, banks, setpoints, the commit, the safe-state
trajectory; its commands (R279, R601) and the checks of its configuration. -/

namespace Sys2Proof.Machine

/-- Yarrow's island. -/
def yarrowIsland : Nat := 65

/-! ### Histories: values with the instant from which they count, newest first -/

/-- Add a value; entries older than the first one that is at least `window` ns old are dropped. -/
def histPush (window t : Nat) (v : Word) (h : List (Nat × Word)) : List (Nat × Word) :=
  let recent := h.takeWhile (fun e => decide (t < e.1 + window))
  (t, v) :: (recent ++ (h.drop recent.length).take 1)

/-- The newest value from at or before an instant. -/
def histAt (t : Nat) (h : List (Nat × Word)) : Option (Nat × Word) := h.find? (fun e => decide (e.1 ≤ t))

/-- Number of a feedback or command word: port, node, word. -/
def wordKey (port node word : Nat) : Nat := 256 * port + 16 * node + word

/-- A feedback word's history. -/
def fbHist (s : State) (k : Nat) : List (Nat × Word) := storeGet (fun _ => []) s.yarrow.fb k

/-- A feedback word reaches Yarrow (R296). -/
def fbArrive (s : State) (k : Nat) (v : Word) : State :=
  modYarrow s (fun y => { y with fb := storeSet (fun _ => []) y.fb k (histPush 2001 s.time v (fbHist s k)), fbBad := y.fbBad.filter (· ≠ k) })

/-! ### Configuration -/

/-- Nominal period in ns of a rate code (Table 9.1). -/
def ratePeriod (r : Nat) : Nat := 1000000 / 2 ^ r

/-- RATE of a loop. -/
def loopRate (s : State) (l : Nat) : Nat := fget s (Reg.CTL_LOOP_CFG_RATE l)

/-- Feedback word of a loop. -/
def loopFbKey (s : State) (l : Nat) : Nat :=
  wordKey (fget s (Reg.CTL_LOOP_BIND_FB_PORT l)) (fget s (Reg.CTL_LOOP_BIND_FB_NODE l)) (fget s (Reg.CTL_LOOP_BIND_FB_WORD l))

/-- Command word of a loop. -/
def loopCmdKey (s : State) (l : Nat) : Nat :=
  wordKey (fget s (Reg.CTL_LOOP_BIND_CMD_PORT l)) (fget s (Reg.CTL_LOOP_BIND_CMD_NODE l)) (fget s (Reg.CTL_LOOP_BIND_CMD_WORD l))

/-- Whether a loop writes a command word. -/
def loopCmdEn (s : State) (l : Nat) : Bool := fbit s (Reg.CTL_LOOP_BIND_CMD_EN l)

/-- Loops in RUN or TRIPPED, rising. -/
def activeLoops (s : State) : List Nat := (s.yarrow.loops.filter (fun e => decide (e.2.state ≠ 0))).map (·.1)

/-- Members of group `g`; empty when it does not exist (R278). -/
def groupMembers (s : State) (g : Nat) : List Nat :=
  if fbit s (Reg.CTL_GROUP_EXISTS g) then
    [fget s (Reg.CTL_GROUP_MEMBER0 g), fget s (Reg.CTL_GROUP_MEMBER1 g), fget s (Reg.CTL_GROUP_MEMBER2 g),
     fget s (Reg.CTL_GROUP_MEMBER3 g)].take (fget s (Reg.CTL_GROUP_COUNT g))
  else []

/-- Groups that exist, rising. -/
def groupList (s : State) : List Nat := (List.range 64).filter (fun g => fbit s (Reg.CTL_GROUP_EXISTS g))

/-- The group of a loop. -/
def groupOf (s : State) (l : Nat) : Option Nat := (groupList s).find? (fun g => (groupMembers s g).contains l)

/-! ### Coefficients (Table 9.2) -/

/-- Active bank. -/
def Loop.coef (x : Loop) : List Word := if x.bank then x.bankB else x.bankA

/-- Word `i` of a coefficient record. -/
def cw (c : List Word) (i : Nat) : Word := c.getD i 0

/-- Write the idle bank. -/
def Loop.setIdle (x : Loop) (c : List Word) : Loop := if x.bank then { x with bankA := c } else { x with bankB := c }

/-- A coefficient record is valid (R265). -/
def coefValid (c : List Word) : Bool :=
  let fin (i : Nat) : Bool := (val32 (cw c i)).isFin
  let one := Num.ofInt 1
  ((List.range 11).all fin) && ((List.range 15).all (fun i => fin (14 + i)))
    && (Num.lt .zero (val32 (cw c 11)))
    && (Num.le (val32 (cw c 5)) (val32 (cw c 6))) && (Num.le (val32 (cw c 7)) (val32 (cw c 8)))
    && (Num.lt one.neg (val32 (cw c 2))) && (Num.lt (val32 (cw c 2)) one)
    && decide ((cw c 12).toNat ≤ 1000000) && decide ((cw c 13).toNat < 16)
    && ((List.range 3).all (fun i => decide (cw c (29 + i) = 0)))

/-! ### The cascade (R260) -/

/-- Values of one evaluation. `bad` says that an operand was not finite, or that a result was NaN or saturated (R262). -/
structure Sample where
  fb  : Word
  e   : Word
  d   : Word
  ic  : Word
  kie : Num
  u   : Word
  s1  : List Word
  s2  : List Word
  out : Word
  sat : Bool
  bad : Bool
  deriving DecidableEq, Repr

/-- One assignment: the rounded value and whether it broke R262. -/
def assign (a : Num) : Word × Bool := (rne32 a, a.isNan || sat32 a)

/-- `min(max(x, lo), hi)` on FP32 values. -/
def clamp32 (x lo hi : Word) : Word :=
  if Num.lt (val32 x) (val32 lo) then lo else if Num.lt (val32 hi) (val32 x) then hi else x

/-- A second-order section `k`, direct form II transposed, on (x, s1, s2, bad). -/
def section2 (c : List Word) (k : Nat) (p : Word × List Word × List Word × Bool) : Word × List Word × List Word × Bool :=
  let (x, s1, s2, bad) := p
  if bitAt (cw c 13).toNat (k + 1) = false then p
  else
    let co (j : Nat) : Num := val32 (cw c (14 + 5 * k + j))
    let a := val32 (s1.getD k 0)
    let b := val32 (s2.getD k 0)
    let (y, e1) := assign (((co 0).mul (val32 x)).add a)
    let (n1, e2) := assign ((((co 1).mul (val32 x)).sub ((co 3).mul (val32 y))).add b)
    let (n2, e3) := assign (((co 2).mul (val32 x)).sub ((co 4).mul (val32 y)))
    (y, s1.set k n1, s2.set k n2, bad || e1 || e2 || e3)

/-- Evaluate R260 for a loop with setpoint `sp`, not a NaN-guarded one: `bad` reports R262. -/
def evalLoop (x : Loop) (fbRaw : Nat) (sp : Word) : Sample :=
  let c := x.coef
  let v (i : Nat) : Num := val32 (cw c i)
  let (fb, e0) := assign ((Num.ofInt (sint 32 fbRaw)).mul (v 9))
  let (e, e1) := assign ((val32 sp).sub (val32 fb))
  let en := val32 e
  let pid := bitAt (cw c 13).toNat 0
  let kie := (v 1).mul en
  let (p, e2) := assign ((v 0).mul en)
  let (d, e3) := assign (((v 2).mul (val32 x.d)).add ((v 3).mul (en.sub (val32 x.e))))
  let (ir, e4) := assign ((val32 x.integ).add kie)
  let ic := clamp32 ir (cw c 5) (cw c 6)
  let (u, e5) := if pid
    then assign ((((v 4).mul (val32 sp)).add (val32 p)).add ((val32 ic).add (val32 d)))
    else assign (((v 4).mul (val32 sp)).add en)
  let bad := !(val32 sp).isFin || e0 || e1 || e5 || (pid && (e2 || e3 || e4))
  let (y, s1, s2, bad) := (List.range 3).foldl (fun p k => section2 c k p) (u, x.s1, x.s2, bad)
  let out := clamp32 y (cw c 7) (cw c 8)
  ⟨fb, e, if pid then d else x.d, ic, kie, u, s1, s2, out, decide (out ≠ y), bad⟩

/-! ### One loop at a boundary -/

/-- What a loop brings to its boundary: its output, and what it commits once its group is resolved. -/
structure Result where
  l      : Nat
  out    : Word
  sample : Option Sample
  deriving DecidableEq, Repr

/-- Trajectory record of a loop (Table 14.7). -/
def trajectory (s : State) (l : Nat) : Option (List Byte) :=
  s.safety.trajRecs.find? (fun r => decide (fieldAt r 0 1 = l))

/-- Point `k` of a trajectory: (0, SP_E), then the knots (T in ns). -/
def trajPoint (r : List Byte) (spE : Word) (k : Nat) : Nat × Word :=
  if k = 0 then (0, spE)
  else (fieldAt r (8 + 8 * (k - 1)) 4 * 1000000, BitVec.ofNat 32 (fieldAt r (12 + 8 * (k - 1)) 4))

/-- The trajectory's setpoint at τ ns after E (R413): the difference, the fraction, their product and the sum, each rounded
(log entry 26). -/
def trajSp (r : List Byte) (spE : Word) (tau : Nat) : Word :=
  let knots := fieldAt r 1 1
  match (List.range knots).find? (fun k => decide (tau < (trajPoint r spE (k + 1)).1)) with
  | none => (trajPoint r spE knots).2
  | some k =>
    let (t0, a) := trajPoint r spE k
    let (t1, b) := trajPoint r spE (k + 1)
    let diff := fsub32 b a
    let frac := rne32 ((Num.ofInt (tau - t0 : Nat)).div (Num.ofInt (t1 - t0 : Nat)))
    fadd32 a (fmul32 diff frac)

/-- E, the instant of safe-state entry. -/
def safeE (s : State) : Nat := fget s Reg.SAFE_ENTRY_TIME_E

/-- Last knot time of any trajectory record in ns. -/
def lastKnot (s : State) : Nat :=
  s.safety.trajRecs.foldl (fun m r => max m (trajPoint r 0 (fieldAt r 1 1)).1) 0

/-- The frame action that a loop's boundary `b` takes for frame `f` (R274): none, COMMIT (1) or HOLD (2). -/
def frameAction (f : YFrame) (b : Nat) : Option Nat :=
  match f.action with
  | some (a, w) => if w + 100 ≤ b then some a else none
  | none => none

/-- Replace a frame. -/
def setFrame (s : State) (f : YFrame) : State :=
  modYarrow s (fun y => { y with frames := y.frames.map (fun g => if g.t = f.t then f else g) })

/-- The commit boundary of a COMMITTED loop for one frame (R274). 0x4003, raised once per frame, names the first loop whose boundary
finds no CTL_COMMIT. -/
def commitOne (l b : Nat) (f : YFrame) (s : State) : State :=
  let x := loop s l
  let x := { x with committed := some f.t }
  if framesHeld s then setLoop (fsetb s Reg.CTL_STATUS_HOLD true) l x
  else
    match frameAction f b with
    | some 1 =>
      setLoop (fsetb s Reg.CTL_STATUS_HOLD false) l { x with spPrev := x.sp, sp := x.spIdle, extrap := false }
    | act =>
      let s := fsetb s Reg.CTL_STATUS_HOLD true
      let ext := !x.extrap
      let s := if act = none ∧ f.missing = false then raise s 0x4003 yarrowIsland (u16 l) else s
      let s := if f.held then s else raise s 0x4002 yarrowIsland (u16 l ++ u8 (b2n ext))
      let s := setFrame s { f with missing := f.missing || decide (act = none), held := true }
      setLoop s l (if ext then
        { x with spPrev := x.sp, extrap := true,
                 sp := rne32 (((Num.ofInt 2).mul (val32 x.sp)).sub (val32 x.spPrev)) } else x)

/-- Every frame whose commit boundary for the loop is this one. -/
def commitBoundary (l b : Nat) (s : State) : State :=
  let due := s.yarrow.frames.filter (fun f =>
    decide (f.t + fget s Reg.CTL_FRAME_CFG_COMMIT_US * 1000 < b)
      && (match (loop s l).committed with | none => true | some t => decide (t < f.t)))
  due.reverse.foldl (fun s f => commitOne l b ((s.yarrow.frames.find? (fun g => decide (g.t = f.t))).getD f) s) s

/-- The commit boundaries of every COMMITTED loop of rate `r`, in increasing loop number; an OFF loop has them too (R274). -/
def commitBoundaries (r b : Nat) (s : State) : State :=
  if inSafe s then s
  else forEach ((List.range 256).filter (fun l => decide (loopRate s l = r) && loopCommitted s l)) (fun l s => commitBoundary l b s) s

/-- The setpoint of a loop at boundary `b` (R264, R276, R413); `outs` are the outputs of lower loops at this boundary. -/
def loopSetpoint (l b : Nat) (outs : List Result) (s : State) : Word × State :=
  let src := fget s (Reg.CTL_LOOP_CFG_SP_SRC l)
  if src = 2 then
    match outs.find? (fun r => decide (r.l = fget s (Reg.CTL_LOOP_CFG_SP_LOOP l))) with
    | some r => (r.out, s)
    | none => let (f, s) := takeFree s; (BitVec.ofNat 32 (Config.freeWord f).toNat, s)
  else if src = 1 ∧ inSafe s = true ∧ safeE s + 1000 < b then
    match trajectory s l with
    | some r =>
      let sp := trajSp r (loop s l).spE (b - safeE s)
      (sp, setLoop s l { loop s l with sp := sp })
    | none => ((loop s l).sp, s)
  else ((loop s l).sp, s)

/-- Count and fix a trip (R269); that of a CRIT loop is signalled to Cowslip. -/
def tripLoop (l cause : Nat) (e : Word) (s : State) : State :=
  let x := loop s l
  let c := x.coef
  let out := if fbit s (Reg.CTL_LOOP_CFG_TRIP_OUT l) then clamp32 0 (cw c 7) (cw c 8) else x.out
  let s := setLoop s l { x with state := 2, cause := cause, out := out }
  let s := if fbit s (Reg.CTL_LOOP_CFG_CRIT l) then modSafety s (fun y => { y with critTrip := some (y.critTrip.getD (l, s.time)) }) else s
  raise s 0x4001 yarrowIsland (u16 l ++ u8 cause ++ wordLe e ++ leBytes 4 (min (x.feNs / 1000) 0xFFFFFFFF)
    ++ u8 (fget s (Reg.CTL_LOOP_CFG_CRIT l)))

/-- The following-error timer after a sample with error `e` (R268): (ns, running). -/
def feStep (x : Loop) (period : Nat) (e : Word) : Nat × Bool :=
  let en := val32 e
  if en.isNan then (x.feNs, x.feOn)
  else if Num.lt (val32 (cw x.coef 11)) en.abs then (if x.feOn then x.feNs + period else 0, true)
  else (0, false)

/-- Whether a loop's error has stayed within SETTLE_TOL since (R414). -/
def settleMark (s : State) (l b : Nat) (e : Word) (old : Option Nat) : Option Nat :=
  match trajectory s l with
  | none => old
  | some r =>
    if Num.le (val32 e).abs (val32 (BitVec.ofNat 32 (fieldAt r 4 4))) then some (old.getD b) else none

/-- A sample on which the loop trips. -/
def tripSample (l cause : Nat) (e : Word) (s : State) : Result × State :=
  let s := tripLoop l cause e s
  (⟨l, (loop s l).out, none⟩, s)

/-- Evaluate a RUN loop: stale run, trips, or a sample whose commit waits for its group. -/
def sampleLoop (l b : Nat) (sp : Word) (stale : Nat) (s : State) : Result × State :=
  let x := loop s l
  let r := evalLoop x x.fb.toNat sp
  let (fe, on) := feStep x (ratePeriod (loopRate s l)) r.e
  let limit := fget s (Reg.CTL_LOOP_CFG_STALE_LIMIT l)
  let feHit := on && decide ((cw x.coef 12).toNat * 1000 ≤ fe)
  let s := setLoop s l { x with staleRun := min stale 15, okSince := settleMark s l b r.e x.okSince }
  let s := if feHit ∧ inSafe s = true ∧ x.feSafe = false
    then raise (setLoop s l { loop s l with feSafe := true }) 0x4006 yarrowIsland (u16 l) else s
  if r.bad then tripSample l 3 r.e s
  else if feHit ∧ inSafe s = false then tripSample l 1 r.e s
  else if 0 < limit ∧ limit ≤ stale then tripSample l 2 r.e s
  else
    let x := loop s l
    let s := setLoop s l { x with
      out := r.out, e := r.e, d := r.d, s1 := r.s1, s2 := r.s2, feNs := fe, feOn := on,
      sat := if r.sat then satAdd 16 x.sat 1 else x.sat }
    (⟨l, r.out, some r⟩, s)

/-- One RUN or TRIPPED loop at boundary `b` (R257 to R269). -/
def loopAt (b l : Nat) (p : List Result × State) : List Result × State :=
  let (outs, s) := p
  let h := fbHist s (loopFbKey s l)
  let x := loop s l
  let newest := (h.head?).map (·.1)
  let fresh := match x.lastSample, newest with
    | none, _ => true
    | some t, some n => decide (t < n)
    | some _, none => false
  let bad := s.yarrow.fbBad.contains (loopFbKey s l)
  let stale := if fresh && !bad then 0 else x.staleRun + 1
  let used := (histAt (b - 2001) h).map (·.2)
  let s := if bad then stagingUncorr s yarrowIsland 0xFF 0 else s
  let s := setLoop s l { x with lastSample := some b, fb := if bad then x.fb else used.getD 0 }
  if x.state = 2 then
    (outs ++ [⟨l, x.out, none⟩], setLoop s l { loop s l with staleRun := min stale 15, okSince := none })
  else
    let (sp, s) := loopSetpoint l b outs s
    let (r, s) := sampleLoop l b sp stale s
    (outs ++ [r], s)

/-! ### Groups, integrators and command words -/

/-- The selected member of a group: the index of the least out, lowest index on a tie (R271). -/
def groupSelect (ms : List (Nat × Word)) : Option (Nat × Word) :=
  ms.foldl (fun b m => match b with
    | none => some m
    | some x => if Num.lt (val32 m.2) (val32 x.2) then some m else some x) none

/-- Commit the integrator of a loop (R261). -/
def commitInteg (r : Result) (selected : Bool) (s : State) : State :=
  match r.sample with
  | none => s
  | some v =>
    let x := loop s r.l
    let c := x.coef
    let u := val32 v.u
    let lo := val32 (cw c 7)
    let hi := val32 (cw c 8)
    let inside := Num.le lo u && Num.le u hi
    let easing := (Num.lt hi u && Num.lt v.kie .zero) || (Num.lt u lo && Num.lt .zero v.kie)
    if bitAt (cw c 13).toNat 0 && selected && (inside || easing) then setLoop s r.l { x with integ := v.ic } else s

/-- A port's deliver image. -/
def rport (s : State) (p : Nat) : RPort := storeGet (fun _ => RPort.init) s.rings.ports p

/-- Replace a port. -/
def setRport (s : State) (p : Nat) (x : RPort) : State :=
  { s with rings := { s.rings with ports := storeSet (fun _ => RPort.init) s.rings.ports p x } }

/-- Write a command word into the deliver image; copies take it from instant `from_` on (R258, R295). -/
def imageWrite (port node word from_ : Nat) (v : Word) (s : State) : State :=
  let x := rport s port
  let k := 16 * node + word
  let h := histPush 30000 from_ v (storeGet (fun _ => []) x.image k)
  setRport s port { x with image := storeSet (fun _ => []) x.image k h, badWords := x.badWords.filter (· ≠ k) }

/-- Write a loop's command word for an output (R263): into frames launched at least 20 µs after the boundary, whose copies
come 10 µs before launch. -/
def writeCommand (l b : Nat) (out : Word) (s : State) : State :=
  if loopCmdEn s l then
    let v := clampInt (-2147483648) 2147483647 ((val32 out).mul (val32 (cw (loop s l).coef 10))).rneInt
    imageWrite (fget s (Reg.CTL_LOOP_BIND_CMD_PORT l)) (fget s (Reg.CTL_LOOP_BIND_CMD_NODE l))
      (fget s (Reg.CTL_LOOP_BIND_CMD_WORD l)) (b + 10000) (BitVec.ofInt 32 v) s
  else s

/-- Resolve one group over the results of a boundary (R271). -/
def resolveGroup (b : Nat) (rs : List Result) (g : Nat) (s : State) : State :=
  let ms := groupMembers s g
  let part := (List.range ms.length).filterMap (fun i =>
    (rs.find? (fun r => decide (r.l = ms.getD i 0))).map (fun r => (i, r.out)))
  match groupSelect part with
  | none => s
  | some (i, out) =>
    let s := fset s (Reg.CTL_GROUP_SEL g) i
    let s := forEach (rs.filter (fun r => ms.contains r.l)) (fun r s => commitInteg r (decide (r.l = ms.getD i 0)) s) s
    if part.any (fun m => decide (m.1 = 0)) then writeCommand (ms.getD 0 0) b out s else s

/-- After all evaluations of a boundary: groups, then the loops outside groups. -/
def finishBoundary (b : Nat) (rs : List Result) (s : State) : State :=
  let s := forEach ((groupList s).filter (fun g => rs.any (fun r => (groupMembers s g).contains r.l)))
    (fun g s => resolveGroup b rs g s) s
  forEach (rs.filter (fun r => (groupOf s r.l).isNone)) (fun r s => writeCommand r.l b r.out (commitInteg r true s)) s

/-! ### Requests at a boundary (R272, R275, R601) -/

/-- Zeroed states as LOOP_ENABLE and TRIP_CLEAR leave them. -/
def Loop.zeroed (x : Loop) : Loop :=
  { x with integ := 0, d := 0, e := 0, s1 := [0, 0, 0], s2 := [0, 0, 0], feNs := 0, feOn := false, staleRun := 0, sat := 0,
           lastSample := none }

/-- Apply the kinds of request that are due at a boundary; `t` is the latest frame whose commit boundary has gone by. -/
def Loop.applyReqs (x : Loop) (due : List Req) (t : Option Nat) : Loop :=
  let has (k : ReqKind) : Bool := due.any (fun r => decide (r.kind = k))
  let x := if has .swap then { x with bank := !x.bank } else x
  let x := if has .setpoint ∧ x.state ≠ 0 then { x with spPrev := x.sp, sp := x.spIdle } else x
  let x := if has .enable ∧ x.state = 0
    then { x.zeroed with state := 1, sp := x.spIdle, spPrev := x.spIdle, extrap := false, committed := t } else x
  if has .clear ∧ x.state = 2 then { x.zeroed with state := 1 } else x

/-- Write a waiting COEF_WRITE's records until one waits for a swap (R273). -/
def coefAdvance (w : CoefWait) (s : State) : List (Nat × List Word) × State :=
  w.rest.foldl (fun (p : List (Nat × List Word) × State) e =>
    if p.1 ≠ [] ∨ (loop p.2 e.1).reqs.any (fun r => decide (r.kind = .swap)) = true then (p.1 ++ [e], p.2)
    else (p.1, setLoop p.2 e.1 ((loop p.2 e.1).setIdle e.2))) ([], s)

/-- Let every waiting COEF_WRITE go on. -/
def coefSettle (s : State) : State :=
  s.yarrow.coefs.foldl (fun s w =>
    let (rest, s) := coefAdvance w s
    let keep (v : CoefWait) : Option CoefWait :=
      if v.q = w.q ∧ v.n = w.n then (if rest = [] then none else some { v with rest := rest }) else some v
    modYarrow s (fun y => { y with coefs := y.coefs.filterMap keep })) s

/-- A request that acts at boundary `b`: one taken at least 100 ns before it, or the swap of a SET_COMMIT taken before it (R267,
R272, R601). -/
def Req.due (b : Nat) (q : Req) : Bool := if q.cmd.isNone then decide (q.taken < b) else decide (q.taken + 100 ≤ b)

/-- Requests that are due at boundary `b` act on the loops of rate `r`. -/
def boundaryRequests (r b : Nat) (s : State) : State :=
  let before := (storeGet (fun _ => none) s.yarrow.rates r).map (·.at_)
  let passed (f : YFrame) : Bool := match before with
    | none => false
    | some p => decide (f.t + fget s Reg.CTL_FRAME_CFG_COMMIT_US * 1000 < p)
  let t := (s.yarrow.frames.find? passed).map (·.t)
  let ls := (s.yarrow.loops.filter (fun e => decide (e.2.reqs ≠ []))).map (·.1)
  let s := forEach (ls.filter (fun l => decide (loopRate s l = r))) (fun l s =>
    let x := loop s l
    setLoop s l { x.applyReqs (x.reqs.filter (Req.due b)) t with reqs := x.reqs.filter (fun q => !q.due b) }) s
  settleControl (coefSettle s)

/-- Irregular firings of a rate's trigger (R256). -/
def rateCheck (r b : Nat) (s : State) : State :=
  let now := (activeLoops s).filter (fun l => decide (loopRate s l = r))
  let trig := fget s (Reg.CTL_RATE_TRIG_TRIGGER_ID r)
  let s := match storeGet (fun _ => none) s.yarrow.rates r with
    | none => s
    | some m =>
      let gap := b - m.at_
      if m.trig = trig ∧ now ≠ [] ∧ m.loops ≠ [] ∧ (gap + 1000 < ratePeriod r ∨ ratePeriod r + 1000 < gap)
      then raise s 0x4005 yarrowIsland (u8 r ++ u32 gap) else s
  modYarrow s (fun y => { y with rates := storeSet (fun _ => none) y.rates r (some ⟨b, trig, now⟩) })

/-- The sample boundary of rate `r` at instant `b` (R257). -/
def sampleBoundary (r b : Nat) (s : State) : State :=
  let s := commitBoundaries r b (boundaryRequests r b s)
  let s := rateCheck r b s
  let due := (activeLoops s).filter (fun l => decide (loopRate s l = r))
  let (rs, s) := due.foldl (fun p l => loopAt b l p) ([], s)
  let s := finishBoundary b rs s
  let (f, s) := takeFree s
  if due = [] then s else fset s Reg.CTL_STATUS_LAST_EVAL_US ((Config.freeWord f).toNat % 11)

/-- The whole-body frame trigger fires at `t`: a frame whose commit may come (R274). -/
def yarrowFrame (t : Nat) (s : State) : State :=
  modYarrow s (fun y => { y with frames := ⟨t, none, false, false⟩ :: y.frames.take 1 })

/-- CTL_COMMIT by Cowslip: the first write for the present frame is taken (R274). -/
def commitWrite (action : Nat) (s : State) : State :=
  match s.yarrow.frames with
  | [] => s
  | f :: rest =>
    if (action = 1 ∨ action = 2) ∧ f.action = none
    then modYarrow s (fun y => { y with frames := { f with action := some (action, s.time) } :: rest }) else s

/-! ### Commands (R279, R280) -/

/-- Loops a command names. -/
def ctlLoops (c : QCmd) : List Nat := (List.range c.length).map (· + c.field 16 2)

/-- The checks common to control commands: bytes used, range, alignment. `k` runs when they pass. -/
def ctlChecked (q : Nat) (c : QCmd) (va : Bool) (s : State) (k : Verdict) : Verdict :=
  let used := if va then [(16, 2), (24, 8)] else [(16, 2)]
  if c.reservedZero used = false ∨ (va = true ∧ opAligned q (c.field 24 8) 64 = false) then invalid s
  else if 256 < c.field 16 2 + c.length then invalid s (max 256 (c.field 16 2))
  else if c.opcode ≠ 0x0C06 ∧ inSafe s = true then .done Status.safetyHold 0 s
  else k

/-- Ask loops for something at their next boundary. -/
def askLoops (q : Nat) (c : QCmd) (kind : ReqKind) (ls : List Nat) (s : State) : State :=
  forEach ls (fun l s => setLoop s l { loop s l with reqs := (loop s l).reqs ++ [⟨kind, s.time, some (q, c.n)⟩] }) s

/-- The status of a failed operand of a control or ring command: a translation names the element that fails first (R280, R313). `try_`
says whether element `i` fails, `name` gives its DETAIL. -/
def failElement (q : Nat) (c : QCmd) (island : Nat) (try_ : Nat → Bool) (name : Nat → Nat) (e : AccErr) (s : State) : Verdict :=
  match e with
  | .uncorr _ => failOperand s q c island 0 e
  | .ptUncorr _ => failOperand s q c island 0 e
  | _ => invalid s (name (((List.range c.length).find? try_).getD 0))

/-- Whether element `i` of a read operand, `n` bytes each, fails. -/
def unreadElement (s : State) (q va n i : Nat) : Bool :=
  match opRead s q (va + n * i) n with
  | .error _ => true
  | .ok _ => false

/-- Whether element `i` of a written operand, `n` bytes each, fails. -/
def unwrittenElement (s : State) (q va n i : Nat) : Bool :=
  match opWrite s q (va + n * i) (List.replicate n 0) with
  | .error _ => true
  | .ok _ => false

/-- Wait for the boundaries of the loops asked, or complete at once. -/
def askVerdict (q : Nat) (c : QCmd) (kind : ReqKind) (ls : List Nat) (s : State) : Verdict :=
  if ls = [] then okay s
  else .wait (askLoops q c kind ls (modCmd s q c.n (fun d => { d with engaged := true })))

/-- The engine of LOOP_ENABLE: it completes at the first boundary of each loop named, and acts on those OFF there (R601). -/
def loopEnableEngine (q : Nat) (c : QCmd) (s : State) : Verdict :=
  if c.engaged then .wait s
  else ctlChecked q c false s
    (askVerdict q c .enable (ctlLoops c) s)

/-- LOOP_ENABLE (0x0C00). -/
def execLoopEnable (q n : Nat) (s : State) : Out := runEngine 0x0C00 q n (loopEnableEngine q) s

/-- A loop goes OFF; what waits for a boundary of it is settled at once (R601). -/
def Loop.off (x : Loop) : Loop :=
  let has (k : ReqKind) : Bool := x.reqs.any (fun r => decide (r.kind = k))
  let x := if has .swap then { x with bank := !x.bank } else x
  let x := if has .setpoint then { x with sp := x.spIdle, spPrev := x.spIdle } else x
  { x with state := 0, reqs := [] }

/-- Whether every loop that a CTL register concerns is OFF (R267, R277), before and after the change. -/
def ctlFree (s t : State) (off : Nat) : Bool :=
  let on (l : Nat) : Bool := decide ((loop s l).state ≠ 0)
  if off = Reg.CTL_FRAME_CFG then (activeLoops s).all (fun l => !loopCommitted s l)
  else if off < Reg.CTL_RATE_TRIG 5 then (activeLoops s).all (fun l => decide (Reg.CTL_RATE_TRIG (loopRate s l) ≠ off))
  else if off < 0x400300 then
    let g := (off - Reg.CTL_GROUP 0) / 8
    (groupMembers s g ++ groupMembers t g).all (fun l => !on l)
  else !on ((off - Reg.CTL_LOOP_CFG 0) / 64)

/-- The words of a SET_COMMIT that running loops have kept out take effect once the loops they concern are OFF (R267; log entry
68). -/
def takeDeferred (s : State) : State :=
  let t := forEach s.yarrow.later (fun e s => setRegWord s e.1 e.2.toNat) s
  let free := s.yarrow.later.filter (fun e => ctlFree s t e.1)
  modYarrow (forEach free (fun e s => setRegWord s e.1 e.2.toNat) s)
    (fun y => { y with later := y.later.filter (fun e => !free.contains e) })

/-- The engine of LOOP_DISABLE. -/
def loopDisableEngine (q : Nat) (c : QCmd) (s : State) : Verdict :=
  ctlChecked q c false s
    (okay (takeDeferred (settleControl (coefSettle (forEach (ctlLoops c) (fun l s => setLoop s l (loop s l).off) s)))))

/-- LOOP_DISABLE (0x0C01). -/
def execLoopDisable (q n : Nat) (s : State) : Out := runEngine 0x0C01 q n (loopDisableEngine q) s

/-- The engine of COEF_WRITE (R273): every record is checked before any is written. -/
def coefWriteEngine (q : Nat) (c : QCmd) (s : State) : Verdict :=
  if c.engaged then .wait s
  else ctlChecked q c true s (
    match opRead s q (c.field 24 8) (128 * c.length) with
    | .error e => failElement q c yarrowIsland (unreadElement s q (c.field 24 8) 128) (· + c.field 16 2) e s
    | .ok bs =>
      let recs := (ctlLoops c).zip ((chunks c.length 128 bs).map (bytesToWords 32))
      match recs.find? (fun r => !coefValid r.2) with
      | some r => invalid s r.1
      | none =>
        let (rest, s) := coefAdvance ⟨q, c.n, recs⟩ s
        if rest = [] then okay s
        else .wait (modYarrow (modCmd s q c.n (fun d => { d with engaged := true }))
          (fun y => { y with coefs := y.coefs ++ [⟨q, c.n, rest⟩] })))

/-- COEF_WRITE (0x0C02). -/
def execCoefWrite (q n : Nat) (s : State) : Out := runEngine 0x0C02 q n (coefWriteEngine q) s

/-- The engine of BANK_SWAP (R272): an OFF loop swaps at once. -/
def bankSwapEngine (q : Nat) (c : QCmd) (s : State) : Verdict :=
  if c.engaged then .wait s
  else ctlChecked q c false s (
    let off := (ctlLoops c).filter (fun l => decide ((loop s l).state = 0))
    let on := (ctlLoops c).filter (fun l => decide ((loop s l).state ≠ 0))
    askVerdict q c .swap on (forEach off (fun l s => setLoop s l { loop s l with bank := !(loop s l).bank }) s))

/-- BANK_SWAP (0x0C03). -/
def execBankSwap (q n : Nat) (s : State) : Out := runEngine 0x0C03 q n (bankSwapEngine q) s

/-- The engine of SETPOINT_WRITE (R275). -/
def setpointEngine (q : Nat) (c : QCmd) (s : State) : Verdict :=
  if c.engaged then .wait s
  else ctlChecked q c true s (
    match opRead s q (c.field 24 8) (4 * c.length) with
    | .error e => failElement q c yarrowIsland (unreadElement s q (c.field 24 8) 4) (· + c.field 16 2) e s
    | .ok bs =>
      match (ctlLoops c).find? (fun l => loopCommitted s l && decide ((loop s l).state ≠ 0)) with
      | some l => refuse s l
      | none =>
        let vs := (ctlLoops c).zip (bytesToWords c.length bs)
        let s := forEach vs (fun (l, v) s =>
          let x := loop s l
          setLoop s l (if x.state = 0 then { x with spIdle := v, sp := v, spPrev := v } else { x with spIdle := v })) s
        askVerdict q c .setpoint ((ctlLoops c).filter (fun l => decide ((loop s l).state ≠ 0))) s)

/-- SETPOINT_WRITE (0x0C04). -/
def execSetpointWrite (q n : Nat) (s : State) : Out := runEngine 0x0C04 q n (setpointEngine q) s

/-- The engine of TRIP_CLEAR: it completes at the next boundary of each loop named, and acts on those TRIPPED there (R601). -/
def tripClearEngine (q : Nat) (c : QCmd) (s : State) : Verdict :=
  if c.engaged then .wait s
  else ctlChecked q c false s
    (askVerdict q c .clear (ctlLoops c) s)

/-- TRIP_CLEAR (0x0C05). -/
def execTripClear (q n : Nat) (s : State) : Out := runEngine 0x0C05 q n (tripClearEngine q) s

/-! ### Registers of a loop (Table 9.4) -/

/-- CTL_LOOP_STATE of a loop. -/
def loopStateWord (x : Loop) : Nat :=
  x.sat * 2 ^ 16 + x.staleRun * 2 ^ 12 + x.cause * 2 ^ 8
    + b2n (x.reqs.any (fun r => decide (r.kind = .swap))) * 2 ^ 4 + b2n x.extrap * 2 ^ 3 + b2n x.bank * 2 ^ 2 + x.state

/-- Word `i` of a loop's 64-byte register block. -/
def loopWord (s : State) (l i : Nat) : Nat :=
  let x := loop s l
  if i = 0 then regWord s (Reg.CTL_LOOP_CFG l) else if i = 1 then regWord s (Reg.CTL_LOOP_BIND l)
  else if i = 2 then loopStateWord x else if i = 3 then x.fb.toNat else if i = 4 then x.sp.toNat
  else if i = 5 then x.spPrev.toNat else if i = 6 then x.spIdle.toNat else if i = 7 then x.out.toNat
  else if i = 8 then x.integ.toNat else if i = 9 then min (x.feNs / 1000) 0xFFFFFFFF else 0

/-- The engine of LOOP_READ. -/
def loopReadEngine (q : Nat) (c : QCmd) (s : State) : Verdict :=
  ctlChecked q c true s (
    let bs := (ctlLoops c).flatMap (fun l => (List.range 16).flatMap (fun i => leBytes 4 (loopWord s l i)))
    match opWrite s q (c.field 24 8) bs with
    | .error e => failElement q c yarrowIsland (unwrittenElement s q (c.field 24 8) 64) (· + c.field 16 2) e s
    | .ok s => okay s)

/-- LOOP_READ (0x0C06). -/
def execLoopRead (q n : Nat) (s : State) : Out := runEngine 0x0C06 q n (loopReadEngine q) s

/-! ### Configuration checks (R258, R264, R270, R277, R326) -/

/-- Whether a trigger number is below 64 and armed. -/
def trigArmed (s : State) (t : Nat) : Bool := decide (t < 64) && fbit s (Reg.TIME_TRIG_STATE_ARMED t)

/-- R258: a loop with CMD_EN = 1 is no faster than its port's ring cycle. -/
def loopRateOk (s : State) (l : Nat) : Bool :=
  !loopCmdEn s l || decide (loopRate s l ≤ fget s (Reg.RING_PORT_CFG_RATE (fget s (Reg.CTL_LOOP_BIND_CMD_PORT l))))

/-- The rules a loop's CFG and BIND obey on their own: RATE, SP_SRC, SP_LOOP (R264). -/
def loopShapeOk (s : State) (l : Nat) : Bool :=
  let src := fget s (Reg.CTL_LOOP_CFG_SP_SRC l)
  let sl := fget s (Reg.CTL_LOOP_CFG_SP_LOOP l)
  decide (loopRate s l ≤ 4 ∧ src ≤ 2 ∧ (src = 2 → sl < l ∧ loopRate s sl = loopRate s l))

/-- No other loop with CMD_EN = 1 names the same command word. -/
def loopWordOk (s : State) (l : Nat) : Bool :=
  !loopCmdEn s l || (List.range 256).all (fun k =>
    decide (k = l) || !loopCmdEn s k || decide (loopCmdKey s k ≠ loopCmdKey s l))

/-- R270 for group `g` as configured: counts, distinct members, one rate, one command word, no shared member. -/
def groupOk (s : State) (g : Nat) : Bool :=
  let ms := groupMembers s g
  let n := fget s (Reg.CTL_GROUP_COUNT g)
  !fbit s (Reg.CTL_GROUP_EXISTS g) ||
    (decide (1 ≤ n ∧ n ≤ 4) && decide (ms.Nodup)
      && ms.all (fun l => decide (loopRate s l = loopRate s (ms.getD 0 0)))
      && (ms.drop 1).all (fun l => !loopCmdEn s l)
      && (groupList s).all (fun h => decide (h = g) || ms.all (fun l => !(groupMembers s h).contains l)))

/-- Loops whose SP_LOOP names `l`, and groups of `l`, stay well formed. -/
def loopNeighboursOk (s : State) (l : Nat) : Bool :=
  (List.range 256).all (fun k => decide (fget s (Reg.CTL_LOOP_CFG_SP_SRC k) ≠ 2 ∨ fget s (Reg.CTL_LOOP_CFG_SP_LOOP k) ≠ l)
    || loopShapeOk s k)
  && (match groupOf s l with | none => true | some g => groupOk s g)

/-- R326 for a rate: some loop has it only when its trigger is armed; the trigger number is below 64. -/
def rateTrigOk (s : State) (r : Nat) : Bool :=
  let t := fget s (Reg.CTL_RATE_TRIG_TRIGGER_ID r)
  decide (t < 64) && (trigArmed s t || (List.range 256).all (fun l => decide (loopRate s l ≠ r)))

/-- R326 for CTL_FRAME_CFG. -/
def frameTrigOk (s : State) : Bool :=
  let t := fget s Reg.CTL_FRAME_CFG_TRIGGER_ID
  decide (t < 64) && (trigArmed s t || (List.range 256).all (fun l => !loopCommitted s l))

/-- COMMIT_US in range. -/
def frameCfgOk (s : State) : Bool :=
  decide (1 ≤ fget s Reg.CTL_FRAME_CFG_COMMIT_US ∧ fget s Reg.CTL_FRAME_CFG_COMMIT_US ≤ 999) && frameTrigOk s

end Sys2Proof.Machine
end

