-- ==== Sys2Proof/Machine/Rings.lean ====
section
/-! DEFINITION. Bindweed rings and Teasel (R282 to R314): launches, returns, outcomes, discovery and layout, rules, and the
ring commands. -/

namespace Sys2Proof.Machine

/-- Island of the ring ports. -/
def ringIsland : Nat := 60

/-- STATE of a port (Table 10.5). -/
def portState (s : State) (p : Nat) : Nat := fget s (Reg.RING_PORT_STATE_STATE p)

/-- NODES of a port. -/
def portNodes (s : State) (p : Nat) : Nat := fget s (Reg.RING_PORT_CFG_NODES p)

/-- Whether a node is silent in the frame (R296). -/
def slotSilent (seq : Nat) (slots : List GatherSlot) (n : Nat) : Bool :=
  match slots[n]? with
  | some g => decide (g.seqEcho % 256 ≠ seq % 256)
  | none => true

/-! ### Layout (R286, R293) -/

/-- Bytes of a node's gather slot. -/
def gatherBytes (s : State) (p n : Nat) : Nat :=
  4 + 4 * fget s (Reg.RING_NODE_LAYOUT_FB_WORDS p n) + 4 * fget s (Reg.RING_NODE_LAYOUT_BULK_UNITS p n)

/-- Payload bytes of a CYCLIC frame. -/
def payloadBytes (s : State) (p : Nat) : Nat :=
  (List.range (portNodes s p)).foldl (fun a n => a + gatherBytes s p n + 4 * fget s (Reg.RING_NODE_LAYOUT_CMD_WORDS p n)) 32

/-- ROUND_NS for a sum of hop delays and a payload. -/
def roundFor (hops payload : Nat) : Nat := 2 * hops + 1050 + 8 * (26 + max 46 payload)

/-- ROUND_NS of a port's configuration (R293). -/
def roundNs (s : State) (p : Nat) : Nat :=
  roundFor ((List.range (portNodes s p)).foldl (fun a n => a + fget s (Reg.RING_NODE_LAYOUT_HOP_NS p n)) 0) (payloadBytes s p)

/-! ### Frames (R283, R285, R286) -/

/-- A ring frame up to its FCS: destination, source 02-00-4E-4C-0m-0p, EtherType 0x88B5, payload and padding (R283). -/
def ringFrame (s : State) (p : Nat) (payload : List Byte) : List Byte :=
  List.replicate 6 0xFF ++ [0x02, 0x00, 0x4E, 0x4C] ++ u8 (modnum s) ++ u8 p ++ [0x88, 0xB5]
    ++ padTo (max 46 payload.length) payload

/-- The payload header (Table 10.1): TYPE, LAP, SEQ, launch time, FLAGS, both counts, and the payload's bytes after it. -/
def ringHeader (s : State) (p type lap seq launch flags gather deliver body : Nat) : List Byte :=
  u8 1 ++ u8 type ++ u8 (portNodes s p) ++ u8 lap ++ leBytes 4 seq ++ leBytes 4 launch ++ u16 (rport s p).layoutId ++ u8 flags ++ [0]
    ++ u8 gather ++ u8 deliver ++ u16 (32 + body) ++ List.replicate 12 0

/-- FLAGS of a CYCLIC frame: SAFE (R303), COMMAND_INVALID (R307, R309). -/
def Flight.flags (f : Flight) : Nat := b2n f.safe + 2 * b2n f.invalid

/-- A CYCLIC frame on a lap, with its gather section (R286). -/
def cyclicFrame (s : State) (p lap gather : Nat) (f : Flight) (slots : List Byte) (cmds : List (List Word)) : List Byte :=
  let body := slots ++ cmds.flatMap wordsToBytes
  ringFrame s p (ringHeader s p 1 lap f.seq f.launch f.flags gather 0 body.length ++ body)

/-- A gather slot, as bytes (Table 10.2). -/
def gatherSlotBytes (s : State) (p n : Nat) (g : GatherSlot) : List Byte :=
  leBytes 1 g.seqEcho ++ leBytes 1 g.nstatus ++ leBytes 2 g.ninfo
    ++ padTo (4 * fget s (Reg.RING_NODE_LAYOUT_FB_WORDS p n)) (wordsToBytes g.fb)
    ++ padTo (4 * fget s (Reg.RING_NODE_LAYOUT_BULK_UNITS p n)) g.bulk

/-- The gather section of a frame that returns. -/
def gatherSection (s : State) (p : Nat) (slots : List GatherSlot) : List Byte :=
  (List.range (portNodes s p)).flatMap fun n => gatherSlotBytes s p n ((slots[n]?).getD ⟨0, 0, 0, [], []⟩)

/-- Bytes of a port's gather section. -/
def gatherTotal (s : State) (p n : Nat) : Nat := (List.range n).foldl (fun a i => a + gatherBytes s p i) 0

/-- A frame leaves end A. -/
def ringOut (p : Nat) (inverse : Bool) (frame : List Byte) (s : State) : State :=
  { s with outbox := s.outbox ++ [.ring p inverse frame] }

/-- Return deadline of a DISCOVER frame (R305): HOP_NS 1,000 for every node, 16 identity slots. -/
def discoverDeadline (s : State) (p launch : Nat) : Nat := launch + roundFor (1000 * portNodes s p) (32 + 512) + 2000

/-! ### Rules (Table 10.4) -/

/-- A rule's record. -/
def rule (s : State) (r : Nat) : List Byte := storeGet (fun _ => ruleInit) s.rings.rules r

/-- Replace a rule's record. -/
def setRule (s : State) (r : Nat) (b : List Byte) : State :=
  { s with rings := { s.rings with rules := storeSet (fun _ => ruleInit) s.rings.rules r b } }

/-- PORT, ACTION, COND, RFLAGS, SRC_NODE, SRC_WORD, TGT_NODE, TGT_WORD. -/
def ruleByte (b : List Byte) (i : Nat) : Nat := fieldAt b i 1

/-- LO, HI, CLAMP_LO, CLAMP_HI, VALUE by offset, as s32. -/
def ruleInt (b : List Byte) (off : Nat) : Int := sint 32 (fieldAt b off 4)

/-- Used rules of a port, rising. -/
def rulesOf (s : State) (p : Nat) : List Nat :=
  (s.rings.rules.filter (fun e => decide (ruleByte e.2 1 ≠ 0 ∧ ruleByte e.2 0 = p))).map (·.1)

/-- What R298 asks of every record, used or not: its reserved bits and bytes, and for a used rule an existing port. -/
def ruleShapeOk (b : List Byte) : Bool :=
  decide (ruleByte b 3 < 16 ∧ fieldAt b 28 4 = 0 ∧ ruleByte b 1 ≤ 4 ∧ (ruleByte b 1 = 0 ∨ ruleByte b 0 < 8))

/-- A rule is well formed against the port's layout (R298). -/
def ruleOk (s : State) (b : List Byte) : Bool :=
  let p := ruleByte b 0
  let sn := ruleByte b 4
  let tn := ruleByte b 6
  decide (ruleByte b 1 = 0) ||
    (ruleShapeOk b && decide (ruleByte b 2 ≤ 4)
      && decide (sn < portNodes s p ∧ tn < portNodes s p)
      && (decide (ruleByte b 5 = 16) || decide (ruleByte b 5 < fget s (Reg.RING_NODE_LAYOUT_FB_WORDS p sn)))
      && decide (ruleByte b 7 < fget s (Reg.RING_NODE_LAYOUT_CMD_WORDS p tn))
      && (decide (ruleByte b 2 ≠ 3) || decide (ruleInt b 8 ≤ ruleInt b 12))
      && (decide (ruleByte b 1 ≠ 1) || decide (ruleInt b 16 ≤ ruleInt b 20)))

/-- R298 over the rules of a port: each well formed, at most 64, at most 4 per command word. -/
def portRulesOk (s : State) (p : Nat) : Bool :=
  let rs := (rulesOf s p).map (rule s)
  rs.all (ruleOk s) && decide (rs.length ≤ 64)
    && rs.all (fun b => decide ((rs.filter (fun d => decide (ruleByte d 6 = ruleByte b 6 ∧ ruleByte d 7 = ruleByte b 7))).length ≤ 4))

/-! ### Port configuration (R286, R293, R298, R311, R326) -/

/-- Field ranges of a node's layout. -/
def nodeOk (s : State) (p n : Nat) : Bool :=
  let hop := fget s (Reg.RING_NODE_LAYOUT_HOP_NS p n)
  decide (1 ≤ hop ∧ hop ≤ 1000 ∧ fget s (Reg.RING_NODE_LAYOUT_FB_WORDS p n) ≤ 16
    ∧ fget s (Reg.RING_NODE_LAYOUT_CMD_WORDS p n) ≤ 16 ∧ fget s (Reg.RING_NODE_LAYOUT_BULK_UNITS p n) ≤ 128)

/-- A port's configuration holds; `armed` tells whether a trigger is armed. -/
def portOk (s : State) (armed : Nat → Bool) (p : Nat) : Bool :=
  let t := fget s (Reg.RING_PORT_CFG_TRIGGER_ID p)
  let rate := fget s (Reg.RING_PORT_CFG_RATE p)
  decide (portNodes s p ≤ 16 ∧ rate ≤ 4 ∧ 1 ≤ fget s (Reg.RING_PORT_CFG_LOSS_LIMIT p) ∧ t < 64)
    && (List.range 16).all (nodeOk s p)
    && decide (payloadBytes s p ≤ 1500 ∧ roundNs s p + 4000 ≤ ratePeriod rate)
    && portRulesOk s p
    && (List.range 256).all (fun l => decide (loopCmdEn s l = false ∨ fget s (Reg.CTL_LOOP_BIND_CMD_PORT l) ≠ p)
        || loopRateOk s l)
    && (decide (fbit s (Reg.RING_PORT_CFG_EN p) = false ∨ portNodes s p = 0) || armed t)

/-- Configuration kept back until the port passes through LINK is taken (R310). -/
def takeLater (p : Nat) (s : State) : State :=
  let s := forEach (rport s p).later (fun (off, v) s => setRegWord s off v.toNat) s
  setRport s p { rport s p with later := [] }

/-- A PHY link of a port goes up or down (R314); end A is 1, end B 2. -/
def linkTo (p : Nat) (endB up : Bool) (s : State) : State :=
  let f := if endB then Reg.RING_PORT_STATE_LINK_B p else Reg.RING_PORT_STATE_LINK_A p
  if fbit s f = up then s else raise (fsetb s f up) 0x4101 ringIsland (u16 p ++ u8 (if endB then 2 else 1))

/-- A port is in LINK with EN, and OFF without: then its PHYs are powered down and its links go (Table 10.5). -/
def settleEn (p : Nat) (s : State) : State :=
  let s := fset s (Reg.RING_PORT_STATE_STATE p) (fget s (Reg.RING_PORT_CFG_EN p))
  if fbit s (Reg.RING_PORT_CFG_EN p) then s else linkTo p true false (linkTo p false false s)

/-- A port goes to LINK, or to OFF when EN is 0. -/
def toLink (p : Nat) (s : State) : State :=
  let s := settleEn p (takeLater p s)
  setRport s p { rport s p with flight := none, laidOut := false, stopping := false, last := none, lastFire := none }

/-! ### Launches (R294, R295, R283) -/

/-- Command areas that a copy for a launch at `t` takes from the deliver image: what counts 10 µs before (R295). -/
def copyImage (s : State) (p t : Nat) : List (List Word) :=
  let x := rport s p
  (List.range (portNodes s p)).map fun n =>
    (List.range (fget s (Reg.RING_NODE_LAYOUT_CMD_WORDS p n))).map fun w =>
      ((histAt (near s t - 10000) (storeGet (fun _ => []) x.image (16 * n + w))).map (·.2)).getD 0

/-- The ring ports have supply and clock (R467). -/
def ringsFed (s : State) : Bool := alive s && phaseUp s 5

/-- Whether a port launches CYCLIC frames. -/
def portCycles (s : State) (p : Nat) : Bool :=
  decide (0 < portNodes s p) && !(rport s p).stopping
    && (decide (portState s p = 3 ∨ portState s p = 4) || (decide (portState s p = 2) && (rport s p).laidOut))

/-- RING_DELIVER_COPY (R295): within the 10 µs before the launch at the trigger's NEXT. -/
def execRingDeliverCopy (p : Nat) (s : State) : Out :=
  let t := storeGet (fun _ => 0) s.timeu.next (fget s (Reg.RING_PORT_CFG_TRIGGER_ID p))
  if p < 8 ∧ ringsFed s = true ∧ portCycles s p = true ∧ trigArmed s (fget s (Reg.RING_PORT_CFG_TRIGGER_ID p)) = true
      ∧ 0 ≤ timeDiff s t ∧ timeDiff s t ≤ 10000
  then .next (setRport s p { rport s p with copied := some (t, copyImage s p t) }) else .next s

/-- Firings off the port's period (R294). -/
def ringPeriodCheck (p t : Nat) (s : State) : State :=
  let period := ratePeriod (fget s (Reg.RING_PORT_CFG_RATE p))
  let s := match (rport s p).lastFire with
    | none => s
    | some l =>
      let gap := t - l
      if gap + 1000 < period ∨ period + 1000 < gap then raise s 0x4109 ringIsland (u16 p ++ u32 gap) else s
  setRport s p { rport s p with lastFire := some t }

/-- Next frame number of a port. -/
def nextSeq (p : Nat) (s : State) : Nat × State :=
  let n := wrap32 ((rport s p).seq + 1)
  (n, fset (setRport s p { rport s p with seq := n }) (Reg.RING_PORT_CNT_VALUE p 5) n)

/-- Whether a word of the deliver image that a frame carries reads uncorrectable (R443); the marks are looked at when the frame is
built (log entry 46). -/
def imageBad (s : State) (p : Nat) : Bool :=
  (rport s p).badWords.any (fun k => decide (k / 16 < portNodes s p ∧ k % 16 < fget s (Reg.RING_NODE_LAYOUT_CMD_WORDS p (k / 16))))

/-- RING_LAUNCH: one CYCLIC frame at nominal instant `t` (R294), with COMMAND_INVALID outside RUN. What the gather slots hold as they
leave is free: the nodes write them (Table 10.2, log entry 69). A bad word of the image makes the frame one that counts as CORRUPT. -/
def ringLaunch (p t : Nat) (s : State) : State :=
  if portCycles s p = false ∨ phaseUp s 5 = false then s
  else
    let s := ringPeriodCheck p (near s t) s
    let cmds := match (rport s p).copied with
      | some (l, c) => if l = t then c else copyImage s p t
      | none => copyImage s p t
    let (seq, s) := nextSeq p s
    let f : Flight := ⟨.cyclic, seq, t, decide (portState s p ≠ 3) || imageBad s p, inSafe s, cmds, none, false⟩
    let s := if imageBad s p then stagingUncorr (setRport s p { rport s p with badSeqs := (rport s p).badSeqs ++ [seq] }) ringIsland 0xFF 0 else s
    let (k, s) := takeFree (setRport s p { rport s p with copied := none, line := (rport s p).line ++ [f] })
    ringOut p false (cyclicFrame s p 0 0 f (freeBytes k (gatherTotal s p (portNodes s p))) cmds) s

/-! ### Teasel (R299 to R303) -/

/-- The source value of a rule in a frame. -/
def ruleSource (b : List Byte) (slots : List GatherSlot) : Word :=
  match slots[ruleByte b 4]? with
  | none => 0
  | some g => if ruleByte b 5 = 16 then BitVec.ofNat 32 (g.nstatus % 256) else g.fb.getD (ruleByte b 5) 0

/-- COND of a rule on a value. -/
def ruleCond (b : List Byte) (v : Word) : Bool :=
  let x := v.toInt
  let c := ruleByte b 2
  if c = 0 then true else if c = 1 then decide (ruleInt b 12 < x) else if c = 2 then decide (x < ruleInt b 8)
  else if c = 3 then decide (x < ruleInt b 8 ∨ ruleInt b 12 < x)
  else decide (v &&& BitVec.ofNat 32 (fieldAt b 12 4) ≠ 0)

/-- Whether an armed rule fires in a frame (R299, R303). -/
def ruleFires (s : State) (r : Nat) (f : Flight) (slots : List GatherSlot) : Bool :=
  let b := rule s r
  let flags := ruleByte b 3
  let silent := slotSilent f.seq slots (ruleByte b 4)
  fbit s (Reg.RING_RULE_STATE_ARMED r) && !(f.safe && !bitAt flags 2)
    && ((bitAt flags 0 && fbit s (Reg.RING_RULE_STATE_LATCHED r))
        || (if silent then bitAt flags 1 else ruleCond b (ruleSource b slots)))

/-- The word a firing rule makes of its target. -/
def ruleWord (b : List Byte) (w : Word) (prev : Option Word) : Word :=
  let a := ruleByte b 1
  if a = 1 then BitVec.ofInt 32 (clampInt (ruleInt b 16) (ruleInt b 20) w.toInt)
  else if a = 2 then 0
  else if a = 3 then prev.getD w
  else BitVec.ofInt 32 (ruleInt b 24)

/-- Command word of a node's area. -/
def areaWord (c : List (List Word)) (n w : Nat) : Word := (c.getD n []).getD w 0

/-- Replace a command word of a node's area. -/
def setAreaWord (c : List (List Word)) (n w : Nat) (v : Word) : List (List Word) := c.set n ((c.getD n []).set w v)

/-- One rule on a passing frame; `ok` says that the lap-0 FCS was valid, so that firings count (R300). -/
def teaselRule (p r : Nat) (f : Flight) (slots : List GatherSlot) (ok : Bool) (q : List (List Word) × State) :
    List (List Word) × State :=
  let (cmds, s) := q
  let b := rule s r
  let fires := ruleFires s r f slots
  let tn := ruleByte b 6
  let tw := ruleByte b 7
  if fires then
    let v := ruleWord b (areaWord cmds tn tw) ((rport s p).last.map (fun c => areaWord c tn tw))
    if ok then
      let s := finc s (Reg.RING_RULE_STATE_COUNT r)
      let s := if fbit s (Reg.RING_RULE_STATE_FIRED_LAST r) then s
        else raise s 0x4181 yarrowIsland (u16 p ++ u16 r ++ leBytes 4 f.seq ++ leBytes 4 (ruleSource b slots).toNat)
      let s := if bitAt (ruleByte b 3) 0 = true ∧ fbit s (Reg.RING_RULE_STATE_LATCHED r) = false
        then raise (fsetb s (Reg.RING_RULE_STATE_LATCHED r) true) 0x4182 yarrowIsland (u16 p ++ u16 r) else s
      (setAreaWord cmds tn tw v, fsetb s (Reg.RING_RULE_STATE_FIRED_LAST r) true)
    else (setAreaWord cmds tn tw v, s)
  else (cmds, if ok then fsetb s (Reg.RING_RULE_STATE_FIRED_LAST r) false else s)

/-- The return pass through Teasel (R299, R300): the frame leaves end A again with LAP = 1 and the words as rewritten. -/
def teaselPass (p : Nat) (f : Flight) (ret : RingReturn) (s : State) : State :=
  let (cmds, s) := (rulesOf s p).foldl (fun q r => teaselRule p r f ret.slots ret.fcsOk q) (f.cmds, s)
  ringOut p (!ret.fcsOk) (cyclicFrame s p 1 ret.gatherCount f (gatherSection s p ret.slots) cmds)
    (setRport s p { rport s p with last := some cmds })

/-! ### Returns (R296) -/

/-- Streams in RUN bound to a node of a port (Table 12.2). -/
def ringStreams (s : State) (p n : Nat) : List Nat :=
  (s.sensors.streams.filter (fun e => decide (fieldAt e.2.desc 0 1 = 5 ∧ fieldAt e.2.desc 1 1 = p ∧ fieldAt e.2.desc 2 1 = n)
    && fbit s (Reg.SNS_STREAM_STATE_RUN e.1))).map (·.1)

/-- When the last byte of node `n`'s slot entered the port, for a frame whose FCS ends now (R296, Table 10.3, log entry 69). -/
def slotStamp (s : State) (p n : Nat) : Nat :=
  s.time - 8 * (4 + max 46 (payloadBytes s p) - (32 + gatherTotal s p (n + 1)))

/-- The feedback words and bulk bytes of a valid slot go to sensor ingress (R296). -/
def slotToIngress (p n : Nat) (g : GatherSlot) (s : State) : State :=
  let new := (ringStreams s p n).map (fun k => (k, slotStamp s p n, (gatherSlotBytes s p n g).drop 4))
  { s with sensors := { s.sensors with arrivals := s.sensors.arrivals ++ new } }

/-- Feedback of one node of a frame with a valid lap-0 FCS. -/
def nodeFeedback (p seq n : Nat) (slots : List GatherSlot) (s : State) : State :=
  if slotSilent seq slots n then
    let s := finc s (Reg.RING_NODE_STATUS_SILENT p n)
    if (rport s p).silent.contains n then s
    else raise (setRport s p { rport s p with silent := (rport s p).silent ++ [n] }) 0x4105 ringIsland (u16 p ++ u16 n)
  else match slots[n]? with
    | none => s
    | some g =>
      let s := setRport s p { rport s p with silent := (rport s p).silent.filter (fun m => decide (m ≠ n)) }
      let old := fget s (Reg.RING_NODE_STATUS_NSTATUS p n)
      let rises (i : Nat) : Bool := bitAt g.nstatus i && !bitAt old i
      let s := fset s (Reg.RING_NODE_STATUS_NSTATUS p n) g.nstatus
      let s := if rises 7 || rises 6 then raise s 0x4108 ringIsland (u16 p ++ u16 n) else s
      slotToIngress p n g
        (forRange (fget s (Reg.RING_NODE_LAYOUT_FB_WORDS p n)) (fun w s => fbArrive s (wordKey p n w) (g.fb.getD w 0)) s)

/-- RING_FRAME_RETURN: lap 0 enters end B (R292, R296). -/
def frameReturn (p : Nat) (ret : RingReturn) (f : Flight) (s : State) : State :=
  let s := setRport s p { rport s p with
    line := (rport s p).line.map (fun g => if g.seq = f.seq then { g with lap0 := some (ret.fcsOk, ret.gatherCount) } else g) }
  let s := if ret.fcsOk then
      let s := setRport s p { rport s p with snapSeq := f.seq, snapTime := f.launch, snap := gatherSection s p ret.slots }
      forRange (portNodes s p) (fun n s => nodeFeedback p f.seq n ret.slots s) s
    else s
  teaselPass p f ret s

/-- RING_FRAME_RETURN: the oldest frame of the port that has not come back yet. -/
def execRingFrameReturn (p : Nat) (ret : RingReturn) (s : State) : Out :=
  match (rport s p).line.find? (fun f => decide (f.lap0 = none)) with
  | none => .next s
  | some f => if p < 8 ∧ ringsFed s = true then .next (frameReturn p ret f s) else .next s

/-! ### Outcomes (R308, R309) -/

/-- Ports a ring command names from PORT. -/
def portsNamed (c : QCmd) : List Nat := (List.range c.length).map (· + c.field 16 1)

/-- The RING_PORT_STARTs that wait for their ports. -/
def startsWaiting (s : State) : List (Nat × QCmd) :=
  (startedCmds s).filter (fun e => e.2.engaged && decide (e.2.opcode = 0x0C10))

/-- Complete a RING_PORT_START none of whose ports is in DISCOVER any more (R312). -/
def settleStarts (s : State) : State :=
  forEach (startsWaiting s) (fun (q, c) s =>
    if (portsNamed c).any (fun p => decide (portState s p = 2)) then s
    else
      let mine := s.rings.fails.filter (fun f => decide (f.1 = q ∧ f.2.1 = c.n))
      let s := { s with rings := { s.rings with fails := s.rings.fails.filter (fun f => !decide (f.1 = q ∧ f.2.1 = c.n)) } }
      match mine.foldl (fun (b : Option Nat) f => some (min (b.getD f.2.2) f.2.2)) none with
      | some d => completeCmd s q c.n Status.invalidParam d
      | none => completeCmd s q c.n Status.ok 0) s

/-- Complete the RING_PORT_STOPs none of whose ports still waits. -/
def settleStops (s : State) : State :=
  forEach ((startedCmds s).filter (fun e => e.2.engaged && decide (e.2.opcode = 0x0C11))) (fun (q, c) s =>
    if (portsNamed c).any (fun p => (rport s p).stopping) then s
    else completeCmd s q c.n Status.ok 0) s

/-- Whether a frame of a port is on the line. -/
def lineBusy (s : State) (p : Nat) : Bool := (rport s p).flight.isSome || !(rport s p).line.isEmpty

/-- A port that RING_PORT_STOP stops goes to LINK once no frame of it is in flight (R312). -/
def leaveIdle (p : Nat) (s : State) : State :=
  if (rport s p).stopping = true ∧ lineBusy s p = false then settleStops (settleStarts (toLink p s)) else s

/-- A RUN port goes down (R309). -/
def lineDown (p : Nat) (s : State) : State := raise (fset s (Reg.RING_PORT_STATE_STATE p) 4) 0x4106 ringIsland (u16 p)

/-- A bad frame: BAD_RUN, and LINE_DOWN at LOSS_LIMIT. -/
def badFrame (p : Nat) (s : State) : State :=
  let n := min (fget s (Reg.RING_PORT_STATE_BAD_RUN p) + 1) 15
  let s := fset s (Reg.RING_PORT_STATE_BAD_RUN p) n
  if portState s p = 3 ∧ fget s (Reg.RING_PORT_CFG_LOSS_LIMIT p) ≤ n then lineDown p s else s

/-- A good frame: RUN when it completes a start (R307), which a frame launched before the discovery does not. -/
def goodFrame (p : Nat) (old : Bool) (s : State) : State :=
  let s := fset (finc s (Reg.RING_PORT_CNT_VALUE p 0)) (Reg.RING_PORT_STATE_BAD_RUN p) 0
  if portState s p = 2 ∧ old = false then
    settleStarts (setRport (fset s (Reg.RING_PORT_STATE_STATE p) 3) p { rport s p with last := none })
  else s

/-- Class a CYCLIC frame at its return deadline (Table 10.7). -/
def frameOutcome (p : Nat) (f : Flight) (o : RingOutcome) (s : State) : State :=
  let x := rport s p
  let s := setRport s p { x with line := x.line.tail, badSeqs := x.badSeqs.filter (· ≠ f.seq) }
  let (ok0, gather) := f.lap0.getD (false, 0)
  let s := if o.completed
    then fset s (Reg.RING_PORT_CNT_VALUE p 4) (max (fget s (Reg.RING_PORT_CNT_VALUE p 4)) (min o.roundNs 0xFFFFFFFF)) else s
  let s := if !o.completed then
      let s := finc s (Reg.RING_PORT_CNT_VALUE p 1)
      let s := if x.lostRun then s else raise s 0x4103 ringIsland (u16 p)
      badFrame p (setRport s p { rport s p with lostRun := true, badFcs := false })
    else if !(ok0 && o.lap1FcsOk) || x.badSeqs.contains f.seq then
      let s := finc s (Reg.RING_PORT_CNT_VALUE p 2)
      let s := if x.badFcs then s else raise s 0x4104 ringIsland (u16 p)
      badFrame p (setRport s p { rport s p with lostRun := false, badFcs := true })
    else
      let s := setRport s p { rport s p with lostRun := false, badFcs := false }
      if gather ≠ portNodes s p ∨ o.deliverCount ≠ portNodes s p
      then badFrame p (finc s (Reg.RING_PORT_CNT_VALUE p 3))
      else goodFrame p f.old s
  leaveIdle p s

/-- RING_FRAME_OUTCOME: the oldest frame on the line, at or after its return deadline. -/
def execRingFrameOutcome (p : Nat) (o : RingOutcome) (s : State) : Out :=
  match (rport s p).line.head? with
  | none => .next s
  | some f =>
    if p < 8 ∧ ringsFed s = true ∧ reached s (f.launch + roundNs s p + 2000) = true
    then .next (frameOutcome p f o s) else .next s

/-- RING_LINK_CHANGE (R309): a PHY link of a port whose EN is 1. -/
def execRingLinkChange (p : Nat) (endB up : Bool) (s : State) : Out :=
  if 8 ≤ p ∨ ringsFed s = false ∨ portState s p = 0 then .next s
  else
    let was := fbit s (if endB then Reg.RING_PORT_STATE_LINK_B p else Reg.RING_PORT_STATE_LINK_A p)
    let s := linkTo p endB up s
    .next (if was = true ∧ up = false ∧ portState s p = 3 then lineDown p s else s)

/-! ### Discovery (R305 to R307) -/

/-- Start discovery on a port in LINK or LINE_DOWN (R305). A CYCLIC frame still on the line is classed at its own deadline (R308).
What the identity slots hold as they leave is free (log entry 69). -/
def startDiscovery (p : Nat) (s : State) : State :=
  let s := fset (fset s (Reg.RING_PORT_STATE_STATE p) 2) (Reg.RING_PORT_CNT_VALUE p 4) 0
  let (seq, s) := nextSeq p s
  let (k, s) := takeFree (setRport s p { rport s p with
    image := [], badWords := [], copied := none, last := none, laidOut := false, lastFire := none, silent := List.range 16,
    line := (rport s p).line.map (fun f => { f with old := true }),
    flight := some ⟨.discover, seq, s.time, false, false, [], none, false⟩ })
  ringOut p false (ringFrame s p (ringHeader s p 2 0 seq s.time 0 0 0 512 ++ freeBytes k 512)) s

/-- The first condition of R306 that fails: (position, condition 1..6). -/
def discoverCheck (s : State) (p : Nat) (r : DiscoverReturn) : Option (Nat × Nat) :=
  let n := portNodes s p
  let node (i : Nat) : NodeIdentity := (r.nodes[i]?).getD ⟨0, 0, 0, 0, 0, 0, 0, 0, 0⟩
  let first (c : Nat) (ok : Nat → Bool) : Option (Nat × Nat) := ((List.range n).find? (fun i => !ok i)).map (fun i => (i, c))
  let expect (v e : Nat) : Bool := decide (e = 0 ∨ v = e)
  if r.returned = false ∨ r.fcsOk = false then some (0, 1)
  else if r.gatherCount ≠ n then some (min r.gatherCount n, 2)
  else
    (first 3 (fun i => expect (node i).vendor.toNat (fget s (Reg.RING_NODE_VENDOR_VENDOR p i))
        && expect (node i).product.toNat (fget s (Reg.RING_NODE_PRODUCT_PRODUCT p i)))).or <|
    (first 4 (fun i => decide ((node i).hopNs ≤ fget s (Reg.RING_NODE_LAYOUT_HOP_NS p i)))).or <|
    (first 5 (fun i => decide (fget s (Reg.RING_NODE_LAYOUT_FB_WORDS p i) ≤ (node i).fbMax
        ∧ fget s (Reg.RING_NODE_LAYOUT_CMD_WORDS p i) ≤ (node i).cmdMax
        ∧ fget s (Reg.RING_NODE_LAYOUT_BULK_UNITS p i) ≤ (node i).bulkMax))).or <|
    first 6 (fun i => decide (fget s (Reg.RING_PORT_CFG_RATE p) ≤ (node i).rateMax))

/-- Layout entries of a LAYOUT frame: GATHER_OFFSET, DELIVER_OFFSET, FB_WORDS, CMD_WORDS, BULK_UNITS (R307). -/
def layoutEntries (s : State) (p : Nat) : List (List Nat) :=
  let n := portNodes s p
  let g (k : Nat) : Nat := (List.range k).foldl (fun a i => a + gatherBytes s p i) 32
  let d (k : Nat) : Nat := (List.range k).foldl (fun a i => a + 4 * fget s (Reg.RING_NODE_LAYOUT_CMD_WORDS p i)) (g n)
  (List.range n).map fun k =>
    let cmd := fget s (Reg.RING_NODE_LAYOUT_CMD_WORDS p k)
    [g k, if cmd = 0 then 0xFFFF else d k, fget s (Reg.RING_NODE_LAYOUT_FB_WORDS p k), cmd,
     fget s (Reg.RING_NODE_LAYOUT_BULK_UNITS p k)]

/-- The bytes of a layout entry. -/
def layoutBytes : List Nat → List Byte
  | [g, d, fb, cmd, bulk] => u16 g ++ u16 d ++ u8 fb ++ u8 cmd ++ u8 bulk ++ [0]
  | _ => []

/-- Launch the LAYOUT frame (R307). -/
def launchLayout (p : Nat) (s : State) : State :=
  let (seq, s) := nextSeq p s
  let i := (rport s p).layoutId + 1
  let s := setRport s p { rport s p with
    layoutId := if 65535 < i then 1 else i, flight := some ⟨.layout, seq, s.time, false, false, [], none, false⟩ }
  let body := (layoutEntries s p).flatMap layoutBytes
  ringOut p false (ringFrame s p (ringHeader s p 3 0 seq s.time 0 0 0 body.length ++ body)) s

/-- A DISCOVER frame has returned or its deadline has passed; a port that is being stopped then goes to LINK. -/
def discoverReturn (p : Nat) (r : DiscoverReturn) (s : State) : State :=
  let found := if r.returned ∧ r.fcsOk then min r.gatherCount 16 else 0
  let s := fset s (Reg.RING_PORT_STATE_FOUND p) found
  let s := forRange 16 (fun i s => fsetb s (Reg.RING_NODE_STATUS_PRESENT p i) (decide (i < found))) s
  match discoverCheck s p r with
  | none => if (rport s p).stopping then leaveIdle p (setRport s p { rport s p with flight := none }) else launchLayout p s
  | some (pos, check) =>
    let s := raise s 0x4102 ringIsland (u16 p ++ u16 pos ++ u8 check)
    let new := ((startsWaiting s).filter (fun e => (portsNamed e.2).contains p)).map (fun e => (e.1, e.2.n, p * 256 + pos))
    settleStops (settleStarts (toLink p { s with rings := { s.rings with fails := s.rings.fails ++ new } }))

/-- RING_DISCOVER_RETURN: a return by the deadline, or the deadline itself (R305). -/
def execRingDiscoverReturn (p : Nat) (r : DiscoverReturn) (s : State) : Out :=
  match (rport s p).flight with
  | none => .next s
  | some f =>
    let late := decide (timeDiff s (discoverDeadline s p f.launch) < 0)
    if p < 8 ∧ ringsFed s = true ∧ f.kind = .discover ∧ (r.returned = true ∨ late = true)
    then .next (discoverReturn p (if late then { r with returned := false } else r) s) else .next s

/-- RING_LAYOUT_RETURN: CYCLIC frames follow with COMMAND_INVALID (R307). -/
def execRingLayoutReturn (p : Nat) (s : State) : Out :=
  match (rport s p).flight with
  | none => .next s
  | some f =>
    if p < 8 ∧ ringsFed s = true ∧ f.kind = .layout then
      let s := setRport s p { rport s p with flight := none, laidOut := true }
      .next (leaveIdle p s)
    else .next s

/-! ### Commands (R312, R313) -/

/-- DETAIL of a ring status: port and position. -/
def ringDetail (p i : Nat) : Nat := p * 256 + i

/-- The engine of RING_PORT_START: it waits for the discovery of its ports, also of one that another command started. -/
def portStartEngine (q : Nat) (c : QCmd) (s : State) : Verdict :=
  let p := c.field 16 1
  if c.engaged then .wait s
  else if c.reservedZero [(16, 1)] = false then invalid s (ringDetail p 0)
  else if 8 < p + c.length then invalid s (ringDetail (max 8 p) 0)
  else
    let ps := (portsNamed c).filter (fun p => decide ((portState s p = 1 ∨ portState s p = 4) ∧ 0 < portNodes s p))
    let s := forEach ps startDiscovery s
    if (portsNamed c).any (fun p => decide (portState s p = 2)) then .wait (modCmd s q c.n (fun d => { d with engaged := true }))
    else okay s

/-- RING_PORT_START (0x0C10). -/
def execRingPortStart (q n : Nat) (s : State) : Out := runEngine 0x0C10 q n (portStartEngine q) s

/-- Stop one port: at once, or when its frame in flight completes. -/
def stopPort (p : Nat) (s : State) : State :=
  if portState s p ≤ 1 then s
  else leaveIdle p (setRport s p { rport s p with stopping := true })

/-- The engine of RING_PORT_STOP. -/
def portStopEngine (q : Nat) (c : QCmd) (s : State) : Verdict :=
  let p := c.field 16 1
  if c.engaged then .wait s
  else if c.reservedZero [(16, 1)] = false then invalid s (ringDetail p 0)
  else if 8 < p + c.length then invalid s (ringDetail (max 8 p) 0)
  else if inSafe s then .done Status.safetyHold 0 s
  else .wait (settleStops (forEach (portsNamed c) stopPort
    (modCmd s q c.n (fun d => { d with engaged := true }))))

/-- RING_PORT_STOP (0x0C11). -/
def execRingPortStop (q n : Nat) (s : State) : Out := runEngine 0x0C11 q n (portStopEngine q) s

/-- The engine of RING_WORD_WRITE (R295). -/
def wordWriteEngine (q : Nat) (c : QCmd) (s : State) : Verdict :=
  let p := c.field 16 1
  let n := c.field 17 1
  let w := c.field 18 1
  if c.reservedZero [(16, 3), (24, 8)] = false ∨ opAligned q (c.field 24 8) 64 = false then invalid s (ringDetail p n)
  else if 8 ≤ p ∨ portNodes s p ≤ n ∨ fget s (Reg.RING_NODE_LAYOUT_CMD_WORDS p n) < w + c.length
  then invalid s (ringDetail p n)
  else if inSafe s then .done Status.safetyHold 0 s
  else match opRead s q (c.field 24 8) (4 * c.length) with
    | .error (.uncorr a) => failOperand s q c ringIsland 0 (.uncorr a)
    | .error (.ptUncorr a) => failOperand s q c ringIsland 0 (.ptUncorr a)
    | .error _ => invalid s (ringDetail p n)
    | .ok bs =>
      let bound (k : Nat) : Bool := (List.range 256).any (fun l => loopCmdEn s l && decide (loopCmdKey s l = wordKey p n (w + k)))
      match (List.range c.length).find? bound with
      | some k => refuse s (w + k)
      | none =>
        okay (forEach ((List.range c.length).zip (bytesToWords c.length bs)) (fun (k, v) s =>
          imageWrite p n (w + k) s.time v s) s)

/-- RING_WORD_WRITE (0x0C12). -/
def execRingWordWrite (q n : Nat) (s : State) : Out := runEngine 0x0C12 q n (wordWriteEngine q) s

/-- One port's part of a snapshot (Table 10.11): 16 bytes and the gather section, filled to a multiple of 64 bytes. -/
def snapshotBytes (s : State) (p : Nat) : List Byte :=
  let x := rport s p
  let body := leBytes 4 x.snapSeq ++ leBytes 2 x.snap.length ++ leBytes 2 0 ++ leBytes 8 x.snapTime ++ x.snap
  padTo (64 * ceilDiv body.length 64) body

/-- The first of the ports whose part of a snapshot at `va` cannot be written (R313). -/
def snapshotFails (s : State) (q : Nat) : (va : Nat) → List Nat → Nat
  | _, [] => 0
  | va, p :: rest =>
    match opWrite s q va (snapshotBytes s p) with
    | .error _ => p
    | .ok _ => snapshotFails s q (va + (snapshotBytes s p).length) rest

/-- The engine of RING_SNAPSHOT. -/
def snapshotEngine (q : Nat) (c : QCmd) (s : State) : Verdict :=
  let p := c.field 16 1
  if c.reservedZero [(16, 1), (24, 8)] = false ∨ opAligned q (c.field 24 8) 64 = false then invalid s (ringDetail p 0)
  else if 8 < p + c.length then invalid s (ringDetail (max 8 p) 0)
  else match opWrite s q (c.field 24 8) ((portsNamed c).flatMap (snapshotBytes s)) with
    | .error (.uncorr a) => failOperand s q c ringIsland 0 (.uncorr a)
    | .error (.ptUncorr a) => failOperand s q c ringIsland 0 (.ptUncorr a)
    | .error _ => invalid s (ringDetail (snapshotFails s q (c.field 24 8) (portsNamed c)) 0)
    | .ok s => okay s

/-- RING_SNAPSHOT (0x0C13). -/
def execRingSnapshot (q n : Nat) (s : State) : Out := runEngine 0x0C13 q n (snapshotEngine q) s

/-- Rules a Teasel command names, when its fields hold. -/
def teaselChecked (c : QCmd) (arm : Bool) (s : State) (k : List Nat → Verdict) : Verdict :=
  let r := c.field 20 2
  let used := if arm then [(19, 1), (20, 2)] else [(20, 2)]
  if c.reservedZero used = false ∨ (arm = true ∧ 1 < c.field 19 1) then invalid s
  else if 256 < r + c.length then invalid s (ringDetail 0 (max 256 r % 256))
  else k ((List.range c.length).map (· + r))

/-- The engine of TEASEL_ARM (R302). -/
def teaselArmEngine (c : QCmd) (s : State) : Verdict :=
  teaselChecked c true s (fun rs =>
    if inSafe s = true ∧ c.field 19 1 = 0 then .done Status.safetyHold 0 s
    else okay (forEach rs (fun r s => fset s (Reg.RING_RULE_STATE_ARMED r) (c.field 19 1)) s))

/-- TEASEL_ARM (0x0C14). -/
def execTeaselArm (q n : Nat) (s : State) : Out := runEngine 0x0C14 q n teaselArmEngine s

/-- The engine of TEASEL_RELEASE (R302). -/
def teaselReleaseEngine (c : QCmd) (s : State) : Verdict :=
  teaselChecked c false s (fun rs =>
    if inSafe s then .done Status.safetyHold 0 s
    else okay (forEach rs (fun r s => fsetb s (Reg.RING_RULE_STATE_LATCHED r) false) s))

/-- TEASEL_RELEASE (0x0C15). -/
def execTeaselRelease (q n : Nat) (s : State) : Out := runEngine 0x0C15 q n teaselReleaseEngine s

end Sys2Proof.Machine
end

