-- ==== Sys2Proof/Machine/Time.lean ====
section
/-! DEFINITION. The time unit (R315 to R338): triggers and their arming, gPTP domains, source selection and steering, gate
lists, transmission of Ethernet frames, and the time commands. Offsets and increments are kept in units of 2^-32 ns. -/

namespace Sys2Proof.Machine

/-- Island of the time unit. -/
def timeIsland : Nat := 61

/-- Island of the Ethernet ports (Table 1.3). -/
def netIsland : Nat := 75

/-! ### Triggers (R326, R327, R331) -/

/-- The record of trigger `i` (Table 11.3). -/
def trigRecord (s : State) (i : Nat) : List Byte := storeGet (fun _ => trigInit) s.timeu.records i

/-- START of a record. -/
def trigStart (r : List Byte) : Nat := fieldAt r 0 8
/-- PERIOD_NS of a record. -/
def trigPeriod (r : List Byte) : Nat := fieldAt r 8 4
/-- ARMED_DEFAULT of a record. -/
def trigDefault (r : List Byte) : Bool := bitAt (fieldAt r 12 1) 0
/-- OUT_MASK of a record. -/
def trigOut (r : List Byte) : Nat := fieldAt r 13 1
/-- PULSE_NS of a record. -/
def trigPulse (r : List Byte) : Nat := fieldAt r 14 2

/-- NEXT of trigger `i`. -/
def trigNext (s : State) (i : Nat) : Nat := storeGet (fun _ => 0) s.timeu.next i

/-- Set NEXT. -/
def setTrigNext (s : State) (i x : Nat) : State :=
  modTime s (fun t => { t with next := storeSet (fun _ => 0) t.next i (x % 2 ^ 64) })

/-- Arm a trigger (R327); an armed one keeps its NEXT (R336). -/
def armTrigger (i : Nat) (s : State) : State :=
  if trigArmed s i then s
  else
    let r := trigRecord s i
    let s := fsetb (setTrigNext s i (trigStart r)) (Reg.TIME_TRIG_STATE_ARMED i) true
    let d := timeDiff s (trigStart r)
    if d ≤ 0 ∧ trigPeriod r ≠ 0 then
      let k := (-d).toNat / trigPeriod r + 1
      raise (setTrigNext s i (trigStart r + k * trigPeriod r)) 0x5005 timeIsland (u16 i ++ u32 k)
    else s

/-- Disarm a trigger; the fusion groups that it ran stop, and start anew with SEQ 1 (R347, R354). -/
def disarmTrigger (i : Nat) (s : State) : State :=
  let s := { s with sensors := { s.sensors with groups := storeMap (fun _ => Group.init) (fun _ g =>
    if fieldAt g.desc 0 2 = i then { g with seq := 0, missed := [], told := [] } else g) s.sensors.groups } }
  fsetb s (Reg.TIME_TRIG_STATE_ARMED i) false

/-- A trigger takes a record and is armed anew, as R331 has it for a record that a SET_COMMIT changes. -/
def rearmTrigger (i : Nat) (r : List Byte) (s : State) : State :=
  armTrigger i (modTime (disarmTrigger i s) (fun t => { t with records := storeSet (fun _ => trigInit) t.records i (padTo 32 r) }))

/-- A trigger takes a record at the end of bring-up, and is armed when the record has ARMED_DEFAULT (R331). -/
def loadTrigger (i : Nat) (r : List Byte) (s : State) : State :=
  if trigDefault r then rearmTrigger i r s
  else modTime (disarmTrigger i s) (fun t => { t with records := storeSet (fun _ => trigInit) t.records i (padTo 32 r) })

/-- Whether a record keeps Table 11.3. -/
def trigRecordOk (r : List Byte) : Bool :=
  let p := trigPeriod r
  decide ((p = 0 ∨ (10000 ≤ p ∧ p ≤ 2000000000)) ∧ fieldAt r 12 1 ≤ 1
    ∧ (if trigOut r = 0 then trigPulse r = 0 else 8 ≤ trigPulse r)) && allZero (r.drop 16)

/-- A consumer of R331 names the trigger. -/
def trigNamed (s : State) (i : Nat) : Bool :=
  s.yarrow.loops.any (fun e => decide (e.2.state ≠ 0)
      && decide (fget s (Reg.CTL_RATE_TRIG_TRIGGER_ID (fget s (Reg.CTL_LOOP_CFG_RATE e.1))) = i))
    || (decide (fget s Reg.CTL_FRAME_CFG_TRIGGER_ID = i)
      && s.yarrow.loops.any (fun e => decide (e.2.state = 1) && loopCommitted s e.1))
    || (List.range 8).any (fun p => decide (portState s p = 3 ∧ fget s (Reg.RING_PORT_CFG_TRIGGER_ID p) = i))
    || s.ctxs.any (fun e => ctxActive s e.1 && (match e.2.plan with
      | some p => decide (p.cls = 1 ∧ p.triggerId = i)
      | none => false))
    || (List.range 2).any (fun p => fbit s (Reg.NET_GCL_CFG_EN p) && decide (fget s (Reg.NET_GCL_CFG_TRIGGER_ID p) = i))

/-! ### The time clock (R315) -/

/-- One tick of the time clock: TIME:FRAC gains INCR as one 96-bit sum. Without supply the clock does not run. -/
def clockTick (s : State) : State :=
  if s.power.off then s
  else
    let sum := s.time * 2 ^ 32 + s.frac + s.timeu.incr
    { s with time := sum / 2 ^ 32 % 2 ^ 64, frac := sum % 2 ^ 32, ticks := s.ticks + 1 }

/-! ### Domains (R321, R322) -/

/-- Domain `d`. -/
def dom (s : State) (d : Nat) : Domain := storeGet (fun _ => Domain.init) s.timeu.domains d

/-- Replace domain `d`. -/
def setDom (s : State) (d : Nat) (x : Domain) : State :=
  modTime s (fun t => { t with domains := storeSet (fun _ => Domain.init) t.domains d x })

/-- Dd_VALID. -/
def domField (d : Nat) : Field := if d = 0 then Reg.TIME_STATUS_D0_VALID else Reg.TIME_STATUS_D1_VALID

/-- Whether domain `d` is VALID. -/
def domValid (s : State) (d : Nat) : Bool := decide (d < 2) && fbit s (domField d)

/-- 2^-32 ns per ns. -/
def fracUnit : Nat := 2 ^ 32

/-- OFFSET_d in whole ns (Table 11.6). -/
def domOffset (x : Domain) : Int := x.offset / (fracUnit : Int)

/-- The bytes of an s64. -/
def s64 (i : Int) : List Byte := leBytes 8 (wrapInt 64 i)

/-- Sync interval of a domain in ns: 2^LOG_SYNC s. -/
def syncInterval (s : State) (d : Nat) : Nat :=
  let l := fget s (Reg.TIME_DOM_CFG_LOG_SYNC d)
  if l = 0 then 1000000000 else if l = 0xFF then 500000000 else if l = 0xFE then 250000000 else 125000000

/-- Advance OFFSET_d to the present tick (R322): module time by INCR, domain time by 2.0 ns × RATE_d, per tick. -/
def advanceDom (incr now : Nat) (x : Domain) : Domain :=
  let k := now - x.advanced
  { x with offset := x.offset + (k * incr : Nat) - (k * 2 * fracUnit * x.rateNum / x.rateDen : Nat), advanced := now }

/-! ### Source and lock (R323, R325) -/

/-- SOURCE: 0 FREE; 1 domain 0; 2 domain 1; 3 HOLDOVER. -/
def timeSource (s : State) : Nat := fget s Reg.TIME_STATUS_SOURCE

/-- Whether the clamp of R324 limits c for an OFFSET. -/
def clampLimits (s : State) (x : Domain) : Bool :=
  decide (fget s Reg.TIME_CFG_RAMP_PPM * 1000 * fracUnit < x.offset.natAbs)

/-- Set LOCKED; a change raises 0x5004. -/
def setLocked (s : State) (b : Bool) : State :=
  if fbit s Reg.TIME_STATUS_LOCKED = b then s else raise (fsetb s Reg.TIME_STATUS_LOCKED b) 0x5004 timeIsland []

/-- LOCKED and RAMPING for the present SOURCE and OFFSET (R325); LOCKED keeps its value in HOLDOVER. -/
def settleLock (s : State) : State :=
  let src := timeSource s
  if src = 0 then setLocked (fsetb s Reg.TIME_STATUS_RAMPING false) false
  else if src = 3 then fsetb s Reg.TIME_STATUS_RAMPING false
  else
    let x := dom s (src - 1)
    setLocked (fsetb s Reg.TIME_STATUS_RAMPING (clampLimits s x)) (decide (x.offset.natAbs ≤ fget s Reg.TIME_LOCK_NS * fracUnit))

/-- Change SOURCE (R323). 0x5003 carries the OFFSET of the domain that is, or was, the source (log entry 28). -/
def setSource (src : Nat) (s : State) : State :=
  let old := timeSource s
  if src = old then settleLock s
  else
    let d := if src = 1 ∨ src = 2 then src - 1 else old - 1
    let off := if src = 1 ∨ src = 2 ∨ old = 1 ∨ old = 2 then domOffset (dom s d) else 0
    let s := modTime (fset s Reg.TIME_STATUS_SOURCE src) (fun t => { t with holdAt := if src = 3 then some s.time else none })
    settleLock (raise s 0x5003 timeIsland (u8 old ++ u8 src ++ s64 off))

/-- HOLDOVER_MS has passed in HOLDOVER. -/
def holdoverOver (s : State) : Bool :=
  match s.timeu.holdAt with
  | none => false
  | some t => decide (t + fget s Reg.TIME_CFG_HOLDOVER_MS * 1000000 ≤ s.time)

/-- The source that HOLDOVER gives way to once its time is over. -/
def sourceAfterHold (s : State) : Nat := if domValid s 0 then 1 else if domValid s 1 then 2 else 3

/-- Domain `d` becomes VALID: 0x5002, and in HOLDOVER domain 0 is taken at once, domain 1 once HOLDOVER_MS is over. -/
def domGained (d : Nat) (s : State) : State :=
  if domValid s d then settleLock s
  else
    let s := setDom (fsetb s (domField d) true) d { dom s d with validAt := s.time }
    let s := raise s 0x5002 timeIsland (u16 d ++ s64 (domOffset (dom s d)))
    if timeSource s = 3 ∧ (d = 0 ∨ holdoverOver s = true) then setSource (d + 1) s else s

/-- Domain `d` stops being VALID: 0x5001; a source is lost to HOLDOVER. -/
def domLost (d : Nat) (s : State) : State :=
  if domValid s d = false then s
  else
    let s := setDom (fsetb s (domField d) false) d { dom s d with syncs := [] }
    let s := raise s 0x5001 timeIsland (u16 d)
    if timeSource s = d + 1 then setSource 3 s else s

/-- SOURCE after TIME_CFG changed: FREE, or the choice of R323. -/
def applyTimeCfg (s : State) : State :=
  if fget s Reg.TIME_CFG_MODE = 0 then setSource 0 s
  else if timeSource s = 0 then setSource (if domValid s 0 then 1 else 3) s
  else settleLock s

/-- RATE_d over the last Syncs: the newest against the oldest; one Sync leaves RATE as it was. -/
def measureRate (x : Domain) : Domain :=
  match x.syncs with
  | [] => x
  | n :: rest =>
    let o := rest.getLastD n
    if o.1 < n.1 ∧ o.2 < n.2 then { x with rateNum := n.1 - o.1, rateDen := (n.2 - o.2) * 2 } else x

/-- SYNC_RECEIVE (R320, R322): a Sync of a domain with a selected grandmaster arrives on the domain's port. The domain time in ns is
the origin time it carries and the port's mean link delay, which the common service has measured. -/
def execSyncReceive (d : Nat) (m : SyncIn) (s : State) : Out :=
  whenFed 5 s (fun s =>
    let x := dom s d
    if 2 ≤ d ∨ fbit s (Reg.TIME_DOM_CFG_EN d) = false ∨ x.gm = false ∨ x.self_ = true ∨ fget s (Reg.TIME_DOM_CFG_PORT d) ≠ m.port
    then .next s
    else
      let s := setNetPort s m.port { netPort s m.port with linkDelay := m.linkDelay }
      let domainTime := m.origin + m.linkDelay
      let off : Int := ((s.time * fracUnit + s.frac : Nat) : Int) - ((domainTime * fracUnit : Nat) : Int)
      let x := { x with syncs := ((domainTime, s.ticks) :: x.syncs).take 8, lastSync := s.time, advanced := s.ticks, offset := off }
      .next (domGained d (setDom s d (measureRate x))))

/-- SYNC_LOST (R321): no Sync within three intervals. -/
def execSyncLost (d : Nat) (s : State) : Out :=
  whenAlive s (fun s =>
    let x := dom s d
    if domValid s d = true ∧ x.self_ = false ∧ x.lastSync + 3 * syncInterval s d ≤ s.time
    then .next (domLost d s) else .next s)

/-- HOLDOVER_END (R323, R325): a VALID domain becomes SOURCE; with none, LOCKED becomes 0. -/
def execHoldoverEnd (s : State) : Out :=
  whenAlive s (fun s =>
    if timeSource s = 3 ∧ holdoverOver s = true then
      let src := sourceAfterHold s
      .next (if src = 3 then setLocked s false else setSource src s)
    else .next s)

/-- DOMAIN_RETURN (R323). -/
def execDomainReturn (s : State) : Out :=
  whenAlive s (fun s =>
    if timeSource s = 2 ∧ domValid s 0 = true
        ∧ (dom s 0).validAt + fget s Reg.TIME_CFG_RETURN_100MS * 100000000 ≤ s.time
    then .next (setSource 1 s) else .next s)

/-- The least and greatest INCR of R318, in 2^-32 ns. -/
def incrMin : Nat := 8581344658
/-- 2.002 ns. -/
def incrMax : Nat := 8598524526

/-- INCR of R324 for a domain: `rne(2.0 × rate × (1 + c))`, clamped per R318. -/
def steeredIncr (ramp : Nat) (x : Domain) : Nat :=
  let one := fracUnit * 1000000000
  let lim : Int := (ramp * 1000 * fracUnit : Nat)
  let c := clampInt (-lim) lim (-x.offset)
  let v := divRne (2 * fracUnit * x.rateNum * ((one : Int) + c).toNat) (x.rateDen * one)
  min incrMax (max incrMin v)

/-- INCR takes a value. -/
def setIncr (s : State) (v : Nat) : State := modTime s (fun t => { t with incr := v })

/-- Advance a domain that follows a master. -/
def advanceDomAt (d : Nat) (s : State) : State :=
  if domValid s d = true ∧ (dom s d).self_ = false then setDom s d (advanceDom s.timeu.incr s.ticks (dom s d)) else s

/-- STEERING_UPDATE (R322, R324, R325): every 1 ms offsets advance and the source steers INCR. -/
def execSteeringUpdate (s : State) : Out :=
  whenAlive s (fun s =>
    let s := advanceDomAt 1 (advanceDomAt 0 s)
    let src := timeSource s
    let s := if src = 1 ∨ src = 2
      then setIncr s (steeredIncr (fget s Reg.TIME_CFG_RAMP_PPM) (dom s (src - 1))) else s
    .next (settleLock s))

/-- Whether BMCA can have chosen so (R320): `best` is the priority1 of the best master announced on the domain's port. The lower
priority1 wins, and 255 makes the module not grandmaster-capable; on a tie the standard's further comparisons decide. -/
def bmcaAllows (own : Nat) (self : Bool) (best : Option Nat) : Bool :=
  match best with
  | none => self && decide (own ≠ 255)
  | some b => if self then decide (own ≠ 255 ∧ own ≤ b) else decide (own = 255 ∨ b ≤ own)

/-- GM_CHANGE (R321, R338): BMCA selects another grandmaster, or the module when it is grandmaster-capable. -/
def execGmChange (d : Nat) (self : Bool) (m : Master) (s : State) : Out :=
  whenAlive s (fun s =>
    if 2 ≤ d ∨ fbit s (Reg.TIME_DOM_CFG_EN d) = false ∨ bmcaAllows (fget s (Reg.TIME_DOM_CFG_PRIORITY1 d)) self m.best = false
    then .next s
    else
      let x := dom s d
      let s := if m.gmid.toNat = x.gmid then s else raise s 0x5006 timeIsland []
      if self then
        .next (domGained d (setDom s d { x with gm := true, self_ := true, gmid := m.gmid.toNat, offset := 0, rateNum := 1,
                                                rateDen := 1, syncs := [], sentAt := none }))
      else
        let s := setDom s d { x with gm := true, self_ := false, gmid := m.gmid.toNat, syncs := [] }
        .next (if x.self_ then domLost d s else s))

/-- SYNC_TRANSMIT (R321): while grandmaster the module sends module time at its sync interval. -/
def execSyncTransmit (d : Nat) (s : State) : Out :=
  whenFed 5 s (fun s =>
    let x := dom s d
    if domValid s d = true ∧ x.self_ = true ∧ (x.sentAt.all (fun t => decide (t + syncInterval s d ≤ s.time))) = true
    then .next (setDom { s with outbox := s.outbox ++ [.sync (fget s (Reg.TIME_DOM_CFG_PORT d)) d s.time] } d { x with sentAt := some s.time })
    else .next s)

/-! ### Configuration (R317, R337) -/

/-- A gate list's configuration word is in range: entries and an armed trigger while EN is set. -/
def gclCfgOk (s : State) (v : Nat) : Bool :=
  let t := bits v 15 0
  let n := bits v 22 16
  decide (t < 64 ∧ n ≤ 64) && (!bitAt v 31 || (decide (1 ≤ n) && trigArmed s t))

/-- Which register of R337 an offset is, and whether a value is in range for it. -/
def timeCfgOk (s : State) (off v : Nat) : Bool :=
  if off = Reg.TIME_CFG then
    decide (1 ≤ bits v 27 19 ∧ bits v 27 19 ≤ 500 ∧ bits v 18 9 ≤ 1000 ∧ 1 ≤ bits v 7 0)
  else if off = Reg.TIME_LOCK then decide (1 ≤ bits v 15 0)
  else if off = Reg.TIME_DOM_CFG 0 ∨ off = Reg.TIME_DOM_CFG 1 then decide (bits v 15 8 = 0 ∨ 0xFD ≤ bits v 15 8)
  else if off = Reg.NET_GCL_CFG 0 ∨ off = Reg.NET_GCL_CFG 1 then gclCfgOk s v
  else false

/-- Whether an offset is a register of R337. -/
def timeCfgReg (off : Nat) : Bool :=
  [Reg.TIME_CFG, Reg.TIME_LOCK, Reg.TIME_DOM_CFG 0, Reg.TIME_DOM_CFG 1, Reg.NET_GCL_CFG 0, Reg.NET_GCL_CFG 1].contains off

/-- What follows from a change of a register of R337: the source, lock, a stopped domain, open gates. -/
def timeCfgApply (off : Nat) (s : State) : State :=
  if off = Reg.TIME_CFG ∨ off = Reg.TIME_LOCK then applyTimeCfg s
  else if off = Reg.TIME_DOM_CFG 0 ∨ off = Reg.TIME_DOM_CFG 1 then
    let d := if off = Reg.TIME_DOM_CFG 0 then 0 else 1
    if fbit s (Reg.TIME_DOM_CFG_EN d) then s else setDom (domLost d s) d Domain.init
  else s

/-- A write to a register of R337. -/
def timeCfgWrite (agent : Agent) (off v : Nat) (s : State) : State :=
  if agent = .harebell ∧ timeCfgOk s off v = true then timeCfgApply off (rwStore s off v)
  else raise s 0x5008 timeIsland (regData off)

/-- TIME_CFG_WRITE. -/
def execTimeCfgWrite (agent : Agent) (off : Nat) (v : Word) (s : State) : Out :=
  whenAlive s (fun s => if timeCfgReg off then .next (timeCfgWrite agent off v.toNat s) else .next s)

/-- A domain after TIME:FRAC moved by `d` units of 2^-32 ns: its instants move along, and so does its OFFSET, which is module time
minus domain time (R322), unless the module is its grandmaster (R321). -/
def Domain.moved (d : Int) (x : Domain) : Domain :=
  let at_ (t : Nat) : Nat := ((t : Int) + d / (fracUnit : Int)).toNat
  { x with offset := if x.self_ then x.offset else x.offset + d, lastSync := at_ x.lastSync, validAt := at_ x.validAt,
           sentAt := x.sentAt.map at_ }

/-- Module time is set; TIME_SET holds the value. What the time unit counts from an instant goes on from where it was. -/
def setTime (s : State) (v : Nat) : State :=
  let v := v % 2 ^ 64
  let d : Int := ((v * fracUnit : Nat) : Int) - ((s.time * fracUnit + s.frac : Nat) : Int)
  let s := modTime { setReg64 s Reg.TIME_SET v with time := v, frac := 0 } (fun t => { t with
    domains := storeMap (fun _ => Domain.init) (fun _ x => x.moved d) t.domains
    holdAt := t.holdAt.map (fun h => ((h : Int) + d / (fracUnit : Int)).toNat) })
  s

/-- Whether TIME_SET takes a write of an agent (R317). -/
def timeSetTakes (agent : Agent) (s : State) : Bool := decide (agent = .harebell) && !fbit s Reg.QMGR_STATUS_ACCEPTING

/-- A write of TIME_SET's two words together (R317). -/
def timeSetWrite (agent : Agent) (v : Nat) (s : State) : State :=
  if timeSetTakes agent s = true
  then setTime s v
  else raise s 0x5008 timeIsland (regData Reg.TIME_SET)

/-- TIME_SET. -/
def execTimeSet (agent : Agent) (v : DWord) (s : State) : Out :=
  whenAlive s (fun s => .next (timeSetWrite agent v.toNat s))

/-! ### Time commands (R336) -/

/-- The engine of TIME_SET_INCR. -/
def timeSetIncrEngine (c : QCmd) (s : State) : Verdict :=
  let v := c.field 16 8
  if c.length ≠ 1 ∨ c.reservedZero [(16, 8)] = false ∨ v < incrMin ∨ incrMax < v then invalid s
  else if fget s Reg.TIME_CFG_MODE = 1 then refuse s
  else okay (setIncr s v)

/-- TIME_SET_INCR (0x0B00). -/
def execTimeSetIncr (q n : Nat) (s : State) : Out := runEngine 0x0B00 q n timeSetIncrEngine s

/-- The engine of TRIGGER_ARM. -/
def triggerArmEngine (c : QCmd) (s : State) : Verdict :=
  let trig := c.field 16 2
  let arm := c.field 18 1
  if 64 < trig + c.length then invalid s (max 64 trig)
  else if c.reservedZero [(16, 3)] = false ∨ 1 < arm then invalid s
  else
    let ts := (List.range c.length).map (· + trig)
    if arm = 1 then okay (forEach ts armTrigger s)
    else match ts.find? (fun i => trigArmed s i && trigNamed s i) with
      | some i => refuse s i
      | none => okay (forEach ts disarmTrigger s)

/-- TRIGGER_ARM (0x0B01). -/
def execTriggerArm (q n : Nat) (s : State) : Out := runEngine 0x0B01 q n triggerArmEngine s

/-- The 64 bytes of TIME_READ. -/
def timeBlock (s : State) : List Byte :=
  leBytes 8 s.time ++ leBytes 4 s.frac ++ u8 (timeSource s)
    ++ u8 (b2n (fbit s Reg.TIME_STATUS_LOCKED) + 2 * b2n (domValid s 0) + 4 * b2n (domValid s 1)) ++ [0, 0]
    ++ leBytes 8 s.timeu.incr ++ s64 (domOffset (dom s 0)) ++ s64 (domOffset (dom s 1)) ++ List.replicate 24 0

/-- The engine of TIME_READ. -/
def timeReadEngine (q : Nat) (c : QCmd) (s : State) : Verdict :=
  if c.length ≠ 1 ∨ c.reservedZero [(24, 8)] = false ∨ opAligned q (c.field 24 8) 64 = false then invalid s
  else match opWrite s q (c.field 24 8) (timeBlock s) with
    | .error e => failOperand s q c timeIsland 0 e
    | .ok s => okay s

/-- TIME_READ (0x0B02). -/
def execTimeRead (q n : Nat) (s : State) : Out := runEngine 0x0B02 q n (timeReadEngine q) s

/-! ### Gate lists (R333, R335) -/

/-- Entries of a gate list as the set gives it. -/
def gateList (n : Nat) (bs : List Byte) : List (Nat × Nat) :=
  (chunks n 8 bs).map (fun e => (fieldAt e 0 1, fieldAt e 4 4))

/-- The list that the next cycle runs: as many of the set's entries as ENTRIES says (R333, R335). -/
def nextGates (s : State) (p : Nat) : List (Nat × Nat) := (netPort s p).entries.take (fget s (Reg.NET_GCL_CFG_ENTRIES p))

/-- A gate cycle begins at the firing at `t` (R333, R335). -/
def gateCycle (t p : Nat) (s : State) : State :=
  let x := netPort s p
  match nextGates s p with
  | [] => s
  | e :: l => fset (setNetPort s p { x with list := e :: l, began := t, running := true, gates := e.1 })
      (Reg.NET_GCL_STATUS_CURRENT p) 0

/-- GATE_ENTRY_EXPIRY (R333): the next entry takes effect; after the last, its gates stay. -/
def execGateEntryExpiry (p : Nat) (s : State) : Out :=
  whenFed 5 s (fun s =>
    let x := netPort s p
    let cur := fget s (Reg.NET_GCL_STATUS_CURRENT p)
    let stop := x.began + (x.list.getD cur (0, 0)).2
    if 2 ≤ p ∨ x.running = false ∨ fbit s (Reg.NET_GCL_CFG_EN p) = false ∨ s.time < stop then .next s
    else match x.list[cur + 1]? with
      | none => .next (setNetPort s p { x with running := false })
      | some e =>
        .next (fset (setNetPort s p { x with began := stop, gates := e.1 }) (Reg.NET_GCL_STATUS_CURRENT p) (cur + 1)))

/-- The gate changes of a cycle that begins at `t` with the given entries: (instant, gates). -/
def gateTimes (t : Nat) : List (Nat × Nat) → List (Nat × Nat)
  | [] => []
  | e :: rest => (t, e.1) :: gateTimes (t + e.2) rest

/-- The gate changes to come: the rest of the running cycle until the trigger's next firing, and the cycle after it. -/
def gateChanges (s : State) (p : Nat) : List (Nat × Nat) :=
  let x := netPort s p
  let trig := fget s (Reg.NET_GCL_CFG_TRIGGER_ID p)
  let rest := if x.running
    then (gateTimes x.began (x.list.drop (fget s (Reg.NET_GCL_STATUS_CURRENT p)))).drop 1 else []
  if trigArmed s trig then
    let n := near s (trigNext s trig)
    rest.filter (fun e => decide (e.1 < n)) ++ gateTimes n (nextGates s p)
  else rest

/-- Time a frame and the gap after it take at 10 Gb/s, in ns: preamble 8, FCS 4 and gap 12 bytes. -/
def frameNs (len : Nat) : Nat := ceilDiv ((len + 24) * 4) 5

/-- A frame of class `k` may start now: its gate is open and stays open for the frame and its gap (R334). -/
def gateStaysOpen (s : State) (p k len : Nat) : Bool :=
  !fbit s (Reg.NET_GCL_CFG_EN p)
    || (bitAt (netPort s p).gates k
      && (gateChanges s p).all (fun e => decide (e.1 ≤ s.time ∨ s.time + frameNs len ≤ e.1) || bitAt e.2 k))

/-! ### Ethernet transmission (R225, R334, R578) -/

/-- A timed frame handed over at least 2 µs before its launch time. -/
def NetFrame.early (f : NetFrame) : Bool :=
  match f.launch with
  | none => false
  | some l => decide (2000 ≤ s32diff (l % 2 ^ 32) (f.handed % 2 ^ 32))

/-- Whether `f` launches before `g`. -/
def NetFrame.before (f g : NetFrame) : Bool :=
  match f.launch, g.launch with
  | some a, some b => decide (s32diff (a % 2 ^ 32) (b % 2 ^ 32) < 0)
  | _, _ => false

/-- The launch time is reached, or there is none. -/
def NetFrame.due (s : State) (f : NetFrame) : Bool :=
  match f.launch with
  | none => true
  | some l => reached s l

/-- Whether `f` launches at the same instant as `g`, weighed by the low 32 bits. -/
def NetFrame.same (f g : NetFrame) : Bool :=
  match f.launch, g.launch with
  | some a, some b => decide (a % 2 ^ 32 = b % 2 ^ 32)
  | _, _ => false

/-- Whether frame `i` of a port may leave now: its gate, its launch time, and launch order (R225): early timed frames leave in the
order of their launch times, and timed frames of equal launch times in the order in which they were handed over. -/
def frameReady (s : State) (p i : Nat) (f : NetFrame) : Bool :=
  let fs := (netPort s p).frames
  gateStaysOpen s p f.cls f.bytes.length && NetFrame.due s f
    && ((List.range fs.length).zip fs).all (fun (j, g) =>
      !(decide (j < i) && g.same f) && !(f.early && g.early && g.before f))

/-- Rank of a ready frame: frames handed over late leave when the port is next free, then by class, highest first. -/
def frameRank (f : NetFrame) : Nat := if f.launch.isSome ∧ f.early = false then 0 else 8 - f.cls

/-- The frame a port sends next. -/
def nextFrame (s : State) (p : Nat) : Option (Nat × NetFrame) :=
  let fs := (netPort s p).frames
  let ready := ((List.range fs.length).zip fs).filter (fun (i, f) => frameReady s p i f)
  (sortBy (fun e => frameRank e.2) ready).head?

/-- Count and record a timed frame that leaves more than 1 µs late (R334). -/
def noteLaunch (s : State) (p : Nat) (f : NetFrame) : State :=
  match f.launch with
  | none => s
  | some l =>
    let late := s32diff (s.time % 2 ^ 32) (l % 2 ^ 32)
    if 1000 < late then raise (finc s (Reg.NET_GCL_STATUS_LATE p)) 0x5007 timeIsland (u16 p ++ u32 late.toNat) else s

/-- Complete the NET_SEND a frame belonged to once no port holds a frame of it. -/
def settleNetSend (own : Option (Nat × Nat)) (s : State) : State :=
  match own with
  | none => s
  | some (q, n) =>
    if s.timeu.net.any (fun e => e.2.frames.any (fun f => decide (f.own = own))) then s
    else completeCmd s q n Status.ok 0

/-- NET_FRAME_TRANSMIT (R334). -/
def execNetFrameTransmit (p : Nat) (s : State) : Out :=
  whenFed 5 s (fun s =>
    match nextFrame s p with
    | none => .next s
    | some (i, f) =>
      let x := netPort s p
      let s := setNetPort (noteLaunch s p f) p { x with frames := x.frames.eraseIdx i }
      .next (settleNetSend f.own { s with outbox := s.outbox ++ [.net p f.cls f.bytes] }))

/-- A big-endian field of a frame. -/
def beField (bs : List Byte) (off n : Nat) : Nat := leNat (slice bs off n).reverse

/-- Whether a frame is one NET_SEND sends (R578): size, EtherType, source. -/
def netFrameOk (s : State) (port : Nat) (bs : List Byte) : Bool :=
  let tagged := decide (beField bs 12 2 = 0x8100)
  let et := beField bs (if tagged then 16 else 12) 2
  let n := bs.length
  decide ((if tagged = true then 64 ≤ n ∧ n ≤ 1518 else 60 ≤ n ∧ n ≤ 1514) ∧ et ≠ 0x88F7 ∧ et ≠ 0x88B6
    ∧ beField bs 6 6 = mgmtAddress s port)

/-- Read the entries of a NET_SEND list from `va`: the frames by port, or the first failing entry. -/
def netList (q : Nat) (c : QCmd) (s : State) : (k i va : Nat) → Except (Nat × Option AccErr) (List (Nat × NetFrame))
  | 0, _, _ => .ok []
  | k + 1, i, va =>
    match opRead s q va 64 with
    | .error e => .error (i, some e)
    | .ok h =>
      let port := fieldAt h 8 1
      let cls := fieldAt h 9 1
      let n := fieldAt h 12 2
      if 1 < port ∨ 7 < cls ∨ fieldAt h 10 2 ≠ 0 ∨ fieldAt h 14 2 ≠ 0 ∨ 1518 < n then .error (i, none)
      else
        let size := ceilDiv (16 + n) 64 * 64
        match opRead s q va size with
        | .error e => .error (i, some e)
        | .ok bs =>
          let frame := slice bs 16 n
          let launch := if fieldAt h 0 8 = 0 then none else some (fieldAt h 0 8)
          if netFrameOk s port frame then
            match netList q c s k (i + 1) (va + size) with
            | .error e => .error e
            | .ok rest => .ok ((port, ⟨cls, launch, frame, some (q, c.n), s.time⟩) :: rest)
          else .error (i, none)

/-- The engine of NET_SEND. -/
def netSendEngine (q : Nat) (c : QCmd) (s : State) : Verdict :=
  if c.engaged then .wait s
  else if 64 < c.length ∨ c.reservedZero [(24, 8)] = false ∨ opAligned q (c.field 24 8) 64 = false then invalid s
  else match netList q c s c.length 0 (c.field 24 8) with
    | .error (i, none) => invalid s i
    | .error (i, some (.uncorr a)) => failOperand s q c netIsland i (.uncorr a)
    | .error (i, some (.ptUncorr a)) => failOperand s q c netIsland i (.ptUncorr a)
    | .error (i, some _) => invalid s i
    | .ok fs =>
      let s := modCmd s q c.n (fun d => { d with engaged := true })
      .wait (forEach fs (fun (p, f) s => handFrame p f s) s)

/-- NET_SEND (0x0740). -/
def execNetSend (q n : Nat) (s : State) : Out := runEngine 0x0740 q n (netSendEngine q) s

end Sys2Proof.Machine
end

