-- ==== Sys2Proof/Machine/Sensors.lean ====
section
/-! DEFINITION. Sensor ingress and Clover (R339 to R366): streams, sample times, fusion groups, fused-state records, extrinsic
slots and their refinement, and the sensor commands. -/

namespace Sys2Proof.Machine

/-- Island of sensor ingress. -/
def senseIsland : Nat := 62
/-- Island of Clover. -/
def cloverIsland : Nat := 63

/-- Change the sensor blocks. -/
def modSensors (s : State) (f : Sensors → Sensors) : State := { s with sensors := f s.sensors }

/-- Stream `k`. -/
def stream (s : State) (k : Nat) : Stream := storeGet (fun _ => Stream.init) s.sensors.streams k

/-- Replace stream `k`. -/
def setStream (s : State) (k : Nat) (x : Stream) : State :=
  modSensors s (fun y => { y with streams := storeSet (fun _ => Stream.init) y.streams k x })

/-- Fusion group `g`. -/
def group (s : State) (g : Nat) : Group := storeGet (fun _ => Group.init) s.sensors.groups g

/-- Replace fusion group `g`. -/
def setGroup (s : State) (g : Nat) (x : Group) : State :=
  modSensors s (fun y => { y with groups := storeSet (fun _ => Group.init) y.groups g x })

/-- Extrinsic slot `j`. -/
def extr (s : State) (j : Nat) : Slot := storeGet (fun _ => Slot.init) s.sensors.slots j

/-- Replace extrinsic slot `j`. -/
def setExtr (s : State) (j : Nat) (x : Slot) : State :=
  modSensors s (fun y => { y with slots := storeSet (fun _ => Slot.init) y.slots j x })

/-! ### Descriptors (Tables 12.2, 12.4, 12.8) -/

/-- A field of the stream's descriptor. -/
def Stream.field (x : Stream) (off n : Nat) : Nat := fieldAt x.desc off n
/-- The descriptor is used. -/
def Stream.used (x : Stream) : Bool := decide (x.field 0 1 ≠ 0)
/-- A camera. -/
def Stream.camera (x : Stream) : Bool := decide (x.field 0 1 = 1)
/-- SELF_STAMP. -/
def Stream.selfStamp (x : Stream) : Bool := bitAt (x.field 3 1) 0
/-- RESAMPLE. -/
def Stream.resample (x : Stream) : Nat := x.field 4 1
/-- Member of group `g`. -/
def Stream.inGroup (x : Stream) (g : Nat) : Bool := x.used && bitAt (x.field 6 1) g
/-- ELEM_BYTES. -/
def Stream.elem (x : Stream) : Nat := x.field 8 2
/-- BUF_SLOTS. -/
def Stream.slots (x : Stream) : Nat := x.field 10 2
/-- Bytes of a staging record. -/
def Stream.recBytes (x : Stream) : Nat := ceilDiv (32 + x.elem) 64 * 64
/-- LOCAL address of the staging slot of a SEQ. -/
def Stream.slotAddr (x : Stream) (seq : Nat) : Nat := 0x18000000000 + x.field 12 4 + seq % x.slots * x.recBytes
/-- LAT_NS. -/
def Stream.lat (x : Stream) : Int := sint 32 (x.field 16 4)
/-- WINDOW_US in ns. -/
def Stream.window (x : Stream) : Nat := x.field 20 4 * 1000
/-- The stream passes through unfused (R350). -/
def Stream.pass (x : Stream) : Bool := decide (x.window = 0)

/-- A field of the group's descriptor. -/
def Group.field (g : Group) (off n : Nat) : Nat := fieldAt g.desc off n
/-- EN. -/
def Group.en (g : Group) : Bool := bitAt (g.field 3 1) 0
/-- TRIGGER_ID. -/
def Group.trig (g : Group) : Nat := g.field 0 2
/-- RELEASE_US in ns. -/
def Group.release (g : Group) : Nat := g.field 20 4 * 1000

/-- Whether group `g` runs (R347). -/
def groupRuns (s : State) (g : Nat) : Bool := (group s g).en && trigArmed s (group s g).trig

/-- Period of a group. -/
def groupPeriod (s : State) (g : Nat) : Nat := trigPeriod (trigRecord s (group s g).trig)

/-- The enabled groups of a stream. -/
def streamGroups (s : State) (x : Stream) : List Nat := (List.range 8).filter (fun g => x.inGroup g && (group s g).en)

/-- Whether a stream is in RUN. -/
def streamRun (s : State) (k : Nat) : Bool := fbit s (Reg.SNS_STREAM_STATE_RUN k)

/-- The current record of a slot: the factory record with the current Q and P. -/
def Slot.record (x : Slot) : List Byte := x.pose ++ x.factory.drop 28
/-- Q of the slot. -/
def Slot.q (x : Slot) : List Word := bytesToWords 4 x.pose
/-- P of the slot. -/
def Slot.p (x : Slot) : List Word := bytesToWords 3 (x.pose.drop 16)

/-! ### Ingress (R340, R343 to R346, R349) -/

/-- Swap the bytes of every 16-bit word (SWAP16). -/
def swap16 : List Byte → List Byte
  | a :: b :: rest => b :: a :: swap16 rest
  | l => l

/-- The estimator's outcome for one sample (R344): t, whether it is trusted, and the stream after it. -/
structure Stamped where
  t       : Int
  trusted : Bool
  stream  : Stream
  lost    : Option (Int × Int × Int)
  deriving DecidableEq, Repr

/-- Shortest period among a stream's groups. -/
def shortest (s : State) (x : Stream) : Option Nat :=
  (streamGroups s x).foldl (fun m g => match m with
    | none => some (groupPeriod s g)
    | some p => some (min p (groupPeriod s g))) none

/-- R344: sample time at ingress time `i` for a payload. -/
def stampSample (s : State) (k i : Nat) (payload : List Byte) : Stamped :=
  let x := stream s k
  let trusted := fbit s (Reg.SNS_STREAM_STATE_TRUSTED k)
  if !x.selfStamp then ⟨(i : Int) - x.lat, trusted, x, none⟩
  else
    let nbits := x.field 7 1
    let c := fieldAt payload (x.field 32 2) (ceilDiv nbits 8) % 2 ^ nbits
    let steps := (c + 2 ^ nbits - x.count % 2 ^ nbits) % 2 ^ nbits
    let add := ((Num.ofInt steps).mul (val32 (BitVec.ofNat 32 (x.field 28 4)))).rneInt
    let st : Nat := wrapInt 64 ((x.sensorT : Int) + add)
    let r := sint 64 (wrapInt 64 ((i : Int) - x.lat - sint 64 st))
    let o := if x.first then r else x.o
    let oRef := if x.first then r else x.oRef
    let t := if trusted then sint 64 (wrapInt 64 (sint 64 st + o)) else (i : Int) - x.lat
    let o' := if (r - o).natAbs ≤ x.field 24 4 then sint 64 (wrapInt 64 (o + (r - o) / 16)) else o
    let lost := trusted && (match shortest s x with
      | none => false
      | some p => decide (p < (o' - oRef).natAbs ∨ p < (r - o').natAbs))
    ⟨min t i, trusted, { x with count := c, sensorT := st, o := o', oRef := oRef, first := false },
      if lost then some (o', oRef, r) else none⟩

/-- The first instant of a running group after `t`, when one lies at or before `i` (R348). -/
def missedInstant (s : State) (g : Nat) (t : Int) (i : Nat) : Option Nat :=
  let x := group s g
  if x.seq = 0 ∨ (x.lastT : Int) ≤ t then none
  else
    let p := groupPeriod s g
    let k := ((x.lastT : Int) - t - 1).toNat / max p 1
    let m := max x.firstT (x.lastT - k * p)
    if m ≤ i then some m else none

/-- Count a late sample of a stream for the instant it misses. -/
def addMissed (k m : Nat) : List (Nat × Nat × Nat) → List (Nat × Nat × Nat)
  | [] => [(k, m, 1)]
  | (a, b, n) :: rest => if a = k ∧ b = m then (a, b, n + 1) :: rest else (a, b, n) :: addMissed k m rest

/-- Mark a sample late for each group whose instant it misses (R349); the mask of those groups. -/
def lateGroups (k : Nat) (t : Int) (i : Nat) (s : State) : Nat × State :=
  let x := stream s k
  if x.pass then (0, s)
  else (streamGroups s x).foldl (fun (p : Nat × State) g =>
    match missedInstant p.2 g t i with
    | none => p
    | some m =>
      let y := group p.2 g
      (p.1 + 2 ^ g, setGroup p.2 g { y with missed := addMissed k m y.missed })) (0, s)

/-- A write of staging bytes by ingress; a partial write to an uncorrectable word is not made (R599). -/
def stagingWrite (s : State) (a : Nat) (bs : List Byte) : State :=
  match badPartial s a bs.length with
  | none => memWrite s a bs
  | some u => reportUncorr s u senseIsland 0xFF 0

/-- Whether a stream's slot holds a record that no group has read (R343). -/
def overruns (x : Stream) (seq : Nat) : Bool :=
  decide (x.field 6 1 ≠ 0) && x.samples.any (fun r => decide (r.seq + x.slots = seq) && !r.read)

/-- A camera frame enters its slot of the frame ring (R343); a page that does not translate takes nothing (log entry 31). -/
def cameraFrame (x : Stream) (seq : Nat) (pixels : List Byte) (s : State) : State :=
  let size := x.field 56 4
  let a := x.field 48 8 + seq % x.field 60 2 * size
  vaPut s (x.field 44 1) a (pixels.take size)

/-- RAW10 pixels, four in five bytes, as u16 (Table 12.1 (a); the packing is CSI-2's, log entry 71). -/
def unpack10 : List Byte → List Byte
  | a :: b :: c :: d :: l :: rest =>
    u16 (4 * a.toNat + bits l.toNat 1 0) ++ u16 (4 * b.toNat + bits l.toNat 3 2) ++ u16 (4 * c.toNat + bits l.toNat 5 4)
      ++ u16 (4 * d.toNat + bits l.toNat 7 6) ++ unpack10 rest
  | _ => []

/-- RAW12 pixels, two in three bytes, as u16. -/
def unpack12 : List Byte → List Byte
  | a :: b :: l :: rest => u16 (16 * a.toNat + bits l.toNat 3 0) ++ u16 (16 * b.toNat + bits l.toNat 7 4) ++ unpack12 rest
  | _ => []

/-- Pixels as ingress writes them (Table 12.1 (a)). -/
def unpackPixels : PixelType → List Byte → List Byte
  | .raw10, b => unpack10 b
  | .raw12, b => unpack12 b
  | .raw8, b => b
  | .yuv422, b => b

/-- A sample of a RUN stream, stamped with `i`, has arrived whole by now. `raw` is what the sensor sent, for a camera its unpacked
pixels; `error` is 0, or the cause of R343: 2 packet-header ECC failure, 3 payload CRC failure. -/
def sampleIngress (k : Nat) (raw : List Byte) (error i : Nat) (s : State) : State :=
  let x := stream s k
  let seq := x.seq + 1
  let cut := x.camera && decide (x.field 56 4 < raw.length)
  let cause := if cut then 1 else if x.camera ∧ (error = 2 ∨ error = 3) then error else 0
  let s := if x.camera ∧ ctxActive s (x.field 44 1) = true then cameraFrame x seq raw s else s
  let payload := if x.camera
    then leBytes 4 (seq % x.field 60 2) ++ leBytes 4 (min raw.length (x.field 56 4)) ++ leBytes 8 s.time
    else if bitAt (x.field 3 1) 2 then swap16 (raw.take x.elem) else raw.take x.elem
  let st := stampSample s k i payload
  let order := match x.prev with
    | none => false
    | some p => decide (st.t ≤ p)
  let s := finc s (Reg.SNS_STREAM_CNT_COUNT k 0)
  let (late, s) := if order then (0, s) else lateGroups k st.t i s
  let s := if late = 0 then s else finc s (Reg.SNS_STREAM_CNT_COUNT k 1)
  let lost := overruns x seq
  let s := if lost then finc s (Reg.SNS_STREAM_CNT_COUNT k 3) else s
  let s := if lost ∧ x.overrun = false then raise s 0x6005 senseIsland (u16 k) else s
  let flags := b2n st.trusted + 2 * b2n (decide (late ≠ 0)) + 4 * b2n (decide (cause ≠ 0))
  let rec_ := leBytes 8 i ++ leBytes 8 (wrapInt 64 st.t) ++ leBytes 4 seq ++ leBytes 2 payload.length ++ u8 flags ++ [0]
    ++ leBytes 8 (if x.selfStamp then st.stream.sensorT else 0) ++ padTo x.elem payload
  let s := stagingWrite s (x.slotAddr seq) rec_
  let s := setStream s k { st.stream with
    seq := seq, prev := some st.t, overrun := lost,
    samples := (⟨seq, st.t, i, late, order, false, false⟩ :: x.samples).take x.slots }
  let s := if x.selfStamp then setReg64 s (Reg.SNS_STREAM_OFFSET k) (wrapInt 64 st.stream.o) else s
  let s := match st.lost with
    | none => s
    | some (o, oRef, r) =>
      raise (fsetb s (Reg.SNS_STREAM_STATE_TRUSTED k) false) 0x6003 senseIsland (u16 k ++ s64 o ++ s64 oRef ++ s64 r)
  let s := if order then raise (finc s (Reg.SNS_STREAM_CNT_COUNT k 2)) 0x6007 senseIsland (u16 k) else s
  if cause = 0 then s else raise (finc s (Reg.SNS_STREAM_CNT_COUNT k 4)) 0x6009 senseIsland (u16 k ++ u8 cause)

/-- A ring stream's next gather slot enters ingress with its stamp (R296); without one nothing does. -/
def ringIngress (k : Nat) (s : State) : State :=
  match s.sensors.arrivals.find? (fun e => decide (e.1 = k)) with
  | none => s
  | some e => sampleIngress k e.2.2 0 e.2.1 (modSensors s (fun y => { y with arrivals := y.arrivals.erase e }))

/-- SAMPLE_INGRESS: a ring stream takes a gather slot that a frame brought, another stream what its port brings. -/
def execSampleIngress (k : Nat) (x : SampleIn) (ticksAgo : Nat) (s : State) : Out :=
  whenAlive s (fun s =>
    if k < 128 ∧ streamRun s k = true ∧ (stream s k).used = true ∧ phaseUp s 5 = true
    then .next (if (stream s k).field 0 1 = 5 then ringIngress k s
      else sampleIngress k (if (stream s k).camera then unpackPixels x.type x.raw else x.raw) x.error (s.time - 2 * ticksAgo) s)
    else .next s)

/-! ### Eligible samples (R348 to R351, R357) -/

/-- The samples of a stream that are eligible for instant `t` of group `g`, latest t first. -/
def eligible (x : Stream) (g t : Nat) : List StreamRec :=
  let ok (r : StreamRec) : Bool :=
    !r.order && decide (r.i < t)
      && (x.pass || (decide (r.t < t ∧ (t : Int) - r.t ≤ x.window) && !(decide (x.resample = 3) && bitAt r.late g)))
  (sortBy (fun r => (r.t + 2 ^ 63).toNat) (x.samples.filter ok)).reverse

/-- Read up to `n` samples' staging records, newest first; an uncorrectable one is absent, counts in DROPPED and raises 0x1002
(R357). -/
def readSamples (k : Nat) (x : Stream) : (n : Nat) → List StreamRec → State → List (StreamRec × List Byte) × State
  | 0, _, s => ([], s)
  | _, [], s => ([], s)
  | n + 1, r :: rest, s =>
    let a := x.slotAddr r.seq
    match badUnit s a (32 + x.elem) with
    | some u => readSamples k x (n + 1) rest (finc (reportUncorr s u cloverIsland 0xFF 0) (Reg.SNS_STREAM_CNT_COUNT k 2))
    | none =>
      let (l, s') := readSamples k x n rest s
      ((r, memRead s a (32 + x.elem)) :: l, s')
  termination_by structural _ l => l

/-- Payload of a staging record. -/
def recPayload (b : List Byte) : List Byte := b.drop 32

/-- Words of a payload as FP32 (HOLD). -/
def holdWords (n : Nat) (b : List Byte) : List Word :=
  (bytesToWords n (recPayload b)).map (fun w => ofInt32 (sint 32 w.toNat))

/-- One LINEAR word (Table 12.5). -/
def linearWord (t : Nat) (t0 t1 : Int) (v0 v1 : Word) : Word :=
  let f := rne32 ((Num.ofInt ((t : Int) - t1)).div (Num.ofInt (t1 - t0)))
  let d := rne32 (((val32 v1).sub (val32 v0)).mul (val32 f))
  rne32 ((val32 v1).add (val32 d))

/-! ### PREINT and poses (R352, R353) -/

/-- A quaternion or vector from a component function. -/
def comps (n : Nat) (f : Nat → Word) : List Word := (List.range n).map f
/-- An FP32 sum of which `k` chooses the order: two terms become one until one is left. -/
def sumTerms : (fuel k : Nat) → List Word → Word
  | 0, _, l => l.headD 0
  | fuel + 1, k, l =>
    match l with
    | [] => 0
    | [a] => a
    | a :: b :: rest =>
      let l := a :: b :: rest
      let n := l.length
      let l' := l.eraseIdx (k % n)
      let j := k / n % (n - 1)
      sumTerms fuel (k / n / (n - 1)) (fadd32 (l.getD (k % n) 0) (l'.getD j 0) :: l'.eraseIdx j)

/-- The sum of an operation's terms for a component, each addition rounded, in the order that is not stated (R352). -/
def qSum (op i : Nat) (l : List Word) : Word := sumTerms l.length (Config.quatOrder op i) l

/-- The four products of a component of a quaternion product, with their signs. -/
def qTerms (a b : List Word) (i : Nat) : List Word :=
  let m (x y : Nat) : Word := fmul32 (a.getD x 0) (b.getD y 0)
  if i = 0 then [m 0 0, fneg32 (m 1 1), fneg32 (m 2 2), fneg32 (m 3 3)]
  else if i = 1 then [m 0 1, m 1 0, m 2 3, fneg32 (m 3 2)]
  else if i = 2 then [m 0 2, fneg32 (m 1 3), m 2 0, m 3 1]
  else [m 0 3, m 1 2, fneg32 (m 2 1), m 3 0]

/-- Product of quaternions. -/
def qMul (a b : List Word) : List Word := comps 4 (fun i => qSum 0 i (qTerms a b i))
/-- Conjugate. -/
def qConj (q : List Word) : List Word := (q.take 1) ++ (q.drop 1).map fneg32
/-- Rotate a vector: q v q* by quaternion products, of which either may come first (log entry 70). -/
def qRot (q v : List Word) : List Word :=
  (if Config.quatOrder 1 0 % 2 = 0 then qMul (qMul q (0 :: v)) (qConj q) else qMul q (qMul (0 :: v) (qConj q))).drop 1
/-- A quaternion over its norm: by a division, or by the reciprocal square root (log entry 70). -/
def qNormalise (q : List Word) : List Word :=
  let n := qSum 2 0 (q.map (fun x => fmul32 x x))
  if Config.quatOrder 2 1 % 2 = 0 then q.map (fun x => fdiv32 x (fsqrt32 n)) else q.map (fun x => fmul32 x (frsqrt n))
/-- The quaternion of a rotation vector: cos θ/2 and sin θ/2 along its axis; the identity for no rotation (log entry 70). -/
def qExp (v : List Word) : List Word :=
  let angle := fsqrt32 (qSum 3 0 (v.map (fun x => fmul32 x x)))
  if (val32 angle).isZero then [one32, 0, 0, 0]
  else
    let half := fmul32 angle 0x3F000000
    let sine := rne32 (val32 half).sin
    rne32 (val32 half).cos :: (if Config.quatOrder 3 1 % 2 = 0 then v.map (fun x => fmul32 x (fdiv32 sine angle))
      else v.map (fun x => fmul32 (fdiv32 x angle) sine))
/-- The identity. -/
def qOne : List Word := [one32, 0, 0, 0]
/-- Scale a vector. -/
def vScale (v : List Word) (k : Word) : List Word := v.map (fun x => fmul32 x k)
/-- Add vectors. -/
def vAdd (a b : List Word) : List Word := a.zipWith fadd32 b

/-- 1e-9 as FP32. -/
def nano : Word := rne32 ((Num.ofInt 1).div (Num.ofInt 1000000000))
/-- 0.5 as FP32. -/
def half32 : Word := 0x3F000000

/-- The rate and acceleration words of an IMU payload: gx, gy, gz, ax, ay, az. -/
def imuWords (b : List Byte) : List Word × List Word :=
  let w := (List.range 6).map (fun i => ofInt32 (sint 16 (fieldAt (recPayload b) (2 * i) 2)))
  (w.take 3, w.drop 3)

/-- The running integrals dq, dv, dp. -/
structure Preint where
  dq : List Word
  dv : List Word
  dp : List Word
  deriving DecidableEq, Repr

/-- One interval of R352. -/
def preintStep (x : Stream) (a b : Int) (sample : List Byte) (p : Preint) : Preint :=
  let (w, acc) := imuWords sample
  let dt := fmul32 (ofInt32 (b - a)) nano
  let accR := qRot p.dq (vScale acc (BitVec.ofNat 32 (x.field 40 4)))
  let dp := vAdd (vAdd p.dp (vScale p.dv dt)) (vScale (vScale (vScale accR half32) dt) dt)
  let dv := vAdd p.dv (vScale accR dt)
  let turn := qExp (vScale (vScale w (BitVec.ofNat 32 (x.field 36 4))) dt)
  ⟨qNormalise (qMul p.dq turn), dv, dp⟩

/-- Integrate samples, oldest first, over (lo, hi]: each holds from its t to the next sample's t, the last to `hi`. -/
def preintFrom (x : Stream) (lo hi : Int) : List (StreamRec × List Byte) → Preint → Preint
  | [], p => p
  | (r, b) :: rest, p =>
    let a := max r.t lo
    let e := match rest with
      | [] => hi
      | (r', _) :: _ => min r'.t hi
    preintFrom x lo hi rest (if a < e then preintStep x a e b p else p)

/-- R352 over (lo, hi], in the body frame with the stream's extrinsic rotation when it has one. -/
def preint (s : State) (x : Stream) (lo hi : Int) (l : List (StreamRec × List Byte)) : Preint :=
  let p := preintFrom x lo hi l ⟨qOne, [0, 0, 0], [0, 0, 0]⟩
  if x.field 5 1 = 0xFF then p
  else
    let q := (extr s (x.field 5 1)).q
    ⟨qMul (qMul q p.dq) (qConj q), qRot q p.dv, qRot q p.dp⟩

/-- The samples PREINT uses over (lo, hi]: those with t in it and the latest at or before `lo`; from newest first to oldest
first. -/
def preintSamples (lo : Int) (l : List StreamRec) : List StreamRec :=
  let inside := l.filter (fun r => decide (lo < r.t))
  inside ++ (l.filter (fun r => decide (r.t ≤ lo))).take 1

/-- ω and a of the latest sample in the body frame (Table 12.5). -/
def latestMotion (s : State) (x : Stream) (b : List Byte) : List Word :=
  let (w, acc) := imuWords b
  let w := vScale w (BitVec.ofNat 32 (x.field 36 4))
  let acc := vScale acc (BitVec.ofNat 32 (x.field 40 4))
  if x.field 5 1 = 0xFF then w ++ acc
  else let q := (extr s (x.field 5 1)).q; qRot q w ++ qRot q acc

/-- ΔR of a body rotation over (lo, hi] from a group's REF_IMU; the identity without one (R353). -/
def bodyTurn (s : State) (g : Nat) (lo hi : Int) (l : Stream → List StreamRec) : List Word × State :=
  let ref := (group s g).field 4 1
  if ref = 0xFF then (qOne, s)
  else
    let x := stream s ref
    let want := preintSamples lo (l x)
    let (rs, s) := readSamples ref x want.length want s
    ((preint s x lo hi rs.reverse).dq, s)

/-! ### Entries (R351, R354) -/

/-- Value area of an entry in bytes: of PREINT 64; of NONE with a pose 32 more than the payload. -/
def valueBytes (x : Stream) : Nat :=
  if x.pass then x.elem
  else if x.resample = 3 then 64
  else if x.resample = 0 ∧ x.field 5 1 ≠ 0xFF then x.elem + 32
  else x.elem

/-- Bytes of an entry. -/
def entryBytes (x : Stream) : Nat := 16 + ceilDiv (valueBytes x) 16 * 16

/-- Greatest cost of an entry in ns (R356), for the samples used. -/
def entryCost (x : Stream) (n : Nat) : Nat :=
  if x.pass then 20 + ceilDiv x.elem 64
  else if x.resample = 3 then 100 + 30 * n
  else if x.resample = 0 then 20 + ceilDiv x.elem 64 + (if x.field 5 1 = 0xFF then 0 else 150)
  else 40 + 2 * (x.elem / 4)

/-- The pose that a NONE entry with an extrinsic slot carries (R353), 28 bytes padded to 32. -/
def poseBytes (g t : Nat) (x : Stream) (at_ : Int) (s : State) : List Byte × State :=
  let e := extr s (x.field 5 1)
  let ref := (group s g).field 4 1
  if ref = 0xFF then (padTo 32 e.pose, s)
  else
    let (dr, s) := bodyTurn s g at_ t (fun y => eligible y g t)
    let back := qConj dr
    (padTo 32 (wordsToBytes (qMul back e.q ++ qRot back e.p)), s)

/-- The value area built from the samples used, newest first. -/
def entryValue (g t : Nat) (x : Stream) (l : List (StreamRec × List Byte)) (s : State) : List Byte × State :=
  let n := x.elem / 4
  match l with
  | [] => ([], s)
  | (r, b) :: rest =>
    if x.pass then (recPayload b, s)
    else if x.resample = 0 then
      (if x.field 5 1 = 0xFF then (recPayload b, s)
       else let (pose, s) := poseBytes g t x r.t s; (recPayload b ++ pose, s))
    else if x.resample = 1 then (wordsToBytes (holdWords n b), s)
    else if x.resample = 2 then
      (match rest with
       | [] => (wordsToBytes (holdWords n b), s)
       | (r0, b0) :: _ =>
         (wordsToBytes ((holdWords n b0).zipWith (linearWord t r0.t r.t) (holdWords n b)), s))
    else
      let lo := (t : Int) - groupPeriod s g
      let p := preint s x lo t l.reverse
      (wordsToBytes (p.dq ++ p.dv ++ p.dp ++ latestMotion s x b), s)

/-- How many samples a resampling method uses at most, from the eligible ones. -/
def usable (s : State) (g t : Nat) (x : Stream) (l : List StreamRec) : List StreamRec × Nat :=
  if x.resample = 3 ∧ x.pass = false then
    let l := preintSamples ((t : Int) - groupPeriod s g) l
    (l, l.length)
  else (l, if x.resample = 2 ∧ x.pass = false then 2 else 1)

/-- Mark samples of a stream as read by a group. -/
def markRead (k : Nat) (l : List (StreamRec × List Byte)) (s : State) : State :=
  let x := stream s k
  setStream s k { x with samples := x.samples.map (fun r =>
    if l.any (fun u => decide (u.1.seq = r.seq)) then { r with read := true } else r) }

/-- A sample that no group has used and none will: it has aged out by instant `t`, or PREINT dropped it as late for every group
(R349, Table 12.5). -/
def agedOut (s : State) (x : Stream) (t : Nat) (r : StreamRec) : Bool :=
  !r.read && !r.order && !r.aged && !x.pass && decide (r.t < t ∧ r.i < t)
    && (decide ((x.window : Int) < (t : Int) - r.t) || (decide (x.resample = 3) && (streamGroups s x).all (bitAt r.late)))

/-- Samples that age out before use count in DROPPED, once each (R349). -/
def dropAged (t k : Nat) (s : State) : State :=
  let x := stream s k
  let gone := x.samples.filter (agedOut s x t)
  let s := setStream s k { x with samples := x.samples.map (fun r => if agedOut s x t r then { r with aged := true } else r) }
  fadd s (Reg.SNS_STREAM_CNT_COUNT k 2) gone.length

/-- Build the entry of member `k` at instant `t` of group `g`. -/
def buildEntry (g t k : Nat) (s : State) : FuseEntry × State :=
  let x := stream s k
  let trusted := fbit s (Reg.SNS_STREAM_STATE_TRUSTED k)
  let (want, n) := usable s g t x (eligible x g t)
  let (l, s) := readSamples k x n want s
  let (value, s) := entryValue g t x l s
  let s := markRead k l s
  let valid := decide (l ≠ [])
  let err := l.any (fun u => bitAt (fieldAt u.2 22 1) 2)
  let flags := b2n valid + 2 * b2n (!trusted) + 8 * b2n x.pass + 16 * b2n err
  let at_ := match l with
    | [] => 0
    | u :: _ => wrapInt 64 u.1.t
  let head := leBytes 8 at_ ++ leBytes 2 l.length ++ u8 flags ++ u8 x.resample ++ leBytes 2 k ++ [0, 0]
  (⟨head ++ padTo (entryBytes x - 16) value, (l.filter (fun u => bitAt u.1.late g)).length, entryCost x l.length⟩, s)

/-- An entry marked INCOMPLETE (R356): VALID = 0, a value area of zeros. -/
def incompleteEntry (e : FuseEntry) : FuseEntry :=
  { e with bytes := padTo e.bytes.length (List.replicate 10 0 ++ u8 4 ++ slice e.bytes 11 5), late := 0 }

/-- Member streams of a group, rising. -/
def members (s : State) (g : Nat) : List Nat := (s.sensors.streams.filter (fun e => e.2.inGroup g)).map (·.1)

/-- The bytes of a fused-state record (Table 12.6). -/
def fusedBytes (r : FuseOpen) (now : Nat) : List Byte :=
  let valid := (List.range r.entries.length).foldl (fun m i =>
    if bitAt (fieldAt ((r.entries.getD i ⟨[], 0, 0⟩).bytes) 10 1) 0 then m + 2 ^ i else m) 0
  let inc := (r.entries.filter (fun e => bitAt (fieldAt e.bytes 10 1) 2)).length
  let late := r.entries.foldl (fun n e => n + e.late) 0
  leBytes 4 r.seq ++ leBytes 4 r.epoch ++ leBytes 8 r.t ++ leBytes 16 valid ++ leBytes 2 r.entries.length ++ leBytes 2 late
    ++ leBytes 2 inc ++ [0, 0] ++ leBytes 8 now ++ List.replicate 16 0 ++ r.entries.flatMap (·.bytes)

/-- Count an instant without a record (R357). -/
def skipInstant (g : Nat) (s : State) : State := finc s (Reg.SNS_GROUP_CNT_VALUE g 2)

/-- Release the record a group is building: every byte visible, SEQ last (R355). -/
def releaseRecord (g : Nat) (s : State) : State :=
  let x := group s g
  match x.open_ with
  | none => s
  | some r =>
    let s := setGroup s g { x with open_ := none }
    if ctxActive s (x.field 2 1) = false then skipInstant g s
    else
      let a := x.field 8 8 + r.seq % max (x.field 5 1) 1 * x.field 16 4
      let s := vaPut s (x.field 2 1) a (fusedBytes r s.time)
      let s := fset s (Reg.SNS_GROUP_CNT_VALUE g 0) r.seq
      let s := fset s (Reg.SNS_GROUP_CNT_VALUE g 1) (max (fget s (Reg.SNS_GROUP_CNT_VALUE g 1)) (min (s.time - near s r.t) 0xFFFFFFFF))
      let inc := (r.entries.filter (fun e => bitAt (fieldAt e.bytes 10 1) 2)).length
      if inc = 0 then s
      else raise (finc s (Reg.SNS_GROUP_STATUS_INCOMPLETE g)) 0x6006 cloverIsland (u16 g ++ u32 inc)

/-- FUSE_RECORD_RELEASE (R355): every entry is built. -/
def execFuseRecordRelease (g : Nat) (s : State) : Out :=
  whenAlive s (fun s => if g < 8 ∧ phaseUp s 5 = true then .next (releaseRecord g s) else .next s)

/-- Entries that are certainly built within `ns`: their greatest costs add up to no more. -/
def surelyBuilt (ns : Nat) : List FuseEntry → Nat
  | [] => 0
  | e :: rest => if e.cost ≤ ns then surelyBuilt (ns - e.cost) rest + 1 else 0

/-- FUSE_RELEASE_DEADLINE (R356): entries that remain are INCOMPLETE. How many of those not certainly built remain is a free
value, at least one. -/
def execFuseReleaseDeadline (g : Nat) (s : State) : Out :=
  whenAlive s (fun s =>
    let x := group s g
    match x.open_ with
    | none => .next s
    | some r =>
      let sure := surelyBuilt (x.release - 1000) r.entries
      if 8 ≤ g ∨ reached s (r.t + (x.release - 1000)) = false ∨ r.entries.length ≤ sure then .next s
      else
        let (f, s) := takeFree s
        let built := sure + (Config.freeWord f).toNat % (r.entries.length - sure)
        let es := r.entries.take built ++ (r.entries.drop built).map incompleteEntry
        .next (releaseRecord g (setGroup s g { x with open_ := some { r with entries := es } })))

/-- Report the late samples of a group since its last instant (R349): once per stream and missed instant. A stream's samples come
with rising t (R346), so that an instant at or before the latest one reported has been reported. -/
def reportMissed (g : Nat) (s : State) : State :=
  let x := group s g
  let new := (sortBy (·.1) x.missed).filter (fun e => decide (storeGet (fun _ => 0) x.told e.1 < e.2.1))
  forEach new (fun (k, t, n) s => raise s 0x6001 senseIsland (u16 k ++ u64 t ++ u32 n))
    (setGroup s g { x with missed := [], told := new.foldl (fun m e => storeSet (fun _ => 0) m e.1 e.2.1) x.told })

/-- A group takes the descriptor kept back until its trigger fired (R363). -/
def takeGroupNext (g : Nat) (s : State) : State :=
  let x := group s g
  match x.next with
  | none => s
  | some d => setGroup s g { Group.init with desc := d }

/-- The fusion instant `t` of group `g` (R347, R351): the gate closes and every entry is built from what staging holds. `b` is the
instant beside TIME against which sample times are weighed (R319). -/
def fuseInstant (t g : Nat) (s : State) : State :=
  let trig := (group s g).trig
  let s := takeGroupNext g (releaseRecord g s)
  let x := group s g
  if x.en = false ∨ x.trig ≠ trig ∨ phaseUp s 5 = false then s
  else
    let b := near s t
    let s := reportMissed g s
    let seq := (x.seq + 1) % 2 ^ 32
    let ms := members s g
    let s := forEach ms (dropAged b) s
    let (es, s) := ms.foldl (fun (p : List FuseEntry × State) k =>
      let (e, s) := buildEntry g b k p.2
      (p.1 ++ [e], s)) ([], s)
    let y := group s g
    let r : FuseOpen := ⟨t, seq, fget s Reg.SNS_CAL_EPOCH_EPOCH, es⟩
    let on := ctxActive s (x.field 2 1)
    let s := setGroup s g { y with seq := seq, lastT := b, firstT := if x.seq = 0 then b else y.firstT,
                                   open_ := if on then some r else none }
    if on then s else skipInstant g s

/-! ### Calibration (R360 to R363) -/

/-- The calibration epoch rises by one (R362). -/
def raiseEpoch (s : State) : State := fset s Reg.SNS_CAL_EPOCH_EPOCH ((fget s Reg.SNS_CAL_EPOCH_EPOCH + 1) % 2 ^ 32)

/-- A quaternion of norm within 10^-3 of one. -/
def unitQuat (q : List Word) : Bool :=
  let n := q.foldl (fun a w => a.add ((val32 w).mul (val32 w))) Num.zero
  let m := Num.ofInt 1000000
  q.all finite32 && (Num.ofInt 998001).le (n.mul m) && (n.mul m).le (Num.ofInt 1002001)

/-- Whether a slot record keeps Table 12.8; an all-zero record is an unused slot. -/
def slotOk (r : List Byte) : Bool :=
  unitQuat (bytesToWords 4 r) && (bytesToWords 3 (r.drop 16)).all finite32
    && decide (1 ≤ fieldAt r 28 2 ∧ 1 ≤ fieldAt r 30 2 ∧ fieldAt r 30 2 ≤ 1000)
    && flt32 0 (BitVec.ofNat 32 (fieldAt r 36 4)) && fle32 (BitVec.ofNat 32 (fieldAt r 36 4)) one32 && allZero (r.drop 40)

/-- Whether an observation keeps Table 12.12. -/
def observationOk (s : State) (b : List Byte) : Bool :=
  let k := fieldAt b 0 2
  let w := BitVec.ofNat 32 (fieldAt b 4 4)
  decide (k < 128 ∧ fieldAt b 2 2 = 0 ∧ fieldAt b 8 8 < fieldAt b 16 8 ∧ fieldAt b 16 8 ≤ fieldAt b 8 8 + 500000000)
    && (stream s k).used && bitAt ((stream s k).field 3 1) 1 && flt32 0 w && fle32 w one32
    && unitQuat (bytesToWords 4 (b.drop 24)) && allZero (b.drop 40)

/-- 1e-6 as FP32. -/
def micro : Word := rne32 ((Num.ofInt 1).div (Num.ofInt 1000000))

/-- The length of a vector; `op` names the operation whose sum it is. -/
def vNorm (op : Nat) (v : List Word) : Word := fsqrt32 (qSum op 0 (v.map (fun x => fmul32 x x)))

/-- The angle of a rotation, within 0 .. π. -/
def qAngle (q : List Word) : Word := rne32 (((val32 (vNorm 4 (q.drop 1))).arc (val32 (q.headD 0))).scale 1)

/-- The rotation vector of a quaternion, by the shorter way round; zero for no rotation (R361's log). -/
def qLog (q : List Word) : List Word :=
  let v := (q.drop 1).map (fun x => if (val32 (q.headD 0)).sign then fneg32 x else x)
  let n := vNorm 4 v
  if (val32 n).isZero then [0, 0, 0]
  else if Config.quatOrder 4 1 % 2 = 0 then v.map (fun x => fmul32 x (fdiv32 (qAngle q) n))
  else v.map (fun x => fmul32 (fdiv32 x n) (qAngle q))

/-- The rotation matrix of a quaternion, by rows. -/
def qMatrix (q : List Word) : List Word :=
  let m (x y : Nat) : Word := fmul32 0x40000000 (fmul32 (q.getD x 0) (q.getD y 0))
  let d (i x y : Nat) : Word := qSum 5 i [one32, fneg32 (m x x), fneg32 (m y y)]
  [d 0 2 3, fsub32 (m 1 2) (m 0 3), fadd32 (m 1 3) (m 0 2),
   fadd32 (m 1 2) (m 0 3), d 4 1 3, fsub32 (m 2 3) (m 0 1),
   fsub32 (m 1 3) (m 0 2), fadd32 (m 2 3) (m 0 1), d 8 1 2]

/-- Element of a 3 × 3 matrix. -/
def mAt (m : List Word) (i j : Nat) : Word := m.getD (3 * i + j) 0

/-- J = I − Cᵀ of R361. -/
def calibJ (c : List Word) : List Word := comps 9 (fun k => fsub32 (if k % 4 = 0 then one32 else 0) (mAt c (k % 3) (k / 3)))

/-- Component of a after an observation: a + w Jᵀ J. -/
def calibA (a j : List Word) (w : Word) : List Word :=
  comps 9 (fun k => fadd32 (a.getD k 0) (fmul32 w (qSum 6 k (comps 3 (fun l => fmul32 (mAt j l (k / 3)) (mAt j l (k % 3)))))))

/-- Component of b after an observation: b + w Jᵀ res. -/
def calibB (b j res : List Word) (w : Word) : List Word :=
  comps 3 (fun k => fadd32 (b.getD k 0) (fmul32 w (qSum 7 k (comps 3 (fun l => fmul32 (mAt j l k) (res.getD l 0))))))

/-- The determinant of a 3 × 3 matrix, exact. -/
def det3 (m : Nat → Nat → Num) : Num :=
  let minor (x y : Nat) : Num := ((m 1 x).mul (m 2 y)).sub ((m 1 y).mul (m 2 x))
  (((m 0 0).mul (minor 1 2)).sub ((m 0 1).mul (minor 0 2))).add ((m 0 2).mul (minor 0 1))

/-- The solution of m x = b, each component rounded once. -/
def solve3 (m b : List Word) : List Word :=
  let at_ (i j : Nat) : Num := val32 (mAt m i j)
  comps 3 (fun k => rne32 ((det3 (fun i j => if j = k then val32 (b.getD i 0) else at_ i j)).div (det3 at_)))

/-- delta of R361: gain × solve(a + 1e-6 I, b), no longer than STEP_URAD. -/
def calibDelta (a b : List Word) (gain : Word) (stepUrad : Nat) : List Word :=
  let m := comps 9 (fun k => if k % 4 = 0 then fadd32 (a.getD k 0) micro else a.getD k 0)
  let d := vScale (solve3 m b) gain
  let k := fdiv32 (fmul32 (ofInt32 stepUrad) micro) (vNorm 8 d)
  vScale d (if flt32 k one32 then k else one32)

/-- Apply the update of a slot once MIN_OBS observations have come (R361). -/
def refineSlot (j : Nat) (s : State) : State :=
  let x := extr s j
  if x.n < fieldAt x.factory 30 2 then s
  else
    let delta := calibDelta x.a x.b (BitVec.ofNat 32 (fieldAt x.factory 36 4)) (fieldAt x.factory 28 2)
    let rot := qMul x.q (qExp delta)
    let clear := { x with a := List.replicate 9 0, b := List.replicate 3 0, n := 0 }
    if flt32 (fmul32 (ofInt32 (fieldAt x.factory 32 4)) micro) (qAngle (qMul (qConj rot) (bytesToWords 4 x.factory)))
    then raise (setExtr s j clear) 0x6004 cloverIsland (u16 j)
    else
      let s := raiseEpoch (setExtr s j { clear with pose := wordsToBytes rot ++ x.pose.drop 16 })
      raise s 0x6002 cloverIsland (u16 j ++ leBytes 4 (fget s Reg.SNS_CAL_EPOCH_EPOCH) ++ u32 ((val32 (vNorm 8 delta)).mul (Num.ofInt 1000000)).whole)

/-- Feed one observation (R361); it is skipped without a REF_IMU or when staging no longer holds its interval. -/
def feedOne (b : List Byte) (p : Nat × State) : Nat × State :=
  let s := p.2
  let x := stream s (fieldAt b 0 2)
  let ta : Int := fieldAt b 8 8
  let tb : Int := fieldAt b 16 8
  match (streamGroups s x).find? (fun g => decide ((group s g).field 4 1 ≠ 0xFF)) with
  | none => p
  | some g =>
    let imu := stream s ((group s g).field 4 1)
    let pool (y : Stream) : List StreamRec :=
      (sortBy (fun r => (r.t + 2 ^ 63).toNat) (y.samples.filter (fun r => !r.order && decide (r.t ≤ tb)))).reverse
    if imu.samples.all (fun r => decide (ta < r.t)) then p
    else
      let (body, s) := bodyTurn s g ta tb pool
      let j := x.field 5 1
      let e := extr s j
      let cam := bytesToWords 4 (b.drop 24)
      let w := BitVec.ofNat 32 (fieldAt b 4 4)
      let c := qMul (qMul (qConj e.q) body) e.q
      let jac := calibJ (qMatrix c)
      let e := { e with a := calibA e.a jac w, b := calibB e.b jac (qLog (qMul (qConj c) cam)) w, n := e.n + 1 }
      (p.1 + 1, refineSlot j (setExtr s j e))

/-! ### Set changes (R363) -/

/-- A stream takes a descriptor at SET_COMMIT or bring-up; in RUN it keeps the old one until it is stopped. -/
def loadStream (k : Nat) (d : List Byte) (s : State) : State :=
  let x := stream s k
  if d = x.desc then setStream s k { x with next := none }
  else if streamRun s k then raise (setStream s k { x with next := some d }) 0x6008 cloverIsland (u16 k)
  else setStream s k { Stream.init with desc := d }

/-- A group takes a descriptor; a running group keeps the old one until its trigger next fires. -/
def loadGroup (g : Nat) (d : List Byte) (s : State) : State :=
  let x := group s g
  if d = x.desc then setGroup s g { x with next := none }
  else if groupRuns s g then raise (setGroup s g { x with next := some d }) 0x6008 cloverIsland (u16 g)
  else setGroup s g { Group.init with desc := d }

/-- A slot takes a factory record; a changed one becomes its current value (R360, R362, R363). -/
def loadSlot (j : Nat) (r : List Byte) (s : State) : State :=
  let x := extr s j
  if r = x.factory then s
  else raiseEpoch (setExtr s j { Slot.init with factory := r, pose := r.take 28 })

/-! ### Sensor commands (R364, R365) -/

/-- Indexes below LENGTH. -/
def cmdIndexes (c : QCmd) : List Nat := List.range c.length

/-- The parameters of Table 12.10: reserved bytes, VA. -/
def sensorParams (q : Nat) (c : QCmd) (va : Bool) : Bool :=
  c.reservedZero (if va then [(16, 2), (24, 8)] else [(16, 2)]) && (!va || opAligned q (c.field 24 8) 64)

/-- Enter RUN: SEQ and the estimator restart, trust is set. -/
def startStream (k : Nat) (s : State) : State :=
  if streamRun s k then s
  else
    let s := setStream s k { Stream.init with desc := (stream s k).desc }
    let s := setReg64 s (Reg.SNS_STREAM_OFFSET k) 0
    fsetb (fsetb s (Reg.SNS_STREAM_STATE_RUN k) true) (Reg.SNS_STREAM_STATE_TRUSTED k) true

/-- Leave RUN and take a descriptor that was kept back. -/
def stopStream (k : Nat) (s : State) : State :=
  let x := stream s k
  let s := fsetb s (Reg.SNS_STREAM_STATE_RUN k) false
  let s := modSensors s (fun y => { y with arrivals := y.arrivals.filter (fun e => decide (e.1 ≠ k)) })
  match x.next with
  | none => s
  | some d => setStream s k { Stream.init with desc := d }

/-- The checks of a command that names streams, then its effect on each. -/
def streamsEngine (q : Nat) (f : Nat → State → State) (c : QCmd) (s : State) : Verdict :=
  let first := c.field 16 2
  if sensorParams q c false = false then invalid s
  else if 128 < first + c.length then invalid s (128 - first)
  else match (cmdIndexes c).find? (fun i => !(stream s (first + i)).used) with
    | some i => invalid s i
    | none => okay (forEach (cmdIndexes c) (fun i s => f (first + i) s) s)

/-- STREAM_START (0x0500). -/
def execStreamStart (q n : Nat) (s : State) : Out := runEngine 0x0500 q n (streamsEngine q startStream) s

/-- STREAM_STOP (0x0501). -/
def execStreamStop (q n : Nat) (s : State) : Out := runEngine 0x0501 q n (streamsEngine q stopStream) s

/-- The engine of SAMPLE_READ. -/
def sampleReadEngine (q : Nat) (c : QCmd) (s : State) : Verdict :=
  let k := c.field 16 2
  let x := stream s k
  if sensorParams q c true = false ∨ 128 ≤ k ∨ x.used = false then invalid s
  else if x.slots < c.length then invalid s x.slots
  else
    let ps := (cmdIndexes c).map (fun i => (x.slotAddr (x.seq + x.slots + 1 + i - c.length), x.recBytes))
    match readPieces s ps with
    | .error e => failOperand s q c cloverIsland 0 e
    | .ok bs => match opWrite s q (c.field 24 8) bs with
      | .error e => failOperand s q c cloverIsland 0 e
      | .ok s => okay s

/-- SAMPLE_READ (0x0502). -/
def execSampleRead (q n : Nat) (s : State) : Out := runEngine 0x0502 q n (sampleReadEngine q) s

/-- The engine of CALIB_FEED. -/
def calibFeedEngine (q : Nat) (c : QCmd) (s : State) : Verdict :=
  if sensorParams q c true = false ∨ c.field 16 2 ≠ 0 then invalid s
  else match opRead s q (c.field 24 8) (48 * c.length) with
    | .error e => failOperand s q c cloverIsland 0 e
    | .ok bs =>
      let obs := chunks c.length 48 bs
      match obs.findIdx? (fun b => !observationOk s b) with
      | some i => invalid s i
      | none =>
        let (used, s) := obs.foldl (fun p b => feedOne b p) (0, s)
        okay s used

/-- CALIB_FEED (0x0503). -/
def execCalibFeed (q n : Nat) (s : State) : Out := runEngine 0x0503 q n (calibFeedEngine q) s

/-- The engine of CALIB_SET. -/
def calibSetEngine (q : Nat) (c : QCmd) (s : State) : Verdict :=
  let first := c.field 16 2
  if sensorParams q c true = false then invalid s
  else if 32 < first + c.length then invalid s (32 - first)
  else match opRead s q (c.field 24 8) (64 * c.length) with
    | .error e => failOperand s q c cloverIsland 0 e
    | .ok bs =>
      let recs := chunks c.length 64 bs
      match recs.findIdx? (fun r => !slotOk r) with
      | some i => invalid s i
      | none =>
        okay (raiseEpoch (forEach ((cmdIndexes c).zip recs) (fun (i, r) s =>
          setExtr s (first + i) { extr s (first + i) with pose := r.take 28 }) s))

/-- CALIB_SET (0x0504). -/
def execCalibSet (q n : Nat) (s : State) : Out := runEngine 0x0504 q n (calibSetEngine q) s

/-- The engine of CALIB_READ. -/
def calibReadEngine (q : Nat) (c : QCmd) (s : State) : Verdict :=
  let first := c.field 16 2
  if sensorParams q c true = false then invalid s
  else if 32 < first + c.length then invalid s (32 - first)
  else
    let bs := leBytes 4 (fget s Reg.SNS_CAL_EPOCH_EPOCH) ++ List.replicate 12 0
      ++ (cmdIndexes c).flatMap (fun i => (extr s (first + i)).record)
    match opWrite s q (c.field 24 8) bs with
    | .error e => failOperand s q c cloverIsland 0 e
    | .ok s => okay s

/-- CALIB_READ (0x0505). -/
def execCalibRead (q n : Nat) (s : State) : Out := runEngine 0x0505 q n (calibReadEngine q) s

/-! ### Set checks (R342, R347, R354) -/

/-- Ports and sub-units of Table 12.1 by SOURCE. -/
def sourceOk (x : Stream) : Bool :=
  let port := x.field 1 1
  let sub := x.field 2 1
  match x.field 0 1 with
  | 1 => decide (port ≤ 11 ∧ sub ≤ 3)
  | 2 => decide (port ≤ 7)
  | 3 => decide (port ≤ 3 ∧ sub ≤ 15)
  | 4 => decide (port ≤ 1 ∧ sub = 0)
  | 5 => decide (port ≤ 7 ∧ sub ≤ 15)
  | _ => false

/-- Whether a number is a power of two in 2..4096. -/
def slotCount (n : Nat) : Bool := [2, 4, 8, 16, 32, 64, 128, 256, 512, 1024, 2048, 4096].contains n

/-- Whether every page of a virtual range that a context's tables map has an allowed home (R342, R347). Pages without a mapping are
judged by the range's size alone (log entry 72). -/
def homesOk (s : State) (ok : Nat → Bool) (c va n : Nat) : Bool :=
  (List.range (ceilDiv (va % 0x1000 + n) 0x1000)).all fun k =>
    match walk s c (va / 0x1000 * 0x1000 + 0x1000 * k) with
    | .error _ => true
    | .ok _ => match translate s c (va / 0x1000 * 0x1000 + 0x1000 * k) 0x1000 .write with
      | .error _ => false
      | .ok pa => ok pa

/-- Whether a used descriptor keeps Table 12.2. `lpBytes` is the LPDDR5X share of a context in bytes, as the plan gives it. -/
def streamOk (s : State) (lpBytes : Nat → Nat) (x : Stream) : Bool :=
  let f := x.field
  let stamp := x.selfStamp
  !x.used || (sourceOk x && decide (f 3 1 < 16 ∧ f 4 1 ≤ 3 ∧ (f 5 1 ≤ 31 ∨ f 5 1 = 0xFF))
    && decide (if stamp = true then 16 ≤ f 7 1 ∧ f 7 1 ≤ 64 ∧ f 32 2 + ceilDiv (f 7 1) 8 ≤ x.elem else f 7 1 = 0)
    && decide (if x.camera = true then x.elem = 16 else 4 ≤ x.elem ∧ x.elem ≤ 1024 ∧ x.elem % 4 = 0)
    && slotCount x.slots && decide (f 12 4 % 64 = 0 ∧ f 12 4 + x.slots * x.recBytes ≤ 0xFF0000 ∧ f 20 4 ≤ 1000000)
    && decide (f 0 1 = 4 ∨ f 34 2 = 0) && decide (f 4 1 ≠ 3 ∨ f 0 1 = 2) && decide (f 45 3 = 0 ∧ f 62 2 = 0)
    && decide (bitAt (f 3 1) 1 = false ∨ (x.camera = true ∧ f 5 1 ≠ 0xFF))
    && decide (x.camera = false ∨ (f 44 1 < 64 ∧ f 48 8 % 0x1000 = 0 ∧ f 56 4 % 0x1000 = 0 ∧ 0 < f 56 4 ∧ 2 ≤ f 60 2
      ∧ f 60 2 ≤ 64 ∧ f 48 8 + f 56 4 * f 60 2 ≤ 2 ^ 48 ∧ f 56 4 * f 60 2 ≤ lpBytes (f 44 1)))
    && (!x.camera || homesOk s isLp (f 44 1) (f 48 8) (f 56 4 * f 60 2)))

/-- Whether two used streams' staging rings are apart. -/
def ringsApart (x y : Stream) : Bool :=
  !x.used || !y.used || decide (x.field 12 4 + x.slots * x.recBytes ≤ y.field 12 4
    ∨ y.field 12 4 + y.slots * y.recBytes ≤ x.field 12 4)

/-- Size of a group's record with the given streams (R354). -/
def recordSize (streams : List Stream) (g : Nat) : Nat :=
  64 + ((streams.filter (fun x => x.inGroup g)).map entryBytes).foldl (· + ·) 0

/-- Whether group `g` keeps Table 12.4: its trigger is armed and periodic in the same set. `shareBytes` is the larger of a context's
shares of LPDDR5X and tile SRAM. -/
def fuseGroupOk (s : State) (armedPeriod : Nat → Option Nat) (shareBytes : Nat → Nat) (streams : List Stream) (g : Nat) (x : Group) : Bool :=
  let f := x.field
  decide (f 0 2 < 64) && decide (f 3 1 < 2) && (!x.en ||
    (match armedPeriod (f 0 2) with
     | none => false
     | some p => decide (p ≠ 0 ∧ 1000 ≤ x.release ∧ x.release + 1000 ≤ p))
    && decide (f 2 1 < 64 ∧ 1 ≤ f 5 1 ∧ f 5 1 ≤ 16 ∧ f 6 2 = 0 ∧ f 24 8 = 0 ∧ f 8 8 % 64 = 0
      ∧ f 8 8 + f 5 1 * f 16 4 ≤ 2 ^ 48 ∧ f 5 1 * f 16 4 ≤ shareBytes (f 2 1) ∧ f 16 4 = recordSize streams g)
    && homesOk s (fun pa => isLp pa || isTileSram pa) (f 2 1) (f 8 8) (f 5 1 * f 16 4)
    && (decide (f 4 1 = 0xFF) || (match streams[f 4 1]? with
      | none => false
      | some y => y.used && decide (y.resample = 3))))

end Sys2Proof.Machine
end

