-- ==== Sys2Proof/Machine/Vetch.lean ====
section
/-! DEFINITION. Vetch (R367 to R392): the space-time map and its epochs, the primitive library, the search, path checks and the
planner commands. The block layout is not defined, so maps are kept as contents and blocks are counted. -/

namespace Sys2Proof.Machine

/-- Vetch's island. -/
def vetchIsland : Nat := 64

/-- Change Vetch. -/
def modVetch (s : State) (f : Vetch → Vetch) : State := { s with vetch := f s.vetch }

/-- OWNER. -/
def planOwner (s : State) : Nat := fget s Reg.PLN_CFG_OWNER

/-- Raise a planner event, which names OWNER. -/
def planEvent (s : State) (code : Nat) (data : List Byte) : State := raiseCtx s code vetchIsland (planOwner s) data

/-! ### The map (R367 to R371) -/

/-- Number of the brick that holds a voxel. -/
def brickOf (x y z : Nat) : Nat := x / 4 + 128 * (y / 4) + 16384 * (z / 4)

/-- Position of a voxel within its brick. -/
def voxelOf (x y z : Nat) : Nat := x % 4 + 4 * (y % 4) + 16 * (z % 4)

/-- Key of the level-`l` node above a brick. -/
def nodeKey (l b : Nat) : Nat :=
  let d := 2 ^ (7 - l)
  l * 2 ^ 24 + b % 128 / d + 128 * (b / 128 % 128 / d) + 16384 * (b / 16384 / d)

/-- A brick whose voxels are all UNKNOWN and carry no prediction. -/
def Brick.empty (b : Brick) : Bool := decide (b.static = 0 ∧ b.pred = 0)

/-- The brick at a position. -/
def brickAt (m : VMap) (b : Nat) : Brick := storeGet (fun _ => Brick.init) m.bricks b

/-- Write a brick in the map's epoch; its ancestors are written with it, and an empty subtree takes no block (R370, R371). -/
def setBrick (m : VMap) (b : Nat) (x : Brick) : VMap :=
  let x := if x.empty then Brick.init else { x with epoch := m.epoch }
  if x = Brick.init ∧ brickAt m b = Brick.init then m
  else
    let bricks := storeSet (fun _ => Brick.init) m.bricks b x
    let nodes := (List.range 7).foldl (fun ns l =>
      let k := nodeKey l b
      let live := bricks.any (fun e => decide (nodeKey l e.1 = k))
      storeSet (fun _ => 0) ns k (if live then m.epoch + 1 else 0)) m.nodes
    { m with bricks := bricks, nodes := nodes }

/-- The blocks a map reaches: (key, epoch that wrote it); brick keys lie above node keys. -/
def mapBlocks (m : VMap) : List (Nat × Nat) :=
  m.nodes.map (fun e => (e.1, e.2 - 1)) ++ m.bricks.map (fun e => (7 * 2 ^ 24 + e.1, e.2.epoch))

/-- The blocks in use: reachable from the published, the open or a pinned epoch (R373). -/
def blocksUsed (v : Vetch) : List (Nat × Nat) :=
  ((v.pins.map (fun p => p.2.2)).foldl (fun l m => l ++ mapBlocks m) (mapBlocks v.pub ++ mapBlocks v.opn)).eraseDups

/-- Blocks of the pool (R370): 4,096 per 2 MiB unit. -/
def poolBlocks (s : State) : Nat := fget s Reg.PLN_MAP_REG_SIZE * 4096

/-- PLN_MAP_FREE. -/
def mapFree (s : State) : Nat := poolBlocks s - (blocksUsed s.vetch).length

/-- Static state of a voxel; outside the cube UNKNOWN (R368). -/
def voxelStatic (m : VMap) (x y z : Int) : Nat :=
  if 0 ≤ x ∧ x < 512 ∧ 0 ≤ y ∧ y < 512 ∧ 0 ≤ z ∧ z < 512
  then bits (brickAt m (brickOf x.toNat y.toNat z.toNat)).static
    (2 * voxelOf x.toNat y.toNat z.toNat + 1) (2 * voxelOf x.toNat y.toNat z.toNat)
  else 0

/-- Predicted bits of a voxel. -/
def voxelPred (m : VMap) (x y z : Int) : Nat :=
  if 0 ≤ x ∧ x < 512 ∧ 0 ≤ y ∧ y < 512 ∧ 0 ≤ z ∧ z < 512
  then (brickAt m (brickOf x.toNat y.toNat z.toNat)).pred / 2 ^ (32 * voxelOf x.toNat y.toNat z.toNat) % 2 ^ 32
  else 0

/-- The slice of a module time (R369). -/
def sliceOf (m : VMap) (t : Nat) : Nat :=
  let d := s32diff (t % 2 ^ 32) (m.sb % 2 ^ 32)
  if d < 0 then 0 else min 31 (d.toNat / (max m.pitch 1 * 1000000))

/-- The slices an interval touches. -/
def slicesOf (m : VMap) (lo hi : Nat) : List Nat :=
  let a := sliceOf m lo
  let b := sliceOf m hi
  (List.range 32).filter (fun k => if a ≤ b then decide (a ≤ k ∧ k ≤ b) else decide (a ≤ k ∨ k ≤ b))

/-! ### MAP_UPDATE and MAP_PUBLISH (R371 to R376) -/

/-- Whether an update entry keeps Tables 13.1 and 13.2. -/
def updateOk (e : List Byte) : Bool :=
  let op := fieldAt e 6 1
  let arg := fieldAt e 7 1
  let inside := decide (fieldAt e 0 2 ≤ 511 ∧ fieldAt e 2 2 ≤ 511 ∧ fieldAt e 4 2 ≤ 511)
  if op = 7 then
    decide (arg = 0) && [0, 2, 4].all (fun o => decide ((sint 16 (fieldAt e o 2)).natAbs ≤ 127))
  else if 1 ≤ op ∧ op ≤ 3 then inside && decide (arg = 0)
  else if op = 4 then inside && decide (arg ≤ 31)
  else if op = 5 then inside && decide (arg ≤ 31 ∨ arg = 0xFF)
  else if op = 6 then inside && decide (arg ≤ 2)
  else false

/-- 64 voxels of one static state. -/
def brickFill (st : Nat) : Nat := (List.range 64).foldl (fun w i => w + st * 4 ^ i) 0

/-- SHIFT (R376): ORIGIN moves, every brick moves by minus the shift, bricks that leave the cube are dropped. -/
def shiftMap (dx dy dz : Int) (m : VMap) : VMap :=
  let origin := [dx, dy, dz].zipWith (fun d o => sint 32 (wrapInt 32 (o + d))) m.origin
  let empty : VMap := { m with bricks := [], nodes := [], origin := origin }
  m.bricks.foldl (fun n e =>
    let x : Int := (e.1 % 128 : Nat) - dx
    let y : Int := (e.1 / 128 % 128 : Nat) - dy
    let z : Int := (e.1 / 16384 : Nat) - dz
    if 0 ≤ x ∧ x < 128 ∧ 0 ≤ y ∧ y < 128 ∧ 0 ≤ z ∧ z < 128
    then setBrick n (x.toNat + 128 * y.toNat + 16384 * z.toNat) e.2 else n) empty

/-- Apply one update entry to the open map (R374). -/
def applyUpdate (m : VMap) (e : List Byte) : VMap :=
  let x := fieldAt e 0 2
  let y := fieldAt e 2 2
  let z := fieldAt e 4 2
  let op := fieldAt e 6 1
  let arg := fieldAt e 7 1
  if op = 7 then shiftMap (sint 16 x) (sint 16 y) (sint 16 z) m
  else
    let b := brickOf x y z
    let v := voxelOf x y z
    let k := brickAt m b
    let code := if op = 1 then 1 else if op = 2 then 2 else 0
    setBrick m b
      (if op = 6 then { k with static := brickFill arg }
       else if op = 4 then { k with pred := setBit k.pred (32 * v + arg) true }
       else if op = 5 then
         (if arg = 0xFF then { k with pred := setBits k.pred (32 * v + 31) (32 * v) 0 }
          else { k with pred := setBit k.pred (32 * v + arg) false })
       else { k with static := setBits k.static (2 * v + 1) (2 * v) code })

/-- Whether a planner command takes effect (R388): EN, and CONTEXT names OWNER. -/
def planAllowed (s : State) (q : Nat) (c : QCmd) : Bool :=
  fbit s Reg.PLN_CFG_EN && decide (cmdCtx s q c = planOwner s)

/-- Whether the map region holds an uncorrectable unit and a reader meets it; which block a unit holds is not defined, so the
meeting is a free value. -/
def mapUnread (s : State) : Option (Nat × State) :=
  let b := fget s Reg.PLN_MAP_REG_BASE * 0x200000
  match badUnit s b (fget s Reg.PLN_MAP_REG_SIZE * 0x200000) with
  | none => none
  | some u =>
    let (f, s) := takeFree s
    if (Config.freeWord f).toNat % 2 = 1 then some (u, s) else none

/-- Release a query's pin. -/
def unpin (s : State) (q n : Nat) : State :=
  modVetch s (fun v => { v with pins := v.pins.filter (fun p => !decide (p.1 = q ∧ p.2.1 = n)) })

/-- Run a planner engine's body: OWNER, then the map's readability (R388). -/
def planGate (q : Nat) (c : QCmd) (readsMap : Bool) (s : State) (k : Verdict) : Verdict :=
  if planAllowed s q c = false then refuse (unpin s q c.n)
  else if readsMap then
    match mapUnread s with
    | some (u, s) => failAccess (unpin s q c.n) q c vetchIsland 0 (.uncorr u)
    | none => k
  else k

/-- A planner address: bits 63:48 zero, aligned. -/
def planAddr (va al : Nat) : Bool := decide (va < 2 ^ 48 ∧ va % al = 0)

/-- The engine of MAP_UPDATE. -/
def mapUpdateEngine (q : Nat) (c : QCmd) (s : State) : Verdict :=
  planGate q c true s (
    if c.reservedZero [(16, 8)] = false ∨ planAddr (c.field 16 8) 64 = false then invalid s
    else match opRead s q (c.field 16 8) (8 * c.length) with
      | .error e => failElement q c vetchIsland (unreadElement s q (c.field 16 8) 8) id e s
      | .ok bs =>
        let es := chunks c.length 8 bs
        match es.findIdx? (fun e => !updateOk e) with
        | some i => invalid s i
        | none =>
          let m := es.foldl applyUpdate s.vetch.opn
          let used := blocksUsed s.vetch
          let need := ((mapBlocks m).filter (fun b => !used.contains b)).length
          let free := poolBlocks s - used.length
          if free < need then
            noResource (planEvent s 0x7001 (u32 need ++ u32 free))
          else okay (modVetch s (fun v => { v with opn := m })))

/-- MAP_UPDATE (0x0400). -/
def execMapUpdate (q n : Nat) (s : State) : Out := runEngine 0x0400 q n (mapUpdateEngine q) s

/-- Make the open epoch the published one (R372, R375). -/
def publishMap (sb : Nat) (s : State) : State :=
  let v := s.vetch
  let m := { v.opn with sb := sb, pitch := v.nextPitch }
  let s := modVetch s (fun v => { v with pub := m, opn := { m with epoch := wrap32 (m.epoch + 1) } })
  let s := setReg64 (fset s Reg.PLN_MAP_EPOCH_PUBLISHED m.epoch) Reg.PLN_SLICE_BASE sb
  forRange 3 (fun k s => fset s (Reg.PLN_ORIGIN_ORIGIN k) (wrapInt 32 (m.origin.getD k 0))) s

/-- The engine of MAP_PUBLISH. -/
def mapPublishEngine (q : Nat) (c : QCmd) (s : State) : Verdict :=
  planGate q c false s (
    if c.reservedZero [(40, 9)] = false ∨ 1 < c.length ∨ 1 < c.field 48 1 then invalid s
    else okay (publishMap (if c.field 48 1 = 1 then s.vetch.pub.sb else c.field 40 8) s))

/-- MAP_PUBLISH (0x0401). -/
def execMapPublish (q n : Nat) (s : State) : Out := runEngine 0x0401 q n (mapPublishEngine q) s

/-! ### The library (R377, R378) -/

/-- LOCAL address of the work region. -/
def workBase (s : State) : Nat := fget s Reg.PLN_WORK_REG_BASE * 0x200000

/-- Read bytes of the bound library; an uncorrectable read answers its address. -/
def libRead (s : State) (off n : Nat) : Except Nat (List Byte) :=
  match badUnit s (workBase s + off) n with
  | some u => .error (max u (workBase s + off))
  | none => .ok (memRead s (workBase s + off) n)

/-- A variant record (Table 13.4). -/
structure Variant where
  number   : Nat
  endHead  : Nat
  endPost  : Nat
  endVcl   : Nat
  segments : Nat
  dx       : Int
  dy       : Int
  dz       : Int
  torque   : Nat
  us       : Nat
  cost     : Nat
  first    : Nat
  count    : Nat
  deriving DecidableEq, Repr

/-- Read a variant record's fields. -/
def variantOf (number : Nat) (b : List Byte) : Variant :=
  let g := fieldAt b
  let d (o : Nat) : Int := sint 16 (g o 2)
  ⟨number, g 3 1, g 4 1, g 5 1, g 6 1, d 8, d 10, d 12, g 14 2, g 16 4, g 20 4, g 24 4, g 28 2⟩

/-- Table 13.3 for a library of `size` bytes. -/
def libHeaderOk (b : List Byte) (size : Nat) : Bool :=
  let g := fieldAt b
  decide (g 0 4 = 0x56504C31 ∧ g 4 2 = 1 ∧ g 6 2 = 0 ∧ 1 ≤ g 8 4 ∧ g 8 4 ≤ 65536 ∧ 1 ≤ g 12 4 ∧ g 12 4 ≤ 16777216
    ∧ g 16 4 % 4 = 0 ∧ g 16 4 + 131072 ≤ size ∧ g 20 4 % 8 = 0 ∧ g 20 4 + 32768 ≤ size
    ∧ g 24 4 % 32 = 0 ∧ g 24 4 + 32 * g 8 4 ≤ size ∧ g 28 4 % 8 = 0 ∧ g 28 4 + 8 * g 12 4 ≤ size)
    && allZero (slice b 32 32)

/-- The variant records of a library's bytes. -/
def libVariants (b : List Byte) : List (List Byte) := chunks (fieldAt b 8 4) 32 (b.drop (fieldAt b 24 4))

/-- Table 13.4. -/
def variantOk (total : Nat) (r : List Byte) : Bool :=
  let v := variantOf 0 r
  decide (fieldAt r 0 1 ≤ 15 ∧ fieldAt r 2 1 ≤ 7 ∧ v.endHead ≤ 15 ∧ v.endVcl ≤ 7 ∧ 1 ≤ v.segments ∧ v.segments ≤ 16
    ∧ fieldAt r 7 1 = 0 ∧ v.dx.natAbs ≤ 511 ∧ v.dy.natAbs ≤ 511 ∧ v.dz.natAbs ≤ 511 ∧ 1 ≤ v.us ∧ v.us ≤ 2000000
    ∧ 1 ≤ v.cost ∧ 1 ≤ v.count ∧ v.count ≤ 4096 ∧ v.first + v.count ≤ total ∧ fieldAt r 30 2 = 0)

/-- Bytes of swept entries of a library from `first`. -/
def libSwept (b : List Byte) (first count : Nat) : List (List Byte) :=
  chunks count 8 (b.drop (fieldAt b 28 4 + 8 * first))

/-- Table 13.5: reserved bytes, and every entry of a variant lies in one of its segments. -/
def sweptOk (b : List Byte) : Bool :=
  (libSwept b 0 (fieldAt b 12 4)).all (fun e => decide (fieldAt e 7 1 = 0))
    && (libVariants b).all (fun r =>
      let v := variantOf 0 r
      (libSwept b v.first v.count).all (fun e => decide (fieldAt e 6 1 < v.segments)))

/-- The index and stand-table rules of R377. -/
def indexOk (b : List Byte) : Bool :=
  let vs := libVariants b
  (List.range 32768).all (fun i =>
    let e := fieldAt b (fieldAt b 16 4 + 4 * i) 4
    let first := e % 2 ^ 16
    let count := e / 2 ^ 16
    decide (count ≤ 256 ∧ (count = 0 ∨ first + count ≤ fieldAt b 8 4))
      && ((vs.drop first).take count).all (fun r =>
        decide (fieldAt r 0 1 = i / 2048 ∧ fieldAt r 1 1 = i / 8 % 256 ∧ fieldAt r 2 1 = i % 8)))
  && (List.range 4096).all (fun i =>
    let o := fieldAt b 20 4 + 8 * i
    decide (fieldAt b o 4 + fieldAt b (o + 4) 2 ≤ fieldAt b 12 4 ∧ fieldAt b (o + 6) 2 = 0)
      && (libSwept b (fieldAt b o 4) (fieldAt b (o + 4) 2)).all (fun e => decide (fieldAt e 6 1 = 0)))

/-- The first check of R378 that a library fails, by its position: the tables 13.3, 13.4, 13.5, then the index rules. -/
def libCheck (b : List Byte) : Option Nat :=
  if libHeaderOk b b.length = false then some 1
  else if (libVariants b).all (variantOk (fieldAt b 12 4)) = false then some 2
  else if sweptOk b = false then some 3
  else if indexOk b = false then some 4
  else none

/-- Bytes of one query engine's part of the work region. -/
def enginePart (s : State) (lib : Nat) : Nat :=
  (fget s Reg.PLN_WORK_REG_SIZE * 0x200000 - ceilDiv lib 0x200000 * 0x200000) / 4

/-- The engine of LIB_LOAD (R378): it waits for running queries. -/
def libLoadEngine (q : Nat) (c : QCmd) (s : State) : Verdict :=
  let size := 0x1000 * c.length
  let busy := (startedCmds s).any (fun e => decide (e.2.opcode = 0x0402 ∨ e.2.opcode = 0x0403))
  planGate q c false s (
    if busy then .wait s
    else if c.reservedZero [(16, 8)] = false ∨ planAddr (c.field 16 8) 0x1000 = false then invalid s
    else match opRead s q (c.field 16 8) size with
      | .error e => failAccess s q c vetchIsland 0 e
      | .ok bs => match libCheck bs with
        | some k => invalid (planEvent s 0x7004 (u8 k))
        | none =>
          if enginePart s size < 0x200000 then noResource s
          else okay (modVetch (fsetb (memWrite s (workBase s) bs) Reg.PLN_STATUS_LIB_BOUND true)
            (fun v => { v with lib := some size })))

/-- LIB_LOAD (0x0404). -/
def execLibLoad (q n : Nat) (s : State) : Out := runEngine 0x0404 q n (libLoadEngine q) s

/-! ### Queries (R379 to R384) -/

/-- A query record's FP32 WEIGHT. -/
def qWeight (r : List Byte) : Word := BitVec.ofNat 32 (fieldAt r 52 4)
/-- HEUR_SCALE. -/
def qScale (r : List Byte) : Word := BitVec.ofNat 32 (fieldAt r 48 4)

/-- R379 for a query record, with the expansions an engine's part holds. -/
def queryOk (r : List Byte) (capacity : Nat) : Bool :=
  let g := fieldAt r
  decide (g 0 2 ≤ 511 ∧ g 2 2 ≤ 511 ∧ g 4 2 ≤ 511 ∧ g 6 1 ≤ 15 ∧ g 8 1 ≤ 7 ∧ g 9 1 ≤ 3 ∧ g 10 1 ≤ 7)
    && (List.range 6).all (fun i => decide (g (24 + 2 * i) 2 ≤ 511))
    && (List.range 3).all (fun i => decide (g (24 + 2 * i) 2 ≤ g (30 + 2 * i) 2))
    && decide (g 36 1 ≤ 7 ∧ g 37 3 = 0 ∧ g 40 4 ≤ 60000 ∧ g 56 4 ≤ capacity ∧ g 60 4 = 0) && allZero (slice r 96 32)
    && finite32 (qWeight r) && fle32 one32 (qWeight r) && finite32 (qScale r) && fle32 0 (qScale r)

/-- A search state (R380); `path` is the reversed list of steps to it, `key` its place in the queue, `push` its push number. -/
structure Node where
  x    : Int
  y    : Int
  z    : Int
  head : Nat
  post : Nat
  vcl  : Nat
  t    : Nat
  g    : Nat
  depth : Nat
  path : List (List Byte)
  key  : Word
  push : Nat
  deriving DecidableEq, Repr

/-- What a search has done so far. `queue` is in pop order; `best` maps cells to costs; `tests` are the deadline tests left, if
the deadline falls within the search. -/
structure Search where
  queue    : List Node
  best     : List (List Int × Nat)
  expanded : Nat
  pushed   : Nat
  dropped  : Nat
  rejected : Nat
  closest  : Option (Word × Node)
  tests    : Option Nat
  unread   : Option Nat
  deriving DecidableEq, Repr

/-- How a search ends. -/
inductive SearchEnd where
  | reached (n : Node)
  | noPath (nodeLimit : Bool)
  | bestEffort
  | unread (a : Nat)
  deriving DecidableEq, Repr

/-- Distance to an interval. -/
def gap (x : Int) (lo hi : Nat) : Nat := if x < lo then ((lo : Int) - x).toNat else if (hi : Int) < x then (x - hi).toNat else 0

/-- dist of R382: rne32 of the distance to the goal box. -/
def queryDist (r : List Byte) (x y z : Int) : Word :=
  let dx := gap x (fieldAt r 24 2) (fieldAt r 30 2)
  let dy := gap y (fieldAt r 26 2) (fieldAt r 32 2)
  let dz := gap z (fieldAt r 28 2) (fieldAt r 34 2)
  let n := dx * dx + dy * dy + dz * dz
  let a := n * 2 ^ 60
  let q := isqrt a
  rne32 (.fin false (2 * q + (if q * q = a then 0 else 1)) (-31))

/-- key of R382. -/
def queryKey (r : List Byte) (g : Nat) (x y z : Int) : Word :=
  rne32 ((Num.ofInt g).add (val32 (fmul32 (qWeight r) (fmul32 (qScale r) (queryDist r x y z)))))

/-- Cell of a state (R382). -/
def cellOf (m : VMap) (n : Node) : List Int := [n.x, n.y, n.z, n.head, n.post, n.vcl, sliceOf m n.t]

/-- best_g of a cell; none is infinite. -/
def bestOf (best : List (List Int × Nat)) (c : List Int) : Option Nat := (best.find? (fun e => decide (e.1 = c))).map (·.2)

/-- Set best_g. -/
def setBest (best : List (List Int × Nat)) (c : List Int) (g : Nat) : List (List Int × Nat) :=
  (c, g) :: best.filter (fun e => decide (e.1 ≠ c))

/-- Whether `a` is popped before `b`: least key, then larger g, then earlier push. -/
def popsFirst (a b : Node) : Bool :=
  if flt32 a.key b.key then true else if flt32 b.key a.key then false
  else if b.g < a.g then true else if a.g < b.g then false else decide (a.push < b.push)

/-- Insert into the queue in pop order. -/
def insertNode (n : Node) : List Node → List Node
  | [] => [n]
  | m :: rest => if popsFirst n m then n :: m :: rest else m :: insertNode n rest

/-- Push a state; a full queue keeps its 65,536 first entries (R383). -/
def pushNode (n : Node) (w : Search) : Search :=
  let q := insertNode { n with push := w.pushed } w.queue
  if 65536 < q.length then { w with queue := q.take 65536, pushed := w.pushed + 1, dropped := w.dropped + 1 }
  else { w with queue := q, pushed := w.pushed + 1 }

/-- Whether a swept entry at a voxel collides in any of the slices (R381). -/
def entryHits (m : VMap) (unknownFree : Bool) (x y z : Int) (slices : List Nat) : Bool :=
  let st := voxelStatic m x y z
  let p := voxelPred m x y z
  decide (st = 2) || (decide (st = 0) && !unknownFree) || slices.any (fun k => bitAt p k)

/-- Whether swept entries collide, `slices` giving the slices of a segment. -/
def sweptHits (m : VMap) (uf : Bool) (x y z : Int) (slices : Nat → List Nat) (es : List (List Byte)) : Bool :=
  es.any (fun e => entryHits m uf (x + sint 16 (fieldAt e 0 2)) (y + sint 16 (fieldAt e 2 2)) (z + sint 16 (fieldAt e 4 2))
    (slices (fieldAt e 6 1)))

/-- The swept entries of the bound library from `first`. -/
def boundSwept (s : State) (first count : Nat) : Except Nat (List (List Byte)) :=
  match libRead s 28 4 with
  | .error a => .error a
  | .ok h => match libRead s (leNat h + 8 * first) (8 * count) with
    | .error a => .error a
    | .ok bs => .ok (chunks count 8 bs)

/-- A variant of the bound library. -/
def boundVariant (s : State) (i : Nat) : Except Nat Variant :=
  match libRead s 24 4 with
  | .error a => .error a
  | .ok h => match libRead s (leNat h + 32 * i) 32 with
    | .error a => .error a
    | .ok b => .ok (variantOf i b)

/-- The variants whose start fields are given: FIRST and COUNT of the index. -/
def boundIndex (s : State) (head post vcl : Nat) : Except Nat (List Nat) :=
  match libRead s 16 4 with
  | .error a => .error a
  | .ok h => match libRead s (leNat h + 4 * ((head * 256 + post) * 8 + vcl)) 4 with
    | .error a => .error a
    | .ok b => .ok ((List.range (leNat b / 2 ^ 16)).map (· + leNat b % 2 ^ 16))

/-- Whether the stand volume of a posture and heading collides at a state and time (R381). -/
def standHits (s : State) (m : VMap) (r : List Byte) : Except Nat Bool :=
  match libRead s 20 4 with
  | .error a => .error a
  | .ok h => match libRead s (leNat h + 8 * (fieldAt r 7 1 * 16 + fieldAt r 6 1)) 8 with
    | .error a => .error a
    | .ok e => match boundSwept s (fieldAt e 0 4) (fieldAt e 4 2) with
      | .error a => .error a
      | .ok es => .ok (sweptHits m (bitAt (fieldAt r 9 1) 0) (fieldAt r 0 2 : Nat) (fieldAt r 2 2 : Nat) (fieldAt r 4 2 : Nat)
          (fun _ => [sliceOf m (fieldAt r 16 8)]) es)

/-- Whether candidate (n, v) passes R380, with depth limit `limit`. -/
def candidate (s : State) (m : VMap) (r : List Byte) (limit : Option Nat) (n : Node) (v : Variant) : Except Nat Bool :=
  let d := v.us * 1000
  let x := n.x + v.dx
  let y := n.y + v.dy
  let z := n.z + v.dz
  let inside (i : Int) : Bool := decide (0 ≤ i ∧ i < 512)
  let shallow := match limit with
    | none => true
    | some l => decide (n.depth < l)
  if (decide (v.endVcl ≤ fieldAt r 10 1 ∧ v.torque ≤ fieldAt r 12 2) && bitAt (fieldAt r 64 32) v.endPost
      && decide ((n.t + d + 2 ^ 64 - fieldAt r 16 8) % 2 ^ 64 ≤ fieldAt r 40 4 * 1000000)
      && inside x && inside y && inside z && shallow) = false then .ok false
  else match boundSwept s v.first v.count with
    | .error a => .error a
    | .ok es => .ok (!sweptHits m (bitAt (fieldAt r 9 1) 0) n.x n.y n.z
        (fun seg => slicesOf m (n.t + seg * d / v.segments) (n.t + (seg + 1) * d / v.segments)) es)

/-- The bytes of a result step (Table 13.9). -/
def stepBytes (r : List Byte) (v : Variant) (n : Node) : List Byte :=
  leBytes 2 v.number ++ leBytes 2 n.x.toNat ++ leBytes 2 n.y.toNat ++ leBytes 2 n.z.toNat ++ u8 n.head ++ u8 n.post ++ u8 n.vcl
    ++ [0] ++ leBytes 4 ((n.t + 2 ^ 64 - fieldAt r 16 8) % 2 ^ 64 / 1000)

/-- The end state of a variant applied to a state. -/
def endNode (r : List Byte) (v : Variant) (n : Node) : Node :=
  let g := satAdd 32 n.g v.cost
  let x := n.x + v.dx
  let y := n.y + v.dy
  let z := n.z + v.dz
  let e : Node := ⟨x, y, z, v.endHead, v.endPost, v.endVcl, (n.t + v.us * 1000) % 2 ^ 64, g, n.depth + 1, [], queryKey r g x y z, 0⟩
  { e with path := stepBytes r v e :: n.path }

/-- Whether a state is in the goal (R382). -/
def inGoal (r : List Byte) (n : Node) : Bool :=
  decide (gap n.x (fieldAt r 24 2) (fieldAt r 30 2) = 0 ∧ gap n.y (fieldAt r 26 2) (fieldAt r 32 2) = 0
    ∧ gap n.z (fieldAt r 28 2) (fieldAt r 34 2) = 0 ∧ n.vcl ≤ fieldAt r 36 1)
    && bitAt (fieldAt r 14 2) n.head && (decide (n.post = fieldAt r 11 1) || bitAt (fieldAt r 9 1) 1)

/-- One deadline test: whether the deadline is reached. -/
def Search.deadline (w : Search) : Bool := decide (w.tests = some 0)
/-- Count a deadline test that passed. -/
def Search.tick (w : Search) : Search := { w with tests := w.tests.map (· - 1) }

/-- Expand a state over its variants; true when the deadline ended it. -/
def expand (s : State) (m : VMap) (r : List Byte) (limit : Nat) (n : Node) : List Nat → Search → Bool × Search
  | [], w => (false, w)
  | i :: rest, w =>
    if w.deadline then (true, w)
    else
      let w := w.tick
      match boundVariant s i with
      | .error a => (true, { w with unread := some a })
      | .ok v => match candidate s m r (some limit) n v with
        | .error a => (true, { w with unread := some a })
        | .ok false => expand s m r limit n rest { w with rejected := w.rejected + 1 }
        | .ok true =>
          let e := endNode r v n
          let c := cellOf m e
          let better := match bestOf w.best c with
            | none => true
            | some g => decide (e.g < g)
          expand s m r limit n rest (if better then pushNode e { w with best := setBest w.best c e.g } else w)

/-- Note an expanded state for the closest-state rule (R384). -/
def noteClosest (r : List Byte) (n : Node) (w : Search) : Search :=
  let d := queryDist r n.x n.y n.z
  match w.closest with
  | none => { w with closest := some (d, n) }
  | some (e, k) => if flt32 d e ∨ (d = e ∧ n.g < k.g) then { w with closest := some (d, n) } else w

/-- The loop of R382 over at most `fuel` pops. -/
def searchLoop (s : State) (m : VMap) (r : List Byte) (limit nodeMax : Nat) : (fuel : Nat) → Search → SearchEnd × Search
  | 0, w => (.noPath false, w)
  | fuel + 1, w =>
    match w.queue with
    | [] => (.noPath false, w)
    | n :: rest =>
      if w.deadline then (.bestEffort, w)
      else
        let w := w.tick
        if w.expanded = nodeMax then (.noPath true, w)
        else
          let w := { w with queue := rest }
          let stale := match bestOf w.best (cellOf m n) with
            | none => false
            | some g => decide (g < n.g)
          if stale then searchLoop s m r limit nodeMax fuel w
          else
            let w := noteClosest r n { w with expanded := w.expanded + 1 }
            if inGoal r n then (.reached n, w)
            else match boundIndex s n.head n.post n.vcl with
              | .error a => (.unread a, w)
              | .ok vs =>
                let (spent, w) := expand s m r limit n vs w
                match w.unread with
                | some a => (.unread a, w)
                | none => if spent then (.bestEffort, w) else searchLoop s m r limit nodeMax fuel w

/-- The start state of a query. -/
def startNode (r : List Byte) : Node :=
  let g := fieldAt r
  let x : Int := (g 0 2 : Nat)
  let y : Int := (g 2 2 : Nat)
  let z : Int := (g 4 2 : Nat)
  ⟨x, y, z, g 6 1, g 7 1, g 8 1, g 16 8, 0, 0, [], queryKey r 0 x y z, 0⟩

/-- The result header (Table 13.8). -/
def resultHeader (r : List Byte) (epoch steps outcome rflags : Nat) (n : Node) (w : Search) : List Byte :=
  let remain := (((val32 (queryDist r n.x n.y n.z)).mul (Num.ofInt 20)).rneInt).toNat
  leBytes 4 epoch ++ leBytes 2 steps ++ u8 outcome ++ u8 rflags ++ leBytes 4 n.g ++ leBytes 4 remain
    ++ leBytes 2 n.x.toNat ++ leBytes 2 n.y.toNat ++ leBytes 2 n.z.toNat ++ u8 n.head ++ u8 n.post ++ u8 n.vcl ++ [0, 0, 0]
    ++ leBytes 4 w.expanded ++ leBytes 8 n.t ++ leBytes 4 w.pushed ++ leBytes 4 w.dropped ++ leBytes 4 w.rejected
    ++ List.replicate 12 0

/-- The map a running query pins (R373). -/
def pinnedMap (s : State) (q n : Nat) : VMap :=
  match s.vetch.pins.find? (fun p => decide (p.1 = q ∧ p.2.1 = n)) with
  | some p => p.2.2
  | none => s.vetch.pub

/-- A query ends: counters, events, the status of R385. `outcome` is OUTCOME of the header. -/
def endQuery (q : Nat) (c : QCmd) (epoch outcome status detail : Nat) (s : State) : Verdict :=
  let s := unpin s q c.n
  let p := s.vetch.pub.epoch
  let s := finc (finc s (Reg.PLN_CNT_COUNT 0)) (Reg.PLN_CNT_COUNT (outcome + 1))
  if 1 < s32diff p epoch then
    .done Status.staleEpoch 0 (planEvent (finc s (Reg.PLN_CNT_COUNT 4)) 0x7003 (leBytes 4 epoch ++ leBytes 4 p))
  else .done status detail s

/-- Deadline tests that pass before the deadline is reached: none is without limit. The command ends in this step, so a
deadline that lies ahead is not reached; one reached before it started passes none; otherwise the number is free. -/
def deadlineTests (s : State) (c : QCmd) (deadline : Nat) : Option Nat × State :=
  if reached s deadline = false then (none, s)
  else if s32diff deadline (c.startedAt % 2 ^ 32) ≤ 0 then (some 0, s)
  else let (f, s) := takeFree s; (some (Config.freeWord f).toNat, s)

/-- Write a query's result: header and steps. -/
def writeResult (q : Nat) (c : QCmd) (va : Nat) (bs : List Byte) (s : State) (k : State → Verdict) : Verdict :=
  match opWrite s q va bs with
  | .error e => failAccess s q c vetchIsland 0 e
  | .ok s => k s

/-- End a query whose search is over: its records, its result and its reply. -/
def endSearch (q : Nat) (c : QCmd) (r : List Byte) (epoch outcome status rflags : Nat) (n : Node) (w : Search) (s : State) : Verdict :=
  let s := if 0 < w.dropped
    then planEvent (fadd s (Reg.PLN_CNT_COUNT 5) w.dropped) 0x7002 (leBytes 4 c.tag) else s
  let steps := if outcome = 1 then [] else n.path.reverse
  let hdr := resultHeader r epoch steps.length outcome (rflags + 2 * b2n (decide (0 < w.dropped))) n w
  let s := if outcome = 2 then planEvent s 0x7005 (u32 w.expanded ++ slice hdr 12 4) else s
  writeResult q c (c.field 24 8) (hdr ++ steps.flatMap id) s (endQuery q c epoch outcome status 0)

/-- PLAN_QUERY on its pinned map with a sound record (R382 to R385). -/
def runQuery (q : Nat) (c : QCmd) (r : List Byte) (s : State) : Verdict :=
  let m := pinnedMap s q c.n
  let start := startNode r
  let idle : Search := ⟨[], [], 0, 0, 0, 0, none, none, none⟩
  match standHits s m r with
  | .error a => failAccess s q c vetchIsland 0 (.uncorr a)
  | .ok true => endSearch q c r m.epoch 1 Status.noPath 1 start idle (planEvent s 0x7006 [])
  | .ok false =>
    if fieldAt r 40 4 = 0 then
      if inGoal r start then endSearch q c r m.epoch 0 Status.ok 0 start idle s
      else endSearch q c r m.epoch 1 Status.noPath 0 start idle s
    else
      let (tests, s) := deadlineTests s c (fieldAt r 44 4)
      let cap := enginePart s (s.vetch.lib.getD 0) / 40
      let nodeMax := if fieldAt r 56 4 = 0 then cap else fieldAt r 56 4
      let w := pushNode start { idle with best := [(cellOf m start, 0)], tests := tests }
      let (e, w) := searchLoop s m r c.length nodeMax (257 * nodeMax + 2) w
      let near := match w.closest with
        | none => start
        | some (_, n) => n
      match e with
      | .reached n => endSearch q c r m.epoch 0 Status.ok 0 n w s
      | .noPath lim => endSearch q c r m.epoch 1 Status.noPath (4 * b2n lim) near w s
      | .bestEffort => endSearch q c r m.epoch 2 Status.bestEffort 0 near w s
      | .unread a => failAccess (unpin s q c.n) q c vetchIsland 0 (.uncorr a)

/-- Checks common to PLAN_QUERY and PLAN_CHECK: parameters, then the query record (R379). -/
def queryChecked (q : Nat) (c : QCmd) (used : List (Nat × Nat)) (result bytes : Nat) (s : State)
    (k : List Byte → State → Verdict) : Verdict :=
  planGate q c true s (
    if c.reservedZero used = false ∨ 4096 < c.length ∨ used.all (fun u => planAddr (c.field u.1 8) 64) = false
    then invalid (unpin s q c.n)
    else match opRead s q (c.field 16 8) 128 with
      | .error e => failAccess (unpin s q c.n) q c vetchIsland 0 e
      | .ok r => match opPieces s q result bytes .write with
        | .error e => failAccess (unpin s q c.n) q c vetchIsland 0 e
        | .ok _ =>
          match s.vetch.lib with
          | none => invalid (unpin s q c.n)
          | some lib => if queryOk r (enginePart s lib / 40) then k r s else invalid (unpin s q c.n))

/-- The engine of PLAN_QUERY. -/
def planQueryEngine (q : Nat) (c : QCmd) (s : State) : Verdict :=
  queryChecked q c [(16, 8), (24, 8)] (c.field 24 8) (64 + 16 * c.length) s (runQuery q c)

/-- PLAN_QUERY (0x0402). -/
def execPlanQuery (q n : Nat) (s : State) : Out := runEngine 0x0402 q n (planQueryEngine q) s

/-- Check the steps of a path from a state (R386): the failing step counted from 1, the last good state. -/
def checkSteps (s : State) (m : VMap) (r : List Byte) : (i : Nat) → List (List Byte) → Node → Except Nat (Option Nat × Node)
  | _, [], n => .ok (none, n)
  | i, e :: rest, n =>
    match boundIndex s n.head n.post n.vcl with
    | .error a => .error a
    | .ok vs =>
      if vs.contains (fieldAt e 0 2) = false then .ok (some i, n)
      else match boundVariant s (fieldAt e 0 2) with
        | .error a => .error a
        | .ok v => match candidate s m r none n v with
          | .error a => .error a
          | .ok false => .ok (some i, n)
          | .ok true =>
            let k := endNode r v n
            if slice (stepBytes r v k) 2 9 = slice e 2 9 then checkSteps s m r (i + 1) rest k else .ok (some i, n)

/-- End a check: its result and its reply. -/
def endCheck (q : Nat) (c : QCmd) (r : List Byte) (epoch outcome status rflags detail : Nat) (n : Node) (w : Search) (s : State) :
    Verdict :=
  writeResult q c (c.field 32 8) (resultHeader r epoch 0 outcome rflags n w) s (endQuery q c epoch outcome status detail)

/-- The engine of PLAN_CHECK. -/
def planCheckEngine (q : Nat) (c : QCmd) (s : State) : Verdict :=
  queryChecked q c [(16, 8), (24, 8), (32, 8)] (c.field 32 8) 64 s (fun r s =>
    match opRead s q (c.field 24 8) (16 * c.length) with
    | .error e => failElement q c vetchIsland (unreadElement s q (c.field 24 8) 16) (· + 1) e (unpin s q c.n)
    | .ok bs =>
      let m := pinnedMap s q c.n
      let es := chunks c.length 16 bs
      let idle : Search := ⟨[], [], 0, 0, 0, 0, none, none, none⟩
      match es.findIdx? (fun e => decide (fieldAt e 11 1 ≠ 0)) with
      | some i => invalid (unpin s q c.n) (i + 1)
      | none => match standHits s m r with
        | .error a => failAccess (unpin s q c.n) q c vetchIsland 0 (.uncorr a)
        | .ok true => endCheck q c r m.epoch 1 Status.noPath 1 0 (startNode r) idle (planEvent s 0x7006 [])
        | .ok false => match checkSteps s m r 1 es (startNode r) with
          | .error a => failAccess (unpin s q c.n) q c vetchIsland 0 (.uncorr a)
          | .ok (none, n) => endCheck q c r m.epoch 0 Status.ok 0 0 n idle s
          | .ok (some i, n) => endCheck q c r m.epoch 1 Status.noPath 0 i n { idle with rejected := 1 } s)

/-- PLAN_CHECK (0x0403). -/
def execPlanCheck (q n : Nat) (s : State) : Out := runEngine 0x0403 q n (planCheckEngine q) s

/-- R389 at a SET_COMMIT that changes OWNER or a region: running queries end, the library and the map are discarded. -/
def vetchReplace (s : State) : State :=
  let s := forEach ((startedCmds s).filter (fun e => decide (e.2.opcode / 0x100 = 4)))
    (fun (q, c) s => completeCmd s q c.n Status.cancelled 0) s
  vetchDiscard 3 s

/-- Whether the PLN registers of a set keep their rules: regions inside OWNER's share, apart, apart from the KV region. -/
def plnRegsOk (cfg map work lpBase lpUnits kvUnits : Nat) : Bool :=
  let mb := bits map 16 0
  let ms := bits map 48 32
  let wb := bits work 16 0
  let ws := bits work 48 32
  let pitch := bits cfg 15 8
  let inside (b n : Nat) : Bool := decide (n = 0 ∨ (lpBase ≤ b ∧ b + n ≤ lpBase + lpUnits - kvUnits))
  decide (20 ≤ pitch ∧ pitch ≤ 200 ∧ ms ≤ 2048 ∧ (bitAt cfg 0 = true → 1 ≤ ms)) && inside mb ms && inside wb ws
    && !rangesMeet mb ms wb ws

end Sys2Proof.Machine
end

