-- ==== Sys2Proof/Machine/Links.lean ====
section
/-! DEFINITION. Pyilarek links (R491 to R515): port states, replays and retrains, the loss of a module (R449, R506, R507),
joining and leaving a job, and the link commands. -/

namespace Sys2Proof.Machine

/-- Island of a Pyilarek port. -/
def linkIsland (p : Nat) : Nat := 71 + p

/-- Change the links. -/
def modLinks (s : State) (f : Links → Links) : State := { s with links := f s.links }

/-- A port's history. -/
def lport (s : State) (p : Nat) : LPort := storeGet (fun _ => LPort.init) s.links.ports p

/-- Replace a port's history. -/
def setLport (s : State) (p : Nat) (x : LPort) : State :=
  modLinks s (fun l => { l with ports := storeSet (fun _ => LPort.init) l.ports p x })

/-- STATE of a port (Table 19.2). -/
def linkState (s : State) (p : Nat) : Nat := fget s (Reg.LINK_PORT_STATE_STATE p)

/-- Set STATE of a port. -/
def setLinkState (s : State) (p v : Nat) : State := fset s (Reg.LINK_PORT_STATE_STATE p) v

/-- Module that a port faces (R491). -/
def facing (s : State) (p : Nat) : Nat := modnum s ^^^ (p + 1)

/-- Ports in UP. -/
def upPorts (s : State) : List Nat := (List.range 3).filter (fun p => decide (linkState s p = 3))

/-- The other members of this module's job. -/
def otherMembers (s : State) : List Nat := (List.range 4).filter (fun m => decide (m ≠ modnum s) && inJob s m)

/-- A message on a wire. -/
def emit (s : State) (w : Wire) : State := { s with outbox := s.outbox ++ [w] }

/-! ### The loss of a module (R449, R506, R507, R510) -/

/-- Started FENCEs that name a queue of the module, and started REG_READs of it, complete with REMOTE_LOST; the lost module's own
FENCEs wait for nothing here any more. -/
def loseCommands (m : Nat) (s : State) : State :=
  let s := { s with captures := s.captures.filter (fun w => decide (w.member ≠ m)) }
  forEach (startedCmds s) (fun (q, c) s =>
    let named := if c.opcode = 0x0700 then firstNamed c (fun g => decide (g / 0x4000 = m)) else none
    if named.isSome = true then completeCmd s q c.n Status.remoteLost (named.getD 0)
    else if c.opcode = 0x0741 ∧ c.field 20 1 = m then completeCmd s q c.n Status.remoteLost 0
    else s) s

/-- Started BARRIER commands of a barrier's present generation. -/
def barrierWaiters (s : State) (b gen : Nat) : List UnitCmd :=
  s.units.flatMap (fun e => e.2.started.filter (fun d => match d.op with
    | .barrier k _ => decide (k = b ∧ d.gen = gen)
    | _ => false))

/-- A barrier that waits on the lost module: its launches end with REMOTE_LOST and its generation advances (R510). -/
def loseBarrier (m b : Nat) (s : State) : State :=
  let x := barrierOf s b
  let ws := barrierWaiters s b x.gen
  if ws ≠ [] ∧ x.arrived.getD m 0 = 0 then
    let s := forEach ws (fun d s => markRemote s d.launch) s
    setBarrier s b ⟨x.gen + 1, 0, (listSet x.arrived m 1).map (· - 1)⟩
  else setBarrier s b { x with arrived := listSet x.arrived m 0 }

/-- Declare a module lost at this instant (R507, R449): `how` is 1 LOST, 2 LEFT, 3 a link failure; `island` raised it. -/
def declareLost (m how island : Nat) (s : State) : State :=
  if m = modnum s ∨ inJob s m = false then s
  else
    let s := fset s Reg.GLB_MODNUM_JOB_MASK (setBit (fget s Reg.GLB_MODNUM_JOB_MASK) m false)
    let s := raise s 0xA007 island (u16 m ++ u8 how)
    forRange 64 (loseBarrier m) (forgetPeer m (loseCommands m s))

/-- Leave the job: every other member is declared lost, and this module raises 0xA008. -/
def leaveJob (how island : Nat) (s : State) : State :=
  if otherMembers s = [] then s
  else raise (forEach (otherMembers s) (fun m s => declareLost m how island s) s) 0xA008 island []

/-- Send LEFT on the UP ports but `except`. -/
def sendLeft (except : Option Nat) (s : State) : State :=
  forEach ((upPorts s).filter (fun p => decide (some p ≠ except))) (fun p s => emit s (.leftMsg p (modnum s))) s

/-- Send LOST(m) on the UP ports but `except`. -/
def sendLost (m : Nat) (except : Option Nat) (s : State) : State :=
  forEach ((upPorts s).filter (fun p => decide (some p ≠ except))) (fun p s => emit s (.lostMsg p m)) s

/-- R506 at one end of a failed link: the lower-numbered module declares the other lost, the higher-numbered one leaves. -/
def linkLoss (p : Nat) (s : State) : State :=
  let m := facing s p
  if inJob s m = false then s
  else if modnum s < m then sendLost m (some p) (declareLost m 3 (linkIsland p) s)
  else sendLeft (some p) (leaveJob 3 (linkIsland p) s)

/-! ### Joins (R502 to R505) -/

/-- End this module's join: JOIN_BUSY clears. -/
def endJoin (s : State) : State := modLinks (fsetb s Reg.LINK_STATUS_JOIN_BUSY false) (fun l => { l with join := none })

/-- This module's join is refused (R504). -/
def refuseJoin (member cause : Nat) (s : State) : State :=
  match s.links.join with
  | none => s
  | some j =>
    let s := raise (endJoin s) 0xA006 (linkIsland (portTo s j.arbiter)) (u16 member ++ u8 cause)
    match j.cmd with
    | none => s
    | some (q, n) => completeCmd s q n Status.accessRefused (member * 0x100 + cause)

/-- Complete this module's join once its bits are set and its port to every member is UP (R502). -/
def settleJoin (s : State) : State :=
  match s.links.join with
  | none => s
  | some j =>
    if j.committed ∧ (otherMembers s).all (fun m => decide (linkState s (portTo s m) = 3)) = true then
      let s := endJoin s
      match j.cmd with
      | none => s
      | some (q, n) => completeCmd s q n Status.ok 0
    else s

/-- The first check of Table 19.3 that a request fails: the member concerned and the cause. -/
def joinCheck (s : State) (r : JoinRequest) : Option (Nat × Nat) :=
  let me := modnum s
  let image := match s.image with
    | none => false
    | some i => decide (r.imageId.toNat = i.imageId ∧ r.imageVer.toNat = i.version ∧ r.digest = i.digest)
  let busy := (me, inHold s || inSafe s) :: r.members.filter (fun e => inJob s e.1 && decide (e.1 ≠ me))
  let out := (me :: otherMembers s).find? (fun m => !bitAt r.reach m)
  if inJob s r.module_ then some (r.module_, 1)
  else if image = false then some (me, 2)
  else if r.fixed ≠ fbit s Reg.PWR_CFG_FIXED then some (me, 3)
  else if r.rev ≠ regWord s Reg.GLB_ID / 0x100 % 0x100 then some (me, 4)
  else match busy.find? (·.2) with
    | some (m, _) => some (m, 5)
    | none =>
      if r.mask ≠ 2 ^ r.module_ then some (r.module_, 6)
      else match out with
        | some m => some (m, 8)
        | none => none

/-- The arbiter decides a request (R502 steps 3 to 5): JOIN_COMMIT to every member and the joining module, its own bits last. -/
def arbitrate (p : Nat) (r : JoinRequest) (s : State) : State :=
  match joinCheck s r with
  | some (m, cause) => emit s (.joinRefuse r.module_ (m * 0x100 + cause))
  | none =>
    let mask := setBit (fget s Reg.GLB_MODNUM_JOB_MASK) r.module_ true
    let s := forEach (otherMembers s ++ [r.module_]) (fun m s => emit s (.joinCommit m mask)) s
    let s := raise (fset s Reg.GLB_MODNUM_JOB_MASK mask) 0xA005 (linkIsland p) (u16 r.module_ ++ u8 mask)
    match s.links.join with
    | none => s
    | some j =>
      if j.committed then s
      else
        let s := endJoin s
        match j.cmd with
        | none => s
        | some (q, n) => completeCmd s q n Status.ok 0

/-- A retrain holds a join: a port to the joining module or to a member retrains (R504). -/
def joinHeld (s : State) (p : Nat) : Bool :=
  decide (linkState s p = 4) || (otherMembers s).any (fun m => decide (linkState s (portTo s m) = 4))

/-- Decide the held requests whose links no longer retrain, in order of arrival. -/
def settleHeld (s : State) : State :=
  let hs := s.links.held
  let s := modLinks s (fun l => { l with held := [] })
  let s := forEach hs (fun (p, r) s =>
    if s.links.held = [] ∧ joinHeld s p = false then arbitrate p r s
    else modLinks s (fun l => { l with held := l.held ++ [(p, r)] })) s
  fsetb s Reg.LINK_STATUS_JOIN_BUSY (s.links.join.isSome || !s.links.held.isEmpty)

/-- JOIN_REQUEST_RECEIVE: this module is the arbiter. -/
def execJoinRequestReceive (p : Nat) (r : JoinRequest) (s : State) : Out :=
  whenAlive s (fun s =>
    if 3 ≤ p ∨ linkState s p ≠ 3 ∨ r.module_ ≠ facing s p ∨ fbit s Reg.QMGR_STATUS_ACCEPTING = false then .next s
    else if s.links.held ≠ [] ∨ joinHeld s p = true
      then .next (modLinks (fsetb s Reg.LINK_STATUS_JOIN_BUSY true) (fun l => { l with held := l.held ++ [(p, r)] }))
    else .next (arbitrate p r s))

/-- JOIN_COMMIT_RECEIVE: a member, or the joining module, sets the new bits. -/
def execJoinCommitReceive (p m mask : Nat) (s : State) : Out :=
  whenAlive s (fun s =>
    let mine := decide (m = modnum s)
    if 3 ≤ p ∨ 4 ≤ m ∨ linkState s p ≠ 3 ∨ (mine = true ∧ s.links.join = none) then .next s
    else
      let old := fget s Reg.GLB_MODNUM_JOB_MASK
      let new := (old ||| mask % 16)
      let s := raise (fset s Reg.GLB_MODNUM_JOB_MASK new) 0xA005 (linkIsland p) (u16 m ++ u8 new)
      if mine then
        .next (settleJoin (modLinks s (fun l => { l with join := l.join.map (fun j => { j with committed := true }) })))
      else .next s)

/-- JOIN_TIMEOUT (cause 7): no commit within 100 ms of the request. -/
def execJoinTimeout (s : State) : Out :=
  whenAlive s (fun s =>
    match s.links.join with
    | none => .next s
    | some j => if j.committed = false ∧ j.at_ + 100000000 ≤ s.time then .next (refuseJoin j.arbiter 7 s) else .next s)

/-- The arbiter that a joining module chooses: the lowest-numbered module behind an UP port whose JOB_MASK holds more than its
own bit, otherwise the lowest-numbered one (R502 step 1). -/
def chooseArbiter (s : State) (masks : Nat → Nat) : Option Nat :=
  let ms := sortBy id ((upPorts s).map (facing s))
  match ms.find? (fun m => decide (masks m % 16 ≠ 2 ^ m)) with
  | some m => some m
  | none => ms.head?

/-- Start a join of this module (R502, R503): send the request, or wait for the join it arbitrates. -/
def startJoin (cmd : Option (Nat × Nat)) (arbiter : Nat) (s : State) : State :=
  let busy := decide (s.links.held ≠ [])
  let a := if busy then modnum s else arbiter
  let s := modLinks (fsetb s Reg.LINK_STATUS_JOIN_BUSY true) (fun l => { l with join := some ⟨cmd, s.time, a, false⟩ })
  if busy then s else emit s (.join (portTo s arbiter) arbiter)

/-- Ports powered down by a leave return to DETECT at a join (Table 19.2). -/
def wakePorts (s : State) : State :=
  forRange 3 (fun p s => if linkState s p = 0 then setLinkState s p 1 else s) (fsetb s Reg.LINK_STATUS_LEAVING false)

/-- The engine of JOB_JOIN. `masks` are the JOB_MASKs that the peers show, by module; `refused` is the arbiter's refusal once it
has come. -/
def jobJoinEngine (q : Nat) (masks : List Nat) (refused : Option (Nat × Nat)) (c : QCmd) (s : State) : Verdict :=
  if c.engaged then
    match refused with
    | some (m, cause) => .wait (refuseJoin m cause s)
    | none => .wait s
  else if c.length ≠ 1 ∨ c.reservedZero [] = false then invalid s
  else if otherMembers s ≠ [] then
    refuse (raise s 0xA006 79 (u16 (modnum s) ++ u8 6)) (modnum s * 0x100 + 6)
  else
    let s := modLinks (wakePorts s) (fun l => { l with noAuto := false })
    match chooseArbiter s (fun m => masks.getD m (2 ^ m)) with
    | none => noResource s
    | some a => .wait (startJoin (some (q, c.n)) a (modCmd s q c.n (fun d => { d with engaged := true })))

/-- JOB_JOIN (0x0A00); a refusal may also answer the join that AUTO_JOIN issued. -/
def execJobJoin (q n : Nat) (masks : List Nat) (refused : Option (Nat × Nat)) (s : State) : Out :=
  match s.links.join, refused with
  | some ⟨none, _, _, _⟩, some (m, cause) => .next (refuseJoin m cause s)
  | _, _ => runEngine 0x0A00 q n (jobJoinEngine q masks refused) s

/-- AUTO_JOIN at the end of bring-up (R502, R556): the peers' JOB_MASKs are not held here, so which arbiter they make is free. -/
def autoJoin (s : State) : State :=
  if fbit s Reg.LINK_CFG_AUTO_JOIN = false ∨ s.links.noAuto = true then s
  else
    let (f, s) := takeFree s
    match chooseArbiter s (fun m => (Config.freeWord f).toNat / 16 ^ m) with
    | none => s
    | some a => startJoin none a s

/-! ### Leaving (R511, R512) -/

/-- R511 steps 1 to 4. -/
def leaveSteps (s : State) : State :=
  leaveJob 2 79 (sendLeft none (fsetb s Reg.LINK_STATUS_LEAVING true))

/-- The engine of JOB_LEAVE. -/
def jobLeaveEngine (c : QCmd) (s : State) : Verdict :=
  if c.length ≠ 1 ∨ c.reservedZero [] = false then invalid s
  else if otherMembers s = [] then okay s
  else
    let s := forRange 3 (fun p s => fsetb (fset (setLinkState s p 0) (Reg.LINK_PORT_STATE_LOCK p) 0)
      (Reg.LINK_PORT_STATE_PEER_VALID p) false) (leaveSteps s)
    okay (fsetb s Reg.LINK_STATUS_READY_TO_REMOVE true)

/-- JOB_LEAVE (0x0A01). -/
def execJobLeave (q n : Nat) (s : State) : Out := runEngine 0x0A01 q n jobLeaveEngine s

/-- LOSS_MESSAGE_RECEIVE (R506): a member named in it is declared lost and the message forwarded once; this module named in LOST
leaves. -/
def execLossMessageReceive (p : Nat) (msg : LossMessage) (s : State) : Out :=
  whenAlive s (fun s =>
    if 3 ≤ p ∨ linkState s p ≠ 3 then .next s
    else match msg with
      | .lost m =>
        if m = modnum s then .next (if otherMembers s = [] then s else sendLeft none (leaveJob 1 (linkIsland p) s))
        else if inJob s m then .next (sendLost m none (declareLost m 1 (linkIsland p) s))
        else .next s
      | .left m =>
        if m ≠ modnum s ∧ inJob s m = true
        then .next (forEach (upPorts s) (fun p s => emit s (.leftMsg p m)) (declareLost m 2 (linkIsland p) s))
        else .next s)

/-- PRES_N_CHANGE (R512, R556): the filtered level; absent sends LEFT and adds Mallow's 40 W term. -/
def execPresNChange (present : Bool) (s : State) : Out :=
  whenAlive s (fun s =>
    let s := fsetb s Reg.LINK_STATUS_SEATED present
    if present then
      .next (if s.power.absent
        then fsetb (modPower s (fun p => { p with absent := false, presentAt := some s.time })) Reg.LINK_STATUS_SEATED true else s)
    else if s.power.absent then .next s
    else
      let s := fsetb (modPower s (fun p => { p with absent := true, presentAt := none, presTerm := true })) Reg.LINK_STATUS_SEATED false
      let s := modLinks s (fun l => { l with noAuto := true })
      .next (if otherMembers s = [] then s else leaveSteps s))

/-! ### Replay, retrain, training (R498 to R501) -/

/-- FLIT_REPLAY (R498): a flit that fails its CRC, or a codeword the FEC cannot correct, is replayed. Codewords that the FEC has
corrected since the last replay are a free count (log entry 65). -/
def execFlitReplay (p : Nat) (fec : Bool) (s : State) : Out :=
  whenAlive s (fun s =>
    if 3 ≤ p ∨ linkState s p ≠ 3 then .next s
    else
      let recent := (lport s p).replays.filter (fun t => decide (s.time < t + 1000000))
      let (f, s) := takeFree s
      let s := fadd s (Reg.LINK_PORT_CNT_COUNT p 3) ((Config.freeWord f).toNat % 2 ^ 32)
      let s := finc (finc s (Reg.LINK_PORT_CNT_COUNT p (if fec then 4 else 0))) (Reg.LINK_PORT_CNT_COUNT p 1)
      let s := setLport s p { lport s p with replays := (s.time :: recent).take 256 }
      .next (if recent = [] then raise s 0xA009 (linkIsland p) (u16 p) else s))

/-- A retrain starts (R499): `trigger` is the position of its cause in R499's list. -/
def startRetrain (p trigger : Nat) (s : State) : State :=
  let s := fset (setLinkState s p 4) (Reg.LINK_PORT_STATE_LOCK p) 0
  let s := setLport (finc s (Reg.LINK_PORT_CNT_COUNT p 2)) p { lport s p with retrainAt := s.time, replays := [] }
  raise s 0xA002 (linkIsland p) (u16 p ++ u8 trigger)

/-- RETRAIN_START: more replays than the limit within 1 ms, or a lane that lost lock; LINK_RETRAIN starts its own. -/
def execRetrainStart (p : Nat) (cause : RetrainCause) (s : State) : Out :=
  whenAlive s (fun s =>
    if 3 ≤ p ∨ linkState s p ≠ 3 then .next s
    else match cause with
      | .replays =>
        let n := ((lport s p).replays.filter (fun t => decide (s.time < t + 1000000))).length
        if fget s Reg.LINK_CFG_REPLAY_LIMIT < n then .next (startRetrain p 1 s) else .next s
      | .laneLock => .next (startRetrain p 2 s)
      | .command => .next s)

/-- LINK_RETRAIN commands waiting for a port end. -/
def endRetrainCmds (p status detail : Nat) (s : State) : State :=
  forEach ((startedCmds s).filter (fun e => decide (e.2.opcode = 0x0A02 ∧ e.2.field 16 1 = p) && e.2.engaged))
    (fun (q, c) s => completeCmd s q c.n status detail) s

/-- A link fails (R499, R500). -/
def failLink (p lanes : Nat) (s : State) : State :=
  let s := fsetb (fset (setLinkState s p 5) (Reg.LINK_PORT_STATE_LOCK p) lanes) (Reg.LINK_PORT_STATE_PEER_VALID p) false
  let s := setLport s p { lport s p with failedAt := s.time, replays := [] }
  let s := raise s 0xA004 (linkIsland p) (u16 p ++ u8 lanes)
  let s := endRetrainCmds p Status.remoteLost p s
  let s := match s.links.join with
    | some j => if j.arbiter ≠ modnum s ∧ (portTo s j.arbiter = p ∨ j.committed = true) then refuseJoin (facing s p) 8 s else s
    | none => s
  settleHeld (linkLoss p s)

/-- The time a FENCE waits on a retraining link does not count toward its limit (R450). -/
def forgiveFences (p ns : Nat) (s : State) : State :=
  let m := facing s p
  forEach ((startedCmds s).filter (fun e => decide (e.2.opcode = 0x0700) && e.2.captured.any (fun w => match w with
      | .remote k _ => decide (k = m)
      | _ => false)))
    (fun (q, c) s => modCmd s q c.n (fun d => { d with startedAt := d.startedAt + min ns (s.time - d.startedAt) })) s

/-- RETRAIN_END: all lanes lock and the exchange is good, or RETRAIN_MS has passed. -/
def execRetrainEnd (p : Nat) (success : Bool) (lanes : Nat) (s : State) : Out :=
  whenAlive s (fun s =>
    if 3 ≤ p ∨ linkState s p ≠ 4 then .next s
    else
      let ns := s.time - (lport s p).retrainAt
      if success then
        let s := fset (setLinkState s p 3) (Reg.LINK_PORT_STATE_LOCK p) 0xFF
        let s := raise s 0xA003 (linkIsland p) (u16 p ++ u32 (ns / 1000))
        .next (settleHeld (settleJoin (endRetrainCmds p Status.ok 0 (forgiveFences p ns s))))
      else if fget s Reg.LINK_CFG_RETRAIN_MS * 1000000 ≤ ns then .next (failLink p (lanes % 256) s)
      else .next s)

/-- LANES_SILENT (R500). -/
def execLanesSilent (p : Nat) (s : State) : Out :=
  whenAlive s (fun s => if p < 3 ∧ (linkState s p = 3 ∨ linkState s p = 4) then .next (failLink p 0 s) else .next s)

/-- TRAINING_PATTERN_SEEN (R501). -/
def execTrainingPatternSeen (p : Nat) (s : State) : Out :=
  whenAlive s (fun s => if p < 3 ∧ linkState s p = 1 ∧ phaseUp s 5 = true then .next (setLinkState s p 2) else .next s)

/-- LINK_TRAIN_DONE (R501): the port enters UP with its peer's number, or returns to DETECT. -/
def execLinkTrainDone (p : Nat) (success : Bool) (peer : Nat) (s : State) : Out :=
  whenAlive s (fun s =>
    if 3 ≤ p ∨ linkState s p ≠ 2 then .next s
    else if success then
      if peer ≠ facing s p then .next s
      else
        let s := fset (setLinkState s p 3) (Reg.LINK_PORT_STATE_LOCK p) 0xFF
        let s := fsetb (fset s (Reg.LINK_PORT_STATE_PEER p) peer) (Reg.LINK_PORT_STATE_PEER_VALID p) true
        .next (settleJoin (endRetrainCmds p Status.ok 0 (raise s 0xA001 (linkIsland p) (u16 p ++ u16 peer))))
    else .next (fset (setLinkState s p 1) (Reg.LINK_PORT_STATE_LOCK p) 0))

/-- LINK_FAILED_HOLDOFF (R501): 1 ms after the failure. -/
def execLinkFailedHoldoff (p : Nat) (s : State) : Out :=
  whenAlive s (fun s =>
    if p < 3 ∧ linkState s p = 5 ∧ (lport s p).failedAt + 1000000 ≤ s.time
    then .next (fset (setLinkState s p 1) (Reg.LINK_PORT_STATE_LOCK p) 0) else .next s)

/-! ### Link commands and LINK_CFG (R513, R514) -/

/-- The engine of LINK_RETRAIN: it completes when the port is UP or FAILED. -/
def linkRetrainEngine (q : Nat) (c : QCmd) (s : State) : Verdict :=
  let p := c.field 16 1
  if c.engaged then .wait s
  else if c.length ≠ 1 ∨ c.reservedZero [(16, 1)] = false ∨ 2 < p then invalid s
  else if linkState s p = 5 then .done Status.remoteLost p s
  else
    let s := modCmd s q c.n (fun d => { d with engaged := true })
    .wait (if linkState s p = 3 then startRetrain p 3 s else s)

/-- LINK_RETRAIN (0x0A02). -/
def execLinkRetrain (q n : Nat) (s : State) : Out := runEngine 0x0A02 q n (linkRetrainEngine q) s

/-- The engine of LINK_READ: the LINK registers at 0x000..0x1BF. -/
def linkReadEngine (q : Nat) (c : QCmd) (s : State) : Verdict :=
  if c.length ≠ 1 ∨ c.reservedZero [(24, 8)] = false ∨ opAligned q (c.field 24 8) 64 = false then invalid s
  else
    let bs := (List.range 112).flatMap (fun i => leBytes 4 (regWord s (Reg.LINK_STATUS + 4 * i)))
    match opWrite s q (c.field 24 8) bs with
    | .error e => failOperand s q c (linkIsland 0) 0 e
    | .ok s => okay s

/-- LINK_READ (0x0A03). -/
def execLinkRead (q n : Nat) (s : State) : Out := runEngine 0x0A03 q n (linkReadEngine q) s

/-- LINK_CFG in range. -/
def linkCfgOk (v : Nat) : Bool := decide (1 ≤ bits v 23 16 ∧ 1 ≤ bits v 4 0 ∧ bits v 4 0 ≤ 20)

/-- A write of LINK_CFG. -/
def linkCfgWrite (agent : Agent) (v : Nat) (s : State) : State :=
  if agent = .harebell ∧ linkCfgOk v = true then rwStore s Reg.LINK_CFG v
  else raise s 0xA00A (linkIsland 0) []

end Sys2Proof.Machine
end

