-- ==== Sys2Proof/Machine/Image.lean ====
section
/-! DEFINITION. Signature blocks (R517, R518) and model images (R177 to R191, R600): parsing, the checks of R181, loading. -/

namespace Sys2Proof.Machine

/-- Harebell's island. -/
def secIsland : Nat := 76

/-! ### Signature blocks -/

/-- Whether an owner slot may sign: VALID blown, REVOKED not (R518), and DEBUG_OK for a debug token (R516). -/
def ownerSlotOk (slot : Nat) (debug : Bool) : Bool :=
  decide (slot < 4) && bitAt Config.ownerValid.toNat slot && !bitAt Config.ownerRevoked.toNat slot
    && (!debug || bitAt Config.ownerDebugOk.toNat slot)

/-- Why a signature block fails (the causes of 0xB002): 1 signature, 2 key, 6 format; 0 when it verifies the signed bytes. `cls`
is the class Table 20.3 gives the object: 0 NELARI, 1 OWNER. -/
def blockFails (cls : Nat) (debug : Bool) (msg block : List Byte) : Nat :=
  let key := slice block 8 60
  let slot := fieldAt block 5 1
  let n := fieldAt block 68 4
  let known := if cls = 0 then slot = 0 ∧ sha256 key = Config.nelariKey
    else ownerSlotOk slot debug = true ∧ sha256 key = Config.ownerKey slot
  if fieldAt block 0 4 ≠ 0x53474E31 ∨ fieldAt block 6 2 ≠ 0 ∨ allZero (slice block 72 8) = false ∨ n = 0 ∨ 16384 < n then 6
  else if fieldAt block 4 1 ≠ cls then 2
  else if known then (if hssVerifies key msg (slice block 80 n) then 0 else 1)
  else 2

/-! ### Flash objects -/

/-- Bytes of flash, or none when a unit stays uncorrectable. -/
def flashTry (s : State) (f n : Nat) : Option (List Byte) :=
  match flashBadUnit s f n with
  | some _ => none
  | none => some (flashRead s f n)

/-- Report the uncorrectable unit that Harebell met in a range of flash (Table 4.8). -/
def flashReport (s : State) (f n : Nat) : State :=
  match flashBadUnit s f n with
  | some _ => flashUnread s 0xFF
  | none => s

/-- First byte of an image slot (Table 6.1). -/
def slotBase (slot : Nat) : Nat := 0x100000000 + slot * 0xF00000000

/-- Bytes of an image slot. -/
def slotBytes : Nat := 0xF00000000

/-- REV_LETTER, REV_DIGIT of the silicon as one number. -/
def siliconRev (s : State) : Nat := fget s Reg.GLB_ID_REV_LETTER * 256 + fget s Reg.GLB_ID_REV_DIGIT

/-- The value of a minimum (R526, R520): the larger valid copy. -/
def minValue (s : State) (k : Nat) : Nat :=
  s.harebell.minCopies.foldl (fun m c => max m ((c.getD []).getD k 0)) 0

/-! ### Checks (R181) -/

/-- Why an image is refused: a signature or digest with its section index (0xB101), or a cause of R181 by its position in the
list (0xB102); 11 to 13 are steps 3 to 5 of R194. -/
inductive ImageErr where
  | verify (index : Nat)
  | refused (cause : Nat)
  deriving DecidableEq, Repr

/-- Continue when a check holds. -/
def need {α : Type} (ok : Bool) (e : ImageErr) (k : Except ImageErr α) : Except ImageErr α := if ok then k else .error e

/-- A section table entry. -/
def parseSection (b : List Byte) : Section :=
  ⟨fieldAt b 0 2, fieldAt b 2 1, fieldAt b 3 1, fieldAt b 8 8, fieldAt b 16 8, fieldAt b 24 8, slice b 32 32⟩

/-- TARGET that Table 6.4 gives a type; none for an unassigned one. -/
def sectionTarget (type : Nat) : Option Nat :=
  [(1, 1), (2, 1), (3, 1), (4, 4), (5, 4), (6, 1), (7, 1), (8, 3), (9, 4), (0xA, 2), (0xB, 3), (0xC, 0)].lookup type

/-- An entry keeps Tables 6.3 and 6.4. -/
def sectionOk (x : Section) : Bool :=
  decide (sectionTarget x.type = some x.target ∧ x.file % 0x1000 = 0
    ∧ (if x.target = 1 then x.load % 0x1000 = 0 else x.load = 0) ∧ (x.type ≠ 1 ∨ bitAt x.sflags 0 = true))

/-- Two TARGET 1 sections that overlap in the resident region. -/
def sectionsMeet (x y : Section) : Bool :=
  decide (x.target = 1 ∧ y.target = 1 ∧ x.load < y.load + y.bytes ∧ y.load < x.load + x.bytes)

/-- Every section lies in TOTAL_BYTES and the resident region, and none overlaps another. -/
def sectionsFit (total units : Nat) : List Section → Bool
  | [] => true
  | x :: rest => decide (x.file + x.bytes ≤ total ∧ (x.target = 1 → x.load + x.bytes ≤ units * 0x200000))
      && rest.all (fun y => !sectionsMeet x y) && sectionsFit total units rest

/-- The one section of a type. -/
def oneSection (l : List Section) (type : Nat) : Option Section :=
  match l.filter (fun x => decide (x.type = type)) with
  | [x] => some x
  | _ => none

/-- KV_GEOM keeps the ranges of KVM_GEOM. -/
def geomOk (g : Nat) : Bool :=
  let l := bits g 7 0
  let h := bits g 15 8
  let gr := bits g 23 16
  let d := bits g 31 24
  let f := bits g 35 32
  decide (1 ≤ l ∧ 1 ≤ h ∧ h ≤ 64 ∧ 1 ≤ gr ∧ gr ≤ 16 ∧ 1 ≤ d ∧ d ≤ 8 ∧ 1 ≤ f ∧ f ≤ 3 ∧ bits g 39 36 = 0 ∧ bits g 63 56 = 0
    ∧ 0x1000 * bits g 55 40 = slotBytesOf l h (32 * d) (if f = 1 then 2 else 1))

/-- Reserved bytes of the header are zero. -/
def headerZero (h : List Byte) : Bool := allZero (slice h 26 2) && allZero (slice h 104 152)

/-- Fields of the header with a range of their own (Table 6.2). -/
def headerOk (h : List Byte) : Bool :=
  let n := fieldAt h 22 2
  let e := fieldAt h 24 2
  let u := fieldAt h 28 4
  decide (fieldAt h 4 2 = 1 ∧ fieldAt h 6 2 = 256 ∧ fieldAt h 40 8 = 256 ∧ 1 ≤ n ∧ n ≤ 1024 ∧ 1 ≤ e ∧ e ≤ 256
    ∧ 1 ≤ u ∧ u ≤ 30720 ∧ fieldAt h 48 8 ≤ slotBytes)

/-- The header and section table of a slot, verified, with every check of R181 that needs no section's contents. -/
def imageHead (s : State) (slot : Nat) : Except ImageErr (List Byte × List Section) :=
  let base := slotBase slot
  match flashTry s base 256 with
  | none => .error (.verify 0xFFFF)
  | some h =>
    let sig := (flashTry s (base + fieldAt h 56 8) (min (fieldAt h 64 4) 0x10000)).getD []
    let count := fieldAt h 22 2
    let table := (flashTry s (base + 256) (64 * count)).getD []
    let raw := chunks count 64 table
    let secs := raw.map parseSection
    need (decide (fieldAt h 0 4 = 0x4B494D31 ∧ fieldAt h 56 8 + fieldAt h 64 4 ≤ slotBytes ∧ blockFails 1 false h sig = 0))
      (.verify 0xFFFF) <|
    need (decide (sha256 table = slice h 72 32)) (.verify 0xFFFF) <|
    need (headerZero h && raw.all (fun b => allZero (slice b 4 4) && decide (fieldAt b 3 1 < 4))) (.refused 3) <|
    need (decide (fieldAt h 20 1 * 256 + fieldAt h 21 1 ≤ siliconRev s)) (.refused 4) <|
    need (decide (minValue s 3 ≤ fieldAt h 16 4)) (.refused 5) <|
    need (geomOk (fieldAt h 32 8)) (.refused 6) <|
    need (sectionsFit (fieldAt h 48 8) (fieldAt h 28 4) secs) (.refused 7) <|
    need ([4, 5, 8, 0xA, 0xB].all (fun t => (oneSection secs t).isSome)) (.refused 8) <|
    need (((oneSection secs 0xA).map (fun x => decide (x.bytes ≤ 0x2000000))).getD false) (.refused 9) <|
    need (headerOk h && secs.all sectionOk) (.refused 10) (.ok (h, secs))

/-- A section's contents, checked against its DIGEST (R190). -/
def loadSection (s : State) (slot i : Nat) (x : Section) : Except ImageErr (List Byte) :=
  match flashTry s (slotBase slot + x.file) x.bytes with
  | none => .error (.verify i)
  | some b => if sha256 b = x.digest then .ok b else .error (.verify i)

/-- The contents of every section whose TARGET is not 0, in table order. -/
def loadSections (s : State) (slot : Nat) : (i : Nat) → List Section → Except ImageErr (List (Section × List Byte))
  | _, [] => .ok []
  | i, x :: rest =>
    if x.target = 0 then loadSections s slot (i + 1) rest
    else match loadSection s slot i x with
      | .error e => .error e
      | .ok b => match loadSections s slot (i + 1) rest with
        | .error e => .error e
        | .ok l => .ok ((x, b) :: l)

/-- Contents of the section of a type. -/
def contents (l : List (Section × List Byte)) (type : Nat) : List Byte :=
  ((l.find? (fun e => decide (e.1.type = type))).map (·.2)).getD []

/-! ### Records -/

/-- Words of a record. -/
def u32s (b : List Byte) (off n : Nat) : List Nat := (List.range n).map (fun i => fieldAt b (off + 4 * i) 4)

/-- An entry-point record (Table 6.5). -/
def parseEntry (b : List Byte) : Entry :=
  ⟨fieldAt b 0 1, fieldAt b 1 1, fieldAt b 2 1, fieldAt b 4 2, (List.range 4).map (fun i => fieldAt b (8 + 8 * i) 8),
    u32s b 40 4, fieldAt b 56 4⟩

/-- An entry keeps R183, R184, R187 against the switch table. -/
def entryOk (b : List Byte) (switches : List (List Byte)) : Bool :=
  let e := parseEntry b
  decide (e.kind ≤ 5 ∧ e.levels ≤ 3 ∧ e.eflags < 4 ∧ e.switchCount ≤ 4096 ∧ fieldAt b 3 1 = 0 ∧ fieldAt b 6 2 = 0
      ∧ fieldAt b 60 4 = 0 ∧ e.switchFirst + e.switchCount ≤ switches.length)
    && (List.range 4).all (fun l => decide (l ≤ e.levels ∨ e.code.getD l 0 = 0))
    && (List.range 4).all (fun l => decide (l = 0 ∨ e.levels < l ∨ e.wcet.getD l 0 ≤ e.wcet.getD (l - 1) 0))
    && decide (e.kind ≠ 3 ∨ (e.levels = 0 ∧ e.switchCount = 0 ∧ bitAt e.eflags 0 = true))
    && (List.range e.switchCount).all (fun k => decide (fieldAt (switches.getD (e.switchFirst + k) []) 0 2 = k + 1))

/-- A switch record (Table 6.6). -/
def parseSwitch (b : List Byte) : Switch := ⟨fieldAt b 0 2, u32s b 4 4, u32s b 20 3⟩

/-- A tolerance record (Table 6.7). -/
def parseTolerance (b : List Byte) : Tolerance :=
  ⟨fieldAt b 0 2, fieldAt b 2 1, fieldAt b 3 1, BitVec.ofNat 32 (fieldAt b 4 4), BitVec.ofNat 32 (fieldAt b 8 4)⟩

/-- The tolerance records keep R188. -/
def toleranceOk (n : Nat) (raw : List (List Byte)) : Bool :=
  let ts := raw.map parseTolerance
  decide (1 ≤ n ∧ n ≤ 256) && decide ((ts.map (·.loop)).Nodup) && (List.range n).all (fun i =>
    let t := parseTolerance (raw.getD i [])
    let a := val32 t.tolAbs
    let r := val32 t.tolRel
    decide (t.output = i ∧ t.quantity ≤ 2 ∧ fieldAt (raw.getD i []) 12 4 = 0) && a.isFin && r.isFin && Num.lt .zero a
      && Num.le .zero r && Num.lt r (val32 0x3F000000))

/-- A placement record (Table 6.8). -/
def parsePlacement (b : List Byte) : Placement :=
  ⟨fieldAt b 0 2, fieldAt b 2 2, fieldAt b 4 1, fieldAt b 5 1, fieldAt b 8 8, fieldAt b 16 4, fieldAt b 24 8⟩

/-- A placement record keeps R189. -/
def placementOk (secs : List Section) (b : List Byte) : Bool :=
  let p := parsePlacement b
  decide (p.tile ≤ 47 ∧ p.unit_ ≤ 127 ∧ p.src % 0x1000 = 0 ∧ p.bytes % 0x1000 = 0 ∧ p.va % 0x1000 = 0 ∧ p.va + p.bytes ≤ 2 ^ 48
      ∧ fieldAt b 6 2 = 0 ∧ fieldAt b 20 4 = 0)
    && (match secs[p.section_]? with
      | none => false
      | some x => bitAt x.sflags 1 && decide (x.target = 1 ∧ p.src + p.bytes ≤ x.bytes))

/-- The loaded image, or why R181 refuses a record of it. -/
def buildImage (slot : Nat) (h : List Byte) (secs : List Section) (l : List (Section × List Byte)) : Except ImageErr Image :=
  let et := contents l 4
  let st := contents l 5
  let tol := contents l 8
  let gold := contents l 0xB
  let pl := contents l 9
  let entries := chunks (fieldAt h 24 2) 64 et
  let switches := chunks (st.length / 32) 32 st
  let outs := fieldAt tol 0 2
  let tols := chunks outs 16 (tol.drop 16)
  let places := chunks (pl.length / 32) 32 pl
  let input := fieldAt gold 4 4
  let sound := decide (et.length = 64 * fieldAt h 24 2 ∧ st.length % 32 = 0 ∧ pl.length % 32 = 0 ∧ tol.length = 16 + 16 * outs
      ∧ (pl = [] ∨ (oneSection secs 9).isSome = true))
    && allZero (slice tol 2 14) && entries.all (fun b => entryOk b switches) && switches.all (fun b => decide (fieldAt b 2 2 = 0))
    && toleranceOk outs tols && places.all (placementOk secs)
    && decide (fieldAt gold 0 2 = outs ∧ 1 ≤ input ∧ input ≤ 65536 ∧ fieldAt gold 2 2 = 0 ∧ fieldAt gold 24 8 = 0
      ∧ gold.length = 32 + input)
  need sound (.refused 10) <| .ok
    { slot := slot, imageId := fieldAt h 8 8, version := fieldAt h 16 4, units := fieldAt h 28 4, digest := sha256 h,
      entries := entries.map parseEntry, switches := switches.map parseSwitch, placement := places.map parsePlacement,
      sections := secs, attn := contents l 7, tolerance := tols.map parseTolerance, goldenIn := gold.drop 32,
      sigMain := fieldAt gold 8 8, sigChk := fieldAt gold 16 8, thistle := contents l 0xA }

/-- Verify a slot's image in full: the image and the contents of its resident sections. -/
def readImage (s : State) (slot : Nat) : Except ImageErr (Image × List (Section × List Byte) × Nat) :=
  match imageHead s slot with
  | .error e => .error e
  | .ok (h, secs) => match loadSections s slot 0 secs with
    | .error e => .error e
    | .ok l => match buildImage slot h secs l with
      | .error e => .error e
      | .ok i => .ok (i, l, fieldAt h 32 8)

/-- Extend a measurement register (R532). -/
def extendMeas (r : Nat) (d : List Byte) (s : State) : State :=
  modHarebell s (fun h => { h with meas := listSet h.meas r (sha256 (h.meas.getD r (List.replicate 32 0) ++ d)) })

/-- Raise what an image refusal records (Table 6.10). -/
def imageEvent (slot : Nat) (e : ImageErr) (s : State) : State :=
  match e with
  | .verify i => raise s 0xB101 secIsland (u16 slot ++ u16 i)
  | .refused c => raise s 0xB102 secIsland (u16 slot ++ u8 c)

/-- Report what was uncorrectable where a verification failed: in the header, table and signature (0xFFFF) or in a section. -/
def slotReport (slot i : Nat) (s : State) : State :=
  let base := slotBase slot
  let h := flashRead s base 256
  if i = 0xFFFF then
    match flashBadUnit s base 256 with
    | some _ => flashReport s base 256
    | none => flashReport (flashReport s (base + fieldAt h 56 8) (min (fieldAt h 64 4) 0x10000)) (base + 256) (64 * fieldAt h 22 2)
  else
    let x := parseSection (flashRead s (base + 256 + 64 * i) 64)
    flashReport s (base + x.file) x.bytes

/-- The net of another image replaces Thistle's: its passes and the results of the old one are dropped (log entry 38). -/
def thistleReload (s : State) : State :=
  modSafety s (fun x => { x with passes := [], main := none, check := none, decided := true, goldenOut := none, goldenChk := none })

/-- Put an image into LPDDR5X (R182, R190): the region zeroed, then its sections; MEM_IMAGE, KVM_GEOM and measurement 4. -/
def placeImage (i : Image) (l : List (Section × List Byte)) (geom : Nat) (s : State) : State :=
  let s := thistleReload s
  let s := memZero s 0 (i.units * 0x200000)
  let s := forEach (l.filter (fun e => decide (e.1.target = 1))) (fun e s => memWrite s e.1.load e.2) s
  let s := fset (fset s Reg.MEM_IMAGE_BASE 0) Reg.MEM_IMAGE_SIZE i.units
  extendMeas 4 i.digest { setReg64 s Reg.KVM_GEOM geom with image := some i }

/-- Load the image of a slot (R190); a failure records its event and changes nothing else. -/
def loadImage (slot : Nat) (s : State) : Bool × State :=
  match readImage s slot with
  | .ok (i, l, geom) => (true, placeImage i l geom s)
  | .error e => (false, imageEvent slot e (match e with | .verify i => slotReport slot i s | .refused _ => s))

end Sys2Proof.Machine
end

