-- ==== Sys2Proof/Machine/Plan.lean ====
section
/-! DEFINITION. The context plan (R232 to R236): its checks, the page tables Harebell builds, the creation of contexts, their
re-creation after a reset (R253). -/

namespace Sys2Proof.Machine

/-! ### The plan -/

/-- A context plan record (Table 8.1). -/
def parsePlan (b : List Byte) : Plan :=
  ⟨fieldAt b 0 2, fieldAt b 2 1, fieldAt b 3 1, fieldAt b 4 1, fieldAt b 5 1, fieldAt b 6 2, fieldAt b 8 8, fieldAt b 16 1,
    fieldAt b 17 1, fieldAt b 18 1, fieldAt b 19 1, fieldAt b 20 1, fieldAt b 21 1, fieldAt b 22 2, fieldAt b 24 4, fieldAt b 28 2,
    fieldAt b 30 2, fieldAt b 32 4, fieldAt b 36 4, fieldAt b 40 4, fieldAt b 44 2, fieldAt b 46 2, fieldAt b 48 4, fieldAt b 52 4,
    fieldAt b 56 4, fieldAt b 60 4⟩

/-- The records of a plan. -/
def planRecords (b : List Byte) : List Plan := (chunks (fieldAt b 0 2) 64 (b.drop 64)).map parsePlan

/-- EXCL, GOLDEN_HOST, PLACE. -/
def Plan.excl (p : Plan) : Bool := bitAt p.cflags 1
/-- GOLDEN_HOST of CFLAGS. -/
def Plan.golden (p : Plan) : Bool := bitAt p.cflags 2
/-- PLACE of CFLAGS: RUNTIME. -/
def Plan.runtime (p : Plan) : Bool := bitAt p.cflags 0

/-- Sum of a figure over the records before record `i`. -/
def sumBefore (f : Plan → Nat) (ps : List Plan) (i : Nat) : Nat := (ps.take i).foldl (fun a p => a + f p) 0

/-! ### Page tables (R182, R189, R234) -/

/-- A leaf to map: virtual address, whether it is a 2 MiB page, its entry. -/
structure MapLeaf where
  va  : Nat
  big : Bool
  pte : Nat
  deriving DecidableEq, Repr

/-- A page-table entry (Table 4.3) of TIER 0. -/
def mkPte (a : Nat) (leaf w x : Bool) (kind : Nat) : Nat := 1 + 2 * b2n leaf + 4 * b2n w + 8 * b2n x + 16 * kind + a

/-- Whether the 4 KiB page at an offset of the image region holds a byte of an EXEC section. -/
def pageExec (secs : List Section) (off : Nat) : Bool :=
  secs.any (fun x => decide (x.target = 1 ∧ x.load < off + 0x1000 ∧ off < x.load + x.bytes) && bitAt x.sflags 0)

/-- Leaves of one 2 MiB unit of the image region (R182). -/
def imageUnit (secs : List Section) (u : Nat) : List MapLeaf :=
  let off := u * 0x200000
  let xs := (List.range 512).map (fun i => pageExec secs (off + 0x1000 * i))
  if xs.all (fun x => x) ∨ xs.all (fun x => !x) = true then [⟨imageVa + off, true, mkPte off true false (xs.headD false) 2⟩]
  else (List.range 512).map (fun i =>
    ⟨imageVa + off + 0x1000 * i, false, mkPte (off + 0x1000 * i) false false (xs.getD i false) 2⟩)

/-- Leaves of consecutive 4 KiB pages. -/
def smallPages (va a bytes : Nat) (x : Bool) (kind : Nat) : List MapLeaf :=
  (List.range (ceilDiv bytes 0x1000)).map (fun i => ⟨va + 0x1000 * i, false, mkPte (a + 0x1000 * i) false false x kind⟩)

/-- Leaves of the pinned copies of a role (R189). -/
def pinnedLeaves (img : Image) (role : Nat) : List MapLeaf :=
  (img.placement.filter (fun p => decide (p.role = role))).flatMap (fun p =>
    smallPages p.va (tileAddr p.tile (p.unit_ * 0x10000)) p.bytes false 2)

/-- Where stage 3 is mapped (R522). -/
def stage3Va : Nat := 0xB00000000000

/-- Drop repeats from a rising list. -/
def dedup : List Nat → List Nat
  | a :: b :: rest => if a = b then dedup (b :: rest) else a :: dedup (b :: rest)
  | l => l

/-- Rising numbers of the tables that leaves need at one level, from the bytes a table covers. -/
def tableKeys (span : Nat) (l : List MapLeaf) : List Nat := dedup (sortBy id (l.map (fun x => x.va / span)))

/-- The tables of a context: keys of levels 1, 2 and 3. -/
structure Tables where
  l1 : List Nat
  l2 : List Nat
  l3 : List Nat
  deriving DecidableEq, Repr

/-- Tables that a context's leaves need. -/
def tablesFor (l : List MapLeaf) : Tables :=
  ⟨tableKeys (2 ^ 39) l, tableKeys (2 ^ 30) l, tableKeys (2 ^ 21) (l.filter (fun x => !x.big))⟩

/-- How many tables there are, level 0 included. -/
def Tables.count (t : Tables) : Nat := 1 + t.l1.length + t.l2.length + t.l3.length

/-- Leaves of a context, with stage 3's `s3` bytes from `s3At` when it carries them. -/
def ctxLeaves (img : Image) (role s3 s3At : Nat) : List MapLeaf :=
  (List.range img.units).flatMap (imageUnit img.sections) ++ pinnedLeaves img role ++ smallPages stage3Va s3At s3 true 0

/-- 2 MiB units at the bottom of a share that the tables and stage 3 take (MEM_CTX_RSV). -/
def reservedUnits (img : Image) (role s3 : Nat) : Nat :=
  ceilDiv ((tablesFor (ctxLeaves img role s3 0)).count * 0x1000 + s3) 0x200000

/-- Write entry `i` of a table. -/
def putEntry (tbl i pte : Nat) (s : State) : State := memWrite s (tbl + 8 * (i % 512)) (leBytes 8 pte)

/-- Write a level's pointers: for each table of the next level, the entry of its parent. -/
def putPointers (parents : List Nat) (parentAt childAt : Nat) (keys : List Nat) (s : State) : State :=
  forEach ((List.range keys.length).zip keys) (fun (i, k) s =>
    putEntry (parentAt + 0x1000 * parents.findIdx (fun p => decide (p = k / 512))) k (mkPte (childAt + 0x1000 * i) false false false 0) s) s

/-- Build a context's page tables at the bottom of its share (R234 step 5); `base` is the share's first byte. -/
def buildTables (img : Image) (role s3 base : Nat) (s : State) : State :=
  let n := (tablesFor (ctxLeaves img role s3 0)).count
  let leaves := ctxLeaves img role s3 (base + 0x1000 * n)
  let t := tablesFor leaves
  let a1 := base + 0x1000
  let a2 := a1 + 0x1000 * t.l1.length
  let a3 := a2 + 0x1000 * t.l2.length
  let s := memZero s base (0x1000 * n)
  let s := putPointers [0] base a1 t.l1 s
  let s := putPointers t.l1 a1 a2 t.l2 s
  let s := putPointers t.l2 a2 a3 t.l3 s
  forEach leaves (fun x s =>
    if x.big then putEntry (a2 + 0x1000 * t.l2.findIdx (fun k => decide (k = x.va / 2 ^ 30))) (x.va / 2 ^ 21) x.pte s
    else putEntry (a3 + 0x1000 * t.l3.findIdx (fun k => decide (k = x.va / 2 ^ 21))) (x.va / 2 ^ 12) x.pte s) s

/-! ### Checks (R233) -/

/-- Unused and reserved fields of a record are zero, and its fields lie in their ranges. -/
def recordShape (b : List Byte) : Bool :=
  let p := parsePlan b
  decide (p.cls ≤ 1 ∧ p.cflags < 8 ∧ p.tileMask < 2 ^ 48 ∧ p.threads ≤ 128 ∧ p.vregs ≤ 64 ∧ p.sramUnits ≤ 128
      ∧ bits p.kvSeq 31 29 = 0 ∧ bits p.kvSeq 23 13 = 0)
    && (if p.cls = 0 then allZero (slice b 44 20) && decide (p.excl = false ∧ p.golden = false) && decide (p.prio ≤ 15 ∧ p.lane ≤ 7
          ∧ 1 ≤ p.slice ∧ p.slice ≤ 1000)
        else decide (p.prio = 0 ∧ p.lane = 0 ∧ p.slice = 0))

/-- Two records that share a tile with overlapping SRAM or vector registers. -/
def tilesMeet (p q : Plan) : Bool :=
  decide (p.tileMask &&& q.tileMask ≠ 0) &&
    (rangesMeet p.sramBase p.sramUnits q.sramBase q.sramUnits || rangesMeet p.vbase p.vregs q.vbase q.vregs)

/-- Threads of all records on a tile. -/
def tileThreads (ps : List Plan) (tile : Nat) : Nat :=
  ps.foldl (fun a p => if bitAt p.tileMask tile then a + p.threads else a) 0

/-- The parts of Table 5.1 fit within a record's KV region (R175), for the geometry in force; a region of no units holds no parts. -/
def kvFits (s : State) (p : Plan) : Bool :=
  let s := fset (setRegWord (setRegWord s (Reg.KVM_CTX_SEQ 0) p.kvSeq) (Reg.KVM_CTX_POOL 0) p.kvPool) (Reg.KVM_CTX_REG_BASE 0) 0
  if p.kvUnits = 0 then decide (kvSlots s 0 = 0 ∧ kvSeqMax s 0 = 0) else decide (kvNeeds s 0 ≤ p.kvUnits * 0x200000)

/-- The pinned copies of a record's role lie in its SRAM share on their tiles. -/
def pinsFit (img : Image) (p : Plan) : Bool :=
  (img.placement.filter (fun x => decide (x.role = p.role))).all (fun x =>
    bitAt p.tileMask x.tile && decide (p.sramBase ≤ x.unit_
      ∧ x.unit_ * 0x10000 + x.bytes ≤ (p.sramBase + p.sramUnits) * 0x10000))

/-- A real-time record's figures, entry point and trigger. -/
def realtimeOk (img : Image) (armed : Nat → Bool) (p : Plan) : Bool :=
  decide (p.cls = 0) ||
    (decide (62500 ≤ p.periodNs ∧ p.periodNs ≤ 2000000000 ∧ p.releaseNs < p.periodNs ∧ 0 < p.deadlineNs
        ∧ p.deadlineNs ≤ p.periodNs ∧ p.budgetNs ≤ p.deadlineNs ∧ p.triggerId < 64) && armed p.triggerId
      && ((img.entries[p.entryId]?).map (fun e => bitAt e.eflags 1)).getD false)

/-- The first record whose check fails. -/
def firstBad (n : Nat) (ok : Nat → Bool) (check : Nat) : Option (Nat × Nat) :=
  ((List.range n).find? (fun i => !ok i)).map (fun i => (i, check))

/-- The record and the check, by its position in R233's list, that refuse a plan. `s3` gives RUNTIME_CTX and stage 3's bytes. -/
def planFails (s : State) (img : Image) (armed : Nat → Bool) (s3 : Nat × Nat) (b : List Byte) : Option (Nat × Nat) :=
  let n := fieldAt b 0 2
  let raw := chunks n 64 (b.drop 64)
  let ps := raw.map parsePlan
  let rec_ (i : Nat) : Plan := ps.getD i (parsePlan [])
  let before (i : Nat) (p : Plan → Bool) : Bool := (ps.take i).all p
  let stage (i : Nat) : Nat := if i = s3.1 then s3.2 else 0
  let hosts := ps.filter Plan.golden
  if n = 0 ∨ 64 < n ∨ b.length < 64 + 64 * n ∨ allZero (slice b 2 62) = false ∨ allZero (b.drop (64 + 64 * n)) = false
  then some (0, 1)
  else
    (firstBad n (fun i => recordShape (raw.getD i [])) 1).or <|
    (firstBad n (fun i => decide ((rec_ i).sramBase + (rec_ i).sramUnits ≤ 128 ∧ (rec_ i).vbase + (rec_ i).vregs ≤ 64)
      && before i (fun q => !tilesMeet (rec_ i) q)
      && (setBitsOf (rec_ i).tileMask 48).all (fun t => decide (tileThreads (ps.take (i + 1)) t ≤ 128))) 2).or <|
    (firstBad n (fun i => decide (img.units + sumBefore Plan.lpUnits ps (i + 1) ≤ 98304)) 3).or <|
    (firstBad n (fun i => decide ((rec_ i).kvUnits + reservedUnits img (rec_ i).role (stage i) ≤ (rec_ i).lpUnits)) 4).or <|
    (firstBad n (fun i => decide (128 + sumBefore Plan.flashGib ps (i + 1) ≤ 1024)) 5).or <|
    (firstBad n (fun i => decide ((rec_ i).queueCount = 0 ∨ (16 ≤ (rec_ i).queueFirst
        ∧ (rec_ i).queueFirst + (rec_ i).queueCount ≤ 16384))
      && before i (fun q => !rangesMeet (rec_ i).queueFirst (rec_ i).queueCount q.queueFirst q.queueCount)) 6).or <|
    (firstBad n (fun i => kvFits s (rec_ i)) 7).or <|
    (firstBad n (fun i => realtimeOk img armed (rec_ i)) 8).or <|
    (firstBad n (fun i => !(rec_ i).excl || before i (fun q => !q.excl || decide ((rec_ i).tileMask &&& q.tileMask = 0))) 9).or <|
    (if hosts.length = 1 ∧ hosts.all (fun p => decide (p.cls = 1) && p.excl) = true then none
      else some (ps.findIdx Plan.golden % max n 1, 10)).or <|
    firstBad n (fun i => pinsFit img (rec_ i)) 11

/-! ### Creation (R234) -/

/-- Give a context its TILE_SHAREs (step 1). -/
def giveShares (c : Nat) (p : Plan) (s : State) : State :=
  forEach (setBitsOf p.tileMask 48) (fun t s =>
    fset (fset (fset (fset s (Reg.TILE_SHARE_BASE t c) p.sramBase) (Reg.TILE_SHARE_SIZE t c) p.sramUnits)
      (Reg.TILE_SHARE_VBASE t c) p.vbase) (Reg.TILE_SHARE_VCOUNT t c) p.vregs) s

/-- Assign the lowest-numbered UNASSIGNED threads on each tile (step 2). -/
def giveThreads (c : Nat) (p : Plan) (s : State) : State :=
  forEach (setBitsOf p.tileMask 48) (fun tile s =>
    let free := ((List.range 128).filter (fun t => decide ((thread s tile t).state = .unassigned))).take p.threads
    forEach free (fun t s => setThread s tile t { Thread.init with state := .idle, ctx := c }) s) s

/-- The KV region at the top of the share, loaded and initialised (step 4); a region of no units has nothing to initialise. -/
def giveKv (c lpBase : Nat) (p : Plan) (s : State) : State :=
  let s := fset (fset s (Reg.KVM_CTX_REG_BASE c) (lpBase + p.lpUnits - p.kvUnits)) (Reg.KVM_CTX_REG_SIZE c) p.kvUnits
  let s := setRegWord (setRegWord s (Reg.KVM_CTX_SEQ c) p.kvSeq) (Reg.KVM_CTX_POOL c) p.kvPool
  let s := kvInitRegion s c
  if p.kvUnits = 0 then s else fsetb s Reg.KVM_STATUS_INIT_BUSY true

/-- Zero the SRAM share and copy the pinned regions (step 6, R189). -/
def giveSram (img : Image) (c : Nat) (p : Plan) (s : State) : State :=
  let s := forEach (setBitsOf p.tileMask 48) (fun t s => memZero s (tileAddr t (p.sramBase * 0x10000)) (p.sramUnits * 0x10000)) s
  forEach (img.placement.filter (fun x => decide (x.role = p.role))) (fun x s =>
    let src := ((img.sections[x.section_]?).map (·.load)).getD 0 + x.src
    match badUnit s src x.bytes with
    | some u => reportUncorr s (max u src) secIsland c 0
    | none => memWrite s (tileAddr x.tile (x.unit_ * 0x10000)) (memRead s src x.bytes)) s

/-- The queue manager's registers of a context (step 8). -/
def giveSched (c : Nat) (p : Plan) (s : State) : State :=
  let s := fset (fset s (Reg.QMGR_CTX_STATE_ROLE c) p.role) (Reg.QMGR_CTX_SCHED_CLASS c) p.cls
  let s := fsetb (fsetb s (Reg.QMGR_CTX_SCHED_EXCL c) p.excl) (Reg.QMGR_CTX_SCHED_GOLDEN_HOST c) p.golden
  let s := fset (fset s (Reg.QMGR_CTX_SCHED_LANE c) p.lane) (Reg.QMGR_CTX_SCHED_PRIO c) p.prio
  let s := fset (fset s (Reg.QMGR_CTX_SCHED_SLICE c) p.slice) (Reg.QMGR_CTX_SCHED_MARGIN c) p.margin
  let s := fset (fset s (Reg.QMGR_CTX_TIMING_VALUE c 0) p.periodNs) (Reg.QMGR_CTX_TIMING_VALUE c 1) p.releaseNs
  let s := fset (fset s (Reg.QMGR_CTX_TIMING_VALUE c 2) p.deadlineNs) (Reg.QMGR_CTX_TIMING_VALUE c 3) p.budgetNs
  let s := fset (fset s (Reg.QMGR_CTX_RT_TRIGGER_ID c) p.triggerId) (Reg.QMGR_CTX_RT_ENTRY_ID c) p.entryId
  fset s (Reg.QMGR_CTX_STATE_STATE c) 1

/-- Build a context's page tables and set MEM_CTX_PTROOT and MEM_CTX_RSV (step 5); no translation of earlier tables is held. -/
def giveTables (img : Image) (c : Nat) (p : Plan) (lpBase s3 : Nat) (s : State) : State :=
  let s := buildTables img p.role s3 (lpBase * 0x200000) (invalidateAll c s)
  fset (fset s (Reg.MEM_CTX_PTROOT_ROOT c) (lpBase * 0x200)) (Reg.MEM_CTX_RSV_UNITS c) (reservedUnits img p.role s3)

/-- Create context `c` of a plan; `s3` is the bytes of stage 3 it carries. -/
def createCtx (img : Image) (c : Nat) (p : Plan) (lpBase flashBase s3 : Nat) (s : State) : State :=
  let s := giveThreads c p (giveShares c p s)
  let s := fset (fset s (Reg.MEM_CTX_LP_BASE c) lpBase) (Reg.MEM_CTX_LP_SIZE c) p.lpUnits
  let s := fset (fset s (Reg.MEM_CTX_FLASH_BASE c) flashBase) (Reg.MEM_CTX_FLASH_SIZE c) p.flashGib
  let s := giveKv c lpBase p (fsetb s (Reg.MEM_CTX_CFG_PLACE c) p.runtime)
  let s := giveSram img c p (giveTables img c p lpBase s3 s)
  let s := forRange p.queueCount (fun i s => fsetb (fset s (Reg.QMGR_QCFG_OWNER (p.queueFirst + i)) c)
    (Reg.QMGR_QCFG_EN (p.queueFirst + i)) false) s
  setCtx (giveSched c p s) c { Ctx.init with plan := some p, kvInit := decide (p.kvUnits ≠ 0) }

/-- Registers that belong to contexts: their window words, which return to reset values when the plan is replaced. -/
def ctxRegister (off : Nat) : Bool :=
  decide ((0x1000000 ≤ off ∧ 0x200 ≤ off % 0x100000 ∧ off % 0x100000 < 0x300) ∨ (0xA00100 ≤ off ∧ off < 0xA00800)
    ∨ (0x800100 ≤ off ∧ off < 0x900000) ∨ (0x910000 ≤ off ∧ off < 0x911000))

/-- Remove every context: threads, shares, regions, their queues' owners and contents. -/
def clearContexts (s : State) : State :=
  let qs := enabledQueues s ++ s.queues.map (·.1)
  let s := forEach (qs.filter (fun q => !isMgmt q)) (fun q s =>
    setQueue (fset (fsetb s (Reg.QMGR_QCFG_EN q) false) (Reg.QMGR_QCFG_OWNER q) 0) q Queue.init) s
  let s := mapUnits (fun _ _ => UnitState.init) (dropRegs ctxRegister s)
  { s with threads := [], launches := [], attends := [], ctxs := [], lanes := [], golden := none, stale := [] }

/-- Create the contexts of an accepted plan in record order (R234). -/
def createPlan (img : Image) (s3 : Nat × Nat) (b : List Byte) (s : State) : State :=
  let ps := planRecords b
  forEach ((List.range ps.length).zip ps) (fun (i, p) s =>
    createCtx img i p (img.units + sumBefore Plan.lpUnits ps i) (128 + sumBefore Plan.flashGib ps i)
      (if i = s3.1 then s3.2 else 0) s) s

/-- A pinned copy of a plan's contexts has an uncorrectable source. -/
def pinsUnread (s : State) (img : Image) (b : List Byte) : Bool :=
  (planRecords b).any (fun p => (img.placement.filter (fun x => decide (x.role = p.role))).any (fun x =>
    (badUnit s (((img.sections[x.section_]?).map (·.load)).getD 0 + x.src) x.bytes).isSome))

/-- The context whose record a refused plan names (R254); none beyond the contexts there are. -/
def refusedCtx (i : Nat) : Nat := if i < 64 then i else 0xFF

/-- Raise 0x2058 for record `i` and the failed check `k` (R233, R254). -/
def planRecord (s : State) (i k : Nat) : State := raiseCtx s 0x2058 69 (refusedCtx i) (u16 i ++ u8 k)

/-! ### Re-creation (R253) -/

/-- Commands accepted while the context was FAULTED and still waiting end with CANCELLED (R253). -/
def cancelWaiting (c : Nat) (s : State) : State :=
  forEach (ownedQueues s c) (fun q s =>
    forEach ((queue s q).out.filter (fun d => decide (d.phase = .waiting))) (fun d s => completeCmd s q d.n Status.cancelled 0) s) s

/-- Re-create a context on its shares. -/
def recreateCtx (c : Nat) (s : State) : State :=
  match (ctx s c).plan, s.image with
  | some p, some img =>
    let base := fget s (Reg.MEM_CTX_LP_BASE c)
    let s3 := match s.harebell.entry3 with
      | some (x, _, _) => if x = c then s.harebell.stage3Bytes else 0
      | none => 0
    let s := mapThreads (fun _ t => if t.ctx = c ∧ t.state ≠ .unassigned then Thread.init else t) s
    let s := giveKv c base p (giveThreads c p (giveShares c p s))
    let s := giveSram img c p (if fbit s (Reg.MEM_CTX_CFG_PLACE c) then s else giveTables img c p base s3 s)
    let s := cancelWaiting c s
    let s := forEach (ownedQueues s c) (fun q s => fsetb s (Reg.QMGR_QSTATE_TEARDOWN q) false) s
    let x := { Ctx.init with
      plan := some p, kvInit := decide (p.kvUnits ≠ 0), releaseAt := (ctx s c).releaseAt, lastFiring := (ctx s c).lastFiring }
    let s := fset (setCtx s c x) (Reg.QMGR_CTX_STATE_STATE c) 1
    let s := raiseCtx s 0x2057 69 c []
    rescheduleAll (if fbit s Reg.PLN_CFG_EN ∧ fget s Reg.PLN_CFG_OWNER = c then vetchDiscard 2 s else s)
  | _, _ => s

end Sys2Proof.Machine
end

