-- ==== Sys2Proof/Machine/Sched.lean ====
section
/-! DEFINITION. The deadline monitor and the slices as time passes (R241, R242, R246, R251), the end of a teardown and the
context reset (R252, R253). -/

namespace Sys2Proof.Machine

/-! ### Frames -/

/-- PRECLEAR in ns (R242). -/
def preclearNs (s : State) : Nat := (fget s Reg.QMGR_SCHED_CFG_NP_LIMIT + 21) * 1000

/-- Best-effort contexts with a tile of a mask. -/
def bestEffortOn (s : State) (mask : Nat) : List Nat :=
  s.ctxs.filterMap fun e => match e.2.plan with
    | some p => if p.cls = 0 ∧ p.tileMask &&& mask ≠ 0 then some e.1 else none
    | none => none

/-- In IMAGE_HOLD no whole-body frame runs (R193): no frame opens for the whole-body frame trigger. -/
def noFrameFor (s : State) (p : Plan) : Bool :=
  inDrowse s || (inHold s && decide (p.triggerId = fget s Reg.CTL_FRAME_CFG_TRIGGER_ID))

/-- A release comes due (R246): the frame opens, or is skipped while the previous one is open. Either way a pre-clear for it has
ended (R242): the open frame holds the bits clear from here. -/
def frameRelease (c : Nat) (s : State) : State :=
  match (ctx s c).releaseAt, (ctx s c).plan with
  | some r, some p =>
    let s := setCtx s c { ctx s c with releaseAt := none, preclear := none }
    if ctxActive s c = false ∨ noFrameFor s p = true then rescheduleAll s
    else if (ctx s c).frame.isSome then rescheduleAll (raiseCtx (finc s (Reg.QMGR_CTX_CNT_COUNT c 4)) 0x2053 69 c [])
    else
      let s := setCtx s c { ctx s c with frame := some ⟨r, r + p.deadlineNs, none⟩ }
      let s := fset (fsetb s (Reg.QMGR_CTX_STATE_FRAME_OPEN c) true) (Reg.QMGR_CTX_STATE_LEVEL c) 0
      let s := finc s (Reg.QMGR_CTX_CNT_COUNT c 0)
      let s := if p.excl then forEach (bestEffortOn s p.tileMask) (fun d s => cutDeferral s d p.tileMask) s else s
      rescheduleAll s
  | _, _ => s

/-- FRAME_RELEASE. -/
def execFrameRelease (c : Nat) (s : State) : Out :=
  whenAlive s (fun s =>
    match (ctx s c).releaseAt with
    | none => .next s
    | some r => if c < 64 ∧ r ≤ s.time then .next (frameRelease c s) else .next s)

/-- The expected release of a context: a pending one, or the next firing's (R242). -/
def nextRelease (s : State) (c : Nat) (p : Plan) : Option Nat :=
  match (ctx s c).releaseAt with
  | some r => some r
  | none => if trigArmed s p.triggerId then some (near s (trigNext s p.triggerId) + p.releaseNs) else none

/-- PRECLEAR (R242): the clear is requested before an EXCL release. -/
def execPreclear (c : Nat) (s : State) : Out :=
  whenAlive s (fun s =>
    match (ctx s c).plan with
    | none => .next s
    | some p => match nextRelease s c p with
      | none => .next s
      | some r =>
        if c < 64 ∧ ctxActive s c = true ∧ p.excl = true ∧ (ctx s c).preclear = none ∧ inDrowse s = false ∧ r ≤ s.time + preclearNs s
        then
          let s := forEach ((bestEffortOn s p.tileMask).map (fun d => (d, runMask s d p.tileMask))) (fun (d, m) s => deferClear s d m) s
          .next (rescheduleAll (setCtx s c { ctx s c with preclear := some r }))
        else .next s)

/-- PRECLEAR_LIFT (R242): no release came at the expected instant. -/
def execPreclearLift (c : Nat) (s : State) : Out :=
  whenAlive s (fun s =>
    match (ctx s c).preclear with
    | none => .next s
    | some r =>
      if c < 64 ∧ (ctx s c).releaseAt = none ∧ r + 1000 ≤ s.time
      then .next (rescheduleAll (setCtx s c { ctx s c with preclear := none })) else .next s)

/-! ### Slices -/

/-- SLICE_END (R239, R241). -/
def execSliceEnd (l : Nat) (s : State) : Out :=
  whenAlive s (fun s =>
    let x := lane s l
    if l < 8 ∧ x.holder.isSome = true ∧ x.start + x.length ≤ s.time
    then .next (rescheduleAll (dropHolder s l)) else .next s)

/-- NP_FORCED (R241): a deferral reaches NP_LIMIT. -/
def execNpForced (c : Nat) (s : State) : Out :=
  whenAlive s (fun s =>
    match (ctx s c).deferral with
    | none => .next s
    | some d =>
      if c < 64 ∧ d.since + fget s Reg.QMGR_SCHED_CFG_NP_LIMIT * 1000 ≤ s.time
      then .next (rescheduleAll (raiseCtx (finc (endDeferral s c) (Reg.QMGR_CTX_CNT_COUNT c 6)) 0x2055 69 c []))
      else .next s)

/-! ### Golden frames (R251) -/

/-- The GOLDEN_HOST context with its record. -/
def goldenHost (s : State) : Option (Nat × Plan) :=
  s.ctxs.findSome? fun e => match e.2.plan with
    | some p => if p.golden then some (e.1, p) else none
    | none => none

/-- The KIND 3 entry point. -/
def netEntry (s : State) : Option (Nat × Entry) :=
  match s.image with
  | none => none
  | some i => ((List.range i.entries.length).zip i.entries).find? (fun e => decide (e.2.kind = 3))

/-- GOLDEN_MAX in ns. -/
def goldenMaxNs (s : State) : Nat := fget s Reg.QMGR_SCHED_CFG_GOLDEN_MAX * 1000000

/-- A golden-frame window is open: no host frame is open, and PRECLEAR and the budget fit before the next host release. -/
def goldenWindow (s : State) (c : Nat) (p : Plan) : Bool :=
  (ctx s c).frame.isNone && (match nextRelease s c p with
    | none => true
    | some r => decide (s.time + preclearNs s + fget s Reg.QMGR_SCHED_CFG_GOLDEN_BUDGET * 10000 ≤ r))

/-- Start the golden launch: every thread the host has on its tiles runs the KIND 3 entry point. Who gives ARG_VA is not stated
(log entry 33): a free value. -/
def startGolden (c : Nat) (p : Plan) (e : Nat) (en : Entry) (s : State) : State :=
  let tiles := setBitsOf p.tileMask 48
  let run := ((bestEffortOn s p.tileMask).filter (ctxPending s)).map (fun d => (d, runMask s d p.tileMask))
  let s := forEach (run.filter (fun e => decide (e.2 ≠ 0)))
    (fun (d, m) s => finc (deferClear s d m) (Reg.QMGR_CTX_CNT_COUNT d 7)) s
  let id := s.nextLaunch
  let (f, s) := takeFree s
  let l : Launch := ⟨id, c, 16384, 0, e, p.threads, 0, [], false, false, s.time, true, none⟩
  let s := { s with launches := s.launches ++ [l], nextLaunch := id + 1, golden := some id, goldenAt := s.time, goldenLate := false }
  rescheduleAll (startThreads c id (imageVa + en.code.getD 0 0) ((Config.freeWord f).toNat % 2 ^ 48) p.threads tiles.length 0 tiles s)

/-- GOLDEN_FRAME_START (R251): in the first window without best-effort work on the host's tiles, or after GOLDEN_MAX anyway. -/
def execGoldenFrameStart (s : State) : Out :=
  whenAlive s (fun s =>
    match goldenHost s, netEntry s with
    | some (c, p), some (e, en) =>
      let tiles := setBitsOf p.tileMask 48
      let busy := (bestEffortOn s p.tileMask).any (fun d => ctxPending s d && tiles.any (fun t => runBit s t d))
      let idle := tiles.all (fun t => decide (p.threads ≤ (idleThreads s t c).length))
      if ctxActive s c = true ∧ s.golden = none ∧ inDrowse s = false ∧ inHold s = false ∧ idle = true ∧ goldenWindow s c p = true
          ∧ (busy = false ∨ s.goldenAt + goldenMaxNs s ≤ s.time)
      then .next (startGolden c p e en s) else .next s
    | _, _ => .next s)

/-- GOLDEN_OVERDUE (R251): no window within 2 × GOLDEN_MAX. -/
def execGoldenOverdue (s : State) : Out :=
  whenAlive s (fun s =>
    match goldenHost s with
    | none => .next s
    | some (c, _) =>
      if s.golden = none ∧ s.goldenLate = false ∧ inDrowse s = false ∧ s.goldenAt + 2 * goldenMaxNs s ≤ s.time
      then .next (raiseCtx { s with goldenLate := true } 0x2059 69 c []) else .next s)

/-! ### Teardown and reset -/

/-- TEARDOWN_COMPLETE (R252 step 5, R253). -/
def execTeardownComplete (c : Nat) (s : State) : Out :=
  if c < 64 ∧ ctxState s c = 2 ∧ (ownedQueues s c).all (fun q => decide (outstanding s q = 0)) = true then
    .next (if (ctx s c).resetStarted then recreateCtx c s else fset s (Reg.QMGR_CTX_STATE_STATE c) 3)
  else .next s

/-- A write of QMGR_CTX_STATE.RESET (R252, R253). -/
def ctxResetWrite (c : Nat) (s : State) : State :=
  if ctxState s c = 1 then beginTeardown (setCtx s c { ctx s c with resetStarted := true }) c 5 none
  else if ctxState s c = 3 then recreateCtx c s
  else raiseCtx s 0x205A 69 c []

end Sys2Proof.Machine
end

