-- ==== Sys2Proof/Machine/Sets.lean ====
section
/-! DEFINITION. Configuration sets (R528 to R530): their layout (log entry 34), verification, the block chapters' refusals, and how
every block takes a set's values, at bring-up and at a commit. -/

namespace Sys2Proof.Machine

/-! ### Areas and headers -/

/-- First MRAM byte of a set area (R520). -/
def areaBase (a : Nat) : Nat := 0x200000 + a * 0xC0000

/-- Bytes of a set area. -/
def areaBytes : Nat := 0xC0000

/-- Bytes of a set area. -/
def areaRead (s : State) (a off n : Nat) : List Byte := storeGetList (fun _ => 0) s.harebell.areas (areaBase a + off) n

/-- The first uncorrectable word of a set area (R444). -/
def areaUncorr (s : State) (a n : Nat) : Option Nat :=
  s.harebell.areaBad.find? (fun w => decide (areaBase a ≤ w ∧ w < areaBase a + n))

/-- A set's header. -/
def setHead (s : State) (a : Nat) : List Byte := areaRead s a 0 256

/-- SET_VERSION, IMAGE_SLOT, IMAGE_ID of a header. -/
def headVersion (h : List Byte) : Nat := fieldAt h 16 4
/-- IMAGE_SLOT. -/
def headSlot (h : List Byte) : Nat := fieldAt h 20 1
/-- IMAGE_ID. -/
def headImage (h : List Byte) : Nat := fieldAt h 64 8

/-- A record of a set: TYPE, its reserved bytes, its contents. -/
structure SetRecord where
  type     : Nat
  reserved : Nat
  bytes    : List Byte
  deriving DecidableEq, Repr

/-- The records of a body, when they fill it exactly. -/
def parseRecords : (count : Nat) → List Byte → Option (List SetRecord)
  | 0, b => if b = [] then some [] else none
  | n + 1, b =>
    let size := fieldAt b 4 4
    let padded := (size + 7) / 8 * 8
    if b.length < 8 + padded then none
    else match parseRecords n (b.drop (8 + padded)) with
      | none => none
      | some l => some (⟨fieldAt b 0 2, fieldAt b 2 2, slice b 8 size⟩ :: l)

/-- A set's body and records as they stand in its area. -/
def setRecords (s : State) (a : Nat) : Option (List SetRecord) :=
  let h := setHead s a
  let n := fieldAt h 28 2
  if 1 ≤ n ∧ n ≤ 12 ∧ 256 + fieldAt h 24 4 ≤ areaBytes then parseRecords n (areaRead s a 256 (fieldAt h 24 4)) else none

/-- The check of R529, by its position in the list, that a set fails. -/
def setFails (s : State) (a : Nat) : Option Nat :=
  let h := setHead s a
  let sig := areaRead s a (fieldAt h 72 4) (min (fieldAt h 76 4) 0x5000)
  let body := areaRead s a 256 (min (fieldAt h 24 4) areaBytes)
  if fieldAt h 0 4 ≠ 0x4B435331 ∨ fieldAt h 4 2 ≠ 1 ∨ areaBytes < fieldAt h 72 4 + fieldAt h 76 4
      ∨ (areaUncorr s a areaBytes).isSome = true ∨ blockFails 1 false h sig ≠ 0 ∨ sha256 body ≠ slice h 32 32 then some 1
  else if headVersion h < minValue s 4 then some 2
  else if allZero (slice h 6 2) = false ∨ allZero (slice h 21 3) = false ∨ allZero (slice h 30 2) = false
      ∨ allZero (slice h 80 176) = false then some 3
  else if 1 < headSlot h then some 4
  else match setRecords s a with
    | none => some 5
    | some l =>
      if l.all (fun r => decide (r.reserved = 0)) = false then some 3
      else if l.all (fun r => decide (1 ≤ r.type ∧ r.type ≤ 12)) = false ∨ ¬ (l.map (·.type)).Nodup then some 6
      else if [1, 2, 9].all (fun t => l.any (fun r => decide (r.type = t))) = false then some 7
      else none

/-- Contents of the record of a type. -/
def setPart (l : List SetRecord) (type : Nat) : Option (List Byte) := (l.find? (fun r => decide (r.type = type))).map (·.bytes)

/-- The records of an area, or none. -/
def setOf (s : State) (a : Nat) : List SetRecord := (setRecords s a).getD []

/-! ### Layout (log entry 34) -/

/-- Registers a set supplies: record type, position in its contents, window offset. -/
def setRegs : List (Nat × Nat × Nat) :=
  ((List.range 2).map (fun p => (3, 520 * p, Reg.NET_GCL_CFG p)))
    ++ [(4, 0, Reg.TIME_CFG), (4, 4, Reg.TIME_LOCK), (4, 8, Reg.TIME_DOM_CFG 0), (4, 12, Reg.TIME_DOM_CFG 1)]
    ++ [(5, 0, Reg.CTL_FRAME_CFG)] ++ ((List.range 5).map (fun r => (5, 4 + 4 * r, Reg.CTL_RATE_TRIG r)))
    ++ ((List.range 128).map (fun k => (5, 24 + 4 * k, Reg.CTL_GROUP 0 + 4 * k)))
    ++ ((List.range 256).flatMap (fun l => [(5, 536 + 8 * l, Reg.CTL_LOOP_CFG l), (5, 540 + 8 * l, Reg.CTL_LOOP_BIND l)]))
    ++ ((List.range 8).map (fun p => (6, 4 * p, Reg.RING_PORT_CFG p)))
    ++ ((List.range 128).flatMap (fun k => [(6, 32 + 12 * k, Reg.RING_NODE_LAYOUT (k / 16) (k % 16)),
      (6, 36 + 12 * k, Reg.RING_NODE_VENDOR (k / 16) (k % 16)), (6, 40 + 12 * k, Reg.RING_NODE_PRODUCT (k / 16) (k % 16))]))
    ++ [(8, 0, Reg.PLN_CFG), (8, 8, Reg.PLN_MAP_REG), (8, 12, Reg.PLN_MAP_REG + 4), (8, 16, Reg.PLN_WORK_REG),
      (8, 20, Reg.PLN_WORK_REG + 4), (9, 0, Reg.SAFE_CFG), (9, 4, Reg.SAFE_SETTLE), (10, 0, Reg.PWR_CFG), (10, 4, Reg.PWR_CAP),
      (11, 0, Reg.LINK_CFG)]

/-- Bits of a set's register that it supplies: the RW bits, or the fields of the registers that only a set writes. -/
def setMask (off : Nat) : Nat :=
  if off = Reg.PLN_CFG then 0x3FFF01
  else if off / 0x100000 = 7 then 0x1FFFF
  else if off = Reg.SAFE_CFG then 0xFFFFFFFF
  else if off = Reg.SAFE_SETTLE then 0x3FF
  else match regFind off with
    | none => 0
    | some (r, _, _, w) => r.rw / 2 ^ (32 * w) % 2 ^ 32

/-- The word a set gives a register: its record's, or the reset value where the set has no record of that type. -/
def setWord (l : List SetRecord) (e : Nat × Nat × Nat) : Nat :=
  match setPart l e.1 with
  | none => (resetWord e.2.2).toNat
  | some b => fieldAt b e.2.1 4

/-- A register with the set's bits. -/
def withSetBits (s : State) (off v : Nat) : Nat :=
  let m := setMask off
  (regWord s off &&& (2 ^ 32 - 1 - m)) ||| (v &&& m)

/-- Store a set's value of a register. -/
def storeSetReg (l : List SetRecord) (e : Nat × Nat × Nat) (s : State) : State :=
  setRegWord s e.2.2 (withSetBits s e.2.2 (setWord l e))

/-- Store the set's registers of some slots of the window. -/
def storeSetRegs (l : List SetRecord) (slots : List Nat) (s : State) : State :=
  forEach (setRegs.filter (fun e => slots.contains (e.2.2 / 0x100000))) (fun e s => storeSetReg l e s) s

/-- Image loading gives SP_SRC 1 to the loops that TOLERANCE names (R264). -/
def commitLoops (named : List Nat) (s : State) : State := forEach named (fun k s => fset s (Reg.CTL_LOOP_CFG_SP_SRC k) 1) s

/-- Trigger record `i` of a set. -/
def setTrigger (l : List SetRecord) (i : Nat) : List Byte := padTo 32 (slice ((setPart l 2).getD []) (32 * i) 32)

/-- Gate-list entries of port `p` of a set. -/
def setGates (l : List SetRecord) (p : Nat) : List (Nat × Nat) :=
  let b := (setPart l 3).getD []
  gateList 64 (slice b (520 * p + 8) 512)

/-- Default coefficient record of loop `k`, when the set has one. -/
def setCoefs (l : List SetRecord) (k : Nat) : Option (List Word) :=
  (setPart l 5).map (fun b => bytesToWords 32 (slice b (2584 + 128 * k) 128))

/-- Teasel rule `r` of a set. -/
def setTeasel (l : List SetRecord) (r : Nat) : List Byte := padTo 32 (slice ((setPart l 6).getD []) (1568 + 32 * r) 32)

/-- Stream descriptor `k`, group descriptor `g`, slot record `j` of a set. -/
def setStreamDesc (l : List SetRecord) (k : Nat) : List Byte := padTo 64 (slice ((setPart l 7).getD []) (64 * k) 64)
/-- Group descriptor. -/
def setGroupDesc (l : List SetRecord) (g : Nat) : List Byte := padTo 32 (slice ((setPart l 7).getD []) (8192 + 32 * g) 32)
/-- Factory record of a slot. -/
def setSlotRecord (l : List SetRecord) (j : Nat) : List Byte := padTo 64 (slice ((setPart l 7).getD []) (8448 + 64 * j) 64)

/-- Limit, timing and trajectory records of a set. -/
def setSafety (l : List SetRecord) : List (List Byte) × List (List Byte) × List (List Byte) :=
  let b := (setPart l 9).getD []
  let nl := fieldAt b 8 2
  let nt := fieldAt b 10 2
  let nr := fieldAt b 12 2
  (chunks nl 16 (b.drop 16), chunks nt 8 (b.drop (16 + 16 * nl)), chunks nr 80 (b.drop (16 + 16 * nl + 8 * nt)))

/-- The records have the sizes of the layout. -/
def setSizes (l : List SetRecord) : Bool :=
  l.all (fun r =>
    let n := r.bytes.length
    if r.type = 2 then decide (n % 32 = 0 ∧ n ≤ 2048)
    else if r.type = 9 then
      decide (n = 16 + 16 * fieldAt r.bytes 8 2 + 8 * fieldAt r.bytes 10 2 + 80 * fieldAt r.bytes 12 2 ∧ fieldAt r.bytes 14 2 = 0)
    else if r.type = 12 then decide (64 ≤ n)
    else match [(3, 1040), (4, 16), (5, 35352), (6, 9760), (7, 10496), (8, 24), (10, 8), (11, 4)].lookup r.type with
      | some k => decide (n = k)
      | none => true)

/-! ### The block chapters' refusals -/

/-- A state that holds the set's values, each trigger armed as its ARMED_DEFAULT says: what the checks of the blocks read. `named` are
the loops of the image's TOLERANCE section. -/
def setProbe (l : List SetRecord) (named : List Nat) (s : State) : State :=
  let s := commitLoops named (storeSetRegs l [0x2, 0x3, 0x4, 0x5, 0x7, 0xB, 0xD, 0xE] s)
  let s := forRange 64 (fun i s =>
    let r := setTrigger l i
    fsetb (modTime s (fun t => { t with records := storeSet (fun _ => trigInit) t.records i r })) (Reg.TIME_TRIG_STATE_ARMED i)
      (trigDefault r)) s
  let s := forRange 256 (fun r s => setRule s r (setTeasel l r)) s
  modSafety s (fun x => { x with limitRecs := (setSafety l).1, timingRecs := (setSafety l).2.1, trajRecs := (setSafety l).2.2 })

/-- Time records: Table 11.3, the registers of R337, the gate lists of R333. -/
def timeSetOk (l : List SetRecord) (p : State) : Bool :=
  (List.range 64).all (fun i => trigRecordOk (setTrigger l i))
    && [Reg.TIME_CFG, Reg.TIME_LOCK, Reg.TIME_DOM_CFG 0, Reg.TIME_DOM_CFG 1, Reg.NET_GCL_CFG 0, Reg.NET_GCL_CFG 1].all
        (fun off => timeCfgOk p off (regWord p off))
    && (List.range 2).all (fun k =>
      let g := (setGates l k).take (fget p (Reg.NET_GCL_CFG_ENTRIES k))
      let period := trigPeriod (trigRecord p (fget p (Reg.NET_GCL_CFG_TRIGGER_ID k)))
      !fbit p (Reg.NET_GCL_CFG_EN k) || (g.all (fun e => decide (100 ≤ e.2 ∧ e.2 ≤ 1000000000))
        && decide (period ≠ 0 ∧ (g.map (·.2)).foldl (· + ·) 0 ≤ period)))

/-- Yarrow's refusals (R264, R266, R278, R326): SP_SRC 1 stands only on the loops `named` by TOLERANCE. -/
def loopSetOk (l : List SetRecord) (named : List Nat) (p : State) : Bool :=
  (List.range 256).all (fun k => loopShapeOk p k && loopRateOk p k && loopWordOk p k
      && (!loopCommitted p k || named.contains k) && (match setCoefs l k with | some c => coefValid c | none => true))
    && (List.range 64).all (groupOk p) && (List.range 5).all (rateTrigOk p) && frameCfgOk p

/-- The rings' refusals (R286, R293, R298, R326). -/
def ringSetOk (p : State) : Bool :=
  (List.range 8).all (portOk p (trigArmed p)) && p.rings.rules.all (fun e => ruleShapeOk e.2)

/-- LPDDR5X bytes of each context's share in a set. -/
def planShare (l : List SetRecord) (c : Nat) : Nat :=
  ((planRecords ((setPart l 1).getD []))[c]?.map (fun p => p.lpUnits * 0x200000)).getD 0

/-- Tile SRAM bytes of each context's share in a set, over its tiles. -/
def planSram (l : List SetRecord) (c : Nat) : Nat :=
  ((planRecords ((setPart l 1).getD []))[c]?.map (fun p => (setBitsOf p.tileMask 48).length * p.sramUnits * 0x1000)).getD 0

/-- The sensors' refusals (R342, R347, R360). -/
def sensorSetOk (l : List SetRecord) (p : State) : Bool :=
  let ss := (List.range 128).map (fun k => { Stream.init with desc := setStreamDesc l k })
  let period (t : Nat) : Option Nat := if trigArmed p t then some (trigPeriod (trigRecord p t)) else none
  ss.all (streamOk p (planShare l)) && (List.range 128).all (fun k => (ss.drop (k + 1)).all (ringsApart (ss.getD k Stream.init)))
    && (List.range 8).all (fun g => fuseGroupOk p period (fun c => max (planShare l c) (planSram l c)) ss g { Group.init with desc := setGroupDesc l g })
    && (setPart l 7 |>.map (fun _ => (List.range 32).all (fun j => allZero (setSlotRecord l j) || slotOk (setSlotRecord l j)))).getD true

/-- Vetch's refusals. -/
def planSetOk (l : List SetRecord) (units : Nat) (p : State) : Bool :=
  let ps := planRecords ((setPart l 1).getD [])
  let o := fget p Reg.PLN_CFG_OWNER
  match ps[o]? with
  | none => fbit p Reg.PLN_CFG_EN = false && plnRegsOk (regWord p Reg.PLN_CFG) (reg64 p Reg.PLN_MAP_REG) (reg64 p Reg.PLN_WORK_REG) 0 0 0
  | some c => plnRegsOk (regWord p Reg.PLN_CFG) (reg64 p Reg.PLN_MAP_REG) (reg64 p Reg.PLN_WORK_REG)
      (units + sumBefore Plan.lpUnits ps o) c.lpUnits c.kvUnits

/-- A trajectory record keeps Table 14.7. -/
def trajectoryOk (b : List Byte) : Bool :=
  let k := fieldAt b 1 1
  let tol := val32 (BitVec.ofNat 32 (fieldAt b 4 4))
  decide (1 ≤ k ∧ k ≤ 8) && allZero (slice b 2 2) && allZero (slice b 72 8) && Num.lt .zero tol
    && (List.range 8).all (fun i =>
      if i < k then decide (i = 0 ∨ fieldAt b (8 * i) 4 < fieldAt b (8 + 8 * i) 4)
      else allZero (slice b (8 + 8 * i) 8))

/-- A limit record keeps Table 14.3. -/
def limitOk (p : State) (b : List Byte) : Bool :=
  decide (fieldAt b 0 1 ≤ 7 ∧ fieldAt b 1 1 ≤ 15 ∧ fieldAt b 3 1 ≤ 1 ∧ fieldAt b 4 1 < 16 ∧ 1 ≤ fieldAt b 5 1 ∧ fieldAt b 6 2 = 0
    ∧ sint 32 (fieldAt b 8 4) ≤ sint 32 (fieldAt b 12 4)
    ∧ fieldAt b 2 1 < fget p (Reg.RING_NODE_LAYOUT_FB_WORDS (fieldAt b 0 1) (fieldAt b 1 1)))

/-- The safety chapter's refusals (R416). -/
def safetySetOk (l : List SetRecord) (p : State) : Bool :=
  let trajs := p.safety.trajRecs
  let settle := fget p Reg.SAFE_SETTLE_SETTLE_MS
  let timeout := fget p Reg.SAFE_CFG_TIMEOUT_MS
  let cmp := fget p Reg.SAFE_CFG_COMPARE_US
  let disc := fget p Reg.SAFE_CFG_STOP_DISC_MS
  let ps := planRecords ((setPart l 1).getD [])
  decide (p.safety.limitRecs.length ≤ 512 ∧ p.safety.timingRecs.length ≤ 8)
    && (List.range 256).all (fun k => !loopCommitted p k || decide ((trajs.filter (fun r => decide (fieldAt r 0 1 = k))).length = 1))
    && trajs.all (fun r => trajectoryOk r && loopCommitted p (fieldAt r 0 1)
      && decide (fieldAt r (8 * fieldAt r 1 1) 4 + settle < timeout)) && decide ((trajs.map (fun r => fieldAt r 0 1)).Nodup)
    && decide (cmp + 31 ≤ fget p Reg.CTL_FRAME_CFG_COMMIT_US) && p.safety.limitRecs.all (limitOk p)
    && p.safety.timingRecs.all (fun b => (ps[fieldAt b 0 2]?.map (fun c => decide (c.cls = 1))).getD false && decide (fieldAt b 6 2 = 0))
    && decide (100 ≤ cmp ∧ cmp ≤ 979 ∧ 500 ≤ timeout ∧ timeout ≤ 10000 ∧ 1 ≤ disc ∧ disc ≤ 100 ∧ 10 ≤ settle ∧ settle ≤ 1000)

/-- Values of PWR_CFG in range (R487). -/
def pwrCfgOk (v : Nat) : Bool :=
  decide (1 ≤ bits v 31 24 ∧ bits v 31 24 ≤ 50 ∧ 70 ≤ bits v 23 16 ∧ bits v 23 16 ≤ 110 ∧ 1 ≤ bits v 11 8)

/-- Values of PWR_CAP in range (R473, R487). -/
def pwrCapOk (v : Nat) : Bool :=
  decide (60 ≤ bits v 15 0 ∧ bits v 15 0 ≤ 300 ∧ bits v 15 0 ≤ bits v 31 16 ∧ bits v 31 16 ≤ 380)

/-- The loops that the resident image's TOLERANCE section names. -/
def imageLoops (s : State) : List Nat := (s.image.map (fun i => i.tolerance.map (·.loop))).getD []

/-- Units of the image a set names. -/
def unitsOf (slot : Nat) (s : State) : Nat :=
  let here := (s.image.map (·.units)).getD 0
  if (s.image.map (·.slot)) = some slot then here
  else match imageHead s slot with
    | .ok (h, _) => fieldAt h 28 4
    | .error _ => here

/-- Loops that the TOLERANCE section of the image a set names gives (R188). -/
def namedOf (slot : Nat) (s : State) : List Nat :=
  if (s.image.map (·.slot)) = some slot then imageLoops s
  else match imageHead s slot with
    | .ok (_, secs) => match oneSection secs 8 with
      | some x =>
        let b := flashRead s (slotBase slot + x.file) (16 + 16 * 256)
        (chunks (min (fieldAt b 0 2) 256) 16 (b.drop 16)).map (fun r => (parseTolerance r).loop)
      | none => imageLoops s
    | .error _ => imageLoops s

/-- Every refusal of the block chapters but the context plan's, for the image in the slot the set names. -/
def blocksAccept (l : List SetRecord) (slot : Nat) (s : State) : Bool :=
  let named := namedOf slot s
  let units := unitsOf slot s
  let p := setProbe l named s
  setSizes l && timeSetOk l p && loopSetOk l named p && ringSetOk p && sensorSetOk l p && planSetOk l units p && safetySetOk l p
    && pwrCfgOk (regWord p Reg.PWR_CFG) && pwrCapOk (regWord p Reg.PWR_CAP) && linkCfgOk (regWord p Reg.LINK_CFG)

/-- Triggers that a set would arm, for the plan's checks. -/
def setArmed (l : List SetRecord) (t : Nat) : Bool := decide (t < 64) && trigDefault (setTrigger l t)

/-- RUNTIME_CTX and the bytes of stage 3 (R522). -/
def stage3Of (s : State) : Nat × Nat :=
  match s.harebell.entry3 with
  | some (c, _, _) => (c, s.harebell.stage3Bytes)
  | none => (64, 0)

/-! ### Blocks take their values -/

/-- Triggers whose record changed take it and are armed anew (R331). -/
def takeTriggers (l : List SetRecord) (s : State) : State :=
  forRange 64 (fun i s => if setTrigger l i = trigRecord s i then s else rearmTrigger i (setTrigger l i) s) s

/-- The registers of R337 and the gate lists (R335). -/
def takeTimes (l : List SetRecord) (s : State) : State :=
  let s := forEach (setRegs.filter (fun e => timeCfgReg e.2.2)) (fun e s =>
    if withSetBits s e.2.2 (setWord l e) = regWord s e.2.2 then s else timeCfgApply e.2.2 (storeSetReg l e s)) s
  forRange 2 (fun p s => setNetPort s p { netPort s p with entries := setGates l p }) s

/-- Yarrow at a SET_COMMIT (R267): OFF loops take the configuration, other differences are recorded and wait for the loops to be
disabled; default records go into the idle banks. -/
def takeLoops (l : List SetRecord) (s : State) : State :=
  let t := commitLoops (imageLoops s) (storeSetRegs l [0x4] s)
  let s := modYarrow s (fun y => { y with later := [] })
  let s := forEach (setRegs.filter (fun e => decide (e.2.2 / 0x100000 = 4))) (fun e s =>
    let v := regWord t e.2.2
    if v = regWord s e.2.2 then s
    else if ctlFree s t e.2.2 then setRegWord s e.2.2 v
    else raise (modYarrow s (fun y => { y with later := y.later ++ [(e.2.2, BitVec.ofNat 32 v)] })) 0x4004 yarrowIsland (regData e.2.2)) s
  forRange 256 (fun k s => match setCoefs l k with
    | some c => setLoop s k ((loop s k).setIdle c)
    | none => s) s

/-- Every loop swaps its bank at its first boundary from now on (R267). -/
def askSwaps (l : List SetRecord) (s : State) : State :=
  if (setPart l 5).isSome then
    forRange 256 (fun k s => setLoop s k { loop s k with reqs := (loop s k).reqs ++ [⟨.swap, s.time, none⟩] }) s
  else s

/-- A set's words of ring port `p`. -/
def portRegs (p : Nat) : List (Nat × Nat × Nat) :=
  setRegs.filter (fun e => decide (Reg.RING_PORT_CFG p ≤ e.2.2 ∧ e.2.2 < Reg.RING_PORT_CFG (p + 1)))

/-- A ring port at a SET_COMMIT (R310): in OFF or LINK it takes its words, otherwise they wait for LINK. -/
def takePort (l : List SetRecord) (p : Nat) (s : State) : State :=
  let new := (portRegs p).map (fun e => (e.2.2, withSetBits s e.2.2 (setWord l e)))
  if portState s p ≤ 1 then
    let s := forEach new (fun (off, v) s => setRegWord s off v) (setRport s p { rport s p with later := [] })
    settleEn p s
  else
    let diff := new.filter (fun e => decide (regWord s e.1 ≠ e.2))
    let s := setRport s p { rport s p with later := diff.map (fun e => (e.1, BitVec.ofNat 32 e.2)) }
    if diff.isEmpty then s else raise s 0x4107 ringIsland (u16 p)

/-- A Teasel rule at a SET_COMMIT (R310). -/
def takeRule (l : List SetRecord) (r : Nat) (s : State) : State :=
  let b := setTeasel l r
  if b = rule s r then s
  else fsetb (fsetb (setRule s r b) (Reg.RING_RULE_STATE_ARMED r) (bitAt (ruleByte b 3) 3))
    (Reg.RING_RULE_STATE_LATCHED r) false

/-- The rings take a set. -/
def takeRings (l : List SetRecord) (s : State) : State := forRange 256 (takeRule l) (forRange 8 (takePort l) s)

/-- The sensors take a set (R363). -/
def takeSensors (l : List SetRecord) (s : State) : State :=
  let s := forRange 128 (fun k s => loadStream k (setStreamDesc l k) s) s
  let s := forRange 8 (fun g s => loadGroup g (setGroupDesc l g) s) s
  forRange 32 (fun j s => loadSlot j (setSlotRecord l j) s) s

/-- Vetch takes a set (R389). -/
def takeVetch (l : List SetRecord) (s : State) : State :=
  let t := storeSetRegs l [0x7] s
  let moved := decide (fget t Reg.PLN_CFG_OWNER ≠ fget s Reg.PLN_CFG_OWNER ∨ reg64 t Reg.PLN_MAP_REG ≠ reg64 s Reg.PLN_MAP_REG
    ∨ reg64 t Reg.PLN_WORK_REG ≠ reg64 s Reg.PLN_WORK_REG)
  let t := fsetb t Reg.PLN_STATUS_EN (fbit t Reg.PLN_CFG_EN)
  let t := { t with vetch := { t.vetch with nextPitch := fget t Reg.PLN_CFG_PITCH_MS } }
  if moved then vetchReplace t else t

/-- The safety blocks take a set. -/
def takeSafety (l : List SetRecord) (s : State) : State :=
  let (a, b, c) := setSafety l
  modSafety (storeSetRegs l [0xB] s) (fun x => { x with
    limits := if a = x.limitRecs then x.limits else [],
    history := if b = x.timingRecs then x.history else [],
    limitRecs := a, timingRecs := b, trajRecs := c })

/-- Mallow takes a set (R487); a changed FIXED ramps the rail (R479). Reductions of POWER_CAP_SET stay at most the set's caps. -/
def takePower (l : List SetRecord) (s : State) : State :=
  let was := fget s Reg.PWR_CFG_FIXED
  let s := storeSetRegs l [0x2] s
  let now := fget s Reg.PWR_CFG_FIXED
  let lower (v : Option Nat) (cap : Nat) : Option Nat := v.bind (fun x => if x < cap then some x else none)
  let s := modPower s (fun p => { p with capS := lower p.capS (fget s Reg.PWR_CAP_CAP_S), capP := lower p.capP (fget s Reg.PWR_CAP_CAP_P) })
  let waiter := (s.power.ramp.map (·.2)).getD (16384, 0)
  if was = now then s else startRamp now waiter.1 waiter.2 s

/-- Every block takes the values of a set at a commit (R530). -/
def takeSet (l : List SetRecord) (s : State) : State :=
  let s := takeTimes l (takeTriggers l s)
  let s := takePower l (takeSafety l (takeVetch l (takeSensors l (takeRings l (takeLoops l s)))))
  storeSetRegs l [0xD] s

end Sys2Proof.Machine
end

