-- ==== Sys2Proof/Machine/Commit.lean ====
section
/-! DEFINITION. Set commands (R530, R534) and IMAGE_HOLD (R192 to R196). -/

namespace Sys2Proof.Machine

/-! ### Stage 3 in its context (R522) -/

/-- First byte of a stage in a firmware bank (1 A, 2 B; Table 20.4). -/
def stageBase (bank stage : Nat) : Nat := (bank - 1) * 0x80000000 + (stage - 1) * 0x10000000

/-- Where stage 3 stands in LPDDR5X: directly above its context's page tables. -/
def stage3Home (s : State) (img : Image) (c : Nat) : Nat :=
  let role := ((ctx s c).plan.map (·.role)).getD 0
  fget s (Reg.MEM_CTX_LP_BASE c) * 0x200000 + 0x1000 * (tablesFor (ctxLeaves img role s.harebell.stage3Bytes 0)).count

/-- Copy stage 3 into its context's share (R522). -/
def placeStage3 (s : State) : State :=
  match s.harebell.entry3, s.image with
  | some (c, _, _), some img => memWrite s (stage3Home s img c) (flashRead s (stageBase s.harebell.bank 3) s.harebell.stage3Bytes)
  | _, _ => s

/-- Start stage 3 as one thread on the lowest tile of its context (R522). -/
def startStage3 (s : State) : State :=
  match s.harebell.entry3 with
  | none => s
  | some (c, _, pc) =>
    match (ctx s c).plan.bind (fun p => lowestBit p.tileMask 48) with
    | none => s
    | some tile =>
      match (List.range 128).find? (fun t => decide ((thread s tile t).ctx = c ∧ (thread s tile t).state = .idle)) with
      | none => s
      | some t =>
        let th := { Thread.init with state := .ready, ctx := c, pc := pc }
        let th := setXreg (setXreg th 1 (BitVec.ofNat 64 stage3Va)) 2 (BitVec.ofNat 64 tile)
        let s := setThread s tile t (setXreg th 4 1)
        rescheduleAll (modHarebell s (fun h => { h with entry3 := some (c, tile, pc) }))

/-! ### IMAGE_HOLD (R192 to R196) -/

/-- No context has a command queued or running, apart from management queue `q` (R192). -/
def quiescent (s : State) (q : Nat) : Bool :=
  s.queues.all (fun e =>
    decide (e.1 = q) || (if isMgmt e.1 then e.2.out.all (fun c => !namesContext c.opcode) else e.2.out.isEmpty))

/-- Report a step of R194 after loading that failed: 11 to 13 are steps 3 to 5. -/
def stepFails (slot step : Nat) (s : State) : State := raise s 0xB102 secIsland (u16 slot ++ u8 (step + 8))

/-- Step 1 of R194: the image of a slot, which must be the one the set expects (log entry 35). -/
def holdLoad (h : List Byte) (s : State) : Bool × State :=
  match loadImage (headSlot h) s with
  | (false, s) => (false, s)
  | (true, s) =>
    if (s.image.map (·.imageId)) = some (headImage h) then (true, s)
    else (false, raise s 0xB102 secIsland (u16 (headSlot h) ++ u8 14))

/-- Stage 3 cannot be read from its bank. -/
def stage3Unread (s : State) : Bool :=
  s.harebell.entry3.isSome && (flashTry s (stageBase s.harebell.bank 3) s.harebell.stage3Bytes).isNone

/-- Step 3 of R194: the contexts of a plan, with stage 3 in its own. An uncorrectable read is a failed step (R448). -/
def holdContexts (slot : Nat) (l : List SetRecord) (s : State) : Bool × State :=
  let plan := (setPart l 1).getD []
  match s.image with
  | none => (false, stepFails slot 3 s)
  | some img => match planFails s img (setArmed l) (stage3Of s) plan with
    | some (i, k) => (false, stepFails slot 3 (planRecord s i k))
    | none =>
      let unread := pinsUnread s img plan
      let s := createPlan img (stage3Of s) plan (clearContexts s)
      let s := if fbit s Reg.PLN_CFG_EN then vetchDiscard 2 s else s
      if stage3Unread s then (false, stepFails slot 3 (flashReport s (stageBase s.harebell.bank 3) s.harebell.stage3Bytes))
      else if unread then (false, stepFails slot 3 s)
      else (true, startStage3 (placeStage3 s))

/-- The outcome of the difference injection (R408, R409): `failed` is the first injection not caught, 0 for none. -/
def injection (failed : Nat) (s : State) : State :=
  let s := fset (fsetb s Reg.SAFE_INJECT_DONE (decide (failed = 0))) Reg.SAFE_INJECT_FAILED failed
  if failed = 0 then raise s 0x8011 safeIsland [] else raise s 0x8010 safeIsland (u8 failed)

/-- Where the golden input goes in the GOLDEN_HOST context's share: the first free 64-byte line above its page tables and stage 3;
none when it does not fit below the KV region (log entry 67). -/
def goldenHome (s : State) (img : Image) (c : Nat) (p : Plan) : Option Nat :=
  let base := fget s (Reg.MEM_CTX_LP_BASE c) * 0x200000
  let s3 := if c = (stage3Of s).1 then (stage3Of s).2 else 0
  let a := ceilDiv (base + 0x1000 * (tablesFor (ctxLeaves img p.role s3 0)).count + s3) 64 * 64
  if a + img.goldenIn.length ≤ base + (p.lpUnits - p.kvUnits) * 0x200000 then some a else none

/-- A command that may start at once on a management queue, and its pair, fit there. -/
def goldenTakes (s : State) (q : Nat) : Bool :=
  let m := fget s (Reg.QMGR_QCFG_OPMASK q)
  queueOn s q && bitAt m 1 && bitAt m 9 && depthOk s q 2 (memNat s (cqBase s q + 8) 4)
    && (queue s q).out.all (fun d => decide (d.phase ≠ .waiting) && (!d.fenceAfter || decide (d.phase = .complete)))

/-- The management queue that carries the golden frame of R194: the first that can start it (log entry 67). -/
def goldenQueue (s : State) : Nat := ((List.range 16).find? (goldenTakes s)).getD 0

/-- A command packet (Table 7.3) with zero TRIGGER. -/
def packetOf (opcode flags context tag length : Nat) (params : List Byte) : List Byte :=
  padTo 64 (leBytes 2 opcode ++ leBytes 1 flags ++ leBytes 1 context ++ leBytes 4 tag ++ leBytes 4 length ++ leBytes 4 0 ++ params)

/-- Step 5 of R194: Harebell copies the golden input and issues KERNEL_LAUNCH of the KIND 3 entry point and MAIN_OUTPUT with GOLDEN,
the latter behind the launch's completion. TAG, ARG_VA and the place of the results are free values (log entry 67). -/
def goldenIssue (img : Image) (c : Nat) (p : Plan) (e a : Nat) (s : State) : State :=
  let s := memWrite s a img.goldenIn
  let q := goldenQueue s
  let w (i : Nat) : Nat := (Config.freeWord (s.free + i)).toNat
  let launch := packetOf 0x0100 2 c (w 0 % 2 ^ 32) p.threads
    (leBytes 8 p.tileMask ++ leBytes 2 e ++ List.replicate 6 0 ++ leBytes 8 (w 1 % 2 ^ 48))
  let output := packetOf 0x0904 0 c (w 2 % 2 ^ 32) img.tolerance.length
    (leBytes 1 1 ++ List.replicate 7 0 ++ leBytes 8 (w 3 % 2 ^ 49 * 64))
  doorbell (writePackets q (queue s q).submitted [launch, output] { s with free := s.free + 4 }) q 2 false

/-- Where and for whom the golden frame runs: the image, the GOLDEN_HOST context and its plan, the KIND 3 entry point, and the
golden input's address. -/
def goldenPlace (s : State) : Option (Image × Nat × Plan × Nat × Nat) := do
  let img ← s.image
  let (c, p) ← goldenHost s
  let (e, _) ← netEntry s
  let a ← goldenHome s img c p
  pure (img, c, p, e, a)

/-- The start of step 5 of R194: the golden frame, which fails where it has no place. -/
def goldenBegin (slot : Nat) (s : State) : Bool × State :=
  match goldenPlace s with
  | some (img, c, p, e, a) => (true, goldenIssue img c p e a s)
  | none => (false, stepFails slot 5 s)

/-- Steps 3 to 5 of R194, up to the start of the golden frame. -/
def holdRebuild (slot : Nat) (l : List SetRecord) (failed : Nat) (s : State) : Bool × State :=
  match holdContexts slot l s with
  | (false, s) => (false, s)
  | (true, s) =>
    if failed ≠ 0 then (false, stepFails slot 4 (injection failed s)) else goldenBegin slot (injection 0 s)

/-- Make the set of an area the active one; the other stays valid (R530). -/
def activate (a : Nat) (s : State) : State := modHarebell s (fun h => { h with active := a, shadowOk := true })

/-- R195: back to the previous image and set; a second failure starts the safe state. `area` is the previous set's. Which injection
the previous image's repetition does not catch, none or 1 to 6, is a free value (log entry 67). -/
def holdFallback (area : Nat) (s : State) : State :=
  let h := setHead s area
  let l := setOf s area
  let s := modHarebell s (fun x => { x with hold := x.hold.map (fun y => { y with fallback := true, ready := false }) })
  match holdLoad h s with
  | (false, s) => safeBoth 0xF s
  | (true, s) => match holdRebuild (headSlot h) l ((Config.freeWord s.free).toNat % 7)
      (takeSet l (activate area { s with free := s.free + 1 })) with
    | (false, s) => safeBoth 0xF s
    | (true, s) => s

/-- The commit instant of a set that changes the image or the plan (R192, R194). -/
def beginHold (q n failed : Nat) (s : State) : State :=
  let old := s.harebell.active
  let new := 1 - old
  let h := setHead s new
  let l := setOf s new
  let s := modHarebell (fsetb s Reg.QMGR_STATUS_IMAGE_HOLD true) (fun x => { x with hold := some ⟨q, n, s.time, false, false⟩ })
  let load := if headSlot h = headSlot (setHead s old) then (true, s) else holdLoad h s
  match load with
  | (false, s) => holdFallback old s
  | (true, s) => match holdRebuild (headSlot h) l failed (takeSet l (activate new s)) with
    | (false, s) => holdFallback old s
    | (true, s) => s

/-- Step 5 has ended (R195, R407): IMAGE_HOLD may end, or the previous image comes back, or the safe state starts. -/
def holdGolden (passed : Bool) (s : State) : State :=
  match s.harebell.hold with
  | none => s
  | some h =>
    if passed then modHarebell s (fun x => { x with hold := some { h with ready := true } })
    else
      let s := stepFails (headSlot (setHead s s.harebell.active)) 5 s
      if h.fallback then safeBoth 0xF s else holdFallback (1 - s.harebell.active) s

/-- IMAGE_HOLD ends at a whole-body trigger after step 5 (R194). -/
def endHold (s : State) : State :=
  match s.harebell.hold with
  | none => s
  | some h =>
    if h.ready = false then s
    else
      let a := s.harebell.active
      let s := modHarebell (fsetb s Reg.QMGR_STATUS_IMAGE_HOLD false) (fun x => { x with hold := none })
      let s := askSwaps (setOf s a) (fset s Reg.SAFE_DIS_HIST_HIST 0)
      let s := { modSafety s (fun x => { x with goldenBase := s.time }) with goldenAt := s.time, goldenLate := false }
      let s := if h.fallback then completeCmd s h.q h.n Status.accessRefused 0
        else
          let (id, v) := (s.image.map (fun i => (i.imageId, i.version))).getD (0, 0)
          let s := raise (extendMeas 3 (sha256 (setHead s a)) s) 0xB103 secIsland (u64 id ++ leBytes 4 v ++ u32 ((s.time - h.start) / 1000))
          completeCmd s h.q h.n Status.ok 0
      rescheduleAll s

/-- IMAGE_HOLD_TIMEOUT (R196). -/
def execImageHoldTimeout (s : State) : Out :=
  whenAlive s (fun s =>
    match s.harebell.hold with
    | none => .next s
    | some h => if h.start + 10000000000 ≤ s.time then .next (safeBoth 0xF s) else .next s)

/-! ### The commit instant (R530) -/

/-- R331: a set would change START or PERIOD_NS of a trigger that a consumer names. -/
def namedChange (l : List SetRecord) (s : State) : Bool :=
  (List.range 64).any (fun i =>
    let r := setTrigger l i
    let o := trigRecord s i
    decide (trigStart r ≠ trigStart o ∨ trigPeriod r ≠ trigPeriod o) && trigNamed s i)

/-- R482: a set would change FIXED while the module is in a job. -/
def fixedChange (l : List SetRecord) (s : State) : Bool :=
  inJobWithOthers s && decide (fget (storeSetRegs l [0x2] s) Reg.PWR_CFG_FIXED ≠ fget s Reg.PWR_CFG_FIXED)

/-- A plan refused for the image in place (R233): its record is raised. -/
def planRefused (l : List SetRecord) (s : State) : Option State :=
  match s.image with
  | none => some s
  | some img => (planFails s img (setArmed l) (stage3Of s) ((setPart l 1).getD [])).map (fun e => planRecord s e.1 e.2)

/-- End a SET_COMMIT as INVALID_PARAM. -/
def noCommit (q n : Nat) (s : State) : State := completeCmd s q n Status.invalidParam 0

/-- The commit instant. `failed` is the injection that step 4 of R194 does not catch. -/
def commitNow (q n failed : Nat) (s : State) : State :=
  let old := s.harebell.active
  let new := 1 - old
  let h := setHead s new
  let l := setOf s new
  let same := decide (headSlot h = headSlot (setHead s old))
  let s := modHarebell s (fun x => { x with commit := none })
  match areaUncorr s new areaBytes with
  | some w => noCommit q n (raise s 0x100A secIsland (u8 2 ++ u32 (w / 8)))
  | none =>
    if blocksAccept l (headSlot h) s = false ∨ namedChange l s = true ∨ fixedChange l s = true then noCommit q n s
    else if same ∧ setPart l 1 = setPart (setOf s old) 1 then
      let s := askSwaps l (takeSet l (activate new s))
      let s := raise (extendMeas 3 (sha256 h) s) 0xB005 secIsland (slice h 8 8 ++ slice h 16 4)
      rescheduleAll (completeCmd s q n Status.ok 0)
    else if quiescent s q = false then noCommit q n s
    else match (if same then planRefused l s else none) with
      | some s => noCommit q n s
      | none => beginHold q n failed s

/-- The firing of a trigger that a SET_COMMIT waits for. In the safe state the commit ends with SAFETY_HOLD (log entry 44). -/
def commitFire (trig failed : Nat) (s : State) : State :=
  match s.harebell.commit with
  | some (q, n, t) =>
    if t ≠ trig then s
    else if inSafe s then completeCmd (modHarebell s (fun x => { x with commit := none })) q n Status.safetyHold 0
    else commitNow q n failed s
  | none => s

/-! ### Set commands -/

/-- The engine of SET_WRITE: the bytes, then R529. -/
def setWriteEngine (q : Nat) (c : QCmd) (s : State) : Verdict :=
  let va := c.field 24 8
  if c.reservedZero [(24, 8)] = false ∨ areaBytes < c.length ∨ opAligned q va 64 = false then invalid s
  else if s.harebell.commit.isSome then refuse s
  else match opRead s q va c.length with
    | .error e => failOperand s q c secIsland 0 e
    | .ok bs =>
      let a := 1 - s.harebell.active
      let s := modHarebell s (fun h => { h with
        areas := storeSetList (fun _ => 0) h.areas (areaBase a) bs,
        areaBad := h.areaBad.filter (fun w => !decide (areaBase a ≤ w ∧ w + 8 ≤ areaBase a + bs.length)) })
      match setFails s a with
      | none => okay (modHarebell s (fun h => { h with shadowOk := true }))
      | some k => invalid (raise (modHarebell s (fun h => { h with shadowOk := false })) 0xB004 secIsland (u8 a ++ u8 k))

/-- SET_WRITE (0x0600). -/
def execSetWrite (q n : Nat) (s : State) : Out := runEngine 0x0600 q n (setWriteEngine q) s

/-- The engine of SET_COMMIT: it waits for its instant. -/
def setCommitEngine (q : Nat) (c : QCmd) (s : State) : Verdict :=
  let t := c.field 16 2
  if c.engaged then .wait s
  else if c.length ≠ 1 ∨ c.reservedZero [(16, 2)] = false then invalid s
  else if inSafe s then .done Status.safetyHold 0 s
  else if s.harebell.commit.isSome then refuse s
  else if s.harebell.shadowOk = false ∨ trigArmed s t = false then invalid s
  else .wait (modHarebell (modCmd s q c.n (fun d => { d with engaged := true })) (fun h => { h with commit := some (q, c.n, t) }))

/-- SET_COMMIT (0x0601). -/
def execSetCommit (q n : Nat) (s : State) : Out := runEngine 0x0601 q n (setCommitEngine q) s

/-- The engine of SET_READ. -/
def setReadEngine (q : Nat) (c : QCmd) (s : State) : Verdict :=
  let va := c.field 24 8
  let a := if c.field 16 1 = 0 then s.harebell.active else 1 - s.harebell.active
  if c.reservedZero [(16, 1), (24, 8)] = false ∨ 1 < c.field 16 1 ∨ areaBytes < c.length ∨ opAligned q va 64 = false then invalid s
  else match areaUncorr s a c.length with
    | some w => .done Status.contextFault 0 (raise s 0x100A secIsland (u8 (1 + c.field 16 1) ++ u32 (w / 8)))
    | none => match opWrite s q va (areaRead s a 0 c.length) with
      | .error e => failOperand s q c secIsland 0 e
      | .ok s => okay s

/-- SET_READ (0x0602). -/
def execSetRead (q n : Nat) (s : State) : Out := runEngine 0x0602 q n (setReadEngine q) s

end Sys2Proof.Machine
end

