-- ==== Sys2Proof/Machine/Cowslip.lean ====
section
/-! DEFINITION. The safety blocks (14, 15): submissions, Thistle's passes, the comparator, Cowslip's verdicts, gates, limit and
timing monitors, golden frames, the hardware causes, the way to STO, and the safety commands. Intervals count in module time. -/

namespace Sys2Proof.Machine

/-! ### The comparison (R397, R188) -/

/-- What the comparator finds at one output. -/
inductive Finding where
  | within
  | exceed (d b : Word)
  | severe (d b : Word)
  deriving DecidableEq, Repr

/-- The band of an output (R188). -/
def band (t : Tolerance) (ym : Word) : Word := fadd32 t.tolAbs (fmul32 t.tolRel (fabs32 ym))

/-- Compare one output (R397). -/
def compareOne (t : Tolerance) (ym yc : Word) : Finding :=
  let b := band t ym
  let d := fabs32 (fsub32 ym yc)
  if finite32 ym = false ∨ finite32 yc = false then .severe d b
  else if flt32 (fmul32 0x40800000 b) d then .severe d b
  else if flt32 b d then .exceed d b
  else .within

/-- Every output's finding, rising. -/
def findings (ts : List Tolerance) (ym yc : List Word) : List (Nat × Finding) :=
  (ts.zip (ym.zip yc)).map (fun e => (e.1.output, compareOne e.1 e.2.1 e.2.2))

/-- The verdict of two results with what its record says of the output (R397, R424). -/
def compareAll (ts : List Tolerance) (ym yc : List Word) : Verdict3 × List Byte :=
  let l := findings ts ym yc
  match l.findSome? (fun e => match e.2 with | .severe d b => some (u16 e.1 ++ wordLe d ++ wordLe b) | _ => none) with
  | some r => (.severe, r)
  | none => match l.findSome? (fun e => match e.2 with | .exceed d b => some (u16 e.1 ++ wordLe d ++ wordLe b) | _ => none) with
    | some r => (.disagree, r)
    | none => (.agree, [])

/-- Tolerance records of the resident image. -/
def tolerances (s : State) : List Tolerance := (s.image.map (·.tolerance)).getD []

/-- OUTPUT_COUNT of the resident image. -/
def outputCount (s : State) : Nat := (tolerances s).length

/-- COMPARE_US in ns. -/
def compareNs (s : State) : Nat := fget s Reg.SAFE_CFG_COMPARE_US * 1000

/-- The comparator hands a verdict to Cowslip (R397). -/
def decide3 (v : Verdict3) (t : Nat) (data : List Byte) (s : State) : State :=
  modSafety s (fun x => { x with decided := true, decision := some ⟨v, t, data⟩ })

/-- Whether a result of the current frame still counts: none that comes after T + COMPARE_US does (R397). -/
def inWindow (s : State) : Bool :=
  match s.safety.frame with
  | none => false
  | some t => decide (s.time ≤ t + compareNs s)

/-- Decide frame `t` from what is present (R397); a missing result is a disagreement. -/
def decideFrame (t : Nat) (s : State) : State :=
  match s.safety.main, s.safety.check with
  | some ym, some yc =>
    let (v, d) := compareAll (tolerances s) ym yc
    decide3 v t d s
  | m, c => decide3 .disagree t (u8 (b2n m.isNone + 2 * b2n c.isNone)) s

/-- COMPARATOR_DECISION: both results are present (R397). -/
def execComparatorDecision (s : State) : Out :=
  whenAlive s (fun s =>
    match s.safety.frame with
    | none => .next s
    | some t =>
      if s.safety.decided = false ∧ inSafe s = false ∧ s.safety.main.isSome = true ∧ s.safety.check.isSome = true
      then .next (decideFrame t s) else .next s)

/-- COMPARE_DEADLINE: T + COMPARE_US (R397). -/
def execCompareDeadline (s : State) : Out :=
  whenAlive s (fun s =>
    match s.safety.frame with
    | none => .next s
    | some t =>
      if s.safety.decided = false ∧ inSafe s = false ∧ t + compareNs s ≤ s.time then .next (decideFrame t s) else .next s)

/-! ### Cowslip's verdict (R398, R399) -/

/-- Shift a verdict into DIS_HIST. -/
def shiftHist (bit : Nat) (s : State) : State := fset s Reg.SAFE_DIS_HIST_HIST (2 * fget s Reg.SAFE_DIS_HIST_HIST + bit)

/-- Write each y_m into SP_IDLE of its loop. -/
def commitOutputs (s : State) : State :=
  forEach ((tolerances s).zip (s.safety.main.getD [])) (fun (t, y) s => setLoop s t.loop { loop s t.loop with spIdle := y }) s

/-- Cowslip acts on a verdict. What SEVERE shifts into DIS_HIST is not stated: a free bit (log entry 9). -/
def takeVerdict (d : Decision) (s : State) : State :=
  match d.verdict with
  | .agree => commitWrite 1 (commitOutputs (finc (shiftHist 0 s) (Reg.SAFE_CNT_COUNT 0)))
  | .disagree =>
    let s := finc (shiftHist 1 s) (Reg.SAFE_CNT_COUNT 1)
    let hist := fget s Reg.SAFE_DIS_HIST_HIST
    let s := raise s 0x8001 safeIsland (if d.data.length = 1 then d.data else d.data ++ u16 hist)
    let s := commitWrite 2 s
    if 2 ≤ popCount hist 16 then safeBoth 1 s else s
  | .severe =>
    let (f, s) := takeFree s
    let s := raise (shiftHist ((Config.freeWord f).toNat % 2) s) 0x8002 safeIsland d.data
    safeBoth 2 s

/-- Cowslip's firmware runs: it is not halted by the debugger (log entry 40). -/
def firmware (s : State) : Bool := !s.safety.halted

/-- VERDICT_ACTION. In the safe state nothing is decided any more (R399). -/
def execVerdictAction (s : State) : Out :=
  whenAlive s (fun s =>
    match s.safety.decision with
    | none => .next s
    | some d =>
      if firmware s = false then .next s
      else
        let s := modSafety s (fun x => { x with decision := none })
        .next (if inSafe s then s else takeVerdict d s))

/-! ### Thistle (R394, R395) -/

/-- THISTLE_PASS_DONE: the pass at the head ends with its FP32 outputs, or without a result. The net's arithmetic is not laid
down, so the outputs come with the command (log entry 12). -/
def execThistlePassDone (outputs : List Word) (uncorrectable : Bool) (s : State) : Out :=
  whenAlive s (fun s =>
    match s.safety.passes with
    | [] => .next s
    | p :: rest =>
      if phaseUp s 6 = false ∨ (uncorrectable = false ∧ outputs.length ≠ outputCount s) then .next s
      else if uncorrectable then
        .next (raise (modSafety s (fun x => { x with passes := rest, goldenOut := if p.golden then none else x.goldenOut }))
          0x8004 66 [])
      else .next (modSafety s (fun x =>
        if p.golden then { x with passes := rest, goldenChk := some outputs }
        else if x.frame = some p.frame ∧ inWindow s = true then { x with passes := rest, check := some outputs }
        else { x with passes := rest })))

/-! ### Golden frames (R406, R407) -/

/-- A channel's signature. -/
def signature (ys : List Word) : Nat := leNat ((sha256 (wordsToBytes ys)).take 8)

/-- A golden frame has passed. -/
def goldenPassed (s : State) : State :=
  let s := setReg64 (finc s (Reg.SAFE_CNT_COUNT 4)) Reg.SAFE_GOLDEN_TIME s.time
  let s := modSafety s (fun x => { x with goldenBase := s.time })
  if inHold s then holdGolden true s else s

/-- A golden frame has failed. -/
def goldenFailed (m c : Nat) (s : State) : State :=
  let s := raise s 0x8006 safeIsland (u64 m ++ u64 c)
  if inHold s ∧ s.harebell.hold.isSome then holdGolden false s else safeBoth 5 s

/-- GOLDEN_FRAME_CHECK: both channels' golden results are there. -/
def execGoldenFrameCheck (s : State) : Out :=
  whenAlive s (fun s =>
    match s.safety.goldenOut, s.safety.goldenChk, s.image with
    | some ym, some yc, some i =>
      if firmware s = false then .next s
      else
        let s := modSafety s (fun x => { x with goldenOut := none, goldenChk := none })
        let m := signature ym
        let c := signature yc
        .next (if m = i.sigMain ∧ c = i.sigChk ∧ (compareAll i.tolerance ym yc).1 = .agree then goldenPassed s
          else goldenFailed m c s)
    | _, _, _ => .next s)

/-- GOLDEN_PASS_OVERDUE (R407, R543): counted from the latest pass, from BOOT_DONE, or from the exit of DROWSE or IMAGE_HOLD. -/
def execGoldenPassOverdue (s : State) : Out :=
  whenAlive s (fun s =>
    if firmware s = true ∧ s.harebell.booted = true ∧ inDrowse s = false ∧ inHold s = false
        ∧ bitAt (regWord s Reg.SAFE_CAUSES) 6 = false ∧ s.safety.goldenBase + 2 * goldenMaxNs s ≤ s.time
    then .next (safeBoth 6 s) else .next s)

/-! ### Sample gates (R402, R403) -/

/-- A stop contact shows a level: copy A's sets latch A as it falls, copy B's latch B (Table 14.5); the discrepancy time counts
from where they begin to differ. -/
def stopLevel (copyB level : Bool) (s : State) : State :=
  let was := if copyB then s.safety.stopB else s.safety.stopA
  let s := modSafety s (fun x => if copyB then { x with stopB := level } else { x with stopA := level })
  let differ := s.safety.stopA != s.safety.stopB
  let s := modSafety s (fun x => { x with stopSince := if differ then some (x.stopSince.getD s.time) else none })
  if was = true ∧ level = false then safeCause 0xA (!copyB) copyB s else s

/-- Firmware and hardware take a gated input: a CRIT trip is a cause, the stop contacts are followed. -/
def gateTaken (i v : Nat) (s : State) : State :=
  let was := storeGet (fun _ => 0) s.safety.gates i
  let s := modSafety s (fun x => { x with gates := storeSet (fun _ => 0) x.gates i v, skewed := x.skewed.filter (fun j => decide (j ≠ i)) })
  if i = 3 ∧ was = 0 ∧ v ≠ 0 then safeBoth 7 s
  else if i = 5 then stopLevel false (decide (v ≠ 0)) s
  else if i = 6 then stopLevel true (decide (v ≠ 0)) s
  else s

/-- One input at a gate close. -/
def gateInput (i : Nat) (g : GateSample) (s : State) : State :=
  if g.valueA = g.valueB then gateTaken i g.valueA s
  else if (g.changedA || g.changedB) = true ∧ s.safety.skewed.contains i = false then
    raise (finc (modSafety s (fun x => { x with skewed := i :: x.skewed })) (Reg.SAFE_CNT_COUNT 2)) 0x8005 safeIsland (u16 i)
  else safeBoth 4 s

/-- CRIT_TRIP at a gate close: the tripped loop's number and one, which both copies see 1 µs after the trip and may see before
(R269); 0 without one. -/
def critInput (s : State) (g : GateSample) : GateSample :=
  match s.safety.critTrip with
  | none => ⟨0, 0, false, false⟩
  | some (l, t) =>
    if t + 1000 ≤ s.time then ⟨l + 1, l + 1, false, false⟩
    else ⟨if g.valueA = 0 then 0 else l + 1, if g.valueB = 0 then 0 else l + 1, g.changedA, g.changedB⟩

/-- The tick at which copy B's gate `k` closes (R332): gates open every 256 ticks from the release of power-on reset, last 4 Cowslip
cycles, and copy B's begin 2 cycles later. -/
def gateClose (s : State) (k : Nat) : Nat := s.safety.gateBase + 256 * k + 12

/-- SAMPLE_GATE_CLOSE: a gate that has closed and has not been taken; the ten inputs in the order of Table 14.2. -/
def execSampleGateClose (inputs : List GateSample) (s : State) : Out :=
  whenAlive s (fun s =>
    if s.ticks < gateClose s s.safety.gatesDone then .next s
    else
      let s := modSafety s (fun x => { x with gatesDone := (s.ticks - gateClose s 0) / 256 + 1 })
      .next (forEach ((List.range 10).zip inputs) (fun (i, g) s => gateInput i (if i = 3 then critInput s g else g) s) s))

/-- STOP_INPUT: a stop contact goes low. -/
def execStopInput (copyB : Bool) (s : State) : Out := whenAlive s (fun s => .next (stopLevel copyB false s))

/-- STOP_DISCREPANCY: the contacts have differed for STOP_DISC_MS. -/
def execStopDiscrepancy (s : State) : Out :=
  whenAlive s (fun s =>
    match s.safety.stopSince with
    | none => .next s
    | some t =>
      if t + fget s Reg.SAFE_CFG_STOP_DISC_MS * 1000000 ≤ s.time
      then .next (safeBoth 0xA (modSafety s (fun x => { x with stopSince := none }))) else .next s)

/-! ### Limit monitors and timing supervision (R404, R405) -/

/-- A limit record at the tick of frame `t`: whether it is violated, and the value used. A DELTA record without a value of an earlier
tick is not violated (log entry 73). -/
def limitViolated (s : State) (t : Nat) (b : List Byte) (prev : Option Word) : Bool × Option Word :=
  let h := fbHist s (wordKey (fieldAt b 0 1) (fieldAt b 1 1) (fieldAt b 2 1))
  let inside (v : Int) : Bool := decide (sint 32 (fieldAt b 8 4) ≤ v ∧ v ≤ sint 32 (fieldAt b 12 4))
  let fresh (at_ : Nat) : Bool := match s.safety.ticked with | none => true | some l => decide (l ≤ at_)
  match h.find? (fun e => decide (e.1 < t)) with
  | none => (true, none)
  | some (at_, v) =>
    let bad := if fresh at_ = false then true
      else if fieldAt b 3 1 = 0 then !inside (sint 32 v.toNat)
      else match prev with
        | none => false
        | some p => !inside (sint 32 v.toNat - sint 32 p.toNat)
    (bad, some v)

/-- Evaluate limit record `j`. -/
def limitTick (t j : Nat) (b : List Byte) (s : State) : State :=
  let x := storeGet (fun _ => LimitRun.init) s.safety.limits j
  let (bad, v) := limitViolated s t b x.prev
  let active := bitAt (fieldAt b 4 1) (fget s Reg.SAFE_STATUS_MODE)
  let run := if active ∧ bad then x.run + 1 else 0
  let s := modSafety s (fun y => { y with limits := storeSet (fun _ => LimitRun.init) y.limits j ⟨min run 256, v⟩ })
  let s := if run = 1 then raise (finc s (Reg.SAFE_CNT_COUNT 5)) 0x8023 safeIsland (u16 j ++ wordLe (v.getD 0)) else s
  if run = fieldAt b 5 1 ∧ run ≠ 0 then safeBoth 8 s else s

/-- Whether a timing entry's counters have risen beyond its maxima within the ticks kept. -/
def timingOver (b : List Byte) (h : List (Nat × Nat)) : Bool :=
  match h.head?, h.getLast? with
  | some (m, o), some (m0, o0) => decide (fieldAt b 2 2 + m0 < m ∨ fieldAt b 4 2 + o0 < o)
  | _, _ => false

/-- Evaluate timing entry `k`. -/
def timingTick (k : Nat) (b : List Byte) (s : State) : State :=
  let c := fieldAt b 0 2
  let old := storeGet (fun _ => []) s.safety.history k
  let new := ((fget s (Reg.QMGR_CTX_CNT_COUNT c 2), fget s (Reg.QMGR_CTX_CNT_COUNT c 3)) :: old).take 1001
  let s := modSafety s (fun x => { x with history := storeSet (fun _ => []) x.history k new })
  if timingOver b new = true ∧ timingOver b old = false then safeBoth 9 s else s

/-- COWSLIP_FRAME_TICK: the mode asked for takes effect, then every record and entry is evaluated. -/
def frameTick (t : Nat) (s : State) : State :=
  let s := match s.safety.modeNext with
    | some m => modSafety (fset s Reg.SAFE_STATUS_MODE m) (fun x => { x with modeNext := none })
    | none => s
  let s := forEach ((List.range 512).zip s.safety.limitRecs) (fun (j, b) s => limitTick t j b s) s
  let s := forEach ((List.range 8).zip s.safety.timingRecs) (fun (k, b) s => timingTick k b s) s
  modSafety s (fun x => { x with ticked := some t })

/-- COWSLIP_FRAME_TICK; none in DROWSE (R543). -/
def execCowslipFrameTick (s : State) : Out :=
  whenAlive s (fun s =>
    match s.safety.frame with
    | none => .next s
    | some t => if s.safety.ticked = some t ∨ inDrowse s = true ∨ firmware s = false then .next s else .next (frameTick t s))

/-! ### Hardware causes (Table 14.5) -/

/-- LOCKSTEP_MISMATCH (R401). -/
def execLockstepMismatch (s : State) : Out := whenAlive s (fun s => .next (safeBoth 3 s))

/-- WATCHDOG_EXPIRY: SAFE_WDT not served for 1 ms; not while bench debug holds Cowslip halted (R420). -/
def execWatchdogExpiry (s : State) : Out :=
  whenAlive s (fun s =>
    if s.harebell.booted = true ∧ bitAt (regWord s Reg.SAFE_CAUSES) 0xD = false
        ∧ (s.safety.halted && fbit s Reg.SAFE_STATUS_BENCH) = false ∧ s.safety.served + 1000000 ≤ s.time
    then .next (safeBoth 0xD s) else .next s)

/-- The code of a contact pattern (Table 14.6). -/
def Pattern.code : Pattern → Nat
  | .sto => 0
  | .run => 1
  | .fault => 2

/-- OUTPUT_READBACK_CHECK (R411): two mismatches in a row are a cause. -/
def execOutputReadbackCheck (seenA seenB : Pattern) (s : State) : Out :=
  whenAlive s (fun s =>
    let next (seen : Pattern) (out : Field) (run : Nat) : Nat := if Pattern.code seen = fget s out then 0 else min (run + 1) 3
    let a := next seenA Reg.SAFE_STATUS_OUT_A s.safety.missA
    let b := next seenB Reg.SAFE_STATUS_OUT_B s.safety.missB
    let s := modSafety s (fun x => { x with missA := a, missB := b })
    .next (if a = 2 ∨ b = 2 then safeBoth 0xC s else s))

/-- CLOCK_MONITOR: an island's clock as measured, against 250 MHz ± 5 %. -/
def execClockMonitor (_copyB : Bool) (kHz : Nat) (s : State) : Out :=
  whenAlive s (fun s => if kHz < 237500 ∨ 262500 < kHz then .next (safeBoth 0x10 s) else .next s)

/-- The debugger halts Cowslip (R419, R420). -/
def haltCowslip (s : State) : State :=
  let s := raise (modSafety s (fun x => { x with halted := true })) 0x8031 safeIsland []
  if fbit s Reg.SAFE_STATUS_BENCH then s else safeBoth 0x11 s

/-- COWSLIP_DEBUG_HALT. -/
def execCowslipDebugHalt (s : State) : Out :=
  whenAlive s (fun s => if s.safety.halted then .next s else .next (haltCowslip s))

/-! ### The way to STO (R414) -/

/-- Both outputs static low; `how` is 1 for posture, 2 for timeout. -/
def reachSto (how : Nat) (s : State) : State :=
  let s := fset (fset (fset s Reg.SAFE_STATUS_STATE 3) Reg.SAFE_STATUS_OUT_A 0) Reg.SAFE_STATUS_OUT_B 0
  raise s 0x8022 safeIsland (u8 how ++ u32 (s.time - safeE s))

/-- A write of SAFE_REQ.STO (R414): ignored outside the trajectory and after a core cause. -/
def stoWrite (s : State) : State :=
  if fget s Reg.SAFE_STATUS_STATE = 2 ∧ fbit s Reg.SAFE_STATUS_CORE_CAUSE = false then reachSto 1 s else s

/-- Whether a trajectory record's loop has settled; a loop that is OFF takes no samples and keeps
only SETTLE_MS after the last knot time waiting (log entry 73). -/
def loopSettled (s : State) (r : List Byte) : Bool :=
  let x := loop s (fieldAt r 0 1)
  match (if x.state = 0 then some 0 else x.okSince) with
  | none => false
  | some t => decide (max t (safeE s + lastKnot s) + fget s Reg.SAFE_SETTLE_SETTLE_MS * 1000000 ≤ s.time)

/-- POSTURE_SETTLED: firmware writes SAFE_REQ.STO. -/
def execPostureSettled (s : State) : Out :=
  whenAlive s (fun s =>
    if firmware s = true ∧ inSafe s = true ∧ safeE s + lastKnot s ≤ s.time ∧ s.safety.trajRecs.all (loopSettled s) = true
    then .next (stoWrite s) else .next s)

/-- SAFE_TIMEOUT: TIMEOUT_MS from E. -/
def execSafeTimeout (s : State) : Out :=
  whenAlive s (fun s =>
    if fget s Reg.SAFE_STATUS_STATE = 2 ∧ safeE s + fget s Reg.SAFE_CFG_TIMEOUT_MS * 1000000 ≤ s.time
    then .next (reachSto 2 s) else .next s)

/-! ### Evidence and upkeep (R430, R417) -/

/-- Operating hours since injection 7 last passed (500,000 ticks per ms). -/
def proofHours (s : State) (from_ : Nat) : Nat := (s.ticks - from_) / 1800000000000

/-- PROOF_INTERVAL_DUE: 168 h, and every further 24 h. -/
def execProofIntervalDue (s : State) : Out :=
  whenAlive s (fun s =>
    match s.safety.injectAt with
    | none => .next s
    | some t =>
      if 168 + 24 * s.safety.proofSaid ≤ proofHours s t
      then .next (raise (modSafety s (fun x => { x with proofSaid := x.proofSaid + 1 })) 0x8032 safeIsland (u32 (proofHours s t)))
      else .next s)

/-- SAFETY_SRAM_SCRUB (Table 14.9): corrected words are counted; an uncorrectable one of Cowslip is a cause. -/
def execSafetySramScrub (thistleCorr cowslipCorr : Nat) (cowslipUncorr : Bool) (s : State) : Out :=
  whenAlive s (fun s =>
    let s := fadd (fadd s (Reg.SAFE_CNT_COUNT 6) thistleCorr) (Reg.SAFE_CNT_COUNT 7) cowslipCorr
    .next (if cowslipUncorr then safeBoth 0x12 s else s))

/-! ### Register writes of Cowslip (R34) -/

/-- The code of an agent in a record (R597). -/
def agentCode : Agent → Nat
  | .runtime => 1
  | .harebell => 2
  | .cowslip => 3
  | .management => 4
  | .other => 0

/-- A write of the SAFE slot by another agent changes nothing and raises 0x8033. -/
def safeRefused (agent : Agent) (off : Nat) (s : State) : State :=
  raise s 0x8033 safeIsland (regData off ++ u8 (agentCode agent))

/-- A write of the SAFE slot (R34): SAFE_REQ and SAFE_WDT by Cowslip; every other register is read-only. -/
def safeWrite (agent : Agent) (off v : Nat) (s : State) : State :=
  if agent ≠ .cowslip then safeRefused agent off s
  else if off = Reg.SAFE_REQ then
    let s := if bitAt v 0 then safeBoth (bits v 15 8) s else s
    if bitAt v 1 then stoWrite s else s
  else if off = Reg.SAFE_WDT ∧ v = 0x5AFE0001 then modSafety s (fun x => { x with served := s.time })
  else s

/-- SAFE_REQ_REQ: a write of SAFE_REQ with REQ set. -/
def execSafeReqReq (agent : Agent) (cause : Nat) (s : State) : Out :=
  whenAlive s (fun s => .next (safeWrite agent Reg.SAFE_REQ (1 + 256 * (cause % 256)) s))

/-- SAFE_REQ_STO: a write of SAFE_REQ with STO set. -/
def execSafeReqSto (agent : Agent) (s : State) : Out := whenAlive s (fun s => .next (safeWrite agent Reg.SAFE_REQ 2 s))

/-- SAFE_WDT_SERVE: a write of SAFE_WDT. -/
def execSafeWdtServe (agent : Agent) (key : Word) (s : State) : Out :=
  whenAlive s (fun s => .next (safeWrite agent Reg.SAFE_WDT key.toNat s))

/-! ### The debug request page (R594, R418) -/

/-- One request: reads always, the rest while BENCH is 1. A halt, a step and a write reach copy B too. A read answers what the bench
has written, else what the row says that the firmware left there (log entry 15). -/
def serveRequest (r : CowslipRequest) (s : State) : State :=
  match r with
  | .read a v => { s with outbox := s.outbox ++ [.cowslipReply a ((storeGet (fun _ => none) s.cowslip a).getD v)] }
  | .halt => if fbit s Reg.SAFE_STATUS_BENCH ∧ s.safety.halted = false then haltCowslip s else s
  | .step => s
  | .write a v =>
    if fbit s Reg.SAFE_STATUS_BENCH then { s with cowslip := storeSet (fun _ => none) s.cowslip a (some v) } else s

/-- COWSLIP_REQUEST_PAGE_POLL. -/
def execCowslipRequestPagePoll (reqs : List CowslipRequest) (s : State) : Out :=
  whenAlive s (fun s => .next (forEach reqs serveRequest s))

/-! ### Safety commands (R422, R423) -/

/-- Whether CHECK_INPUT or MAIN_OUTPUT may come from this queue; `golden` is the submission of R194's step 5. -/
def fromHost (q : Nat) (c : QCmd) (golden : Bool) (s : State) : Bool :=
  match goldenHost s with
  | none => false
  | some (h, _) => if isMgmt q then golden && inHold s && decide (c.context = h) else decide (owner s q = h)

/-- A submission that R396 does not accept. -/
def lateSubmit (s : State) : Verdict :=
  invalid (raise (finc s (Reg.SAFE_CNT_COUNT 3)) 0x8003 safeIsland [])

/-- A pass joins Thistle's queue: a frame's own before a golden one that has not begun (R406). -/
def addPass (p : Pass) (l : List Pass) : List Pass :=
  match l with
  | [] => [p]
  | h :: rest => if p.golden then l ++ [p] else h :: (rest.filter (fun x => !x.golden) ++ [p] ++ rest.filter (·.golden))

/-- Whether command `c` started before the latest firing: it belongs to an earlier frame, of which nothing is weighed any more
(R396). -/
def ofEarlier (c : QCmd) (s : State) : Bool :=
  match s.safety.frame with
  | none => false
  | some t => decide (c.startedAt < t)

/-- Whether a submission is late: no frame yet, a second one of its frame, or a start after T + COMPARE_US (R396). -/
def isLate (second : Bool) (c : QCmd) (s : State) : Bool :=
  match s.safety.frame with
  | none => true
  | some t => if c.startedAt < t then false else second || decide (t + compareNs s < c.startedAt)

/-- The engine of CHECK_INPUT. -/
def checkInputEngine (q : Nat) (c : QCmd) (s : State) : Verdict :=
  let va := c.field 24 8
  if fromHost q c false s = false then refuse s
  else if c.reservedZero [(24, 8)] = false ∨ 65536 < c.length ∨ opAligned q va 64 = false then invalid s
  else match opRead s q va c.length with
    | .error e => failOperand s q c safeIsland 0 e
    | .ok bs =>
      if isLate s.safety.checked c s then lateSubmit s
      else if ofEarlier c s then okay s
      else okay (modSafety s (fun x => { x with
        checked := true, passes := addPass ⟨false, x.frame.getD 0, bs⟩ x.passes }))

/-- CHECK_INPUT (0x0903). -/
def execCheckInput (q n : Nat) (s : State) : Out := runEngine 0x0903 q n (checkInputEngine q) s

/-- The engine of MAIN_OUTPUT. -/
def mainOutputEngine (q : Nat) (c : QCmd) (s : State) : Verdict :=
  let va := c.field 24 8
  let golden := bitAt (c.field 16 1) 0
  if fromHost q c golden s = false then refuse s
  else if c.reservedZero [(16, 1), (24, 8)] = false ∨ 1 < c.field 16 1 ∨ c.length ≠ outputCount s ∨ opAligned q va 64 = false
  then invalid s
  else match opRead s q va (4 * c.length) with
    | .error e => failOperand s q c safeIsland 0 e
    | .ok bs =>
      let ys := bytesToWords c.length bs
      if golden then okay (modSafety s (fun x => { x with
        goldenOut := some ys, goldenChk := none,
        passes := addPass ⟨true, 0, (s.image.map (·.goldenIn)).getD []⟩ x.passes }))
      else if isLate s.safety.submitted c s then lateSubmit s
      else if ofEarlier c s then okay s
      else okay (modSafety s (fun x => { x with submitted := true, main := if inWindow s then some ys else none }))

/-- MAIN_OUTPUT (0x0904). -/
def execMainOutput (q n : Nat) (s : State) : Out := runEngine 0x0904 q n (mainOutputEngine q) s

/-- The bytes of offsets 0x000..0x0FF of the SAFE slot. -/
def safeStatusBytes (s : State) : List Byte := (List.range 64).flatMap (fun i => leBytes 4 (regWord s (Reg.SAFE_STATUS + 4 * i)))

/-- The engine of SAFE_READ. -/
def safeReadEngine (q : Nat) (c : QCmd) (s : State) : Verdict :=
  let va := c.field 24 8
  let sel := c.field 16 1
  let src := if sel = 0 then safeStatusBytes s else (s.image.map (·.goldenIn)).getD []
  if c.reservedZero [(16, 1), (24, 8)] = false ∨ 1 < sel ∨ src.length < 64 * c.length - 63 ∨ opAligned q va 64 = false then invalid s
  else match opWrite s q va (padTo (64 * c.length) src) with
    | .error e => failOperand s q c safeIsland 0 e
    | .ok s => okay s

/-- SAFE_READ (0x0900). -/
def execSafeRead (q n : Nat) (s : State) : Out := runEngine 0x0900 q n (safeReadEngine q) s

/-- The engine of SAFE_MODE_SET. -/
def safeModeEngine (c : QCmd) (s : State) : Verdict :=
  if c.length ≠ 1 ∨ c.reservedZero [(16, 1)] = false ∨ 3 < c.field 16 1 then invalid s
  else okay (modSafety s (fun x => { x with modeNext := some (c.field 16 1) }))

/-- SAFE_MODE_SET (0x0901). -/
def execSafeModeSet (q n : Nat) (s : State) : Out := runEngine 0x0901 q n safeModeEngine s

/-- The engine of SAFE_STOP_REQUEST. -/
def safeStopEngine (c : QCmd) (s : State) : Verdict :=
  if c.length ≠ 1 ∨ c.reservedZero [] = false then invalid s
  else okay (if inSafe s then s else safeBoth 0xE s)

/-- SAFE_STOP_REQUEST (0x0902). -/
def execSafeStopRequest (q n : Nat) (s : State) : Out := runEngine 0x0902 q n safeStopEngine s

end Sys2Proof.Machine
end

