-- ==== Sys2Proof/Machine/Boot.lean ====
section
/-! DEFINITION. Resets and what survives them (21, Table 21.3), bring-up in the order of Table 20.6, banks and trial boots (R524),
debug tokens (R531). A reset and the bring-up steps up to the wait for BOOT_DONE are one step. -/

namespace Sys2Proof.Machine

/-! ### What survives a reset (R547) -/

/-- The ways in which bring-up begins. -/
inductive ResetKind where
  | powerOn
  | module_
  | warm
  | dormant
  deriving DecidableEq, Repr

/-- Records of Tansy on their way to the log are lost and counted (R538). -/
def loseStaged (t : Tansy) : Tansy :=
  let l := t.staging ++ t.raised
  match l.head?, l.getLast? with
  | some a, some b => { t with
      raised := [], staging := [], lost := t.lost + l.length, lostTotal := satAdd 32 t.lostTotal l.length,
      lostFirst := if t.lost = 0 then a.time else t.lostFirst, lostLast := b.time }
  | _, _ => t

/-- Tansy across a reset: the log and its counters stay; POWER_CYCLE counts power-on resets (R459). -/
def keepTansy (k : ResetKind) (t : Tansy) : Tansy :=
  match k with
  | .powerOn => { t with raised := [], staging := [], lost := 0, opSeconds := t.stored, scanDone := false,
                         powerCycle := (t.powerCycle + 1) % 2 ^ 32 }
  | .dormant => t
  | _ => loseStaged t

/-- A field of the window as it was before a reset. -/
def keepField (old : State) (f : Field) (s : State) : State := fset s f (fget old f)

/-- Registers of the window that a reset keeps. MODNUM is sampled at power-on and module reset, JOB_MASK is the own bit. -/
def keepWindow (k : ResetKind) (msel : Nat) (old s : State) : State :=
  let m := if k = .powerOn ∨ k = .module_ then msel % 4 else modnum old
  let s := fset (fset s Reg.GLB_MODNUM_MODNUM m) Reg.GLB_MODNUM_JOB_MASK (2 ^ m)
  let s := forEach [Reg.MEM_FLASH_HEALTH_SPARE_PCT, Reg.NET_MGMT_SESSION_SESSION 0, Reg.NET_MGMT_SESSION_SESSION 1]
    (fun f s => keepField old f s) s
  let s := fsetb s Reg.LINK_STATUS_SEATED (!old.power.absent)
  let s := if k = .powerOn then s
    else
      let s := forRange 8 (fun i s => keepField old (Reg.PWR_PHASE_FAULT i) s) (keepField old Reg.LINK_STATUS_READY_TO_REMOVE s)
      forRange 48 (fun t s => keepField old (Reg.TILE_ECC_CORR t) s) (keepField old Reg.PWR_STATUS_SENSE_SUSPECT s)
  if k = .powerOn ∨ k = .module_ then s
  else
    let s := forEach [Reg.SAFE_STATUS_LATCH_A, Reg.SAFE_STATUS_LATCH_B, Reg.SAFE_STATUS_CORE_CAUSE, Reg.SAFE_CAUSE_FIRST,
      Reg.SAFE_ENTRY_TIME_E, Reg.SAFE_CAUSES_MASK, Reg.PWR_STATUS_TRIP] (fun f s => keepField old f s) s
    if inSafe old then keepField old Reg.SAFE_STATUS_STATE s else s

/-- The machine after a reset: Table 21.3. LPDDR5X, tile and staging SRAM are undefined and read as log entry 3 says. -/
def resetState (k : ResetKind) (msel : Nat) (s : State) : State :=
  let on := decide (k = .powerOn)
  let r : State := { State.reset with
    cw := [], pending := s.pending, free := s.free, outbox := s.outbox, ticks := s.ticks,
    flash := s.flash, flashBad := s.flashBad, flashBytes := s.flashBytes,
    stackLogs := storeMap (fun _ => StackLog.init) (fun _ x => { x with said := false }) s.stackLogs,
    time := if on then 0 else s.time,
    frac := if on then 0 else s.frac,
    timeu := if on then TimeUnit.init else { TimeUnit.init with incr := s.timeu.incr },
    tansy := keepTansy k s.tansy,
    links := { Links.init with noAuto := !on && s.links.noAuto },
    power := { Power.init with
      off := !on && s.power.off, rstLow := s.power.rstLow, absent := s.power.absent, presentAt := s.power.presentAt,
      presTerm := s.power.presTerm },
    safety := { Safety.init with
      gateBase := if on then s.ticks else s.safety.gateBase, gatesDone := if on then 0 else s.safety.gatesDone,
      stopA := s.safety.stopA, stopB := s.safety.stopB, injectAt := s.safety.injectAt, proofSaid := s.safety.proofSaid,
      stopSince := if s.safety.stopA = s.safety.stopB then none else some (if on then 0 else s.time) },
    harebell := { Harebell.init with
      areas := s.harebell.areas, areaBad := s.harebell.areaBad, sigCopies := s.harebell.sigCopies,
      minCopies := s.harebell.minCopies, active := s.harebell.active, shadowOk := s.harebell.shadowOk,
      bootBank := s.harebell.bootBank, trialBank := s.harebell.trialBank, verified := s.harebell.verified, resetAt := s.ticks } }
  keepWindow k msel s r

/-! ### Harebell's stored state (R520, R527) -/

/-- A bad copy is rewritten from the good one; each bad one is reported, where it lies being no part of the model (log
entry 9). -/
def healCopies {α : Type} (l : List (Option α)) : List (Option α) :=
  match l.find? (fun c => c.isSome) with
  | some c => l.map (fun x => if x.isSome then x else c)
  | none => l

/-- Report uncorrectable copies in the Harebell state (R444). -/
def reportCopies {α : Type} (l : List (Option α)) (s : State) : State :=
  forEach (l.filter (fun c => c.isNone)) (fun _ s =>
    let (f, s) := takeFree s
    raise s 0x100A secIsland (u8 4 ++ u32 ((Config.freeWord f).toNat % 2 ^ 32))) s

/-! ### Stages (R521, R522) -/

/-- Bytes of a firmware bank that a stage may take (Table 20.4). -/
def stageRoom (stage : Nat) : Nat := if stage = 3 then 0x60000000 else 0x10000000

/-- The largest body of a stage (Table 20.5). -/
def stageBody (stage sigBytes : Nat) : Nat :=
  if stage = 1 then 0x1C0000 else if stage = 2 then 0x80000 else 0x60000000 - 256 - sigBytes

/-- A stage's header as it stands in flash. -/
def stageHead (s : State) (bank stage : Nat) : List Byte := flashRead s (stageBase bank stage) 256

/-- A header keeps Table 20.5. -/
def stageShape (stage : Nat) (h : List Byte) : Bool :=
  let body := fieldAt h 16 8
  let sigAt := fieldAt h 64 8
  let sig := fieldAt h 72 4
  decide (fieldAt h 0 4 = 0x4B535431 ∧ fieldAt h 4 1 = stage ∧ (stage = 3 ∨ fieldAt h 14 1 = 0))
    && allZero (slice h 5 3) && allZero (slice h 15 1) && allZero (slice h 76 180)
    && decide (body ≤ stageBody stage sig ∧ fieldAt h 24 8 ≤ body ∧ 80 ≤ sig ∧ sig ≤ 80 + 16384 ∧ sigAt + sig ≤ stageRoom stage)

/-- Why a stage is refused: the cause of 0xB002 (Table 20.14), 0 for none. An uncorrectable read fails the check it feeds. -/
def stageFails (s : State) (bank stage : Nat) : Nat :=
  let base := stageBase bank stage
  let h := stageHead s bank stage
  if (flashTry s base 256).isNone = true then 1
  else if stageShape stage h = false then 6
  else match flashTry s (base + fieldAt h 64 8) (fieldAt h 72 4) with
    | none => 1
    | some block =>
      let why := blockFails (if stage = 3 then 1 else 0) false h block
      if why ≠ 0 then why
      else match flashTry s (base + 256) (fieldAt h 16 8) with
        | none => 3
        | some body =>
          if sha256 body ≠ slice h 32 32 then 3
          else if fieldAt h 8 4 < minValue s (stage - 1) then 4
          else if siliconRev s < fieldAt h 12 1 * 256 + fieldAt h 13 1 then 5
          else 0

/-- Report what was uncorrectable in a stage. -/
def stageReport (bank stage : Nat) (s : State) : State :=
  let base := stageBase bank stage
  let h := stageHead s bank stage
  match flashBadUnit s base 256 with
  | some _ => flashReport s base 256
  | none => flashReport (flashReport s (base + fieldAt h 64 8) (min (fieldAt h 72 4) 0x5000)) (base + 256)
      (min (fieldAt h 16 8) (stageRoom stage))

/-- Raise 0xB002. -/
def stageRefused (stage bank cause : Nat) (s : State) : State :=
  raise s 0xB002 secIsland (u8 stage ++ u8 bank ++ u8 cause)

/-- What a bring-up comes to: it goes on, it stops, or a stage of the running bank was refused. -/
inductive Boot where
  | on (s : State)
  | stop (s : State)
  | refused (s : State)
  deriving DecidableEq, Repr

/-- Continue a bring-up that goes on. -/
def Boot.next (b : Boot) (f : State → Boot) : Boot :=
  match b with
  | .on s => f s
  | b => b

/-- SEC_STATUS.PHASE. -/
def bootPhase (n : Nat) (s : State) : State := fset s Reg.SEC_STATUS_PHASE n

/-- Verify a stage of the running bank, measure it, note its version. `reg` is its measurement register. -/
def bootStage (stage reg : Nat) (s : State) : Boot :=
  let bank := s.harebell.bank
  match stageFails s bank stage with
  | 0 =>
    let h := stageHead s bank stage
    .on (modHarebell (extendMeas reg (sha256 h) s) (fun x => { x with stageVer := listSet x.stageVer (stage - 1) (fieldAt h 8 4) }))
  | c => .refused (fset (stageRefused stage bank c (stageReport bank stage s)) Reg.SEC_STATUS_FAIL_STAGE stage)

/-! ### The steps of Table 20.6 -/

/-- Fuses and stored state: measurement 0; the minima and the counter, of which one copy must read. -/
def bootRom (s : State) : Boot :=
  let s := extendMeas 0 Config.romDigest s
  let s := reportCopies s.harebell.minCopies s
  let lost := s.harebell.minCopies.all (fun c => c.isNone)
  let s := modHarebell s (fun h => { h with minCopies := healCopies h.minCopies })
  let s := if s.harebell.sigCopies.any (fun c => c.isSome)
    then modHarebell (reportCopies s.harebell.sigCopies s) (fun h => { h with sigCopies := healCopies h.sigCopies }) else s
  if lost then .stop (stageRefused 0 s.harebell.bank 7 s) else .on s

/-- A management queue comes up at its place (`base`) and under a new session. -/
def bootQueue (e base : Nat) (s : State) : State :=
  let s := fset (fset (fset s (Reg.QMGR_QDEPTH_DEPTH e) 256) (Reg.QMGR_QSQ_BASE e) (base / 0x1000)) (Reg.QMGR_QCQ_BASE e)
    ((base + 0x4000) / 0x40)
  let s := fsetb (fset (fset s (Reg.QMGR_QCFG_PRIO e) 3) (Reg.QMGR_QCFG_OPMASK e) 0x1FFE) (Reg.QMGR_QCFG_EN e) true
  let (f, s) := takeFree s
  let new := (Config.freeWord f).toNat % 2 ^ 32
  let old := fget s (Reg.NET_MGMT_SESSION_SESSION e)
  fset s (Reg.NET_MGMT_SESSION_SESSION e) (if new = old then (old + 1) % 2 ^ 32 else new)

/-- Harebell enables queues 0 and 1 and chooses SESSION when stage 1 starts (R572, R574). -/
def bootQueues (s : State) : State := bootQueue 1 0x18000FF8000 (bootQueue 0 0x18000FF0000 s)

/-- Memory, NAND and log: FLASH_READY, the recorder's scan after a power-on reset (R458), the ports in DETECT (Table 21.3). -/
def bootMemory (s : State) : State :=
  let s := fsetb (bootPhase 2 s) Reg.MEM_STATUS_FLASH_READY true
  forRange 3 (fun p s => setLinkState s p 1) (logScan s (!s.tansy.scanDone))

/-- A debug token verifies (R531). -/
def tokenValid (s : State) (b : List Byte) : Bool :=
  let t := b.take 64
  decide (fieldAt t 0 4 = 0x44424731 ∧ fieldAt t 8 8 = Config.moduleUid.toNat ∧ s.tansy.powerCycle ≤ fieldAt t 16 4)
    && allZero (slice t 4 4) && allZero (slice t 20 44) && decide (blockFails 1 true t (b.drop 64) = 0)

/-- The debug token of a set: BENCH, 0x8030 or 0xB007, measurement 6. -/
def bootToken (l : List SetRecord) (s : State) : State :=
  match setPart l 12 with
  | none => extendMeas 6 (List.replicate 32 0) s
  | some b =>
    let s := if tokenValid s b then
        raise (fsetb (fsetb s Reg.SAFE_STATUS_BENCH true) Reg.SEC_STATUS_BENCH true) 0x8030 safeIsland []
      else raise s 0xB007 secIsland []
    extendMeas 6 (sha256 (b.take 64)) s

/-- SET_ACTIVE verified (R529): measurement 3, the debug token. -/
def bootSet (s : State) : Boot :=
  let a := s.harebell.active
  let s := match areaUncorr s a areaBytes with
    | some w => raise s 0x100A secIsland (u8 1 ++ u32 ((w - areaBase a) / 8))
    | none => s
  match setFails s a with
  | some k => .stop (raise s 0xB004 secIsland (u8 a ++ u8 k))
  | none => .on (bootToken (setOf s a) (extendMeas 3 (sha256 (setHead s a)) s))

/-- Where stage 3 goes, as its header says; it is verified after the contexts exist (Table 20.6). -/
def bootStage3Place (s : State) : State :=
  let h := stageHead s s.harebell.bank 3
  if stageShape 3 h then
    modHarebell s (fun x => { x with
      entry3 := some (fieldAt h 14 1, 0, stage3Va + 256 + fieldAt h 24 8), stage3Bytes := 256 + fieldAt h 16 8 })
  else s

/-- The context plan checked and the contexts created (R233, R234). -/
def bootContexts (s : State) : Boot :=
  let l := setOf s s.harebell.active
  let s := bootPhase 5 (bootStage3Place s)
  match s.image with
  | none => .stop s
  | some img =>
    let plan := (setPart l 1).getD []
    match planFails s img (setArmed l) (stage3Of s) plan with
    | some (i, k) => .stop (planRecord s i k)
    | none => .on (createPlan img (stage3Of s) plan s)

/-- A loop at bring-up: OFF, the default record in both banks (R266). -/
def loadCoefs (l : List SetRecord) (k : Nat) (s : State) : State :=
  match setCoefs l k with
  | some c => setLoop s k { Loop.init with bankA := c, bankB := c }
  | none => s

/-- Blocks load their SET_ACTIVE values (R266, R310, R342, R389, R487). Triggers take their records at the end (R331). -/
def loadSet (l : List SetRecord) (s : State) : State :=
  let s := commitLoops (imageLoops s) (storeSetRegs l [0x2, 0x3, 0x4, 0x7, 0xD, 0xE] s)
  let s := fset s Reg.PWR_STATUS_FIXED (fget s Reg.PWR_CFG_FIXED)
  let s := forRange 2 (fun p s => setNetPort s p { netPort s p with entries := setGates l p }) s
  let s := takeRings l (forRange 256 (loadCoefs l) s)
  let s := forRange 128 (fun k s => setStream s k { Stream.init with desc := setStreamDesc l k }) s
  let s := forRange 8 (fun g s => setGroup s g { Group.init with desc := setGroupDesc l g }) s
  let s := forRange 32 (fun j s =>
    let r := setSlotRecord l j
    setExtr s j { Slot.init with factory := r, pose := r.take 28 }) s
  let pitch := fget s Reg.PLN_CFG_PITCH_MS
  let s := { fsetb s Reg.PLN_STATUS_EN (fbit s Reg.PLN_CFG_EN) with
    vetch := { s.vetch with nextPitch := pitch, pub := { s.vetch.pub with pitch := pitch }, opn := { s.vetch.opn with pitch := pitch } } }
  applyTimeCfg (takeSafety l s)

/-- The blocks' own refusals, then their values (R266 and its like): a set they refuse leaves bring-up incomplete. -/
def bootBlocks (s : State) : Boot :=
  let l := setOf s s.harebell.active
  if blocksAccept l (headSlot (setHead s s.harebell.active)) s then .on (loadSet l s) else .stop s

/-- The difference injection (R408, R409): with every one caught, bring-up waits for BOOT_DONE; the proof count restarts
(R430). -/
def bootInject (failed : Nat) (s : State) : Boot :=
  let s := injection failed (bootPhase 7 s)
  if failed = 0 then
    .on (modHarebell (modSafety s (fun x => { x with injectAt := some s.ticks, proofSaid := 0 })) (fun h => { h with waiting := true }))
  else .stop s

/-- One bring-up of the bank that `harebell.bank` names. -/
def bringUpBank (failed : Nat) (s : State) : Boot :=
  (bootRom s).next fun s =>
  (bootStage 1 1 s).next fun s =>
  (bootSet (bootMemory (bootQueues (bootPhase 1 s)))).next fun s =>
  (bootStage 2 2 s).next fun s =>
  let s := bootPhase 3 s
  match holdLoad (setHead s s.harebell.active) s with
  | (false, s) => .stop s
  | (true, s) =>
    (bootContexts (bootPhase 4 s)).next fun s =>
    (bootStage 3 5 s).next fun s =>
    (bootBlocks (placeStage3 (bootPhase 6 s))).next fun s =>
    bootInject failed s

/-- Which bank a bring-up runs. -/
def useBank (bank : Nat) (trial : Bool) (s : State) : State :=
  fsetb (modHarebell s (fun h => { h with bank := bank, trial := trial })) Reg.SEC_STATUS_TRIAL trial

/-- Harebell starts again from ROM as after a warm reset; records on their way to the log reach it first (log entry 41). -/
def restart (cause : Nat) (s : State) : State :=
  let t := s.tansy
  let s := { resetState .warm 0 { s with tansy := { t with raised := [], staging := [] } } with tansy := t }
  fset s Reg.GLB_RESET_CAUSE_CAUSE cause

/-- The end of a trial (R524): TRIAL_BANK is cleared and 0xB003 raised; `how` is 1 for a refusal, 2 for the timeout. -/
def abandonTrial (how : Nat) (s : State) : State :=
  let bank := s.harebell.bank
  raise (modHarebell s (fun h => { h with trialBank := 0 })) 0xB003 secIsland (u8 bank ++ u8 how)

/-- Bring-up with the banks' rules (R524). `last` says that the other bank has been refused already. -/
def bringUp : (fuel failed : Nat) → (last : Bool) → State → State
  | 0, _, _, s => s
  | fuel + 1, failed, last, s =>
    match bringUpBank failed s with
    | .on s => s
    | .stop s => s
    | .refused s =>
      if s.harebell.trial then
        let s := abandonTrial 1 s
        if last then s
        else
          let s := restart 4 s
          bringUp fuel failed false (useBank s.harebell.bootBank false s)
      else if last then s
      else
        let s := restart (fget s Reg.GLB_RESET_CAUSE_CAUSE) s
        bringUp fuel failed true (useBank (3 - s.harebell.bootBank) true s)

/-- A full bring-up from ROM (R523): the bank that R524 chooses. -/
def startBringUp (failed cause wake : Nat) (s : State) : State :=
  let s := fset (fset s Reg.GLB_RESET_CAUSE_CAUSE cause) Reg.GLB_RESET_CAUSE_WAKE wake
  let b := s.harebell.trialBank
  bringUp 4 failed false (if b = 0 then useBank s.harebell.bootBank false s else useBank b true s)

/-! ### The end of bring-up (R523, R525) -/

/-- TIME_SET when a domain is VALID, making its OFFSET zero (R317, R523); domain 0 before domain 1. -/
def bootTime (s : State) : State :=
  match (List.range 2).find? (domValid s) with
  | none => s
  | some d =>
    let s := advanceDomAt 1 (advanceDomAt 0 s)
    let domain : Int := ((s.time * fracUnit + s.frac : Nat) : Int) - (dom s d).offset
    setTime s (wrapInt 64 (-(-domain / (fracUnit : Int))))

/-- The safe-state latches were kept or set before the end of bring-up: the module stays in the safe state, the outputs in STO
(log entry 42). -/
def stayHeld (s : State) : State :=
  let s := fsetb (fsetb s Reg.QMGR_STATUS_SAFE_HOLD true) Reg.RING_TEASEL_SAFE_SUSPEND true
  fset (suspendRefine (yarrowSafe s)) Reg.PWR_FREQ_PERMITTED_MHZ 800

/-- The last step of bring-up: triggers armed, issue enabled, commands accepted, outputs RUN, stage 3 started. -/
def bootDone (s : State) : State :=
  let l := setOf s s.harebell.active
  let s := bootTime s
  let s := forRange 64 (fun i s => loadTrigger i (setTrigger l i) s) s
  let s := forRange 128 (fun k s => if bitAt ((stream s k).field 3 1) 3 && (stream s k).used then startStream k s else s) s
  let s := forRange 48 (fun t s => fsetb s (Reg.TILE_CTRL_ISSUE_EN t) true) s
  let s := bootPhase 8 (fsetb s Reg.QMGR_STATUS_ACCEPTING true)
  let s := if inSafe s then stayHeld s
    else fset (fset (fset s Reg.SAFE_STATUS_STATE 1) Reg.SAFE_STATUS_OUT_A 1) Reg.SAFE_STATUS_OUT_B 1
  let s := startStage3 s
  let s := modHarebell s (fun h => { h with
    booted := true, waiting := false, bootBank := h.bank, trialBank := if h.trial then 0 else h.trialBank, trial := false, treeAt := some s.ticks })
  let s := fsetb s Reg.SEC_STATUS_TRIAL false
  let s := { modSafety s (fun x => { x with goldenBase := s.time, served := s.time }) with goldenAt := s.time, goldenLate := false }
  let v := s.harebell.stageVer
  let s := raise s 0xB001 secIsland (u8 s.harebell.bank ++ leBytes 4 (v.getD 0 0) ++ leBytes 4 (v.getD 1 0) ++ leBytes 4 (v.getD 2 0)
    ++ u32 ((s.ticks - s.harebell.resetAt) / 500000))
  autoJoin s

/-- BOOT_DONE. -/
def execBootDone (s : State) : Out := whenAlive s (fun s => if s.harebell.waiting then .next (bootDone s) else .next s)

/-- TRIAL_BOOT_TIMEOUT (R524): 10 s without ACCEPTING. -/
def execTrialBootTimeout (failedInjection : Nat) (s : State) : Out :=
  whenAlive s (fun s =>
    if s.harebell.trial = true ∧ s.harebell.booted = false ∧ s.harebell.resetAt + 5000000000 ≤ s.ticks then
      let last := decide (s.harebell.trialBank = 0)
      let s := restart 4 (abandonTrial 2 s)
      .next (bringUp 4 failedInjection last (useBank s.harebell.bootBank false s))
    else .next s)

/-! ### Power-on and module reset -/

/-- POWER_ON_RESET (R537, R559): while RST_N is low the bring-up waits for its release (R560). -/
def execPowerOnReset (msel failedInjection : Nat) (s : State) : Out :=
  let s := modPower s (fun p => { p with absent := false, presentAt := none, presTerm := false })
  let s := resetState .powerOn msel s
  .next (if s.power.rstLow then fset s Reg.GLB_RESET_CAUSE_CAUSE 1 else startBringUp failedInjection 1 0 s)

/-- RST_N_ASSERT (R538): every island but the time unit is in reset. Unpowered islands only see the level. -/
def execRstNAssert (s : State) : Out :=
  if s.power.rstLow then .next s
  else
    let s := if s.power.off || s.power.dormant then s else resetState .module_ (modnum s) s
    .next (modPower s (fun p => { p with rstLow := true }))

/-- RST_N_RELEASE: a full bring-up. -/
def execRstNRelease (msel failedInjection : Nat) (s : State) : Out :=
  if s.power.rstLow = false then .next s
  else
    let s := modPower s (fun p => { p with rstLow := false })
    .next (if s.power.off || s.power.dormant then s else startBringUp failedInjection 2 0 (resetState .module_ msel s))

end Sys2Proof.Machine
end

