-- ==== Sys2Proof/Machine/Secure.lean ====
section
/-! DEFINITION. Harebell's flash and attestation commands (R533 to R535). -/

namespace Sys2Proof.Machine

/-! ### The protected store (R519, R534) -/

/-- First flash byte and size of a target: bank A, bank B, slot 0, slot 1. -/
def targetBase (t : Nat) : Nat := if t < 2 then t * 0x80000000 else slotBase (t - 2)
/-- Bytes of a target. -/
def targetBytes (t : Nat) : Nat := if t < 2 then 0x80000000 else slotBytes

/-- Whether STORE_WRITE may write a target: not the running bank or BOOT_BANK; a slot that SET_ACTIVE does not name (R177), and
not SET_SHADOW's while a commit waits (R530). -/
def targetFree (s : State) (t : Nat) : Bool :=
  if t < 2 then decide (t + 1 ≠ s.harebell.bank ∧ t + 1 ≠ s.harebell.bootBank)
  else
    let a := s.harebell.active
    decide (t - 2 ≠ headSlot (setHead s a)) && (s.harebell.commit.isNone || decide (t - 2 ≠ headSlot (setHead s (1 - a))))

/-- A target loses or gains its VERIFIED flag. -/
def setVerified (t : Nat) (on : Bool) (s : State) : State :=
  modHarebell s (fun h => { h with
    verified := if on then (if h.verified.contains t then h.verified else insertBy id t h.verified)
      else h.verified.filter (fun x => decide (x ≠ t)) })

/-- The engine of STORE_WRITE. -/
def storeWriteEngine (q : Nat) (c : QCmd) (s : State) : Verdict :=
  let t := c.field 16 1
  let va := c.field 24 8
  let off := c.field 32 8
  let n := 4096 * c.length
  if c.reservedZero [(16, 1), (24, 8), (32, 8)] = false ∨ 3 < t ∨ off % 4096 ≠ 0 ∨ targetBytes t < off + n ∨ opAligned q va 64 = false
  then invalid s
  else if targetFree s t = false then refuse s
  else match opRead s q va n with
    | .error e => failOperand s q c secIsland 0 e
    | .ok bs => okay (countFlash (flashWrite (setVerified t false s) (targetBase t + off) bs) n)

/-- STORE_WRITE (0x0720). -/
def execStoreWrite (q n : Nat) (s : State) : Out := runEngine 0x0720 q n (storeWriteEngine q) s

/-- The first stage of a bank that R522 refuses, with the cause. -/
def bankFails (s : State) (bank : Nat) : Option (Nat × Nat) :=
  [1, 2, 3].findSome? (fun stage => match stageFails s bank stage with | 0 => none | k => some (stage, k))

/-- The engine of STORE_VERIFY. -/
def storeVerifyEngine (c : QCmd) (s : State) : Verdict :=
  let t := c.field 16 1
  if c.length ≠ 1 ∨ c.reservedZero [(16, 1)] = false ∨ 3 < t then invalid s
  else if t < 2 then
    match bankFails s (t + 1) with
    | none => okay (setVerified t true s)
    | some (stage, k) => invalid (stageRefused stage (t + 1) k (stageReport (t + 1) stage (setVerified t false s))) stage
  else match imageHead s (t - 2) with
    | .ok _ => okay (setVerified t true s)
    | .error e =>
      let s := setVerified t false s
      match e with
      | .verify i => invalid (imageEvent (t - 2) e (slotReport (t - 2) i s)) i
      | .refused _ => invalid (imageEvent (t - 2) e s)

/-- STORE_VERIFY (0x0721). -/
def execStoreVerify (q n : Nat) (s : State) : Out := runEngine 0x0721 q n storeVerifyEngine s

/-- The engine of FW_ACTIVATE (R524). -/
def fwActivateEngine (c : QCmd) (s : State) : Verdict :=
  let t := c.field 16 1
  if c.length ≠ 1 ∨ c.reservedZero [(16, 1)] = false ∨ 1 < t ∨ s.harebell.verified.contains t = false then invalid s
  else okay (modHarebell s (fun h => { h with trialBank := t + 1 }))

/-- FW_ACTIVATE (0x0722). -/
def execFwActivate (q n : Nat) (s : State) : Out := runEngine 0x0722 q n fwActivateEngine s

/-- Versions of the objects that run: three stages, the image, the set (R526). -/
def runningVersions (s : State) : List Nat :=
  s.harebell.stageVer ++ [(s.image.map (·.version)).getD 0, headVersion (setHead s s.harebell.active)]

/-- The engine of ROLLBACK_RAISE (R527). -/
def rollbackEngine (c : QCmd) (s : State) : Verdict :=
  if c.length ≠ 1 ∨ c.reservedZero [] = false then invalid s
  else
    let new := ((List.range 5).zip (runningVersions s)).map (fun (k, v) => max v (minValue s k))
    okay (raise (modHarebell s (fun h => { h with minCopies := [some new, some new] })) 0xB006 secIsland (new.flatMap (leBytes 4)))

/-- ROLLBACK_RAISE (0x0723). -/
def execRollbackRaise (q n : Nat) (s : State) : Out := runEngine 0x0723 q n rollbackEngine s

/-! ### Attestation (R532, R533) -/

/-- The signature counter: the larger valid copy; none when both are uncorrectable. -/
def sigCounter (s : State) : Option Nat :=
  match s.harebell.sigCopies.filterMap id with
  | [] => none
  | l => some (l.foldl max 0)

/-- Write the signature counter. -/
def setCounter (q : Nat) (s : State) : State :=
  let s := modHarebell s (fun h => { h with sigCopies := [some q, some q] })
  fsetb s Reg.SEC_STATUS_KEY_DONE (decide (2 ^ 20 ≤ q))

/-- The attestation report (Table 20.10). -/
def report (s : State) (q : Nat) (nonce user : List Byte) : List Byte :=
  let h := s.harebell
  let flags := b2n (fbit s Reg.SEC_STATUS_BENCH) + 2 * b2n (decide (2 ≤ fget s Reg.SAFE_STATUS_STATE)) + 4 * b2n (inHold s)
    + 8 * b2n h.trial
  leBytes 4 0x41545331 ++ leBytes 2 1 ++ u8 (modnum s) ++ u8 flags ++ leBytes 8 Config.moduleUid.toNat ++ padTo 32 nonce
    ++ leBytes 8 s.time ++ leBytes 4 s.tansy.powerCycle ++ leBytes 4 s.tansy.opSeconds ++ leBytes 4 q ++ leBytes 4 (regWord s Reg.GLB_ID)
    ++ leBytes 8 ((s.image.map (·.imageId)).getD 0) ++ leBytes 4 ((s.image.map (·.version)).getD 0)
    ++ leBytes 4 (headVersion (setHead s h.active)) ++ (h.stageVer.take 3).flatMap (leBytes 4)
    ++ (List.range 5).flatMap (fun k => leBytes 4 (minValue s k)) ++ u8 (fget s Reg.GLB_MODNUM_JOB_MASK) ++ u8 h.bootBank
    ++ List.replicate 6 0 ++ (h.meas.take 8).flatMap (padTo 32) ++ padTo 64 user ++ List.replicate 64 0

/-- The report with its signature block: class IDENTITY, the public key of the certificate, SIG of 5,076 bytes. -/
def signedReport (q : Nat) (r : List Byte) : List Byte :=
  r ++ leBytes 4 0x53474E31 ++ u8 2 ++ u8 0 ++ [0, 0] ++ padTo 60 (slice Config.certificate 16 60) ++ leBytes 4 5076
    ++ List.replicate 8 0 ++ padTo 5076 (Config.lmsSignature q r)

/-- No further report: the key is used up, or its state is lost. -/
def keyGone (s : State) : Verdict :=
  noResource (raise (fsetb s Reg.SEC_STATUS_KEY_DONE true) 0xB203 secIsland [])

/-- Sign and write report `k`; an operand that fails wastes no index. The next level-1 tree is due after every 1,024th. -/
def signReport (q k : Nat) (c : QCmd) (user : List Byte) (s : State) : Verdict :=
  match opWrite s q (c.field 48 8) (signedReport k (report s k (slice c.packet 16 32) user)) with
  | .error e => failOperand s q c secIsland 0 e
  | .ok s =>
    let s := if k = 943718 then raise (fsetb s Reg.SEC_STATUS_KEY_LOW true) 0xB202 secIsland [] else s
    let s := modHarebell (setCounter (k + 1) s) (fun h => { h with signed := decide ((k + 1) % 1024 ≠ 0) })
    okay (raise s 0xB201 secIsland (leBytes 4 k))

/-- The engine of ATTEST; `harebell.signed` says that the level-1 tree of the next index is built. -/
def attestEngine (q : Nat) (c : QCmd) (s : State) : Verdict :=
  let va := c.field 48 8
  let uva := c.field 56 8
  if c.length ≠ 1 ∨ opAligned q va 64 = false ∨ (uva ≠ 0 ∧ opAligned q uva 64 = false) then invalid s
  else match sigCounter s with
    | none => keyGone (raise (setCounter (2 ^ 20) (reportCopies s.harebell.sigCopies s)) 0xB204 secIsland [])
    | some k =>
      if 2 ^ 20 ≤ k then keyGone s
      else if s.harebell.signed = false then .wait (modHarebell s (fun h => { h with treeAt := some (h.treeAt.getD s.ticks) }))
      else if uva = 0 then signReport q k c (List.replicate 64 0) s
      else match opRead s q uva 64 with
        | .error e => failOperand s q c secIsland 0 e
        | .ok user => signReport q k c user s

/-- ATTEST (0x0724). -/
def execAttest (q n : Nat) (s : State) : Out := runEngine 0x0724 q n (attestEngine q) s

/-- IDENTITY_TREE_REBUILD: the level-1 tree is there. -/
def execIdentityTreeRebuild (s : State) : Out :=
  whenAlive s (fun s =>
    if s.harebell.booted = true ∧ s.harebell.treeAt.isSome = true
    then .next (modHarebell s (fun h => { h with treeAt := none, signed := true })) else .next s)

/-- The engine of IDENTITY_READ. -/
def identityReadEngine (q : Nat) (c : QCmd) (s : State) : Verdict :=
  let va := c.field 24 8
  if c.length ≠ 1 ∨ c.reservedZero [(24, 8)] = false ∨ opAligned q va 64 = false then invalid s
  else match opWrite s q va (Config.certificate.take 0x10000) with
    | .error e => failOperand s q c secIsland 0 e
    | .ok s => okay s

/-- IDENTITY_READ (0x0725). -/
def execIdentityRead (q n : Nat) (s : State) : Out := runEngine 0x0725 q n (identityReadEngine q) s

/-- The engine of MEAS_EXTEND. -/
def measExtendEngine (q : Nat) (c : QCmd) (s : State) : Verdict :=
  let va := c.field 24 8
  if c.length ≠ 1 ∨ c.reservedZero [(24, 8)] = false ∨ opAligned q va 64 = false then invalid s
  else match opRead s q va 32 with
    | .error e => failOperand s q c secIsland 0 e
    | .ok d => okay (extendMeas 7 d s)

/-- MEAS_EXTEND (0x0726). -/
def execMeasExtend (q n : Nat) (s : State) : Out := runEngine 0x0726 q n (measExtendEngine q) s

end Sys2Proof.Machine
end

