-- ==== Sys2Proof/Machine/Resets.lean ====
section
/-! DEFINITION. Warm reset (R539), the power states (R540 to R546), shut-offs of the power stages (R467 to R469, R485),
POWER_READ. -/

namespace Sys2Proof.Machine

/-! ### Warm reset -/

/-- Whether any loop is in RUN or TRIPPED. -/
def loopsOn (s : State) : Bool := s.yarrow.loops.any (fun e => decide (e.2.state ≠ 0))

/-- A commit holds the module: IMAGE_HOLD, or COMMIT_PENDING. -/
def commitBusy (s : State) : Bool := inHold s || s.harebell.commit.isSome

/-- The engine of WARM_RESET: no reply when it takes effect. -/
def warmResetEngine (failed : Nat) (c : QCmd) (s : State) : Verdict :=
  if c.length ≠ 1 ∨ c.reservedZero [] = false then invalid s
  else if inSafe s then .done Status.safetyHold 0 s
  else if loopsOn s then refuse s 1
  else if commitBusy s then refuse s 2
  else .wait (startBringUp failed 3 0 (resetState .warm 0 (leaveSteps s)))

/-- WARM_RESET (0x0730). -/
def execWarmReset (q n failedInjection : Nat) (s : State) : Out := runEngine 0x0730 q n (warmResetEngine failedInjection) s

/-! ### DROWSE and DORMANT -/

/-- A command of an engine runs: a memory move, an ATTEND, a planner query. -/
def enginesBusy (s : State) : Bool :=
  !s.attends.isEmpty || (startedCmds s).any (fun e =>
    decide (e.2.opcode / 0x100 = 3 ∨ e.2.opcode = 0x0208 ∨ e.2.opcode = 0x0402 ∨ e.2.opcode = 0x0403))

/-- The first condition of R541 that fails, 0 for none. -/
def stateBlocked (s : State) : Nat :=
  if loopsOn s then 1
  else if (List.range 8).any (fun p => decide (2 ≤ portState s p)) then 2
  else if s.queues.any (fun e => !isMgmt e.1 && !e.2.out.isEmpty) || (listedThreads s).any (fun (_, _, t) => t.busy) || enginesBusy s
  then 3
  else if otherMembers s ≠ [] then 4
  else if commitBusy s then 5
  else 0

/-- The instant, in time-clock ticks, at which WAKE_AFTER_MS ends. -/
def wakeAt (ms : Nat) (s : State) : Option Nat := if ms = 0 then none else some (s.ticks + ms * 500000)

/-- The ports and the PCIe link stop. -/
def linksDown (s : State) : State :=
  let s := forRange 3 (fun p s => fsetb (fset (setLinkState s p 0) (Reg.LINK_PORT_STATE_LOCK p) 0) (Reg.LINK_PORT_STATE_PEER_VALID p) false) s
  setRegWord s Reg.PCIE_STATUS 0

/-- DROWSE (R542). -/
def enterDrowse (ms : Nat) (s : State) : State :=
  let s := raise s 0x900D powerIsland (u8 1 ++ u32 ms)
  linksDown (modPower (fset s Reg.PWR_LPSTATE_STATE 1) (fun p => { p with lpSince := s.time, wakeTick := wakeAt ms s }))

/-- Tansy writes every record on its way to the log. -/
def drainLog (s : State) : State :=
  let t := s.tansy
  let l := t.staging ++ t.raised
  let l := if 0 < t.lost then l ++ [lossEvent t s.time] else l
  let t := { t with staging := [], raised := [], lost := 0 }
  { s with tansy := if t.scanDone then l.foldl (fun t e => logWrite t (modnum s) s.time e) t else t }

/-- DORMANT (R545): the log is drained, OP_SECONDS stored, all but the wake logic, the time unit and what is stored is lost. The
proof count stops (R430). -/
def enterDormant (ms : Nat) (s : State) : State :=
  let s := drainLog (raise s 0x900D powerIsland (u8 2 ++ u32 ms))
  let at_ := wakeAt ms s
  let s := modSafety s (fun x => { x with injectAt := x.injectAt.map (fun t => s.ticks - t) })
  let s := resetState .dormant 0 { s with tansy := { s.tansy with stored := s.tansy.opSeconds } }
  modPower s (fun p => { p with dormant := true, lpSince := s.time, wakeTick := at_ })

/-- The exit from DORMANT (R546): a full bring-up, when RST_N is high. -/
def exitDormant (wake failed : Nat) (s : State) : State :=
  let s := modSafety s (fun x => { x with injectAt := x.injectAt.map (fun e => s.ticks - e) })
  let s := resetState .dormant 0 (modPower s (fun p => { p with dormant := false }))
  if s.power.rstLow then s else startBringUp failed 5 wake s

/-- Send the replies of a management queue that have not left (R576). -/
def flushReplies (q : Nat) (s : State) : State :=
  let n := (s32diff (queue s q).cqTail (mgmt s q).unsent).toNat
  if 2 ≤ q ∨ n = 0 then s else sendReplies s q (mgmt s q).unsent (min n 90)

/-- Post the reply of the command at the head of its queue, then enter DORMANT. -/
def replyThenSleep (q ms : Nat) (c : QCmd) (s : State) : State :=
  let s := completeCmd s q c.n Status.ok 0
  match (queue s q).out with
  | d :: _ => enterDormant ms (flushReplies q (postReply s q d))
  | [] => enterDormant ms s

/-- The engine of POWER_STATE_SET. DORMANT waits until its reply can be posted. -/
def powerStateEngine (q : Nat) (c : QCmd) (s : State) : Verdict :=
  let st := c.field 16 1
  let ms := c.field 20 4
  if c.length ≠ 1 ∨ c.reservedZero [(16, 1), (20, 4)] = false ∨ 2 < st then invalid s
  else if st = 0 then okay s
  else if inSafe s then .done Status.safetyHold 0 s
  else if stateBlocked s ≠ 0 then refuse s (stateBlocked s)
  else if st = 1 then okay (enterDrowse ms s)
  else if ((queue s q).out.head?.map (·.n)) = some c.n then .wait (replyThenSleep q ms c s)
  else .wait s

/-- POWER_STATE_SET (0x0731). -/
def execPowerStateSet (q n : Nat) (s : State) : Out := runEngine 0x0731 q n (powerStateEngine q) s

/-- A wake source of both states; `wake` is 1 for WAKE_N, 2 for the timer. -/
def wakeUp (wake failed : Nat) (s : State) : State :=
  if s.power.off then s
  else if s.power.dormant then exitDormant wake failed s
  else drowseExit wake s

/-- WAKE_N_LOW (R544, R546). -/
def execWakeNLow (failedInjection : Nat) (s : State) : Out := .next (wakeUp 1 failedInjection s)

/-- WAKE_AFTER_MS_EXPIRY. -/
def execWakeAfterMsExpiry (failedInjection : Nat) (s : State) : Out :=
  match s.power.wakeTick with
  | none => .next s
  | some t => if t ≤ s.ticks then .next (wakeUp 2 failedInjection s) else .next s

/-! ### Shut-offs -/

/-- All eight stages shut off until the next power-on reset; what is on its way to the log is lost. -/
def shutOff (s : State) : State :=
  let s := resetState .module_ (modnum s) { s with tansy := { s.tansy with raised := [], staging := [] } }
  modPower s (fun p => { p with off := true })

/-- BUS_SHUTOFF (R469). -/
def execBusShutoff (s : State) : Out := .next (if s.power.off then s else shutOff s)

/-- THERMAL_SHUTDOWN (R485): a trip-chain sensor at 125 °C. -/
def execThermalShutdown (sensor : Nat) (s : State) : Out :=
  whenAlive s (fun s => if 8 ≤ sensor then .next s else .next (shutOff (drainLog (raise s 0x9007 powerIsland []))))

/-- The code of a phase's cause (Table 18.6). -/
def PhaseCause.code : PhaseCause → Nat
  | .overcurrent => 1
  | .overtemperature => 2

/-- PHASE_FAULT (R468, R467): without phase 5 the links stop; phase 7 carries what remains, so its loss is the module's. -/
def execPhaseFault (phase : Nat) (cause : PhaseCause) (s : State) : Out :=
  whenAlive s (fun s =>
    if 8 ≤ phase ∨ phaseUp s phase = false then .next s
    else
      let s := finc (fsetb s (Reg.PWR_PHASE_FAULT phase) true) (Reg.PWR_CNT_COUNT 5)
      let s := raise s 0x9009 powerIsland (u16 phase ++ u8 (PhaseCause.code cause))
      .next (if phase = 7 then shutOff s else rescheduleAll (if phase = 5 then linksDown s else s)))

/-! ### POWER_READ (R488) -/

/-- REMAIN_MS. -/
def remainMs (s : State) : Nat :=
  match s.power.wakeTick with
  | none => 0
  | some t => ceilDiv (t - s.ticks) 500000

/-- The engine of POWER_READ: offsets 0x000 to 0x03F of the PWR slot. -/
def powerReadEngine (q : Nat) (c : QCmd) (s : State) : Verdict :=
  let va := c.field 24 8
  let word (i : Nat) : Nat := if Reg.PWR_STATUS + 4 * i = Reg.PWR_WAKE then remainMs s else regWord s (Reg.PWR_STATUS + 4 * i)
  if c.length ≠ 1 ∨ c.reservedZero [(24, 8)] = false ∨ opAligned q va 64 = false then invalid s
  else match opWrite s q va ((List.range 16).flatMap (fun i => leBytes 4 (word i))) with
    | .error e => failOperand s q c powerIsland 0 e
    | .ok s => okay s

/-- POWER_READ (0x0712). -/
def execPowerRead (q n : Nat) (s : State) : Out := runEngine 0x0712 q n (powerReadEngine q) s

end Sys2Proof.Machine
end

