-- ==== Sys2Proof/Machine/Upkeep.lean ====
section
/-! DEFINITION. Memory upkeep (R140, R445), the PCIe root port (R566 to R568), and the debug read window (R595). -/

namespace Sys2Proof.Machine

/-! ### Patrol scrub -/

/-- The scrubber finds an uncorrectable word: 0x1005, and no context ends. -/
def scrubBad (a : Nat) (s : State) : State :=
  let k := lpStack a
  let s := fsetb (fset (markBad s a) Reg.MEM_UNCORR_STACK k) Reg.MEM_UNCORR_SCRUB true
  stackUncorr k a (raise s 0x1005 (48 + k) [])

/-- One read of a patrol pass. A line that already reads uncorrectable stays so (R599). -/
def scrubRead (a : Nat) (r : ScrubResult) (s : State) : State :=
  if (badUnit s a 1).isSome then scrubBad a s
  else match r with
    | .clean => s
    | .corrected => corrCount (lpStack a) s
    | .uncorrectable => scrubBad a s

/-- SCRUB_PASS_READ (R140). -/
def execScrubPassRead (a : Nat) (r : ScrubResult) (s : State) : Out :=
  whenAlive s (fun s => if isLp a ∧ fbit s Reg.MEM_SCRUB_EN = true then .next (scrubRead a r s) else .next s)

/-- CORR_HOUR_ROLL (R445): the hour's counts restart on every stack; one still over the limit raises 0x1003 first. -/
def execCorrHourRoll (s : State) : Out :=
  whenAlive s (fun s => .next (forRange 12 (fun k s =>
    let s := if corrDue s k then corrRaise k s else s
    fset (setStackLog s k { stackLog s k with said := false }) (Reg.MEM_LP_ECC_CORR_HOUR k) 0) s))

/-! ### PCIe root port -/

/-- Island of the PCIe root port. -/
def pcieIsland : Nat := 74

/-- Send something over the module's wires. -/
def wire (s : State) (w : Wire) : State := { s with outbox := s.outbox ++ [w] }

/-- Who may access the control window at all (R34). -/
def mayAccess : Agent → Bool
  | .other => false
  | _ => true

/-- What an indirect access reads; an unsupported request or timeout reads ones and raises 0xA102. -/
def pcieAnswer (p : PcieCompletion) (s : State) : Nat × State :=
  match p with
  | .data v => (v.toNat, s)
  | _ => (0xFFFFFFFF, raise s 0xA102 pcieIsland [])

/-- A read of PCIE_CFG_DATA: a configuration read at PCIE_CFG_ADDR. -/
def pcieCfgRead (p : PcieCompletion) (s : State) : Nat × State :=
  pcieAnswer p (wire s (.pcieCfg false (regWord s Reg.PCIE_CFG_ADDR) 0))

/-- A read of PCIE_MEM_DATA: a 4-byte memory read at PCIE_MEM_ADDR. -/
def pcieMemRead (p : PcieCompletion) (s : State) : Nat × State :=
  pcieAnswer p (wire s (.pcieMem false (reg64 s Reg.PCIE_MEM_ADDR) 0))

/-- A write of PCIE_CFG_DATA: a configuration write at PCIE_CFG_ADDR. -/
def pcieCfgWrite (v : Nat) (p : PcieCompletion) (s : State) : State :=
  (pcieAnswer p (wire s (.pcieCfg true (regWord s Reg.PCIE_CFG_ADDR) (BitVec.ofNat 32 v)))).2

/-- A write of PCIE_MEM_DATA: a posted 4-byte write at PCIE_MEM_ADDR. -/
def pcieMemWrite (v : Nat) (p : PcieCompletion) (s : State) : State :=
  (pcieAnswer p (wire s (.pcieMem true (reg64 s Reg.PCIE_MEM_ADDR) (BitVec.ofNat 32 v)))).2

/-- Keep what an indirect read returned at its DATA register (log entry 39). -/
def keepData (off : Nat) (r : Nat × State) : State := setRegWord r.2 off r.1

/-- PCIE_CFG_READ (R566). -/
def execPcieCfgRead (agent : Agent) (p : PcieCompletion) (s : State) : Out :=
  whenAlive s (fun s => .next (if mayAccess agent then keepData Reg.PCIE_CFG_DATA (pcieCfgRead p s) else s))

/-- PCIE_CFG_WRITE (R566). -/
def execPcieCfgWrite (agent : Agent) (v : Word) (p : PcieCompletion) (s : State) : Out :=
  whenAlive s (fun s => .next (if mayAccess agent then pcieCfgWrite v.toNat p s else s))

/-- PCIE_MEM_READ (R566). -/
def execPcieMemRead (agent : Agent) (p : PcieCompletion) (s : State) : Out :=
  whenAlive s (fun s => .next (if mayAccess agent then keepData Reg.PCIE_MEM_DATA (pcieMemRead p s) else s))

/-- PCIE_MEM_WRITE (R566). -/
def execPcieMemWrite (agent : Agent) (v : Word) (p : PcieCompletion) (s : State) : Out :=
  whenAlive s (fun s => .next (if mayAccess agent then pcieMemWrite v.toNat p s else s))

/-- Whether a value of PCIE_INBOUND takes effect: EN is 0 and its window lies in the LPDDR5X share of CTX (R567). -/
def inboundOk (s : State) (v : Nat) : Bool :=
  let b := bits v 16 0
  let n := bits v 48 32
  let c := bits v 31 26
  let base := fget s (Reg.MEM_CTX_LP_BASE c)
  !fbit s Reg.PCIE_CFG_EN && decide (n = 0 ∨ (base ≤ b ∧ b + n ≤ base + fget s (Reg.MEM_CTX_LP_SIZE c)))

/-- A whole write of PCIE_INBOUND (R567). -/
def inboundWrite (v : Nat) (s : State) : State :=
  if inboundOk s v then rwStore (rwStore s Reg.PCIE_INBOUND (v % 2 ^ 32)) (Reg.PCIE_INBOUND + 4) (v / 2 ^ 32)
  else raise s 0xA103 pcieIsland (u64 v)

/-- PCIE_INBOUND_WRITE (R567): both words together. -/
def execPcieInboundWrite (agent : Agent) (v : DWord) (s : State) : Out :=
  whenAlive s (fun s => .next (if mayAccess agent then inboundWrite v.toNat s else s))

/-- Whether a downstream request lies inside the enabled window, once bring-up is complete (R525, R566). -/
def inboundHits (s : State) (r : PcieRequest) : Bool :=
  fbit s Reg.PCIE_CFG_EN && fbit s Reg.QMGR_STATUS_ACCEPTING &&
    decide (r.addr + r.bytes ≤ fget s Reg.PCIE_INBOUND_SIZE * 0x200000)

/-- Complete a request as Unsupported Request. -/
def unsupported (s : State) : State := wire s (.pcieReply false [])

/-- A downstream device's request (R566, R567, R599). An uncorrectable read names no context and returns no data. -/
def inboundRequest (r : PcieRequest) (s : State) : State :=
  let a := fget s Reg.PCIE_INBOUND_BASE * 0x200000 + r.addr
  if inboundHits s r = false then
    (if fbit s Reg.QMGR_STATUS_ACCEPTING then raise (unsupported s) 0xA103 pcieIsland (u64 r.addr) else unsupported s)
  else if r.write then
    match badPartial s a r.bytes with
    | some u => unsupported (reportUncorr s (max u a) pcieIsland 0xFF 0)
    | none => wire (softWrite s a (padTo r.bytes r.data)) (.pcieReply true [])
  else
    match badUnit s a r.bytes with
    | some u => unsupported (reportUncorr s (max u a) pcieIsland 0xFF 0)
    | none => wire (noteCorr a r.bytes s) (.pcieReply true (memRead s a r.bytes))

/-- PCIE_INBOUND_REQUEST (R566). -/
def execPcieInboundRequest (r : PcieRequest) (s : State) : Out :=
  whenFed 5 s (fun s => .next (if inDrowse s then s else inboundRequest r s))

/-- PCIE_LINK_CHANGE (R568): SPEED at most MAX_SPEED, and one of the widths of PCIE_STATUS; 0xA101 when LINK_UP changes. -/
def execPcieLinkChange (up : Bool) (speed width : Nat) (s : State) : Out :=
  whenAlive s (fun s =>
    if up = true ∧ (inDrowse s = true ∨ phaseUp s 5 = false ∨ ¬ (1 ≤ speed ∧ speed ≤ fget s Reg.PCIE_CFG_MAX_SPEED) ∨ [1, 2, 4, 8].contains width = false)
    then .next s
    else
      let was := fbit s Reg.PCIE_STATUS_LINK_UP
      let v := if up then width * 0x100 + speed * 4 + 1 else 0
      let s := setRegWord s Reg.PCIE_STATUS v
      .next (if was = up then s else raise s 0xA101 pcieIsland (u8 (bits v 4 2) ++ u8 (bits v 11 8))))

/-! ### Debug read window (R595) -/

/-- A write of MEM_DBG_ADDR's low word starts one 8-byte read; only privileged runtime threads and management commands
write it. -/
def dbgAddrWrite (agent : Agent) (v : Nat) (s : State) : State :=
  match agent with
  | .runtime | .management =>
    let s := rwStore s Reg.MEM_DBG_ADDR v
    { s with dbgRead := some (fget s Reg.MEM_DBG_ADDR_ADDR * 8) }
  | _ => s

/-- Wake the threads that wait for the window's low word (R33: the high word comes from the latch). -/
def dbgWake (v : Nat) (s : State) : State :=
  mapThreads (fun _ t =>
    match t.wait with
    | .debugData rd => if t.state = .waiting then (setXreg t rd (BitVec.ofNat 64 (v % 2 ^ 32))).wake else t
    | _ => t) s

/-- Whether some thread waits for the window's low word. -/
def dbgAwaited (s : State) : Bool :=
  s.threads.any (fun e => decide (e.2.state = .waiting) && (match e.2.wait with | .debugData _ => true | _ => false))

/-- A low-word read latches the high word (R33). -/
def latchHigh (off v : Nat) (s : State) : State :=
  { s with latch := storeSet (fun _ => none) s.latch off (some (BitVec.ofNat 32 (v / 2 ^ 32))) }

/-- The data of a window read, none where it fails. -/
def dbgData (s : State) (a : Nat) : Option Nat :=
  if isMemory a ∧ (badUnit s a 8).isNone then some (memNat s a 8) else none

/-- What a window read shows of the memory it meets (R137): an uncorrectable word is reported, corrections are counted. -/
def dbgNoted (s : State) (a : Nat) : State :=
  if isMemory a then (match badUnit s a 8 with
    | some u => reportUncorr s (max u a) moveIsland 0xFF 0
    | none => noteCorr a 8 s) else s

/-- The window read under way completes. -/
def dbgFinish (s : State) : State :=
  match s.dbgRead with
  | none => s
  | some a =>
    let v := dbgData s a
    let s := dbgNoted s a
    let s := fsetb { s with dbgRead := none } Reg.MEM_DBG_ADDR_ERR v.isNone
    let s := setReg64 s Reg.MEM_DBG_DATA (v.getD 0)
    let s := if dbgAwaited s then latchHigh Reg.MEM_DBG_DATA (v.getD 0) s else s
    dbgWake (v.getD 0) s

/-- DEBUG_READ_COMPLETE (R595). -/
def execDebugReadComplete (s : State) : Out := whenAlive s (fun s => .next (dbgFinish s))

end Sys2Proof.Machine
end

