-- ==== Sys2Proof/Machine/Flags.lean ====
section
/-! DEFINITION. Status words: every control-window word that the module computes from its state when it is read, and the
reading of a register (R33, R36). -/

namespace Sys2Proof.Machine

/-- A word of a value by its position. -/
def wordOf (v i : Nat) : Nat := v / 2 ^ (32 * i) % 2 ^ 32

/-- Word at byte offset `o` of a readable record. -/
def recWord (bs : List Byte) (o : Nat) : Nat := fieldAt bs (o / 4 * 4) 4

/-! ### TILE (02, 24) -/

/-- Threads of a tile in a state. -/
def threadsIn (s : State) (tile : Nat) (st : ThreadState) : Nat :=
  (s.threads.filter (fun e => decide (e.1 / 128 = tile ∧ e.2.state = st))).length

/-- Whether a unit has a started command. -/
def unitBusy (s : State) (tile u : Nat) : Bool := !(unit s tile u).started.isEmpty

/-- TILE_STATUS. -/
def tileStatus (s : State) (tile : Nat) : Nat :=
  let ready := threadsIn s tile .ready
  let waiting := threadsIn s tile .waiting
  let quiet := decide (ready + waiting = 0) && (List.range 6).all (fun u => (unit s tile u).queue.isEmpty)
  waiting * 2 ^ 16 + ready * 2 ^ 8 + b2n quiet * 2 ^ 5 + b2n (unitBusy s tile 4) * 2 ^ 4 + b2n (unitBusy s tile 3) * 2 ^ 3
    + b2n (unitBusy s tile 2) * 2 ^ 2 + b2n (unitBusy s tile 1) * 2 + b2n (unitBusy s tile 0)

/-- STATE codes of Table 2.2. -/
def ThreadState.code : ThreadState → Nat
  | .unassigned => 0
  | .idle => 1
  | .ready => 2
  | .waiting => 3
  | .debugHalt => 4

/-- TILE_THR. -/
def thrWord (s : State) (tile t : Nat) : Nat :=
  let th := thread s tile t
  ThreadState.code th.state * 2 ^ 8 + t / 32 * 2 ^ 6 + th.ctx

/-- TILE_DBG_REG: a register of a halted thread; in other states it reads 0. -/
def dbgReg (s : State) (tile t r : Nat) : Nat :=
  let th := thread s tile t
  if th.state = .debugHalt then (xreg th r).toNat else 0

/-- TILE_CTX_RUN. -/
def ctxRun (s : State) (tile : Nat) : Nat := ((List.range 64).map (fun c => b2n (runBit s tile c) * 2 ^ c)).sum

/-- Computed words of a tile's slot. -/
def tileView (s : State) (tile o : Nat) : Option Nat :=
  if o = 0x008 then some (tileStatus s tile)
  else if o = 0x040 ∨ o = 0x044 then some (wordOf (ctxRun s tile) ((o - 0x040) / 4))
  else if 0x100 ≤ o ∧ o < 0x130 then some (wordOf (perfValue s tile ((o - 0x100) / 8)) (o / 4 % 2))
  else if 0x400 ≤ o ∧ o < 0x600 then some (thrWord s tile ((o - 0x400) / 4))
  else if 0x800 ≤ o ∧ o < 0xC00 then some (wordOf (thread s tile ((o - 0x800) / 8)).pc (o / 4 % 2))
  else if 0x1000 ≤ o ∧ o < 0x9000 then some (wordOf (dbgReg s tile ((o - 0x1000) / 256) ((o - 0x1000) / 8 % 32)) (o / 4 % 2))
  else none

/-! ### MEM, KVM, QMGR (04, 05, 07) -/

/-- Started commands whose opcode satisfies `p`. -/
def startedOps (s : State) (p : Nat → Bool) : Nat := ((startedCmds s).filter (fun e => p e.2.opcode)).length

/-- Computed words of MEM; TBW counts whole terabytes (log entry 24). -/
def memView (s : State) (o : Nat) : Option Nat :=
  if o = 0x000 then
    some (setBits (setBit (regWord s Reg.MEM_STATUS) 8 (fbit s Reg.MEM_SCRUB_EN && fbit s Reg.MEM_STATUS_FLASH_READY)) 4 0
      (startedOps s (fun op => decide (op / 0x100 = 3))))
  else if o = 0x080 then
    some (setBits (regWord s Reg.MEM_FLASH_HEALTH) 23 8 (min (s.flashBytes / 1000000000000) 0xFFFF))
  else none

/-- Computed words of KVM. -/
def kvmView (s : State) (o : Nat) : Option Nat :=
  if o = 0x000 then some (setBits (setBits (regWord s Reg.KVM_STATUS) 15 8 s.attends.length) 3 0 (wideCount s))
  else if 0x500 ≤ o ∧ o < 0x600 then
    let c := (o - 0x500) / 4
    some (if kvSize s c = 0 then 0 else (freeWide s c).length * 2 ^ 24 + (freeNarrow s c).length)
  else if 0x600 ≤ o ∧ o < 0x700 then
    let c := (o - 0x600) / 4
    some (if kvSize s c = 0 then 0 else (cachedNarrow s c).length)
  else none

/-- QSTATE: OUTSTANDING, and what the next command to start waits for. -/
def qstate (s : State) (q : Nat) : Nat :=
  let next := nextWaiting s q
  let fence := (queue s q).out.any (fun c => decide (c.opcode = 0x0700 ∧ c.phase = .started))
    || (match next with | some c => decide (c.opcode = 0x0700) && !fencesOpen s q c | none => false)
  let trig := match next with | some c => !triggerReached s c | none => false
  setBits (setBit (setBit (regWord s (Reg.QMGR_QSTATE q)) 28 fence) 27 trig) 12 0 (outstanding s q)

/-- Computed words of QMGR. -/
def qmgrView (s : State) (o : Nat) : Option Nat :=
  if 0x80000 ≤ o ∧ o % 32 = 0x18 then some (qstate s ((o - 0x80000) / 32)) else none

/-! ### CTL, RING (09, 10) -/

/-- Loops that satisfy `p`, counted. -/
def loopsWhere (s : State) (p : Nat → Loop → Bool) : Nat := (s.yarrow.loops.filter (fun e => p e.1 e.2)).length

/-- CTL_TRIP[k]. -/
def tripWord (s : State) (k : Nat) : Nat :=
  ((List.range 32).map (fun j => b2n (decide ((loop s (32 * k + j)).state = 2)) * 2 ^ j)).sum

/-- A word of a loop's coefficient bank (Table 9.4 note a). -/
def bankWord (s : State) (l b i : Nat) : Nat :=
  let x := loop s l
  ((if b = 0 then x.bankA else x.bankB).getD i 0).toNat

/-- Computed words of CTL. -/
def ctlView (s : State) (o : Nat) : Option Nat :=
  if o = 0x000 then
    some (setBit (setBits (regWord s Reg.CTL_STATUS) 11 3 (loopsWhere s (fun _ x => decide (x.state ≠ 0)))) 0 (inHold s))
  else if 0x040 ≤ o ∧ o < 0x060 then some (tripWord s ((o - 0x040) / 4))
  else if 0x10000 ≤ o ∧ o < 0x14000 then some (loopWord s ((o - 0x10000) / 64) (o / 4 % 16))
  else if 0x20000 ≤ o ∧ o < 0x30000 then some (bankWord s ((o - 0x20000) / 256) (o / 128 % 2) (o / 4 % 32))
  else none

/-- Computed words of RING. -/
def ringView (s : State) (o : Nat) : Option Nat :=
  if o = 0x000 then some (((List.range 8).map (fun p => portState s p * 2 ^ (4 * p))).sum)
  else if o = 0x004 then
    some (setBits (regWord s Reg.RING_TEASEL) 24 16
      ((List.range 256).filter (fun r => fbit s (Reg.RING_RULE_STATE_ARMED r))).length)
  else if 0x1000 ≤ o ∧ o < 0x3000 ∧ o % 0x400 = 8 then some (roundNs s ((o - 0x1000) / 0x400))
  else if 0x8000 ≤ o ∧ o < 0xA000 then some (recWord (rule s ((o - 0x8000) / 32)) (o % 32))
  else none

/-! ### TIME, NET, SNS, PLN (11, 12, 13) -/

/-- TIME_DOM_STATUS, OFFSET, RATE and GMID (Table 11.6); figures are rounded down. -/
def domView (s : State) (d o : Nat) : Option Nat :=
  let x := dom s d
  if o = 0x04 then some (b2n (domValid s d) * 2 ^ 31 + b2n x.self_ * 2 ^ 30)
  else if o = 0x08 ∨ o = 0x0C then some (wordOf (wrapInt 64 (domOffset x)) (o / 4 % 2))
  else if o = 0x10 then some (wrapInt 32 (((x.rateNum : Int) - x.rateDen) * 1000000000 / x.rateDen))
  else if o = 0x18 ∨ o = 0x1C then some (wordOf x.gmid (o / 4 % 2))
  else none

/-- Computed words of TIME. -/
def timeView (s : State) (o : Nat) : Option Nat :=
  if o = 0x008 ∨ o = 0x00C then some (wordOf s.time (o / 4 % 2))
  else if o = 0x010 then some s.timeu.fracLatch
  else if o = 0x018 ∨ o = 0x01C then some (wordOf s.timeu.incr (o / 4 % 2))
  else if 0x100 ≤ o ∧ o < 0x180 then domView s ((o - 0x100) / 0x40) (o % 0x40)
  else if 0x1000 ≤ o ∧ o < 0x1400 ∧ 8 ≤ o % 16 then some (wordOf (trigNext s ((o - 0x1000) / 16)) (o / 4 % 2))
  else if 0x2000 ≤ o ∧ o < 0x2800 then some (recWord (trigRecord s ((o - 0x2000) / 32)) (o % 32))
  else none

/-- A gate-list entry as stored: GATES in its first byte, INTERVAL_NS in its second word. -/
def gateWord (s : State) (p j i : Nat) : Nat :=
  let e := (netPort s p).entries.getD j (0, 0)
  if i = 0 then e.1 else e.2

/-- Computed words of NET. -/
def netView (s : State) (o : Nat) : Option Nat :=
  if 0x2000 ≤ o ∧ o < 0x2400 then some (gateWord s ((o - 0x2000) / 0x200) (o / 8 % 64) (o / 4 % 2)) else none

/-- Computed words of SNS: the counts of running streams and groups, descriptors and slots. -/
def snsView (s : State) (o : Nat) : Option Nat :=
  if o = 0x000 then
    let runs := ((List.range 8).map (fun g => b2n (groupRuns s g) * 2 ^ g)).sum
    some (setBits (setBits (regWord s Reg.SNS_STATUS) 23 16 runs) 7 0 ((List.range 128).filter (streamRun s)).length)
  else if 0x3000 ≤ o ∧ o < 0x3080 ∧ o % 16 = 0 then
    let g := (o - 0x3000) / 16
    some (setBit (regWord s (Reg.SNS_GROUP_STATUS g)) 31 (groupRuns s g))
  else if 0x8000 ≤ o ∧ o < 0xA000 then some (recWord (stream s ((o - 0x8000) / 64)).desc (o % 64))
  else if 0xA000 ≤ o ∧ o < 0xA100 then some (recWord (group s ((o - 0xA000) / 32)).desc (o % 32))
  else if 0xB000 ≤ o ∧ o < 0xC000 then some (recWord (Slot.record (extr s ((o - 0xB000) / 64))) (o % 64))
  else if 0xC000 ≤ o ∧ o < 0xD000 then some (recWord (extr s ((o - 0xC000) / 64)).factory (o % 64))
  else none

/-- Computed words of PLN. -/
def plnView (s : State) (o : Nat) : Option Nat :=
  if o = 0x000 then
    some (setBits (setBit (regWord s Reg.PLN_STATUS) 8 (fbit s Reg.PLN_CFG_EN)) 2 0
      (startedOps s (fun op => decide (op = 0x0402 ∨ op = 0x0403))))
  else if o = 0x00C then some (mapFree s)
  else none

/-! ### SAFE, LOG, PWR, SEC (14, 17, 18, 20) -/

/-- Readable records of SAFE: limits, timing entries, trajectories. -/
def safeView (s : State) (o : Nat) : Option Nat :=
  if 0x1000 ≤ o ∧ o < 0x3000 then some (recWord (s.safety.limitRecs.getD ((o - 0x1000) / 16) []) (o % 16))
  else if 0x3000 ≤ o ∧ o < 0x3040 then some (recWord (s.safety.timingRecs.getD ((o - 0x3000) / 8) []) (o % 8))
  else if 0x4000 ≤ o ∧ o < 0x4000 + 80 * s.safety.trajRecs.length then
    some (recWord (s.safety.trajRecs.getD ((o - 0x4000) / 80) []) ((o - 0x4000) % 80))
  else none

/-- LOG_STATUS and Table 17.4. -/
def logView (s : State) (o : Nat) : Option Nat :=
  let t := s.tansy
  if o = 0x000 then
    some (t.staging.length * 2 ^ 16 + b2n t.scanDone * 2 ^ 3 + b2n t.reserveFull * 2 ^ 2 + b2n t.full * 2 + b2n t.frozen)
  else if o = 0x004 then some t.nextSeq
  else if o = 0x008 then some t.freezeSeq
  else if o = 0x00C then some t.lostTotal
  else if o = 0x010 then some t.dropped
  else if o = 0x014 then some t.powerCycle
  else if o = 0x018 then some t.opSeconds
  else none

/-- Computed words of SEC: stored state, fuses, and Table 20.11. -/
def secView (s : State) (o : Nat) : Option Nat :=
  let h := s.harebell
  if o = 0x000 then
    let gone := match sigCounter s with | some q => decide (2 ^ 20 ≤ q) | none => true
    some (setBits (setBits (setBit (regWord s Reg.SEC_STATUS) 18 (gone || fbit s Reg.SEC_STATUS_KEY_DONE)) 11 10 h.trialBank)
      9 8 h.bootBank)
  else if o = 0x008 ∨ o = 0x00C then some (wordOf Config.moduleUid.toNat (o / 4 % 2))
  else if o = 0x010 then
    some (Config.ownerDebugOk.toNat * 2 ^ 8 + Config.ownerRevoked.toNat * 2 ^ 4 + Config.ownerValid.toNat)
  else if o = 0x014 then some ((sigCounter s).getD (2 ^ 20))
  else if o = 0x018 then some (b2n h.commit.isSome * 2 ^ 2 + b2n h.shadowOk * 2 + h.active)
  else if o = 0x01C then some (headVersion (setHead s h.active))
  else if o = 0x020 then some (headVersion (setHead s (1 - h.active)))
  else if 0x040 ≤ o ∧ o < 0x054 then some (minValue s ((o - 0x040) / 4))
  else if 0x060 ≤ o ∧ o < 0x06C then some (h.stageVer.getD ((o - 0x060) / 4) 0)
  else if 0x100 ≤ o ∧ o < 0x200 then some (recWord (h.meas.getD ((o - 0x100) / 32) []) (o % 32))
  else none

/-! ### Reading the window -/

/-- The word that a block computes at offset `o` of a slot. -/
def slotView (s : State) (slot o : Nat) : Option Nat :=
  match slot with
  | 0x01 => secView s o
  | 0x02 => if o = 0x02C then some (remainMs s) else none
  | 0x03 => timeView s o
  | 0x04 => ctlView s o
  | 0x05 => ringView s o
  | 0x06 => snsView s o
  | 0x07 => plnView s o
  | 0x08 => kvmView s o
  | 0x09 => qmgrView s o
  | 0x0A => memView s o
  | 0x0B => safeView s o
  | 0x0C => logView s o
  | 0x0E => netView s o
  | n => if 0x10 ≤ n then tileView s (n - 0x10) o else none

/-- The word at a window offset; an offset no chapter defines reads 0 (R36). -/
def windowWord (s : State) (off : Nat) : Nat := ((slotView s (off / 0x100000) (off % 0x100000)).getD (regWord s off)) % 2 ^ 32

/-- The low word of the 64-bit register that a word belongs to (R33); none for a 32-bit register. -/
def pairLow (off : Nat) : Option Nat :=
  let o := off % 0x100000
  match off / 0x100000 with
  | 0x03 =>
    if 0x1000 ≤ o ∧ o < 0x1400 ∧ 8 ≤ o % 16 then some (off / 8 * 8)
    else if 0x100 ≤ o ∧ o < 0x180 ∧ (o % 0x40 / 8 = 1 ∨ o % 0x40 / 8 = 3) then some (off / 8 * 8)
    else (regFind off).bind (fun r => if r.1.words = 2 then some (off - 4 * r.2.2.2) else none)
  | _ => (regFind off).bind (fun r => if r.1.words = 2 then some (off - 4 * r.2.2.2) else none)

/-- Read a plain word with R33's latch: a low word latches its high word, and the next read of the high word takes it. A low-word
read of TIME_NOW also latches TIME_FRAC; counters of cycles are free values anew at each read. -/
def readLatched (s : State) (off : Nat) : Nat × State :=
  let v := windowWord s off
  match pairLow off with
  | none => (v, s)
  | some low =>
    if off = low then
      let s' := { s with latch := storeSet (fun _ => none) s.latch low (some (BitVec.ofNat 32 (windowWord s (low + 4)))) }
      let s' := { s' with free := if 0x10 ≤ off / 0x100000 then s.free + 512 else s.free }
      (v, if off = Reg.TIME_NOW then modTime s' (fun t => { t with fracLatch := s.frac }) else s')
    else match storeGet (fun _ => none) s.latch low with
      | some w => (w.toNat, { s with latch := storeSet (fun _ => none) s.latch low none })
      | none => (v, s)

/-- Read the word at a window offset; the indirect PCIe registers issue their access. -/
def windowRead (p : PcieCompletion) (s : State) (off : Nat) : Nat × State :=
  if off = Reg.PCIE_CFG_DATA then
    let r := pcieCfgRead p s
    (r.1, keepData off r)
  else if off = Reg.PCIE_MEM_DATA then
    let r := pcieMemRead p s
    (r.1, keepData off r)
  else readLatched s off

end Sys2Proof.Machine
end

