-- ==== Sys2Proof/Machine/Access.lean ====
section
/-! DEFINITION. Writes of the control window (R8, R33 to R36) with each block's rules: one shared write for every agent, and the
rows that name one register. -/

namespace Sys2Proof.Machine

/-! ### TILE (R70, R71, R593) -/

/-- Whether a unit command of a context is queued or started on a tile. -/
def tileUnitsBusy (s : State) (tile c : Nat) : Bool :=
  (List.range 6).any fun u => (unit s tile u).queue.any (fun d => decide (d.ctx = c)) ||
    (unit s tile u).started.any (fun d => decide (d.ctx = c))

/-- R70 on a TILE_SHARE value. -/
def shareOk (s : State) (tile c v : Nat) : Bool :=
  !tileThreadsBusy s tile c && !tileUnitsBusy s tile c
    && decide (bits v 6 0 + bits v 15 8 ≤ 128 ∧ bits v 21 16 + bits v 30 24 ≤ 64)
    && (List.range 64).all (fun x => decide (x = c)
      || !(rangesMeet (bits v 6 0) (bits v 15 8) (fget s (Reg.TILE_SHARE_BASE tile x)) (fget s (Reg.TILE_SHARE_SIZE tile x))
        || rangesMeet (bits v 21 16) (bits v 30 24) (fget s (Reg.TILE_SHARE_VBASE tile x)) (fget s (Reg.TILE_SHARE_VCOUNT tile x))))

/-- A write of TILE_SHARE (R70). -/
def shareWrite (tile c v : Nat) (s : State) : State :=
  if shareOk s tile c v then rwStore s (Reg.TILE_SHARE tile c) v else raise s 0x2003 tile []

/-- Whether a TILE_THR value is one its thread's state takes (R71). -/
def thrOk (th : Thread) (v : Nat) : Bool :=
  match th.state with
  | .unassigned => !bitAt v 14
  | .idle => !bitAt v 13 && decide (v % 64 = th.ctx)
  | _ => !bitAt v 13 && !bitAt v 14 && decide (v % 64 = th.ctx)

/-- What a taken TILE_THR value does (Table 2.2). -/
def thrEffect (th : Thread) (v : Nat) : Thread :=
  match th.state with
  | .unassigned => if bitAt v 13 then { th with state := .idle, ctx := v % 64, pc := 0 } else { th with ctx := v % 64 }
  | .idle => if bitAt v 14 then { th with state := .unassigned, pc := 0 } else th
  | _ => th

/-- A write of TILE_THR (R71). -/
def thrWrite (tile t v : Nat) (s : State) : State :=
  if thrOk (thread s tile t) v then setThread s tile t (thrEffect (thread s tile t) v) else raise s 0x2002 tile []

/-- Whether a TILE_DBG value names the state its thread is in (R593). -/
def dbgOk (th : Thread) (v : Nat) : Bool :=
  (!bitAt v 0 || th.busy) && (!(bitAt v 1 || bitAt v 2) || decide (th.state = .debugHalt))

/-- What a taken TILE_DBG value does: a READY thread stands at an instruction boundary, a WAITING one reaches it when it wakes.
RESUME wins over STEP (log entry 43). -/
def dbgEffect (th : Thread) (v : Nat) : Thread :=
  if bitAt v 0 then (if th.state = .ready then { th with state := .debugHalt } else { th with haltNext := true })
  else if bitAt v 1 then { th with state := .ready, step := false }
  else if bitAt v 2 then { th with step := true }
  else th

/-- A write of TILE_DBG (R593). -/
def dbgWrite (tile t v : Nat) (s : State) : State :=
  if dbgOk (thread s tile t) v then rescheduleAll (setThread s tile t (dbgEffect (thread s tile t) v)) else raise s 0x2002 tile []

/-- A whole write of TILE_DBG_REG (R593); x0 ignores writes. -/
def dbgRegWrite (tile t r v : Nat) (s : State) : State :=
  let th := thread s tile t
  if th.state = .debugHalt then setThread s tile t (setXreg th r (BitVec.ofNat 64 v)) else raise s 0x2002 tile []

/-- A write of TILE_CTRL: ISSUE_EN, and PERF_CLEAR in the same cycle. -/
def tileCtrlWrite (tile v : Nat) (s : State) : State :=
  let s := rwStore s (Reg.TILE_CTRL tile) v
  if bitAt v 1 then forRange 6 (fun k s => setReg64 s (Reg.TILE_PERF tile k) 0) s else s

/-- A write of TILE_FAULT: clearing VALID also clears MORE. -/
def faultClear (tile v : Nat) (s : State) : State :=
  if bitAt v 31 then fset (fsetb s (Reg.TILE_FAULT_VALID tile) false) (Reg.TILE_FAULT_MORE tile) 0 else s

/-- W1C bits of a 32-bit register. -/
def w1cStore (off v : Nat) (s : State) : State :=
  match regFind off with
  | none => s
  | some (r, _, _, w) =>
    let m := r.w1c / 2 ^ (32 * w) % 2 ^ 32 &&& v
    setRegWord s off (regWord s off &&& (2 ^ 32 - 1 - m))

/-- RW and W1C bits of a register with no rules of its own (Table 0.6). -/
def plainStore (off v : Nat) (s : State) : State := w1cStore off v (rwStore s off v)

/-- A plain write of both words. -/
def plainStore64 (off v : Nat) (s : State) : State := rwStore (rwStore s off (v % 2 ^ 32)) (off + 4) (v / 2 ^ 32)

/-- A write of a tile's slot; 64-bit registers come whole. -/
def tileWrite (tile o v : Nat) (s : State) : State :=
  if o = 0x004 then tileCtrlWrite tile v s
  else if o = 0x010 then faultClear tile v s
  else if o = 0x014 then w1cStore (Reg.TILE_ECC tile) v s
  else if 0x200 ≤ o ∧ o < 0x300 then shareWrite tile ((o - 0x200) / 4) v s
  else if 0x400 ≤ o ∧ o < 0x600 then thrWrite tile ((o - 0x400) / 4) v s
  else if 0xC00 ≤ o ∧ o < 0xE00 then dbgWrite tile ((o - 0xC00) / 4) v s
  else if 0x1000 ≤ o ∧ o < 0x9000 then dbgRegWrite tile ((o - 0x1000) / 256) ((o - 0x1000) / 8 % 32) v s
  else s

/-! ### MEM and KVM (R141, R175) -/

/-- No thread of the context is READY or WAITING and no command of it is queued or running (R141, R175). -/
def ctxIdle (s : State) (c : Nat) : Bool :=
  !ctxThreadsBusy s c && (ctxCommands s c).all (fun d => decide (d.2.phase = .complete))
    && (List.range 16).all (fun q => (queue s q).out.all (fun d =>
      !(decide (d.phase = .waiting) && ctxOpcode d.opcode && decide (d.context = c))))

/-- R141 on the shares as they would stand. -/
def sharesOk (s : State) (c : Nat) : Bool :=
  let b := fget s (Reg.MEM_CTX_LP_BASE c)
  let n := fget s (Reg.MEM_CTX_LP_SIZE c)
  let fb := fget s (Reg.MEM_CTX_FLASH_BASE c)
  let fn := fget s (Reg.MEM_CTX_FLASH_SIZE c)
  decide (n = 0 ∨ b + n ≤ 98304) && decide (fn = 0 ∨ (128 ≤ fb ∧ fb + fn ≤ 1024))
    && !rangesMeet b n (fget s Reg.MEM_IMAGE_BASE) (fget s Reg.MEM_IMAGE_SIZE)
    && (List.range 64).all (fun x => decide (x = c)
      || !(rangesMeet b n (fget s (Reg.MEM_CTX_LP_BASE x)) (fget s (Reg.MEM_CTX_LP_SIZE x))
        || rangesMeet fb fn (fget s (Reg.MEM_CTX_FLASH_BASE x)) (fget s (Reg.MEM_CTX_FLASH_SIZE x))))

/-- Whether an offset is a MEM_CTX_* register that takes writes, and of which context. -/
def memCtxOf (o : Nat) : Option Nat :=
  if 0x100 ≤ o ∧ o < 0x200 then some ((o - 0x100) / 4)
  else if 0x200 ≤ o ∧ o < 0x400 then some ((o - 0x200) / 8)
  else if 0x400 ≤ o ∧ o < 0x600 then some ((o - 0x400) / 8)
  else if 0x600 ≤ o ∧ o < 0x700 then some ((o - 0x600) / 4)
  else none

/-- Store a value of a MEM or KVM register, both words of a 64-bit one. -/
def storeBoth (off v : Nat) (s : State) : State :=
  if (pairLow off).isSome then plainStore64 off v s else rwStore s off v

/-- A write of a MEM_CTX_* register (R141). -/
def memCtxStore (c off v : Nat) (s : State) : State :=
  let s' := storeBoth off v s
  if ctxIdle s c = true ∧ sharesOk s' c = true then s' else raiseCtx s 0x1008 79 c []

/-- A write of the MEM slot. -/
def memSlotWrite (agent : Agent) (off v : Nat) (s : State) : State :=
  match memCtxOf (off % 0x100000) with
  | some c => memCtxStore c off v s
  | none =>
    if off = Reg.MEM_DBG_ADDR then
      (match agent with
        | .runtime | .management => dbgAddrWrite agent v (rwStore s (off + 4) (v / 2 ^ 32))
        | _ => s)
    else plainStore off v s

/-- R175 on the KV registers as they would stand; a region of SIZE 0 holds no parts. -/
def kvCfgOk (s : State) (c : Nat) : Bool :=
  let base := fget s (Reg.KVM_CTX_REG_BASE c)
  let n := fget s (Reg.KVM_CTX_REG_SIZE c)
  if n = 0 then decide (kvSlots s c = 0 ∧ kvSeqMax s c = 0)
  else inLpShare s c (base * 0x200000) (n * 0x200000)
    && !rangesMeet base n (fget s Reg.MEM_IMAGE_BASE) (fget s Reg.MEM_IMAGE_SIZE)
    && decide (kvNeeds s c ≤ kvSize s c)

/-- Whether an offset is a KVM_CTX_REG, SEQ or POOL register, and of which context. -/
def kvmCtxOf (o : Nat) : Option Nat :=
  if 0x100 ≤ o ∧ o < 0x300 then some ((o - 0x100) / 8)
  else if 0x300 ≤ o ∧ o < 0x400 then some ((o - 0x300) / 4)
  else if 0x400 ≤ o ∧ o < 0x500 then some ((o - 0x400) / 4)
  else none

/-- A write of a KVM_CTX_* register (R175): one that takes effect initialises the region. -/
def kvmCtxStore (c off v : Nat) (s : State) : State :=
  let s' := storeBoth off v s
  if ctxIdle s c = true ∧ kvCfgOk s' c = true then fsetb (kvInitRegion s' c) Reg.KVM_STATUS_INIT_BUSY true
  else raiseCtx s 0x3004 69 c []

/-- A write of the KVM slot. -/
def kvmSlotWrite (off v : Nat) (s : State) : State :=
  match kvmCtxOf (off % 0x100000) with
  | some c => kvmCtxStore c off v s
  | none => s

/-! ### QMGR (R203, R230, R253, R572) -/

/-- A refused QMGR_Q* write. -/
def queueCfgRefused (q : Nat) (s : State) : State := raiseCtx s 0x2041 69 (queueCtx s q) (u16 q)

/-- The areas of a queue (first byte, bytes): submission ring and completion area (R200). -/
def queueAreas (s : State) (q : Nat) : List (Nat × Nat) := [(sqBase s q, qDepth s q * 64), (cqBase s q, 64 + qDepth s q * 16)]

/-- R230's conditions for enabling a queue as its registers stand. -/
def enableOk (s : State) (q : Nat) : Bool :=
  let d := qDepth s q
  let cq := cqBase s q
  decide (1 ≤ d ∧ d ≤ 4096 ∧ 2 ^ Nat.log2 d = d)
    && (rangeIn isLp cq (64 + d * 16) || rangeIn isStaging cq (64 + d * 16))
    && (isMgmt q || (queueAreas s q).all (fun a => inLpShare s (owner s q) a.1 a.2))
    && ((enabledQueues s).filter (fun k => decide (k ≠ q))).all (fun k =>
      (queueAreas s k).all (fun b => (queueAreas s q).all (fun a => !rangesMeet a.1 a.2 b.1 b.2)))

/-- A queue is enabled: its counters start at 0 (R230). -/
def enableQueue (q : Nat) (s : State) : State :=
  qmWrite (setQueue s q Queue.init) q (cqBase s q) (List.replicate 16 0)

/-- A write of QMGR_QCFG (R230). -/
def qcfgWrite (q v : Nat) (s : State) : State :=
  let off := Reg.QMGR_QCFG q
  let s' := rwStore s off v
  if queueOn s q then
    if owner s' q ≠ owner s q ∨ (bitAt v 31 = false ∧ outstanding s q ≠ 0) then queueCfgRefused q s else s'
  else if bitAt v 31 = false then s'
  else if enableOk s' q then enableQueue q s' else queueCfgRefused q s

/-- A write of a QMGR_Q* register of queue `q` (R230, R572). -/
def queueRegWrite (agent : Agent) (q r v : Nat) (s : State) : State :=
  if r = 0x1C then s
  else if q < 2 ∧ agent ≠ .harebell then queueCfgRefused q s
  else if r = 0x00 then qcfgWrite q v s
  else if r = 0x18 then w1cStore (Reg.QMGR_QSTATE q) v s
  else if r = 0x04 ∨ r = 0x08 ∨ r = 0x10 then
    (if queueOn s q then queueCfgRefused q s else storeBoth (Reg.QMGR_QCFG q + r) v s)
  else s

/-- The context that a record of a refused write names (R254): a privileged runtime thread's; other agents act for none. -/
def agentCtx (agent : Agent) (s : State) : Nat :=
  match agent, s.harebell.entry3 with
  | .runtime, some (c, _, _) => c
  | _, _ => 0xFF

/-- A write of QMGR_SCHED_CFG (its note a). -/
def schedCfgWrite (agent : Agent) (v : Nat) (s : State) : State :=
  if (agent = .harebell ∨ agent = .cowslip) ∧ 1 ≤ bits v 31 24 ∧ 1 ≤ bits v 23 14 ∧ bits v 23 14 ≤ 1000 ∧ 8 ≤ bits v 7 0
  then rwStore s Reg.QMGR_SCHED_CFG v else raiseCtx s 0x205A 69 (agentCtx agent s) []

/-- A write of QMGR_DOORBELL (R203); a doorbell leaves DROWSE first (R544). -/
def doorbellWrite (v : Nat) (s : State) : State :=
  let q := bits v 29 16
  let count := bits v 12 0
  if count = 0 then s else doorbell (drowseExit 3 s) q count (decide (q < 2))

/-- A write of the QMGR slot. -/
def qmgrSlotWrite (agent : Agent) (off v : Nat) (s : State) : State :=
  let o := off % 0x100000
  if o = 0x004 then doorbellWrite v s
  else if o = 0x020 then schedCfgWrite agent v s
  else if 0x80000 ≤ o then queueRegWrite agent ((o - 0x80000) / 32) (o % 32) v s
  else if 0x10000 ≤ o ∧ o < 0x11000 ∧ o % 64 = 0 then
    (if bitAt v 31 then ctxResetWrite ((o - 0x10000) / 64) s else s)
  else plainStore off v s

/-! ### CTL, RING (R277, R311) -/

/-- Whether a loop's configuration stands: R258, R264, R270, R326 for it and for what names it. -/
def loopCfgOk (s : State) (l : Nat) : Bool :=
  loopShapeOk s l && loopRateOk s l && loopWordOk s l && loopNeighboursOk s l && rateTrigOk s (loopRate s l)

/-- R277 on a CTL configuration register: `t` is the state with the new value. -/
def ctlCfgOk (s t : State) (off : Nat) : Bool :=
  if off < Reg.CTL_LOOP_CFG 0 then
    ctlFree s t off && !inSafe s &&
      (if off = Reg.CTL_FRAME_CFG then frameCfgOk t
       else if off < Reg.CTL_RATE_TRIG 5 then rateTrigOk t ((off - Reg.CTL_RATE_TRIG 0) / 4)
       else groupOk t ((off - Reg.CTL_GROUP 0) / 8))
  else
    let l := (off - Reg.CTL_LOOP_CFG 0) / 64
    ctlFree s t off && loopCfgOk t l && decide (loopCommitted s l = loopCommitted t l)

/-- Whether an offset is a CTL configuration register. -/
def ctlCfgReg (off : Nat) : Bool :=
  decide (off = Reg.CTL_FRAME_CFG ∨ (Reg.CTL_RATE_TRIG 0 ≤ off ∧ off < Reg.CTL_RATE_TRIG 5)
    ∨ (Reg.CTL_GROUP 0 ≤ off ∧ off < Reg.CTL_GROUP 64)
    ∨ (Reg.CTL_LOOP_CFG 0 ≤ off ∧ off < Reg.CTL_LOOP_CFG 256 ∧ off % 64 < 8))

/-- A refused write of the CTL slot. -/
def ctlRefused (off : Nat) (s : State) : State := raise s 0x4004 yarrowIsland (regData off)

/-- A write of CTL_COMMIT: only Cowslip's takes effect (R274, R277). -/
def commitReg (agent : Agent) (v : Nat) (s : State) : State :=
  if agent = .cowslip then commitWrite (v % 4) s else ctlRefused Reg.CTL_COMMIT s

/-- A write of the CTL slot (R277). -/
def ctlSlotWrite (agent : Agent) (off v : Nat) (s : State) : State :=
  if off = Reg.CTL_COMMIT then commitReg agent v s
  else if ctlCfgReg off then
    let t := storeBoth off v s
    if ctlCfgOk s t off then t else ctlRefused off s
  else s

/-- The port of a RING_PORT_CFG or RING_NODE_* register that takes writes. -/
def ringCfgPort (off : Nat) : Option Nat :=
  let o := off % 0x100000
  let p := (o - 0x1000) / 0x400
  let r := (o - 0x1000) % 0x400
  if off / 0x100000 = 5 ∧ 0x1000 ≤ o ∧ o < 0x3000 ∧ (r = 0 ∨ (0x100 ≤ r ∧ r < 0x200 ∧ r % 16 ≠ 12)) then some p else none

/-- A write of a port's configuration (R311); EN moves the port between OFF and LINK (Table 10.5). -/
def ringCfgStore (p off v : Nat) (s : State) : State :=
  let t := rwStore s off v
  if portState s p ≤ 1 ∧ portOk t (trigArmed t) p = true
  then settleEn p t
  else raise s 0x4107 ringIsland (u16 p)

/-- A write of the RING slot. -/
def ringSlotWrite (off v : Nat) (s : State) : State :=
  match ringCfgPort off with
  | some p => ringCfgStore p off v s
  | none => s

/-! ### PWR, PCIE, SEC (R34, R487, R567) -/

/-- A write of the PWR slot (R487). -/
def pwrSlotWrite (agent : Agent) (off v : Nat) (s : State) : State :=
  if off = Reg.PWR_CFG ∨ off = Reg.PWR_CAP then
    if agent = .harebell ∧ (if off = Reg.PWR_CFG then pwrCfgOk v else pwrCapOk v) = true then rwStore s off v
    else raise s 0x900C powerIsland (regData off)
  else s

/-- A write of the PCIE slot (R566, R567). -/
def pcieSlotWrite (p : PcieCompletion) (off v : Nat) (s : State) : State :=
  if off = Reg.PCIE_CFG_DATA then pcieCfgWrite v p s
  else if off = Reg.PCIE_MEM_DATA then pcieMemWrite v p s
  else if off = Reg.PCIE_INBOUND then inboundWrite v s
  else if off = Reg.PCIE_MEM_ADDR then plainStore64 off v s
  else plainStore off v s

/-- A write of the SEC slot: all its registers are read-only, and only Harebell may write at all (R34). -/
def secWrite (agent : Agent) (off : Nat) (s : State) : State :=
  if agent = .harebell then s else raise s 0xB008 secIsland (regData off ++ u8 (agentCode agent))

/-! ### The shared write -/

/-- A write that takes effect at a register of a slot; `v` holds both words of a 64-bit register. -/
def slotWrite (agent : Agent) (p : PcieCompletion) (off v : Nat) (s : State) : State :=
  match off / 0x100000 with
  | 0x00 => plainStore off v s
  | 0x01 => secWrite agent off s
  | 0x02 => pwrSlotWrite agent off v s
  | 0x03 => if off = Reg.TIME_SET then timeSetWrite agent v s else if timeCfgReg off then timeCfgWrite agent off v s else s
  | 0x04 => ctlSlotWrite agent off v s
  | 0x05 => ringSlotWrite off v s
  | 0x06 => s
  | 0x07 => s
  | 0x08 => kvmSlotWrite off v s
  | 0x09 => qmgrSlotWrite agent off v s
  | 0x0A => memSlotWrite agent off v s
  | 0x0B => safeWrite agent off v s
  | 0x0C => s
  | 0x0D => if off = Reg.LINK_CFG then linkCfgWrite agent v s else s
  | 0x0E =>
    if timeCfgReg off then timeCfgWrite agent off v s
    else if (pairLow off).isSome then plainStore64 off v s else plainStore off v s
  | 0x0F => pcieSlotWrite p off v s
  | n => if n < 0x40 then tileWrite (n - 0x10) (off % 0x100000) v s else s

/-- Whether a slot's agent rule refuses every write of an agent at once (R34). -/
def slotRefuses (agent : Agent) (off : Nat) : Bool :=
  decide (off / 0x100000 = 0x0B ∧ agent ≠ .cowslip) || decide (off / 0x100000 = 0x01 ∧ agent ≠ .harebell)

/-- The high word that a write of the low word of the 64-bit register at `off` takes: the one held, or the register's own. -/
def highHeld (s : State) (off : Nat) : Nat :=
  match storeGet (fun _ => none) s.held off with
  | some w => w.toNat
  | none => regWord s (off + 4)

/-- The state with no high word held for the register at `off`. -/
def heldCleared (s : State) (off : Nat) : State := { s with held := storeSet (fun _ => none) s.held off none }

/-- An aligned 32-bit write by an agent (R33): the high word of a 64-bit register is held until its low word is written, and the two
take effect together. Other agents than R34's have no access. A write of TIME_SET that R317 does not let through changes nothing. -/
def windowWrite (agent : Agent) (p : PcieCompletion) (off v : Nat) (s : State) : State :=
  if slotRefuses agent off then slotWrite agent p off v s
  else if mayAccess agent = false then s
  else if pairLow off = some Reg.TIME_SET ∧ timeSetTakes agent s = false then raise s 0x5008 timeIsland (regData Reg.TIME_SET)
  else match pairLow off with
    | none => slotWrite agent p off v s
    | some low =>
      if off ≠ low then { s with held := storeSet (fun _ => none) s.held low (some (BitVec.ofNat 32 v)) }
      else slotWrite agent p low (v + 2 ^ 32 * highHeld s low) (heldCleared s low)

/-- Codes of the events that say a block refused a write. -/
def refusalCodes : List Nat :=
  [0x1008, 0x2002, 0x2003, 0x2040, 0x2041, 0x205A, 0x3004, 0x4004, 0x4107, 0x5008, 0x8033, 0x900C, 0xA00A, 0xA103, 0xB008]

/-- Whether a write from `s` to `t` was refused: its refusal event is among those it raised. -/
def writeRefused (s t : State) : Bool :=
  (t.tansy.raised.drop s.tansy.raised.length).any (fun e => refusalCodes.contains e.code)

/-! ### Rows that name one register -/

/-- A register write of an agent as a command. -/
def regRow (agent : Agent) (off v : Nat) (s : State) : Out :=
  whenAlive s (fun s => .next (if off % 4 = 0 ∧ off < 0x4000000 then windowWrite agent .timeout off v s else s))

/-- A register write whose offset must be one of the row's registers. -/
def regRowIf (ok : Bool) (agent : Agent) (off v : Nat) (s : State) : Out := if ok then regRow agent off v s else .next s

/-- A whole write of a 64-bit register: high word, then low word. -/
def regRow64 (agent : Agent) (off v : Nat) (s : State) : Out :=
  whenAlive s (fun s => .next (windowWrite agent .timeout off (v % 2 ^ 32) (windowWrite agent .timeout (off + 4) (v / 2 ^ 32) s)))

/-- REGISTER_WRITE (R8, R34). -/
def execRegisterWrite (agent : Agent) (off : Nat) (v : Word) (s : State) : Out := regRow agent off v.toNat s

/-- QMGR_DOORBELL_WRITE (R203). -/
def execQmgrDoorbellWrite (agent : Agent) (v : Word) (s : State) : Out := regRow agent Reg.QMGR_DOORBELL v.toNat s

/-- QUEUE_CFG_WRITE (R230). -/
def execQueueCfgWrite (agent : Agent) (off : Nat) (v : Word) (s : State) : Out :=
  regRowIf (decide (Reg.QMGR_QCFG 0 ≤ off ∧ off < Reg.QMGR_QCFG 16384)) agent off v.toNat s

/-- CTX_RESET (R253). -/
def execCtxReset (agent : Agent) (c : Nat) (s : State) : Out :=
  regRowIf (decide (c < 64)) agent (Reg.QMGR_CTX_STATE c) 0x80000000 s

/-- TILE_SHARE_WRITE (R70). -/
def execTileShareWrite (agent : Agent) (tile c : Nat) (v : Word) (s : State) : Out :=
  regRowIf (decide (tile < 48 ∧ c < 64)) agent (Reg.TILE_SHARE tile c) v.toNat s

/-- TILE_THR_ASSIGN (R71). -/
def execTileThrAssign (agent : Agent) (tile t c : Nat) (s : State) : Out :=
  regRowIf (decide (tile < 48 ∧ t < 128 ∧ c < 64)) agent (Reg.TILE_THR tile t) (0x2000 + c) s

/-- TILE_THR_RELEASE (R71). -/
def execTileThrRelease (agent : Agent) (tile t c : Nat) (s : State) : Out :=
  regRowIf (decide (tile < 48 ∧ t < 128 ∧ c < 64)) agent (Reg.TILE_THR tile t) (0x4000 + c) s

/-- PERF_CLEAR: ISSUE_EN is written back as it is. -/
def execPerfClear (agent : Agent) (tile : Nat) (s : State) : Out :=
  regRowIf (decide (tile < 48)) agent (Reg.TILE_CTRL tile) (2 + fget s (Reg.TILE_CTRL_ISSUE_EN tile)) s

/-- TILE_FAULT_CLEAR (R11). -/
def execTileFaultClear (agent : Agent) (tile : Nat) (s : State) : Out :=
  regRowIf (decide (tile < 48)) agent (Reg.TILE_FAULT tile) 0x80000000 s

/-- TILE_DBG_HALT (R593). -/
def execTileDbgHalt (agent : Agent) (tile t : Nat) (s : State) : Out :=
  regRowIf (decide (tile < 48 ∧ t < 128)) agent (Reg.TILE_DBG tile t) 1 s

/-- TILE_DBG_RESUME (R593). -/
def execTileDbgResume (agent : Agent) (tile t : Nat) (s : State) : Out :=
  regRowIf (decide (tile < 48 ∧ t < 128)) agent (Reg.TILE_DBG tile t) 2 s

/-- TILE_DBG_STEP (R593). -/
def execTileDbgStep (agent : Agent) (tile t : Nat) (s : State) : Out :=
  regRowIf (decide (tile < 48 ∧ t < 128)) agent (Reg.TILE_DBG tile t) 4 s

/-- TILE_DBG_REG_WRITE (R593): both words. -/
def execTileDbgRegWrite (agent : Agent) (tile t r : Nat) (v : DWord) (s : State) : Out :=
  if tile < 48 ∧ t < 128 ∧ r < 32 then regRow64 agent (Reg.TILE_DBG_REG tile t r) v.toNat s else .next s

/-- MEM_CTX_WRITE (R141). -/
def execMemCtxWrite (agent : Agent) (off : Nat) (v : Word) (s : State) : Out :=
  regRowIf (decide (off / 0x100000 = 0x0A) && (memCtxOf (off % 0x100000)).isSome) agent off v.toNat s

/-- KVM_CTX_WRITE (R175). -/
def execKvmCtxWrite (agent : Agent) (off : Nat) (v : Word) (s : State) : Out :=
  regRowIf (decide (off / 0x100000 = 0x08) && (kvmCtxOf (off % 0x100000)).isSome) agent off v.toNat s

/-- CTL_CFG_WRITE (R277). -/
def execCtlCfgWrite (agent : Agent) (off : Nat) (v : Word) (s : State) : Out := regRowIf (ctlCfgReg off) agent off v.toNat s

/-- CTL_COMMIT (R274). -/
def execCtlCommit (agent : Agent) (v : Word) (s : State) : Out := regRow agent Reg.CTL_COMMIT v.toNat s

/-- RING_CFG_WRITE (R311). -/
def execRingCfgWrite (agent : Agent) (off : Nat) (v : Word) (s : State) : Out :=
  regRowIf (ringCfgPort off).isSome agent off v.toNat s

/-- PWR_CFG_WRITE (R487). -/
def execPwrCfgWrite (agent : Agent) (off : Nat) (v : Word) (s : State) : Out :=
  regRowIf (decide (off = Reg.PWR_CFG ∨ off = Reg.PWR_CAP)) agent off v.toNat s

/-- MEM_DBG_ADDR_WRITE (R595): the low word. -/
def execMemDbgAddrWrite (agent : Agent) (v : Word) (s : State) : Out := regRow agent Reg.MEM_DBG_ADDR v.toNat s

/-! ### The window instructions (R583) -/

/-- RUNTIME_CTX (R522). -/
def runtimeCtx (s : State) : Option Nat := s.harebell.entry3.map (·.1)

/-- A misaligned access of a thread ends its context with cause 0x5 (R33). -/
def misaligned (s : State) (tile t : Nat) (th : Thread) : State := threadFault s tile t 5 th.ctx th.launch

/-- A local read by CWLD; the window's data is waited for (R595). -/
def cwldLocal (tile t rd off : Nat) (th : Thread) (p : PcieCompletion) (s : State) : State :=
  if off = Reg.MEM_DBG_DATA ∧ s.dbgRead.isSome then setThread s tile t { th with state := .waiting, wait := .debugData rd }
  else
    let r := windowRead p s off
    setThread r.2 tile t (setXreg th rd (BitVec.ofNat 64 r.1))

/-- CWLD (R583): `remote` is what another module's register reads, `p` what answers an indirect PCIe read. -/
def execCwld (tile t : Nat) (remote : Word) (p : PcieCompletion) (s : State) : Out :=
  .next (issue s tile t 0x0A (fun i th s =>
    let off := i.rs1.toNat % 2 ^ 26
    let m := i.rs2.toNat % 4
    if runtimeCtx s ≠ some th.ctx then illegal s tile t th
    else if off % 4 ≠ 0 then misaligned s tile t th
    else if inJob s m = false then threadFault s tile t 1 th.ctx th.launch
    else if m = modnum s then cwldLocal tile t i.rd off th p s
    else setThread s tile t (setXreg th i.rd (remote.setWidth 64))))

/-- CWST (R583): the thread continues whether or not the block takes the write. -/
def execCwst (tile t : Nat) (p : PcieCompletion) (s : State) : Out :=
  .next (issue s tile t 0x0B (fun i th s =>
    let off := i.rs1.toNat % 2 ^ 26
    if runtimeCtx s ≠ some th.ctx then illegal s tile t th
    else if off % 4 ≠ 0 then misaligned s tile t th
    else windowWrite .runtime p off (i.rs2.toNat % 2 ^ 32) (setThread s tile t th)))

/-- DBELL (R203, R204). -/
def execDbell (tile t : Nat) (s : State) : Out := .next (dbellThread tile t s)

/-! ### REG_READ and REG_WRITE (R579) -/

/-- Read `n` registers upward; a window read under way is waited for (R595). -/
def readRegs (answers : List PcieCompletion) : (n i off : Nat) → State → List Byte × State
  | 0, _, _, s => ([], s)
  | n + 1, i, off, s =>
    let s := if off = Reg.MEM_DBG_DATA then dbgFinish s else s
    let r := windowRead (answers.getD i .timeout) s off
    let rest := readRegs answers n (i + 1) (off + 4) r.2
    (leBytes 4 r.1 ++ rest.1, rest.2)

/-- The order of the writes of REG_WRITE: indexes upward, but the high word of a 64-bit register before its low word. -/
def writeOrder (off : Nat) : (n i : Nat) → List Nat
  | 0, _ => []
  | 1, i => [i]
  | n + 2, i =>
    if pairLow (off + 4 * i) = some (off + 4 * i) then (i + 1) :: i :: writeOrder off n (i + 2)
    else i :: writeOrder off (n + 1) (i + 1)

/-- Write registers in an order; the state and the first index a block refused. -/
def writeRegs (answers : List PcieCompletion) (off : Nat) (vs : List Word) : List Nat → Option Nat → State → Option Nat × State
  | [], first, s => (first, s)
  | i :: rest, first, s =>
    let t := windowWrite .management (answers.getD i .timeout) (off + 4 * i) (vs.getD i 0).toNat s
    writeRegs answers off vs rest (if first.isNone ∧ writeRefused s t = true then some i else first) t

/-- Whether the parameters of REG_READ and REG_WRITE are invalid. -/
def regParamsBad (q : Nat) (c : QCmd) : Bool :=
  decide (1024 < c.length ∨ c.field 16 4 % 4 ≠ 0 ∨ 0x4000000 < c.field 16 4 + 4 * c.length ∨ 3 < c.field 20 1)
    || !c.reservedZero [(16, 4), (20, 1), (24, 8)] || !opAligned q (c.field 24 8) 64

/-- Write what REG_READ read at VA. -/
def putRegs (q : Nat) (c : QCmd) (bs : List Byte) (s : State) : Verdict :=
  match opWrite s q (c.field 24 8) bs with
  | .error e => failOperand s q c 69 0 e
  | .ok s => okay s

/-- The engine of REG_READ; a module that has not answered keeps it waiting (R449). -/
def regReadEngine (q n : Nat) (remote : List Word) (answers : List PcieCompletion) (c : QCmd) (s : State) : Verdict :=
  let m := c.field 20 1
  if regParamsBad q c then invalid s
  else if c.length = 0 then .done Status.okEmpty 0 s
  else if inJob s m = false then refuse s
  else match opWrite s q (c.field 24 8) (List.replicate (4 * c.length) 0) with
    | .error e => failOperand s q c 69 0 e
    | .ok _ =>
      if m ≠ modnum s then
        (if remote.length = c.length then putRegs q c (wordsToBytes remote) s
         else .wait (modCmd s q n (fun d => { d with engaged := true })))
      else
        let r := readRegs answers c.length 0 (c.field 16 4) s
        putRegs q c r.1 r.2

/-- REG_READ (0x0741). -/
def execRegRead (q n : Nat) (remote : List Word) (answers : List PcieCompletion) (s : State) : Out :=
  runEngine 0x0741 q n (regReadEngine q n remote answers) s

/-- The engine of REG_WRITE. -/
def regWriteEngine (q : Nat) (answers : List PcieCompletion) (c : QCmd) (s : State) : Verdict :=
  if regParamsBad q c then invalid s
  else if c.length = 0 then .done Status.okEmpty 0 s
  else if c.field 20 1 ≠ modnum s then refuse s
  else match opRead s q (c.field 24 8) (4 * c.length) with
    | .error e => failOperand s q c 69 0 e
    | .ok bs =>
      let off := c.field 16 4
      let r := writeRegs answers off (bytesToWords c.length bs) (writeOrder off c.length 0) none s
      match r.1 with
      | some i => okay r.2 (1 + i)
      | none => okay r.2

/-- REG_WRITE (0x0742). -/
def execRegWrite (q n : Nat) (answers : List PcieCompletion) (s : State) : Out :=
  runEngine 0x0742 q n (regWriteEngine q answers) s

/-! ### Management frames (R575) -/

/-- Whether a SUBMIT rings its queue's doorbell: it carries packets not submitted yet, for this SESSION. -/
def submitRings (s : State) (e : Nat) (f : MgmtFrame) : Bool :=
  let done := s32diff (queue s e).submitted (fieldAt f.payload 4 4)
  decide (fieldAt f.payload 12 4 = fget s (Reg.NET_MGMT_SESSION_SESSION e) ∧ 0 ≤ done ∧ done < (fieldAt f.payload 2 1 : Int))

/-- MGMT_SUBMIT (R575); its doorbell leaves DROWSE first (R544). -/
def execMgmtSubmit (e : Nat) (f : MgmtFrame) (s : State) : Out :=
  whenAlive s (fun s => .next (mgmtArrival 1 e f (fun e f s => submitFrame e f (if submitRings s e f then drowseExit 3 s else s)) s))

/-- MGMT_POLL (R575). -/
def execMgmtPoll (e : Nat) (f : MgmtFrame) (s : State) : Out := whenAlive s (fun s => .next (mgmtArrival 4 e f pollFrame s))

/-! ### Remote access (R24, R35, R497) -/

/-- Answer a peer. -/
def answerPeer (r : RemoteReq) (ok : Bool) (bs : List Byte) (s : State) : State := wire s (.remoteReply r.peer ok bs)

/-- A peer's read of this module's control window: aligned and 32 bits wide (R33), refused during bring-up (Table 20.7). -/
def remoteWindow (r : RemoteReq) (p : PcieCompletion) (s : State) : State :=
  let off := r.addr - 0x1FFC0000000
  if r.write = true ∨ r.bytes ≠ 4 ∨ off % 4 ≠ 0 ∨ fbit s Reg.QMGR_STATUS_ACCEPTING = false then answerPeer r false [] s
  else
    let w := windowRead p (if off = Reg.MEM_DBG_DATA then dbgFinish s else s) off
    answerPeer r true (leBytes 4 w.1) w.2

/-- A peer's access to this module's memories; one that meets an uncorrectable unit is reported and not served. -/
def remoteMemory (r : RemoteReq) (s : State) : State :=
  if localOk r.addr r.bytes = false ∨ (r.write = true ∧ inImageRegion s r.addr 1 = true) then answerPeer r false [] s
  else match (if r.write then badPartial s r.addr r.bytes else badUnit s r.addr r.bytes) with
    | some u => answerPeer r false [] (reportUncorr s (max u r.addr) moveIsland 0xFF 0)
    | none =>
      if r.write then answerPeer r true [] (softWrite s r.addr (padTo r.bytes r.data))
      else answerPeer r true (memRead s r.addr r.bytes) (noteCorr r.addr r.bytes s)

/-- REMOTE_ACCESS (R497), a FENCE capture request among the requests (R219): a peer outside the job, and every peer of a leaving module, is refused; a request waits while its port
does not carry transfers (R450). -/
def execRemoteAccess (r : RemoteReq) (p : PcieCompletion) (s : State) : Out :=
  whenAlive s (fun s =>
    if 4 ≤ r.peer ∨ r.peer = modnum s ∨ linkState s (portTo s r.peer) ≠ 3 then .next s
    else if inJob s r.peer = false ∨ fbit s Reg.LINK_STATUS_LEAVING = true then .next (answerPeer r false [] s)
    else match r.fence with
    | some (q, mgmt, own) => .next (captureRequest r.peer q mgmt own s)
    | none =>
    if isWindow r.addr then .next (remoteWindow r p s)
    else .next (remoteMemory r s))

end Sys2Proof.Machine
end

