-- ==== Sys2Proof/Machine/Trigger.lean ====
section
/-! DEFINITION. TRIGGER_FIRE: an armed trigger's NEXT is reached (R326 to R330, Table 11.4). -/

namespace Sys2Proof.Machine

/-! ### The consumers of a firing, each at the nominal instant `t` -/

/-- After a firing a periodic trigger adds PERIOD_NS to NEXT and a one-shot trigger disarms (R327). -/
def advanceTrigger (i : Nat) (s : State) : State :=
  let p := trigPeriod (trigRecord s i)
  if p = 0 then disarmTrigger i s else setTrigNext s i (trigNext s i + p)

/-- The frame before is decided at the latest when its time is over (R397). -/
def expireFrame (t : Nat) (s : State) : State :=
  match s.safety.frame with
  | none => s
  | some old => if s.safety.decided = false ∧ inSafe s = false ∧ old + compareNs s ≤ t then decideFrame old s else s

/-- The whole-body frame trigger (R194, R274): IMAGE_HOLD may end, and frame `t` begins. A frame that is held gets no verdict
(R193, R399, R543). -/
def wholeBody (t : Nat) (s : State) : State :=
  let s := yarrowFrame t (endHold (expireFrame t s))
  let held := framesHeld s
  modSafety s (fun x => { x with frame := some t, submitted := false, checked := false, main := none, check := none, decided := held })

/-- A real-time context's trigger (R246): a firing off its period is recorded, and a release comes due. -/
def contextFiring (t c : Nat) (s : State) : State :=
  match (ctx s c).plan with
  | none => s
  | some p =>
    let s := match (ctx s c).lastFiring with
      | none => s
      | some l =>
        let gap := t - l
        if gap + 1000 < p.periodNs ∨ p.periodNs + 1000 < gap then raiseCtx s 0x2054 69 c [] else s
    let s := if (ctx s c).releaseAt.isSome then frameRelease c s else s
    setCtx s c { ctx s c with releaseAt := some (t + p.releaseNs), lastFiring := some t }

/-- Real-time contexts whose plan names a trigger; whether one is ACTIVE counts at the release (R252). -/
def contextsOn (s : State) (i : Nat) : List Nat :=
  s.ctxs.filterMap fun e => match e.2.plan with
    | some p => if p.cls = 1 ∧ p.triggerId = i then some e.1 else none
    | none => none

/-- The trigger outputs: a pulse of PULSE_NS on each TRIG_OUTk of OUT_MASK (R329). -/
def pulseOut (i t : Nat) (s : State) : State :=
  let r := trigRecord s i
  if trigOut r = 0 then s
  else
    let s := modTime s (fun u => { u with
      pulses := u.pulses.filter (fun e => decide (s.time < e.2.1 + e.2.2)) ++ [(trigOut r, near s t, trigPulse r)] })
    { s with outbox := s.outbox ++ [.pulse (trigOut r) t (trigPulse r)] }

/-- Whether contact TRIG_OUTk is high: the OR of the pulses on it (R329). -/
def contactHigh (s : State) (k : Nat) : Bool :=
  s.timeu.pulses.any (fun e => bitAt e.1 k && decide (e.2.1 ≤ s.time ∧ s.time < e.2.1 + e.2.2))

/-- Run an operation for the numbers below `n` that a test names. -/
def forNamed (n : Nat) (named : State → Nat → Bool) (f : Nat → State → State) (s : State) : State :=
  forRange n (fun k s => if named s k then f k s else s) s

/-- One firing of trigger `i` at nominal instant `t` to every consumer that names it (R328). What a consumer weighs against TIME
later on is the instant next to TIME with the low 32 bits of `t`, since R319 weighs no others. -/
def fireTrigger (i t : Nat) (s : State) : State :=
  let b := near s t
  let s := if fget s Reg.CTL_FRAME_CFG_TRIGGER_ID = i then wholeBody b s else s
  let s := forEach (contextsOn s i) (contextFiring b) s
  let s := forNamed 5 (fun s r => decide (fget s (Reg.CTL_RATE_TRIG_TRIGGER_ID r) = i)) (fun r => sampleBoundary r b) s
  let s := forNamed 8 (fun s p => decide (fget s (Reg.RING_PORT_CFG_TRIGGER_ID p) = i)) (fun p => ringLaunch p t) s
  let s := forNamed 8 (fun s g => (group s g).en && decide ((group s g).trig = i) && !inDrowse s) (fuseInstant t) s
  let s := forNamed 2 (fun s p => fbit s (Reg.NET_GCL_CFG_EN p) && decide (fget s (Reg.NET_GCL_CFG_TRIGGER_ID p) = i)) (gateCycle b) s
  pulseOut i t s

/-- Whether a trigger below `i` is to fire in this tick too: it fires first (R330). -/
def lowerDue (s : State) (i : Nat) : Bool := (List.range i).any (fun j => trigArmed s j && reached s (trigNext s j))

/-- TRIGGER_FIRE. The firing is counted and the trigger advances; a SET_COMMIT that waits for it takes effect first (R530),
then the consumers run. `failedInjection` is the injection of R194 step 4 that Cowslip does not catch. -/
def execTriggerFire (trig failedInjection : Nat) (s : State) : Out :=
  whenAlive s (fun s =>
    if 64 ≤ trig ∨ trigArmed s trig = false ∨ reached s (trigNext s trig) = false ∨ lowerDue s trig = true then .next s
    else
      let t := trigNext s trig
      let s := fset s (Reg.TIME_TRIG_STATE_FIRED trig) ((fget s (Reg.TIME_TRIG_STATE_FIRED trig) + 1) % 2 ^ 24)
      .next (fireTrigger trig t (commitFire trig failedInjection (advanceTrigger trig s))))

end Sys2Proof.Machine
end

