-- ==== Sys2Proof/Machine/Dispatch.lean ====
section
/-! DEFINITION. The dispatch: one arm per command of the opcode table. -/

namespace Sys2Proof.Machine

def exec (i : Instr) (s : State) : Host.Outcome State Fault Refusal :=
  match i with
  | .powerOnReset msel failedInjection => Sys2Proof.Machine.execPowerOnReset msel failedInjection s
  | .rstNAssert => Sys2Proof.Machine.execRstNAssert s
  | .rstNRelease msel failedInjection => Sys2Proof.Machine.execRstNRelease msel failedInjection s
  | .bootDone => Sys2Proof.Machine.execBootDone s
  | .trialBootTimeout failedInjection => Sys2Proof.Machine.execTrialBootTimeout failedInjection s
  | .identityTreeRebuild => Sys2Proof.Machine.execIdentityTreeRebuild s
  | .wakeNLow failedInjection => Sys2Proof.Machine.execWakeNLow failedInjection s
  | .wakeAfterMsExpiry failedInjection => Sys2Proof.Machine.execWakeAfterMsExpiry failedInjection s
  | .presNChange present => Sys2Proof.Machine.execPresNChange present s
  | .presTermRemoval => Sys2Proof.Machine.execPresTermRemoval s
  | .vinLow mv => Sys2Proof.Machine.execVinLow mv s
  | .busShutoff => Sys2Proof.Machine.execBusShutoff s
  | .phaseFault phase cause => Sys2Proof.Machine.execPhaseFault phase cause s
  | .powerSample vinMv currentsMa eUw => Sys2Proof.Machine.execPowerSample vinMv currentsMa eUw s
  | .boostStep => Sys2Proof.Machine.execBoostStep s
  | .railRampDone => Sys2Proof.Machine.execRailRampDone s
  | .powerMessageReceive member own mhz => Sys2Proof.Machine.execPowerMessageReceive member own mhz s
  | .jobShareAdopt => Sys2Proof.Machine.execJobShareAdopt s
  | .thermalScan temps => Sys2Proof.Machine.execThermalScan temps s
  | .thermalTrip sensor => Sys2Proof.Machine.execThermalTrip sensor s
  | .thermalShutdown sensor => Sys2Proof.Machine.execThermalShutdown sensor s
  | .coolantSample inletDeciC outletDeciC => Sys2Proof.Machine.execCoolantSample inletDeciC outletDeciC s
  | .triggerFire trig failedInjection => Sys2Proof.Machine.execTriggerFire trig failedInjection s
  | .ringDeliverCopy port => Sys2Proof.Machine.execRingDeliverCopy port s
  | .ringFrameReturn port ret => Sys2Proof.Machine.execRingFrameReturn port ret s
  | .ringFrameOutcome port out => Sys2Proof.Machine.execRingFrameOutcome port out s
  | .ringLinkChange port endB up => Sys2Proof.Machine.execRingLinkChange port endB up s
  | .ringDiscoverReturn port ret => Sys2Proof.Machine.execRingDiscoverReturn port ret s
  | .ringLayoutReturn port => Sys2Proof.Machine.execRingLayoutReturn port s
  | .frameRelease ctx => Sys2Proof.Machine.execFrameRelease ctx s
  | .preclear ctx => Sys2Proof.Machine.execPreclear ctx s
  | .preclearLift ctx => Sys2Proof.Machine.execPreclearLift ctx s
  | .sliceEnd lane => Sys2Proof.Machine.execSliceEnd lane s
  | .npForced ctx => Sys2Proof.Machine.execNpForced ctx s
  | .goldenFrameStart => Sys2Proof.Machine.execGoldenFrameStart s
  | .goldenOverdue => Sys2Proof.Machine.execGoldenOverdue s
  | .commandStart q => Sys2Proof.Machine.execCommandStart q s
  | .replyPost q => Sys2Proof.Machine.execReplyPost q s
  | .fenceTimeout q => Sys2Proof.Machine.execFenceTimeout q s
  | .teardownComplete ctx => Sys2Proof.Machine.execTeardownComplete ctx s
  | .kvRegionInitDone ctx => Sys2Proof.Machine.execKvRegionInitDone ctx s
  | .scalarInstruction tile thread op => Sys2Proof.Machine.execScalarInstruction tile thread op s
  | .halt tile thread => Sys2Proof.Machine.execHalt tile thread s
  | .ucmd tile thread op => Sys2Proof.Machine.execUcmd tile thread op s
  | .unitCommandStart tile unit_ => Sys2Proof.Machine.execUnitCommandStart tile unit_ s
  | .unitCommandComplete tile unit_ => Sys2Proof.Machine.execUnitCommandComplete tile unit_ s
  | .stepClose tile ctx record summary => Sys2Proof.Machine.execStepClose tile ctx record summary s
  | .twait tile thread => Sys2Proof.Machine.execTwait tile thread s
  | .level tile thread => Sys2Proof.Machine.execLevel tile thread s
  | .dbell tile thread => Sys2Proof.Machine.execDbell tile thread s
  | .qwait tile thread => Sys2Proof.Machine.execQwait tile thread s
  | .npenter tile thread => Sys2Proof.Machine.execNpenter tile thread s
  | .npexit tile thread => Sys2Proof.Machine.execNpexit tile thread s
  | .jbar tile thread => Sys2Proof.Machine.execJbar tile thread s
  | .barrierArrival member barrier => Sys2Proof.Machine.execBarrierArrival member barrier s
  | .lbar tile thread => Sys2Proof.Machine.execLbar tile thread s
  | .tnow tile thread => Sys2Proof.Machine.execTnow tile thread s
  | .cwld tile thread remote answer => Sys2Proof.Machine.execCwld tile thread remote answer s
  | .cwst tile thread answer => Sys2Proof.Machine.execCwst tile thread answer s
  | .kernelLaunch q n => Sys2Proof.Machine.execKernelLaunch q n s
  | .shareZero q n => Sys2Proof.Machine.execShareZero q n s
  | .perfSnapshot q n => Sys2Proof.Machine.execPerfSnapshot q n s
  | .seqCreate q n => Sys2Proof.Machine.execSeqCreate q n s
  | .seqFree q n => Sys2Proof.Machine.execSeqFree q n s
  | .seqFork q n => Sys2Proof.Machine.execSeqFork q n s
  | .prefixMatch q n => Sys2Proof.Machine.execPrefixMatch q n s
  | .seqExtend q n => Sys2Proof.Machine.execSeqExtend q n s
  | .seqTruncate q n => Sys2Proof.Machine.execSeqTruncate q n s
  | .seqTrim q n => Sys2Proof.Machine.execSeqTrim q n s
  | .kvWrite q n => Sys2Proof.Machine.execKvWrite q n s
  | .attend q n => Sys2Proof.Machine.execAttend q n s
  | .stepRetire q n => Sys2Proof.Machine.execStepRetire q n s
  | .migrate q n => Sys2Proof.Machine.execMigrate q n s
  | .copy q n => Sys2Proof.Machine.execCopy q n s
  | .fill q n => Sys2Proof.Machine.execFill q n s
  | .translationInvalidate q n => Sys2Proof.Machine.execTranslationInvalidate q n s
  | .mapUpdate q n => Sys2Proof.Machine.execMapUpdate q n s
  | .mapPublish q n => Sys2Proof.Machine.execMapPublish q n s
  | .planQuery q n => Sys2Proof.Machine.execPlanQuery q n s
  | .planCheck q n => Sys2Proof.Machine.execPlanCheck q n s
  | .libLoad q n => Sys2Proof.Machine.execLibLoad q n s
  | .streamStart q n => Sys2Proof.Machine.execStreamStart q n s
  | .streamStop q n => Sys2Proof.Machine.execStreamStop q n s
  | .sampleRead q n => Sys2Proof.Machine.execSampleRead q n s
  | .calibFeed q n => Sys2Proof.Machine.execCalibFeed q n s
  | .calibSet q n => Sys2Proof.Machine.execCalibSet q n s
  | .calibRead q n => Sys2Proof.Machine.execCalibRead q n s
  | .setWrite q n => Sys2Proof.Machine.execSetWrite q n s
  | .setCommit q n => Sys2Proof.Machine.execSetCommit q n s
  | .setRead q n => Sys2Proof.Machine.execSetRead q n s
  | .imageHoldTimeout => Sys2Proof.Machine.execImageHoldTimeout s
  | .fence q n answers => Sys2Proof.Machine.execFence q n answers s
  | .powerCapSet q n => Sys2Proof.Machine.execPowerCapSet q n s
  | .powerModeSet q n => Sys2Proof.Machine.execPowerModeSet q n s
  | .powerRead q n => Sys2Proof.Machine.execPowerRead q n s
  | .storeWrite q n => Sys2Proof.Machine.execStoreWrite q n s
  | .storeVerify q n => Sys2Proof.Machine.execStoreVerify q n s
  | .fwActivate q n => Sys2Proof.Machine.execFwActivate q n s
  | .rollbackRaise q n => Sys2Proof.Machine.execRollbackRaise q n s
  | .attest q n => Sys2Proof.Machine.execAttest q n s
  | .identityRead q n => Sys2Proof.Machine.execIdentityRead q n s
  | .measExtend q n => Sys2Proof.Machine.execMeasExtend q n s
  | .warmReset q n failedInjection => Sys2Proof.Machine.execWarmReset q n failedInjection s
  | .powerStateSet q n => Sys2Proof.Machine.execPowerStateSet q n s
  | .netSend q n => Sys2Proof.Machine.execNetSend q n s
  | .regRead q n remote answers => Sys2Proof.Machine.execRegRead q n remote answers s
  | .regWrite q n answers => Sys2Proof.Machine.execRegWrite q n answers s
  | .logRead q n => Sys2Proof.Machine.execLogRead q n s
  | .logFreeze q n => Sys2Proof.Machine.execLogFreeze q n s
  | .logThaw q n => Sys2Proof.Machine.execLogThaw q n s
  | .logClear q n => Sys2Proof.Machine.execLogClear q n s
  | .freezeExpired => Sys2Proof.Machine.execFreezeExpired s
  | .logRecordWrite => Sys2Proof.Machine.execLogRecordWrite s
  | .recordStaging => Sys2Proof.Machine.execRecordStaging s
  | .opSecondsTick => Sys2Proof.Machine.execOpSecondsTick s
  | .safeRead q n => Sys2Proof.Machine.execSafeRead q n s
  | .safeModeSet q n => Sys2Proof.Machine.execSafeModeSet q n s
  | .safeStopRequest q n => Sys2Proof.Machine.execSafeStopRequest q n s
  | .checkInput q n => Sys2Proof.Machine.execCheckInput q n s
  | .mainOutput q n => Sys2Proof.Machine.execMainOutput q n s
  | .thistlePassDone outputs uncorrectable => Sys2Proof.Machine.execThistlePassDone outputs uncorrectable s
  | .comparatorDecision => Sys2Proof.Machine.execComparatorDecision s
  | .compareDeadline => Sys2Proof.Machine.execCompareDeadline s
  | .verdictAction => Sys2Proof.Machine.execVerdictAction s
  | .goldenFrameCheck => Sys2Proof.Machine.execGoldenFrameCheck s
  | .goldenPassOverdue => Sys2Proof.Machine.execGoldenPassOverdue s
  | .sampleGateClose inputs => Sys2Proof.Machine.execSampleGateClose inputs s
  | .cowslipFrameTick => Sys2Proof.Machine.execCowslipFrameTick s
  | .lockstepMismatch => Sys2Proof.Machine.execLockstepMismatch s
  | .stopDiscrepancy => Sys2Proof.Machine.execStopDiscrepancy s
  | .watchdogExpiry => Sys2Proof.Machine.execWatchdogExpiry s
  | .outputReadbackCheck seenA seenB => Sys2Proof.Machine.execOutputReadbackCheck seenA seenB s
  | .clockMonitor copyB kHz => Sys2Proof.Machine.execClockMonitor copyB kHz s
  | .cowslipDebugHalt => Sys2Proof.Machine.execCowslipDebugHalt s
  | .postureSettled => Sys2Proof.Machine.execPostureSettled s
  | .safeTimeout => Sys2Proof.Machine.execSafeTimeout s
  | .proofIntervalDue => Sys2Proof.Machine.execProofIntervalDue s
  | .jobJoin q n masks refused => Sys2Proof.Machine.execJobJoin q n masks refused s
  | .joinRequestReceive port req => Sys2Proof.Machine.execJoinRequestReceive port req s
  | .joinCommitReceive port module_ mask => Sys2Proof.Machine.execJoinCommitReceive port module_ mask s
  | .joinTimeout => Sys2Proof.Machine.execJoinTimeout s
  | .jobLeave q n => Sys2Proof.Machine.execJobLeave q n s
  | .lossMessageReceive port msg => Sys2Proof.Machine.execLossMessageReceive port msg s
  | .linkRetrain q n => Sys2Proof.Machine.execLinkRetrain q n s
  | .linkRead q n => Sys2Proof.Machine.execLinkRead q n s
  | .flitReplay port fec => Sys2Proof.Machine.execFlitReplay port fec s
  | .retrainStart port cause => Sys2Proof.Machine.execRetrainStart port cause s
  | .retrainEnd port success lockedLanes => Sys2Proof.Machine.execRetrainEnd port success lockedLanes s
  | .lanesSilent port => Sys2Proof.Machine.execLanesSilent port s
  | .linkTrainDone port success peer => Sys2Proof.Machine.execLinkTrainDone port success peer s
  | .linkFailedHoldoff port => Sys2Proof.Machine.execLinkFailedHoldoff port s
  | .remoteAccess req answer => Sys2Proof.Machine.execRemoteAccess req answer s
  | .timeSetIncr q n => Sys2Proof.Machine.execTimeSetIncr q n s
  | .triggerArm q n => Sys2Proof.Machine.execTriggerArm q n s
  | .timeRead q n => Sys2Proof.Machine.execTimeRead q n s
  | .syncReceive domain sync => Sys2Proof.Machine.execSyncReceive domain sync s
  | .syncLost domain => Sys2Proof.Machine.execSyncLost domain s
  | .holdoverEnd => Sys2Proof.Machine.execHoldoverEnd s
  | .domainReturn => Sys2Proof.Machine.execDomainReturn s
  | .steeringUpdate => Sys2Proof.Machine.execSteeringUpdate s
  | .gateEntryExpiry port => Sys2Proof.Machine.execGateEntryExpiry port s
  | .netFrameTransmit port => Sys2Proof.Machine.execNetFrameTransmit port s
  | .mgmtSubmit port frame => Sys2Proof.Machine.execMgmtSubmit port frame s
  | .mgmtPoll port frame => Sys2Proof.Machine.execMgmtPoll port frame s
  | .mgmtFrameRefused port frame => Sys2Proof.Machine.execMgmtFrameRefused port frame s
  | .replyFrameSend port => Sys2Proof.Machine.execReplyFrameSend port s
  | .replyResend port => Sys2Proof.Machine.execReplyResend port s
  | .sampleIngress stream sample ticksAgo => Sys2Proof.Machine.execSampleIngress stream sample ticksAgo s
  | .fuseRecordRelease group => Sys2Proof.Machine.execFuseRecordRelease group s
  | .fuseReleaseDeadline group => Sys2Proof.Machine.execFuseReleaseDeadline group s
  | .loopEnable q n => Sys2Proof.Machine.execLoopEnable q n s
  | .loopDisable q n => Sys2Proof.Machine.execLoopDisable q n s
  | .coefWrite q n => Sys2Proof.Machine.execCoefWrite q n s
  | .bankSwap q n => Sys2Proof.Machine.execBankSwap q n s
  | .setpointWrite q n => Sys2Proof.Machine.execSetpointWrite q n s
  | .tripClear q n => Sys2Proof.Machine.execTripClear q n s
  | .loopRead q n => Sys2Proof.Machine.execLoopRead q n s
  | .ringPortStart q n => Sys2Proof.Machine.execRingPortStart q n s
  | .ringPortStop q n => Sys2Proof.Machine.execRingPortStop q n s
  | .ringWordWrite q n => Sys2Proof.Machine.execRingWordWrite q n s
  | .ringSnapshot q n => Sys2Proof.Machine.execRingSnapshot q n s
  | .teaselArm q n => Sys2Proof.Machine.execTeaselArm q n s
  | .teaselRelease q n => Sys2Proof.Machine.execTeaselRelease q n s
  | .qmgrDoorbellWrite agent value => Sys2Proof.Machine.execQmgrDoorbellWrite agent value s
  | .queueCfgWrite agent off value => Sys2Proof.Machine.execQueueCfgWrite agent off value s
  | .ctxReset agent ctx => Sys2Proof.Machine.execCtxReset agent ctx s
  | .tileShareWrite agent tile ctx value => Sys2Proof.Machine.execTileShareWrite agent tile ctx value s
  | .tileThrAssign agent tile thread ctx => Sys2Proof.Machine.execTileThrAssign agent tile thread ctx s
  | .tileThrRelease agent tile thread ctx => Sys2Proof.Machine.execTileThrRelease agent tile thread ctx s
  | .perfClear agent tile => Sys2Proof.Machine.execPerfClear agent tile s
  | .tileFaultClear agent tile => Sys2Proof.Machine.execTileFaultClear agent tile s
  | .tileDbgHalt agent tile thread => Sys2Proof.Machine.execTileDbgHalt agent tile thread s
  | .tileDbgResume agent tile thread => Sys2Proof.Machine.execTileDbgResume agent tile thread s
  | .tileDbgStep agent tile thread => Sys2Proof.Machine.execTileDbgStep agent tile thread s
  | .tileDbgRegWrite agent tile thread reg value => Sys2Proof.Machine.execTileDbgRegWrite agent tile thread reg value s
  | .memCtxWrite agent off value => Sys2Proof.Machine.execMemCtxWrite agent off value s
  | .kvmCtxWrite agent off value => Sys2Proof.Machine.execKvmCtxWrite agent off value s
  | .ctlCfgWrite agent off value => Sys2Proof.Machine.execCtlCfgWrite agent off value s
  | .ctlCommit agent value => Sys2Proof.Machine.execCtlCommit agent value s
  | .ringCfgWrite agent off value => Sys2Proof.Machine.execRingCfgWrite agent off value s
  | .timeSet agent value => Sys2Proof.Machine.execTimeSet agent value s
  | .timeCfgWrite agent off value => Sys2Proof.Machine.execTimeCfgWrite agent off value s
  | .safeReqReq agent cause => Sys2Proof.Machine.execSafeReqReq agent cause s
  | .safeReqSto agent => Sys2Proof.Machine.execSafeReqSto agent s
  | .safeWdtServe agent key => Sys2Proof.Machine.execSafeWdtServe agent key s
  | .pwrCfgWrite agent off value => Sys2Proof.Machine.execPwrCfgWrite agent off value s
  | .pcieInboundWrite agent value => Sys2Proof.Machine.execPcieInboundWrite agent value s
  | .pcieCfgRead agent answer => Sys2Proof.Machine.execPcieCfgRead agent answer s
  | .pcieCfgWrite agent value answer => Sys2Proof.Machine.execPcieCfgWrite agent value answer s
  | .pcieMemRead agent answer => Sys2Proof.Machine.execPcieMemRead agent answer s
  | .pcieMemWrite agent value answer => Sys2Proof.Machine.execPcieMemWrite agent value answer s
  | .pcieInboundRequest req => Sys2Proof.Machine.execPcieInboundRequest req s
  | .pcieLinkChange up speed width => Sys2Proof.Machine.execPcieLinkChange up speed width s
  | .memDbgAddrWrite agent value => Sys2Proof.Machine.execMemDbgAddrWrite agent value s
  | .debugReadComplete => Sys2Proof.Machine.execDebugReadComplete s
  | .registerWrite agent off value => Sys2Proof.Machine.execRegisterWrite agent off value s
  | .scrubPassRead addr result => Sys2Proof.Machine.execScrubPassRead addr result s
  | .corrHourRoll => Sys2Proof.Machine.execCorrHourRoll s
  | .trainingPatternSeen port => Sys2Proof.Machine.execTrainingPatternSeen port s
  | .gmChange domain self master => Sys2Proof.Machine.execGmChange domain self master s
  | .syncTransmit domain => Sys2Proof.Machine.execSyncTransmit domain s
  | .stopInput copyB => Sys2Proof.Machine.execStopInput copyB s
  | .otherDropped port => Sys2Proof.Machine.execOtherDropped port s
  | .cowslipRequestPagePoll reqs => Sys2Proof.Machine.execCowslipRequestPagePoll reqs s
  | .safetySramScrub thistleCorr cowslipCorr cowslipUncorr => Sys2Proof.Machine.execSafetySramScrub thistleCorr cowslipCorr cowslipUncorr s

end Sys2Proof.Machine
end

