-- ==== Sys2Proof/Safety.lean ====
section
/-! DEFINITION. What counts as a sound state, and the words that the statements use. -/

namespace Sys2Proof.Machine

/-- What a sound state holds, part by part. -/
structure SoundParts (mem flash : List Host.Cell) (cw : Store Word) (threads : Store Thread) (units : Store UnitState)
    (vregs : Store Word) (queues : Store Queue) (ctxs : Store Ctx) (lanes : Store Lane) (mgmt : Store Mgmt)
    (barriers : Store Barrier) (incr time frac : Nat) : Prop where
  /-- The memories keep their canonical form: addresses rise, and no byte that is listed is one an unlisted byte reads as. -/
  mem : Memory.wf mem = true
  /-- So does the flash. -/
  flash : Memory.wf flash = true
  /-- So do the control window and the sparse arrays named below. -/
  cw : storeWf resetWord cw = true
  threads : storeWf (fun _ => Thread.init) threads = true
  units : storeWf (fun _ => UnitState.init) units = true
  vregs : storeWf (fun _ => (0 : Word)) vregs = true
  queues : storeWf (fun _ => Queue.init) queues = true
  ctxs : storeWf (fun _ => Ctx.init) ctxs = true
  lanes : storeWf (fun _ => Lane.init) lanes = true
  mgmt : storeWf (fun _ => Mgmt.init) mgmt = true
  barriers : storeWf (fun _ => Barrier.init) barriers = true
  /-- INCR lies within 1.998..2.002 ns (R318). -/
  incr : incrMin ≤ incr ∧ incr ≤ incrMax
  /-- TIME is a u64 and FRAC a u32 (R315). -/
  time : time < 2 ^ 64
  frac : frac < 2 ^ 32

/-- A sound state. -/
def Sound (s : State) : Prop :=
  SoundParts s.mem s.flash s.cw s.threads s.units s.vregs s.queues s.ctxs s.lanes s.mgmt s.barriers s.timeu.incr s.time s.frac

/-! ### Words of the statements -/

/-- Command `n` of queue `q` is `c`: started, with this opcode. -/
def Started (s : State) (q n op : Nat) (c : QCmd) : Prop := findCmd s q n = some c ∧ c.phase = .started ∧ c.opcode = op

/-- The thread issues the word `w`, a module-specific instruction with this FUNC (R581). -/
def Issues (s : State) (tile t func w : Nat) : Prop :=
  tile < 48 ∧ t < 128 ∧ mayIssue s tile t = true ∧ fetchWord s tile t = .ok w ∧ bits w 31 26 = 0x3F ∧ bits w 25 20 = func

/-- A thread that has issued one instruction: its pc is past it. -/
def advanced (th : Thread) : Thread := { th with pc := (th.pc + 4) % 2 ^ 48, state := .ready, step := false }

/-- Every byte of memory reads as before. -/
def memorySame (s t : State) : Prop := ∀ a : Nat, memByte t a = memByte s a

/-- The registers that count corrected errors: TILE_ECC of a tile, MEM_LP_ECC of a stack (R66, R137). -/
def corrCounter (off : Nat) : Bool :=
  (List.range 48).any (fun i => decide (off = Reg.TILE_ECC i)) || (List.range 12).any (fun k => decide (off = Reg.MEM_LP_ECC k))

/-- The commands that may set module time: resets and bring-up, TIME_SET, and the register writes that reach them. -/
def setsTime : Instr → Bool
  | .powerOnReset .. | .rstNAssert | .rstNRelease .. | .bootDone | .trialBootTimeout .. | .wakeNLow .. | .wakeAfterMsExpiry ..
  | .busShutoff | .phaseFault .. | .thermalShutdown .. | .cwst .. | .warmReset .. | .powerStateSet .. | .regWrite ..
  | .qmgrDoorbellWrite .. | .queueCfgWrite .. | .ctxReset .. | .tileShareWrite .. | .tileThrAssign .. | .tileThrRelease ..
  | .perfClear .. | .tileFaultClear .. | .tileDbgHalt .. | .tileDbgResume .. | .tileDbgStep .. | .tileDbgRegWrite ..
  | .memCtxWrite .. | .kvmCtxWrite .. | .ctlCfgWrite .. | .ctlCommit .. | .ringCfgWrite .. | .timeSet .. | .pwrCfgWrite ..
  | .memDbgAddrWrite .. | .registerWrite .. => true
  | _ => false

/-- The commands that write no memory. -/
def plainCommand : Instr → Bool
  | .identityTreeRebuild | .presNChange .. | .presTermRemoval | .vinLow .. | .powerSample .. | .boostStep | .railRampDone
  | .powerMessageReceive .. | .jobShareAdopt | .thermalScan .. | .thermalTrip .. | .coolantSample .. | .ringDeliverCopy ..
  | .ringFrameReturn .. | .ringFrameOutcome .. | .ringLinkChange .. | .ringDiscoverReturn .. | .ringLayoutReturn ..
  | .frameRelease .. | .preclear .. | .preclearLift .. | .sliceEnd .. | .npForced .. | .goldenFrameStart | .goldenOverdue
  | .commandStart .. | .kvRegionInitDone .. | .barrierArrival .. | .kernelLaunch .. | .translationInvalidate ..
  | .streamStart .. | .streamStop .. | .setCommit .. | .imageHoldTimeout | .fence .. | .powerCapSet .. | .powerModeSet ..
  | .storeVerify .. | .fwActivate .. | .rollbackRaise .. | .logFreeze .. | .logThaw .. | .logClear .. | .freezeExpired
  | .logRecordWrite | .recordStaging | .opSecondsTick | .safeModeSet .. | .safeStopRequest .. | .thistlePassDone ..
  | .comparatorDecision | .compareDeadline | .verdictAction | .goldenPassOverdue | .sampleGateClose .. | .cowslipFrameTick
  | .lockstepMismatch | .stopDiscrepancy | .watchdogExpiry | .outputReadbackCheck .. | .clockMonitor .. | .cowslipDebugHalt
  | .postureSettled | .safeTimeout | .proofIntervalDue | .jobJoin .. | .joinRequestReceive .. | .joinCommitReceive ..
  | .joinTimeout | .jobLeave .. | .lossMessageReceive .. | .linkRetrain .. | .flitReplay .. | .retrainStart .. | .retrainEnd ..
  | .lanesSilent .. | .linkTrainDone .. | .linkFailedHoldoff .. | .timeSetIncr .. | .triggerArm .. | .syncReceive ..
  | .syncLost .. | .holdoverEnd | .domainReturn | .steeringUpdate | .gateEntryExpiry .. | .netFrameTransmit ..
  | .mgmtFrameRefused .. | .replyFrameSend .. | .replyResend .. | .loopEnable .. | .loopDisable .. | .bankSwap ..
  | .tripClear .. | .ringPortStart .. | .ringPortStop .. | .teaselArm .. | .teaselRelease .. | .timeCfgWrite .. | .safeReqReq ..
  | .safeReqSto .. | .safeWdtServe .. | .pcieInboundWrite .. | .pcieCfgRead .. | .pcieCfgWrite .. | .pcieMemRead ..
  | .pcieMemWrite .. | .pcieLinkChange .. | .debugReadComplete | .scrubPassRead .. | .corrHourRoll | .trainingPatternSeen ..
  | .gmChange .. | .syncTransmit .. | .stopInput .. | .otherDropped .. | .cowslipRequestPagePoll .. | .safetySramScrub .. => true
  | _ => false

/-- When a key-state command is the next of its queue and the context's tables can be read, the key-state unit runs it. -/
def kvReady (s : State) (q n x : Nat) (used : List (Nat × Nat)) (c : QCmd) : Prop :=
  x = cmdCtx s q c ∧ kvBehind s q n = false ∧ kvSize s x ≠ 0 ∧ c.reservedZero used = true ∧ kvTablesBad s x = none

/-- When a control command passes its checks. -/
def ctlReady (q : Nat) (s : State) (c : QCmd) (va : Bool) : Prop :=
  c.reservedZero (if va then [(16, 2), (24, 8)] else [(16, 2)]) = true ∧ (va = true → opAligned q (c.field 24 8) 64 = true)
    ∧ c.field 16 2 + c.length ≤ 256 ∧ (c.opcode = 0x0C06 ∨ inSafe s = false)

end Sys2Proof.Machine
end

