-- ==== Sys2Proof/Certificates/Slice0/Obligations.lean ====
section
/-! DEFINITION. The statements for the provers. -/

open Sys2Proof Sys2Proof.Machine

/-! ### The block as a whole -/

/-- A step with a command waiting runs the command at the front of the queue on the state with the rest of the queue. -/
def Obligations.StepRunsFrontCommand : Prop :=
  ∀ (c : Instr) (rest : List Instr) (s : State), s.pending = c :: rest → step s = exec c { s with pending := rest }

/-- R315, with nothing waiting and the module supplied: a step is one tick of the time clock, which adds INCR to
TIME:FRAC as one 96-bit sum and changes no register, no memory and no thread. That an idle step is one tick is the
model's choice (log entry 1). With nothing waiting and no supply, a step changes nothing (log entry 1). -/
def Obligations.IdleStepTicks : Prop :=
  (∀ s : State, Sound s → s.pending = [] → s.power.off = false →
    ∃ t, step s = .next t
      ∧ t.time * 2 ^ 32 + t.frac = (s.time * 2 ^ 32 + s.frac + s.timeu.incr) % 2 ^ 96
      ∧ t = { s with time := t.time, frac := t.frac, ticks := s.ticks + 1 })
  ∧ (∀ s : State, s.pending = [] → s.power.off = true → step s = .next s)

/-- Every step keeps a state sound: the memories and the module's sparse arrays keep their canonical form, INCR stays within
1.998..2.002 ns, TIME stays a u64 and FRAC a u32. -/
def Obligations.StepKeepsSound : Prop :=
  ∀ s t : State, Sound s → step s = .next t → Sound t

/-- The state after reset is sound, RESET_CAUSE says power-on, no command waits, and every byte of memory reads as zero (log
entry 3). -/
def Obligations.ResetIsSound : Prop :=
  Sound State.reset ∧ fget State.reset Reg.GLB_RESET_CAUSE_CAUSE = 1 ∧ State.reset.pending = []
    ∧ ∀ a : Nat, memByte State.reset a = 0

/-- A step takes exactly the command at the front of the queue: no command adds, drops or reorders waiting commands. -/
def Obligations.StepTakesOneCommand : Prop :=
  ∀ s t : State, step s = .next t → t.pending = s.pending.tail

/-- Every command answers a next state: no command of the table stops the block. -/
def Obligations.EveryCommandAnswers : Prop :=
  ∀ (c : Instr) (s : State), ∃ t, exec c s = .next t

/-- R317: module time never steps. Apart from the commands of `setsTime`, no command changes TIME or FRAC. -/
def Obligations.CommandsLeaveTime : Prop :=
  ∀ (c : Instr) (s t : State), setsTime c = false → exec c s = .next t → t.time = s.time ∧ t.frac = s.frac

/-- R317: a write of TIME_SET by any agent other than Harebell, or while QMGR_STATUS.ACCEPTING is 1, changes nothing and raises
0x5008. -/
def Obligations.TimeSetRefused : Prop :=
  ∀ (a : Agent) (v : DWord) (s : State), alive s = true → a ≠ .harebell ∨ fbit s Reg.QMGR_STATUS_ACCEPTING = true →
    exec (.timeSet a v) s = .next (raise s 0x5008 timeIsland (regData Reg.TIME_SET))

/-- The commands of `plainCommand` leave every byte of memory as it was. -/
def Obligations.PlainCommandsLeaveMemory : Prop :=
  ∀ (c : Instr) (s t : State), plainCommand c = true → exec c s = .next t → memorySame s t

/-- What is written to memory reads back, and every byte outside it reads as before. -/
def Obligations.MemoryReadsBack : Prop :=
  ∀ (s : State) (a : Nat) (bs : List Byte), Sound s →
    memRead (memWrite s a bs) a bs.length = bs
    ∧ ∀ b : Nat, b < a ∨ a + bs.length ≤ b → memByte (memWrite s a bs) b = memByte s b

/-- A field of a register reads back the value written to it, modulo its width, and a write of one register leaves every word of
every other register. -/
def Obligations.RegisterReadsBack : Prop :=
  ∀ (s : State) (f : Field) (v : Nat), Sound s → f.lo + f.len ≤ 64 → 0 < f.len →
    fget (fset s f v) f = v % 2 ^ f.len
    ∧ ∀ off : Nat, off ≠ f.off → off ≠ f.off + 4 → regWord (fset s f v) off = regWord s off

/-- R44: x0 of a thread reads as zero, and a write of it changes nothing. Other scalar registers read back what is written. -/
def Obligations.RegisterZero : Prop :=
  ∀ (th : Thread) (r : Nat) (v : DWord), xreg th 0 = 0 ∧ setXreg th 0 v = th
    ∧ (r ≠ 0 → storeWf (fun _ => (0 : DWord)) th.regs = true → xreg (setXreg th r v) r = v)

/-- R316: at the release of power-on reset TIME and FRAC start at 0 and INCR is 2.0 ns, whatever they were. -/
def Obligations.ResetValues : Prop :=
  (State.reset.time = 0 ∧ State.reset.frac = 0 ∧ State.reset.timeu.incr = 2 * 2 ^ 32)
  ∧ ∀ (m : Nat) (s : State), (resetState .powerOn m s).time = 0 ∧ (resetState .powerOn m s).frac = 0
      ∧ (resetState .powerOn m s).timeu.incr = 2 * 2 ^ 32

/-! ### Package, power and temperature -/

/-- BOOT_DONE ends a bring-up that waits; TRIAL_BOOT_TIMEOUT abandons a trial bank 10 s after reset and restarts with cause 4;
IDENTITY_TREE_REBUILD makes signing possible; WAKE_N and the wake timer leave DROWSE or DORMANT. Rows whose completion is stated
here: BOOT_DONE (R523), TRIAL_BOOT_TIMEOUT (R524), IDENTITY_TREE_REBUILD (R533), WAKE_N_LOW (R544), WAKE_AFTER_MS_EXPIRY (R546).
-/
def Obligations.BootEventsComplete : Prop :=
  (∀ s : State, alive s = true → s.harebell.waiting = true → exec .bootDone s = .next (bootDone s))
  ∧ (∀ (k : Nat) (s : State), alive s = true → s.harebell.trial = true → s.harebell.booted = false →
      s.harebell.resetAt + 5000000000 ≤ s.ticks →
      exec (.trialBootTimeout k) s = .next (bringUp 4 k (decide (s.harebell.trialBank = 0))
        (useBank (restart 4 (abandonTrial 2 s)).harebell.bootBank false (restart 4 (abandonTrial 2 s)))))
  ∧ (∀ s : State, alive s = true → s.harebell.booted = true → s.harebell.treeAt.isSome = true →
      exec .identityTreeRebuild s = .next (modHarebell s (fun h => { h with treeAt := none, signed := true })))
  ∧ (∀ (k : Nat) (s : State), s.power.off = false →
      exec (.wakeNLow k) s = .next (if s.power.dormant then exitDormant 1 k s else drowseExit 1 s))
  ∧ (∀ (k t : Nat) (s : State), s.power.off = false → s.power.wakeTick = some t → t ≤ s.ticks →
      exec (.wakeAfterMsExpiry k) s = .next (if s.power.dormant then exitDormant 2 k s else drowseExit 2 s))

/-- Presence, supply and phases: a removed module of a job of one keeps its registers but SEATED and opens its termination; the
termination ends 10 ms after insertion; VIN_LOW raises 0x9008 with the voltage; BUS_SHUTOFF takes the supply away; the fault of
a phase other than that of Cowslip and Harebell latches PHASE_FAULT, counts it, raises 0x9009 and stops what the phase supplies;
that of phase 5 takes the links down. Temperature and coolant: a scan and a coolant sample are applied; a hardware trip latches
TRIP, takes the safe state with cause 0x0B and raises 0x9006; the thermal shutdown raises 0x9007, empties the record queue into
the log and takes the supply away. Rows whose completion is stated here: PRES_N_CHANGE (R556), PRES_TERM_REMOVAL (R556), VIN_LOW
(R469), BUS_SHUTOFF (R469), PHASE_FAULT (R468), THERMAL_SCAN (R483), THERMAL_TRIP (R484), THERMAL_SHUTDOWN (R485),
COOLANT_SAMPLE (R486). -/
def Obligations.SupplyEventsComplete : Prop :=
  (∀ s : State, alive s = true → s.power.absent = false → otherMembers s = [] → Sound s →
      ∃ t, exec (.presNChange false) s = .next t ∧ t.power.absent = true ∧ t.power.presTerm = true
        ∧ fbit t Reg.LINK_STATUS_SEATED = false ∧ t.links.noAuto = true ∧ t.mem = s.mem ∧ t.tansy = s.tansy)
  ∧ (∀ (s : State) (t : Nat), s.power.presentAt = some t → s.power.presTerm = true → s.power.absent = false → t + 10000000 ≤ s.time →
      exec .presTermRemoval s = .next (modPower s (fun p => { p with presTerm := false, presentAt := none })))
  ∧ (∀ (mv : Nat) (s : State), alive s = true → mv < 36000 → exec (.vinLow mv) s = .next (raise s 0x9008 powerIsland (u16 mv)))
  ∧ (∀ s : State, s.power.off = false → ∃ t, exec .busShutoff s = .next t ∧ t.power.off = true ∧ t.mem = [] ∧ t.threads = []
        ∧ t.flash = s.flash ∧ t.time = s.time)
  ∧ (∀ (k : Nat) (c : PhaseCause) (s : State), alive s = true → k < 7 → phaseUp s k = true →
      ∃ u, u = raise (finc (fsetb s (Reg.PWR_PHASE_FAULT k) true) (Reg.PWR_CNT_COUNT 5)) 0x9009 powerIsland (u16 k ++ u8 (PhaseCause.code c))
        ∧ exec (.phaseFault k c) s = .next (rescheduleAll (if k = 5 then linksDown u else u)))
  ∧ (∀ (l : List Nat) (s : State), alive s = true → exec (.thermalScan l) s = .next (thermalScan l s))
  ∧ (∀ (k : Nat) (s : State), alive s = true → fbit s Reg.PWR_STATUS_TRIP = false → k < 8 →
      exec (.thermalTrip k) s = .next (raise (safeBoth 0xB (setEff (fsetb s Reg.PWR_STATUS_TRIP true))) 0x9006 powerIsland (u16 k)))
  ∧ (∀ (k : Nat) (s : State), alive s = true → k < 8 →
      ∃ t, exec (.thermalShutdown k) s = .next t ∧ t = shutOff (drainLog (raise s 0x9007 powerIsland [])) ∧ t.power.off = true)
  ∧ (∀ (a b : Nat) (s : State), alive s = true → exec (.coolantSample a b) s = .next (coolantSample a b s))

/-! ### Triggers, frames and slices -/

/-- R327: a firing counts in FIRED, advances the trigger (a periodic one by PERIOD_NS, a one-shot one disarms), applies a commit
that waits for it, and fires everything that names the trigger, at the value of NEXT as its nominal instant. R330: a trigger
waits for those of a lower number that are due too. -/
def Obligations.TriggerFires : Prop :=
  (∀ (i k : Nat) (s : State), alive s = true → i < 64 → trigArmed s i = true → reached s (trigNext s i) = true → lowerDue s i = false →
      exec (.triggerFire i k) s = .next (fireTrigger i (trigNext s i) (commitFire i k (advanceTrigger i
        (fset s (Reg.TIME_TRIG_STATE_FIRED i) ((fget s (Reg.TIME_TRIG_STATE_FIRED i) + 1) % 2 ^ 24))))))
  ∧ (∀ (i : Nat) (s : State), trigPeriod (trigRecord s i) = 0 → advanceTrigger i s = disarmTrigger i s)
  ∧ (∀ (i : Nat) (s : State), trigPeriod (trigRecord s i) ≠ 0 →
      advanceTrigger i s = setTrigNext s i (trigNext s i + trigPeriod (trigRecord s i)))

/-- R319: a time value is reached when the signed difference of its low 32 bits and TIME's is not positive. -/
def Obligations.ReachedRule : Prop :=
  ∀ (s : State) (x : Nat), reached s x = decide (s32diff x s.time ≤ 0)

/-- R246: a release that arrives while the previous frame is open is skipped, counted and recorded with 0x2053; the open frame
continues, and the tiles that the pre-clear kept are granted again. -/
def Obligations.ReleaseSkipped : Prop :=
  ∀ (c r : Nat) (p : Plan) (s : State), Sound s → alive s = true → c < 64 → (ctx s c).releaseAt = some r → r ≤ s.time →
    (ctx s c).plan = some p → ctxActive s c = true → noFrameFor s p = false → (ctx s c).frame.isSome = true →
    ∃ t, exec (.frameRelease c) s = .next (rescheduleAll t)
      ∧ t = raiseCtx (finc (setCtx s c { ctx s c with releaseAt := none, preclear := none }) (Reg.QMGR_CTX_CNT_COUNT c 4)) 0x2053 69 c []
      ∧ (ctx t c).frame = (ctx s c).frame ∧ t.mem = s.mem ∧ t.threads = s.threads

/-- Frames and slices: a frame opens at its release, which ends its pre-clear; the pre-clear clears the tiles of an exclusive
context; a lift ends it 1 µs after the release without a frame; a slice ends after its length; a non-preemptible section is
forced out after NP_LIMIT. Golden passes, teardown and key-state initialization: an idle golden frame starts, an overdue one
raises 0x2059 once, a teardown completes once the context's queues are empty, and the end of an initialization clears its mark.
Rows whose completion is stated here: FRAME_RELEASE (R246), PRECLEAR (R242), PRECLEAR_LIFT (R242), SLICE_END (R241), NP_FORCED
(R241), GOLDEN_FRAME_START (R251), GOLDEN_OVERDUE (R251), TEARDOWN_COMPLETE (R252), KV_REGION_INIT_DONE (R175). -/
def Obligations.ContextEventsComplete : Prop :=
  (∀ (c r : Nat) (s : State), alive s = true → c < 64 → (ctx s c).releaseAt = some r → r ≤ s.time →
      exec (.frameRelease c) s = .next (frameRelease c s))
  ∧ (∀ (c r : Nat) (p : Plan) (s : State), alive s = true → c < 64 → (ctx s c).plan = some p → nextRelease s c p = some r →
      ctxActive s c = true → p.excl = true → (ctx s c).preclear = none → inDrowse s = false → r ≤ s.time + preclearNs s →
      ∃ u, exec (.preclear c) s = .next (rescheduleAll (setCtx u c { ctx u c with preclear := some r }))
        ∧ u = forEach ((bestEffortOn s p.tileMask).map (fun d => (d, runMask s d p.tileMask))) (fun e s => deferClear s e.1 e.2) s)
  ∧ (∀ (c r : Nat) (s : State), alive s = true → c < 64 → (ctx s c).preclear = some r →
      (ctx s c).releaseAt = none → r + 1000 ≤ s.time →
      exec (.preclearLift c) s = .next (rescheduleAll (setCtx s c { ctx s c with preclear := none })))
  ∧ (∀ (l : Nat) (s : State), alive s = true → l < 8 → (lane s l).holder.isSome = true → (lane s l).start + (lane s l).length ≤ s.time →
      exec (.sliceEnd l) s = .next (rescheduleAll (dropHolder s l)))
  ∧ (∀ (c : Nat) (d : Deferral) (s : State), alive s = true → c < 64 → (ctx s c).deferral = some d →
      d.since + fget s Reg.QMGR_SCHED_CFG_NP_LIMIT * 1000 ≤ s.time →
      exec (.npForced c) s
        = .next (rescheduleAll (raiseCtx (finc (endDeferral s c) (Reg.QMGR_CTX_CNT_COUNT c 6)) 0x2055 69 c [])))
  ∧ (∀ (c e : Nat) (p : Plan) (en : Entry) (s : State), alive s = true → goldenHost s = some (c, p) → netEntry s = some (e, en) →
      ctxActive s c = true → s.golden = none → inDrowse s = false → inHold s = false →
      (setBitsOf p.tileMask 48).all (fun t => decide (p.threads ≤ (idleThreads s t c).length)) = true →
      goldenWindow s c p = true → ((bestEffortOn s p.tileMask).any (fun d => ctxPending s d
        && (setBitsOf p.tileMask 48).any (fun t => runBit s t d)) = false ∨ s.goldenAt + goldenMaxNs s ≤ s.time) →
      exec .goldenFrameStart s = .next (startGolden c p e en s))
  ∧ (∀ (c : Nat) (p : Plan) (s : State), alive s = true → goldenHost s = some (c, p) → s.golden = none → s.goldenLate = false →
      inDrowse s = false → s.goldenAt + 2 * goldenMaxNs s ≤ s.time →
      exec .goldenOverdue s = .next (raiseCtx { s with goldenLate := true } 0x2059 69 c []))
  ∧ (∀ (c : Nat) (s : State), c < 64 → ctxState s c = 2 → (ownedQueues s c).all (fun q => decide (outstanding s q = 0)) = true →
      exec (.teardownComplete c) s
        = .next (if (ctx s c).resetStarted then recreateCtx c s else fset s (Reg.QMGR_CTX_STATE_STATE c) 3))
  ∧ (∀ (c : Nat) (s : State), c < 64 → (ctx s c).kvInit = true →
      exec (.kvRegionInitDone c) s = .next (fsetb (setCtx s c { ctx s c with kvInit := false }) Reg.KVM_STATUS_INIT_BUSY
        (s.ctxs.any (fun e => decide (e.1 ≠ c) && e.2.kvInit))))

/-! ### Queues -/

/-- R208, R209: the command that a start serves is the next waiting one of the queue whose turn it is. R217: a complete
command's reply is posted, and leaves the queue, once its event records have been handed over. R220: a FENCE that waits longer
than its timeout raises 0x2043, completes with CONTEXT_FAULT and ends its context. A FENCE of length zero settles with OK_EMPTY;
the answers of other modules settle the entries that they reach, and one that finds its queue off ends the FENCE with
INVALID_PARAM. Rows whose completion is stated here: COMMAND_START (R208), REPLY_POST (R217), FENCE_TIMEOUT (R220), FENCE
(R219). -/
def Obligations.QueueEventsComplete : Prop :=
  (∀ (q : Nat) (c : QCmd) (s : State), nextWaiting s q = some c → servedNext s = some q →
      exec (.commandStart q) s = .next (startCmd s q c))
  ∧ (∀ (q : Nat) (c : QCmd) (rest : List QCmd) (s : State), (queue s q).out = c :: rest → c.phase = .complete → s.tansy.raised = [] →
      phaseUp s 5 = true → exec (.replyPost q) s = .next (postReply s q c))
  ∧ (∀ (q : Nat) (c : QCmd) (s : State),
      (queue s q).out.find? (fun c => decide (c.phase = .started ∧ c.opcode = 0x0700) && c.engaged) = some c →
      fget s Reg.QMGR_FENCE_TIMEOUT_MS ≠ 0 → c.startedAt + fget s Reg.QMGR_FENCE_TIMEOUT_MS * 1000000 < s.time →
      ∃ i u, i = c.captured.findIdx (fun w => decide (w ≠ .reached))
        ∧ u = completeCmd (raiseCtx s 0x2043 69 (queueCtx s q) (u16 q ++ leBytes 4 c.tag ++ u16 (c.field (16 + 2 * i) 2)))
          q c.n Status.contextFault i
        ∧ exec (.fenceTimeout q) s = .next (if isMgmt q then u else beginTeardown u (owner u q) 4 (some (q, c.n, i))))
  ∧ (∀ (q n : Nat) (reached off other : List Nat) (c : QCmd) (s : State), Started s q n 0x0700 c → c.length = 0 →
      exec (.fence q n ⟨reached, off, other⟩) s = .next (completeCmd s q n Status.okEmpty 0))
  ∧ (∀ (q n : Nat) (reached : List Nat) (c : QCmd) (s : State), Started s q n 0x0700 c → 0 < c.length → c.length ≤ 8 →
      c.reservedZero [(16, 2 * c.length)] = true → c.engaged = true →
      exec (.fence q n ⟨reached, [], []⟩) s = .next (settleFences (modCmd s q c.n (fun d => { d with
        captured := (c.captured.zip (List.range c.captured.length)).map (fun e =>
          if e.1.isRemote && reached.contains e.2 then FenceWait.reached else e.1) }))))
  ∧ (∀ (q n i : Nat) (reached off other : List Nat) (c : QCmd) (s : State), Started s q n 0x0700 c → 0 < c.length → c.length ≤ 8 →
      c.reservedZero [(16, 2 * c.length)] = true → c.engaged = true →
      ((c.captured.zip (List.range c.captured.length)).find? (fun e => off.contains e.2 && e.1.isRemote)).map (·.2) = some i →
      exec (.fence q n ⟨reached, off, other⟩) s = .next (completeCmd s q n Status.invalidParam i))

/-- R446: a command's status never changes once it is decided. -/
def Obligations.StatusNeverChanges : Prop :=
  ∀ (s : State) (q n m st d : Nat) (c : QCmd), Sound s → findCmd s q m = some c → c.phase = .complete →
    findCmd (completeCmd s q n st d) q m = some c

/-- A command that is not complete takes the status its engine decides, the detail cut to 16 bits, and module time. -/
def Obligations.StatusDecided : Prop :=
  ∀ (s : State) (q n st d : Nat) (c : QCmd), Sound s → findCmd s q n = some c → c.phase ≠ .complete →
    findCmd (completeCmd s q n st d) q n
      = some { c with phase := .complete, status := st, detail := d % 0x10000, time := s.time }

/-! ### Threads -/

/-- R44, R581: scalar instructions. An integer instruction writes its destination with the result of its operation (log entry
9); a load writes the little-endian value at its address, extended as its form says; a store writes the low bytes of its source.
The thread's pc passes the instruction. R66, R137: the corrected errors of the words read are counted (log entry 65). Rows whose
completion is stated here: SCALAR_INSTRUCTION (R581). -/
def Obligations.ScalarInstructionsComplete : Prop :=
  (∀ (tile t w f rd rs1 rs2 : Nat) (imm : DWord) (s : State), tile < 48 → t < 128 → mayIssue s tile t = true →
      fetchWord s tile t = .ok w → bits w 31 26 ≠ 0x3F →
      exec (.scalarInstruction tile t (.int f rd rs1 rs2 imm)) s = .next (issued s tile t (setThread (countIssue s tile t) tile t
        (setXreg (advanced (thread s tile t)) (rd % 32)
          (Config.scalarInt f (xreg (thread s tile t) (rs1 % 32)) (xreg (thread s tile t) (rs2 % 32)) imm)))))
  ∧ (∀ (tile t w size rd rs1 va : Nat) (sg : Bool) (off : DWord) (bs : List Byte) (s : State), tile < 48 → t < 128 →
      mayIssue s tile t = true → fetchWord s tile t = .ok w → bits w 31 26 ≠ 0x3F → size < 4 →
      va = (xreg (thread s tile t) (rs1 % 32) + off).toNat → va % 2 ^ size = 0 →
      vaRead (countIssue s tile t) (thread s tile t).ctx va (2 ^ size) = .ok bs →
      exec (.scalarInstruction tile t (.load size sg rd rs1 off)) s = .next (issued s tile t
        (readNoted (countIssue s tile t) (thread s tile t).ctx [(va, 2 ^ size)] (setThread (countIssue s tile t) tile t
          (setXreg (advanced (thread s tile t)) (rd % 32)
            (if sg then BitVec.ofInt 64 (sint (8 * 2 ^ size) (leNat bs)) else BitVec.ofNat 64 (leNat bs)))))))
  ∧ (∀ (tile t w size rs1 rs2 va : Nat) (off : DWord) (s u : State), tile < 48 → t < 128 →
      mayIssue s tile t = true → fetchWord s tile t = .ok w → bits w 31 26 ≠ 0x3F → size < 4 →
      va = (xreg (thread s tile t) (rs1 % 32) + off).toNat → va % 2 ^ size = 0 →
      vaWrite (countIssue s tile t) (thread s tile t).ctx va (leBytes (2 ^ size) (xreg (thread s tile t) (rs2 % 32)).toNat) = .ok u →
      exec (.scalarInstruction tile t (.store size rs1 rs2 off)) s = .next (issued s tile t (setThread u tile t (advanced (thread s tile t)))))
  ∧ (∀ (tile t w f rs1 rs2 link : Nat) (off : DWord) (s : State), tile < 48 → t < 128 → mayIssue s tile t = true →
      fetchWord s tile t = .ok w → bits w 31 26 ≠ 0x3F →
      exec (.scalarInstruction tile t (.branch f rs1 rs2 off link)) s = .next (issued s tile t (setThread (countIssue s tile t) tile t
        (setXreg (if Config.scalarCond f (xreg (thread s tile t) (rs1 % 32)) (xreg (thread s tile t) (rs2 % 32))
            then { advanced (thread s tile t) with pc := ((thread s tile t).pc + off.toNat) % 2 ^ 48 } else advanced (thread s tile t))
          (link % 32) (BitVec.ofNat 64 (advanced (thread s tile t)).pc)))))
  ∧ (∀ (tile t w f rd rs1 rs2 rs3 : Nat) (s : State), tile < 48 → t < 128 → mayIssue s tile t = true →
      fetchWord s tile t = .ok w → bits w 31 26 ≠ 0x3F →
      exec (.scalarInstruction tile t (.fp f rd rs1 rs2 rs3)) s = .next (issued s tile t (setThread (countIssue s tile t) tile t
        (setXreg (advanced (thread s tile t)) (rd % 32) (Config.scalarFp f (xreg (thread s tile t) (rs1 % 32))
          (xreg (thread s tile t) (rs2 % 32)) (xreg (thread s tile t) (rs3 % 32)))))))

/-- R48, R50, R585: UCMD, JBAR and LBAR put a unit command into the queue of their unit, with the thread's token; a thread that
finds the queue full waits, and its pc stays. An arrival of another member at a barrier counts for its next generation. Rows
whose completion is stated here: UCMD (R48), JBAR (R509), LBAR (R585), BARRIER_ARRIVAL (R509). -/
def Obligations.UnitInstructionsComplete : Prop :=
  (∀ (tile t w : Nat) (op : UnitOp) (bs : List Byte) (s : State), Issues s tile t 0x01 w →
      (xreg (thread s tile t) (bits w 9 5)).toNat < 6 → (xreg (thread s tile t) (bits w 14 10)).toNat % 64 = 0 →
      unitOf op = some (xreg (thread s tile t) (bits w 9 5)).toNat →
      vaRead (countIssue s tile t) (thread s tile t).ctx (xreg (thread s tile t) (bits w 14 10)).toNat 64 = .ok bs →
      exec (.ucmd tile t op) s = .next (issued s tile t (readNoted (countIssue s tile t) (thread s tile t).ctx
        [((xreg (thread s tile t) (bits w 14 10)).toNat, 64)] (issueUnit (countIssue s tile t) tile t
          (xreg (thread s tile t) (bits w 9 5)).toNat (advanced (thread s tile t)) (bits w 4 0 % 16) 0 op))))
  ∧ (∀ (tile t w : Nat) (s : State), Issues s tile t 0x08 w → (xreg (thread s tile t) (bits w 14 10)).toNat < 64 →
      exec (.jbar tile t) s = .next (issued s tile t (issueUnit (countIssue s tile t) tile t 5 (advanced (thread s tile t)) (bits w 4 0 % 16) 0
        (.barrier (xreg (thread s tile t) (bits w 14 10)).toNat (xreg (thread s tile t) (bits w 9 5)).toNat))))
  ∧ (∀ (tile t w : Nat) (s : State), Issues s tile t 0x0C w →
      exec (.lbar tile t) s = .next (issued s tile t (issueUnit (countIssue s tile t) tile t 5 (advanced (thread s tile t)) (bits w 4 0 % 16)
        ((thread s tile t).lbars + 1) .launchBarrier)))
  ∧ (∀ (s : State) (tile t u token seq : Nat) (th : Thread) (op : UnitOp), (unit s tile u).queue.length < 16 →
      issueUnit s tile t u th token seq op = setThread (setUnit s tile u { unit s tile u with
        queue := (unit s tile u).queue ++ [⟨th.ctx, t, token, op, th.launch, seq, false, 0, false⟩] }) tile t
          { th with lbars := if seq = 0 then th.lbars else seq })
  ∧ (∀ (s : State) (tile t u token seq : Nat) (th : Thread) (op : UnitOp), 16 ≤ (unit s tile u).queue.length →
      issueUnit s tile t u th token seq op = setThread s tile t
        { th with state := .waiting, wait := .unitQueue u, pc := (th.pc + 2 ^ 48 - 4) % 2 ^ 48 })
  ∧ (∀ (m b : Nat) (s : State), b < 64 → m ≠ modnum s → inJob s m = true → linkHolds s (some m) = false →
      exec (.barrierArrival m b) s = .next (settleBarrier (barrierArrive s m b) b))

/-- R47, R581, R587: NPENTER, NPEXIT, TNOW and HALT. Each moves the pc past the word; NPENTER and NPEXIT change the depth of the
thread's non-preemptible section; TNOW reads module time; HALT leaves the thread IDLE, once its unit commands are complete.
R584, R586: TWAIT takes the tokens of its mask where all are set, and waits otherwise; LEVEL gives the level of the thread's
launch at a switch point; DBELL rings the context's own queue; QWAIT gives CQ_TAIL where it differs from the value expected, and
waits otherwise. Rows whose completion is stated here: NPENTER (R587), NPEXIT (R587), TNOW (R315), HALT (R47), TWAIT (R48),
LEVEL (R584), DBELL (R203), QWAIT (R586). -/
def Obligations.ThreadInstructionsComplete : Prop :=
  (∀ (tile t w : Nat) (s : State), Issues s tile t 0x06 w → (thread s tile t).depth < 15 →
      exec (.npenter tile t) s = .next (issued s tile t (setThread (countIssue s tile t) tile t
        { advanced (thread s tile t) with depth := (thread s tile t).depth + 1 })))
  ∧ (∀ (tile t w : Nat) (s : State), Issues s tile t 0x07 w → (thread s tile t).depth ≠ 0 →
      exec (.npexit tile t) s = .next (issued s tile t (sectionLeft (setThread (countIssue s tile t) tile t
        { advanced (thread s tile t) with depth := (thread s tile t).depth - 1 }) (thread s tile t).ctx)))
  ∧ (∀ (tile t w : Nat) (s : State), Issues s tile t 0x09 w →
      exec (.tnow tile t) s = .next (issued s tile t (setThread (countIssue s tile t) tile t
        (setXreg (advanced (thread s tile t)) (bits w 19 15) (BitVec.ofNat 64 s.time)))))
  ∧ (∀ (tile t w : Nat) (s : State), Issues s tile t 0x00 w → threadHasUnits s tile t = true →
      exec (.halt tile t) s = .next (issued s tile t (setThread (countIssue s tile t) tile t
        { advanced (thread s tile t) with halting := true })))
  ∧ (∀ (tile t w : Nat) (s : State), Issues s tile t 0x00 w → threadHasUnits s tile t = false → (thread s tile t).launch = none →
      exec (.halt tile t) s = .next (issued s tile t (rescheduleAll (sectionLeft (setThread (countIssue s tile t) tile t
        { advanced (thread s tile t) with state := .idle, depth := 0, launch := none, lbars := 0, halting := false })
        (thread s tile t).ctx))))
  ∧ (∀ (tile t w id : Nat) (x : Launch) (s u v : State), Issues s tile t 0x00 w → threadHasUnits s tile t = false →
      (thread s tile t).launch = some id → findLaunch s id = some x →
      u = setThread (countIssue s tile t) tile t
        { advanced (thread s tile t) with state := .idle, depth := 0, launch := none, lbars := 0, halting := false } →
      v = setLaunch u { x with lbarCap := some (min (x.lbarCap.getD (thread s tile t).lbars) (thread s tile t).lbars) } →
      exec (.halt tile t) s = .next (issued s tile t (rescheduleAll (sectionLeft
        (if (listedThreads v).any (fun e => decide (e.2.2.launch = some id)) then v
          else finishLaunch v { x with lbarCap := some (min (x.lbarCap.getD (thread s tile t).lbars) (thread s tile t).lbars) })
        (thread s tile t).ctx))))
  ∧ (∀ (tile t w : Nat) (s : State), Issues s tile t 0x02 w →
      exec (.twait tile t) s = .next (issued s tile t (setThread (countIssue s tile t) tile t
        (if tokensIn (thread s tile t).tokens ((xreg (thread s tile t) (bits w 14 10)).toNat % 2 ^ 16)
          then { advanced (thread s tile t) with
            tokens := clearTokens (thread s tile t).tokens ((xreg (thread s tile t) (bits w 14 10)).toNat % 2 ^ 16) }
          else { advanced (thread s tile t) with
            state := .waiting, wait := .tokens ((xreg (thread s tile t) (bits w 14 10)).toNat % 2 ^ 16) }))))
  ∧ (∀ (tile t w p : Nat) (x : Launch) (e : Entry) (s : State), Issues s tile t 0x03 w →
      (thread s tile t).launch.bind (findLaunch s) = some x → entryOf s x.entry = some e →
      p = (xreg (thread s tile t) (bits w 14 10)).toNat → p ≠ 0 → p ≤ e.switchCount →
      exec (.level tile t) s = .next (issued s tile t (setThread (latchLevel (countIssue s tile t) x e p).2 tile t
        (setXreg (advanced (thread s tile t)) (bits w 19 15) (BitVec.ofNat 64 (latchLevel (countIssue s tile t) x e p).1)))))
  ∧ (∀ (tile t w q n : Nat) (s : State), Sound s → Issues s tile t 0x04 w → q = (xreg (thread s tile t) (bits w 14 10)).toNat →
      n = (xreg (thread s tile t) (bits w 9 5)).toNat → n ≤ 4096 → q < 16384 → n ≠ 0 → 16 ≤ q → owner s q = (thread s tile t).ctx →
      exec (.dbell tile t) s
        = .next (issued s tile t (doorbell (setThread (countIssue s tile t) tile t (advanced (thread s tile t))) q n false)))
  ∧ (∀ (tile t w q : Nat) (s : State), Sound s → Issues s tile t 0x05 w → q = (xreg (thread s tile t) (bits w 14 10)).toNat →
      16 ≤ q → q < 16384 → owner s q = (thread s tile t).ctx →
      exec (.qwait tile t) s = .next (issued s tile t (setThread (countIssue s tile t) tile t
        (if (queue s q).cqTail ≠ (xreg (thread s tile t) (bits w 9 5)).toNat % 2 ^ 32
          then setXreg (advanced (thread s tile t)) (bits w 19 15) (BitVec.ofNat 64 (queue s q).cqTail)
          else { advanced (thread s tile t) with
            state := .waiting, wait := .queue q ((xreg (thread s tile t) (bits w 9 5)).toNat % 2 ^ 32) (bits w 19 15) }))))

/-- R583: CWLD and CWST of a privileged runtime thread act on a register of the window, at a word-aligned offset. A CWLD of
another member of the job takes the word it answers; a CWLD of MEM_DBG_DATA waits for the debug read that is under way. Rows
whose completion is stated here: CWLD (R583), CWST (R583). -/
def Obligations.WindowInstructionsComplete : Prop :=
  (∀ (tile t w off : Nat) (v : Word) (a : PcieCompletion) (s : State), Sound s → Issues s tile t 0x0A w →
      runtimeCtx s = some (thread s tile t).ctx → off = (xreg (thread s tile t) (bits w 14 10)).toNat % 2 ^ 26 → off % 4 = 0 →
      (xreg (thread s tile t) (bits w 9 5)).toNat % 4 = modnum s → inJob s (modnum s) = true → off ≠ Reg.MEM_DBG_DATA →
      exec (.cwld tile t v a) s = .next (issued s tile t (setThread (windowRead a (countIssue s tile t) off).2 tile t
        (setXreg (advanced (thread s tile t)) (bits w 19 15) (BitVec.ofNat 64 (windowRead a (countIssue s tile t) off).1)))))
  ∧ (∀ (tile t w : Nat) (v : Word) (a : PcieCompletion) (s : State), Sound s → Issues s tile t 0x0A w →
      runtimeCtx s = some (thread s tile t).ctx → (xreg (thread s tile t) (bits w 14 10)).toNat % 2 ^ 26 = Reg.MEM_DBG_DATA →
      (xreg (thread s tile t) (bits w 9 5)).toNat % 4 = modnum s → inJob s (modnum s) = true →
      exec (.cwld tile t v a) s = .next (issued s tile t
        (cwldLocal tile t (bits w 19 15) Reg.MEM_DBG_DATA (advanced (thread s tile t)) a (countIssue s tile t))))
  ∧ (∀ (tile t w : Nat) (v : Word) (a : PcieCompletion) (s : State), Sound s → Issues s tile t 0x0A w →
      runtimeCtx s = some (thread s tile t).ctx → (xreg (thread s tile t) (bits w 14 10)).toNat % 2 ^ 26 % 4 = 0 →
      (xreg (thread s tile t) (bits w 9 5)).toNat % 4 ≠ modnum s → inJob s ((xreg (thread s tile t) (bits w 9 5)).toNat % 4) = true →
      exec (.cwld tile t v a) s = .next (issued s tile t (setThread (countIssue s tile t) tile t
        (setXreg (advanced (thread s tile t)) (bits w 19 15) (v.setWidth 64)))))
  ∧ (∀ (tile t w off : Nat) (a : PcieCompletion) (s : State), Sound s → Issues s tile t 0x0B w →
      runtimeCtx s = some (thread s tile t).ctx → off = (xreg (thread s tile t) (bits w 14 10)).toNat % 2 ^ 26 → off % 4 = 0 →
      exec (.cwst tile t a) s = .next (issued s tile t (windowWrite .runtime a off
        ((xreg (thread s tile t) (bits w 9 5)).toNat % 2 ^ 32) (setThread (countIssue s tile t) tile t (advanced (thread s tile t))))))

/-- R49, R50: a free unit starts the next command of its queue and runs it; a unit command completes in its thread's order, has
the effects of its end, signals its token, and retires a HALT that waited for it; a step close on a tile whose scale unit is
free writes its record. R52, R98: a command that its unit does not start, or that an access stops, ends its context (log entry
23). Rows whose completion is stated here: UNIT_COMMAND_START (R50), UNIT_COMMAND_COMPLETE (R48), STEP_CLOSE (R101). -/
def Obligations.UnitsComplete : Prop :=
  (∀ (tile u gen : Nat) (d : UnitCmd) (s t : State), tile < 48 → u < 6 → tileWorks s tile = true →
      fbit s (Reg.TILE_CTRL_ISSUE_EN tile) = true → unitFree u (unit s tile u) = true → unitNext s tile u = some d →
      (∀ (b e : Nat), d.op = .barrier b e → gen = (barrierOf s b).gen) → ((∀ (b e : Nat), d.op ≠ .barrier b e) → gen = 0) →
      runUnit s tile d = (none, t) →
      exec (.unitCommandStart tile u) s = .next (readNoted s d.ctx (unitReads d) (wakeUnitWaiters (setUnit t tile u
        ⟨removeCmd d (unit s tile u).queue, (unit s tile u).started ++ [{ d with gen := gen }], d.ctx, (unit t tile u).figures⟩))))
  ∧ (∀ (tile u : Nat) (d : UnitCmd) (f : UFault) (s t : State), tile < 48 → u < 6 → tileWorks s tile = true →
      fbit s (Reg.TILE_CTRL_ISSUE_EN tile) = true → unitFree u (unit s tile u) = true → unitNext s tile u = some d →
      runUnit s tile d = (some f, t) →
      exec (.unitCommandStart tile u) s = .next (unitFault (wakeUnitWaiters (setUnit t tile u
        { unit s tile u with queue := removeCmd d (unit s tile u).queue, last := d.ctx })) tile d f))
  ∧ (∀ (tile u : Nat) (d : UnitCmd) (s v w : State), tile < 48 → u < 6 → tileWorks s tile = true →
      completesNext s [] (unit s tile u).started = some d →
      v = setUnit s tile u { unit s tile u with started := removeCmd d (unit s tile u).started, figures := none } →
      unitEnd v d (unit s tile u).figures = (none, w) →
      exec (.unitCommandComplete tile u) s
        = .next (if d.dead then w else settleHalt tile d.thread (signalToken w tile d.thread d.token)))
  ∧ (∀ (tile c r : Nat) (sm : Option Nat) (s t : State), tile < 48 → tileWorks s tile = true → ctxActive s c = true →
      runBit s tile c = true → (unit s tile 3).started = [] → stepClose s tile c r sm = .ok t →
      exec (.stepClose tile c r sm) s = .next t)

/-! ### Compute and key-state commands -/

/-- KERNEL_LAUNCH with an empty tile mask settles with OK_EMPTY, and ends an open frame of its entry; with idle threads enough
on every tile, and no frame to run in, the launch is opened and its threads start at the entry's code of level 0. SHARE_ZERO
zeroes the first 64 KiB blocks of the context's share on every tile of its mask. PERF_SNAPSHOT writes the counters of every tile
of its mask. Rows whose completion is stated here: KERNEL_LAUNCH (R72), SHARE_ZERO (R75), PERF_SNAPSHOT (R76). -/
def Obligations.ComputeCommandsComplete : Prop :=
  (∀ (q n : Nat) (c : QCmd) (en : Entry) (s : State), Started s q n 0x0100 c → c.engaged = false → c.length ≤ 128 → c.field 16 8 = 0 →
      c.field 32 8 < 2 ^ 48 → c.reservedZero [(16, 8), (24, 2), (32, 8)] = true → entryOf s (c.field 24 2) = some en →
      exec (.kernelLaunch q n) s = .next (completeCmd (closeEmptyFrame s q c c.startedAt) q n Status.okEmpty 0))
  ∧ (∀ (q n : Nat) (c : QCmd) (en : Entry) (s : State), Started s q n 0x0100 c → c.engaged = false → c.length ≤ 128 → c.field 16 8 ≠ 0 →
      c.field 16 8 < 2 ^ 48 → c.field 32 8 < 2 ^ 48 → c.reservedZero [(16, 8), (24, 2), (32, 8)] = true →
      entryOf s (c.field 24 2) = some en →
      (setBitsOf (c.field 16 8) 48).find? (fun t => decide ((idleThreads s t (cmdCtx s q c)).length < c.length)) = none →
      (∀ f, (ctx s (cmdCtx s q c)).frame = some f → f.launch = none → f.release ≤ c.startedAt →
        fget s (Reg.QMGR_CTX_RT_ENTRY_ID (cmdCtx s q c)) ≠ c.field 24 2) →
      ∃ u, exec (.kernelLaunch q n) s = .next (startThreads (cmdCtx s q c) s.nextLaunch
          (imageVa + en.code.getD (((findLaunch u s.nextLaunch).map (·.level)).getD 0) 0) (c.field 32 8) c.length
          (setBitsOf (c.field 16 8) 48).length 0 (setBitsOf (c.field 16 8) 48) u)
        ∧ u = { modCmd s q c.n (fun d => { d with engaged := true }) with
            launches := s.launches ++ [⟨s.nextLaunch, cmdCtx s q c, q, c.n, c.field 24 2, c.length, 0, [], false, false, c.startedAt, false, none⟩]
            nextLaunch := s.nextLaunch + 1 })
  ∧ (∀ (q n : Nat) (c : QCmd) (en : Entry) (f : CFrame) (s : State), Started s q n 0x0100 c → c.engaged = false → c.length ≤ 128 →
      c.field 16 8 ≠ 0 → c.field 16 8 < 2 ^ 48 → c.field 32 8 < 2 ^ 48 → c.reservedZero [(16, 8), (24, 2), (32, 8)] = true →
      entryOf s (c.field 24 2) = some en →
      (setBitsOf (c.field 16 8) 48).find? (fun t => decide ((idleThreads s t (cmdCtx s q c)).length < c.length)) = none →
      (ctx s (cmdCtx s q c)).frame = some f → f.launch = none → f.release ≤ c.startedAt →
      fget s (Reg.QMGR_CTX_RT_ENTRY_ID (cmdCtx s q c)) = c.field 24 2 →
      ∃ l u v w, l = ⟨s.nextLaunch, cmdCtx s q c, q, c.n, c.field 24 2, c.length, 0, [], false, false, c.startedAt, false, none⟩
        ∧ u = { modCmd s q c.n (fun d => { d with engaged := true }) with launches := s.launches ++ [l], nextLaunch := s.nextLaunch + 1 }
        ∧ v = setCtx u (cmdCtx s q c) { ctx u (cmdCtx s q c) with frame := some { f with launch := some s.nextLaunch } }
        ∧ w = riseLevel v l 0 (chooseLevel v en.wcet (fget v (Reg.QMGR_CTX_SCHED_MARGIN (cmdCtx s q c))) f.deadline en.levels 4 0)
        ∧ exec (.kernelLaunch q n) s = .next (startThreads (cmdCtx s q c) s.nextLaunch
            (imageVa + en.code.getD (((findLaunch w s.nextLaunch).map (·.level)).getD 0) 0) (c.field 32 8) c.length
            (setBitsOf (c.field 16 8) 48).length 0 (setBitsOf (c.field 16 8) 48) w))
  ∧ (∀ (q n : Nat) (c : QCmd) (s : State), Started s q n 0x0101 c → c.reservedZero [(16, 8)] = true → c.field 16 8 < 2 ^ 48 →
      c.field 16 8 ≠ 0 →
      (∀ t ∈ setBitsOf (c.field 16 8) 48, c.length ≤ fget s (Reg.TILE_SHARE_SIZE t (cmdCtx s q c)) ∧ tileThreadsBusy s t (cmdCtx s q c) = false) →
      exec (.shareZero q n) s = .next (completeCmd (forEach (setBitsOf (c.field 16 8) 48) (fun t u =>
        memZero u (tileAddr t (fget u (Reg.TILE_SHARE_BASE t (cmdCtx s q c)) * 0x10000)) (c.length * 0x10000)) s) q n Status.ok 0))
  ∧ (∀ (q n : Nat) (c : QCmd) (s t : State), Started s q n 0x0102 c → c.reservedZero [(16, 8), (24, 8)] = true → c.field 16 8 < 2 ^ 48 →
      c.field 16 8 ≠ 0 → c.length ≤ 6 → c.field 24 8 % 8 = 0 → c.field 24 8 < 2 ^ 48 →
      vaWrite s (cmdCtx s q c) (c.field 24 8) ((setBitsOf (c.field 16 8) 48).flatMap fun t =>
        (List.range c.length).flatMap fun k => leBytes 8 (perfValue s t k)) = .ok t →
      exec (.perfSnapshot q n) s = .next (completeCmd { t with free := t.free + 512 } q n Status.ok 0))

/-- The commands that make, fork, cut and free sequences. The corrected errors of the reads of the context's tables are counted
(log entry 65). Rows whose completion is stated here: SEQ_CREATE (R173), SEQ_FREE (R173), SEQ_FORK (R173), SEQ_TRUNCATE (R173),
SEQ_TRIM (R156). -/
def Obligations.SequenceCommandsComplete : Prop :=
  (∀ (q n x : Nat) (c : QCmd) (s : State), Started s q n 0x0200 c → kvReady s q n x [(16, 8), (26, 1)] c → c.field 26 1 ≤ 3 →
      seqRange s x c.seq c.length false = true → bitAt (c.field 26 1) 0 = false ∨ wideCount s + c.length ≤ 8 →
      exec (.seqCreate q n) s = .next (completeCmd (noteStacks (forRange c.length (fun i s =>
        createSeq x c.aux (1 + 2 * (c.field 26 1 % 2) + 4 * (c.field 26 1 / 2)) (c.seq + i) s) s)) q n Status.ok 0))
  ∧ (∀ (q n x : Nat) (c : QCmd) (s : State), Started s q n 0x0201 c → kvReady s q n x [(16, 4)] c →
      seqRange s x c.seq c.length true = true →
      exec (.seqFree q n) s = .next (completeCmd (noteStacks (forRange c.length (fun i s => freeSeq x (c.seq + i) s) s)) q n Status.ok 0))
  ∧ (∀ (q n x : Nat) (c : QCmd) (s : State), Started s q n 0x0202 c → kvReady s q n x [(16, 8)] c → seqOk s x c.aux = true →
      seqRange s x c.seq c.length false = true → seqWide s x c.aux = false ∨ wideCount s + c.length ≤ 8 →
      exec (.seqFork q n) s = .next (completeCmd (noteStacks (forRange c.length (fun i s => forkSeq x c.aux (c.seq + i) s) s)) q n Status.ok 0))
  ∧ (∀ (q n x : Nat) (c : QCmd) (s : State), Started s q n 0x0205 c → kvReady s q n x [(16, 4)] c → seqOk s x c.seq = true →
      c.length ≤ seqLength s x c.seq →
      ∃ u, exec (.seqTruncate q n) s
          = .next (completeCmd (noteStacks (setSeqLength u x c.seq (seqLength s x c.seq - c.length))) q n Status.ok 0)
        ∧ u = forRange (ceilDiv (seqLength s x c.seq) (seqPage s x c.seq) - ceilDiv (seqLength s x c.seq - c.length) (seqPage s x c.seq))
            (fun i u => dropEntry u x c.seq (ceilDiv (seqLength s x c.seq - c.length) (seqPage s x c.seq) + i)) s)
  ∧ (∀ (q n x : Nat) (c : QCmd) (s : State), Started s q n 0x0206 c → kvReady s q n x [(16, 4)] c → seqOk s x c.seq = true →
      seqTrimOf s x c.seq + c.length ≤ seqLength s x c.seq →
      ∃ u, exec (.seqTrim q n) s = .next (completeCmd (noteStacks (forRange ((seqTrimOf s x c.seq + c.length) / seqPage u x c.seq)
          (fun i s => dropEntry s x c.seq i) u)) q n Status.ok 0)
        ∧ u = memPut s (kvSeqAddr s x c.seq + 4) 4 (seqTrimOf s x c.seq + c.length))

/-- The commands that fill sequences and attend to them: PREFIX_MATCH, SEQ_EXTEND, KV_WRITE, ATTEND and STEP_RETIRE. A command
whose pages and rows can be read and whose slots suffice completes with OK. Rows whose completion is stated here: PREFIX_MATCH
(R166), SEQ_EXTEND (R161), KV_WRITE (R172), ATTEND (R167), STEP_RETIRE (R159). -/
def Obligations.KvDataCommandsComplete : Prop :=
  (∀ (q n x : Nat) (c : QCmd) (toks : List Byte) (s : State), Started s q n 0x0203 c → kvReady s q n x [(16, 4), (32, 8)] c →
      seqOk s x c.seq = true → seqLength s x c.seq = 0 → seqWide s x c.seq = false → seqShare s x c.seq = true →
      c.length ≤ kvPtEntries s x * 16 → c.field 32 8 < 2 ^ 48 → vaRead s x (c.field 32 8) (4 * c.length) = .ok toks →
      ∃ k u, (k, u) = matchChunks x c.seq (c.length / 16) 0 0 noSlot toks s
        ∧ exec (.prefixMatch q n) s = .next (completeCmd
            (noteStacks (fadd (setSeqLength u x c.seq (16 * k)) (Reg.KVM_CTX_CNT_COUNT x 1) k)) q n Status.ok (min k 0xFFFF)))
  ∧ (∀ (q n x : Nat) (c : QCmd) (toks : List Byte) (s : State), Started s q n 0x0204 c → kvReady s q n x [(16, 4), (32, 8)] c →
      seqOk s x c.seq = true → seqLength s x c.seq + c.length ≤ kvPtEntries s x * seqPage s x c.seq → c.field 32 8 < 2 ^ 48 →
      vaRead s x (c.field 32 8) (4 * c.length) = .ok toks →
      extendNeeds s x c.seq c.length ≤ slotsAvail s x (seqWide s x c.seq) →
      (seqLength s x c.seq % seqPage s x c.seq ≠ 0 → cowBad s x c.seq (seqLength s x c.seq / seqPage s x c.seq) = none) →
      exec (.seqExtend q n) s = .next (completeCmd (noteStacks (forEach (chunks c.length 4 toks) (fun tok s => addPosition x c.seq tok s)
        (if seqLength s x c.seq % seqPage s x c.seq ≠ 0
          then (ownPage s x c.seq (seqLength s x c.seq / seqPage s x c.seq)).getD s else s))) q n Status.ok 0))
  ∧ (∀ (q n x : Nat) (c : QCmd) (src : List Byte) (s : State), Started s q n 0x0207 c → kvReady s q n x [(16, 10), (32, 8)] c →
      seqOk s x c.seq = true → seqTrimOf s x c.seq ≤ c.aux → c.aux + c.length ≤ seqLength s x c.seq → c.field 24 2 < kvLayers s →
      c.field 32 8 < 2 ^ 48 → vaRead s x (c.field 32 8) (4 * kvHeads s * kvDim s * c.length) = .ok src →
      countIf (sharedPage s x c.seq) (pagesOf (seqPage s x c.seq) c.aux c.length) ≤ slotsAvail s x (seqWide s x c.seq) →
      ((pagesOf (seqPage s x c.seq) c.aux c.length).filterMap (cowBad s x c.seq)).head? = none →
      rowsPartial s x c.seq (c.field 24 2) c.aux c.length = none →
      ∃ u w, u = forEach (pagesOf (seqPage s x c.seq) c.aux c.length) (fun i s => (ownPage s x c.seq i).getD s) s
        ∧ w = writePositions x c.seq (c.field 24 2) c.aux (chunks c.length (4 * kvHeads s * kvDim s) src) u
        ∧ exec (.kvWrite q n) s = .next (completeCmd
            (noteStacks (tryPages x c.seq 0 (pagesOf (seqPage s x c.seq) c.aux c.length) w)) q n Status.ok 0))
  ∧ (∀ (q n x st d heads : Nat) (c : QCmd) (a : Attend) (p1 p2 p3 : List (Nat × Nat)) (s u t : State), Started s q n 0x0208 c →
      kvReady s q n x [(16, 48)] c → s.attends.find? (fun a => decide (a.q = q ∧ a.n = c.n)) = none → seqOk s x c.seq = true →
      c.length ≤ 32 → c.field 24 2 < kvLayers s → c.field 26 1 ≤ 1 → c.field 56 8 ≠ 0 → c.field 56 8 < 2 ^ 48 →
      0 < s32diff c.aux (kvRetired s x) → c.field 32 8 < 2 ^ 48 → c.field 40 8 < 2 ^ 48 →
      heads = kvHeads s * fget s Reg.KVM_GEOM_GROUP →
      vaRange s x (c.field 32 8) (c.length * heads * kvDim s * 2) .read = .ok p1 →
      vaRange s x (c.field 40 8) (4 * (c.length * heads * kvDim s + c.length * heads)) .write = .ok p2 →
      (if bitAt (c.field 26 1) 0 then vaRange s x (c.field 48 8) (ceilDiv (seqLength s x c.seq) 8) .read else .ok []) = .ok p3 →
      (∀ i ∈ setBitsOf (c.field 56 8) 48, c.field 27 1 + 4 ≤ fget s (Reg.TILE_SHARE_SIZE i x)) →
      attendSnapshot q x c s = (a, u) →
      attendRuns { modCmd u q c.n (fun d => { d with engaged := true }) with attends := u.attends ++ [a] } x (c.field 56 8) = true →
      attendFinish q c a { modCmd u q c.n (fun d => { d with engaged := true }) with attends := u.attends ++ [a] } = .done st d t →
      exec (.attend q n) s = .next (completeCmd (noteStacks t) q n st d))
  ∧ (∀ (q n x st d : Nat) (c : QCmd) (a : Attend) (s t : State), Started s q n 0x0208 c → kvReady s q n x [(16, 48)] c →
      s.attends.find? (fun a => decide (a.q = q ∧ a.n = c.n)) = some a → attendRuns s x (c.field 56 8) = true →
      attendFinish q c a s = .done st d t → exec (.attend q n) s = .next (completeCmd (noteStacks t) q n st d))
  ∧ (∀ (q n x sat : Nat) (c : QCmd) (s u : State), Started s q n 0x0209 c → kvReady s q n x [] c →
      attendBelow s x (wrap32 (kvRetired s x + c.length)) = false →
      u = settlePending x (fset s (Reg.KVM_CTX_EPOCH_RETIRED x) (wrap32 (kvRetired s x + c.length))) →
      sat = fget u (Reg.KVM_CTX_CNT_COUNT x 3) →
      ∃ w, w = (if (ctx u x).kvSatSeen < sat then raiseCtx u 0x3002 kvIsland x [] else u)
        ∧ exec (.stepRetire q n) s = .next (completeCmd (noteStacks (setCtx w x { ctx w x with kvSatSeen := sat })) q n Status.ok 0))

/-! ### Moving data and the planner -/

/-- MIGRATE, COPY, FILL and TRANSLATION_INVALIDATE (R122 to R125, R144 to R147). A move command whose range may be moved is
taken up, and a MIGRATE reserves its pages with MIG; each further row moves, copies or fills one page, and the last completes
it. An invalidation drops the old entries that tiles may still use. Rows whose completion is stated here: MIGRATE (R122), COPY
(R144), FILL (R145), TRANSLATION_INVALIDATE (R146). -/
def Obligations.MoveCommandsComplete : Prop :=
  (∀ (q n x : Nat) (c : QCmd) (found : List (Nat × Except PageErr Leaf)) (s : State), Started s q n 0x0300 c → c.engaged = false →
      c.reservedZero [(16, 8), (24, 2), (32, 8)] = true → x = cmdCtx s q c →
      c.field 24 1 ≤ 2 → c.field 25 1 ≤ 1 → c.field 16 8 % 0x1000 = 0 → c.field 32 8 % 0x1000 = 0 → c.field 16 8 < 2 ^ 48 →
      c.field 32 8 < 2 ^ 55 → found = rangePages s x (c.field 16 8) c.length 0 c.length → firstUnread found = none →
      failedPages found = [] →
      (∀ p ∈ goodPages found, p.leaf.mig = false ∧ p.leaf.kind = 0
        ∧ (p.leaf.big = true → c.field 32 8 % 0x200000 = 0 ∧ (c.field 32 8 + 0x1000 * p.index) % 0x200000 = 0)) →
      firstUnit c.length (c.field 32 8) (fun a => destIn (c.field 24 1) a 0x1000) = none →
      fget s (Reg.MEM_CTX_CFG_PLACE x) ≠ 0 →
      (∀ i, i < c.length → destShare s x (c.field 24 1) (c.field 32 8 + 0x1000 * i) 0x1000 = true) →
      exec (.migrate q n) s
        = .next (modCmd (forEach (goodPages found) reservePage s) q c.n (fun d => { d with engaged := true })))
  ∧ (∀ (q n x : Nat) (c : QCmd) (l : Leaf) (bs : List Byte) (s u : State), Started s q n 0x0300 c → c.engaged = true →
      x = cmdCtx s q c → pageLeaf s x (c.field 16 8) c.done = .ok l → readHome s ⟨c.done, l⟩ = .ok bs →
      u = homeNoted l (movePage s x (c.field 16 8) (c.field 24 1) (c.field 32 8 + 0x1000 * c.done) (bitAt (c.field 25 1) 0)
        ⟨c.done, l⟩ bs) →
      exec (.migrate q n) s = .next (if c.length ≤ c.done + l.pages then completeCmd u q n Status.ok 0
        else modCmd u q c.n (fun d => { d with done := c.done + l.pages })))
  ∧ (∀ (q n : Nat) (c : QCmd) (as bs : List Nat) (s : State), Started s q n 0x0301 c → c.engaged = false →
      c.reservedZero [(16, 16)] = true →
      c.field 16 8 % 0x1000 = 0 → c.field 24 8 % 0x1000 = 0 → c.field 16 8 < 2 ^ 48 → c.field 24 8 < 2 ^ 48 →
      c.field 24 8 + 0x1000 * c.length ≤ c.field 16 8 ∨ c.field 16 8 + 0x1000 * c.length ≤ c.field 24 8 →
      tier0Pages s (cmdCtx s q c) (c.field 16 8) false c.length 0 = .ok as →
      tier0Pages s (cmdCtx s q c) (c.field 24 8) true c.length 0 = .ok bs → (∀ a ∈ as, a ∉ bs) →
      exec (.copy q n) s = .next (modCmd s q c.n (fun d => { d with engaged := true })))
  ∧ (∀ (q n a b : Nat) (c : QCmd) (s u : State), Started s q n 0x0301 c → c.engaged = true →
      tier0Page s (cmdCtx s q c) (c.field 16 8) false c.done = .ok a → tier0Page s (cmdCtx s q c) (c.field 24 8) true c.done = .ok b →
      badUnit s a 0x1000 = none → u = noteCorr a 0x1000 (softWrite s b (memRead s a 0x1000)) →
      exec (.copy q n) s = .next (if c.length ≤ c.done + 1 then completeCmd u q n Status.ok 0
        else modCmd u q c.n (fun d => { d with done := c.done + 1 })))
  ∧ (∀ (q n : Nat) (c : QCmd) (as : List Nat) (s : State), Started s q n 0x0302 c → c.engaged = false → c.reservedZero [(16, 16)] = true →
      c.field 16 8 % 0x1000 = 0 → c.field 16 8 < 2 ^ 48 → tier0Pages s (cmdCtx s q c) (c.field 16 8) true c.length 0 = .ok as →
      exec (.fill q n) s = .next (modCmd s q c.n (fun d => { d with engaged := true })))
  ∧ (∀ (q n a : Nat) (c : QCmd) (s u : State), Started s q n 0x0302 c → c.engaged = true →
      tier0Page s (cmdCtx s q c) (c.field 16 8) true c.done = .ok a →
      u = softWrite s a (List.replicate 512 ((c.packet.drop 24).take 8)).flatten →
      exec (.fill q n) s = .next (if c.length ≤ c.done + 1 then completeCmd u q n Status.ok 0
        else modCmd u q c.n (fun d => { d with done := c.done + 1 })))
  ∧ (∀ (q n : Nat) (c : QCmd) (s : State), Started s q n 0x0303 c → c.reservedZero [(16, 8), (24, 1)] = true → c.field 24 1 ≤ 1 →
      c.field 16 8 % 0x1000 = 0 → c.field 16 8 < 2 ^ 48 →
      exec (.translationInvalidate q n) s = .next (completeCmd (if bitAt (c.field 24 1) 0 then invalidateAll (cmdCtx s q c) s
        else invalidateRange (cmdCtx s q c) (c.field 16 8) (0x1000 * c.length) s) q n Status.ok 0))

/-- MAP_UPDATE, MAP_PUBLISH, LIB_LOAD, PLAN_QUERY and PLAN_CHECK by a command that the planner allows: a sound update changes
the open map; a publication makes a new map current; a library that passes its checks becomes bound; a query and a check end
with their result written. Rows whose completion is stated here: MAP_UPDATE (R374), MAP_PUBLISH (R372), LIB_LOAD (R378),
PLAN_QUERY (R382), PLAN_CHECK (R386). -/
def Obligations.PlannerCommandsComplete : Prop :=
  (∀ (q n : Nat) (c : QCmd) (bs : List Byte) (s : State), Started s q n 0x0400 c → planAllowed s q c = true → mapUnread s = none →
      c.reservedZero [(16, 8)] = true → planAddr (c.field 16 8) 64 = true → opRead s q (c.field 16 8) (8 * c.length) = .ok bs →
      (chunks c.length 8 bs).findIdx? (fun e => !updateOk e) = none →
      ((mapBlocks ((chunks c.length 8 bs).foldl applyUpdate s.vetch.opn)).filter (fun b => !(blocksUsed s.vetch).contains b)).length
        ≤ poolBlocks s - (blocksUsed s.vetch).length →
      exec (.mapUpdate q n) s = .next (completeCmd
        (modVetch s (fun v => { v with opn := (chunks c.length 8 bs).foldl applyUpdate s.vetch.opn })) q n Status.ok 0))
  ∧ (∀ (q n : Nat) (c : QCmd) (s : State), Started s q n 0x0401 c → planAllowed s q c = true → c.reservedZero [(40, 9)] = true →
      c.length ≤ 1 → c.field 48 1 ≤ 1 →
      exec (.mapPublish q n) s
        = .next (completeCmd (publishMap (if c.field 48 1 = 1 then s.vetch.pub.sb else c.field 40 8) s) q n Status.ok 0))
  ∧ (∀ (q n : Nat) (c : QCmd) (bs : List Byte) (s : State), Started s q n 0x0404 c → planAllowed s q c = true →
      (startedCmds s).any (fun e => decide (e.2.opcode = 0x0402 ∨ e.2.opcode = 0x0403)) = false → c.reservedZero [(16, 8)] = true →
      planAddr (c.field 16 8) 0x1000 = true → opRead s q (c.field 16 8) (0x1000 * c.length) = .ok bs →
      exec (.libLoad q n) s = .next (match libCheck bs with
        | some k => completeCmd (planEvent s 0x7004 (u8 k)) q n Status.invalidParam 0
        | none => if enginePart s (0x1000 * c.length) < 0x200000 then completeCmd s q n Status.noResource 0
          else completeCmd (modVetch (fsetb (memWrite s (workBase s) bs) Reg.PLN_STATUS_LIB_BOUND true)
            (fun v => { v with lib := some (0x1000 * c.length) })) q n Status.ok 0))
  ∧ (∀ (q n lib : Nat) (c : QCmd) (r : List Byte) (ps : List (Nat × Nat)) (s : State), Started s q n 0x0402 c →
      planAllowed s q c = true → mapUnread s = none → c.reservedZero [(16, 8), (24, 8)] = true → c.length ≤ 4096 →
      planAddr (c.field 16 8) 64 = true → planAddr (c.field 24 8) 64 = true → opRead s q (c.field 16 8) 128 = .ok r →
      opPieces s q (c.field 24 8) (64 + 16 * c.length) .write = .ok ps → s.vetch.lib = some lib →
      queryOk r (enginePart s lib / 40) = true →
      exec (.planQuery q n) s = .next (match runQuery q c r s with
        | .done st d t => completeCmd t q n st d
        | .wait t => t))
  ∧ (∀ (q n lib st d : Nat) (c : QCmd) (r bs : List Byte) (ps : List (Nat × Nat)) (e : Node) (s t : State), Started s q n 0x0403 c →
      planAllowed s q c = true → mapUnread s = none → c.reservedZero [(16, 8), (24, 8), (32, 8)] = true → c.length ≤ 4096 →
      planAddr (c.field 16 8) 64 = true → planAddr (c.field 24 8) 64 = true → planAddr (c.field 32 8) 64 = true →
      opRead s q (c.field 16 8) 128 = .ok r → opPieces s q (c.field 32 8) 64 .write = .ok ps → s.vetch.lib = some lib →
      queryOk r (enginePart s lib / 40) = true → opRead s q (c.field 24 8) (16 * c.length) = .ok bs →
      (chunks c.length 16 bs).findIdx? (fun e => decide (fieldAt e 11 1 ≠ 0)) = none → standHits s (pinnedMap s q c.n) r = .ok false →
      checkSteps s (pinnedMap s q c.n) r 1 (chunks c.length 16 bs) (startNode r) = .ok (none, e) →
      endCheck q c r (pinnedMap s q c.n).epoch 0 Status.ok 0 0 e ⟨[], [], 0, 0, 0, 0, none, none, none⟩ s = .done st d t →
      exec (.planCheck q n) s = .next (completeCmd t q n st d))

/-! ### Sensors, configuration sets, power, security and the network -/

/-- Configuration sets. SET_WRITE fills the shadow area and checks it; SET_COMMIT with a set that passed its checks waits for
the trigger it names; SET_READ copies the bytes of an area; an image hold that lasts 10 s takes the safe state with cause 0x0F.
Rows whose completion is stated here: SET_WRITE (R534), SET_COMMIT (R530), SET_READ (R534), IMAGE_HOLD_TIMEOUT (R196). -/
def Obligations.SetCommandsComplete : Prop :=
  (∀ (q n : Nat) (c : QCmd) (bs : List Byte) (s u : State), Started s q n 0x0600 c → c.reservedZero [(24, 8)] = true →
      c.length ≤ areaBytes → opAligned q (c.field 24 8) 64 = true → s.harebell.commit = none →
      opRead s q (c.field 24 8) c.length = .ok bs →
      u = modHarebell s (fun h => { h with
        areas := storeSetList (fun _ => 0) h.areas (areaBase (1 - s.harebell.active)) bs
        areaBad := h.areaBad.filter (fun w => !decide (areaBase (1 - s.harebell.active) ≤ w
          ∧ w + 8 ≤ areaBase (1 - s.harebell.active) + bs.length)) }) →
      exec (.setWrite q n) s = .next (match setFails u (1 - s.harebell.active) with
        | none => completeCmd (modHarebell u (fun h => { h with shadowOk := true })) q n Status.ok 0
        | some k => completeCmd (raise (modHarebell u (fun h => { h with shadowOk := false })) 0xB004 secIsland
            (u8 (1 - s.harebell.active) ++ u8 k)) q n Status.invalidParam 0))
  ∧ (∀ (q n : Nat) (c : QCmd) (s : State), Started s q n 0x0601 c → c.engaged = false → c.length = 1 →
      c.reservedZero [(16, 2)] = true → inSafe s = false → s.harebell.commit = none → s.harebell.shadowOk = true →
      trigArmed s (c.field 16 2) = true →
      exec (.setCommit q n) s = .next (modHarebell (modCmd s q c.n (fun d => { d with engaged := true }))
        (fun h => { h with commit := some (q, c.n, c.field 16 2) })))
  ∧ (∀ (q n a : Nat) (c : QCmd) (s t : State), Started s q n 0x0602 c → c.reservedZero [(16, 1), (24, 8)] = true → c.field 16 1 ≤ 1 →
      c.length ≤ areaBytes → opAligned q (c.field 24 8) 64 = true →
      a = (if c.field 16 1 = 0 then s.harebell.active else 1 - s.harebell.active) → areaUncorr s a c.length = none →
      opWrite s q (c.field 24 8) (areaRead s a 0 c.length) = .ok t →
      exec (.setRead q n) s = .next (completeCmd t q n Status.ok 0))
  ∧ (∀ (h : Hold) (s : State), alive s = true → s.harebell.hold = some h → h.start + 10000000000 ≤ s.time →
      exec .imageHoldTimeout s = .next (safeBoth 0xF s))

/-- Power control: a sample is applied; a boost step raises CURRENT by 25 MHz, never past PERMITTED; a rail ramp ends with FIXED
changed and its command complete; another member's power message is kept and starts an adoption where the job's share or clock
differs; the adoption takes the job's share and clock at a boundary or after 1 ms. POWER_CAP_SET lowers the caps and tests the
bucket again; POWER_MODE_SET with the mode already set completes at once, and otherwise starts a ramp; POWER_READ writes the
sixteen words of the power registers. Rows whose completion is stated here: POWER_SAMPLE (R475), BOOST_STEP (R478),
RAIL_RAMP_DONE (R479), POWER_MESSAGE_RECEIVE (R480), JOB_SHARE_ADOPT (R480), POWER_CAP_SET (R488), POWER_MODE_SET (R479),
POWER_READ (R488). -/
def Obligations.PowerRowsComplete : Prop :=
  (∀ (v e : Nat) (l : List Nat) (s : State), alive s = true → exec (.powerSample v l e) s = .next (powerSample v l e s))
  ∧ (∀ s : State, Sound s → alive s = true → fbit s Reg.PWR_STATUS_FIXED = false → s.power.ramp = none → 200 ≤ s.power.boostRun →
      inJobWithOthers s = false → fget s Reg.PWR_FREQ_CURRENT_MHZ ≤ fget s Reg.PWR_FREQ_PERMITTED_MHZ →
      ∃ t, exec .boostStep s = .next t ∧ t.power.boostRun = 0
        ∧ fget t Reg.PWR_FREQ_CURRENT_MHZ = min (fget s Reg.PWR_FREQ_CURRENT_MHZ + 25) (fget s Reg.PWR_FREQ_PERMITTED_MHZ)
        ∧ t.mem = s.mem ∧ t.threads = s.threads ∧ t.queues = s.queues)
  ∧ (∀ (fixed q n : Nat) (s : State), s.power.ramp = some (fixed, q, n) →
      exec .railRampDone s = .next (completeCmd
        (fset (modPower (fsetb s Reg.PWR_STATUS_RAMPING false) (fun p => { p with ramp := none })) Reg.PWR_STATUS_FIXED fixed)
        q n Status.ok 0))
  ∧ (∀ (m own mhz : Nat) (s : State), alive s = true → m ≠ modnum s → inJob s m = true →
      ∃ t, exec (.powerMessageReceive m own mhz) s = .next t
        ∧ (m, min own 224, mhz) ∈ t.power.peers ∧ t.cw = s.cw ∧ t.mem = s.mem)
  ∧ (∀ (t : Nat) (s : State), s.power.adopt = some t → s.boundary = true ∨ t + 1000000 ≤ s.time →
      exec .jobShareAdopt s = .next (adoptJob s))
  ∧ (∀ (q n vs vp : Nat) (c : QCmd) (s : State), Started s q n 0x0710 c → c.length = 1 → c.reservedZero [(16, 4)] = true →
      vs = (if c.field 16 2 = 0 then fget s Reg.PWR_CAP_CAP_S else c.field 16 2) →
      vp = (if c.field 18 2 = 0 then fget s Reg.PWR_CAP_CAP_P else c.field 18 2) →
      60 ≤ vs → vs ≤ fget s Reg.PWR_CAP_CAP_S → 60 ≤ vp → vp ≤ fget s Reg.PWR_CAP_CAP_P → vs ≤ vp →
      exec (.powerCapSet q n) s = .next (completeCmd (bucketTest (modPower s (fun p => { p with
        capS := capField vs (fget s Reg.PWR_CAP_CAP_S), capP := capField vp (fget s Reg.PWR_CAP_CAP_P) }))) q n Status.ok 0))
  ∧ (∀ (q n : Nat) (c : QCmd) (s : State), Started s q n 0x0711 c → c.engaged = false → c.length = 1 → c.reservedZero [(16, 1)] = true →
      c.field 16 1 ≤ 1 → inSafe s = false → inJobWithOthers s = false → s.power.ramp = none →
      exec (.powerModeSet q n) s = .next (if fget s Reg.PWR_STATUS_FIXED = c.field 16 1 then completeCmd s q n Status.ok 0
        else startRamp (c.field 16 1) q c.n (modCmd s q c.n (fun d => { d with engaged := true }))))
  ∧ (∀ (q n : Nat) (c : QCmd) (s t : State), Started s q n 0x0712 c → c.length = 1 → c.reservedZero [(24, 8)] = true →
      opAligned q (c.field 24 8) 64 = true →
      opWrite s q (c.field 24 8) ((List.range 16).flatMap (fun i => leBytes 4
        (if Reg.PWR_STATUS + 4 * i = Reg.PWR_WAKE then remainMs s else regWord s (Reg.PWR_STATUS + 4 * i)))) = .ok t →
      exec (.powerRead q n) s = .next (completeCmd t q n Status.ok 0))

/-- STORE_WRITE writes a flash bank or image slot that is free; STORE_VERIFY marks a target that passes its checks verified;
FW_ACTIVATE makes a verified bank the trial bank; ROLLBACK_RAISE raises the minimum versions to the running ones, and no lower.
ATTEST signs a report with the next one-time key, while keys remain and signing is possible; IDENTITY_READ copies the
certificate; MEAS_EXTEND extends measurement 7. Rows whose completion is stated here: STORE_WRITE (R534), STORE_VERIFY (R534),
FW_ACTIVATE (R524), ROLLBACK_RAISE (R527), ATTEST (R533), IDENTITY_READ (R534), MEAS_EXTEND (R532). -/
def Obligations.SecurityCommandsComplete : Prop :=
  (∀ (q n : Nat) (c : QCmd) (bs : List Byte) (s : State), Started s q n 0x0720 c →
      c.reservedZero [(16, 1), (24, 8), (32, 8)] = true → c.field 16 1 ≤ 3 → c.field 32 8 % 4096 = 0 →
      c.field 32 8 + 4096 * c.length ≤ targetBytes (c.field 16 1) → opAligned q (c.field 24 8) 64 = true →
      targetFree s (c.field 16 1) = true → opRead s q (c.field 24 8) (4096 * c.length) = .ok bs →
      exec (.storeWrite q n) s = .next (completeCmd (countFlash (flashWrite (setVerified (c.field 16 1) false s)
        (targetBase (c.field 16 1) + c.field 32 8) bs) (4096 * c.length)) q n Status.ok 0))
  ∧ (∀ (q n : Nat) (c : QCmd) (s : State), Started s q n 0x0721 c → c.length = 1 → c.reservedZero [(16, 1)] = true →
      c.field 16 1 < 2 →
      exec (.storeVerify q n) s = .next (match bankFails s (c.field 16 1 + 1) with
        | none => completeCmd (setVerified (c.field 16 1) true s) q n Status.ok 0
        | some (stage, k) => completeCmd (stageRefused stage (c.field 16 1 + 1) k
            (stageReport (c.field 16 1 + 1) stage (setVerified (c.field 16 1) false s))) q n Status.invalidParam stage))
  ∧ (∀ (q n : Nat) (c : QCmd) (s : State), Started s q n 0x0721 c → c.length = 1 → c.reservedZero [(16, 1)] = true →
      2 ≤ c.field 16 1 → c.field 16 1 ≤ 3 →
      exec (.storeVerify q n) s = .next (match imageHead s (c.field 16 1 - 2) with
        | .ok _ => completeCmd (setVerified (c.field 16 1) true s) q n Status.ok 0
        | .error (.verify i) => completeCmd (imageEvent (c.field 16 1 - 2) (.verify i)
            (slotReport (c.field 16 1 - 2) i (setVerified (c.field 16 1) false s))) q n Status.invalidParam i
        | .error (.refused k) =>
          completeCmd (imageEvent (c.field 16 1 - 2) (.refused k) (setVerified (c.field 16 1) false s)) q n Status.invalidParam 0))
  ∧ (∀ (q n : Nat) (c : QCmd) (s : State), Started s q n 0x0722 c → c.length = 1 → c.reservedZero [(16, 1)] = true → c.field 16 1 ≤ 1 →
      s.harebell.verified.contains (c.field 16 1) = true →
      exec (.fwActivate q n) s
        = .next (completeCmd (modHarebell s (fun h => { h with trialBank := c.field 16 1 + 1 })) q n Status.ok 0))
  ∧ (∀ (q n : Nat) (c : QCmd) (l : List Nat) (s : State), Started s q n 0x0723 c → c.length = 1 → c.reservedZero [] = true →
      l = ((List.range 5).zip (runningVersions s)).map (fun (k, v) => max v (minValue s k)) →
      exec (.rollbackRaise q n) s = .next (completeCmd
        (raise (modHarebell s (fun h => { h with minCopies := [some l, some l] })) 0xB006 secIsland (l.flatMap (leBytes 4))) q n Status.ok 0))
  ∧ (∀ (q n k : Nat) (c : QCmd) (user : List Byte) (s t : State), Started s q n 0x0724 c → c.length = 1 →
      opAligned q (c.field 48 8) 64 = true → c.field 56 8 = 0 ∨ opAligned q (c.field 56 8) 64 = true → sigCounter s = some k →
      k < 2 ^ 20 → s.harebell.signed = true →
      (c.field 56 8 = 0 → user = List.replicate 64 0) → (c.field 56 8 ≠ 0 → opRead s q (c.field 56 8) 64 = .ok user) →
      opWrite s q (c.field 48 8) (signedReport k (report s k (slice c.packet 16 32) user)) = .ok t →
      ∃ u, u = (if k = 943718 then raise (fsetb t Reg.SEC_STATUS_KEY_LOW true) 0xB202 secIsland [] else t)
        ∧ exec (.attest q n) s = .next (completeCmd (raise (modHarebell (setCounter (k + 1) u)
            (fun h => { h with signed := decide ((k + 1) % 1024 ≠ 0) })) 0xB201 secIsland (leBytes 4 k)) q n Status.ok 0))
  ∧ (∀ (q n : Nat) (c : QCmd) (s t : State), Started s q n 0x0725 c → c.length = 1 → c.reservedZero [(24, 8)] = true →
      opAligned q (c.field 24 8) 64 = true → opWrite s q (c.field 24 8) (Config.certificate.take 0x10000) = .ok t →
      exec (.identityRead q n) s = .next (completeCmd t q n Status.ok 0))
  ∧ (∀ (q n : Nat) (c : QCmd) (d : List Byte) (s : State), Started s q n 0x0726 c → c.length = 1 → c.reservedZero [(24, 8)] = true →
      opAligned q (c.field 24 8) 64 = true → opRead s q (c.field 24 8) 32 = .ok d →
      exec (.measExtend q n) s = .next (completeCmd (extendMeas 7 d s) q n Status.ok 0))

/-- R537 to R545: the reset lines. POWER_ON_RESET with RST_N high starts a bring-up with cause 1; RST_N low holds the module in
reset; its release starts a bring-up with cause 2. WARM_RESET and POWER_STATE_SET. A warm reset out of the safe state, with no
loop on and no commit waiting, leaves the job, resets the module and starts a bring-up with cause 3. POWER_STATE_SET of state 0
changes nothing, of state 1 enters DROWSE, and of state 2, once its command heads its queue, replies and enters DORMANT. Rows
whose completion is stated here: POWER_ON_RESET (R537), RST_N_ASSERT (R538), RST_N_RELEASE (R537), WARM_RESET (R539),
POWER_STATE_SET (R541). -/
def Obligations.ResetCommandsComplete : Prop :=
  (∀ (m k : Nat) (s : State), s.power.rstLow = false → ∃ u, u = modPower s (fun p => { p with absent := false, presentAt := none, presTerm := false })
    ∧ exec (.powerOnReset m k) s = .next (startBringUp k 1 0 (resetState .powerOn m u)))
  ∧ (∀ s : State, s.power.rstLow = false → s.power.off = false → s.power.dormant = false →
      exec .rstNAssert s = .next (modPower (resetState .module_ (modnum s) s) (fun p => { p with rstLow := true })))
  ∧ (∀ (m k : Nat) (s : State), s.power.rstLow = true → s.power.off = false → s.power.dormant = false →
      exec (.rstNRelease m k) s
        = .next (startBringUp k 2 0 (resetState .module_ m (modPower s (fun p => { p with rstLow := false })))))
  ∧ (∀ (q n k : Nat) (c : QCmd) (s : State), Started s q n 0x0730 c → c.length = 1 → c.reservedZero [] = true → inSafe s = false →
      loopsOn s = false → commitBusy s = false →
      exec (.warmReset q n k) s = .next (startBringUp k 3 0 (resetState .warm 0 (leaveSteps s))))
  ∧ (∀ (q n : Nat) (c : QCmd) (s : State), Started s q n 0x0731 c → c.length = 1 → c.reservedZero [(16, 1), (20, 4)] = true →
      c.field 16 1 = 0 → exec (.powerStateSet q n) s = .next (completeCmd s q n Status.ok 0))
  ∧ (∀ (q n : Nat) (c : QCmd) (s : State), Started s q n 0x0731 c → c.length = 1 → c.reservedZero [(16, 1), (20, 4)] = true →
      c.field 16 1 = 1 → inSafe s = false → stateBlocked s = 0 →
      exec (.powerStateSet q n) s = .next (completeCmd (enterDrowse (c.field 20 4) s) q n Status.ok 0))
  ∧ (∀ (q n : Nat) (c : QCmd) (s : State), Started s q n 0x0731 c → c.length = 1 → c.reservedZero [(16, 1), (20, 4)] = true →
      c.field 16 1 = 2 → inSafe s = false → stateBlocked s = 0 →
      exec (.powerStateSet q n) s = .next
        (if ((queue s q).out.head?.map (·.n)) = some c.n then replyThenSleep q (c.field 20 4) c s else s))

/-- NET_SEND queues the frames of its list on their ports; a port sends the next frame its gates and classes allow, which may
complete its command; a gate list moves on to its next entry when the current one ends, and stops after its last. Rows whose
completion is stated here: NET_SEND (R578), NET_FRAME_TRANSMIT (R334), GATE_ENTRY_EXPIRY (R333). -/
def Obligations.NetworkCommandsComplete : Prop :=
  (∀ (q n : Nat) (c : QCmd) (fs : List (Nat × NetFrame)) (s : State), Started s q n 0x0740 c → c.engaged = false → c.length ≤ 64 →
      c.reservedZero [(24, 8)] = true → opAligned q (c.field 24 8) 64 = true → netList q c s c.length 0 (c.field 24 8) = .ok fs →
      exec (.netSend q n) s = .next (forEach fs (fun e u =>
        setNetPort u e.1 { netPort u e.1 with frames := (netPort u e.1).frames ++ [e.2] }) (modCmd s q c.n (fun d => { d with engaged := true }))))
  ∧ (∀ (p i : Nat) (f : NetFrame) (s : State), alive s = true → phaseUp s 5 = true → nextFrame s p = some (i, f) →
      ∃ u, u = setNetPort (noteLaunch s p f) p { netPort s p with frames := (netPort s p).frames.eraseIdx i }
        ∧ exec (.netFrameTransmit p) s = .next (settleNetSend f.own { u with outbox := u.outbox ++ [.net p f.cls f.bytes] }))
  ∧ (∀ (p cur stop : Nat) (s : State), alive s = true → phaseUp s 5 = true → p < 2 → (netPort s p).running = true → fbit s (Reg.NET_GCL_CFG_EN p) = true →
      cur = fget s (Reg.NET_GCL_STATUS_CURRENT p) → stop = (netPort s p).began + ((netPort s p).list.getD cur (0, 0)).2 → stop ≤ s.time →
      exec (.gateEntryExpiry p) s = .next (match (netPort s p).list[cur + 1]? with
        | none => setNetPort s p { netPort s p with running := false }
        | some e => fset (setNetPort s p { netPort s p with began := stop, gates := e.1 }) (Reg.NET_GCL_STATUS_CURRENT p) (cur + 1)))

/-! ### Registers, the event log and the safety blocks -/

/-- REG_READ reads a run of the window of this module, or gives the words another member of the job answers; REG_WRITE writes a
run of the window of this module. The detail of a write names the first word that was refused. Rows whose completion is stated
here: REG_READ (R579), REG_WRITE (R579). -/
def Obligations.RegisterCommandsComplete : Prop :=
  (∀ (q n : Nat) (remote : List Word) (as : List PcieCompletion) (c : QCmd) (bs : List Byte) (s u v t : State), Started s q n 0x0741 c →
      regParamsBad q c = false → c.length ≠ 0 → c.field 20 1 = modnum s → inJob s (modnum s) = true →
      opWrite s q (c.field 24 8) (List.replicate (4 * c.length) 0) = .ok v →
      readRegs as c.length 0 (c.field 16 4) s = (bs, u) → opWrite u q (c.field 24 8) bs = .ok t →
      exec (.regRead q n remote as) s = .next (completeCmd t q n Status.ok 0))
  ∧ (∀ (q n : Nat) (remote : List Word) (as : List PcieCompletion) (c : QCmd) (s v t : State), Started s q n 0x0741 c →
      regParamsBad q c = false → c.length ≠ 0 → c.field 20 1 ≠ modnum s → inJob s (c.field 20 1) = true →
      opWrite s q (c.field 24 8) (List.replicate (4 * c.length) 0) = .ok v → remote.length = c.length →
      opWrite s q (c.field 24 8) (wordsToBytes remote) = .ok t →
      exec (.regRead q n remote as) s = .next (completeCmd t q n Status.ok 0))
  ∧ (∀ (q n off : Nat) (as : List PcieCompletion) (c : QCmd) (bs : List Byte) (i : Option Nat) (s t : State), Started s q n 0x0742 c →
      regParamsBad q c = false → c.length ≠ 0 → c.field 20 1 = modnum s → opRead s q (c.field 24 8) (4 * c.length) = .ok bs →
      off = c.field 16 4 → writeRegs as off (bytesToWords c.length bs) (writeOrder off c.length 0) none s = (i, t) →
      exec (.regWrite q n as) s = .next (completeCmd t q n Status.ok ((i.map (1 + ·)).getD 0)))

/-- The log commands. LOG_FREEZE stops the log at its newest record; LOG_THAW lets it go on, as does a freeze of 50 ms;
LOG_CLEAR of a frozen log empties it and appends 0xC003; LOG_READ copies the header and a run of records. The recorder. A raised
event enters the staging queue where fewer than 64 records wait in it, and is counted as lost otherwise; the log takes the
oldest staged record when it is neither frozen nor still scanned, a loss is recorded once there is room, and records that a full
log cannot take leave the queue and are counted; the second counter advances, and is stored every 60 s. Rows whose completion is
stated here: LOG_FREEZE (R462), LOG_THAW (R462), LOG_CLEAR (R463), LOG_READ (R464), FREEZE_EXPIRED (R462), RECORD_STAGING
(R460), LOG_RECORD_WRITE (R457), OP_SECONDS_TICK (R459). -/
def Obligations.LogRowsComplete : Prop :=
  (∀ (q n : Nat) (c : QCmd) (s : State), Started s q n 0x0801 c → c.reservedZero [] = true → c.length = 1 → s.tansy.frozen = false →
      exec (.logFreeze q n) s = .next (completeCmd (modTansy s (fun t =>
        { t with frozen := true, freezeSeq := t.nextSeq - 1, freezeAt := s.time })) q n Status.ok 0))
  ∧ (∀ (q n : Nat) (c : QCmd) (s : State), Started s q n 0x0802 c → c.reservedZero [] = true → c.length = 1 →
      exec (.logThaw q n) s = .next (completeCmd (modTansy s (fun t => { t with frozen := false })) q n Status.ok 0))
  ∧ (∀ (q n : Nat) (c : QCmd) (s : State), Started s q n 0x0803 c → c.reservedZero [] = true → c.length = 1 → s.tansy.frozen = true →
      ∃ e, e = Event.mk 0xC003 logIsland 0 0xFF s.time (u32 s.tansy.nextSeq ++ u32 s.tansy.lostTotal ++ u32 s.tansy.dropped)
        ∧ exec (.logClear q n) s = .next (completeCmd (modTansy s (fun t =>
            logAppend { t with slots := storeDrop (fun i => decide (i < t.nextSeq)) t.slots, bad := t.bad.filter (fun i => decide (t.nextSeq ≤ i)), clearTime := s.time, clearCycle := t.powerCycle, clearSeconds := t.opSeconds, nextSeq := 1, full := false, reserveFull := false, lostTotal := 0, dropped := 0, freezeSeq := 0 }
              (modnum s) e)) q n Status.ok 0))
  ∧ (∀ (q n k : Nat) (c : QCmd) (bs : List Byte) (s u t : State), Started s q n 0x0800 c → c.reservedZero [(16, 4), (24, 8)] = true →
      c.field 16 4 ≠ 0 → c.length ≤ 32767 → opAligned q (c.field 24 8) 64 = true →
      (List.range c.length).foldl (fun p i => readSlot (c.field 16 4 + i) p) (logHeader s.tansy, 0, s) = (bs, k, u) →
      opWrite u q (c.field 24 8) bs = .ok t → exec (.logRead q n) s = .next (completeCmd t q n Status.ok (min k 0xFFFF)))
  ∧ (∀ s : State, s.tansy.frozen = true → s.tansy.freezeAt + 50000000 ≤ s.time →
      exec .freezeExpired s = .next (raise (modTansy s (fun t => { t with frozen := false })) 0xC005 logIsland []))
  ∧ (∀ (e : Event) (rest : List Event) (s : State), s.tansy.raised = e :: rest → s.tansy.staging.length < 64 →
      exec .recordStaging s = .next (modTansy s (fun t =>
        dropRefused { t with raised := rest, staging := t.staging ++ [e] } s.time)))
  ∧ (∀ (e : Event) (rest : List Event) (s : State), s.tansy.raised = e :: rest → 64 ≤ s.tansy.staging.length →
      exec .recordStaging s = .next (modTansy s (fun t =>
        { t with raised := rest, lost := t.lost + 1, lostTotal := satAdd 32 t.lostTotal 1, lostFirst := if t.lost = 0 then e.time else t.lostFirst, lostLast := e.time })))
  ∧ (∀ (e : Event) (rest : List Event) (s : State), s.tansy.staging = e :: rest → s.tansy.frozen = false → s.tansy.scanDone = true →
      exec .logRecordWrite s = .next (modTansy s (fun t =>
        dropRefused (logWrite (noteLost { t with staging := rest } s.time) (modnum s) s.time e) s.time)))
  ∧ (∀ s : State, s.power.dormant = false → s.power.off = false →
      ∃ k, k = (s.tansy.opSeconds + 1) % 2 ^ 32
        ∧ exec .opSecondsTick s = .next (modTansy s (fun t => { t with opSeconds := k, stored := if k % 60 = 0 then k else t.stored })))

/-- The safety commands. SAFE_READ copies the safety registers or the golden input; SAFE_MODE_SET stages a mode for the next
frame; SAFE_STOP_REQUEST takes the safe state with cause 0x0E; CHECK_INPUT and MAIN_OUTPUT give a frame of the safety host its
check input and its main outputs, and a golden MAIN_OUTPUT gives both. Rows whose completion is stated here: SAFE_READ (R422),
SAFE_MODE_SET (R404), SAFE_STOP_REQUEST (R422), CHECK_INPUT (R396), MAIN_OUTPUT (R396). -/
def Obligations.SafetyCommandsComplete : Prop :=
  (∀ (q n : Nat) (src : List Byte) (c : QCmd) (s t : State), Started s q n 0x0900 c → c.reservedZero [(16, 1), (24, 8)] = true →
      c.field 16 1 ≤ 1 → src = (if c.field 16 1 = 0 then safeStatusBytes s else (s.image.map (·.goldenIn)).getD []) →
      64 * c.length - 63 ≤ src.length → opAligned q (c.field 24 8) 64 = true →
      opWrite s q (c.field 24 8) (padTo (64 * c.length) src) = .ok t →
      exec (.safeRead q n) s = .next (completeCmd t q n Status.ok 0))
  ∧ (∀ (q n : Nat) (c : QCmd) (s : State), Started s q n 0x0901 c → c.length = 1 → c.reservedZero [(16, 1)] = true → c.field 16 1 ≤ 3 →
      exec (.safeModeSet q n) s = .next (completeCmd (modSafety s (fun x => { x with modeNext := some (c.field 16 1) })) q n Status.ok 0))
  ∧ (∀ (q n : Nat) (c : QCmd) (s : State), Started s q n 0x0902 c → c.length = 1 → c.reservedZero [] = true →
      exec (.safeStopRequest q n) s = .next (completeCmd (if inSafe s then s else safeBoth 0xE s) q n Status.ok 0))
  ∧ (∀ (q n : Nat) (c : QCmd) (bs : List Byte) (s : State), Started s q n 0x0903 c → fromHost q c false s = true →
      c.reservedZero [(24, 8)] = true → c.length ≤ 65536 → opAligned q (c.field 24 8) 64 = true →
      opRead s q (c.field 24 8) c.length = .ok bs → isLate s.safety.checked c s = false → ofEarlier c s = false →
      exec (.checkInput q n) s = .next (completeCmd (modSafety s (fun x => { x with
        checked := true, passes := addPass ⟨false, x.frame.getD 0, bs⟩ x.passes })) q n Status.ok 0))
  ∧ (∀ (q n : Nat) (c : QCmd) (bs : List Byte) (s : State), Started s q n 0x0904 c → fromHost q c false s = true →
      c.reservedZero [(16, 1), (24, 8)] = true → c.field 16 1 = 0 → c.length = outputCount s → opAligned q (c.field 24 8) 64 = true →
      opRead s q (c.field 24 8) (4 * c.length) = .ok bs → isLate s.safety.submitted c s = false → ofEarlier c s = false →
      exec (.mainOutput q n) s = .next (completeCmd (modSafety s (fun x =>
        { x with submitted := true, main := if inWindow s then some (bytesToWords c.length bs) else none })) q n Status.ok 0))
  ∧ (∀ (q n : Nat) (c : QCmd) (bs : List Byte) (s : State), Started s q n 0x0904 c → fromHost q c true s = true →
      c.reservedZero [(16, 1), (24, 8)] = true → c.field 16 1 = 1 → c.length = outputCount s → opAligned q (c.field 24 8) 64 = true →
      opRead s q (c.field 24 8) (4 * c.length) = .ok bs →
      exec (.mainOutput q n) s = .next (completeCmd (modSafety s (fun x => { x with
        goldenOut := some (bytesToWords c.length bs), goldenChk := none
        passes := addPass ⟨true, 0, (s.image.map (·.goldenIn)).getD []⟩ x.passes })) q n Status.ok 0))

/-- The comparison. A check pass gives the outputs of its frame; the frame is decided once both outputs are there or its
deadline passes, and a result counts no longer than that; a decision takes effect once; a golden pass is judged by its two
signatures and its outputs. An overdue golden pass takes the safe state with cause 6. Rows whose completion is stated here:
THISTLE_PASS_DONE (R395), COMPARATOR_DECISION (R397), COMPARE_DEADLINE (R397), VERDICT_ACTION (R399), GOLDEN_FRAME_CHECK (R407),
GOLDEN_PASS_OVERDUE (R407), SAMPLE_GATE_CLOSE (R403), COWSLIP_FRAME_TICK (R404). -/
def Obligations.ComparisonEventsComplete : Prop :=
  (∀ (p : Pass) (rest : List Pass) (ys : List Word) (s : State), alive s = true → s.safety.passes = p :: rest → phaseUp s 6 = true →
      ys.length = outputCount s →
      exec (.thistlePassDone ys false) s = .next (modSafety s (fun x =>
        if p.golden then { x with passes := rest, goldenChk := some ys }
        else if x.frame = some p.frame ∧ inWindow s = true then { x with passes := rest, check := some ys }
        else { x with passes := rest })))
  ∧ (∀ (p : Pass) (rest : List Pass) (ys : List Word) (s : State), alive s = true → s.safety.passes = p :: rest → phaseUp s 6 = true →
      exec (.thistlePassDone ys true) s = .next (raise (modSafety s (fun x =>
        { x with passes := rest, goldenOut := if p.golden then none else x.goldenOut })) 0x8004 66 []))
  ∧ (∀ (t : Nat) (s : State), alive s = true → s.safety.frame = some t → s.safety.decided = false → inSafe s = false →
      s.safety.main.isSome = true → s.safety.check.isSome = true → exec .comparatorDecision s = .next (decideFrame t s))
  ∧ (∀ (t : Nat) (s : State), alive s = true → s.safety.frame = some t → s.safety.decided = false → inSafe s = false →
      t + compareNs s ≤ s.time → exec .compareDeadline s = .next (decideFrame t s))
  ∧ (∀ (d : Decision) (s : State), alive s = true → s.safety.decision = some d → firmware s = true → inSafe s = false →
      exec .verdictAction s = .next (takeVerdict d (modSafety s (fun x => { x with decision := none }))))
  ∧ (∀ (ym yc : List Word) (i : Image) (s : State), alive s = true → s.safety.goldenOut = some ym → s.safety.goldenChk = some yc →
      s.image = some i → firmware s = true →
      ∃ u, u = modSafety s (fun x => { x with goldenOut := none, goldenChk := none })
        ∧ exec .goldenFrameCheck s = .next
          (if signature ym = i.sigMain ∧ signature yc = i.sigChk ∧ (compareAll i.tolerance ym yc).1 = .agree then goldenPassed u
            else goldenFailed (signature ym) (signature yc) u))
  ∧ (∀ s : State, alive s = true → firmware s = true → s.harebell.booted = true → inDrowse s = false → inHold s = false →
      bitAt (regWord s Reg.SAFE_CAUSES) 6 = false → s.safety.goldenBase + 2 * goldenMaxNs s ≤ s.time →
      exec .goldenPassOverdue s = .next (safeBoth 6 s))
  ∧ (∀ (l : List GateSample) (s u : State), alive s = true → gateClose s s.safety.gatesDone ≤ s.ticks →
      u = modSafety s (fun x => { x with gatesDone := (s.ticks - gateClose s 0) / 256 + 1 }) →
      exec (.sampleGateClose l) s
        = .next (forEach ((List.range 10).zip l) (fun e v => gateInput e.1 (if e.1 = 3 then critInput v e.2 else e.2) v) u))
  ∧ (∀ (t : Nat) (s : State), alive s = true → s.safety.frame = some t → s.safety.ticked ≠ some t → inDrowse s = false → firmware s = true →
      exec .cowslipFrameTick s = .next (frameTick t s))

/-- The monitors of Cowslip, each with the cause it takes the safe state with: a lockstep mismatch 3, a stop input that differs
from the other for STOP_DISC_MS 0x0A, the watchdog 0x0D, the second reading in a row of an output that differs from its pattern
0x0C, a clock outside 237.5..262.5 MHz 0x10, an uncorrectable error of Cowslip's memory 0x12. Corrected errors are counted. A
stop input takes the level given. The firmware of Cowslip: a debug halt outside the safe bench takes the safe state with cause
0x11; a settled posture writes STO; the safe state reaches STO after TIMEOUT_MS; a proof test that is due is said once a day
from the seventh day on; the requests of a page are served in order. Rows whose completion is stated here: LOCKSTEP_MISMATCH
(R401), STOP_DISCREPANCY (R410), WATCHDOG_EXPIRY (R410), OUTPUT_READBACK_CHECK (R411), CLOCK_MONITOR (R410), SAFETY_SRAM_SCRUB
(R417), STOP_INPUT (R410), COWSLIP_DEBUG_HALT (R419), POSTURE_SETTLED (R414), SAFE_TIMEOUT (R414), PROOF_INTERVAL_DUE (R430),
COWSLIP_REQUEST_PAGE_POLL (R594). -/
def Obligations.SafetyEventsComplete : Prop :=
  (∀ s : State, alive s = true → exec .lockstepMismatch s = .next (safeBoth 3 s))
  ∧ (∀ (t : Nat) (s : State), alive s = true → s.safety.stopSince = some t → t + fget s Reg.SAFE_CFG_STOP_DISC_MS * 1000000 ≤ s.time →
      exec .stopDiscrepancy s = .next (safeBoth 0xA (modSafety s (fun x => { x with stopSince := none }))))
  ∧ (∀ s : State, alive s = true → s.harebell.booted = true → bitAt (regWord s Reg.SAFE_CAUSES) 0xD = false →
      (s.safety.halted && fbit s Reg.SAFE_STATUS_BENCH) = false →
      s.safety.served + 1000000 ≤ s.time → exec .watchdogExpiry s = .next (safeBoth 0xD s))
  ∧ (∀ (a b : Pattern) (x y : Nat) (s : State), alive s = true →
      x = (if Pattern.code a = fget s Reg.SAFE_STATUS_OUT_A then 0 else min (s.safety.missA + 1) 3) →
      y = (if Pattern.code b = fget s Reg.SAFE_STATUS_OUT_B then 0 else min (s.safety.missB + 1) 3) →
      ∃ u, u = modSafety s (fun z => { z with missA := x, missB := y })
        ∧ exec (.outputReadbackCheck a b) s = .next (if x = 2 ∨ y = 2 then safeBoth 0xC u else u))
  ∧ (∀ (b : Bool) (k : Nat) (s : State), alive s = true →
      exec (.clockMonitor b k) s = .next (if k < 237500 ∨ 262500 < k then safeBoth 0x10 s else s))
  ∧ (∀ (j k : Nat) (b : Bool) (s : State), alive s = true →
      ∃ u, u = fadd (fadd s (Reg.SAFE_CNT_COUNT 6) j) (Reg.SAFE_CNT_COUNT 7) k
        ∧ exec (.safetySramScrub j k b) s = .next (if b then safeBoth 0x12 u else u))
  ∧ (∀ (b : Bool) (s : State), alive s = true → exec (.stopInput b) s = .next (stopLevel b false s))
  ∧ (∀ s : State, alive s = true → s.safety.halted = false → exec .cowslipDebugHalt s = .next (haltCowslip s))
  ∧ (∀ s : State, alive s = true → firmware s = true → inSafe s = true → safeE s + lastKnot s ≤ s.time →
      s.safety.trajRecs.all (loopSettled s) = true → exec .postureSettled s = .next (stoWrite s))
  ∧ (∀ s : State, alive s = true → fget s Reg.SAFE_STATUS_STATE = 2 → safeE s + fget s Reg.SAFE_CFG_TIMEOUT_MS * 1000000 ≤ s.time →
      exec .safeTimeout s = .next (reachSto 2 s))
  ∧ (∀ (t : Nat) (s : State), alive s = true → s.safety.injectAt = some t → 168 + 24 * s.safety.proofSaid ≤ proofHours s t →
      exec .proofIntervalDue s = .next (raise (modSafety s (fun x => { x with proofSaid := x.proofSaid + 1 })) 0x8032 safeIsland
        (u32 (proofHours s t))))
  ∧ (∀ (l : List CowslipRequest) (s : State), alive s = true →
      exec (.cowslipRequestPagePoll l) s = .next (forEach l serveRequest s))

/-! ### Links and module time -/

/-- JOB_JOIN of a module with no other member asks an arbiter to join and waits, JOB_LEAVE leaves the job and takes the ports
down, LINK_RETRAIN starts a retrain of an UP port and waits, and LINK_READ copies the link registers. Joining: a request over an
UP port of the facing module is arbitrated, or held while a port is retraining; a commit message takes the job's new members; a
join not committed within 100 ms is refused with cause 7. Loss and leave messages take a member out of the job. Rows whose
completion is stated here: JOB_JOIN (R502), JOB_LEAVE (R511), LINK_RETRAIN (R499), LINK_READ (R513), JOIN_REQUEST_RECEIVE
(R502), JOIN_COMMIT_RECEIVE (R502), JOIN_TIMEOUT (R504), LOSS_MESSAGE_RECEIVE (R506). -/
def Obligations.JoinRowsComplete : Prop :=
  (∀ (q n a : Nat) (l : List Nat) (o : Option (Nat × Nat)) (c : QCmd) (s u : State), Started s q n 0x0A00 c →
      s.links.join = none → c.engaged = false → c.length = 1 → c.reservedZero [] = true → otherMembers s = [] →
      u = modLinks (wakePorts s) (fun l => { l with noAuto := false }) → chooseArbiter u (fun m => l.getD m (2 ^ m)) = some a →
      exec (.jobJoin q n l o) s
        = .next (startJoin (some (q, c.n)) a (modCmd u q c.n (fun d => { d with engaged := true }))))
  ∧ (∀ (q n m k t a : Nat) (l : List Nat) (b : Bool) (s : State), s.links.join = some ⟨none, t, a, b⟩ →
      exec (.jobJoin q n l (some (m, k))) s = .next (refuseJoin m k s))
  ∧ (∀ (q n m k : Nat) (l : List Nat) (j : Join) (c : QCmd) (s : State), Started s q n 0x0A00 c → c.engaged = true →
      s.links.join = some j → j.cmd = some (q, n) → exec (.jobJoin q n l (some (m, k))) s = .next (refuseJoin m k s))
  ∧ (∀ (q n : Nat) (c : QCmd) (s : State), Started s q n 0x0A01 c → c.length = 1 → c.reservedZero [] = true → otherMembers s = [] →
      exec (.jobLeave q n) s = .next (completeCmd s q n Status.ok 0))
  ∧ (∀ (q n : Nat) (c : QCmd) (s : State), Started s q n 0x0A01 c → c.length = 1 → c.reservedZero [] = true → otherMembers s ≠ [] →
      exec (.jobLeave q n) s = .next (completeCmd (fsetb (forRange 3 (fun p u =>
        fsetb (fset (setLinkState u p 0) (Reg.LINK_PORT_STATE_LOCK p) 0) (Reg.LINK_PORT_STATE_PEER_VALID p) false) (leaveSteps s))
          Reg.LINK_STATUS_READY_TO_REMOVE true) q n Status.ok 0))
  ∧ (∀ (q n p : Nat) (c : QCmd) (s : State), Started s q n 0x0A02 c → c.engaged = false → c.length = 1 →
      c.reservedZero [(16, 1)] = true → p = c.field 16 1 → p ≤ 2 → linkState s p ≠ 5 →
      ∃ u, u = modCmd s q c.n (fun d => { d with engaged := true })
        ∧ exec (.linkRetrain q n) s = .next (if linkState s p = 3 then startRetrain p 3 u else u))
  ∧ (∀ (q n : Nat) (c : QCmd) (s t : State), Started s q n 0x0A03 c → c.length = 1 → c.reservedZero [(24, 8)] = true →
      opAligned q (c.field 24 8) 64 = true →
      opWrite s q (c.field 24 8) ((List.range 112).flatMap (fun i => leBytes 4 (regWord s (Reg.LINK_STATUS + 4 * i)))) = .ok t →
      exec (.linkRead q n) s = .next (completeCmd t q n Status.ok 0))
  ∧ (∀ (p : Nat) (r : JoinRequest) (s : State), alive s = true → p < 3 → linkState s p = 3 → r.module_ = facing s p →
      fbit s Reg.QMGR_STATUS_ACCEPTING = true →
      exec (.joinRequestReceive p r) s = .next (if s.links.held ≠ [] ∨ joinHeld s p = true
        then modLinks (fsetb s Reg.LINK_STATUS_JOIN_BUSY true) (fun l => { l with held := l.held ++ [(p, r)] })
        else arbitrate p r s))
  ∧ (∀ (p m k new : Nat) (s : State), alive s = true → p < 3 → m < 4 → linkState s p = 3 → m = modnum s → s.links.join.isSome = true →
      new = (fget s Reg.GLB_MODNUM_JOB_MASK ||| k % 16) →
      exec (.joinCommitReceive p m k) s = .next (settleJoin (modLinks
        (raise (fset s Reg.GLB_MODNUM_JOB_MASK new) 0xA005 (linkIsland p) (u16 m ++ u8 new))
        (fun l => { l with join := l.join.map (fun j => { j with committed := true }) }))))
  ∧ (∀ (p m k new : Nat) (s : State), alive s = true → p < 3 → m < 4 → linkState s p = 3 → m ≠ modnum s →
      new = (fget s Reg.GLB_MODNUM_JOB_MASK ||| k % 16) →
      exec (.joinCommitReceive p m k) s
        = .next (raise (fset s Reg.GLB_MODNUM_JOB_MASK new) 0xA005 (linkIsland p) (u16 m ++ u8 new)))
  ∧ (∀ (j : Join) (s : State), alive s = true → s.links.join = some j → j.committed = false → j.at_ + 100000000 ≤ s.time →
      exec .joinTimeout s = .next (refuseJoin j.arbiter 7 s))
  ∧ (∀ (p m : Nat) (s : State), alive s = true → p < 3 → linkState s p = 3 → m ≠ modnum s → inJob s m = true →
      exec (.lossMessageReceive p (.lost m)) s = .next (sendLost m none (declareLost m 1 (linkIsland p) s)))
  ∧ (∀ (p m : Nat) (s : State), alive s = true → p < 3 → linkState s p = 3 → m = modnum s →
      exec (.lossMessageReceive p (.lost m)) s
        = .next (if otherMembers s = [] then s else sendLeft none (leaveJob 1 (linkIsland p) s)))
  ∧ (∀ (p m : Nat) (s : State), alive s = true → p < 3 → linkState s p = 3 → m ≠ modnum s → inJob s m = true →
      exec (.lossMessageReceive p (.left m)) s
        = .next (forEach (upPorts s) (fun p s => emit s (.leftMsg p m)) (declareLost m 2 (linkIsland p) s)))

/-- Ports. A DOWN port that sees the training pattern trains; a port that trained is UP, and DOWN where the training failed;
replays are counted, with the corrected words since the last one (log entry 65), and too many within 1 ms start a retrain; a
retrain ends with the port UP, or after RETRAIN_MS with the port failed; silent lanes fail a port; a failed port is DOWN again
after 1 ms. An access of another module over an UP port: refused where the module is not of the job or this one is leaving it,
and otherwise one of the window or of memory; a FENCE of another module asks for the doorbells accepted so far, and is answered
or held (R219). Rows whose completion is stated here: TRAINING_PATTERN_SEEN (R501), LINK_TRAIN_DONE (R501), FLIT_REPLAY (R498),
RETRAIN_START (R499), RETRAIN_END (R499), LANES_SILENT (R500), LINK_FAILED_HOLDOFF (R501), REMOTE_ACCESS (R497). -/
def Obligations.LinkEventsComplete : Prop :=
  (∀ (p : Nat) (s : State), alive s = true → p < 3 → linkState s p = 1 → phaseUp s 5 = true →
      exec (.trainingPatternSeen p) s = .next (setLinkState s p 2))
  ∧ (∀ (p m : Nat) (s : State), alive s = true → p < 3 → linkState s p = 2 → m = facing s p →
      ∃ u, u = fsetb (fset (fset (setLinkState s p 3) (Reg.LINK_PORT_STATE_LOCK p) 0xFF) (Reg.LINK_PORT_STATE_PEER p) m)
          (Reg.LINK_PORT_STATE_PEER_VALID p) true
        ∧ exec (.linkTrainDone p true m) s
          = .next (settleJoin (endRetrainCmds p Status.ok 0 (raise u 0xA001 (linkIsland p) (u16 p ++ u16 m)))))
  ∧ (∀ (p m : Nat) (s : State), alive s = true → p < 3 → linkState s p = 2 →
      exec (.linkTrainDone p false m) s = .next (fset (setLinkState s p 1) (Reg.LINK_PORT_STATE_LOCK p) 0))
  ∧ (∀ (p : Nat) (b : Bool) (l : List Nat) (s : State), alive s = true → p < 3 → linkState s p = 3 →
      l = (lport s p).replays.filter (fun t => decide (s.time < t + 1000000)) →
      ∃ z u v, z = fadd (takeFree s).2 (Reg.LINK_PORT_CNT_COUNT p 3) ((Config.freeWord (takeFree s).1).toNat % 2 ^ 32)
        ∧ u = finc (finc z (Reg.LINK_PORT_CNT_COUNT p (if b then 4 else 0))) (Reg.LINK_PORT_CNT_COUNT p 1)
        ∧ v = setLport u p { lport u p with replays := (s.time :: l).take 256 }
        ∧ exec (.flitReplay p b) s = .next (if l = [] then raise v 0xA009 (linkIsland p) (u16 p) else v))
  ∧ (∀ (p : Nat) (s : State), alive s = true → p < 3 → linkState s p = 3 →
      fget s Reg.LINK_CFG_REPLAY_LIMIT < ((lport s p).replays.filter (fun t => decide (s.time < t + 1000000))).length →
      exec (.retrainStart p .replays) s = .next (startRetrain p 1 s))
  ∧ (∀ (p : Nat) (s : State), alive s = true → p < 3 → linkState s p = 3 →
      exec (.retrainStart p .laneLock) s = .next (startRetrain p 2 s))
  ∧ (∀ (p l ns : Nat) (s : State), alive s = true → p < 3 → linkState s p = 4 → ns = s.time - (lport s p).retrainAt →
      ∃ u, u = raise (fset (setLinkState s p 3) (Reg.LINK_PORT_STATE_LOCK p) 0xFF) 0xA003 (linkIsland p) (u16 p ++ u32 (ns / 1000))
        ∧ exec (.retrainEnd p true l) s
          = .next (settleHeld (settleJoin (endRetrainCmds p Status.ok 0 (forgiveFences p ns u)))))
  ∧ (∀ (p l : Nat) (s : State), alive s = true → p < 3 → linkState s p = 4 →
      fget s Reg.LINK_CFG_RETRAIN_MS * 1000000 ≤ s.time - (lport s p).retrainAt →
      exec (.retrainEnd p false l) s = .next (failLink p (l % 256) s))
  ∧ (∀ (p : Nat) (s : State), alive s = true → p < 3 → linkState s p = 3 ∨ linkState s p = 4 →
      exec (.lanesSilent p) s = .next (failLink p 0 s))
  ∧ (∀ (p : Nat) (s : State), alive s = true → p < 3 → linkState s p = 5 → (lport s p).failedAt + 1000000 ≤ s.time →
      exec (.linkFailedHoldoff p) s = .next (fset (setLinkState s p 1) (Reg.LINK_PORT_STATE_LOCK p) 0))
  ∧ (∀ (r : RemoteReq) (a : PcieCompletion) (s : State), alive s = true → r.peer < 4 → r.peer ≠ modnum s → r.fence = none →
    linkState s (portTo s r.peer) = 3 →
    exec (.remoteAccess r a) s = .next (if inJob s r.peer = false ∨ fbit s Reg.LINK_STATUS_LEAVING = true then answerPeer r false [] s
      else if isWindow r.addr then remoteWindow r a s else remoteMemory r s))
  ∧ (∀ (r : RemoteReq) (a : PcieCompletion) (q own : Nat) (m : Bool) (s : State), alive s = true → r.peer < 4 → r.peer ≠ modnum s →
      linkState s (portTo s r.peer) = 3 → inJob s r.peer = true → fbit s Reg.LINK_STATUS_LEAVING = false →
      r.fence = some (q, m, own) →
      exec (.remoteAccess r a) s = .next (captureRequest r.peer q m own s))

/-- R318: INCR always lies within 1.998..2.002 ns: no step takes it out of that range, and TIME_SET_INCR completes with
INVALID_PARAM on a value outside it and sets nothing. -/
def Obligations.IncrStaysInRange : Prop :=
  (∀ s t : State, Sound s → step s = .next t → incrMin ≤ t.timeu.incr ∧ t.timeu.incr ≤ incrMax)
  ∧ (∀ (q n : Nat) (c : QCmd) (s : State), Started s q n 0x0B00 c → c.field 16 8 < incrMin ∨ incrMax < c.field 16 8 →
      exec (.timeSetIncr q n) s = .next (completeCmd s q n Status.invalidParam 0))

/-- The time commands. TIME_SET_INCR sets INCR, within its limits; TRIGGER_ARM arms a run of triggers, or disarms them where
nothing names an armed one; TIME_READ copies the time block. Synchronization (R320 to R323). A Sync of the grandmaster, received
on the domain's port, measures the offset of its domain and gains it; three missing Syncs lose it; a new grandmaster is taken,
and raises 0x5006; the module as grandmaster sends a Sync on the domain's port each interval; steering sets INCR toward the
source; the end of holdover and the return of domain 0 change the source. Rows whose completion is stated here: TIME_SET_INCR
(R336), TRIGGER_ARM (R336), TIME_READ (R336), SYNC_RECEIVE (R322), SYNC_LOST (R321), HOLDOVER_END (R323), DOMAIN_RETURN (R323),
STEERING_UPDATE (R324), GM_CHANGE (R321), SYNC_TRANSMIT (R321). -/
def Obligations.TimeRowsComplete : Prop :=
  (∀ (q n : Nat) (c : QCmd) (s : State), Started s q n 0x0B00 c → c.length = 1 → c.reservedZero [(16, 8)] = true →
      incrMin ≤ c.field 16 8 → c.field 16 8 ≤ incrMax → fget s Reg.TIME_CFG_MODE ≠ 1 →
      exec (.timeSetIncr q n) s = .next (completeCmd (setIncr s (c.field 16 8)) q n Status.ok 0))
  ∧ (∀ (q n : Nat) (c : QCmd) (s : State), Started s q n 0x0B01 c → c.field 16 2 + c.length ≤ 64 →
      c.reservedZero [(16, 3)] = true → c.field 18 1 = 1 →
      exec (.triggerArm q n) s
        = .next (completeCmd (forEach ((List.range c.length).map (· + c.field 16 2)) armTrigger s) q n Status.ok 0))
  ∧ (∀ (q n : Nat) (c : QCmd) (s : State), Started s q n 0x0B01 c → c.field 16 2 + c.length ≤ 64 →
      c.reservedZero [(16, 3)] = true → c.field 18 1 = 0 →
      ((List.range c.length).map (· + c.field 16 2)).find? (fun i => trigArmed s i && trigNamed s i) = none →
      exec (.triggerArm q n) s
        = .next (completeCmd (forEach ((List.range c.length).map (· + c.field 16 2)) disarmTrigger s) q n Status.ok 0))
  ∧ (∀ (q n : Nat) (c : QCmd) (s t : State), Started s q n 0x0B02 c → c.length = 1 → c.reservedZero [(24, 8)] = true →
      opAligned q (c.field 24 8) 64 = true → opWrite s q (c.field 24 8) (timeBlock s) = .ok t →
      exec (.timeRead q n) s = .next (completeCmd t q n Status.ok 0))
  ∧ (∀ (d o k : Nat) (s : State), alive s = true → phaseUp s 5 = true → d < 2 → fbit s (Reg.TIME_DOM_CFG_EN d) = true →
      (dom s d).gm = true → (dom s d).self_ = false →
      ∃ p u, p = fget s (Reg.TIME_DOM_CFG_PORT d) ∧ u = setNetPort s p { netPort s p with linkDelay := k }
        ∧ exec (.syncReceive d ⟨p, o, k⟩) s = .next (domGained d (setDom u d (measureRate { dom s d with
          syncs := ((o + k, s.ticks) :: (dom s d).syncs).take 8, lastSync := s.time, advanced := s.ticks
          offset := ((s.time * fracUnit + s.frac : Nat) : Int) - (((o + k) * fracUnit : Nat) : Int) }))))
  ∧ (∀ (d : Nat) (s : State), alive s = true → domValid s d = true → (dom s d).self_ = false →
      (dom s d).lastSync + 3 * syncInterval s d ≤ s.time → exec (.syncLost d) s = .next (domLost d s))
  ∧ (∀ s : State, alive s = true → timeSource s = 3 → holdoverOver s = true →
      exec .holdoverEnd s = .next (if sourceAfterHold s = 3 then setLocked s false else setSource (sourceAfterHold s) s))
  ∧ (∀ s : State, alive s = true → timeSource s = 2 → domValid s 0 = true →
      (dom s 0).validAt + fget s Reg.TIME_CFG_RETURN_100MS * 100000000 ≤ s.time → exec .domainReturn s = .next (setSource 1 s))
  ∧ (∀ s u : State, alive s = true → u = advanceDomAt 1 (advanceDomAt 0 s) →
      exec .steeringUpdate s = .next (settleLock (if timeSource u = 1 ∨ timeSource u = 2
        then setIncr u (steeredIncr (fget u Reg.TIME_CFG_RAMP_PPM) (dom u (timeSource u - 1))) else u)))
  ∧ (∀ (d : Nat) (g : DWord) (best : Option Nat) (s : State), alive s = true → d < 2 → fbit s (Reg.TIME_DOM_CFG_EN d) = true →
      bmcaAllows (fget s (Reg.TIME_DOM_CFG_PRIORITY1 d)) true best = true →
      ∃ u, u = (if g.toNat = (dom s d).gmid then s else raise s 0x5006 timeIsland [])
        ∧ exec (.gmChange d true ⟨g, best⟩) s = .next (domGained d (setDom u d { dom s d with
          gm := true, self_ := true, gmid := g.toNat, offset := 0, rateNum := 1, rateDen := 1, syncs := [], sentAt := none })))
  ∧ (∀ (d : Nat) (g : DWord) (best : Option Nat) (s : State), alive s = true → d < 2 → fbit s (Reg.TIME_DOM_CFG_EN d) = true →
      bmcaAllows (fget s (Reg.TIME_DOM_CFG_PRIORITY1 d)) false best = true →
      ∃ u v, u = (if g.toNat = (dom s d).gmid then s else raise s 0x5006 timeIsland [])
        ∧ v = setDom u d { dom s d with gm := true, self_ := false, gmid := g.toNat, syncs := [] }
        ∧ exec (.gmChange d false ⟨g, best⟩) s = .next (if (dom s d).self_ then domLost d v else v))
  ∧ (∀ (d : Nat) (s : State), alive s = true → phaseUp s 5 = true → domValid s d = true → (dom s d).self_ = true →
      (∀ t : Nat, (dom s d).sentAt = some t → t + syncInterval s d ≤ s.time) →
      exec (.syncTransmit d) s = .next (setDom { s with outbox := s.outbox ++ [.sync (fget s (Reg.TIME_DOM_CFG_PORT d)) d s.time] } d
        { dom s d with sentAt := some s.time }))

/-! ### Management frames, samples, control loops and rings -/

/-- Management ports. A sound frame to a running queue is answered: a submission is taken and acknowledged, and may wake the
module; a poll is acknowledged and the replies are sent again. A frame whose payload is not sound is refused and counted.
Waiting replies are sent, and sent again after 10 ms without an answer; a frame of another kind is counted. Rows whose
completion is stated here: MGMT_SUBMIT (R575), MGMT_POLL (R575), MGMT_FRAME_REFUSED (R577), REPLY_FRAME_SEND (R576),
REPLY_RESEND (R576), OTHER_DROPPED (R577). -/
def Obligations.ManagementEventsComplete : Prop :=
  (∀ (e : Nat) (f : MgmtFrame) (s : State), alive s = true → frameTaken s e f = true → queueOn s e = true → payloadSound f.payload = true →
      fieldAt f.payload 1 1 = 1 →
      exec (.mgmtSubmit e f) s = .next (submitFrame e f (if submitRings s e f then drowseExit 3 s else s)))
  ∧ (∀ (e : Nat) (f : MgmtFrame) (s : State), alive s = true → frameTaken s e f = true → queueOn s e = true → payloadSound f.payload = true →
      fieldAt f.payload 1 1 = 4 → exec (.mgmtPoll e f) s = .next (pollFrame e f s))
  ∧ (∀ (e : Nat) (f : MgmtFrame) (s : State), frameTaken s e f = true → payloadSound f.payload = false →
      exec (.mgmtFrameRefused e f) s = .next (refuseFrame (noteTaken s e f) e f))
  ∧ (∀ (e k : Nat) (s : State), e < 2 → queueOn s e = true → phaseUp s 5 = true →
      k = (s32diff (queue s e).cqTail (mgmt s e).unsent).toNat → k ≠ 0 →
      16 ≤ k ∨ (mgmt s e).notify ≠ [] ∨ (mgmt s e).postedAt + 100000 ≤ s.time →
      ∃ u, u = sendReplies s e (mgmt s e).unsent (min k 90)
        ∧ exec (.replyFrameSend e) s = .next (setMgmt u e
          { mgmt u e with unsent := wrap32 ((mgmt s e).unsent + min k 90), sentAt := u.time }))
  ∧ (∀ (e h k : Nat) (s : State), e < 2 → queueOn s e = true → phaseUp s 5 = true → h = memNat s (cqBase s e + 8) 4 →
      k = (s32diff (mgmt s e).unsent h).toNat → k ≠ 0 → (mgmt s e).sentAt + 10000000 ≤ s.time →
      ∃ u, u = resend e 4096 h k s ∧ exec (.replyResend e) s = .next (setMgmt u e { mgmt u e with sentAt := u.time }))
  ∧ (∀ (e : Nat) (s : State), e < 2 → phaseUp s 5 = true → exec (.otherDropped e) s = .next (finc s (Reg.NET_MGMT_CNT_COUNT e 4)))

/-- The sensor commands. STREAM_START and STREAM_STOP act on a run of configured streams; SAMPLE_READ copies the newest records
of a stream; CALIB_FEED takes its sound observations, and completes with how many it used; CALIB_SET writes the poses of a run
of slots and raises CAL_EPOCH; CALIB_READ writes CAL_EPOCH and the records of a run of slots. Samples and fusion: a sample
enters a running stream, a ring stream's from its gather slot; a fusion record is released, and one whose deadline passed is
released with the entries that are not built marked incomplete; how many are built is bounded below by their costs and otherwise
free. Rows whose completion is stated here: STREAM_START (R364), STREAM_STOP (R364), SAMPLE_READ (R364), CALIB_FEED (R361),
CALIB_SET (R362), CALIB_READ (R364), SAMPLE_INGRESS (R343), FUSE_RECORD_RELEASE (R355), FUSE_RELEASE_DEADLINE (R356). -/
def Obligations.SensorRowsComplete : Prop :=
  (∀ (q n : Nat) (c : QCmd) (s : State), Started s q n 0x0500 c → sensorParams q c false = true → c.field 16 2 + c.length ≤ 128 →
      (cmdIndexes c).all (fun i => (stream s (c.field 16 2 + i)).used) = true →
      exec (.streamStart q n) s
        = .next (completeCmd (forEach (cmdIndexes c) (fun i u => startStream (c.field 16 2 + i) u) s) q n Status.ok 0))
  ∧ (∀ (q n : Nat) (c : QCmd) (s : State), Started s q n 0x0501 c → sensorParams q c false = true → c.field 16 2 + c.length ≤ 128 →
      (cmdIndexes c).all (fun i => (stream s (c.field 16 2 + i)).used) = true →
      exec (.streamStop q n) s
        = .next (completeCmd (forEach (cmdIndexes c) (fun i u => stopStream (c.field 16 2 + i) u) s) q n Status.ok 0))
  ∧ (∀ (q n : Nat) (c : QCmd) (x : Stream) (bs : List Byte) (s t : State), Started s q n 0x0502 c → sensorParams q c true = true →
      c.field 16 2 < 128 → x = stream s (c.field 16 2) → x.used = true → c.length ≤ x.slots →
      readPieces s ((cmdIndexes c).map (fun i => (x.slotAddr (x.seq + x.slots + 1 + i - c.length), x.recBytes))) = .ok bs →
      opWrite s q (c.field 24 8) bs = .ok t → exec (.sampleRead q n) s = .next (completeCmd t q n Status.ok 0))
  ∧ (∀ (q n : Nat) (c : QCmd) (bs : List Byte) (s : State), Started s q n 0x0503 c → sensorParams q c true = true → c.field 16 2 = 0 →
      opRead s q (c.field 24 8) (48 * c.length) = .ok bs → (chunks c.length 48 bs).all (observationOk s) = true →
      ∃ used t, (chunks c.length 48 bs).foldl (fun p b => feedOne b p) (0, s) = (used, t)
        ∧ exec (.calibFeed q n) s = .next (completeCmd t q n Status.ok used))
  ∧ (∀ (q n : Nat) (c : QCmd) (bs : List Byte) (s : State), Started s q n 0x0504 c → sensorParams q c true = true →
      c.field 16 2 + c.length ≤ 32 → opRead s q (c.field 24 8) (64 * c.length) = .ok bs → (chunks c.length 64 bs).all slotOk = true →
      exec (.calibSet q n) s = .next (completeCmd (raiseEpoch (forEach ((cmdIndexes c).zip (chunks c.length 64 bs)) (fun (i, r) u =>
        setExtr u (c.field 16 2 + i) { extr u (c.field 16 2 + i) with pose := r.take 28 }) s)) q n Status.ok 0))
  ∧ (∀ (q n : Nat) (c : QCmd) (s t : State), Started s q n 0x0505 c → sensorParams q c true = true → c.field 16 2 + c.length ≤ 32 →
      opWrite s q (c.field 24 8) (leBytes 4 (fget s Reg.SNS_CAL_EPOCH_EPOCH) ++ List.replicate 12 0
        ++ (cmdIndexes c).flatMap (fun i => (extr s (c.field 16 2 + i)).record)) = .ok t →
      exec (.calibRead q n) s = .next (completeCmd t q n Status.ok 0))
  ∧ (∀ (k ago : Nat) (x : SampleIn) (s : State), alive s = true → k < 128 → streamRun s k = true → (stream s k).used = true →
      phaseUp s 5 = true → (stream s k).field 0 1 ≠ 5 → exec (.sampleIngress k x ago) s
        = .next (sampleIngress k (if (stream s k).camera then unpackPixels x.type x.raw else x.raw) x.error (s.time - 2 * ago) s))
  ∧ (∀ (k ago : Nat) (x : SampleIn) (s : State), alive s = true → k < 128 → streamRun s k = true → (stream s k).used = true →
      phaseUp s 5 = true → (stream s k).field 0 1 = 5 → exec (.sampleIngress k x ago) s = .next (ringIngress k s))
  ∧ (∀ (g : Nat) (s : State), alive s = true → g < 8 → phaseUp s 5 = true →
      exec (.fuseRecordRelease g) s = .next (releaseRecord g s))
  ∧ (∀ (g k : Nat) (r : FuseOpen) (s : State), alive s = true → g < 8 → (group s g).open_ = some r →
      reached s (r.t + ((group s g).release - 1000)) = true → k = surelyBuilt ((group s g).release - 1000) r.entries → k < r.entries.length →
      ∃ (f j : Nat) (u : State), (f, u) = takeFree s ∧ j = k + (Config.freeWord f).toNat % (r.entries.length - k)
        ∧ exec (.fuseReleaseDeadline g) s = .next (releaseRecord g (setGroup u g { group s g with
          open_ := some { r with entries := r.entries.take j ++ (r.entries.drop j).map incompleteEntry } })))

/-- The control commands. LOOP_ENABLE and TRIP_CLEAR ask each of their loops, which answers at its next sample boundary; a
change of loops that are on waits for that boundary too, and one of loops that are off takes effect at once. LOOP_DISABLE puts
its loops off, and a change that waited for that takes effect; LOOP_READ copies the sixteen words of each of its loops. Rows
whose completion is stated here: LOOP_ENABLE (R601), LOOP_DISABLE (R279), COEF_WRITE (R273), BANK_SWAP (R272), SETPOINT_WRITE
(R275), TRIP_CLEAR (R601), LOOP_READ (R279). -/
def Obligations.ControlCommandsComplete : Prop :=
  (∀ (q n : Nat) (c : QCmd) (s : State), Started s q n 0x0C00 c → c.engaged = false → ctlReady q s c false → c.length ≠ 0 →
      exec (.loopEnable q n) s
        = .next (askLoops q c .enable (ctlLoops c) (modCmd s q c.n (fun d => { d with engaged := true }))))
  ∧ (∀ (q n : Nat) (c : QCmd) (s : State), Started s q n 0x0C01 c → ctlReady q s c false →
      exec (.loopDisable q n) s = .next (completeCmd (takeDeferred (settleControl (coefSettle
        (forEach (ctlLoops c) (fun l s => setLoop s l (loop s l).off) s)))) q n Status.ok 0))
  ∧ (∀ (q n : Nat) (c : QCmd) (bs : List Byte) (s : State), Started s q n 0x0C02 c → c.engaged = false → ctlReady q s c true →
      opRead s q (c.field 24 8) (128 * c.length) = .ok bs →
      ((ctlLoops c).zip ((chunks c.length 128 bs).map (bytesToWords 32))).all (fun r => coefValid r.2) = true →
      ∃ (l : List (Nat × List Word)) (u : State),
        coefAdvance ⟨q, c.n, (ctlLoops c).zip ((chunks c.length 128 bs).map (bytesToWords 32))⟩ s = (l, u)
        ∧ exec (.coefWrite q n) s = .next (if l = [] then completeCmd u q n Status.ok 0
          else modYarrow (modCmd u q c.n (fun d => { d with engaged := true })) (fun y => { y with coefs := y.coefs ++ [⟨q, c.n, l⟩] })))
  ∧ (∀ (q n : Nat) (c : QCmd) (l : List Nat) (s u : State), Started s q n 0x0C03 c → c.engaged = false → ctlReady q s c false →
      u = forEach ((ctlLoops c).filter (fun l => decide ((loop s l).state = 0)))
        (fun l s => setLoop s l { loop s l with bank := !(loop s l).bank }) s →
      l = (ctlLoops c).filter (fun l => decide ((loop s l).state ≠ 0)) →
      exec (.bankSwap q n) s = .next (if l = [] then completeCmd u q n Status.ok 0
        else askLoops q c .swap l (modCmd u q c.n (fun d => { d with engaged := true }))))
  ∧ (∀ (q n : Nat) (c : QCmd) (bs : List Byte) (s u : State), Started s q n 0x0C04 c → c.engaged = false → ctlReady q s c true →
      opRead s q (c.field 24 8) (4 * c.length) = .ok bs →
      (ctlLoops c).find? (fun l => loopCommitted s l && decide ((loop s l).state ≠ 0)) = none →
      u = forEach ((ctlLoops c).zip (bytesToWords c.length bs)) (fun (l, v) s => setLoop s l (if (loop s l).state = 0
        then { loop s l with spIdle := v, sp := v, spPrev := v } else { loop s l with spIdle := v })) s →
      ∃ l, l = (ctlLoops c).filter (fun l => decide ((loop u l).state ≠ 0))
        ∧ exec (.setpointWrite q n) s = .next (if l = [] then completeCmd u q n Status.ok 0
          else askLoops q c .setpoint l (modCmd u q c.n (fun d => { d with engaged := true }))))
  ∧ (∀ (q n : Nat) (c : QCmd) (s : State), Started s q n 0x0C05 c → c.engaged = false → ctlReady q s c false → c.length ≠ 0 →
      exec (.tripClear q n) s
        = .next (askLoops q c .clear (ctlLoops c) (modCmd s q c.n (fun d => { d with engaged := true }))))
  ∧ (∀ (q n : Nat) (c : QCmd) (s t : State), Started s q n 0x0C06 c → ctlReady q s c true →
      opWrite s q (c.field 24 8) ((ctlLoops c).flatMap (fun l => (List.range 16).flatMap (fun i => leBytes 4 (loopWord s l i)))) = .ok t →
      exec (.loopRead q n) s = .next (completeCmd t q n Status.ok 0))

/-- The ring commands. RING_PORT_START starts a discovery on the ports of its run that have nodes and can start; RING_PORT_STOP
stops its ports, out of the safe state; RING_WORD_WRITE writes words no loop writes; RING_SNAPSHOT copies the last good frames;
TEASEL_ARM and TEASEL_RELEASE arm rules and release their latches, out of the safe state. Ring frames: the image is copied for
delivery within 10 µs of the trigger; a cyclic frame returns and has its outcome; a discovery and a layout frame return, and a
discovery that is late counts as lost; a change of a ring link raises 0x4101 and takes a cycling port's line down. Rows whose
completion is stated here: RING_PORT_START (R307), RING_PORT_STOP (R312), RING_WORD_WRITE (R295), RING_SNAPSHOT (R312),
TEASEL_ARM (R302), TEASEL_RELEASE (R302), RING_DELIVER_COPY (R295), RING_FRAME_RETURN (R296), RING_FRAME_OUTCOME (R308),
RING_LINK_CHANGE (R309), RING_DISCOVER_RETURN (R306), RING_LAYOUT_RETURN (R307). -/
def Obligations.RingRowsComplete : Prop :=
  (∀ (q n : Nat) (c : QCmd) (s u : State), Started s q n 0x0C10 c → c.engaged = false → c.reservedZero [(16, 1)] = true →
      c.field 16 1 + c.length ≤ 8 →
      u = forEach (((List.range c.length).map (· + c.field 16 1)).filter (fun p =>
        decide ((portState s p = 1 ∨ portState s p = 4) ∧ 0 < portNodes s p))) startDiscovery s →
      exec (.ringPortStart q n) s = .next
        (if ((List.range c.length).map (· + c.field 16 1)).any (fun p => decide (portState u p = 2))
          then modCmd u q c.n (fun d => { d with engaged := true }) else completeCmd u q n Status.ok 0))
  ∧ (∀ (q n : Nat) (c : QCmd) (s : State), Started s q n 0x0C11 c → c.engaged = false → c.reservedZero [(16, 1)] = true →
      c.field 16 1 + c.length ≤ 8 → inSafe s = false →
      exec (.ringPortStop q n) s = .next (settleStops (forEach ((List.range c.length).map (· + c.field 16 1)) stopPort
        (modCmd s q c.n (fun d => { d with engaged := true })))))
  ∧ (∀ (q n : Nat) (c : QCmd) (bs : List Byte) (s : State), Started s q n 0x0C12 c → c.reservedZero [(16, 3), (24, 8)] = true →
      opAligned q (c.field 24 8) 64 = true → c.field 16 1 < 8 → c.field 17 1 < portNodes s (c.field 16 1) →
      c.field 18 1 + c.length ≤ fget s (Reg.RING_NODE_LAYOUT_CMD_WORDS (c.field 16 1) (c.field 17 1)) → inSafe s = false →
      opRead s q (c.field 24 8) (4 * c.length) = .ok bs →
      (∀ k l : Nat, k < c.length → l < 256 → loopCmdEn s l = true →
        loopCmdKey s l ≠ wordKey (c.field 16 1) (c.field 17 1) (c.field 18 1 + k)) →
      exec (.ringWordWrite q n) s = .next (completeCmd (forEach ((List.range c.length).zip (bytesToWords c.length bs)) (fun e u =>
        imageWrite (c.field 16 1) (c.field 17 1) (c.field 18 1 + e.1) u.time e.2 u) s) q n Status.ok 0))
  ∧ (∀ (q n : Nat) (c : QCmd) (s t : State), Started s q n 0x0C13 c → c.reservedZero [(16, 1), (24, 8)] = true →
      opAligned q (c.field 24 8) 64 = true → c.field 16 1 + c.length ≤ 8 →
      opWrite s q (c.field 24 8) ((List.range c.length).flatMap (fun i => snapshotBytes s (c.field 16 1 + i))) = .ok t →
      exec (.ringSnapshot q n) s = .next (completeCmd t q n Status.ok 0))
  ∧ (∀ (q n : Nat) (c : QCmd) (s : State), Started s q n 0x0C14 c → c.reservedZero [(19, 1), (20, 2)] = true → c.field 19 1 ≤ 1 →
      c.field 20 2 + c.length ≤ 256 → inSafe s = false ∨ c.field 19 1 = 1 →
      exec (.teaselArm q n) s = .next (completeCmd (forEach ((List.range c.length).map (· + c.field 20 2))
        (fun r u => fset u (Reg.RING_RULE_STATE_ARMED r) (c.field 19 1)) s) q n Status.ok 0))
  ∧ (∀ (q n : Nat) (c : QCmd) (s : State), Started s q n 0x0C15 c → c.reservedZero [(20, 2)] = true →
      c.field 20 2 + c.length ≤ 256 → inSafe s = false →
      exec (.teaselRelease q n) s = .next (completeCmd (forEach ((List.range c.length).map (· + c.field 20 2))
        (fun r u => fsetb u (Reg.RING_RULE_STATE_LATCHED r) false) s) q n Status.ok 0))
  ∧ (∀ (p t : Nat) (s : State), ringsFed s = true → p < 8 → portCycles s p = true →
      t = storeGet (fun _ => 0) s.timeu.next (fget s (Reg.RING_PORT_CFG_TRIGGER_ID p)) →
      trigArmed s (fget s (Reg.RING_PORT_CFG_TRIGGER_ID p)) = true → 0 ≤ timeDiff s t → timeDiff s t ≤ 10000 →
      exec (.ringDeliverCopy p) s = .next (setRport s p { rport s p with copied := some (t, copyImage s p t) }))
  ∧ (∀ (p : Nat) (r : RingReturn) (f : Flight) (s : State), ringsFed s = true → p < 8 →
      (rport s p).line.find? (fun f => decide (f.lap0 = none)) = some f →
      exec (.ringFrameReturn p r) s = .next (frameReturn p r f s))
  ∧ (∀ (p : Nat) (o : RingOutcome) (f : Flight) (s : State), ringsFed s = true → p < 8 → (rport s p).line.head? = some f →
      reached s (f.launch + roundNs s p + 2000) = true →
      exec (.ringFrameOutcome p o) s = .next (frameOutcome p f o s))
  ∧ (∀ (p : Nat) (b up : Bool) (f : Field) (s : State), ringsFed s = true → p < 8 → portState s p ≠ 0 →
      f = (if b then Reg.RING_PORT_STATE_LINK_B p else Reg.RING_PORT_STATE_LINK_A p) → fbit s f ≠ up →
      ∃ u, u = raise (fsetb s f up) 0x4101 ringIsland (u16 p ++ u8 (if b then 2 else 1))
        ∧ exec (.ringLinkChange p b up) s = .next (if up = false ∧ portState u p = 3 then lineDown p u else u))
  ∧ (∀ (p : Nat) (r : DiscoverReturn) (f : Flight) (late : Bool) (s : State), ringsFed s = true → p < 8 → (rport s p).flight = some f →
      f.kind = .discover → late = decide (timeDiff s (discoverDeadline s p f.launch) < 0) → r.returned = true ∨ late = true →
      exec (.ringDiscoverReturn p r) s = .next (discoverReturn p (if late then { r with returned := false } else r) s))
  ∧ (∀ (p : Nat) (f : Flight) (s : State), ringsFed s = true → p < 8 → (rport s p).flight = some f → f.kind = .layout →
      exec (.ringLayoutReturn p) s = .next (leaveIdle p (setRport s p { rport s p with flight := none, laidOut := true })))

/-! ### The control window -/

/-- R33, R34: the register write. A write of a 32-bit register takes effect; the high word of a 64-bit register is held; its low
word takes effect with the high word held for it, or with the register's own where none is held, and clears it. R34: a write by
an agent that may not write a slot. SAFE of an agent other than Cowslip raises 0x8033, SEC of one other than Harebell raises
0xB008; neither changes a register. R317: TIME_SET takes either word from Harebell alone, before ACCEPTING, and raises 0x5008
otherwise. Agents outside R34 have no access elsewhere. Rows whose completion is stated here: REGISTER_WRITE (R8). -/
def Obligations.RegisterWritesComplete : Prop :=
  (∀ (a : Agent) (off : Nat) (v : Word) (s : State), alive s = true → off % 4 = 0 → off < 0x4000000 → slotRefuses a off = false →
      mayAccess a = true → pairLow off = none →
      exec (.registerWrite a off v) s = .next (slotWrite a .timeout off v.toNat s))
  ∧ (∀ (a : Agent) (off low : Nat) (v : Word) (s : State), alive s = true → off % 4 = 0 → off < 0x4000000 → slotRefuses a off = false →
      mayAccess a = true → pairLow off = some low → off ≠ low →
      (low = Reg.TIME_SET → timeSetTakes a s = true) →
      exec (.registerWrite a off v) s = .next { s with held := storeSet (fun _ => none) s.held low (some v) })
  ∧ (∀ (a : Agent) (off : Nat) (v : Word) (s : State), alive s = true → off % 4 = 0 → off < 0x4000000 → slotRefuses a off = false →
      mayAccess a = true → pairLow off = some off →
      (off = Reg.TIME_SET → timeSetTakes a s = true) →
      exec (.registerWrite a off v) s = .next (slotWrite a .timeout off (v.toNat + 2 ^ 32 * highHeld s off) (heldCleared s off)))
  ∧ (∀ (a : Agent) (off : Nat) (v : Word) (s : State), alive s = true → off % 4 = 0 → off / 0x100000 = 0x0B → a ≠ .cowslip →
      exec (.registerWrite a off v) s = .next (safeRefused a off s))
  ∧ (∀ (a : Agent) (off : Nat) (v : Word) (s : State), alive s = true → off % 4 = 0 → off / 0x100000 = 0x01 → a ≠ .harebell →
      exec (.registerWrite a off v) s = .next (raise s 0xB008 secIsland (regData off ++ u8 (agentCode a))))
  ∧ (∀ (a : Agent) (off : Nat) (v : Word) (s : State), alive s = true → off % 4 = 0 → off < 0x4000000 → slotRefuses a off = false →
      mayAccess a = true → pairLow off = some Reg.TIME_SET → timeSetTakes a s = false →
      exec (.registerWrite a off v) s = .next (raise s 0x5008 timeIsland (regData Reg.TIME_SET)))
  ∧ (∀ (off : Nat) (v : Word) (s : State), alive s = true → off / 0x100000 ≠ 0x0B → off / 0x100000 ≠ 0x01 →
      exec (.registerWrite .other off v) s = .next s)

/-- Tile registers. TILE_SHARE takes a sound value of an idle context, and raises 0x2003 otherwise (R70). TILE_THR assigns an
UNASSIGNED thread and releases an IDLE one of the context named, and raises 0x2002 for a thread in another state (R71).
PERF_CLEAR zeroes the six counters and leaves ISSUE_EN; clearing a fault clears VALID and MORE. R593: debugging. HALT of a READY
thread halts it at once, and of a WAITING one when it wakes; RESUME and STEP of a halted thread let it go on, or issue one
instruction; a write of a halted thread's register sets it. A thread in another state raises 0x2002. Rows whose completion is
stated here: TILE_SHARE_WRITE (R70), TILE_THR_ASSIGN (R71), TILE_THR_RELEASE (R71), PERF_CLEAR (R8), TILE_FAULT_CLEAR (R11),
TILE_DBG_HALT (R593), TILE_DBG_RESUME (R593), TILE_DBG_STEP (R593), TILE_DBG_REG_WRITE (R593). -/
def Obligations.TileRowsComplete : Prop :=
  (∀ (a : Agent) (tile c : Nat) (v : Word) (s : State), alive s = true → mayAccess a = true → tile < 48 → c < 64 →
      exec (.tileShareWrite a tile c v) s = .next
        (if shareOk s tile c v.toNat then rwStore s (Reg.TILE_SHARE tile c) v.toNat else raise s 0x2003 tile []))
  ∧ (∀ (a : Agent) (tile t c : Nat) (s : State), alive s = true → mayAccess a = true → tile < 48 → t < 128 → c < 64 →
      (thread s tile t).state = .unassigned →
      exec (.tileThrAssign a tile t c) s = .next (setThread s tile t { thread s tile t with state := .idle, ctx := c, pc := 0 }))
  ∧ (∀ (a : Agent) (tile t c : Nat) (s : State), alive s = true → mayAccess a = true → tile < 48 → t < 128 → c < 64 →
      (thread s tile t).state ≠ .unassigned → exec (.tileThrAssign a tile t c) s = .next (raise s 0x2002 tile []))
  ∧ (∀ (a : Agent) (tile t c : Nat) (s : State), alive s = true → mayAccess a = true → tile < 48 → t < 128 → c < 64 →
      (thread s tile t).state = .idle → (thread s tile t).ctx = c →
      exec (.tileThrRelease a tile t c) s = .next (setThread s tile t { thread s tile t with state := .unassigned, pc := 0 }))
  ∧ (∀ (a : Agent) (tile t c : Nat) (s : State), alive s = true → mayAccess a = true → tile < 48 → t < 128 → c < 64 →
      (thread s tile t).state ≠ .idle ∨ (thread s tile t).ctx ≠ c →
      exec (.tileThrRelease a tile t c) s = .next (raise s 0x2002 tile []))
  ∧ (∀ (a : Agent) (tile : Nat) (s : State), alive s = true → mayAccess a = true → tile < 48 →
      exec (.perfClear a tile) s = .next (forRange 6 (fun k s => setReg64 s (Reg.TILE_PERF tile k) 0)
        (rwStore s (Reg.TILE_CTRL tile) (2 + fget s (Reg.TILE_CTRL_ISSUE_EN tile)))))
  ∧ (∀ (a : Agent) (tile : Nat) (s : State), alive s = true → mayAccess a = true → tile < 48 →
      exec (.tileFaultClear a tile) s
        = .next (fset (fsetb s (Reg.TILE_FAULT_VALID tile) false) (Reg.TILE_FAULT_MORE tile) 0))
  ∧ (∀ (a : Agent) (tile t : Nat) (s : State), alive s = true → mayAccess a = true → tile < 48 → t < 128 →
      (thread s tile t).state = .ready →
      exec (.tileDbgHalt a tile t) s = .next (rescheduleAll (setThread s tile t { thread s tile t with state := .debugHalt })))
  ∧ (∀ (a : Agent) (tile t : Nat) (s : State), alive s = true → mayAccess a = true → tile < 48 → t < 128 →
      (thread s tile t).state = .waiting →
      exec (.tileDbgHalt a tile t) s = .next (rescheduleAll (setThread s tile t { thread s tile t with haltNext := true })))
  ∧ (∀ (a : Agent) (tile t : Nat) (s : State), alive s = true → mayAccess a = true → tile < 48 → t < 128 →
      (thread s tile t).busy = false → exec (.tileDbgHalt a tile t) s = .next (raise s 0x2002 tile []))
  ∧ (∀ (a : Agent) (tile t : Nat) (s : State), alive s = true → mayAccess a = true → tile < 48 → t < 128 →
      (thread s tile t).state = .debugHalt →
      exec (.tileDbgResume a tile t) s
          = .next (rescheduleAll (setThread s tile t { thread s tile t with state := .ready, step := false }))
        ∧ exec (.tileDbgStep a tile t) s = .next (rescheduleAll (setThread s tile t { thread s tile t with step := true })))
  ∧ (∀ (a : Agent) (tile t : Nat) (s : State), alive s = true → mayAccess a = true → tile < 48 → t < 128 →
      (thread s tile t).state ≠ .debugHalt →
      exec (.tileDbgResume a tile t) s = .next (raise s 0x2002 tile []) ∧ exec (.tileDbgStep a tile t) s = .next (raise s 0x2002 tile []))
  ∧ (∀ (a : Agent) (tile t r : Nat) (v : DWord) (s : State), alive s = true → mayAccess a = true → tile < 48 → t < 128 → r < 32 →
      (thread s tile t).state = .debugHalt →
      ∃ u, exec (.tileDbgRegWrite a tile t r v) s = .next (setThread u tile t (setXreg (thread s tile t) r v))
        ∧ u = heldCleared { s with held := storeSet (fun _ => none) s.held (Reg.TILE_DBG_REG tile t r) (some (v.extractLsb' 32 32)) }
          (Reg.TILE_DBG_REG tile t r))

/-- Queue and context registers. QMGR_DOORBELL rings a queue for the packets counted, a management queue's by no agent of the
window (R203); a write of a QMGR_Q* register follows R230; CTX_RESET is R253's. Rows whose completion is stated here:
QMGR_DOORBELL_WRITE (R203), QUEUE_CFG_WRITE (R230), CTX_RESET (R253). -/
def Obligations.QueueRowsComplete : Prop :=
  (∀ (a : Agent) (v : Word) (s : State), alive s = true → mayAccess a = true →
      exec (.qmgrDoorbellWrite a v) s = .next (doorbellWrite v.toNat s))
  ∧ (∀ (a : Agent) (q r : Nat) (v : Word) (s : State), alive s = true → mayAccess a = true → q < 16384 → r < 32 → r % 4 = 0 →
      pairLow (Reg.QMGR_QCFG q + r) = none →
      exec (.queueCfgWrite a (Reg.QMGR_QCFG q + r) v) s = .next (queueRegWrite a q r v.toNat s))
  ∧ (∀ (a : Agent) (q r : Nat) (v : Word) (s : State), alive s = true → mayAccess a = true → q < 16384 → r < 32 → r % 4 = 0 →
      pairLow (Reg.QMGR_QCFG q + r) = some (Reg.QMGR_QCFG q + r) →
      exec (.queueCfgWrite a (Reg.QMGR_QCFG q + r) v) s = .next (queueRegWrite a q r
        (v.toNat + 2 ^ 32 * highHeld s (Reg.QMGR_QCFG q + r)) (heldCleared s (Reg.QMGR_QCFG q + r))))
  ∧ (∀ (a : Agent) (c : Nat) (s : State), alive s = true → mayAccess a = true → c < 64 →
      exec (.ctxReset a c) s = .next (ctxResetWrite c s))

/-- Configuration registers. A MEM_CTX register of a context that is idle takes a value that keeps the shares apart (R141), a
KVM one a value its region can hold (R175), a CTL one a value its loops can run with (R277), a ring port's one that its state
allows (R311), and CTL_COMMIT is Cowslip's. Each is refused with its event otherwise. Rows whose completion is stated here:
MEM_CTX_WRITE (R141), KVM_CTX_WRITE (R175), CTL_CFG_WRITE (R277), CTL_COMMIT (R274), RING_CFG_WRITE (R311). -/
def Obligations.ConfigRowsComplete : Prop :=
  (∀ (a : Agent) (off c : Nat) (v : Word) (s : State), alive s = true → mayAccess a = true → off % 4 = 0 → off / 0x100000 = 0x0A →
      memCtxOf (off % 0x100000) = some c →
      (pairLow off = none → exec (.memCtxWrite a off v) s = .next (memCtxStore c off v.toNat s))
      ∧ (pairLow off = some off → exec (.memCtxWrite a off v) s
        = .next (memCtxStore c off (v.toNat + 2 ^ 32 * highHeld s off) (heldCleared s off))))
  ∧ (∀ (a : Agent) (off c : Nat) (v : Word) (s : State), alive s = true → mayAccess a = true → off % 4 = 0 → off / 0x100000 = 0x08 →
      kvmCtxOf (off % 0x100000) = some c →
      (pairLow off = none → exec (.kvmCtxWrite a off v) s = .next (kvmCtxStore c off v.toNat s))
      ∧ (pairLow off = some off → exec (.kvmCtxWrite a off v) s
        = .next (kvmCtxStore c off (v.toNat + 2 ^ 32 * highHeld s off) (heldCleared s off))))
  ∧ (∀ (a : Agent) (off : Nat) (v : Word) (s : State), alive s = true → mayAccess a = true → off % 4 = 0 → ctlCfgReg off = true →
      (pairLow off = none → exec (.ctlCfgWrite a off v) s
        = .next (if ctlCfgOk s (storeBoth off v.toNat s) off then storeBoth off v.toNat s else ctlRefused off s))
      ∧ (pairLow off = some off → exec (.ctlCfgWrite a off v) s
        = .next (ctlSlotWrite a off (v.toNat + 2 ^ 32 * highHeld s off) (heldCleared s off))))
  ∧ (∀ (v : Word) (s : State), alive s = true → exec (.ctlCommit .cowslip v) s = .next (commitWrite (v.toNat % 4) s))
  ∧ (∀ (a : Agent) (v : Word) (s : State), alive s = true → mayAccess a = true → a ≠ .cowslip →
      exec (.ctlCommit a v) s = .next (ctlRefused Reg.CTL_COMMIT s))
  ∧ (∀ (a : Agent) (off p : Nat) (v : Word) (s : State), alive s = true → mayAccess a = true → off % 4 = 0 → ringCfgPort off = some p →
      pairLow off = none → exec (.ringCfgWrite a off v) s = .next (ringCfgStore p off v.toNat s))

/-- R317 and the other registers of time, power and safety: Harebell sets TIME before ACCEPTING; it alone writes the time and
power configuration, with sound values; Cowslip alone requests the safe state, writes STO and serves the watchdog. Rows whose
completion is stated here: TIME_SET (R317), TIME_CFG_WRITE (R337), PWR_CFG_WRITE (R487), SAFE_REQ_REQ (R410), SAFE_REQ_STO
(R414), SAFE_WDT_SERVE (R410), MEM_DBG_ADDR_WRITE (R595). -/
def Obligations.AgentRowsComplete : Prop :=
  (∀ (v : DWord) (s : State), alive s = true → fbit s Reg.QMGR_STATUS_ACCEPTING = false →
      exec (.timeSet .harebell v) s = .next (setTime s v.toNat))
  ∧ (∀ (a : Agent) (off : Nat) (v : Word) (s : State), alive s = true → timeCfgReg off = true →
      exec (.timeCfgWrite a off v) s = .next (if a = .harebell ∧ timeCfgOk s off v.toNat = true
        then timeCfgApply off (rwStore s off v.toNat) else raise s 0x5008 timeIsland (regData off)))
  ∧ (∀ (a : Agent) (off : Nat) (v : Word) (s : State), alive s = true → mayAccess a = true → off = Reg.PWR_CFG ∨ off = Reg.PWR_CAP →
      exec (.pwrCfgWrite a off v) s = .next (if a = .harebell ∧ (if off = Reg.PWR_CFG then pwrCfgOk v.toNat else pwrCapOk v.toNat) = true
        then rwStore s off v.toNat else raise s 0x900C powerIsland (regData off)))
  ∧ (∀ (k : Nat) (s : State), alive s = true → exec (.safeReqReq .cowslip k) s = .next (safeBoth (k % 256) s))
  ∧ (∀ s : State, alive s = true → exec (.safeReqSto .cowslip) s = .next (stoWrite s))
  ∧ (∀ s : State, alive s = true →
      exec (.safeWdtServe .cowslip 0x5AFE0001) s = .next (modSafety s (fun x => { x with served := s.time })))
  ∧ (∀ (k : Word) (s : State), alive s = true → k ≠ 0x5AFE0001 → exec (.safeWdtServe .cowslip k) s = .next s)
  ∧ (∀ (a : Agent) (v : Word) (s : State), alive s = true → a = .runtime ∨ a = .management →
      exec (.memDbgAddrWrite a v) s = .next (dbgAddrWrite a (v.toNat + 2 ^ 32 * highHeld s Reg.MEM_DBG_ADDR)
        (rwStore (heldCleared s Reg.MEM_DBG_ADDR) (Reg.MEM_DBG_ADDR + 4)
          ((v.toNat + 2 ^ 32 * highHeld s Reg.MEM_DBG_ADDR) / 2 ^ 32))))

/-- PCIe and memory upkeep. The indirect accesses and the inbound window act for every agent of R34; an inbound request is
served outside DROWSE; a change of the link changes PCIE_STATUS, and raises 0xA101 where LINK_UP changes; a debug read
completes; a scrub step reads a low-power address; the hour ends the counts of corrected errors. Rows whose completion is stated
here: PCIE_INBOUND_WRITE (R567), PCIE_CFG_READ (R566), PCIE_CFG_WRITE (R566), PCIE_MEM_READ (R566), PCIE_MEM_WRITE (R566),
PCIE_INBOUND_REQUEST (R566), PCIE_LINK_CHANGE (R568), DEBUG_READ_COMPLETE (R595), SCRUB_PASS_READ (R140), CORR_HOUR_ROLL (R445).
-/
def Obligations.PcieRowsComplete : Prop :=
  (∀ (a : Agent) (v : DWord) (s : State), alive s = true → mayAccess a = true →
      exec (.pcieInboundWrite a v) s = .next (inboundWrite v.toNat s))
  ∧ (∀ (a : Agent) (p : PcieCompletion) (s : State), alive s = true → mayAccess a = true →
      exec (.pcieCfgRead a p) s = .next (keepData Reg.PCIE_CFG_DATA (pcieCfgRead p s)))
  ∧ (∀ (a : Agent) (v : Word) (p : PcieCompletion) (s : State), alive s = true → mayAccess a = true →
      exec (.pcieCfgWrite a v p) s = .next (pcieCfgWrite v.toNat p s))
  ∧ (∀ (a : Agent) (p : PcieCompletion) (s : State), alive s = true → mayAccess a = true →
      exec (.pcieMemRead a p) s = .next (keepData Reg.PCIE_MEM_DATA (pcieMemRead p s)))
  ∧ (∀ (a : Agent) (v : Word) (p : PcieCompletion) (s : State), alive s = true → mayAccess a = true →
      exec (.pcieMemWrite a v p) s = .next (pcieMemWrite v.toNat p s))
  ∧ (∀ (r : PcieRequest) (s : State), alive s = true → inDrowse s = false → phaseUp s 5 = true →
      exec (.pcieInboundRequest r) s = .next (inboundRequest r s))
  ∧ (∀ (k w : Nat) (s : State), alive s = true → inDrowse s = false → phaseUp s 5 = true → 1 ≤ k → k ≤ fget s Reg.PCIE_CFG_MAX_SPEED → w ∈ [1, 2, 4, 8] →
      ∃ u, u = setRegWord s Reg.PCIE_STATUS (w * 0x100 + k * 4 + 1)
        ∧ exec (.pcieLinkChange true k w) s = .next (if fbit s Reg.PCIE_STATUS_LINK_UP = true then u
          else raise u 0xA101 pcieIsland (u8 (bits (w * 0x100 + k * 4 + 1) 4 2) ++ u8 (bits (w * 0x100 + k * 4 + 1) 11 8))))
  ∧ (∀ (k w : Nat) (s : State), alive s = true →
      exec (.pcieLinkChange false k w) s = .next (if fbit s Reg.PCIE_STATUS_LINK_UP = false then setRegWord s Reg.PCIE_STATUS 0
        else raise (setRegWord s Reg.PCIE_STATUS 0) 0xA101 pcieIsland (u8 0 ++ u8 0)))
  ∧ (∀ s : State, alive s = true → exec .debugReadComplete s = .next (dbgFinish s))
  ∧ (∀ (a : Nat) (r : ScrubResult) (s : State), alive s = true → isLp a = true → fbit s Reg.MEM_SCRUB_EN = true →
      exec (.scrubPassRead a r) s = .next (scrubRead a r s))
  ∧ (∀ s : State, alive s = true → exec .corrHourRoll s = .next (forRange 12 (fun k s =>
      fset (setStackLog (if corrDue s k then corrRaise k s else s) k
        { stackLog (if corrDue s k then corrRaise k s else s) k with said := false }) (Reg.MEM_LP_ECC_CORR_HOUR k) 0) s))

/-! ### Frames -/

/-- What a translated store changes: a store to a virtual range changes the bytes of the pieces that the range translates to,
and no other byte of memory, and nothing else of the state but the marks of unreadable units and the old page-table entries that
tiles may still use; so does the result of a command. -/
def Obligations.StoresTouchTheirPieces : Prop :=
  (∀ (s t : State) (c va : Nat) (bs : List Byte) (ps : List (Nat × Nat)), Sound s → vaRange s c va bs.length .write = .ok ps →
      vaWrite s c va bs = .ok t →
      t = { s with mem := t.mem, uncorr := t.uncorr, stale := t.stale }
      ∧ ∀ a : Nat, (∀ p ∈ ps, a < p.1 ∨ p.1 + p.2 ≤ a) → memByte t a = memByte s a)
  ∧ (∀ (s t : State) (q va : Nat) (bs : List Byte) (ps : List (Nat × Nat)), Sound s → opPieces s q va bs.length .write = .ok ps →
      opWrite s q va bs = .ok t →
      t = { s with mem := t.mem, uncorr := t.uncorr, stale := t.stale }
      ∧ ∀ a : Nat, (∀ p ∈ ps, a < p.1 ∨ p.1 + p.2 ≤ a) → memByte t a = memByte s a)

/-- R44: the frame of a scalar integer instruction and of a branch. They change no byte of memory, no other thread, no queue and
no context; of their own thread's registers only the destination changes, and a branch changes none; of the registers of the
window only the tile's count of issued instructions and the counters of corrected errors change, the latter by the errors of the
fetch (log entry 65), which may raise events. -/
def Obligations.ScalarRegisterFrame : Prop :=
  (∀ (tile t w f rd rs1 rs2 : Nat) (imm : DWord) (s u : State), Sound s → tile < 48 → t < 128 → mayIssue s tile t = true →
      fetchWord s tile t = .ok w → bits w 31 26 ≠ 0x3F → storeWf (fun _ => (0 : DWord)) (thread s tile t).regs = true →
      exec (.scalarInstruction tile t (.int f rd rs1 rs2 imm)) s = .next u →
      memorySame s u ∧ u.queues = s.queues ∧ u.ctxs = s.ctxs ∧ u.units = s.units
        ∧ u.tansy = { s.tansy with raised := u.tansy.raised }
        ∧ (∀ j k : Nat, j < 48 → k < 128 → (j, k) ≠ (tile, t) → thread u j k = thread s j k)
        ∧ (∀ r : Nat, r ≠ rd % 32 → xreg (thread u tile t) r = xreg (thread s tile t) r)
        ∧ (∀ off : Nat, off ≠ Reg.TILE_PERF tile 1 → off ≠ Reg.TILE_PERF tile 1 + 4 → corrCounter off = false →
            regWord u off = regWord s off))
  ∧ (∀ (tile t w f rs1 rs2 : Nat) (imm : DWord) (s u : State), Sound s → tile < 48 → t < 128 → mayIssue s tile t = true →
      fetchWord s tile t = .ok w → bits w 31 26 ≠ 0x3F →
      exec (.scalarInstruction tile t (.branch f rs1 rs2 imm 0)) s = .next u →
      memorySame s u ∧ u.queues = s.queues ∧ u.ctxs = s.ctxs ∧ u.units = s.units
        ∧ u.tansy = { s.tansy with raised := u.tansy.raised }
        ∧ (∀ j k : Nat, j < 48 → k < 128 → (j, k) ≠ (tile, t) → thread u j k = thread s j k)
        ∧ (thread u tile t).regs = (thread s tile t).regs
        ∧ (∀ off : Nat, off ≠ Reg.TILE_PERF tile 1 → off ≠ Reg.TILE_PERF tile 1 + 4 → corrCounter off = false →
            regWord u off = regWord s off))

/-- R44: the frame of a scalar store that completes. It changes the bytes of the pieces its address translates to and no other
byte, no other thread and no register of its own thread. -/
def Obligations.ScalarStoreFrame : Prop :=
  ∀ (tile t w size rs1 rs2 va : Nat) (off : DWord) (bs : List Byte) (ps : List (Nat × Nat)) (s v u : State), Sound s → tile < 48 →
    t < 128 → mayIssue s tile t = true → fetchWord s tile t = .ok w → bits w 31 26 ≠ 0x3F → size < 4 →
    va = (xreg (thread s tile t) (rs1 % 32) + off).toNat → va % 2 ^ size = 0 →
    bs = leBytes (2 ^ size) (xreg (thread s tile t) (rs2 % 32)).toNat →
    vaRange (countIssue s tile t) (thread s tile t).ctx va (2 ^ size) .write = .ok ps →
    vaWrite (countIssue s tile t) (thread s tile t).ctx va bs = .ok v →
    exec (.scalarInstruction tile t (.store size rs1 rs2 off)) s = .next u →
    (∀ a : Nat, (∀ p ∈ ps, a < p.1 ∨ p.1 + p.2 ≤ a) → memByte u a = memByte s a)
      ∧ (∀ j k : Nat, j < 48 → k < 128 → (j, k) ≠ (tile, t) → thread u j k = thread s j k)
      ∧ (thread u tile t).regs = (thread s tile t).regs ∧ u.queues = s.queues ∧ u.ctxs = s.ctxs ∧ u.units = s.units

/-- The frame of a completion, and of the rows that assign and release threads. A completion changes its own command and nothing
else; assigning or releasing a thread changes that thread, or raises its event, and nothing else. -/
def Obligations.CompletionFrame : Prop :=
  (∀ (s : State) (q n st d : Nat), Sound s →
      completeCmd s q n st d = { s with queues := (completeCmd s q n st d).queues }
      ∧ (∀ j : Nat, j ≠ q → queue (completeCmd s q n st d) j = queue s j)
      ∧ (∀ m : Nat, m ≠ n → findCmd (completeCmd s q n st d) q m = findCmd s q m))
  ∧ (∀ (a : Agent) (tile t c : Nat) (s u : State), Sound s → alive s = true → tile < 48 → t < 128 →
      exec (.tileThrAssign a tile t c) s = .next u ∨ exec (.tileThrRelease a tile t c) s = .next u →
      u = { s with threads := u.threads, tansy := u.tansy }
      ∧ ∀ j k : Nat, j < 48 → k < 128 → (j, k) ≠ (tile, t) → thread u j k = thread s j k)
end

