-- ==== Sys2Proof/Laws/Answers.lean ====
section
/-! SUPPORT. Every command's meaning answers a next state. -/

namespace Sys2Proof.Machine

/-- The outcome is a next state. -/
def Answers (o : Out) : Prop := ∃ t, o = .next t

theorem answers_next (t : State) : Answers (.next t) := ⟨t, rfl⟩

theorem answers_whenAlive {s : State} {f : State → Out} (h : ∀ s, Answers (f s)) : Answers (whenAlive s f) := by
  unfold whenAlive
  split
  · exact h s
  · exact answers_next s

theorem answers_whenFed {k : Nat} {s : State} {f : State → Out} (h : ∀ s, Answers (f s)) : Answers (whenFed k s f) := by
  unfold whenFed
  refine answers_whenAlive fun s => ?_
  split
  · exact h s
  · exact answers_next s

theorem answers_runEngine (op q n : Nat) (f : QCmd → State → Verdict) (s : State) : Answers (runEngine op q n f s) := by
  unfold runEngine
  repeat' (first | exact answers_next _ | split)

theorem answers_regRow (a0 : Agent) (a1 : Nat) (a2 : Nat) (s : State) : Answers (regRow a0 a1 a2 s) := by
  unfold regRow
  repeat' (first | exact answers_next _ | refine answers_whenAlive fun s => ?_ | split | intro _)

theorem answers_regRowIf (a0 : Bool) (a1 : Agent) (a2 : Nat) (a3 : Nat) (s : State) : Answers (regRowIf a0 a1 a2 a3 s) := by
  unfold regRowIf
  repeat' (first | exact answers_next _ | exact answers_regRow .. | split | intro _)

theorem answers_regRow64 (a0 : Agent) (a1 : Nat) (a2 : Nat) (s : State) : Answers (regRow64 a0 a1 a2 s) := by
  unfold regRow64
  repeat' (first | exact answers_next _ | refine answers_whenAlive fun s => ?_)

theorem answers_execPowerOnReset (a0 : Nat) (a1 : Nat) (s : State) : Answers (execPowerOnReset a0 a1 s) := by
  unfold execPowerOnReset
  repeat' (first | exact answers_next _ | ((try lift_lets -underBinder); with_reducible intro x; clear_value x) | split)

theorem answers_execRstNAssert (s : State) : Answers (execRstNAssert s) := by
  unfold execRstNAssert
  repeat' (first | exact answers_next _ | ((try lift_lets -underBinder); with_reducible intro x; clear_value x) | split)

theorem answers_execRstNRelease (a0 : Nat) (a1 : Nat) (s : State) : Answers (execRstNRelease a0 a1 s) := by
  unfold execRstNRelease
  repeat' (first | exact answers_next _ | ((try lift_lets -underBinder); with_reducible intro x; clear_value x) | split)

theorem answers_execBootDone (s : State) : Answers (execBootDone s) := by
  unfold execBootDone
  repeat' (first | exact answers_next _ | refine answers_whenAlive fun s => ?_ | split | intro _)

theorem answers_execTrialBootTimeout (a0 : Nat) (s : State) : Answers (execTrialBootTimeout a0 s) := by
  unfold execTrialBootTimeout
  repeat' (first | exact answers_next _ | refine answers_whenAlive fun s => ?_ | ((try lift_lets -underBinder); with_reducible intro x; clear_value x) | split)

theorem answers_execIdentityTreeRebuild (s : State) : Answers (execIdentityTreeRebuild s) := by
  unfold execIdentityTreeRebuild
  repeat' (first | exact answers_next _ | refine answers_whenAlive fun s => ?_ | split | intro _)

theorem answers_execWakeNLow (a0 : Nat) (s : State) : Answers (execWakeNLow a0 s) := by
  unfold execWakeNLow
  repeat' (first | exact answers_next _)

theorem answers_execWakeAfterMsExpiry (a0 : Nat) (s : State) : Answers (execWakeAfterMsExpiry a0 s) := by
  unfold execWakeAfterMsExpiry
  repeat' (first | exact answers_next _ | split | intro _)

theorem answers_execPresNChange (a0 : Bool) (s : State) : Answers (execPresNChange a0 s) := by
  unfold execPresNChange
  repeat' (first | exact answers_next _ | refine answers_whenAlive fun s => ?_ | ((try lift_lets -underBinder); with_reducible intro x; clear_value x) | split)

theorem answers_execPresTermRemoval (s : State) : Answers (execPresTermRemoval s) := by
  unfold execPresTermRemoval
  repeat' (first | exact answers_next _ | split | intro _)

theorem answers_execVinLow (a0 : Nat) (s : State) : Answers (execVinLow a0 s) := by
  unfold execVinLow
  repeat' (first | exact answers_next _ | split | intro _)

theorem answers_execBusShutoff (s : State) : Answers (execBusShutoff s) := by
  unfold execBusShutoff
  repeat' (first | exact answers_next _ | split | intro _)

theorem answers_execPhaseFault (a0 : Nat) (a1 : PhaseCause) (s : State) : Answers (execPhaseFault a0 a1 s) := by
  unfold execPhaseFault
  repeat' (first | exact answers_next _ | refine answers_whenAlive fun s => ?_ | ((try lift_lets -underBinder); with_reducible intro x; clear_value x) | split)

theorem answers_execPowerSample (a0 : Nat) (a1 : List Nat) (a2 : Nat) (s : State) : Answers (execPowerSample a0 a1 a2 s) := by
  unfold execPowerSample
  repeat' (first | exact answers_next _ | refine answers_whenAlive fun s => ?_)

theorem answers_execBoostStep (s : State) : Answers (execBoostStep s) := by
  unfold execBoostStep
  repeat' (first | exact answers_next _ | split | intro _)

theorem answers_execRailRampDone (s : State) : Answers (execRailRampDone s) := by
  unfold execRailRampDone
  repeat' (first | exact answers_next _ | ((try lift_lets -underBinder); with_reducible intro x; clear_value x) | split)

theorem answers_execPowerMessageReceive (a0 : Nat) (a1 : Nat) (a2 : Nat) (s : State) : Answers (execPowerMessageReceive a0 a1 a2 s) := by
  unfold execPowerMessageReceive
  repeat' (first | exact answers_next _ | ((try lift_lets -underBinder); with_reducible intro x; clear_value x) | split)

theorem answers_execJobShareAdopt (s : State) : Answers (execJobShareAdopt s) := by
  unfold execJobShareAdopt
  repeat' (first | exact answers_next _ | split | intro _)

theorem answers_execThermalScan (a0 : List Nat) (s : State) : Answers (execThermalScan a0 s) := by
  unfold execThermalScan
  repeat' (first | exact answers_next _ | refine answers_whenAlive fun s => ?_)

theorem answers_execThermalTrip (a0 : Nat) (s : State) : Answers (execThermalTrip a0 s) := by
  unfold execThermalTrip
  repeat' (first | exact answers_next _ | split | intro _)

theorem answers_execThermalShutdown (a0 : Nat) (s : State) : Answers (execThermalShutdown a0 s) := by
  unfold execThermalShutdown
  repeat' (first | exact answers_next _ | refine answers_whenAlive fun s => ?_ | split | intro _)

theorem answers_execCoolantSample (a0 : Nat) (a1 : Nat) (s : State) : Answers (execCoolantSample a0 a1 s) := by
  unfold execCoolantSample
  repeat' (first | exact answers_next _ | refine answers_whenAlive fun s => ?_)

theorem answers_execTriggerFire (a0 : Nat) (a1 : Nat) (s : State) : Answers (execTriggerFire a0 a1 s) := by
  unfold execTriggerFire
  repeat' (first | exact answers_next _ | refine answers_whenAlive fun s => ?_ | ((try lift_lets -underBinder); with_reducible intro x; clear_value x) | split)

theorem answers_execRingDeliverCopy (a0 : Nat) (s : State) : Answers (execRingDeliverCopy a0 s) := by
  unfold execRingDeliverCopy
  repeat' (first | exact answers_next _ | ((try lift_lets -underBinder); with_reducible intro x; clear_value x) | split)

theorem answers_execRingFrameReturn (a0 : Nat) (a1 : RingReturn) (s : State) : Answers (execRingFrameReturn a0 a1 s) := by
  unfold execRingFrameReturn
  repeat' (first | exact answers_next _ | split | intro _)

theorem answers_execRingFrameOutcome (a0 : Nat) (a1 : RingOutcome) (s : State) : Answers (execRingFrameOutcome a0 a1 s) := by
  unfold execRingFrameOutcome
  repeat' (first | exact answers_next _ | split | intro _)

theorem answers_execRingLinkChange (a0 : Nat) (a1 : Bool) (a2 : Bool) (s : State) : Answers (execRingLinkChange a0 a1 a2 s) := by
  unfold execRingLinkChange
  repeat' (first | exact answers_next _ | ((try lift_lets -underBinder); with_reducible intro x; clear_value x) | split)

theorem answers_execRingDiscoverReturn (a0 : Nat) (a1 : DiscoverReturn) (s : State) : Answers (execRingDiscoverReturn a0 a1 s) := by
  unfold execRingDiscoverReturn
  repeat' (first | exact answers_next _ | ((try lift_lets -underBinder); with_reducible intro x; clear_value x) | split)

theorem answers_execRingLayoutReturn (a0 : Nat) (s : State) : Answers (execRingLayoutReturn a0 s) := by
  unfold execRingLayoutReturn
  repeat' (first | exact answers_next _ | ((try lift_lets -underBinder); with_reducible intro x; clear_value x) | split)

theorem answers_execFrameRelease (a0 : Nat) (s : State) : Answers (execFrameRelease a0 s) := by
  unfold execFrameRelease
  repeat' (first | exact answers_next _ | refine answers_whenAlive fun s => ?_ | split | intro _)

theorem answers_execPreclear (a0 : Nat) (s : State) : Answers (execPreclear a0 s) := by
  unfold execPreclear
  repeat' (first | exact answers_next _ | refine answers_whenAlive fun s => ?_ | ((try lift_lets -underBinder); with_reducible intro x; clear_value x) | split)

theorem answers_execPreclearLift (a0 : Nat) (s : State) : Answers (execPreclearLift a0 s) := by
  unfold execPreclearLift
  repeat' (first | exact answers_next _ | refine answers_whenAlive fun s => ?_ | split | intro _)

theorem answers_execSliceEnd (a0 : Nat) (s : State) : Answers (execSliceEnd a0 s) := by
  unfold execSliceEnd
  repeat' (first | exact answers_next _ | refine answers_whenAlive fun s => ?_ | ((try lift_lets -underBinder); with_reducible intro x; clear_value x) | split)

theorem answers_execNpForced (a0 : Nat) (s : State) : Answers (execNpForced a0 s) := by
  unfold execNpForced
  repeat' (first | exact answers_next _ | refine answers_whenAlive fun s => ?_ | split | intro _)

theorem answers_execGoldenFrameStart (s : State) : Answers (execGoldenFrameStart s) := by
  unfold execGoldenFrameStart
  repeat' (first | exact answers_next _ | refine answers_whenAlive fun s => ?_ | ((try lift_lets -underBinder); with_reducible intro x; clear_value x) | split)

theorem answers_execGoldenOverdue (s : State) : Answers (execGoldenOverdue s) := by
  unfold execGoldenOverdue
  repeat' (first | exact answers_next _ | refine answers_whenAlive fun s => ?_ | split | intro _)

theorem answers_execCommandStart (a0 : Nat) (s : State) : Answers (execCommandStart a0 s) := by
  unfold execCommandStart
  repeat' (first | exact answers_next _ | split | intro _)

theorem answers_execReplyPost (a0 : Nat) (s : State) : Answers (execReplyPost a0 s) := by
  unfold execReplyPost
  repeat' (first | exact answers_next _ | split | intro _)

theorem answers_execFenceTimeout (a0 : Nat) (s : State) : Answers (execFenceTimeout a0 s) := by
  unfold execFenceTimeout
  repeat' (first | exact answers_next _ | ((try lift_lets -underBinder); with_reducible intro x; clear_value x) | split)

theorem answers_execTeardownComplete (a0 : Nat) (s : State) : Answers (execTeardownComplete a0 s) := by
  unfold execTeardownComplete
  repeat' (first | exact answers_next _ | split | intro _)

theorem answers_execKvRegionInitDone (a0 : Nat) (s : State) : Answers (execKvRegionInitDone a0 s) := by
  unfold execKvRegionInitDone
  repeat' (first | exact answers_next _ | split | intro _)

theorem answers_execScalarInstruction (a0 : Nat) (a1 : Nat) (a2 : ScalarOp) (s : State) : Answers (execScalarInstruction a0 a1 a2 s) := by
  unfold execScalarInstruction
  repeat' (first | exact answers_next _ | ((try lift_lets -underBinder); with_reducible intro x; clear_value x) | split)

theorem answers_execHalt (a0 : Nat) (a1 : Nat) (s : State) : Answers (execHalt a0 a1 s) := by
  unfold execHalt
  repeat' (first | exact answers_next _ | split | intro _)

theorem answers_execUcmd (a0 : Nat) (a1 : Nat) (a2 : UnitOp) (s : State) : Answers (execUcmd a0 a1 a2 s) := by
  unfold execUcmd
  repeat' (first | exact answers_next _ | ((try lift_lets -underBinder); with_reducible intro x; clear_value x) | split)

theorem answers_execUnitCommandStart (a0 : Nat) (a1 : Nat) (s : State) : Answers (execUnitCommandStart a0 a1 s) := by
  unfold execUnitCommandStart
  repeat' (first | exact answers_next _ | ((try lift_lets -underBinder); with_reducible intro x; clear_value x) | split)

theorem answers_execUnitCommandComplete (a0 : Nat) (a1 : Nat) (s : State) : Answers (execUnitCommandComplete a0 a1 s) := by
  unfold execUnitCommandComplete
  repeat' (first | exact answers_next _ | ((try lift_lets -underBinder); with_reducible intro x; clear_value x) | split)

theorem answers_execStepClose (a0 : Nat) (a1 : Nat) (a2 : Nat) (a3 : Option Nat) (s : State) : Answers (execStepClose a0 a1 a2 a3 s) := by
  unfold execStepClose
  repeat' (first | exact answers_next _ | split | intro _)

theorem answers_execTwait (a0 : Nat) (a1 : Nat) (s : State) : Answers (execTwait a0 a1 s) := by
  unfold execTwait
  repeat' (first | exact answers_next _ | ((try lift_lets -underBinder); with_reducible intro x; clear_value x) | split)

theorem answers_execLevel (a0 : Nat) (a1 : Nat) (s : State) : Answers (execLevel a0 a1 s) := by
  unfold execLevel
  repeat' (first | exact answers_next _ | ((try lift_lets -underBinder); with_reducible intro x; clear_value x) | split)

theorem answers_execDbell (a0 : Nat) (a1 : Nat) (s : State) : Answers (execDbell a0 a1 s) := by
  unfold execDbell
  repeat' (first | exact answers_next _)

theorem answers_execQwait (a0 : Nat) (a1 : Nat) (s : State) : Answers (execQwait a0 a1 s) := by
  unfold execQwait
  repeat' (first | exact answers_next _ | ((try lift_lets -underBinder); with_reducible intro x; clear_value x) | split)

theorem answers_execNpenter (a0 : Nat) (a1 : Nat) (s : State) : Answers (execNpenter a0 a1 s) := by
  unfold execNpenter
  repeat' (first | exact answers_next _ | split | intro _)

theorem answers_execNpexit (a0 : Nat) (a1 : Nat) (s : State) : Answers (execNpexit a0 a1 s) := by
  unfold execNpexit
  repeat' (first | exact answers_next _ | split | intro _)

theorem answers_execJbar (a0 : Nat) (a1 : Nat) (s : State) : Answers (execJbar a0 a1 s) := by
  unfold execJbar
  repeat' (first | exact answers_next _ | split | intro _)

theorem answers_execBarrierArrival (a0 : Nat) (a1 : Nat) (s : State) : Answers (execBarrierArrival a0 a1 s) := by
  unfold execBarrierArrival
  repeat' (first | exact answers_next _ | split | intro _)

theorem answers_execLbar (a0 : Nat) (a1 : Nat) (s : State) : Answers (execLbar a0 a1 s) := by
  unfold execLbar
  repeat' (first | exact answers_next _)

theorem answers_execTnow (a0 : Nat) (a1 : Nat) (s : State) : Answers (execTnow a0 a1 s) := by
  unfold execTnow
  repeat' (first | exact answers_next _)

theorem answers_execCwld (a0 : Nat) (a1 : Nat) (a2 : Word) (a3 : PcieCompletion) (s : State) : Answers (execCwld a0 a1 a2 a3 s) := by
  unfold execCwld
  repeat' (first | exact answers_next _ | ((try lift_lets -underBinder); with_reducible intro x; clear_value x) | split)

theorem answers_execCwst (a0 : Nat) (a1 : Nat) (a2 : PcieCompletion) (s : State) : Answers (execCwst a0 a1 a2 s) := by
  unfold execCwst
  repeat' (first | exact answers_next _ | ((try lift_lets -underBinder); with_reducible intro x; clear_value x) | split)

theorem answers_execKernelLaunch (a0 : Nat) (a1 : Nat) (s : State) : Answers (execKernelLaunch a0 a1 s) := by
  unfold execKernelLaunch
  repeat' (first | exact answers_next _ | exact answers_runEngine ..)

theorem answers_execShareZero (a0 : Nat) (a1 : Nat) (s : State) : Answers (execShareZero a0 a1 s) := by
  unfold execShareZero
  repeat' (first | exact answers_next _ | exact answers_runEngine ..)

theorem answers_execPerfSnapshot (a0 : Nat) (a1 : Nat) (s : State) : Answers (execPerfSnapshot a0 a1 s) := by
  unfold execPerfSnapshot
  repeat' (first | exact answers_next _ | exact answers_runEngine ..)

theorem answers_execSeqCreate (a0 : Nat) (a1 : Nat) (s : State) : Answers (execSeqCreate a0 a1 s) := by
  unfold execSeqCreate
  repeat' (first | exact answers_next _ | exact answers_runEngine ..)

theorem answers_execSeqFree (a0 : Nat) (a1 : Nat) (s : State) : Answers (execSeqFree a0 a1 s) := by
  unfold execSeqFree
  repeat' (first | exact answers_next _ | exact answers_runEngine ..)

theorem answers_execSeqFork (a0 : Nat) (a1 : Nat) (s : State) : Answers (execSeqFork a0 a1 s) := by
  unfold execSeqFork
  repeat' (first | exact answers_next _ | exact answers_runEngine ..)

theorem answers_execPrefixMatch (a0 : Nat) (a1 : Nat) (s : State) : Answers (execPrefixMatch a0 a1 s) := by
  unfold execPrefixMatch
  repeat' (first | exact answers_next _ | exact answers_runEngine ..)

theorem answers_execSeqExtend (a0 : Nat) (a1 : Nat) (s : State) : Answers (execSeqExtend a0 a1 s) := by
  unfold execSeqExtend
  repeat' (first | exact answers_next _ | exact answers_runEngine ..)

theorem answers_execSeqTruncate (a0 : Nat) (a1 : Nat) (s : State) : Answers (execSeqTruncate a0 a1 s) := by
  unfold execSeqTruncate
  repeat' (first | exact answers_next _ | exact answers_runEngine ..)

theorem answers_execSeqTrim (a0 : Nat) (a1 : Nat) (s : State) : Answers (execSeqTrim a0 a1 s) := by
  unfold execSeqTrim
  repeat' (first | exact answers_next _ | exact answers_runEngine ..)

theorem answers_execKvWrite (a0 : Nat) (a1 : Nat) (s : State) : Answers (execKvWrite a0 a1 s) := by
  unfold execKvWrite
  repeat' (first | exact answers_next _ | exact answers_runEngine ..)

theorem answers_execAttend (a0 : Nat) (a1 : Nat) (s : State) : Answers (execAttend a0 a1 s) := by
  unfold execAttend
  repeat' (first | exact answers_next _ | exact answers_runEngine ..)

theorem answers_execStepRetire (a0 : Nat) (a1 : Nat) (s : State) : Answers (execStepRetire a0 a1 s) := by
  unfold execStepRetire
  repeat' (first | exact answers_next _ | exact answers_runEngine ..)

theorem answers_execMigrate (a0 : Nat) (a1 : Nat) (s : State) : Answers (execMigrate a0 a1 s) := by
  unfold execMigrate
  repeat' (first | exact answers_next _ | exact answers_runEngine ..)

theorem answers_execCopy (a0 : Nat) (a1 : Nat) (s : State) : Answers (execCopy a0 a1 s) := by
  unfold execCopy
  repeat' (first | exact answers_next _ | exact answers_runEngine ..)

theorem answers_execFill (a0 : Nat) (a1 : Nat) (s : State) : Answers (execFill a0 a1 s) := by
  unfold execFill
  repeat' (first | exact answers_next _ | exact answers_runEngine ..)

theorem answers_execTranslationInvalidate (a0 : Nat) (a1 : Nat) (s : State) : Answers (execTranslationInvalidate a0 a1 s) := by
  unfold execTranslationInvalidate
  repeat' (first | exact answers_next _ | exact answers_runEngine ..)

theorem answers_execMapUpdate (a0 : Nat) (a1 : Nat) (s : State) : Answers (execMapUpdate a0 a1 s) := by
  unfold execMapUpdate
  repeat' (first | exact answers_next _ | exact answers_runEngine ..)

theorem answers_execMapPublish (a0 : Nat) (a1 : Nat) (s : State) : Answers (execMapPublish a0 a1 s) := by
  unfold execMapPublish
  repeat' (first | exact answers_next _ | exact answers_runEngine ..)

theorem answers_execPlanQuery (a0 : Nat) (a1 : Nat) (s : State) : Answers (execPlanQuery a0 a1 s) := by
  unfold execPlanQuery
  repeat' (first | exact answers_next _ | exact answers_runEngine ..)

theorem answers_execPlanCheck (a0 : Nat) (a1 : Nat) (s : State) : Answers (execPlanCheck a0 a1 s) := by
  unfold execPlanCheck
  repeat' (first | exact answers_next _ | exact answers_runEngine ..)

theorem answers_execLibLoad (a0 : Nat) (a1 : Nat) (s : State) : Answers (execLibLoad a0 a1 s) := by
  unfold execLibLoad
  repeat' (first | exact answers_next _ | exact answers_runEngine ..)

theorem answers_execStreamStart (a0 : Nat) (a1 : Nat) (s : State) : Answers (execStreamStart a0 a1 s) := by
  unfold execStreamStart
  repeat' (first | exact answers_next _ | exact answers_runEngine ..)

theorem answers_execStreamStop (a0 : Nat) (a1 : Nat) (s : State) : Answers (execStreamStop a0 a1 s) := by
  unfold execStreamStop
  repeat' (first | exact answers_next _ | exact answers_runEngine ..)

theorem answers_execSampleRead (a0 : Nat) (a1 : Nat) (s : State) : Answers (execSampleRead a0 a1 s) := by
  unfold execSampleRead
  repeat' (first | exact answers_next _ | exact answers_runEngine ..)

theorem answers_execCalibFeed (a0 : Nat) (a1 : Nat) (s : State) : Answers (execCalibFeed a0 a1 s) := by
  unfold execCalibFeed
  repeat' (first | exact answers_next _ | exact answers_runEngine ..)

theorem answers_execCalibSet (a0 : Nat) (a1 : Nat) (s : State) : Answers (execCalibSet a0 a1 s) := by
  unfold execCalibSet
  repeat' (first | exact answers_next _ | exact answers_runEngine ..)

theorem answers_execCalibRead (a0 : Nat) (a1 : Nat) (s : State) : Answers (execCalibRead a0 a1 s) := by
  unfold execCalibRead
  repeat' (first | exact answers_next _ | exact answers_runEngine ..)

theorem answers_execSetWrite (a0 : Nat) (a1 : Nat) (s : State) : Answers (execSetWrite a0 a1 s) := by
  unfold execSetWrite
  repeat' (first | exact answers_next _ | exact answers_runEngine ..)

theorem answers_execSetCommit (a0 : Nat) (a1 : Nat) (s : State) : Answers (execSetCommit a0 a1 s) := by
  unfold execSetCommit
  repeat' (first | exact answers_next _ | exact answers_runEngine ..)

theorem answers_execSetRead (a0 : Nat) (a1 : Nat) (s : State) : Answers (execSetRead a0 a1 s) := by
  unfold execSetRead
  repeat' (first | exact answers_next _ | exact answers_runEngine ..)

theorem answers_execImageHoldTimeout (s : State) : Answers (execImageHoldTimeout s) := by
  unfold execImageHoldTimeout
  repeat' (first | exact answers_next _ | refine answers_whenAlive fun s => ?_ | split | intro _)

theorem answers_execFence (a0 : Nat) (a1 : Nat) (a2 : FenceAnswers) (s : State) : Answers (execFence a0 a1 a2 s) := by
  unfold execFence
  repeat' (first | exact answers_next _ | exact answers_runEngine ..)

theorem answers_execPowerCapSet (a0 : Nat) (a1 : Nat) (s : State) : Answers (execPowerCapSet a0 a1 s) := by
  unfold execPowerCapSet
  repeat' (first | exact answers_next _ | exact answers_runEngine ..)

theorem answers_execPowerModeSet (a0 : Nat) (a1 : Nat) (s : State) : Answers (execPowerModeSet a0 a1 s) := by
  unfold execPowerModeSet
  repeat' (first | exact answers_next _ | exact answers_runEngine ..)

theorem answers_execPowerRead (a0 : Nat) (a1 : Nat) (s : State) : Answers (execPowerRead a0 a1 s) := by
  unfold execPowerRead
  repeat' (first | exact answers_next _ | exact answers_runEngine ..)

theorem answers_execStoreWrite (a0 : Nat) (a1 : Nat) (s : State) : Answers (execStoreWrite a0 a1 s) := by
  unfold execStoreWrite
  repeat' (first | exact answers_next _ | exact answers_runEngine ..)

theorem answers_execStoreVerify (a0 : Nat) (a1 : Nat) (s : State) : Answers (execStoreVerify a0 a1 s) := by
  unfold execStoreVerify
  repeat' (first | exact answers_next _ | exact answers_runEngine ..)

theorem answers_execFwActivate (a0 : Nat) (a1 : Nat) (s : State) : Answers (execFwActivate a0 a1 s) := by
  unfold execFwActivate
  repeat' (first | exact answers_next _ | exact answers_runEngine ..)

theorem answers_execRollbackRaise (a0 : Nat) (a1 : Nat) (s : State) : Answers (execRollbackRaise a0 a1 s) := by
  unfold execRollbackRaise
  repeat' (first | exact answers_next _ | exact answers_runEngine ..)

theorem answers_execAttest (a0 : Nat) (a1 : Nat) (s : State) : Answers (execAttest a0 a1 s) := by
  unfold execAttest
  repeat' (first | exact answers_next _ | exact answers_runEngine ..)

theorem answers_execIdentityRead (a0 : Nat) (a1 : Nat) (s : State) : Answers (execIdentityRead a0 a1 s) := by
  unfold execIdentityRead
  repeat' (first | exact answers_next _ | exact answers_runEngine ..)

theorem answers_execMeasExtend (a0 : Nat) (a1 : Nat) (s : State) : Answers (execMeasExtend a0 a1 s) := by
  unfold execMeasExtend
  repeat' (first | exact answers_next _ | exact answers_runEngine ..)

theorem answers_execWarmReset (a0 : Nat) (a1 : Nat) (a2 : Nat) (s : State) : Answers (execWarmReset a0 a1 a2 s) := by
  unfold execWarmReset
  repeat' (first | exact answers_next _ | exact answers_runEngine ..)

theorem answers_execPowerStateSet (a0 : Nat) (a1 : Nat) (s : State) : Answers (execPowerStateSet a0 a1 s) := by
  unfold execPowerStateSet
  repeat' (first | exact answers_next _ | exact answers_runEngine ..)

theorem answers_execNetSend (a0 : Nat) (a1 : Nat) (s : State) : Answers (execNetSend a0 a1 s) := by
  unfold execNetSend
  repeat' (first | exact answers_next _ | exact answers_runEngine ..)

theorem answers_execRegRead (a0 : Nat) (a1 : Nat) (a2 : List Word) (a3 : List PcieCompletion) (s : State) : Answers (execRegRead a0 a1 a2 a3 s) := by
  unfold execRegRead
  repeat' (first | exact answers_next _ | exact answers_runEngine ..)

theorem answers_execRegWrite (a0 : Nat) (a1 : Nat) (a2 : List PcieCompletion) (s : State) : Answers (execRegWrite a0 a1 a2 s) := by
  unfold execRegWrite
  repeat' (first | exact answers_next _ | exact answers_runEngine ..)

theorem answers_execLogRead (a0 : Nat) (a1 : Nat) (s : State) : Answers (execLogRead a0 a1 s) := by
  unfold execLogRead
  repeat' (first | exact answers_next _ | exact answers_runEngine ..)

theorem answers_execLogFreeze (a0 : Nat) (a1 : Nat) (s : State) : Answers (execLogFreeze a0 a1 s) := by
  unfold execLogFreeze
  repeat' (first | exact answers_next _ | exact answers_runEngine ..)

theorem answers_execLogThaw (a0 : Nat) (a1 : Nat) (s : State) : Answers (execLogThaw a0 a1 s) := by
  unfold execLogThaw
  repeat' (first | exact answers_next _ | exact answers_runEngine ..)

theorem answers_execLogClear (a0 : Nat) (a1 : Nat) (s : State) : Answers (execLogClear a0 a1 s) := by
  unfold execLogClear
  repeat' (first | exact answers_next _ | exact answers_runEngine ..)

theorem answers_execFreezeExpired (s : State) : Answers (execFreezeExpired s) := by
  unfold execFreezeExpired
  repeat' (first | exact answers_next _ | split | intro _)

theorem answers_execLogRecordWrite (s : State) : Answers (execLogRecordWrite s) := by
  unfold execLogRecordWrite
  repeat' (first | exact answers_next _ | split | intro _)

theorem answers_execRecordStaging (s : State) : Answers (execRecordStaging s) := by
  unfold execRecordStaging
  repeat' (first | exact answers_next _ | split | intro _)

theorem answers_execOpSecondsTick (s : State) : Answers (execOpSecondsTick s) := by
  unfold execOpSecondsTick
  repeat' (first | exact answers_next _ | ((try lift_lets -underBinder); with_reducible intro x; clear_value x) | split)

theorem answers_execSafeRead (a0 : Nat) (a1 : Nat) (s : State) : Answers (execSafeRead a0 a1 s) := by
  unfold execSafeRead
  repeat' (first | exact answers_next _ | exact answers_runEngine ..)

theorem answers_execSafeModeSet (a0 : Nat) (a1 : Nat) (s : State) : Answers (execSafeModeSet a0 a1 s) := by
  unfold execSafeModeSet
  repeat' (first | exact answers_next _ | exact answers_runEngine ..)

theorem answers_execSafeStopRequest (a0 : Nat) (a1 : Nat) (s : State) : Answers (execSafeStopRequest a0 a1 s) := by
  unfold execSafeStopRequest
  repeat' (first | exact answers_next _ | exact answers_runEngine ..)

theorem answers_execCheckInput (a0 : Nat) (a1 : Nat) (s : State) : Answers (execCheckInput a0 a1 s) := by
  unfold execCheckInput
  repeat' (first | exact answers_next _ | exact answers_runEngine ..)

theorem answers_execMainOutput (a0 : Nat) (a1 : Nat) (s : State) : Answers (execMainOutput a0 a1 s) := by
  unfold execMainOutput
  repeat' (first | exact answers_next _ | exact answers_runEngine ..)

theorem answers_execThistlePassDone (a0 : List Word) (a1 : Bool) (s : State) : Answers (execThistlePassDone a0 a1 s) := by
  unfold execThistlePassDone
  repeat' (first | exact answers_next _ | refine answers_whenAlive fun s => ?_ | split | intro _)

theorem answers_execComparatorDecision (s : State) : Answers (execComparatorDecision s) := by
  unfold execComparatorDecision
  repeat' (first | exact answers_next _ | refine answers_whenAlive fun s => ?_ | split | intro _)

theorem answers_execCompareDeadline (s : State) : Answers (execCompareDeadline s) := by
  unfold execCompareDeadline
  repeat' (first | exact answers_next _ | refine answers_whenAlive fun s => ?_ | split | intro _)

theorem answers_execVerdictAction (s : State) : Answers (execVerdictAction s) := by
  unfold execVerdictAction
  repeat' (first | exact answers_next _ | refine answers_whenAlive fun s => ?_ | ((try lift_lets -underBinder); with_reducible intro x; clear_value x) | split)

theorem answers_execGoldenFrameCheck (s : State) : Answers (execGoldenFrameCheck s) := by
  unfold execGoldenFrameCheck
  repeat' (first | exact answers_next _ | refine answers_whenAlive fun s => ?_ | ((try lift_lets -underBinder); with_reducible intro x; clear_value x) | split)

theorem answers_execGoldenPassOverdue (s : State) : Answers (execGoldenPassOverdue s) := by
  unfold execGoldenPassOverdue
  repeat' (first | exact answers_next _ | refine answers_whenAlive fun s => ?_ | split | intro _)

theorem answers_execSampleGateClose (a0 : List GateSample) (s : State) : Answers (execSampleGateClose a0 s) := by
  unfold execSampleGateClose
  repeat' (first | exact answers_next _ | refine answers_whenAlive fun s => ?_ | ((try lift_lets -underBinder); with_reducible intro x; clear_value x) | split)

theorem answers_execCowslipFrameTick (s : State) : Answers (execCowslipFrameTick s) := by
  unfold execCowslipFrameTick
  repeat' (first | exact answers_next _ | refine answers_whenAlive fun s => ?_ | split | intro _)

theorem answers_execLockstepMismatch (s : State) : Answers (execLockstepMismatch s) := by
  unfold execLockstepMismatch
  repeat' (first | exact answers_next _ | refine answers_whenAlive fun s => ?_)

theorem answers_execStopDiscrepancy (s : State) : Answers (execStopDiscrepancy s) := by
  unfold execStopDiscrepancy
  repeat' (first | exact answers_next _ | refine answers_whenAlive fun s => ?_ | split | intro _)

theorem answers_execWatchdogExpiry (s : State) : Answers (execWatchdogExpiry s) := by
  unfold execWatchdogExpiry
  repeat' (first | exact answers_next _ | refine answers_whenAlive fun s => ?_ | split | intro _)

theorem answers_execOutputReadbackCheck (a0 : Pattern) (a1 : Pattern) (s : State) : Answers (execOutputReadbackCheck a0 a1 s) := by
  unfold execOutputReadbackCheck
  repeat' (first | exact answers_next _ | refine answers_whenAlive fun s => ?_ | ((try lift_lets -underBinder); with_reducible intro x; clear_value x) | split)

theorem answers_execClockMonitor (a0 : Bool) (a1 : Nat) (s : State) : Answers (execClockMonitor a0 a1 s) := by
  unfold execClockMonitor
  repeat' (first | exact answers_next _ | refine answers_whenAlive fun s => ?_ | split | intro _)

theorem answers_execCowslipDebugHalt (s : State) : Answers (execCowslipDebugHalt s) := by
  unfold execCowslipDebugHalt
  repeat' (first | exact answers_next _ | refine answers_whenAlive fun s => ?_ | split | intro _)

theorem answers_execPostureSettled (s : State) : Answers (execPostureSettled s) := by
  unfold execPostureSettled
  repeat' (first | exact answers_next _ | refine answers_whenAlive fun s => ?_ | split | intro _)

theorem answers_execSafeTimeout (s : State) : Answers (execSafeTimeout s) := by
  unfold execSafeTimeout
  repeat' (first | exact answers_next _ | refine answers_whenAlive fun s => ?_ | split | intro _)

theorem answers_execProofIntervalDue (s : State) : Answers (execProofIntervalDue s) := by
  unfold execProofIntervalDue
  repeat' (first | exact answers_next _ | refine answers_whenAlive fun s => ?_ | split | intro _)

theorem answers_execJobJoin (a0 : Nat) (a1 : Nat) (a2 : List Nat) (a3 : Option (Nat × Nat)) (s : State) : Answers (execJobJoin a0 a1 a2 a3 s) := by
  unfold execJobJoin
  repeat' (first | exact answers_next _ | exact answers_runEngine .. | split | intro _)

theorem answers_execJoinRequestReceive (a0 : Nat) (a1 : JoinRequest) (s : State) : Answers (execJoinRequestReceive a0 a1 s) := by
  unfold execJoinRequestReceive
  repeat' (first | exact answers_next _ | refine answers_whenAlive fun s => ?_ | split | intro _)

theorem answers_execJoinCommitReceive (a0 : Nat) (a1 : Nat) (a2 : Nat) (s : State) : Answers (execJoinCommitReceive a0 a1 a2 s) := by
  unfold execJoinCommitReceive
  repeat' (first | exact answers_next _ | refine answers_whenAlive fun s => ?_ | ((try lift_lets -underBinder); with_reducible intro x; clear_value x) | split)

theorem answers_execJoinTimeout (s : State) : Answers (execJoinTimeout s) := by
  unfold execJoinTimeout
  repeat' (first | exact answers_next _ | refine answers_whenAlive fun s => ?_ | split | intro _)

theorem answers_execJobLeave (a0 : Nat) (a1 : Nat) (s : State) : Answers (execJobLeave a0 a1 s) := by
  unfold execJobLeave
  repeat' (first | exact answers_next _ | exact answers_runEngine ..)

theorem answers_execLossMessageReceive (a0 : Nat) (a1 : LossMessage) (s : State) : Answers (execLossMessageReceive a0 a1 s) := by
  unfold execLossMessageReceive
  repeat' (first | exact answers_next _ | refine answers_whenAlive fun s => ?_ | split | intro _)

theorem answers_execLinkRetrain (a0 : Nat) (a1 : Nat) (s : State) : Answers (execLinkRetrain a0 a1 s) := by
  unfold execLinkRetrain
  repeat' (first | exact answers_next _ | exact answers_runEngine ..)

theorem answers_execLinkRead (a0 : Nat) (a1 : Nat) (s : State) : Answers (execLinkRead a0 a1 s) := by
  unfold execLinkRead
  repeat' (first | exact answers_next _ | exact answers_runEngine ..)

theorem answers_execFlitReplay (a0 : Nat) (a1 : Bool) (s : State) : Answers (execFlitReplay a0 a1 s) := by
  unfold execFlitReplay
  repeat' (first | exact answers_next _ | refine answers_whenAlive fun s => ?_ | ((try lift_lets -underBinder); with_reducible intro x; clear_value x) | split)

theorem answers_execRetrainStart (a0 : Nat) (a1 : RetrainCause) (s : State) : Answers (execRetrainStart a0 a1 s) := by
  unfold execRetrainStart
  repeat' (first | exact answers_next _ | refine answers_whenAlive fun s => ?_ | ((try lift_lets -underBinder); with_reducible intro x; clear_value x) | split)

theorem answers_execRetrainEnd (a0 : Nat) (a1 : Bool) (a2 : Nat) (s : State) : Answers (execRetrainEnd a0 a1 a2 s) := by
  unfold execRetrainEnd
  repeat' (first | exact answers_next _ | refine answers_whenAlive fun s => ?_ | ((try lift_lets -underBinder); with_reducible intro x; clear_value x) | split)

theorem answers_execLanesSilent (a0 : Nat) (s : State) : Answers (execLanesSilent a0 s) := by
  unfold execLanesSilent
  repeat' (first | exact answers_next _ | refine answers_whenAlive fun s => ?_ | split | intro _)

theorem answers_execLinkTrainDone (a0 : Nat) (a1 : Bool) (a2 : Nat) (s : State) : Answers (execLinkTrainDone a0 a1 a2 s) := by
  unfold execLinkTrainDone
  repeat' (first | exact answers_next _ | refine answers_whenAlive fun s => ?_ | ((try lift_lets -underBinder); with_reducible intro x; clear_value x) | split)

theorem answers_execLinkFailedHoldoff (a0 : Nat) (s : State) : Answers (execLinkFailedHoldoff a0 s) := by
  unfold execLinkFailedHoldoff
  repeat' (first | exact answers_next _ | refine answers_whenAlive fun s => ?_ | split | intro _)

theorem answers_execRemoteAccess (a0 : RemoteReq) (a1 : PcieCompletion) (s : State) : Answers (execRemoteAccess a0 a1 s) := by
  unfold execRemoteAccess
  repeat' (first | exact answers_next _ | refine answers_whenAlive fun s => ?_ | split | intro _)

theorem answers_execTimeSetIncr (a0 : Nat) (a1 : Nat) (s : State) : Answers (execTimeSetIncr a0 a1 s) := by
  unfold execTimeSetIncr
  repeat' (first | exact answers_next _ | exact answers_runEngine ..)

theorem answers_execTriggerArm (a0 : Nat) (a1 : Nat) (s : State) : Answers (execTriggerArm a0 a1 s) := by
  unfold execTriggerArm
  repeat' (first | exact answers_next _ | exact answers_runEngine ..)

theorem answers_execTimeRead (a0 : Nat) (a1 : Nat) (s : State) : Answers (execTimeRead a0 a1 s) := by
  unfold execTimeRead
  repeat' (first | exact answers_next _ | exact answers_runEngine ..)

theorem answers_execSyncReceive (a0 : Nat) (a1 : SyncIn) (s : State) : Answers (execSyncReceive a0 a1 s) := by
  unfold execSyncReceive
  repeat' (first | exact answers_next _ | refine answers_whenFed fun s => ?_ | ((try lift_lets -underBinder); with_reducible intro x; clear_value x) | split)

theorem answers_execSyncLost (a0 : Nat) (s : State) : Answers (execSyncLost a0 s) := by
  unfold execSyncLost
  repeat' (first | exact answers_next _ | refine answers_whenAlive fun s => ?_ | ((try lift_lets -underBinder); with_reducible intro x; clear_value x) | split)

theorem answers_execHoldoverEnd (s : State) : Answers (execHoldoverEnd s) := by
  unfold execHoldoverEnd
  repeat' (first | exact answers_next _ | refine answers_whenAlive fun s => ?_ | ((try lift_lets -underBinder); with_reducible intro x; clear_value x) | split)

theorem answers_execDomainReturn (s : State) : Answers (execDomainReturn s) := by
  unfold execDomainReturn
  repeat' (first | exact answers_next _ | refine answers_whenAlive fun s => ?_ | split | intro _)

theorem answers_execSteeringUpdate (s : State) : Answers (execSteeringUpdate s) := by
  unfold execSteeringUpdate
  repeat' (first | exact answers_next _ | refine answers_whenAlive fun s => ?_ | ((try lift_lets -underBinder); with_reducible intro x; clear_value x) | split)

theorem answers_execGateEntryExpiry (a0 : Nat) (s : State) : Answers (execGateEntryExpiry a0 s) := by
  unfold execGateEntryExpiry
  repeat' (first | exact answers_next _ | refine answers_whenFed fun s => ?_ | ((try lift_lets -underBinder); with_reducible intro x; clear_value x) | split)

theorem answers_execNetFrameTransmit (a0 : Nat) (s : State) : Answers (execNetFrameTransmit a0 s) := by
  unfold execNetFrameTransmit
  repeat' (first | exact answers_next _ | refine answers_whenFed fun s => ?_ | ((try lift_lets -underBinder); with_reducible intro x; clear_value x) | split)

theorem answers_execMgmtSubmit (a0 : Nat) (a1 : MgmtFrame) (s : State) : Answers (execMgmtSubmit a0 a1 s) := by
  unfold execMgmtSubmit
  repeat' (first | exact answers_next _ | refine answers_whenAlive fun s => ?_ | split | intro _)

theorem answers_execMgmtPoll (a0 : Nat) (a1 : MgmtFrame) (s : State) : Answers (execMgmtPoll a0 a1 s) := by
  unfold execMgmtPoll
  repeat' (first | exact answers_next _ | refine answers_whenAlive fun s => ?_)

theorem answers_execMgmtFrameRefused (a0 : Nat) (a1 : MgmtFrame) (s : State) : Answers (execMgmtFrameRefused a0 a1 s) := by
  unfold execMgmtFrameRefused
  repeat' (first | exact answers_next _ | split | intro _)

theorem answers_execReplyFrameSend (a0 : Nat) (s : State) : Answers (execReplyFrameSend a0 s) := by
  unfold execReplyFrameSend
  repeat' (first | exact answers_next _ | ((try lift_lets -underBinder); with_reducible intro x; clear_value x) | split)

theorem answers_execReplyResend (a0 : Nat) (s : State) : Answers (execReplyResend a0 s) := by
  unfold execReplyResend
  repeat' (first | exact answers_next _ | ((try lift_lets -underBinder); with_reducible intro x; clear_value x) | split)

theorem answers_execSampleIngress (a0 : Nat) (a1 : SampleIn) (a2 : Nat) (s : State) : Answers (execSampleIngress a0 a1 a2 s) := by
  unfold execSampleIngress
  repeat' (first | exact answers_next _ | refine answers_whenAlive fun s => ?_ | split | intro _)

theorem answers_execFuseRecordRelease (a0 : Nat) (s : State) : Answers (execFuseRecordRelease a0 s) := by
  unfold execFuseRecordRelease
  repeat' (first | exact answers_next _ | refine answers_whenAlive fun s => ?_ | split | intro _)

theorem answers_execFuseReleaseDeadline (a0 : Nat) (s : State) : Answers (execFuseReleaseDeadline a0 s) := by
  unfold execFuseReleaseDeadline
  repeat' (first | exact answers_next _ | refine answers_whenAlive fun s => ?_ | ((try lift_lets -underBinder); with_reducible intro x; clear_value x) | split)

theorem answers_execLoopEnable (a0 : Nat) (a1 : Nat) (s : State) : Answers (execLoopEnable a0 a1 s) := by
  unfold execLoopEnable
  repeat' (first | exact answers_next _ | exact answers_runEngine ..)

theorem answers_execLoopDisable (a0 : Nat) (a1 : Nat) (s : State) : Answers (execLoopDisable a0 a1 s) := by
  unfold execLoopDisable
  repeat' (first | exact answers_next _ | exact answers_runEngine ..)

theorem answers_execCoefWrite (a0 : Nat) (a1 : Nat) (s : State) : Answers (execCoefWrite a0 a1 s) := by
  unfold execCoefWrite
  repeat' (first | exact answers_next _ | exact answers_runEngine ..)

theorem answers_execBankSwap (a0 : Nat) (a1 : Nat) (s : State) : Answers (execBankSwap a0 a1 s) := by
  unfold execBankSwap
  repeat' (first | exact answers_next _ | exact answers_runEngine ..)

theorem answers_execSetpointWrite (a0 : Nat) (a1 : Nat) (s : State) : Answers (execSetpointWrite a0 a1 s) := by
  unfold execSetpointWrite
  repeat' (first | exact answers_next _ | exact answers_runEngine ..)

theorem answers_execTripClear (a0 : Nat) (a1 : Nat) (s : State) : Answers (execTripClear a0 a1 s) := by
  unfold execTripClear
  repeat' (first | exact answers_next _ | exact answers_runEngine ..)

theorem answers_execLoopRead (a0 : Nat) (a1 : Nat) (s : State) : Answers (execLoopRead a0 a1 s) := by
  unfold execLoopRead
  repeat' (first | exact answers_next _ | exact answers_runEngine ..)

theorem answers_execRingPortStart (a0 : Nat) (a1 : Nat) (s : State) : Answers (execRingPortStart a0 a1 s) := by
  unfold execRingPortStart
  repeat' (first | exact answers_next _ | exact answers_runEngine ..)

theorem answers_execRingPortStop (a0 : Nat) (a1 : Nat) (s : State) : Answers (execRingPortStop a0 a1 s) := by
  unfold execRingPortStop
  repeat' (first | exact answers_next _ | exact answers_runEngine ..)

theorem answers_execRingWordWrite (a0 : Nat) (a1 : Nat) (s : State) : Answers (execRingWordWrite a0 a1 s) := by
  unfold execRingWordWrite
  repeat' (first | exact answers_next _ | exact answers_runEngine ..)

theorem answers_execRingSnapshot (a0 : Nat) (a1 : Nat) (s : State) : Answers (execRingSnapshot a0 a1 s) := by
  unfold execRingSnapshot
  repeat' (first | exact answers_next _ | exact answers_runEngine ..)

theorem answers_execTeaselArm (a0 : Nat) (a1 : Nat) (s : State) : Answers (execTeaselArm a0 a1 s) := by
  unfold execTeaselArm
  repeat' (first | exact answers_next _ | exact answers_runEngine ..)

theorem answers_execTeaselRelease (a0 : Nat) (a1 : Nat) (s : State) : Answers (execTeaselRelease a0 a1 s) := by
  unfold execTeaselRelease
  repeat' (first | exact answers_next _ | exact answers_runEngine ..)

theorem answers_execQmgrDoorbellWrite (a0 : Agent) (a1 : Word) (s : State) : Answers (execQmgrDoorbellWrite a0 a1 s) := by
  unfold execQmgrDoorbellWrite
  repeat' (first | exact answers_next _ | exact answers_regRow ..)

theorem answers_execQueueCfgWrite (a0 : Agent) (a1 : Nat) (a2 : Word) (s : State) : Answers (execQueueCfgWrite a0 a1 a2 s) := by
  unfold execQueueCfgWrite
  repeat' (first | exact answers_next _ | exact answers_regRowIf ..)

theorem answers_execCtxReset (a0 : Agent) (a1 : Nat) (s : State) : Answers (execCtxReset a0 a1 s) := by
  unfold execCtxReset
  repeat' (first | exact answers_next _ | exact answers_regRowIf ..)

theorem answers_execTileShareWrite (a0 : Agent) (a1 : Nat) (a2 : Nat) (a3 : Word) (s : State) : Answers (execTileShareWrite a0 a1 a2 a3 s) := by
  unfold execTileShareWrite
  repeat' (first | exact answers_next _ | exact answers_regRowIf ..)

theorem answers_execTileThrAssign (a0 : Agent) (a1 : Nat) (a2 : Nat) (a3 : Nat) (s : State) : Answers (execTileThrAssign a0 a1 a2 a3 s) := by
  unfold execTileThrAssign
  repeat' (first | exact answers_next _ | exact answers_regRowIf ..)

theorem answers_execTileThrRelease (a0 : Agent) (a1 : Nat) (a2 : Nat) (a3 : Nat) (s : State) : Answers (execTileThrRelease a0 a1 a2 a3 s) := by
  unfold execTileThrRelease
  repeat' (first | exact answers_next _ | exact answers_regRowIf ..)

theorem answers_execPerfClear (a0 : Agent) (a1 : Nat) (s : State) : Answers (execPerfClear a0 a1 s) := by
  unfold execPerfClear
  repeat' (first | exact answers_next _ | exact answers_regRowIf ..)

theorem answers_execTileFaultClear (a0 : Agent) (a1 : Nat) (s : State) : Answers (execTileFaultClear a0 a1 s) := by
  unfold execTileFaultClear
  repeat' (first | exact answers_next _ | exact answers_regRowIf ..)

theorem answers_execTileDbgHalt (a0 : Agent) (a1 : Nat) (a2 : Nat) (s : State) : Answers (execTileDbgHalt a0 a1 a2 s) := by
  unfold execTileDbgHalt
  repeat' (first | exact answers_next _ | exact answers_regRowIf ..)

theorem answers_execTileDbgResume (a0 : Agent) (a1 : Nat) (a2 : Nat) (s : State) : Answers (execTileDbgResume a0 a1 a2 s) := by
  unfold execTileDbgResume
  repeat' (first | exact answers_next _ | exact answers_regRowIf ..)

theorem answers_execTileDbgStep (a0 : Agent) (a1 : Nat) (a2 : Nat) (s : State) : Answers (execTileDbgStep a0 a1 a2 s) := by
  unfold execTileDbgStep
  repeat' (first | exact answers_next _ | exact answers_regRowIf ..)

theorem answers_execTileDbgRegWrite (a0 : Agent) (a1 : Nat) (a2 : Nat) (a3 : Nat) (a4 : DWord) (s : State) : Answers (execTileDbgRegWrite a0 a1 a2 a3 a4 s) := by
  unfold execTileDbgRegWrite
  repeat' (first | exact answers_next _ | exact answers_regRow64 .. | split | intro _)

theorem answers_execMemCtxWrite (a0 : Agent) (a1 : Nat) (a2 : Word) (s : State) : Answers (execMemCtxWrite a0 a1 a2 s) := by
  unfold execMemCtxWrite
  repeat' (first | exact answers_next _ | exact answers_regRowIf ..)

theorem answers_execKvmCtxWrite (a0 : Agent) (a1 : Nat) (a2 : Word) (s : State) : Answers (execKvmCtxWrite a0 a1 a2 s) := by
  unfold execKvmCtxWrite
  repeat' (first | exact answers_next _ | exact answers_regRowIf ..)

theorem answers_execCtlCfgWrite (a0 : Agent) (a1 : Nat) (a2 : Word) (s : State) : Answers (execCtlCfgWrite a0 a1 a2 s) := by
  unfold execCtlCfgWrite
  repeat' (first | exact answers_next _ | exact answers_regRowIf ..)

theorem answers_execCtlCommit (a0 : Agent) (a1 : Word) (s : State) : Answers (execCtlCommit a0 a1 s) := by
  unfold execCtlCommit
  repeat' (first | exact answers_next _ | exact answers_regRow ..)

theorem answers_execRingCfgWrite (a0 : Agent) (a1 : Nat) (a2 : Word) (s : State) : Answers (execRingCfgWrite a0 a1 a2 s) := by
  unfold execRingCfgWrite
  repeat' (first | exact answers_next _ | exact answers_regRowIf ..)

theorem answers_execTimeSet (a0 : Agent) (a1 : DWord) (s : State) : Answers (execTimeSet a0 a1 s) := by
  unfold execTimeSet
  repeat' (first | exact answers_next _ | refine answers_whenAlive fun s => ?_)

theorem answers_execTimeCfgWrite (a0 : Agent) (a1 : Nat) (a2 : Word) (s : State) : Answers (execTimeCfgWrite a0 a1 a2 s) := by
  unfold execTimeCfgWrite
  repeat' (first | exact answers_next _ | refine answers_whenAlive fun s => ?_ | split | intro _)

theorem answers_execSafeReqReq (a0 : Agent) (a1 : Nat) (s : State) : Answers (execSafeReqReq a0 a1 s) := by
  unfold execSafeReqReq
  repeat' (first | exact answers_next _ | refine answers_whenAlive fun s => ?_)

theorem answers_execSafeReqSto (a0 : Agent) (s : State) : Answers (execSafeReqSto a0 s) := by
  unfold execSafeReqSto
  repeat' (first | exact answers_next _ | refine answers_whenAlive fun s => ?_)

theorem answers_execSafeWdtServe (a0 : Agent) (a1 : Word) (s : State) : Answers (execSafeWdtServe a0 a1 s) := by
  unfold execSafeWdtServe
  repeat' (first | exact answers_next _ | refine answers_whenAlive fun s => ?_)

theorem answers_execPwrCfgWrite (a0 : Agent) (a1 : Nat) (a2 : Word) (s : State) : Answers (execPwrCfgWrite a0 a1 a2 s) := by
  unfold execPwrCfgWrite
  repeat' (first | exact answers_next _ | exact answers_regRowIf ..)

theorem answers_execPcieInboundWrite (a0 : Agent) (a1 : DWord) (s : State) : Answers (execPcieInboundWrite a0 a1 s) := by
  unfold execPcieInboundWrite
  repeat' (first | exact answers_next _ | refine answers_whenAlive fun s => ?_ | split | intro _)

theorem answers_execPcieCfgRead (a0 : Agent) (a1 : PcieCompletion) (s : State) : Answers (execPcieCfgRead a0 a1 s) := by
  unfold execPcieCfgRead
  repeat' (first | exact answers_next _ | refine answers_whenAlive fun s => ?_ | split | intro _)

theorem answers_execPcieCfgWrite (a0 : Agent) (a1 : Word) (a2 : PcieCompletion) (s : State) : Answers (execPcieCfgWrite a0 a1 a2 s) := by
  unfold execPcieCfgWrite
  repeat' (first | exact answers_next _ | refine answers_whenAlive fun s => ?_ | split | intro _)

theorem answers_execPcieMemRead (a0 : Agent) (a1 : PcieCompletion) (s : State) : Answers (execPcieMemRead a0 a1 s) := by
  unfold execPcieMemRead
  repeat' (first | exact answers_next _ | refine answers_whenAlive fun s => ?_ | split | intro _)

theorem answers_execPcieMemWrite (a0 : Agent) (a1 : Word) (a2 : PcieCompletion) (s : State) : Answers (execPcieMemWrite a0 a1 a2 s) := by
  unfold execPcieMemWrite
  repeat' (first | exact answers_next _ | refine answers_whenAlive fun s => ?_ | split | intro _)

theorem answers_execPcieInboundRequest (a0 : PcieRequest) (s : State) : Answers (execPcieInboundRequest a0 s) := by
  unfold execPcieInboundRequest
  repeat' (first | exact answers_next _ | refine answers_whenFed fun s => ?_ | split | intro _)

theorem answers_execPcieLinkChange (a0 : Bool) (a1 : Nat) (a2 : Nat) (s : State) : Answers (execPcieLinkChange a0 a1 a2 s) := by
  unfold execPcieLinkChange
  repeat' (first | exact answers_next _ | refine answers_whenAlive fun s => ?_ | ((try lift_lets -underBinder); with_reducible intro x; clear_value x) | split)

theorem answers_execMemDbgAddrWrite (a0 : Agent) (a1 : Word) (s : State) : Answers (execMemDbgAddrWrite a0 a1 s) := by
  unfold execMemDbgAddrWrite
  repeat' (first | exact answers_next _ | exact answers_regRow ..)

theorem answers_execDebugReadComplete (s : State) : Answers (execDebugReadComplete s) := by
  unfold execDebugReadComplete
  repeat' (first | exact answers_next _ | refine answers_whenAlive fun s => ?_)

theorem answers_execRegisterWrite (a0 : Agent) (a1 : Nat) (a2 : Word) (s : State) : Answers (execRegisterWrite a0 a1 a2 s) := by
  unfold execRegisterWrite
  repeat' (first | exact answers_next _ | exact answers_regRow ..)

theorem answers_execScrubPassRead (a0 : Nat) (a1 : ScrubResult) (s : State) : Answers (execScrubPassRead a0 a1 s) := by
  unfold execScrubPassRead
  repeat' (first | exact answers_next _ | refine answers_whenAlive fun s => ?_ | split | intro _)

theorem answers_execCorrHourRoll (s : State) : Answers (execCorrHourRoll s) := by
  unfold execCorrHourRoll
  repeat' (first | exact answers_next _ | refine answers_whenAlive fun s => ?_ | ((try lift_lets -underBinder); with_reducible intro x; clear_value x) | split)

theorem answers_execTrainingPatternSeen (a0 : Nat) (s : State) : Answers (execTrainingPatternSeen a0 s) := by
  unfold execTrainingPatternSeen
  repeat' (first | exact answers_next _ | refine answers_whenAlive fun s => ?_ | split | intro _)

theorem answers_execGmChange (a0 : Nat) (a1 : Bool) (a2 : Master) (s : State) : Answers (execGmChange a0 a1 a2 s) := by
  unfold execGmChange
  repeat' (first | exact answers_next _ | refine answers_whenAlive fun s => ?_ | ((try lift_lets -underBinder); with_reducible intro x; clear_value x) | split)

theorem answers_execSyncTransmit (a0 : Nat) (s : State) : Answers (execSyncTransmit a0 s) := by
  unfold execSyncTransmit
  repeat' (first | exact answers_next _ | refine answers_whenFed fun s => ?_ | ((try lift_lets -underBinder); with_reducible intro x; clear_value x) | split)

theorem answers_execStopInput (a0 : Bool) (s : State) : Answers (execStopInput a0 s) := by
  unfold execStopInput
  repeat' (first | exact answers_next _ | refine answers_whenAlive fun s => ?_)

theorem answers_execOtherDropped (a0 : Nat) (s : State) : Answers (execOtherDropped a0 s) := by
  unfold execOtherDropped
  repeat' (first | exact answers_next _ | split | intro _)

theorem answers_execCowslipRequestPagePoll (a0 : List CowslipRequest) (s : State) : Answers (execCowslipRequestPagePoll a0 s) := by
  unfold execCowslipRequestPagePoll
  repeat' (first | exact answers_next _ | refine answers_whenAlive fun s => ?_)

theorem answers_execSafetySramScrub (a0 : Nat) (a1 : Nat) (a2 : Bool) (s : State) : Answers (execSafetySramScrub a0 a1 a2 s) := by
  unfold execSafetySramScrub
  repeat' (first | exact answers_next _ | refine answers_whenAlive fun s => ?_ | ((try lift_lets -underBinder); with_reducible intro x; clear_value x) | split)

end Sys2Proof.Machine
end

