-- ==== Sys2Proof/Laws/Engine.lean ====
section
/-! SUPPORT. What the shared operations around a meaning do: a queue command run by its engine, an instruction issued by its thread, an
event of a live module, a control command that passes its checks. -/

namespace Sys2Proof.Machine

/-- A live module takes its event. -/
theorem whenAlive_alive {s : State} {f : State → Out} (h : alive s = true) : whenAlive s f = f s := by simp [whenAlive, h]

/-- A module that is not alive takes no event. -/
theorem whenAlive_dead {s : State} {f : State → Out} (h : alive s = false) : whenAlive s f = .next s := by simp [whenAlive, h]

/-- A started command that its engine decides completes with that status. -/
theorem runEngine_done {op q n : Nat} {f : QCmd → State → Verdict} {s t : State} {c : QCmd} {st d : Nat} (h : Started s q n op c)
    (e : f c s = .done st d t) : runEngine op q n f s = .next (completeCmd t q n st d) := by
  obtain ⟨a, b, o⟩ := h
  simp only [runEngine, a, b, o, and_self, if_true, e]

/-- A started command that its engine does not decide goes on. -/
theorem runEngine_wait {op q n : Nat} {f : QCmd → State → Verdict} {s t : State} {c : QCmd} (h : Started s q n op c)
    (e : f c s = .wait t) : runEngine op q n f s = .next t := by
  obtain ⟨a, b, o⟩ := h
  simp only [runEngine, a, b, o, and_self, if_true, e]

/-- A module whose supply phase `k` is up takes its event. -/
theorem whenFed_fed {s : State} {k : Nat} {f : State → Out} (h : alive s = true) (g : phaseUp s k = true) : whenFed k s f = f s := by
  simp [whenFed, whenAlive_alive h, g]

/-- A key-state command that is ready is run by its own engine; the corrected errors of its tables' stacks are then counted. -/
theorem kvEngine_ready {s : State} {q n x : Nat} {used : List (Nat × Nat)} {c : QCmd} {f : Nat → QCmd → State → Verdict}
    (h : kvReady s q n x used c) : kvEngine q n used f c s = (f x c s).after (fun _ => noteStacks) := by
  obtain ⟨a, b, d, e, g⟩ := h
  subst a
  simp [kvEngine, b, d, e, g]

/-- A control command that is ready passes its checks. -/
theorem ctlChecked_ready {q : Nat} {c : QCmd} {va : Bool} {s : State} {k : Verdict} (h : ctlReady q s c va) :
    ctlChecked q c va s k = k := by
  obtain ⟨a, b, d, e⟩ := h
  unfold ctlChecked
  simp only
  rw [if_neg (by simp only [a]; cases va <;> simp_all), if_neg (by omega), if_neg]
  rcases e with e | e <;> simp [e]

/-- An instruction that its thread issues has its effect, after the count of issued instructions. -/
theorem issue_run {s : State} {tile t func w : Nat} {k : ModInstr → Thread → State → State} (h : Issues s tile t func w) :
    issue s tile t func k = issued s tile t (k (decodeMod (thread s tile t) w) (advanced (thread s tile t)) (countIssue s tile t)) := by
  obtain ⟨a, b, c, d, e, f⟩ := h
  unfold issue
  rw [if_pos ⟨a, b, c⟩, d]
  simp only
  rw [if_pos ⟨e, f⟩]
  rfl

/-- A thread that may not issue leaves the state as it was. -/
theorem issue_none {s : State} {tile t func : Nat} {k : ModInstr → Thread → State → State}
    (h : ¬ (tile < 48 ∧ t < 128 ∧ mayIssue s tile t = true)) : issue s tile t func k = s := by
  unfold issue; rw [if_neg h]

end Sys2Proof.Machine
end

