-- ==== Sys2Proof/Laws/Store.lean ====
section
/-! SUPPORT. The laws of the sparse stores: every update keeps the canonical form; a read after a write gives the value
written, and a write leaves every other number alone. -/

namespace Sys2Proof.Machine

section
variable {α : Type} [DecidableEq α] {d : Nat → α}

@[simp] theorem storeWf_nil : storeWf d ([] : Store α) = true := rfl

theorem storeWfFrom_mono {lo lo' : Nat} (h : lo' ≤ lo) : ∀ st : Store α, storeWfFrom d lo st = true → storeWfFrom d lo' st = true
  | [], _ => rfl
  | (k, v) :: rest, hw => by
    simp only [storeWfFrom, Bool.and_eq_true, decide_eq_true_eq] at hw ⊢
    exact ⟨Nat.le_trans h hw.1, hw.2⟩

/-- Below its first key a canonical store reads as the default. -/
theorem storeGet_below {lo a : Nat} (h : a < lo) : ∀ st : Store α, storeWfFrom d lo st = true → storeGet d st a = d a
  | [], _ => rfl
  | (k, v) :: rest, hw => by
    simp only [storeWfFrom, Bool.and_eq_true, decide_eq_true_eq] at hw
    have : a < k := by omega
    simp [storeGet, this, Nat.ne_of_lt this]

theorem storeWfFrom_set (a : Nat) (v : α) : ∀ (lo : Nat) (st : Store α), lo ≤ a → storeWfFrom d lo st = true →
    storeWfFrom d lo (storeSet d st a v) = true
  | lo, [], ha, _ => by
    by_cases hv : v = d a <;> simp [storeSet, storeWfFrom, hv, ha]
  | lo, (k, w) :: rest, ha, hw => by
    simp only [storeWfFrom, Bool.and_eq_true, decide_eq_true_eq] at hw
    obtain ⟨h1, h2, h3⟩ := hw
    unfold storeSet
    split
    · subst_vars
      split
      · exact storeWfFrom_mono (by omega) rest h3
      · simp_all [storeWfFrom]
    · split
      · split
        · simp_all [storeWfFrom]
        · simp only [storeWfFrom, Bool.and_eq_true, decide_eq_true_eq]
          exact ⟨ha, by assumption, by omega, h2, h3⟩
      · simp only [storeWfFrom, Bool.and_eq_true, decide_eq_true_eq]
        exact ⟨h1, h2, storeWfFrom_set a v (k + 1) rest (by omega) h3⟩

theorem storeWf_set (st : Store α) (a : Nat) (v : α) (h : storeWf d st = true) : storeWf d (storeSet d st a v) = true :=
  storeWfFrom_set a v 0 st (Nat.zero_le a) h

theorem storeWf_setList : ∀ (vs : List α) (st : Store α) (a : Nat), storeWf d st = true → storeWf d (storeSetList d st a vs) = true
  | [], _, _, h => h
  | v :: vs, st, a, h => storeWf_setList vs _ (a + 1) (storeWf_set st a v h)

theorem storeWfFrom_filter (p : Nat × α → Bool) : ∀ (lo : Nat) (st : Store α), storeWfFrom d lo st = true →
    storeWfFrom d lo (st.filter p) = true
  | _, [], _ => rfl
  | lo, (k, v) :: rest, hw => by
    simp only [storeWfFrom, Bool.and_eq_true, decide_eq_true_eq] at hw
    obtain ⟨h1, h2, h3⟩ := hw
    have ih := storeWfFrom_filter p (k + 1) rest h3
    by_cases hp : p (k, v) = true
    · simp only [List.filter_cons, hp, if_true, storeWfFrom, Bool.and_eq_true, decide_eq_true_eq]
      exact ⟨h1, h2, ih⟩
    · simp only [List.filter_cons, hp]
      exact storeWfFrom_mono (by omega) _ ih

theorem storeWf_filter (p : Nat × α → Bool) (st : Store α) (h : storeWf d st = true) : storeWf d (st.filter p) = true :=
  storeWfFrom_filter p 0 st h

theorem storeWf_drop (p : Nat → Bool) (st : Store α) (h : storeWf d st = true) : storeWf d (storeDrop p st) = true :=
  storeWf_filter _ st h

theorem storeWfFrom_map (f : Nat → α → α) : ∀ (lo : Nat) (st : Store α), storeWfFrom d lo st = true →
    storeWfFrom d lo (storeMap d f st) = true
  | _, [], _ => rfl
  | lo, (k, v) :: rest, hw => by
    simp only [storeWfFrom, Bool.and_eq_true, decide_eq_true_eq] at hw
    obtain ⟨h1, h2, h3⟩ := hw
    have ih := storeWfFrom_map f (k + 1) rest h3
    by_cases hv : f k v = d k
    · simp only [storeMap, List.filterMap_cons, hv, if_true]
      exact storeWfFrom_mono (by omega) _ ih
    · simp only [storeMap, List.filterMap_cons, hv, if_false, storeWfFrom, Bool.and_eq_true, decide_eq_true_eq]
      exact ⟨h1, by simpa using hv, ih⟩

theorem storeWf_map (f : Nat → α → α) (st : Store α) (h : storeWf d st = true) : storeWf d (storeMap d f st) = true :=
  storeWfFrom_map f 0 st h

/-- A read after a write to the same number gives the value written. -/
theorem storeGetFrom_set_same (a : Nat) (v : α) : ∀ (lo : Nat) (st : Store α), storeWfFrom d lo st = true →
    storeGet d (storeSet d st a v) a = v
  | _, [], _ => by by_cases hv : v = d a <;> simp [storeSet, storeGet, hv]
  | lo, (k, w) :: rest, hw => by
    simp only [storeWfFrom, Bool.and_eq_true, decide_eq_true_eq] at hw
    obtain ⟨_, _, h3⟩ := hw
    unfold storeSet
    split
    · subst_vars
      split
      · subst_vars; exact storeGet_below (by omega) rest h3
      · simp [storeGet]
    · split
      · split
        · simp_all [storeGet]
        · simp [storeGet]
      · simp only [storeGet]
        rw [if_neg (by assumption), if_neg (by assumption)]
        exact storeGetFrom_set_same a v (k + 1) rest h3

theorem storeGet_set_same (st : Store α) (a : Nat) (v : α) (h : storeWf d st = true) : storeGet d (storeSet d st a v) a = v :=
  storeGetFrom_set_same a v 0 st h

/-- A value other than the default reads back from any list. -/
theorem storeGet_set_of_ne (a : Nat) (v : α) (hv : v ≠ d a) : ∀ st : Store α, storeGet d (storeSet d st a v) a = v
  | [] => by simp [storeSet, storeGet, hv]
  | (k, w) :: rest => by
    by_cases h1 : a = k
    · simp [storeSet, h1, show v ≠ d k from h1 ▸ hv, storeGet]
    · by_cases h2 : a < k
      · simp [storeSet, h1, h2, hv, storeGet]
      · simp only [storeSet, h1, h2, if_false, storeGet]
        exact storeGet_set_of_ne a v hv rest

/-- A write leaves every other number alone. -/
theorem storeGetFrom_set_ne {a b : Nat} (v : α) (hab : b ≠ a) : ∀ (lo : Nat) (st : Store α), storeWfFrom d lo st = true →
    storeGet d (storeSet d st a v) b = storeGet d st b
  | _, [], _ => by
    unfold storeSet
    split
    · rfl
    · simp [storeGet, hab]
  | lo, (k, w) :: rest, hw => by
    simp only [storeWfFrom, Bool.and_eq_true, decide_eq_true_eq] at hw
    obtain ⟨_, _, h3⟩ := hw
    unfold storeSet
    split
    · subst_vars
      split
      · simp only [storeGet, if_neg hab]
        split
        · exact storeGet_below (by omega) rest h3
        · rfl
      · simp [storeGet, hab]
    · split
      · split
        · rfl
        · simp only [storeGet, if_neg hab]
          split
          · have h1 : b ≠ k := by omega
            have h2 : b < k := by omega
            simp [h1, h2]
          · rfl
      · simp only [storeGet]
        rw [storeGetFrom_set_ne v hab (k + 1) rest h3]

theorem storeGet_set_ne (st : Store α) {a b : Nat} (v : α) (hab : b ≠ a) (h : storeWf d st = true) :
    storeGet d (storeSet d st a v) b = storeGet d st b :=
  storeGetFrom_set_ne v hab 0 st h

theorem storeGet_set (st : Store α) (a b : Nat) (v : α) (h : storeWf d st = true) :
    storeGet d (storeSet d st a v) b = if b = a then v else storeGet d st b := by
  split
  · subst_vars; exact storeGet_set_same st _ v h
  · exact storeGet_set_ne st v (by assumption) h

/-- A read after a list was written: its element inside, what was there before outside. -/
theorem storeGet_setList : ∀ (vs : List α) (st : Store α) (a b : Nat), storeWf d st = true →
    storeGet d (storeSetList d st a vs) b = if h : a ≤ b ∧ b < a + vs.length then vs[b - a]'(by omega) else storeGet d st b
  | [], st, a, b, _ => by
    have : ¬ (a ≤ b ∧ b < a + ([] : List α).length) := by simp
    rw [dif_neg this]; rfl
  | v :: vs, st, a, b, h => by
    simp only [storeSetList]
    rw [storeGet_setList vs _ (a + 1) b (storeWf_set st a v h), storeGet_set st a b v h]
    by_cases h1 : b = a
    · subst h1
      rw [dif_neg (by omega), if_pos rfl, dif_pos ⟨Nat.le_refl _, by simp only [List.length_cons]; omega⟩]
      simp only [Nat.sub_self, List.getElem_cons_zero]
    · by_cases h2 : a + 1 ≤ b ∧ b < a + 1 + vs.length
      · have h3 : a ≤ b ∧ b < a + (v :: vs).length := by simp only [List.length_cons]; omega
        rw [dif_pos h2, dif_pos h3]
        have h4 : b - a = (b - (a + 1)) + 1 := by omega
        simp [h4]
      · have h3 : ¬ (a ≤ b ∧ b < a + (v :: vs).length) := by simp only [List.length_cons]; omega
        rw [dif_neg h2, dif_neg h3, if_neg h1]

/-- A write of a list leaves every number outside it alone. -/
theorem storeGet_setList_outside (vs : List α) (st : Store α) (a b : Nat) (h : storeWf d st = true)
    (hb : b < a ∨ a + vs.length ≤ b) : storeGet d (storeSetList d st a vs) b = storeGet d st b := by
  rw [storeGet_setList vs st a b h, dif_neg (by omega)]

theorem storeGetFrom_filter (p : Nat → Bool) (b : Nat) : ∀ (lo : Nat) (st : Store α), storeWfFrom d lo st = true →
    storeGet d (st.filter (fun e => !p e.1)) b = if p b then d b else storeGet d st b
  | _, [], _ => by simp [storeGet]
  | lo, (k, w) :: rest, hw => by
    simp only [storeWfFrom, Bool.and_eq_true, decide_eq_true_eq] at hw
    obtain ⟨_, _, h3⟩ := hw
    have ih := storeGetFrom_filter p b (k + 1) rest h3
    by_cases hp : p k = true
    · simp only [List.filter_cons, hp]
      simp only [Bool.not_true, Bool.false_eq_true, if_false]
      rw [ih]
      simp only [storeGet]
      by_cases hb : b = k
      · subst hb; simp [hp]
      · by_cases hlt : b < k
        · simp only [hb, hlt, if_true, if_false]
          split
          · rfl
          · exact storeGet_below (by omega) rest h3
        · simp [hb, hlt]
    · simp only [List.filter_cons]
      simp only [hp, Bool.not_false, if_true, storeGet]
      rw [ih]
      by_cases hb : b = k
      · subst hb; simp [hp]
      · by_cases hlt : b < k
        · simp [hb, hlt]
        · simp [hb, hlt]

theorem storeGet_drop (p : Nat → Bool) (st : Store α) (b : Nat) (h : storeWf d st = true) :
    storeGet d (storeDrop p st) b = if p b then d b else storeGet d st b := storeGetFrom_filter p b 0 st h

theorem storeGetFrom_map (f : Nat → α → α) (hf : ∀ k, f k (d k) = d k) (b : Nat) : ∀ (lo : Nat) (st : Store α),
    storeWfFrom d lo st = true → storeGet d (storeMap d f st) b = f b (storeGet d st b)
  | _, [], _ => by simp [storeMap, storeGet, hf]
  | lo, (k, w) :: rest, hw => by
    simp only [storeWfFrom, Bool.and_eq_true, decide_eq_true_eq] at hw
    obtain ⟨_, _, h3⟩ := hw
    have ih := storeGetFrom_map f hf b (k + 1) rest h3
    have hm : storeMap d f ((k, w) :: rest) = if f k w = d k then storeMap d f rest else (k, f k w) :: storeMap d f rest := by
      simp only [storeMap, List.filterMap_cons]; split <;> simp_all
    rw [hm]
    by_cases hb : b = k
    · subst hb
      split
      · rw [storeGet_below (lo := b + 1) (by omega) _ (storeWfFrom_map f (b + 1) rest h3)]
        simp_all [storeGet]
      · simp [storeGet]
    · by_cases hlt : b < k
      · have h0 : storeGet d ((k, w) :: rest) b = d b := by simp [storeGet, hb, hlt]
        rw [h0, hf]
        split
        · exact storeGet_below (by omega) _ (storeWfFrom_map f (k + 1) rest h3)
        · simp [storeGet, hb, hlt]
      · split
        · rw [ih]; simp [storeGet, hb, hlt]
        · simp [storeGet, hb, hlt, ih]

theorem storeGet_map (f : Nat → α → α) (hf : ∀ k, f k (d k) = d k) (st : Store α) (b : Nat) (h : storeWf d st = true) :
    storeGet d (storeMap d f st) b = f b (storeGet d st b) := storeGetFrom_map f hf b 0 st h

end

/-- A list that agrees with the store place by place is what the store reads. -/
theorem storeGetList_eq {α : Type} {d : Nat → α} (st : Store α) : ∀ (vs : List α) (a : Nat),
    (∀ i (h : i < vs.length), storeGet d st (a + i) = vs[i]) → storeGetList d st a vs.length = vs
  | [], _, _ => rfl
  | v :: vs, a, h => by
    have h0 := h 0 (by simp)
    have hs := storeGetList_eq st vs (a + 1) (fun i hi => by
      have := h (i + 1) (by simpa using hi)
      rw [show a + (i + 1) = a + 1 + i by omega] at this
      simpa using this)
    simp only [List.length_cons, storeGetList]
    rw [hs, show storeGet d st a = v from by simpa using h0]

/-- A list reads back after it is written. -/
theorem storeGetList_setList {α : Type} [DecidableEq α] {d : Nat → α} (vs : List α) (st : Store α) (a : Nat)
    (h : storeWf d st = true) : storeGetList d (storeSetList d st a vs) a vs.length = vs :=
  storeGetList_eq _ vs a (fun i hi => by
    rw [storeGet_setList vs st a (a + i) h, dif_pos ⟨by omega, by omega⟩]
    simp only [show a + i - a = i by omega])

end Sys2Proof.Machine
end

