-- ==== Sys2Proof/Laws/Fields.lean ====
section
/-! SUPPORT. The laws of register fields: a field reads what was last written to it, and a write to a field leaves every
disjoint field alone. -/

namespace Sys2Proof.Machine

/-! ### Bits of a number -/

theorem bits_lt (w hi lo : Nat) : bits w hi lo < 2 ^ (hi + 1 - lo) := Nat.mod_lt _ (Nat.two_pow_pos _)

/-- A number cut at two places. -/
theorem cut3 (w lo n : Nat) : w = (w / 2 ^ (lo + n)) * 2 ^ (lo + n) + (w / 2 ^ lo % 2 ^ n) * 2 ^ lo + w % 2 ^ lo := by
  have h1 := Nat.div_add_mod w (2 ^ lo)
  have h2 := Nat.div_add_mod (w / 2 ^ lo) (2 ^ n)
  have h3 : w / 2 ^ lo / 2 ^ n = w / 2 ^ (lo + n) := by rw [Nat.div_div_eq_div_mul, Nat.pow_add]
  rw [h3] at h2
  calc w = 2 ^ lo * (w / 2 ^ lo) + w % 2 ^ lo := h1.symm
    _ = 2 ^ lo * (2 ^ n * (w / 2 ^ (lo + n)) + w / 2 ^ lo % 2 ^ n) + w % 2 ^ lo := by rw [h2]
    _ = _ := by rw [Nat.mul_add, ← Nat.mul_assoc, ← Nat.pow_add, Nat.mul_comm (2 ^ (lo + n)), Nat.mul_comm (2 ^ lo)]

theorem setBits_cut (w lo n v : Nat) (hn : 0 < n) :
    setBits w (lo + n - 1) lo v = (w / 2 ^ (lo + n)) * 2 ^ (lo + n) + (v % 2 ^ n) * 2 ^ lo + w % 2 ^ lo := by
  have h0 : lo + n - 1 + 1 - lo = n := by omega
  have h := cut3 w lo n
  simp only [setBits, bits, h0]
  generalize w / 2 ^ (lo + n) * 2 ^ (lo + n) = A at h ⊢
  generalize w / 2 ^ lo % 2 ^ n * 2 ^ lo = B at h ⊢
  generalize w % 2 ^ lo = C at h ⊢
  omega

theorem part_lt (lo n v c : Nat) (hc : c < 2 ^ lo) (hv : v < 2 ^ n) : v * 2 ^ lo + c < 2 ^ (lo + n) := by
  have h : (v + 1) * 2 ^ lo ≤ 2 ^ n * 2 ^ lo := Nat.mul_le_mul_right _ hv
  rw [Nat.add_mul, Nat.one_mul, ← Nat.pow_add, Nat.add_comm n lo] at h
  omega

theorem setBits_same (w lo n v : Nat) (hn : 0 < n) : setBits w (lo + n - 1) lo v / 2 ^ lo % 2 ^ n = v % 2 ^ n := by
  rw [setBits_cut w lo n v hn]
  have hc : w % 2 ^ lo < 2 ^ lo := Nat.mod_lt _ (Nat.two_pow_pos _)
  have h : w / 2 ^ (lo + n) * 2 ^ (lo + n) + v % 2 ^ n * 2 ^ lo + w % 2 ^ lo
      = 2 ^ lo * (2 ^ n * (w / 2 ^ (lo + n)) + v % 2 ^ n) + w % 2 ^ lo := by
    rw [Nat.mul_add, ← Nat.mul_assoc, ← Nat.pow_add, Nat.mul_comm (2 ^ (lo + n)), Nat.mul_comm (2 ^ lo) (v % 2 ^ n)]
  rw [h, Nat.mul_add_div (Nat.two_pow_pos _), Nat.div_eq_of_lt hc, Nat.add_zero, Nat.mul_add_mod]
  exact Nat.mod_mod _ _

/-- Bits above a written field. -/
theorem setBits_above (w lo n v lo' n' : Nat) (hn : 0 < n) (h : lo + n ≤ lo') :
    setBits w (lo + n - 1) lo v / 2 ^ lo' % 2 ^ n' = w / 2 ^ lo' % 2 ^ n' := by
  have hc : w % 2 ^ lo < 2 ^ lo := Nat.mod_lt _ (Nat.two_pow_pos _)
  have hv : v % 2 ^ n < 2 ^ n := Nat.mod_lt _ (Nat.two_pow_pos _)
  have e : ∀ x : Nat, x / 2 ^ lo' = x / 2 ^ (lo + n) / 2 ^ (lo' - (lo + n)) := by
    intro x; rw [Nat.div_div_eq_div_mul, ← Nat.pow_add]; congr 2; omega
  rw [e, e w, setBits_cut w lo n v hn, Nat.add_assoc, Nat.mul_comm (w / 2 ^ (lo + n)),
    Nat.mul_add_div (Nat.two_pow_pos _), Nat.div_eq_of_lt (part_lt lo n _ _ hc hv), Nat.add_zero]

/-- Bits below a written field. -/
theorem setBits_below (w lo n v lo' n' : Nat) (hn : 0 < n) (h : lo' + n' ≤ lo) :
    setBits w (lo + n - 1) lo v / 2 ^ lo' % 2 ^ n' = w / 2 ^ lo' % 2 ^ n' := by
  have key : setBits w (lo + n - 1) lo v % 2 ^ lo = w % 2 ^ lo := by
    rw [setBits_cut w lo n v hn]
    have : w / 2 ^ (lo + n) * 2 ^ (lo + n) + v % 2 ^ n * 2 ^ lo
        = 2 ^ lo * (2 ^ n * (w / 2 ^ (lo + n)) + v % 2 ^ n) := by
      rw [Nat.mul_add, ← Nat.mul_assoc, ← Nat.pow_add, Nat.mul_comm (2 ^ (lo + n)), Nat.mul_comm (2 ^ lo) (v % 2 ^ n)]
    rw [this, Nat.mul_add_mod, Nat.mod_mod]
  have e : ∀ x : Nat, x / 2 ^ lo' % 2 ^ n' = x % 2 ^ lo / 2 ^ lo' % 2 ^ n' := by
    intro x
    have hp : 2 ^ lo = 2 ^ lo' * 2 ^ (lo - lo') := by rw [← Nat.pow_add]; congr 1; omega
    rw [hp, Nat.mod_mul_right_div_self, Nat.mod_mod_of_dvd]
    exact Nat.pow_dvd_pow 2 (by omega)
  rw [e, e w, key]

theorem setBits_lt (w lo n v k : Nat) (hn : 0 < n) (hk : lo + n ≤ k) (hw : w < 2 ^ k) : setBits w (lo + n - 1) lo v < 2 ^ k := by
  have hc : w % 2 ^ lo < 2 ^ lo := Nat.mod_lt _ (Nat.two_pow_pos _)
  have hv : v % 2 ^ n < 2 ^ n := Nat.mod_lt _ (Nat.two_pow_pos _)
  have hp := part_lt lo n _ _ hc hv
  rw [setBits_cut w lo n v hn]
  have hd : w / 2 ^ (lo + n) < 2 ^ (k - (lo + n)) := by
    apply Nat.div_lt_of_lt_mul; rw [← Nat.pow_add]; rwa [show lo + n + (k - (lo + n)) = k by omega]
  have h2 : (w / 2 ^ (lo + n) + 1) * 2 ^ (lo + n) ≤ 2 ^ (k - (lo + n)) * 2 ^ (lo + n) := Nat.mul_le_mul_right _ hd
  rw [Nat.add_mul, Nat.one_mul, ← Nat.pow_add, show k - (lo + n) + (lo + n) = k by omega] at h2
  omega

/-! ### Words -/

/-- The control window keeps its canonical form. -/
abbrev cwWf (s : State) : Prop := storeWf resetWord s.cw = true

theorem regWord_lt (s : State) (off : Nat) : regWord s off < 2 ^ 32 := BitVec.isLt _

theorem cwWf_setRegWord {s : State} (off v : Nat) (h : cwWf s) : cwWf (setRegWord s off v) := storeWf_set _ _ _ h

theorem cwWf_setReg64 {s : State} (off v : Nat) (h : cwWf s) : cwWf (setReg64 s off v) :=
  cwWf_setRegWord _ _ (cwWf_setRegWord _ _ h)

theorem cwWf_fset {s : State} (f : Field) (v : Nat) (h : cwWf s) : cwWf (fset s f v) := by
  unfold fset; split
  · exact cwWf_setRegWord _ _ h
  · exact cwWf_setReg64 _ _ h

theorem cwWf_fsetb {s : State} (f : Field) (b : Bool) (h : cwWf s) : cwWf (fsetb s f b) := cwWf_fset _ _ h

theorem cwWf_finc {s : State} (f : Field) (h : cwWf s) : cwWf (finc s f) := cwWf_fset _ _ h

theorem regWord_setRegWord {s : State} (off off' v : Nat) (h : cwWf s) :
    regWord (setRegWord s off v) off' = if off' = off then v % 2 ^ 32 else regWord s off' := by
  unfold regWord setRegWord
  rw [storeGet_set _ _ _ _ h]
  split <;> simp

theorem reg64_lt (s : State) (off : Nat) : reg64 s off < 2 ^ 64 := by
  have h1 := regWord_lt s off
  have h2 := regWord_lt s (off + 4)
  unfold reg64; omega

theorem reg64_setReg64 {s : State} (off v : Nat) (h : cwWf s) : reg64 (setReg64 s off v) off = v % 2 ^ 64 := by
  unfold reg64 setReg64
  rw [regWord_setRegWord _ _ _ (cwWf_setRegWord _ _ h), regWord_setRegWord _ _ _ (cwWf_setRegWord _ _ h),
    regWord_setRegWord _ _ _ h]
  simp only [if_true]
  rw [if_neg (by omega)]
  omega

/-! ### Fields -/

/-- A field within one word. -/
def Field.word (f : Field) : Prop := 0 < f.len ∧ f.lo + f.len ≤ 32

theorem fget_word (s : State) (f : Field) (hf : f.word) : fget s f = regWord s f.off / 2 ^ f.lo % 2 ^ f.len := by
  have h : reg64 s f.off = regWord s f.off + 2 ^ 32 * regWord s (f.off + 4) := rfl
  unfold fget
  rw [h]
  have hw := regWord_lt s f.off
  have e : ∀ x : Nat, x / 2 ^ f.lo % 2 ^ f.len = x % 2 ^ 32 / 2 ^ f.lo % 2 ^ f.len := by
    intro x
    have hp : (2 : Nat) ^ 32 = 2 ^ f.lo * 2 ^ (32 - f.lo) := by rw [← Nat.pow_add]; congr 1; have := hf.2; omega
    rw [hp, Nat.mod_mul_right_div_self, Nat.mod_mod_of_dvd]
    exact Nat.pow_dvd_pow 2 (by have := hf.2; omega)
  rw [e, Nat.add_mul_mod_self_left, Nat.mod_eq_of_lt hw]

theorem fset_word (s : State) (f : Field) (v : Nat) (hf : f.word) :
    fset s f v = setRegWord s f.off (setBits (regWord s f.off) (f.lo + f.len - 1) f.lo v) := by
  unfold fset; rw [if_pos hf.2]

/-- A field reads what was written to it. -/
theorem fget_fset_same {s : State} (f : Field) (v : Nat) (hf : f.word) (h : cwWf s) : fget (fset s f v) f = v % 2 ^ f.len := by
  rw [fget_word _ _ hf, fset_word _ _ _ hf, regWord_setRegWord _ _ _ h, if_pos rfl,
    Nat.mod_eq_of_lt (setBits_lt _ _ _ _ _ hf.1 hf.2 (regWord_lt s f.off)), setBits_same _ _ _ _ hf.1]

/-- Fields of different words, or of different bits of one word. -/
def Field.apart (f g : Field) : Prop := g.off ≠ f.off ∨ f.lo + f.len ≤ g.lo ∨ g.lo + g.len ≤ f.lo

/-- A write to a field leaves a field apart from it alone. -/
theorem fget_fset_apart {s : State} (f g : Field) (v : Nat) (hf : f.word) (hg : g.word) (ha : f.apart g) (h : cwWf s) :
    fget (fset s f v) g = fget s g := by
  rw [fget_word _ _ hg, fget_word _ _ hg, fset_word _ _ _ hf, regWord_setRegWord _ _ _ h]
  split
  · rename_i he
    rw [Nat.mod_eq_of_lt (setBits_lt _ _ _ _ _ hf.1 hf.2 (regWord_lt s f.off)), he]
    rcases ha with h1 | h1 | h1
    · exact absurd he h1
    · exact setBits_above _ _ _ _ _ _ hf.1 h1
    · exact setBits_below _ _ _ _ _ _ hf.1 h1
  · rfl

theorem fbit_fsetb_same {s : State} (f : Field) (b : Bool) (hf : f.word) (h1 : f.len = 1) (h : cwWf s) :
    fbit (fsetb s f b) f = b := by
  unfold fbit fsetb
  rw [fget_fset_same f _ hf h, h1]
  cases b <;> decide

theorem fbit_fset_apart {s : State} (f g : Field) (v : Nat) (hf : f.word) (hg : g.word) (ha : f.apart g) (h : cwWf s) :
    fbit (fset s f v) g = fbit s g := by
  unfold fbit; rw [fget_fset_apart f g v hf hg ha h]

end Sys2Proof.Machine
end

