-- ==== Sys2Proof/Laws/Errors.lean ====
section
/-! SUPPORT. Corrected errors (R66, R137): counting those of an access changes their counters, the logs of the stacks, the events
raised and the source of free values, and nothing else. -/

namespace Sys2Proof.Machine

/-- What counting corrected errors may change: the counters of corrected errors, the logs of the stacks, the events raised and the
source of free values. -/
def OnlyCounted (s t : State) : Prop :=
  t = { s with cw := t.cw, tansy := { s.tansy with raised := t.tansy.raised }, stackLogs := t.stackLogs, free := t.free }
    ∧ cwWf t ∧ ∀ off : Nat, corrCounter off = false → regWord t off = regWord s off

theorem OnlyCounted.refl {s : State} (h : cwWf s) : OnlyCounted s s := ⟨rfl, h, fun _ _ => rfl⟩

theorem OnlyCounted.trans {s t u : State} (h : OnlyCounted s t) (g : OnlyCounted t u) : OnlyCounted s u := by
  refine ⟨?_, g.2.1, fun off o => (g.2.2 off o).trans (h.2.2 off o)⟩
  rw [g.1, h.1]

/-- A write of a field in a counter of corrected errors. -/
theorem OnlyCounted.fset {s t : State} (f : Field) (v : Nat) (w : f.word) (c : corrCounter f.off = true) (h : OnlyCounted s t) :
    OnlyCounted s (fset t f v) := by
  refine h.trans ⟨?_, cwWf_fset f v h.2.1, fun off o => ?_⟩
  · unfold Machine.fset; split <;> rfl
  · rw [fset_word _ _ _ w, regWord_setRegWord _ _ _ h.2.1, if_neg]
    intro e; rw [e, c] at o; exact absurd o (by simp)

theorem OnlyCounted.raise {s t : State} (code island : Nat) (data : List Byte) (h : OnlyCounted s t) :
    OnlyCounted s (raise t code island data) := h.trans ⟨rfl, h.2.1, fun _ _ => rfl⟩

theorem OnlyCounted.stackNote {s t : State} (k : Nat) (f : StackLog → StackLog) (h : OnlyCounted s t) :
    OnlyCounted s (stackNote k f t) := by
  unfold Machine.stackNote
  have g (x : StackLog) : OnlyCounted s (setStackLog t k x) := h.trans ⟨rfl, h.2.1, fun _ _ => rfl⟩
  simp only
  split
  · exact (g _).raise _ _ _
  · exact g _

theorem corrCounter_stack {k : Nat} (h : k < 12) : corrCounter (Reg.MEM_LP_ECC k) = true := by
  simp only [corrCounter, Bool.or_eq_true, List.any_eq_true]
  exact .inr ⟨k, List.mem_range.2 h, by simp⟩

theorem corrCounter_tile {i : Nat} (h : i < 48) : corrCounter (Reg.TILE_ECC i) = true := by
  simp only [corrCounter, Bool.or_eq_true, List.any_eq_true]
  exact .inl ⟨i, List.mem_range.2 h, by simp⟩

theorem OnlyCounted.corrCount {s t : State} {k : Nat} (hk : k < 12) (h : OnlyCounted s t) : OnlyCounted s (corrCount k t) := by
  unfold Machine.corrCount
  have g : OnlyCounted s (finc (finc t (Reg.MEM_LP_ECC_CORR_HOUR k)) (Reg.MEM_LP_ECC_CORR_TOTAL k)) :=
    .fset (Reg.MEM_LP_ECC_CORR_TOTAL k) _ ⟨Nat.succ_pos _, by show 0 + 16 ≤ 32; omega⟩ (corrCounter_stack hk)
      (.fset (Reg.MEM_LP_ECC_CORR_HOUR k) _ ⟨Nat.succ_pos _, by show 16 + 16 ≤ 32; omega⟩ (corrCounter_stack hk) h)
  simp only
  split
  · unfold corrRaise; exact (g.raise _ _ _).stackNote _ _
  · exact g

theorem OnlyCounted.corrCounts {s : State} {k m : Nat} (hk : k < 12) (h : cwWf s) : OnlyCounted s (corrCounts k m s) := by
  have g : ∀ (l : List Nat) (t : State), OnlyCounted s t → OnlyCounted s (l.foldl (fun s _ => Machine.corrCount k s) t) := by
    intro l
    induction l with
    | nil => exact fun _ h => h
    | cons _ l ih => exact fun t h => ih _ (h.corrCount hk)
  have e := g (List.range m) s (.refl h)
  exact ⟨by unfold Machine.corrCounts; rw [e.1], e.2.1, e.2.2⟩

/-- The corrected errors of one access. -/
theorem noteCorr_frame {s : State} (a n : Nat) (h : cwWf s) : OnlyCounted s (noteCorr a n s) := by
  have g : OnlyCounted s { s with free := s.free + 1 } := ⟨rfl, h, fun _ _ => rfl⟩
  unfold noteCorr
  simp only
  split
  · rename_i l
    refine g.trans (.corrCounts ?_ h)
    unfold lpStack lpChannel
    have : a < 0x3000000000 := by simpa [isLp] using l
    omega
  · split
    · rename_i l
      refine g.fset (Reg.TILE_ECC_CORR (tileOf a)) _ ⟨Nat.succ_pos _, by show 0 + 16 ≤ 32; omega⟩ (corrCounter_tile ?_)
      have : 0x10000000000 ≤ a ∧ a < 0x10018000000 := by simpa [isTileSram] using l
      unfold tileOf; omega
    · exact g

/-- The corrected errors of the accesses of a list. -/
theorem noteCorrs_frame (ps : List (Nat × Nat)) {s : State} (h : cwWf s) : OnlyCounted s (noteCorrs ps s) := by
  unfold noteCorrs
  induction ps generalizing s with
  | nil => exact .refl h
  | cons p ps ih =>
    have g := noteCorr_frame p.1 p.2 h
    exact g.trans (ih g.2.1)

end Sys2Proof.Machine
end

