-- ==== Sys2Proof/Laws/Keep.lean ====
section
/-! SUPPORT. What the operations keep: three relations between a state and a later one, and the base operations' lemmas. -/

namespace Sys2Proof.Machine

/-- The waiting commands stay, and a sound state stays sound. -/
def Kept (s t : State) : Prop := t.pending = s.pending ∧ (Sound s → Sound t)

/-- Module time stays too. -/
def Held (s t : State) : Prop := (t.time = s.time ∧ t.frac = s.frac) ∧ Kept s t

/-- The memory stays too. -/
def Same (s t : State) : Prop := t.mem = s.mem ∧ Held s t

theorem Kept.refl (s : State) : Kept s s := ⟨rfl, id⟩
theorem Held.refl (s : State) : Held s s := ⟨⟨rfl, rfl⟩, Kept.refl s⟩
theorem Same.refl (s : State) : Same s s := ⟨rfl, Held.refl s⟩

theorem Kept.trans {a b c : State} (h : Kept a b) (g : Kept b c) : Kept a c := ⟨g.1.trans h.1, g.2 ∘ h.2⟩
theorem Held.trans {a b c : State} (h : Held a b) (g : Held b c) : Held a c :=
  ⟨⟨g.1.1.trans h.1.1, g.1.2.trans h.1.2⟩, h.2.trans g.2⟩
theorem Same.trans {a b c : State} (h : Same a b) (g : Same b c) : Same a c := ⟨g.1.trans h.1, h.2.trans g.2⟩

/-- What holds of a step may be added to what holds so far. -/
def Absorbs (L R : State → State → Prop) : Prop := ∀ a b c, R a b → L b c → R a c

theorem absorbs_same : Absorbs Same Same := fun _ _ _ => Same.trans
theorem absorbs_held : Absorbs Held Held := fun _ _ _ => Held.trans
theorem absorbs_kept : Absorbs Kept Kept := fun _ _ _ => Kept.trans

/-- An operation that keeps more keeps less. -/
theorem Absorbs.sameOfHeld {R : State → State → Prop} (h : Absorbs Held R) : Absorbs Same R := fun a b c r g => h a b c r g.2
theorem Absorbs.heldOfKept {R : State → State → Prop} (h : Absorbs Kept R) : Absorbs Held R := fun a b c r g => h a b c r g.2
theorem Absorbs.sameOfKept {R : State → State → Prop} (h : Absorbs Kept R) : Absorbs Same R := h.heldOfKept.sameOfHeld

section
variable (R : State → State → Prop) (a : State)

/-- The state of a pair. -/
abbrev okP {α : Type} (p : α × State) : Prop := R a p.2
/-- The state of a triple. -/
abbrev okP3 {α β : Type} (p : α × β × State) : Prop := R a p.2.2
/-- The state of an outcome. -/
inductive okO : Out → Prop where
  | next {t : State} : R a t → okO (.next t)
  | fault {f : Fault} : okO (.fault f)
  | refused {r : Refusal} : okO (.refused r)
/-- The state of a verdict. -/
inductive okV : Verdict → Prop where
  | done {st d : Nat} {t : State} : R a t → okV (.done st d t)
  | wait {t : State} : R a t → okV (.wait t)
/-- The state of a bring-up. -/
inductive okB : Boot → Prop where
  | on {t : State} : R a t → okB (.on t)
  | stop {t : State} : R a t → okB (.stop t)
  | refused {t : State} : R a t → okB (.refused t)
/-- The state of a success. -/
inductive okE {ε : Type} : Except ε State → Prop where
  | ok {t : State} : R a t → okE (.ok t)
  | error {e : ε} : okE (.error e)
/-- The state of a failure. -/
inductive okX {α : Type} : Except State α → Prop where
  | ok {x : α} : okX (.ok x)
  | error {t : State} : R a t → okX (.error t)
/-- The state, where there is one. -/
inductive okM : Option State → Prop where
  | none : okM none
  | some {t : State} : R a t → okM (some t)
/-- The state of an optional pair. -/
inductive okMP {α : Type} : Option (α × State) → Prop where
  | none : okMP none
  | some {p : α × State} : R a p.2 → okMP (some p)
end

section
variable {R : State → State → Prop} {a t : State}

theorem okP_mk {α : Type} {x : α} (h : R a t) : okP R a (x, t) := h
theorem okP_get {α : Type} {x : α} {r : α × State} (h : okP R a r) (e : r = (x, t)) : R a t := by subst e; exact h
theorem okP3_get {α β : Type} {x : α} {y : β} {r : α × β × State} (h : okP3 R a r) (e : r = (x, y, t)) : R a t := by
  subst e; exact h
theorem okO_next (h : R a t) : okO R a (.next t) := .next h
theorem okV_done {st d : Nat} (h : R a t) : okV R a (.done st d t) := .done h
theorem okV_wait (h : R a t) : okV R a (.wait t) := .wait h
theorem okV_get_done {r : Verdict} {st d : Nat} (h : okV R a r) (e : r = .done st d t) : R a t := by subst e; cases h; assumption
theorem okV_get_wait {r : Verdict} (h : okV R a r) (e : r = .wait t) : R a t := by subst e; cases h; assumption
theorem okB_on (h : R a t) : okB R a (.on t) := .on h
theorem okB_stop (h : R a t) : okB R a (.stop t) := .stop h
theorem okB_refused (h : R a t) : okB R a (.refused t) := .refused h
theorem okB_get_on {r : Boot} (h : okB R a r) (e : r = .on t) : R a t := by subst e; cases h; assumption
theorem okB_get_stop {r : Boot} (h : okB R a r) (e : r = .stop t) : R a t := by subst e; cases h; assumption
theorem okB_get_refused {r : Boot} (h : okB R a r) (e : r = .refused t) : R a t := by subst e; cases h; assumption
theorem okE_ok {ε : Type} (h : R a t) : okE R a (.ok t : Except ε State) := .ok h
theorem okE_error {ε : Type} {e : ε} : okE R a (.error e : Except ε State) := .error
theorem okE_get {ε : Type} {r : Except ε State} (h : okE R a r) (e : r = .ok t) : R a t := by subst e; cases h; assumption
theorem okX_ok {α : Type} {x : α} : okX R a (.ok x) := .ok
theorem okX_error {α : Type} (h : R a t) : okX R a (.error t : Except State α) := .error h
theorem okX_get {α : Type} {r : Except State α} (h : okX R a r) (e : r = .error t) : R a t := by subst e; cases h; assumption
theorem okM_none : okM R a none := .none
theorem okM_some (h : R a t) : okM R a (some t) := .some h
theorem okM_get {r : Option State} (h : okM R a r) (e : r = some t) : R a t := by subst e; cases h; assumption
theorem okM_getD {r : Option State} (h : okM R a r) (g : R a t) : R a (r.getD t) := by
  cases h <;> assumption
theorem okMP_none {α : Type} : okMP R a (none : Option (α × State)) := .none
theorem okMP_some {α : Type} {p : α × State} (h : okP R a p) : okMP R a (some p) := .some h
theorem okM_map {β : Type} {f : β → State} {o : Option β} (h : ∀ x, R a (f x)) : okM R a (o.map f) := by
  cases o
  · exact .none
  · exact .some (h _)
theorem okMP_map {α β : Type} {f : β → α × State} {o : Option β} (h : ∀ x, okP R a (f x)) : okMP R a (o.map f) := by
  cases o
  · exact .none
  · exact .some (h _)
theorem okMP_get {α : Type} {x : α} {r : Option (α × State)} (h : okMP R a r) (e : r = some (x, t)) : R a t := by
  subst e; cases h; assumption

theorem keep_ite {c : Prop} [Decidable c] {x y : State} (h : R a x) (g : R a y) : R a (if c then x else y) := by
  split
  · exact h
  · exact g

/-- Folds. -/
theorem keep_foldl {β : Type} {f : State → β → State} (hf : ∀ s x, R a s → R a (f s x)) : ∀ (l : List β) {s : State},
    R a s → R a (l.foldl f s)
  | [], _, h => h
  | x :: l, _, h => keep_foldl hf l (hf _ x h)

theorem okP_foldl {α β : Type} {f : α × State → β → α × State} (hf : ∀ p x, okP R a p → okP R a (f p x)) :
    ∀ (l : List β) {p : α × State}, okP R a p → okP R a (l.foldl f p)
  | [], _, h => h
  | x :: l, _, h => okP_foldl hf l (hf _ x h)

theorem okP3_foldl {α β γ : Type} {f : α × β × State → γ → α × β × State} (hf : ∀ p x, okP3 R a p → okP3 R a (f p x)) :
    ∀ (l : List γ) {p : α × β × State}, okP3 R a p → okP3 R a (l.foldl f p)
  | [], _, h => h
  | x :: l, _, h => okP3_foldl hf l (hf _ x h)

theorem keep_forRange {n : Nat} {f : Nat → State → State} {s : State} (h : R a s) (hf : ∀ i s, R a s → R a (f i s)) :
    R a (forRange n f s) := keep_foldl (fun s i => hf i s) _ h

theorem keep_forEach {α : Type} {l : List α} {f : α → State → State} {s : State} (h : R a s)
    (hf : ∀ x s, R a s → R a (f x s)) : R a (forEach l f s) := keep_foldl (fun s x => hf x s) _ h

theorem keep_forNamed {n : Nat} {g : State → Nat → Bool} {f : Nat → State → State} {s : State} (h : R a s)
    (hf : ∀ i s, R a s → R a (f i s)) : R a (forNamed n g f s) := by
  refine keep_forRange h (fun i s hs => ?_)
  split
  · exact hf i s hs
  · exact hs

end

theorem wrapInt_lt (n : Nat) (i : Int) : wrapInt n i < 2 ^ n := by
  unfold wrapInt
  have h := Int.emod_lt_of_pos i (b := ((2 ^ n : Nat) : Int)) (by exact_mod_cast Nat.two_pow_pos n)
  have g := Int.emod_nonneg i (b := ((2 ^ n : Nat) : Int)) (by have := Nat.two_pow_pos n; omega)
  omega

/-- Fields that the relations do not speak of may change. -/
theorem same_of_fields {s t : State} (h1 : t.pending = s.pending) (h2 : t.mem = s.mem) (h3 : t.flash = s.flash)
    (h4 : t.cw = s.cw) (h5 : t.threads = s.threads) (h6 : t.units = s.units) (h7 : t.vregs = s.vregs) (h8 : t.queues = s.queues)
    (h9 : t.ctxs = s.ctxs) (h10 : t.lanes = s.lanes) (h11 : t.mgmt = s.mgmt) (h12 : t.barriers = s.barriers)
    (h13 : t.timeu.incr = s.timeu.incr) (h14 : t.time = s.time) (h15 : t.frac = s.frac) : Same s t := by
  refine ⟨h2, ⟨h14, h15⟩, h1, ?_⟩
  unfold Sound
  rw [h2, h3, h4, h5, h6, h7, h8, h9, h10, h11, h12, h13, h14, h15]
  exact id

end Sys2Proof.Machine
end

