-- ==== Sys2Proof/Laws/KeepOps.lean ====
section
/-! SUPPORT. What the operations of Machine/Ops.lean keep. -/

namespace Sys2Proof.Machine

theorem keep_mk {R : State → State → Prop} (hR : Absorbs Same R) {s0 s : State} {f_pending} {f_cw} {f_latch} {f_held} {f_mem} {f_uncorr} {f_stale} {f_flash} {f_flashBad} {f_flashBytes} {f_stackLogs} {f_dbgRead} {f_threads} {f_units} {f_vregs} {f_pipes} {f_attends} {f_barriers} {f_boundary} {f_launches} {f_nextLaunch} {f_queues} {f_served} {f_captures} {f_mgmt} {f_outbox} {f_ctxs} {f_lanes} {f_image} {f_tansy} {f_vetch} {f_yarrow} {f_rings} {f_timeu} {f_sensors} {f_links} {f_power} {f_safety} {f_cowslip} {f_harebell} {f_goldenAt} {f_golden} {f_goldenLate} {f_time} {f_frac} {f_ticks} {f_free}
    (h : R s0 s) (h1 : f_pending = s.pending) (h2 : f_mem = s.mem) (h3 : f_flash = s.flash) (h4 : f_cw = s.cw) (h5 : f_threads = s.threads)
    (h6 : f_units = s.units) (h7 : f_vregs = s.vregs) (h8 : f_queues = s.queues) (h9 : f_ctxs = s.ctxs) (h10 : f_lanes = s.lanes)
    (h11 : f_mgmt = s.mgmt) (h12 : f_barriers = s.barriers) (h13 : f_timeu.incr = s.timeu.incr) (h14 : f_time = s.time) (h15 : f_frac = s.frac) :
    R s0 (State.mk f_pending f_cw f_latch f_held f_mem f_uncorr f_stale f_flash f_flashBad f_flashBytes f_stackLogs f_dbgRead f_threads f_units f_vregs f_pipes f_attends f_barriers f_boundary f_launches f_nextLaunch f_queues f_served f_captures f_mgmt f_outbox f_ctxs f_lanes f_image f_tansy f_vetch f_yarrow f_rings f_timeu f_sensors f_links f_power f_safety f_cowslip f_harebell f_goldenAt f_golden f_goldenLate f_time f_frac f_ticks f_free) :=
  hR _ _ _ h (same_of_fields h1 h2 h3 h4 h5 h6 h7 h8 h9 h10 h11 h12 h13 h14 h15)

theorem keep_setRegWord {R : State → State → Prop} (hR : Absorbs Same R) {s0 s : State} {off v : Nat} (h : R s0 s) :
    R s0 (setRegWord s off v) :=
  hR _ _ _ h ⟨rfl, ⟨rfl, rfl⟩, rfl, fun g => { g with cw := storeWf_set _ _ _ g.cw }⟩

theorem keep_setReg64 {R : State → State → Prop} (hR : Absorbs Same R) {s0 : State} {s : State} {a1 a2 : Nat} (h : R s0 s) :
    R s0 (setReg64 s a1 a2) := by
  unfold setReg64
  repeat' (first
    | with_reducible assumption
    | with_reducible refine fun _ => ?_
    | split
    | with_reducible apply keep_setRegWord)

theorem keep_fset {R : State → State → Prop} (hR : Absorbs Same R) {s0 : State} {s : State} {a1 : Field} {a2 : Nat} (h : R s0 s) :
    R s0 (fset s a1 a2) := by
  unfold fset
  repeat' (first
    | with_reducible assumption
    | with_reducible refine fun _ => ?_
    | split
    | with_reducible apply keep_setRegWord
    | with_reducible apply keep_setReg64)

theorem keep_fsetb {R : State → State → Prop} (hR : Absorbs Same R) {s0 : State} {s : State} {a1 : Field} {a2 : Bool} (h : R s0 s) :
    R s0 (fsetb s a1 a2) := by
  unfold fsetb
  repeat' (first
    | with_reducible assumption
    | with_reducible refine fun _ => ?_
    | split
    | with_reducible apply keep_fset)

theorem keep_fadd {R : State → State → Prop} (hR : Absorbs Same R) {s0 : State} {s : State} {a1 : Field} {a2 : Nat} (h : R s0 s) :
    R s0 (fadd s a1 a2) := by
  unfold fadd
  repeat' (first
    | with_reducible assumption
    | with_reducible refine fun _ => ?_
    | split
    | with_reducible apply keep_fset)

theorem keep_finc {R : State → State → Prop} (hR : Absorbs Same R) {s0 : State} {s : State} {a1 : Field} (h : R s0 s) :
    R s0 (finc s a1) := by
  unfold finc
  repeat' (first
    | with_reducible assumption
    | with_reducible refine fun _ => ?_
    | split
    | with_reducible apply keep_fadd)

theorem keep_rwStore {R : State → State → Prop} (hR : Absorbs Same R) {s0 : State} {s : State} {a1 a2 : Nat} (h : R s0 s) :
    R s0 (rwStore s a1 a2) := by
  unfold rwStore
  repeat' (first
    | with_reducible assumption
    | with_reducible refine fun _ => ?_
    | ((try lift_lets -underBinder); with_reducible intro x; first | (refine (fun (_ : R s0 x) => ?_) ?_; clear_value x; rotate_left; unfold x; rotate_right) | (refine (fun (_ : okP R s0 x) => ?_) ?_; clear_value x; rotate_left; unfold x; rotate_right) | clear_value x)
    | split
    | with_reducible apply keep_setRegWord)

theorem keep_takeFree {R : State → State → Prop} (hR : Absorbs Same R) {s0 : State} {s : State} (h : R s0 s) :
    okP R s0 (takeFree s) := by
  unfold takeFree
  repeat' (first
    | with_reducible assumption
    | with_reducible refine fun _ => ?_
    | split
    | with_reducible refine keep_mk (by assumption) ?_ rfl rfl rfl rfl rfl rfl rfl rfl rfl rfl rfl rfl rfl rfl rfl)

theorem keep_memWrite {R : State → State → Prop} (hR : Absorbs Held R) {s0 s : State} {a : Nat} {bs : List Byte} (h : R s0 s) :
    R s0 (memWrite s a bs) :=
  hR _ _ _ h ⟨⟨rfl, rfl⟩, rfl, fun g => { g with mem := storeWf_setList _ _ _ g.mem }⟩

theorem keep_markBad {R : State → State → Prop} (hR : Absorbs Same R) {s0 : State} {s : State} {a1 : Nat} (h : R s0 s) :
    R s0 (markBad s a1) := by
  unfold markBad
  repeat' (first
    | with_reducible assumption
    | with_reducible refine fun _ => ?_
    | ((try lift_lets -underBinder); with_reducible intro x; first | (refine (fun (_ : R s0 x) => ?_) ?_; clear_value x; rotate_left; unfold x; rotate_right) | (refine (fun (_ : okP R s0 x) => ?_) ?_; clear_value x; rotate_left; unfold x; rotate_right) | clear_value x)
    | split
    | with_reducible refine keep_mk (by assumption) ?_ rfl rfl rfl rfl rfl rfl rfl rfl rfl rfl rfl rfl rfl rfl rfl)

theorem keep_memZero {R : State → State → Prop} (hR : Absorbs Held R) {s0 s : State} {a n : Nat} (h : R s0 s) :
    R s0 (memZero s a n) := by
  refine hR _ _ _ h ⟨⟨rfl, rfl⟩, rfl, fun g => ?_⟩
  exact { g with mem := storeWf_drop (fun k => decide (a ≤ k ∧ k < a + n)) _ g.mem }

theorem keep_flashWrite {R : State → State → Prop} (hR : Absorbs Same R) {s0 s : State} {f : Nat} {bs : List Byte} (h : R s0 s) :
    R s0 (flashWrite s f bs) :=
  hR _ _ _ h ⟨rfl, ⟨rfl, rfl⟩, rfl, fun g => { g with flash := storeWf_setList _ _ _ g.flash }⟩

theorem keep_raiseFlags {R : State → State → Prop} (hR : Absorbs Same R) {s0 : State} {s : State} {a1 a2 a3 a4 : Nat} {a5 : List Byte} (h : R s0 s) :
    R s0 (raiseFlags s a1 a2 a3 a4 a5) := by
  unfold raiseFlags
  repeat' (first
    | with_reducible assumption
    | with_reducible refine fun _ => ?_
    | split
    | with_reducible refine keep_mk (by assumption) ?_ rfl rfl rfl rfl rfl rfl rfl rfl rfl rfl rfl rfl rfl rfl rfl)

theorem keep_raise {R : State → State → Prop} (hR : Absorbs Same R) {s0 : State} {s : State} {a1 a2 : Nat} {a3 : List Byte} (h : R s0 s) :
    R s0 (raise s a1 a2 a3) := by
  unfold raise
  repeat' (first
    | with_reducible assumption
    | with_reducible refine fun _ => ?_
    | split
    | with_reducible apply keep_raiseFlags)

theorem keep_raiseCtx {R : State → State → Prop} (hR : Absorbs Same R) {s0 : State} {s : State} {a1 a2 a3 : Nat} {a4 : List Byte} (h : R s0 s) :
    R s0 (raiseCtx s a1 a2 a3 a4) := by
  unfold raiseCtx
  repeat' (first
    | with_reducible assumption
    | with_reducible refine fun _ => ?_
    | split
    | with_reducible apply keep_raiseFlags)

theorem keep_setStackLog {R : State → State → Prop} (hR : Absorbs Same R) {s0 : State} {s : State} {a1 : Nat} {a2 : StackLog} (h : R s0 s) :
    R s0 (setStackLog s a1 a2) := by
  unfold setStackLog
  repeat' (first
    | with_reducible assumption
    | with_reducible refine fun _ => ?_
    | split
    | with_reducible refine keep_mk (by assumption) ?_ rfl rfl rfl rfl rfl rfl rfl rfl rfl rfl rfl rfl rfl rfl rfl)

theorem keep_stackNote {R : State → State → Prop} (hR : Absorbs Same R) {s0 : State} {a0 : Nat} {a1 : StackLog → StackLog} {s : State} (h : R s0 s) :
    R s0 (stackNote a0 a1 s) := by
  unfold stackNote
  repeat' (first
    | with_reducible assumption
    | with_reducible refine fun _ => ?_
    | ((try lift_lets -underBinder); with_reducible intro x; first | (refine (fun (_ : R s0 x) => ?_) ?_; clear_value x; rotate_left; unfold x; rotate_right) | (refine (fun (_ : okP R s0 x) => ?_) ?_; clear_value x; rotate_left; unfold x; rotate_right) | clear_value x)
    | split
    | with_reducible apply keep_setStackLog
    | with_reducible apply keep_raise
    | with_reducible refine keep_mk (by assumption) ?_ rfl rfl rfl rfl rfl rfl rfl rfl rfl rfl rfl rfl rfl rfl rfl)

theorem keep_stackUncorr {R : State → State → Prop} (hR : Absorbs Same R) {s0 : State} {a0 a1 : Nat} {s : State} (h : R s0 s) :
    R s0 (stackUncorr a0 a1 s) := by
  unfold stackUncorr
  repeat' (first
    | with_reducible assumption
    | with_reducible refine fun _ => ?_
    | split
    | with_reducible apply keep_stackNote
    | with_reducible refine keep_mk (by assumption) ?_ rfl rfl rfl rfl rfl rfl rfl rfl rfl rfl rfl rfl rfl rfl rfl)

theorem keep_corrRaise {R : State → State → Prop} (hR : Absorbs Same R) {s0 : State} {a0 : Nat} {s : State} (h : R s0 s) :
    R s0 (corrRaise a0 s) := by
  unfold corrRaise
  repeat' (first
    | with_reducible assumption
    | with_reducible refine fun _ => ?_
    | ((try lift_lets -underBinder); with_reducible intro x; first | (refine (fun (_ : R s0 x) => ?_) ?_; clear_value x; rotate_left; unfold x; rotate_right) | (refine (fun (_ : okP R s0 x) => ?_) ?_; clear_value x; rotate_left; unfold x; rotate_right) | clear_value x)
    | split
    | with_reducible apply keep_raise
    | with_reducible apply keep_stackNote
    | with_reducible refine keep_mk (by assumption) ?_ rfl rfl rfl rfl rfl rfl rfl rfl rfl rfl rfl rfl rfl rfl rfl)

theorem keep_corrCount {R : State → State → Prop} (hR : Absorbs Same R) {s0 : State} {a0 : Nat} {s : State} (h : R s0 s) :
    R s0 (corrCount a0 s) := by
  unfold corrCount
  repeat' (first
    | with_reducible assumption
    | with_reducible refine fun _ => ?_
    | ((try lift_lets -underBinder); with_reducible intro x; first | (refine (fun (_ : R s0 x) => ?_) ?_; clear_value x; rotate_left; unfold x; rotate_right) | (refine (fun (_ : okP R s0 x) => ?_) ?_; clear_value x; rotate_left; unfold x; rotate_right) | clear_value x)
    | split
    | with_reducible apply keep_finc
    | with_reducible apply keep_corrRaise)

theorem keep_corrCounts {R : State → State → Prop} (hR : Absorbs Same R) {s0 : State} {k m : Nat} {s : State} (h : R s0 s) :
    R s0 (corrCounts k m s) := by
  unfold corrCounts
  extract_lets t
  have ht : Same s t := keep_foldl (fun s _ g => keep_corrCount absorbs_same g) _ (Same.refl s)
  exact hR _ _ _ h ⟨rfl, ⟨rfl, rfl⟩, rfl, fun g => { g with cw := (ht.2.2.2 g).cw }⟩

theorem keep_noteCorr {R : State → State → Prop} (hR : Absorbs Same R) {s0 : State} {a0 a1 : Nat} {s : State} (h : R s0 s) :
    R s0 (noteCorr a0 a1 s) := by
  unfold noteCorr
  repeat' (first
    | with_reducible assumption
    | with_reducible refine fun _ => ?_
    | ((try lift_lets -underBinder); with_reducible intro x; first | (refine (fun (_ : R s0 x) => ?_) ?_; clear_value x; rotate_left; unfold x; rotate_right) | (refine (fun (_ : okP R s0 x) => ?_) ?_; clear_value x; rotate_left; unfold x; rotate_right) | clear_value x)
    | split
    | with_reducible apply keep_corrCounts
    | with_reducible apply keep_fadd
    | with_reducible refine keep_mk (by assumption) ?_ rfl rfl rfl rfl rfl rfl rfl rfl rfl rfl rfl rfl rfl rfl rfl)

theorem keep_noteCorrs {R : State → State → Prop} (hR : Absorbs Same R) {s0 : State} {a0 : List (Nat × Nat)} {s : State} (h : R s0 s) :
    R s0 (noteCorrs a0 s) := by
  unfold noteCorrs
  repeat' (first
    | with_reducible assumption
    | with_reducible refine fun _ => ?_
    | split
    | with_reducible apply keep_noteCorr
    | with_reducible apply keep_foldl
    | with_reducible apply okP_foldl)

theorem keep_noteStacks {R : State → State → Prop} (hR : Absorbs Same R) {s0 : State} {s : State} (h : R s0 s) :
    R s0 (noteStacks s) := by
  unfold noteStacks
  repeat' (first
    | with_reducible assumption
    | with_reducible refine fun _ => ?_
    | split
    | with_reducible apply keep_corrCounts
    | with_reducible apply keep_foldl
    | with_reducible apply okP_foldl
    | with_reducible refine keep_mk (by assumption) ?_ rfl rfl rfl rfl rfl rfl rfl rfl rfl rfl rfl rfl rfl rfl rfl)

theorem keep_noteRetries {R : State → State → Prop} (hR : Absorbs Same R) {s0 : State} {a0 : Nat} {s : State} (h : R s0 s) :
    R s0 (noteRetries a0 s) := by
  unfold noteRetries
  repeat' (first
    | with_reducible assumption
    | with_reducible refine fun _ => ?_
    | split
    | with_reducible apply keep_fadd
    | with_reducible refine keep_mk (by assumption) ?_ rfl rfl rfl rfl rfl rfl rfl rfl rfl rfl rfl rfl rfl rfl rfl)

theorem keep_countFlash {R : State → State → Prop} (hR : Absorbs Same R) {s0 : State} {s : State} {a1 : Nat} (h : R s0 s) :
    R s0 (countFlash s a1) := by
  unfold countFlash
  repeat' (first
    | with_reducible assumption
    | with_reducible refine fun _ => ?_
    | ((try lift_lets -underBinder); with_reducible intro x; first | (refine (fun (_ : R s0 x) => ?_) ?_; clear_value x; rotate_left; unfold x; rotate_right) | (refine (fun (_ : okP R s0 x) => ?_) ?_; clear_value x; rotate_left; unfold x; rotate_right) | clear_value x)
    | split
    | with_reducible apply keep_fset
    | with_reducible apply keep_raise
    | with_reducible refine keep_mk (by assumption) ?_ rfl rfl rfl rfl rfl rfl rfl rfl rfl rfl rfl rfl rfl rfl rfl)

theorem keep_flashUnread {R : State → State → Prop} (hR : Absorbs Same R) {s0 : State} {s : State} {a1 : Nat} (h : R s0 s) :
    R s0 (flashUnread s a1) := by
  unfold flashUnread
  repeat' (first
    | with_reducible assumption
    | with_reducible refine fun _ => ?_
    | split
    | with_reducible apply keep_raiseCtx
    | with_reducible apply keep_finc
    | with_reducible apply keep_fsetb)

theorem keep_stagingUncorr {R : State → State → Prop} (hR : Absorbs Same R) {s0 : State} {s : State} {a1 a2 a3 : Nat} (h : R s0 s) :
    R s0 (stagingUncorr s a1 a2 a3) := by
  unfold stagingUncorr
  repeat' (first
    | with_reducible assumption
    | with_reducible apply keep_fsetb
    | with_reducible apply keep_raiseFlags)

theorem keep_reportUncorr {R : State → State → Prop} (hR : Absorbs Same R) {s0 : State} {s : State} {a1 a2 a3 a4 : Nat} (h : R s0 s) :
    R s0 (reportUncorr s a1 a2 a3 a4) := by
  unfold reportUncorr
  repeat' (first
    | with_reducible assumption
    | with_reducible refine fun _ => ?_
    | ((try lift_lets -underBinder); with_reducible intro x; first | (refine (fun (_ : R s0 x) => ?_) ?_; clear_value x; rotate_left; unfold x; rotate_right) | (refine (fun (_ : okP R s0 x) => ?_) ?_; clear_value x; rotate_left; unfold x; rotate_right) | clear_value x)
    | split
    | with_reducible apply keep_fsetb
    | with_reducible apply keep_fset
    | with_reducible apply keep_stagingUncorr
    | with_reducible apply keep_stackUncorr
    | with_reducible apply keep_raiseFlags)

theorem keep_dropRegs {R : State → State → Prop} (hR : Absorbs Same R) {s0 s : State} {p : Nat → Bool} (h : R s0 s) :
    R s0 (dropRegs p s) :=
  hR _ _ _ h ⟨rfl, ⟨rfl, rfl⟩, rfl, fun g => { g with cw := storeWf_drop p _ g.cw }⟩

theorem keep_setThread {R : State → State → Prop} (hR : Absorbs Same R) {s0 s : State} {tile t : Nat} {th : Thread} (h : R s0 s) :
    R s0 (setThread s tile t th) :=
  hR _ _ _ h ⟨rfl, ⟨rfl, rfl⟩, rfl, fun g => { g with threads := storeWf_set _ _ _ g.threads }⟩

theorem keep_setUnit {R : State → State → Prop} (hR : Absorbs Same R) {s0 s : State} {tile u : Nat} {x : UnitState} (h : R s0 s) :
    R s0 (setUnit s tile u x) :=
  hR _ _ _ h ⟨rfl, ⟨rfl, rfl⟩, rfl, fun g => { g with units := storeWf_set _ _ _ g.units }⟩

theorem keep_setQueue {R : State → State → Prop} (hR : Absorbs Same R) {s0 s : State} {q : Nat} {x : Queue} (h : R s0 s) :
    R s0 (setQueue s q x) :=
  hR _ _ _ h ⟨rfl, ⟨rfl, rfl⟩, rfl, fun g => { g with queues := storeWf_set _ _ _ g.queues }⟩

theorem keep_setCtx {R : State → State → Prop} (hR : Absorbs Same R) {s0 s : State} {c : Nat} {x : Ctx} (h : R s0 s) :
    R s0 (setCtx s c x) :=
  hR _ _ _ h ⟨rfl, ⟨rfl, rfl⟩, rfl, fun g => { g with ctxs := storeWf_set _ _ _ g.ctxs }⟩

theorem keep_setLane {R : State → State → Prop} (hR : Absorbs Same R) {s0 s : State} {l : Nat} {x : Lane} (h : R s0 s) :
    R s0 (setLane s l x) :=
  hR _ _ _ h ⟨rfl, ⟨rfl, rfl⟩, rfl, fun g => { g with lanes := storeWf_set _ _ _ g.lanes }⟩

theorem keep_setMgmt {R : State → State → Prop} (hR : Absorbs Same R) {s0 s : State} {e : Nat} {m : Mgmt} (h : R s0 s) :
    R s0 (setMgmt s e m) :=
  hR _ _ _ h ⟨rfl, ⟨rfl, rfl⟩, rfl, fun g => { g with mgmt := storeWf_set _ _ _ g.mgmt }⟩

theorem keep_mapThreads {R : State → State → Prop} (hR : Absorbs Same R) {s0 s : State} {f : Nat → Thread → Thread} (h : R s0 s) :
    R s0 (mapThreads f s) :=
  hR _ _ _ h ⟨rfl, ⟨rfl, rfl⟩, rfl, fun g => { g with threads := storeWf_map _ _ g.threads }⟩

theorem keep_mapUnits {R : State → State → Prop} (hR : Absorbs Same R) {s0 s : State} {f : Nat → UnitState → UnitState} (h : R s0 s) :
    R s0 (mapUnits f s) :=
  hR _ _ _ h ⟨rfl, ⟨rfl, rfl⟩, rfl, fun g => { g with units := storeWf_map _ _ g.units }⟩





theorem keep_modTime {R : State → State → Prop} (hR : Absorbs Same R) {s0 s : State} {f : TimeUnit → TimeUnit} (h : R s0 s)
    (hf : (f s.timeu).incr = s.timeu.incr) : R s0 (modTime s f) :=
  hR _ _ _ h (same_of_fields rfl rfl rfl rfl rfl rfl rfl rfl rfl rfl rfl rfl hf rfl rfl)

theorem keep_setNetPort {R : State → State → Prop} (hR : Absorbs Same R) {s0 : State} {s : State} {a1 : Nat} {a2 : NetPort} (h : R s0 s) :
    R s0 (setNetPort s a1 a2) := by
  unfold setNetPort
  repeat' (first
    | with_reducible assumption
    | with_reducible refine fun _ => ?_
    | split
    | with_reducible refine keep_modTime (by assumption) ?_ rfl
    | with_reducible refine keep_mk (by assumption) ?_ rfl rfl rfl rfl rfl rfl rfl rfl rfl rfl rfl rfl rfl rfl rfl)

theorem keep_handFrame {R : State → State → Prop} (hR : Absorbs Same R) {s0 : State} {a0 : Nat} {a1 : NetFrame} {s : State} (h : R s0 s) :
    R s0 (handFrame a0 a1 s) := by
  unfold handFrame
  repeat' (first
    | with_reducible assumption
    | with_reducible refine fun _ => ?_
    | split
    | with_reducible apply keep_setNetPort
    | with_reducible refine keep_mk (by assumption) ?_ rfl rfl rfl rfl rfl rfl rfl rfl rfl rfl rfl rfl rfl rfl rfl)

end Sys2Proof.Machine
end

