-- ==== Sys2Proof/Laws/KeepOperands.lean ====
section
/-! SUPPORT. What the operations of Machine/Operands.lean keep. -/

namespace Sys2Proof.Machine

theorem keep_noteStale {R : State → State → Prop} (hR : Absorbs Same R) {s0 : State} {s : State} {a1 a2 : Nat} (h : R s0 s) :
    R s0 (noteStale s a1 a2) := by
  unfold noteStale
  repeat' (first
    | with_reducible assumption
    | with_reducible refine fun _ => ?_
    | split
    | with_reducible refine keep_mk (by assumption) ?_ rfl rfl rfl rfl rfl rfl rfl rfl rfl rfl rfl rfl rfl rfl rfl)

theorem keep_invalidateRange {R : State → State → Prop} (hR : Absorbs Same R) {s0 : State} {a0 a1 a2 : Nat} {s : State} (h : R s0 s) :
    R s0 (invalidateRange a0 a1 a2 s) := by
  unfold invalidateRange
  repeat' (first
    | with_reducible assumption
    | with_reducible refine fun _ => ?_
    | split
    | with_reducible refine keep_mk (by assumption) ?_ rfl rfl rfl rfl rfl rfl rfl rfl rfl rfl rfl rfl rfl rfl rfl)

theorem keep_invalidateAll {R : State → State → Prop} (hR : Absorbs Same R) {s0 : State} {a0 : Nat} {s : State} (h : R s0 s) :
    R s0 (invalidateAll a0 s) := by
  unfold invalidateAll
  repeat' (first
    | with_reducible assumption
    | with_reducible refine fun _ => ?_
    | split
    | with_reducible refine keep_mk (by assumption) ?_ rfl rfl rfl rfl rfl rfl rfl rfl rfl rfl rfl rfl rfl rfl rfl)

theorem keep_softWrite {R : State → State → Prop} (hR : Absorbs Held R) {s0 : State} {s : State} {a1 : Nat} {a2 : List Byte} (h : R s0 s) :
    R s0 (softWrite s a1 a2) := by
  have hS := hR.sameOfHeld
  unfold softWrite
  repeat' (first
    | with_reducible assumption
    | with_reducible refine fun _ => ?_
    | split
    | with_reducible apply keep_memWrite
    | with_reducible apply keep_noteStale)

theorem keep_writePieces {R : State → State → Prop} (hR : Absorbs Held R) {s0 : State} : ∀ (ps : List (Nat × Nat)) {bs : List Byte}
    {s : State}, R s0 s → R s0 (writePieces s ps bs)
  | [], _, _, h => h
  | _ :: rest, _, _, h => keep_writePieces hR rest (keep_softWrite hR h)

theorem keep_vaWrite {R : State → State → Prop} (hR : Absorbs Held R) {s0 : State} {s : State} {a1 a2 : Nat} {a3 : List Byte} (h : R s0 s) :
    okE R s0 (vaWrite s a1 a2 a3) := by
  have hS := hR.sameOfHeld
  unfold vaWrite
  repeat' (first
    | with_reducible assumption
    | with_reducible refine fun _ => ?_
    | split
    | with_reducible apply okE_ok
    | exact okE_error
    | with_reducible apply keep_writePieces)

theorem keep_readNoted {R : State → State → Prop} (hR : Absorbs Same R) {s0 : State} {b0 : State} {a1 : Nat} {a2 : List (Nat × Nat)} {s : State} (h : R s0 s) :
    R s0 (readNoted b0 a1 a2 s) := by
  unfold readNoted
  repeat' (first
    | with_reducible assumption
    | with_reducible refine fun _ => ?_
    | split
    | with_reducible apply keep_noteCorrs)

theorem keep_vaPut {R : State → State → Prop} (hR : Absorbs Held R) {s0 : State} {s : State} {a1 a2 : Nat} {a3 : List Byte} (h : R s0 s) :
    R s0 (vaPut s a1 a2 a3) := by
  have hS := hR.sameOfHeld
  unfold vaPut
  repeat' (first
    | with_reducible assumption
    | with_reducible refine fun _ => ?_
    | split
    | with_reducible apply keep_vaWrite
    | refine okE_get ?_ (by with_reducible assumption))

theorem keep_opWrite {R : State → State → Prop} (hR : Absorbs Held R) {s0 : State} {s : State} {a1 a2 : Nat} {a3 : List Byte} (h : R s0 s) :
    okE R s0 (opWrite s a1 a2 a3) := by
  have hS := hR.sameOfHeld
  unfold opWrite
  repeat' (first
    | with_reducible assumption
    | with_reducible refine fun _ => ?_
    | split
    | with_reducible apply okE_ok
    | exact okE_error
    | with_reducible apply keep_writePieces)

theorem keep_operandNoted {R : State → State → Prop} (hR : Absorbs Same R) {s0 : State} {b0 : State} {a1 a2 a3 : Nat} {s : State} (h : R s0 s) :
    R s0 (operandNoted b0 a1 a2 a3 s) := by
  unfold operandNoted
  repeat' (first
    | with_reducible assumption
    | with_reducible refine fun _ => ?_
    | split
    | with_reducible apply keep_noteCorrs)

end Sys2Proof.Machine
end

