-- ==== Sys2Proof/Laws/KeepKvPool.lean ====
section
/-! SUPPORT. What the operations of Machine/KvPool.lean keep. -/

namespace Sys2Proof.Machine

theorem keep_memPut {R : State → State → Prop} (hR : Absorbs Held R) {s0 : State} {s : State} {a1 a2 a3 : Nat} (h : R s0 s) :
    R s0 (memPut s a1 a2 a3) := by
  have hS := hR.sameOfHeld
  unfold memPut
  repeat' (first
    | with_reducible assumption
    | with_reducible refine fun _ => ?_
    | split
    | with_reducible apply keep_memWrite)

theorem keep_setSeq {R : State → State → Prop} (hR : Absorbs Held R) {s0 : State} {s : State} {a1 a2 a3 a4 a5 a6 : Nat} (h : R s0 s) :
    R s0 (setSeq s a1 a2 a3 a4 a5 a6) := by
  have hS := hR.sameOfHeld
  unfold setSeq
  repeat' (first
    | with_reducible assumption
    | with_reducible refine fun _ => ?_
    | split
    | with_reducible apply keep_memWrite)

theorem keep_setSeqLength {R : State → State → Prop} (hR : Absorbs Held R) {s0 : State} {s : State} {a1 a2 a3 : Nat} (h : R s0 s) :
    R s0 (setSeqLength s a1 a2 a3) := by
  have hS := hR.sameOfHeld
  unfold setSeqLength
  repeat' (first
    | with_reducible assumption
    | with_reducible refine fun _ => ?_
    | split
    | with_reducible apply keep_memPut)

theorem keep_setPt {R : State → State → Prop} (hR : Absorbs Held R) {s0 : State} {s : State} {a1 a2 a3 : Nat} {a4 : Option Nat} (h : R s0 s) :
    R s0 (setPt s a1 a2 a3 a4) := by
  have hS := hR.sameOfHeld
  unfold setPt
  repeat' (first
    | with_reducible assumption
    | with_reducible refine fun _ => ?_
    | split
    | with_reducible apply keep_memPut)

theorem keep_setSlotRef {R : State → State → Prop} (hR : Absorbs Held R) {s0 : State} {s : State} {a1 a2 a3 : Nat} (h : R s0 s) :
    R s0 (setSlotRef s a1 a2 a3) := by
  have hS := hR.sameOfHeld
  unfold setSlotRef
  repeat' (first
    | with_reducible assumption
    | with_reducible refine fun _ => ?_
    | split
    | with_reducible apply keep_memPut
    | with_reducible apply keep_setSlotIndexed
    | with_reducible apply keep_setSlotNext
    | with_reducible apply keep_setSlotState
    | with_reducible apply keep_setSlotMask
    | with_reducible apply keep_setSlotPin
    | with_reducible apply keep_setSlotFilled)

theorem keep_setSlotFilled {R : State → State → Prop} (hR : Absorbs Held R) {s0 : State} {s : State} {a1 a2 a3 : Nat} (h : R s0 s) :
    R s0 (setSlotFilled s a1 a2 a3) := by
  have hS := hR.sameOfHeld
  unfold setSlotFilled
  repeat' (first
    | with_reducible assumption
    | with_reducible refine fun _ => ?_
    | split
    | with_reducible apply keep_memPut
    | with_reducible apply keep_setSlotIndexed
    | with_reducible apply keep_setSlotNext
    | with_reducible apply keep_setSlotState
    | with_reducible apply keep_setSlotMask
    | with_reducible apply keep_setSlotPin)

theorem keep_setSlotState {R : State → State → Prop} (hR : Absorbs Held R) {s0 : State} {s : State} {a1 a2 a3 : Nat} (h : R s0 s) :
    R s0 (setSlotState s a1 a2 a3) := by
  have hS := hR.sameOfHeld
  unfold setSlotState
  repeat' (first
    | with_reducible assumption
    | with_reducible refine fun _ => ?_
    | split
    | with_reducible apply keep_memPut
    | with_reducible apply keep_setSlotIndexed
    | with_reducible apply keep_setSlotNext
    | with_reducible apply keep_setSlotMask
    | with_reducible apply keep_setSlotPin)

theorem keep_setSlotIndexed {R : State → State → Prop} (hR : Absorbs Held R) {s0 : State} {s : State} {a1 a2 : Nat} {a3 : Bool} (h : R s0 s) :
    R s0 (setSlotIndexed s a1 a2 a3) := by
  have hS := hR.sameOfHeld
  unfold setSlotIndexed
  repeat' (first
    | with_reducible assumption
    | with_reducible refine fun _ => ?_
    | split
    | with_reducible apply keep_memPut
    | with_reducible apply keep_setSlotNext
    | with_reducible apply keep_setSlotMask
    | with_reducible apply keep_setSlotPin)

theorem keep_setSlotPin {R : State → State → Prop} (hR : Absorbs Held R) {s0 : State} {s : State} {a1 a2 a3 : Nat} (h : R s0 s) :
    R s0 (setSlotPin s a1 a2 a3) := by
  have hS := hR.sameOfHeld
  unfold setSlotPin
  repeat' (first
    | with_reducible assumption
    | with_reducible refine fun _ => ?_
    | split
    | with_reducible apply keep_memPut
    | with_reducible apply keep_setSlotNext
    | with_reducible apply keep_setSlotMask)

theorem keep_setSlotNext {R : State → State → Prop} (hR : Absorbs Held R) {s0 : State} {s : State} {a1 a2 a3 : Nat} (h : R s0 s) :
    R s0 (setSlotNext s a1 a2 a3) := by
  have hS := hR.sameOfHeld
  unfold setSlotNext
  repeat' (first
    | with_reducible assumption
    | with_reducible refine fun _ => ?_
    | split
    | with_reducible apply keep_memPut
    | with_reducible apply keep_setSlotMask)

theorem keep_setSlotMask {R : State → State → Prop} (hR : Absorbs Held R) {s0 : State} {s : State} {a1 a2 a3 : Nat} (h : R s0 s) :
    R s0 (setSlotMask s a1 a2 a3) := by
  have hS := hR.sameOfHeld
  unfold setSlotMask
  repeat' (first
    | with_reducible assumption
    | with_reducible refine fun _ => ?_
    | split
    | with_reducible apply keep_memPut)

theorem keep_settleSlot {R : State → State → Prop} (hR : Absorbs Held R) {s0 : State} {s : State} {a1 a2 : Nat} (h : R s0 s) :
    R s0 (settleSlot s a1 a2) := by
  have hS := hR.sameOfHeld
  unfold settleSlot
  repeat' (first
    | with_reducible assumption
    | with_reducible refine fun _ => ?_
    | ((try lift_lets -underBinder); with_reducible intro x; first | (refine (fun (_ : R s0 x) => ?_) ?_; clear_value x; rotate_left; unfold x; rotate_right) | (refine (fun (_ : okP R s0 x) => ?_) ?_; clear_value x; rotate_left; unfold x; rotate_right) | clear_value x)
    | split
    | with_reducible apply keep_setSlotState
    | with_reducible apply keep_setCtx
    | with_reducible apply keep_memPut
    | with_reducible refine keep_mk (by assumption) ?_ rfl rfl rfl rfl rfl rfl rfl rfl rfl rfl rfl rfl rfl rfl rfl)

theorem keep_dropRef {R : State → State → Prop} (hR : Absorbs Held R) {s0 : State} {s : State} {a1 a2 : Nat} (h : R s0 s) :
    R s0 (dropRef s a1 a2) := by
  have hS := hR.sameOfHeld
  unfold dropRef
  repeat' (first
    | with_reducible assumption
    | with_reducible refine fun _ => ?_
    | ((try lift_lets -underBinder); with_reducible intro x; first | (refine (fun (_ : R s0 x) => ?_) ?_; clear_value x; rotate_left; unfold x; rotate_right) | (refine (fun (_ : okP R s0 x) => ?_) ?_; clear_value x; rotate_left; unfold x; rotate_right) | clear_value x)
    | split
    | with_reducible apply keep_setSlotRef
    | with_reducible apply keep_settleSlot)

theorem keep_dropEntry {R : State → State → Prop} (hR : Absorbs Held R) {s0 : State} {s : State} {a1 a2 a3 : Nat} (h : R s0 s) :
    R s0 (dropEntry s a1 a2 a3) := by
  have hS := hR.sameOfHeld
  unfold dropEntry
  repeat' (first
    | with_reducible assumption
    | with_reducible refine fun _ => ?_
    | split
    | with_reducible apply keep_dropRef
    | with_reducible apply keep_setPt)

theorem keep_unindex {R : State → State → Prop} (hR : Absorbs Held R) {s0 : State} {s : State} {a1 a2 : Nat} (h : R s0 s) :
    R s0 (unindex s a1 a2) := by
  have hS := hR.sameOfHeld
  unfold unindex
  repeat' (first
    | with_reducible assumption
    | with_reducible refine fun _ => ?_
    | ((try lift_lets -underBinder); with_reducible intro x; first | (refine (fun (_ : R s0 x) => ?_) ?_; clear_value x; rotate_left; unfold x; rotate_right) | (refine (fun (_ : okP R s0 x) => ?_) ?_; clear_value x; rotate_left; unfold x; rotate_right) | clear_value x)
    | split
    | with_reducible apply keep_memPut
    | with_reducible apply keep_setSlotNext
    | with_reducible apply keep_setSlotIndexed)

theorem keep_index {R : State → State → Prop} (hR : Absorbs Held R) {s0 : State} {s : State} {a1 a2 a3 a4 : Nat} (h : R s0 s) :
    R s0 (index s a1 a2 a3 a4) := by
  have hS := hR.sameOfHeld
  unfold index
  repeat' (first
    | with_reducible assumption
    | with_reducible refine fun _ => ?_
    | ((try lift_lets -underBinder); with_reducible intro x; first | (refine (fun (_ : R s0 x) => ?_) ?_; clear_value x; rotate_left; unfold x; rotate_right) | (refine (fun (_ : okP R s0 x) => ?_) ?_; clear_value x; rotate_left; unfold x; rotate_right) | clear_value x)
    | split
    | with_reducible apply keep_memPut
    | with_reducible apply keep_setSlotNext
    | with_reducible apply keep_setSlotIndexed)

theorem keep_tryIndex {R : State → State → Prop} (hR : Absorbs Held R) {s0 : State} {c q : Nat} : ∀ (fuel : Nat) {i : Nat}
    {s : State}, R s0 s → okP R s0 (tryIndex s c q fuel i) := by
  have hS := hR.sameOfHeld
  intro fuel
  induction fuel with
  | zero => intro i s h; exact h
  | succ n ih =>
    intro i s h
    unfold tryIndex
    repeat' (first
      | with_reducible apply ih
      | with_reducible assumption
      | with_reducible refine fun _ => ?_
      | ((try lift_lets -underBinder); with_reducible intro x; first | (refine (fun (_ : R s0 x) => ?_) ?_; clear_value x; rotate_left; unfold x; rotate_right) | (refine (fun (_ : okP R s0 x) => ?_) ?_; clear_value x; rotate_left; unfold x; rotate_right) | clear_value x)
      | split
      | with_reducible apply keep_index
      | with_reducible apply keep_finc
      | with_reducible apply keep_raiseCtx)

theorem keep_tryPages {R : State → State → Prop} (hR : Absorbs Held R) {s0 : State} {c q : Nat} : ∀ (l : List Nat) {upto : Nat}
    {s : State}, R s0 s → R s0 (tryPages c q upto l s)
  | [], _, _, h => h
  | i :: rest, upto, s, h => by
    unfold tryPages
    split
    · exact keep_tryPages hR rest h
    · exact keep_tryPages hR rest (keep_tryIndex hR _ h)

theorem keep_freshSlot {R : State → State → Prop} (hR : Absorbs Held R) {s0 : State} {s : State} {a1 a2 : Nat} (h : R s0 s) :
    R s0 (freshSlot s a1 a2) := by
  have hS := hR.sameOfHeld
  unfold freshSlot
  repeat' (first
    | with_reducible assumption
    | with_reducible refine fun _ => ?_
    | ((try lift_lets -underBinder); with_reducible intro x; first | (refine (fun (_ : R s0 x) => ?_) ?_; clear_value x; rotate_left; unfold x; rotate_right) | (refine (fun (_ : okP R s0 x) => ?_) ?_; clear_value x; rotate_left; unfold x; rotate_right) | clear_value x)
    | split
    | with_reducible apply keep_memWrite)

theorem keep_allocSlot {R : State → State → Prop} (hR : Absorbs Held R) {s0 : State} {s : State} {a1 : Nat} {a2 : Bool} (h : R s0 s) :
    okMP R s0 (allocSlot s a1 a2) := by
  have hS := hR.sameOfHeld
  unfold allocSlot
  repeat' (first
    | with_reducible assumption
    | with_reducible refine fun _ => ?_
    | split
    | exact okMP_none
    | with_reducible apply okMP_map
    | with_reducible apply okMP_some
    | with_reducible apply keep_freshSlot
    | with_reducible apply keep_unindex)

theorem keep_copyPosition {R : State → State → Prop} (hR : Absorbs Held R) {s0 : State} {a0 a1 a2 a3 a4 : Nat} {s : State} (h : R s0 s) :
    R s0 (copyPosition a0 a1 a2 a3 a4 s) := by
  have hS := hR.sameOfHeld
  unfold copyPosition
  repeat' (first
    | with_reducible assumption
    | with_reducible refine fun _ => ?_
    | split
    | with_reducible apply keep_forEach
    | with_reducible apply keep_memWrite)

theorem keep_undefPosition {R : State → State → Prop} (hR : Absorbs Held R) {s0 : State} {a0 a1 a2 a3 : Nat} {s : State} (h : R s0 s) :
    R s0 (undefPosition a0 a1 a2 a3 s) := by
  have hS := hR.sameOfHeld
  unfold undefPosition
  repeat' (first
    | with_reducible assumption
    | with_reducible refine fun _ => ?_
    | ((try lift_lets -underBinder); with_reducible intro x; first | (refine (fun (_ : R s0 x) => ?_) ?_; clear_value x; rotate_left; unfold x; rotate_right) | (refine (fun (_ : okP R s0 x) => ?_) ?_; clear_value x; rotate_left; unfold x; rotate_right) | clear_value x)
    | split
    | with_reducible apply keep_forEach
    | with_reducible apply keep_takeFree
    | with_reducible apply keep_memWrite
    | refine okP_get ?_ (by with_reducible assumption))

theorem keep_ownPage {R : State → State → Prop} (hR : Absorbs Held R) {s0 : State} {s : State} {a1 a2 a3 : Nat} (h : R s0 s) :
    okM R s0 (ownPage s a1 a2 a3) := by
  have hS := hR.sameOfHeld
  unfold ownPage
  repeat' (first
    | with_reducible assumption
    | with_reducible refine fun _ => ?_
    | ((try lift_lets -underBinder); with_reducible intro x; first | (refine (fun (_ : R s0 x) => ?_) ?_; clear_value x; rotate_left; unfold x; rotate_right) | (refine (fun (_ : okP R s0 x) => ?_) ?_; clear_value x; rotate_left; unfold x; rotate_right) | clear_value x)
    | split
    | exact okM_none
    | with_reducible apply okM_map
    | with_reducible apply okM_some
    | with_reducible apply keep_unindex
    | with_reducible apply keep_allocSlot
    | with_reducible apply keep_forRange
    | with_reducible apply keep_copyPosition
    | with_reducible apply keep_setSlotFilled
    | with_reducible apply keep_memWrite
    | with_reducible apply keep_setSlotMask
    | with_reducible apply keep_dropRef
    | with_reducible apply keep_setPt
    | refine okMP_get ?_ (by with_reducible assumption))

theorem keep_kvFreeAll {R : State → State → Prop} (hR : Absorbs Held R) {s0 : State} {s : State} {a1 : Nat} (h : R s0 s) :
    R s0 (kvFreeAll s a1) := by
  have hS := hR.sameOfHeld
  unfold kvFreeAll
  repeat' (first
    | with_reducible assumption
    | with_reducible refine fun _ => ?_
    | ((try lift_lets -underBinder); with_reducible intro x; first | (refine (fun (_ : R s0 x) => ?_) ?_; clear_value x; rotate_left; unfold x; rotate_right) | (refine (fun (_ : okP R s0 x) => ?_) ?_; clear_value x; rotate_left; unfold x; rotate_right) | clear_value x)
    | split
    | with_reducible apply keep_forRange
    | with_reducible apply keep_memPut
    | with_reducible apply keep_setSlotIndexed
    | with_reducible apply keep_setSlotState
    | with_reducible apply keep_setSlotRef)

theorem keep_kvClearParts {R : State → State → Prop} (hR : Absorbs Held R) {s0 : State} {s : State} {a1 : Nat} (h : R s0 s) :
    R s0 (kvClearParts s a1) := by
  have hS := hR.sameOfHeld
  unfold kvClearParts
  repeat' (first
    | with_reducible assumption
    | with_reducible refine fun _ => ?_
    | ((try lift_lets -underBinder); with_reducible intro x; first | (refine (fun (_ : R s0 x) => ?_) ?_; clear_value x; rotate_left; unfold x; rotate_right) | (refine (fun (_ : okP R s0 x) => ?_) ?_; clear_value x; rotate_left; unfold x; rotate_right) | clear_value x)
    | split
    | with_reducible apply keep_forRange
    | with_reducible apply keep_memZero
    | with_reducible apply keep_memPut)

theorem keep_kvInitRegion {R : State → State → Prop} (hR : Absorbs Held R) {s0 : State} {s : State} {a1 : Nat} (h : R s0 s) :
    R s0 (kvInitRegion s a1) := by
  have hS := hR.sameOfHeld
  unfold kvInitRegion
  repeat' (first
    | with_reducible assumption
    | with_reducible refine fun _ => ?_
    | ((try lift_lets -underBinder); with_reducible intro x; first | (refine (fun (_ : R s0 x) => ?_) ?_; clear_value x; rotate_left; unfold x; rotate_right) | (refine (fun (_ : okP R s0 x) => ?_) ?_; clear_value x; rotate_left; unfold x; rotate_right) | clear_value x)
    | split
    | with_reducible apply keep_kvClearParts
    | with_reducible apply keep_fset
    | with_reducible apply keep_forRange
    | with_reducible apply keep_setCtx
    | with_reducible refine keep_mk (by assumption) ?_ rfl rfl rfl rfl rfl rfl rfl rfl rfl rfl rfl rfl rfl rfl rfl)

end Sys2Proof.Machine
end

