-- ==== Sys2Proof/Laws/KeepContexts.lean ====
section
/-! SUPPORT. What the operations of Machine/Contexts.lean keep. -/

namespace Sys2Proof.Machine

theorem keep_modCmd {R : State → State → Prop} (hR : Absorbs Same R) {s0 : State} {s : State} {a1 a2 : Nat} {a3 : QCmd → QCmd} (h : R s0 s) :
    R s0 (modCmd s a1 a2 a3) := by
  unfold modCmd
  repeat' (first
    | with_reducible assumption
    | with_reducible refine fun _ => ?_
    | ((try lift_lets -underBinder); with_reducible intro x; first | (refine (fun (_ : R s0 x) => ?_) ?_; clear_value x; rotate_left; unfold x; rotate_right) | (refine (fun (_ : okP R s0 x) => ?_) ?_; clear_value x; rotate_left; unfold x; rotate_right) | clear_value x)
    | split
    | with_reducible apply keep_setQueue
    | with_reducible refine keep_mk (by assumption) ?_ rfl rfl rfl rfl rfl rfl rfl rfl rfl rfl rfl rfl rfl rfl rfl)

theorem keep_completeCmd {R : State → State → Prop} (hR : Absorbs Same R) {s0 : State} {s : State} {a1 a2 a3 a4 : Nat} (h : R s0 s) :
    R s0 (completeCmd s a1 a2 a3 a4) := by
  unfold completeCmd
  repeat' (first
    | with_reducible assumption
    | with_reducible refine fun _ => ?_
    | split
    | with_reducible apply keep_modCmd
    | with_reducible refine keep_mk (by assumption) ?_ rfl rfl rfl rfl rfl rfl rfl rfl rfl rfl rfl rfl rfl rfl rfl)

theorem keep_setHolder {R : State → State → Prop} (hR : Absorbs Same R) {s0 : State} {s : State} {a1 : Nat} {a2 : Option Nat} (h : R s0 s) :
    R s0 (setHolder s a1 a2) := by
  unfold setHolder
  repeat' (first
    | with_reducible assumption
    | with_reducible refine fun _ => ?_
    | ((try lift_lets -underBinder); with_reducible intro x; first | (refine (fun (_ : R s0 x) => ?_) ?_; clear_value x; rotate_left; unfold x; rotate_right) | (refine (fun (_ : okP R s0 x) => ?_) ?_; clear_value x; rotate_left; unfold x; rotate_right) | clear_value x)
    | split
    | with_reducible apply keep_fsetb
    | with_reducible apply keep_setLane
    | with_reducible refine keep_mk (by assumption) ?_ rfl rfl rfl rfl rfl rfl rfl rfl rfl rfl rfl rfl rfl rfl rfl)

theorem keep_deferClear {R : State → State → Prop} (hR : Absorbs Same R) {s0 : State} {s : State} {a1 a2 : Nat} (h : R s0 s) :
    R s0 (deferClear s a1 a2) := by
  unfold deferClear
  repeat' (first
    | with_reducible assumption
    | with_reducible refine fun _ => ?_
    | split
    | with_reducible apply keep_finc
    | with_reducible apply keep_setCtx
    | with_reducible refine keep_mk (by assumption) ?_ rfl rfl rfl rfl rfl rfl rfl rfl rfl rfl rfl rfl rfl rfl rfl)

theorem keep_endDeferral {R : State → State → Prop} (hR : Absorbs Same R) {s0 : State} {s : State} {a1 : Nat} (h : R s0 s) :
    R s0 (endDeferral s a1) := by
  unfold endDeferral
  repeat' (first
    | with_reducible assumption
    | with_reducible refine fun _ => ?_
    | split
    | with_reducible apply keep_setCtx
    | with_reducible refine keep_mk (by assumption) ?_ rfl rfl rfl rfl rfl rfl rfl rfl rfl rfl rfl rfl rfl rfl rfl)

theorem keep_cutDeferral {R : State → State → Prop} (hR : Absorbs Same R) {s0 : State} {s : State} {a1 a2 : Nat} (h : R s0 s) :
    R s0 (cutDeferral s a1 a2) := by
  unfold cutDeferral
  repeat' (first
    | with_reducible assumption
    | with_reducible refine fun _ => ?_
    | ((try lift_lets -underBinder); with_reducible intro x; first | (refine (fun (_ : R s0 x) => ?_) ?_; clear_value x; rotate_left; unfold x; rotate_right) | (refine (fun (_ : okP R s0 x) => ?_) ?_; clear_value x; rotate_left; unfold x; rotate_right) | clear_value x)
    | split
    | with_reducible apply keep_endDeferral
    | with_reducible apply keep_setCtx
    | with_reducible refine keep_mk (by assumption) ?_ rfl rfl rfl rfl rfl rfl rfl rfl rfl rfl rfl rfl rfl rfl rfl)

theorem keep_grantSlice {R : State → State → Prop} (hR : Absorbs Same R) {s0 : State} {l : Nat} : ∀ (fuel : Nat) {s : State},
    R s0 s → R s0 (grantSlice l fuel s) := by
  intro fuel
  induction fuel with
  | zero => intro s h; exact h
  | succ n ih =>
    intro s h
    unfold grantSlice
    repeat' (first
      | with_reducible apply ih
      | with_reducible assumption
      | with_reducible refine fun _ => ?_
      | ((try lift_lets -underBinder); with_reducible intro x; first | (refine (fun (_ : R s0 x) => ?_) ?_; clear_value x; rotate_left; unfold x; rotate_right) | (refine (fun (_ : okP R s0 x) => ?_) ?_; clear_value x; rotate_left; unfold x; rotate_right) | clear_value x)
      | split
      | with_reducible apply keep_setHolder
      | with_reducible apply keep_setCtx
      | with_reducible apply keep_endDeferral
      | with_reducible apply keep_setLane
      | with_reducible refine keep_mk (by assumption) ?_ rfl rfl rfl rfl rfl rfl rfl rfl rfl rfl rfl rfl rfl rfl rfl)

theorem keep_dropHolder {R : State → State → Prop} (hR : Absorbs Same R) {s0 : State} {s : State} {a1 : Nat} (h : R s0 s) :
    R s0 (dropHolder s a1) := by
  unfold dropHolder
  repeat' (first
    | with_reducible assumption
    | with_reducible refine fun _ => ?_
    | ((try lift_lets -underBinder); with_reducible intro x; first | (refine (fun (_ : R s0 x) => ?_) ?_; clear_value x; rotate_left; unfold x; rotate_right) | (refine (fun (_ : okP R s0 x) => ?_) ?_; clear_value x; rotate_left; unfold x; rotate_right) | clear_value x)
    | split
    | with_reducible apply keep_deferClear
    | with_reducible apply keep_setHolder)

theorem keep_releaseMovers {R : State → State → Prop} (hR : Absorbs Same R) {s0 : State} {s : State} (h : R s0 s) :
    R s0 (releaseMovers s) := by
  unfold releaseMovers
  repeat' (first
    | with_reducible assumption
    | with_reducible refine fun _ => ?_
    | split
    | with_reducible apply keep_mapUnits
    | with_reducible refine keep_mk (by assumption) ?_ rfl rfl rfl rfl rfl rfl rfl rfl rfl rfl rfl rfl rfl rfl rfl)

theorem keep_wakeUnitWaiters {R : State → State → Prop} (hR : Absorbs Same R) {s0 : State} {s : State} (h : R s0 s) :
    R s0 (wakeUnitWaiters s) := by
  unfold wakeUnitWaiters
  repeat' (first
    | with_reducible assumption
    | with_reducible refine fun _ => ?_
    | split
    | with_reducible apply keep_mapThreads)

theorem keep_reschedule {R : State → State → Prop} (hR : Absorbs Same R) {s0 : State} {s : State} {a1 : Nat} (h : R s0 s) :
    R s0 (reschedule s a1) := by
  unfold reschedule
  repeat' (first
    | with_reducible assumption
    | with_reducible refine fun _ => ?_
    | ((try lift_lets -underBinder); with_reducible intro x; first | (refine (fun (_ : R s0 x) => ?_) ?_; clear_value x; rotate_left; unfold x; rotate_right) | (refine (fun (_ : okP R s0 x) => ?_) ?_; clear_value x; rotate_left; unfold x; rotate_right) | clear_value x)
    | split
    | with_reducible apply keep_dropHolder
    | with_reducible apply keep_finc
    | with_reducible apply keep_releaseMovers
    | with_reducible apply keep_grantSlice)

theorem keep_rescheduleAll {R : State → State → Prop} (hR : Absorbs Same R) {s0 : State} {s : State} (h : R s0 s) :
    R s0 (rescheduleAll s) := by
  unfold rescheduleAll
  repeat' (first
    | with_reducible assumption
    | with_reducible refine fun _ => ?_
    | split
    | with_reducible apply keep_forRange
    | with_reducible apply keep_reschedule)

theorem keep_closeFrame {R : State → State → Prop} (hR : Absorbs Same R) {s0 : State} {s : State} {a1 : Nat} {a2 : Option Nat} (h : R s0 s) :
    R s0 (closeFrame s a1 a2) := by
  unfold closeFrame
  repeat' (first
    | with_reducible assumption
    | with_reducible refine fun _ => ?_
    | ((try lift_lets -underBinder); with_reducible intro x; first | (refine (fun (_ : R s0 x) => ?_) ?_; clear_value x; rotate_left; unfold x; rotate_right) | (refine (fun (_ : okP R s0 x) => ?_) ?_; clear_value x; rotate_left; unfold x; rotate_right) | clear_value x)
    | split
    | with_reducible apply keep_setCtx
    | with_reducible apply keep_fset
    | with_reducible apply keep_fsetb
    | with_reducible apply keep_raiseCtx
    | with_reducible apply keep_finc
    | with_reducible refine keep_mk (by assumption) ?_ rfl rfl rfl rfl rfl rfl rfl rfl rfl rfl rfl rfl rfl rfl rfl)

theorem keep_setLaunch {R : State → State → Prop} (hR : Absorbs Same R) {s0 : State} {s : State} {a1 : Launch} (h : R s0 s) :
    R s0 (setLaunch s a1) := by
  unfold setLaunch
  repeat' (first
    | with_reducible assumption
    | with_reducible refine fun _ => ?_
    | split
    | with_reducible refine keep_mk (by assumption) ?_ rfl rfl rfl rfl rfl rfl rfl rfl rfl rfl rfl rfl rfl rfl rfl)

theorem keep_dropLaunch {R : State → State → Prop} (hR : Absorbs Same R) {s0 : State} {s : State} {a1 : Nat} (h : R s0 s) :
    R s0 (dropLaunch s a1) := by
  unfold dropLaunch
  repeat' (first
    | with_reducible assumption
    | with_reducible refine fun _ => ?_
    | split
    | with_reducible refine keep_mk (by assumption) ?_ rfl rfl rfl rfl rfl rfl rfl rfl rfl rfl rfl rfl rfl rfl rfl)

theorem keep_vetchDiscard {R : State → State → Prop} (hR : Absorbs Same R) {s0 : State} {a0 : Nat} {s : State} (h : R s0 s) :
    R s0 (vetchDiscard a0 s) := by
  unfold vetchDiscard
  repeat' (first
    | with_reducible assumption
    | with_reducible refine fun _ => ?_
    | ((try lift_lets -underBinder); with_reducible intro x; first | (refine (fun (_ : R s0 x) => ?_) ?_; clear_value x; rotate_left; unfold x; rotate_right) | (refine (fun (_ : okP R s0 x) => ?_) ?_; clear_value x; rotate_left; unfold x; rotate_right) | clear_value x)
    | split
    | with_reducible apply keep_raiseCtx
    | with_reducible apply keep_fsetb
    | with_reducible apply keep_fset
    | with_reducible refine keep_mk (by assumption) ?_ rfl rfl rfl rfl rfl rfl rfl rfl rfl rfl rfl rfl rfl rfl rfl)

theorem keep_teardownTag {R : State → State → Prop} (hR : Absorbs Same R) {s0 : State} {s : State} {a1 : Option (Nat × Nat × Nat)} (h : R s0 s) :
    okP R s0 (teardownTag s a1) := by
  unfold teardownTag
  repeat' (first
    | with_reducible assumption
    | with_reducible refine fun _ => ?_
    | ((try lift_lets -underBinder); with_reducible intro x; first | (refine (fun (_ : R s0 x) => ?_) ?_; clear_value x; rotate_left; unfold x; rotate_right) | (refine (fun (_ : okP R s0 x) => ?_) ?_; clear_value x; rotate_left; unfold x; rotate_right) | clear_value x)
    | split
    | with_reducible apply keep_takeFree
    | refine okP_get ?_ (by with_reducible assumption))

theorem keep_endWork {R : State → State → Prop} (hR : Absorbs Same R) {s0 : State} {a0 : Nat} {s : State} (h : R s0 s) :
    R s0 (endWork a0 s) := by
  unfold endWork
  repeat' (first
    | with_reducible assumption
    | with_reducible refine fun _ => ?_
    | ((try lift_lets -underBinder); with_reducible intro x; first | (refine (fun (_ : R s0 x) => ?_) ?_; clear_value x; rotate_left; unfold x; rotate_right) | (refine (fun (_ : okP R s0 x) => ?_) ?_; clear_value x; rotate_left; unfold x; rotate_right) | clear_value x)
    | split
    | with_reducible apply keep_mapUnits
    | with_reducible apply keep_mapThreads
    | with_reducible refine keep_mk (by assumption) ?_ rfl rfl rfl rfl rfl rfl rfl rfl rfl rfl rfl rfl rfl rfl rfl)

theorem keep_clearMig {R : State → State → Prop} (hR : Absorbs Held R) {s0 : State} {a0 a1 : Nat} {s : State} (h : R s0 s) :
    R s0 (clearMig a0 a1 s) := by
  have hS := hR.sameOfHeld
  unfold clearMig
  repeat' (first
    | with_reducible assumption
    | with_reducible refine fun _ => ?_
    | split
    | with_reducible apply keep_memWrite)

theorem keep_releasePages {R : State → State → Prop} (hR : Absorbs Held R) {s0 : State} {a0 : Nat} {a1 : QCmd} {s : State} (h : R s0 s) :
    R s0 (releasePages a0 a1 s) := by
  have hS := hR.sameOfHeld
  unfold releasePages
  repeat' (first
    | with_reducible assumption
    | with_reducible refine fun _ => ?_
    | split
    | with_reducible apply keep_forRange
    | with_reducible apply keep_clearMig)

theorem keep_cancelWork {R : State → State → Prop} (hR : Absorbs Held R) {s0 : State} {a0 : Nat} {a1 : Option (Nat × Nat × Nat)} {a2 : List (Nat × QCmd)} {s : State} (h : R s0 s) :
    R s0 (cancelWork a0 a1 a2 s) := by
  have hS := hR.sameOfHeld
  unfold cancelWork
  repeat' (first
    | with_reducible assumption
    | with_reducible refine fun _ => ?_
    | ((try lift_lets -underBinder); with_reducible intro x; first | (refine (fun (_ : R s0 x) => ?_) ?_; clear_value x; rotate_left; unfold x; rotate_right) | (refine (fun (_ : okP R s0 x) => ?_) ?_; clear_value x; rotate_left; unfold x; rotate_right) | clear_value x)
    | split
    | with_reducible apply keep_forEach
    | with_reducible apply keep_releasePages
    | with_reducible apply keep_completeCmd
    | with_reducible refine keep_mk (by assumption) ?_ rfl rfl rfl rfl rfl rfl rfl rfl rfl rfl rfl rfl rfl rfl rfl)

theorem keep_yieldLane {R : State → State → Prop} (hR : Absorbs Same R) {s0 : State} {a0 : Nat} {s : State} (h : R s0 s) :
    R s0 (yieldLane a0 s) := by
  unfold yieldLane
  repeat' (first
    | with_reducible assumption
    | with_reducible refine fun _ => ?_
    | split
    | with_reducible apply keep_setHolder)

theorem keep_beginTeardown {R : State → State → Prop} (hR : Absorbs Held R) {s0 : State} {s : State} {a1 a2 : Nat} {a3 : Option (Nat × Nat × Nat)} (h : R s0 s) :
    R s0 (beginTeardown s a1 a2 a3) := by
  have hS := hR.sameOfHeld
  unfold beginTeardown
  repeat' (first
    | with_reducible assumption
    | with_reducible refine fun _ => ?_
    | ((try lift_lets -underBinder); with_reducible intro x; first | (refine (fun (_ : R s0 x) => ?_) ?_; clear_value x; rotate_left; unfold x; rotate_right) | (refine (fun (_ : okP R s0 x) => ?_) ?_; clear_value x; rotate_left; unfold x; rotate_right) | clear_value x)
    | split
    | with_reducible apply keep_teardownTag
    | with_reducible apply keep_fset
    | with_reducible apply keep_forEach
    | with_reducible apply keep_fsetb
    | with_reducible apply keep_raiseCtx
    | with_reducible apply keep_cancelWork
    | with_reducible apply keep_endWork
    | with_reducible apply keep_closeFrame
    | with_reducible apply keep_yieldLane
    | with_reducible apply keep_setCtx
    | with_reducible apply keep_kvFreeAll
    | with_reducible apply keep_vetchDiscard
    | with_reducible apply keep_rescheduleAll
    | with_reducible apply keep_wakeUnitWaiters
    | refine okP_get ?_ (by with_reducible assumption)
    | with_reducible refine keep_mk (by assumption) ?_ rfl rfl rfl rfl rfl rfl rfl rfl rfl rfl rfl rfl rfl rfl rfl)

theorem keep_recordFault {R : State → State → Prop} (hR : Absorbs Same R) {s0 : State} {s : State} {a1 a2 a3 a4 : Nat} {a5 : Bool} (h : R s0 s) :
    R s0 (recordFault s a1 a2 a3 a4 a5) := by
  unfold recordFault
  repeat' (first
    | with_reducible assumption
    | with_reducible refine fun _ => ?_
    | ((try lift_lets -underBinder); with_reducible intro x; first | (refine (fun (_ : R s0 x) => ?_) ?_; clear_value x; rotate_left; unfold x; rotate_right) | (refine (fun (_ : okP R s0 x) => ?_) ?_; clear_value x; rotate_left; unfold x; rotate_right) | clear_value x)
    | split
    | with_reducible apply keep_finc
    | with_reducible apply keep_fsetb
    | with_reducible apply keep_fset
    | with_reducible apply keep_raiseCtx)

theorem keep_threadFault {R : State → State → Prop} (hR : Absorbs Held R) {s0 : State} {s : State} {a1 a2 a3 a4 : Nat} {a5 : Option Nat} (h : R s0 s) :
    R s0 (threadFault s a1 a2 a3 a4 a5) := by
  have hS := hR.sameOfHeld
  unfold threadFault
  repeat' (first
    | with_reducible assumption
    | with_reducible refine fun _ => ?_
    | ((try lift_lets -underBinder); with_reducible intro x; first | (refine (fun (_ : R s0 x) => ?_) ?_; clear_value x; rotate_left; unfold x; rotate_right) | (refine (fun (_ : okP R s0 x) => ?_) ?_; clear_value x; rotate_left; unfold x; rotate_right) | clear_value x)
    | split
    | with_reducible apply keep_beginTeardown
    | with_reducible apply keep_recordFault)

theorem keep_meshFault {R : State → State → Prop} (hR : Absorbs Held R) {s0 : State} {s : State} {a1 a2 a3 : Nat} {a4 : Option Nat} (h : R s0 s) :
    R s0 (meshFault s a1 a2 a3 a4) := by
  have hS := hR.sameOfHeld
  unfold meshFault
  repeat' (first
    | with_reducible assumption
    | with_reducible refine fun _ => ?_
    | ((try lift_lets -underBinder); with_reducible intro x; first | (refine (fun (_ : R s0 x) => ?_) ?_; clear_value x; rotate_left; unfold x; rotate_right) | (refine (fun (_ : okP R s0 x) => ?_) ?_; clear_value x; rotate_left; unfold x; rotate_right) | clear_value x)
    | split
    | with_reducible apply keep_beginTeardown
    | with_reducible apply keep_recordFault)

theorem keep_tileUncorr {R : State → State → Prop} (hR : Absorbs Held R) {s0 : State} {s : State} {a1 a2 a3 : Nat} {a4 : Option Nat} {a5 a6 : Nat} (h : R s0 s) :
    R s0 (tileUncorr s a1 a2 a3 a4 a5 a6) := by
  have hS := hR.sameOfHeld
  unfold tileUncorr
  repeat' (first
    | with_reducible assumption
    | with_reducible refine fun _ => ?_
    | ((try lift_lets -underBinder); with_reducible intro x; first | (refine (fun (_ : R s0 x) => ?_) ?_; clear_value x; rotate_left; unfold x; rotate_right) | (refine (fun (_ : okP R s0 x) => ?_) ?_; clear_value x; rotate_left; unfold x; rotate_right) | clear_value x)
    | split
    | with_reducible apply keep_reportUncorr
    | with_reducible apply keep_threadFault
    | with_reducible apply keep_beginTeardown)

theorem keep_tileAccessFault {R : State → State → Prop} (hR : Absorbs Held R) {s0 : State} {s : State} {a1 a2 a3 : Nat} {a4 : Option Nat} {a5 : AccErr} (h : R s0 s) :
    R s0 (tileAccessFault s a1 a2 a3 a4 a5) := by
  have hS := hR.sameOfHeld
  unfold tileAccessFault
  repeat' (first
    | with_reducible assumption
    | with_reducible refine fun _ => ?_
    | split
    | with_reducible apply keep_threadFault
    | with_reducible apply keep_tileUncorr)

theorem keep_tileWriteFault {R : State → State → Prop} (hR : Absorbs Held R) {s0 : State} {s : State} {a1 a2 a3 : Nat} {a4 : Option Nat} {a5 : AccErr} (h : R s0 s) :
    R s0 (tileWriteFault s a1 a2 a3 a4 a5) := by
  have hS := hR.sameOfHeld
  unfold tileWriteFault
  repeat' (first
    | with_reducible assumption
    | with_reducible refine fun _ => ?_
    | split
    | with_reducible apply keep_meshFault
    | with_reducible apply keep_threadFault
    | with_reducible apply keep_tileAccessFault)

end Sys2Proof.Machine
end

