-- ==== Sys2Proof/Laws/KeepQueues.lean ====
section
/-! SUPPORT. What the operations of Machine/Queues.lean keep. -/

namespace Sys2Proof.Machine

theorem keep_qmWrite {R : State → State → Prop} (hR : Absorbs Held R) {s0 : State} {s : State} {a1 a2 : Nat} {a3 : List Byte} (h : R s0 s) :
    R s0 (qmWrite s a1 a2 a3) := by
  have hS := hR.sameOfHeld
  unfold qmWrite
  repeat' (first
    | with_reducible assumption
    | with_reducible refine fun _ => ?_
    | ((try lift_lets -underBinder); with_reducible intro x; first | (refine (fun (_ : R s0 x) => ?_) ?_; clear_value x; rotate_left; unfold x; rotate_right) | (refine (fun (_ : okP R s0 x) => ?_) ?_; clear_value x; rotate_left; unfold x; rotate_right) | clear_value x)
    | split
    | with_reducible apply keep_memWrite
    | with_reducible apply keep_reportUncorr
    | with_reducible apply keep_beginTeardown)

theorem keep_fetchAll {R : State → State → Prop} (hR : Absorbs Held R) {s0 : State} {q : Nat} : ∀ (count : Nat) {n : Nat}
    {s : State}, R s0 s → R s0 (fetchAll q count n s) := by
  have hS := hR.sameOfHeld
  intro count
  induction count with
  | zero => intro n s h; exact h
  | succ k ih =>
    intro n s h
    unfold fetchAll
    repeat' (first
      | with_reducible apply ih
      | with_reducible assumption
      | with_reducible refine fun _ => ?_
      | ((try lift_lets -underBinder); with_reducible intro x; first | (refine (fun (_ : R s0 x) => ?_) ?_; clear_value x; rotate_left; unfold x; rotate_right) | (refine (fun (_ : okP R s0 x) => ?_) ?_; clear_value x; rotate_left; unfold x; rotate_right) | clear_value x)
      | split
      | with_reducible apply keep_beginTeardown
      | with_reducible apply keep_setQueue
      | with_reducible apply keep_reportUncorr
      | with_reducible refine keep_mk (by assumption) ?_ rfl rfl rfl rfl rfl rfl rfl rfl rfl rfl rfl rfl rfl rfl rfl)

theorem keep_acceptDoorbell {R : State → State → Prop} (hR : Absorbs Held R) {s0 : State} {s : State} {a1 a2 : Nat} (h : R s0 s) :
    R s0 (acceptDoorbell s a1 a2) := by
  have hS := hR.sameOfHeld
  unfold acceptDoorbell
  repeat' (first
    | with_reducible assumption
    | with_reducible refine fun _ => ?_
    | ((try lift_lets -underBinder); with_reducible intro x; first | (refine (fun (_ : R s0 x) => ?_) ?_; clear_value x; rotate_left; unfold x; rotate_right) | (refine (fun (_ : okP R s0 x) => ?_) ?_; clear_value x; rotate_left; unfold x; rotate_right) | clear_value x)
    | split
    | with_reducible apply keep_setQueue
    | with_reducible apply keep_fetchAll
    | with_reducible apply keep_qmWrite
    | with_reducible apply keep_noteCorrs
    | with_reducible apply keep_rescheduleAll
    | with_reducible refine keep_mk (by assumption) ?_ rfl rfl rfl rfl rfl rfl rfl rfl rfl rfl rfl rfl rfl rfl rfl)

theorem keep_refuseDoorbell {R : State → State → Prop} (hR : Absorbs Same R) {s0 : State} {s : State} {a1 a2 a3 : Nat} (h : R s0 s) :
    R s0 (refuseDoorbell s a1 a2 a3) := by
  unfold refuseDoorbell
  repeat' (first
    | with_reducible assumption
    | with_reducible refine fun _ => ?_
    | ((try lift_lets -underBinder); with_reducible intro x; first | (refine (fun (_ : R s0 x) => ?_) ?_; clear_value x; rotate_left; unfold x; rotate_right) | (refine (fun (_ : okP R s0 x) => ?_) ?_; clear_value x; rotate_left; unfold x; rotate_right) | clear_value x)
    | split
    | with_reducible apply keep_fsetb
    | with_reducible apply keep_fset
    | with_reducible apply keep_raiseCtx)

theorem keep_doorbell {R : State → State → Prop} (hR : Absorbs Held R) {s0 : State} {s : State} {a1 a2 : Nat} {a3 : Bool} (h : R s0 s) :
    R s0 (doorbell s a1 a2 a3) := by
  have hS := hR.sameOfHeld
  unfold doorbell
  repeat' (first
    | with_reducible assumption
    | with_reducible refine fun _ => ?_
    | ((try lift_lets -underBinder); with_reducible intro x; first | (refine (fun (_ : R s0 x) => ?_) ?_; clear_value x; rotate_left; unfold x; rotate_right) | (refine (fun (_ : okP R s0 x) => ?_) ?_; clear_value x; rotate_left; unfold x; rotate_right) | clear_value x)
    | split
    | with_reducible apply keep_refuseDoorbell
    | with_reducible apply keep_reportUncorr
    | with_reducible apply keep_beginTeardown
    | with_reducible apply keep_acceptDoorbell)

theorem keep_noteLate {R : State → State → Prop} (hR : Absorbs Same R) {s0 : State} {s : State} {a1 : Nat} {a2 : QCmd} (h : R s0 s) :
    R s0 (noteLate s a1 a2) := by
  unfold noteLate
  repeat' (first
    | with_reducible assumption
    | with_reducible refine fun _ => ?_
    | ((try lift_lets -underBinder); with_reducible intro x; first | (refine (fun (_ : R s0 x) => ?_) ?_; clear_value x; rotate_left; unfold x; rotate_right) | (refine (fun (_ : okP R s0 x) => ?_) ?_; clear_value x; rotate_left; unfold x; rotate_right) | clear_value x)
    | split
    | with_reducible apply keep_raiseCtx
    | with_reducible apply keep_finc)

theorem keep_closeEmptyFrame {R : State → State → Prop} (hR : Absorbs Same R) {s0 : State} {s : State} {a1 : Nat} {a2 : QCmd} {a3 : Nat} (h : R s0 s) :
    R s0 (closeEmptyFrame s a1 a2 a3) := by
  unfold closeEmptyFrame
  repeat' (first
    | with_reducible assumption
    | with_reducible refine fun _ => ?_
    | ((try lift_lets -underBinder); with_reducible intro x; first | (refine (fun (_ : R s0 x) => ?_) ?_; clear_value x; rotate_left; unfold x; rotate_right) | (refine (fun (_ : okP R s0 x) => ?_) ?_; clear_value x; rotate_left; unfold x; rotate_right) | clear_value x)
    | split
    | with_reducible apply keep_closeFrame)

theorem keep_startCmd {R : State → State → Prop} (hR : Absorbs Same R) {s0 : State} {s : State} {a1 : Nat} {a2 : QCmd} (h : R s0 s) :
    R s0 (startCmd s a1 a2) := by
  unfold startCmd
  repeat' (first
    | with_reducible assumption
    | with_reducible refine fun _ => ?_
    | ((try lift_lets -underBinder); with_reducible intro x; first | (refine (fun (_ : R s0 x) => ?_) ?_; clear_value x; rotate_left; unfold x; rotate_right) | (refine (fun (_ : okP R s0 x) => ?_) ?_; clear_value x; rotate_left; unfold x; rotate_right) | clear_value x)
    | split
    | with_reducible apply keep_completeCmd
    | with_reducible apply keep_noteLate
    | with_reducible apply keep_closeEmptyFrame
    | with_reducible apply keep_modCmd
    | with_reducible refine keep_mk (by assumption) ?_ rfl rfl rfl rfl rfl rfl rfl rfl rfl rfl rfl rfl rfl rfl rfl)

theorem keep_execCommandStart {R : State → State → Prop} (hR : Absorbs Same R) {s0 : State} {a0 : Nat} {s : State} (h : R s0 s) :
    okO R s0 (execCommandStart a0 s) := by
  unfold execCommandStart
  repeat' (first
    | with_reducible assumption
    | with_reducible refine fun _ => ?_
    | split
    | with_reducible apply okO_next
    | with_reducible apply keep_startCmd)

theorem keep_runEngine {R : State → State → Prop} (hR : Absorbs Same R) {s0 s : State} {op q n : Nat} {f : QCmd → State → Verdict}
    (h : R s0 s) (hf : ∀ c s, R s0 s → okV R s0 (f c s)) : okO R s0 (runEngine op q n f s) := by
  unfold runEngine
  repeat' (first
    | refine okV_get_done (hf _ _ h) (by assumption)
    | refine okV_get_wait (hf _ _ h) (by assumption)
    | with_reducible assumption
    | with_reducible refine fun _ => ?_
    | split
    | with_reducible apply okO_next
    | with_reducible apply keep_completeCmd)

theorem keep_Verdict_after {R : State → State → Prop} {s0 : State} {v : Verdict} {f : Bool → State → State} (h : okV R s0 v)
    (hf : ∀ b s, R s0 s → R s0 (f b s)) : okV R s0 (v.after f) := by
  cases h with
  | done g => exact .done (hf _ _ g)
  | wait g => exact .wait (hf _ _ g)

theorem keep_invalid {R : State → State → Prop} (hR : Absorbs Same R) {s0 : State} {s : State} {a1 : optParam Nat 0} (h : R s0 s) :
    okV R s0 (invalid s a1) := by
  unfold invalid
  repeat' (first
    | with_reducible assumption
    | with_reducible refine fun _ => ?_
    | split
    | with_reducible apply okV_done
    | with_reducible apply okV_wait
    | with_reducible apply keep_noResource
    | with_reducible apply keep_refuse
    | with_reducible apply keep_okay)

theorem keep_refuse {R : State → State → Prop} (hR : Absorbs Same R) {s0 : State} {s : State} {a1 : optParam Nat 0} (h : R s0 s) :
    okV R s0 (refuse s a1) := by
  unfold refuse
  repeat' (first
    | with_reducible assumption
    | with_reducible refine fun _ => ?_
    | split
    | with_reducible apply okV_done
    | with_reducible apply okV_wait
    | with_reducible apply keep_noResource
    | with_reducible apply keep_okay)

theorem keep_noResource {R : State → State → Prop} (hR : Absorbs Same R) {s0 : State} {s : State} {a1 : optParam Nat 0} (h : R s0 s) :
    okV R s0 (noResource s a1) := by
  unfold noResource
  repeat' (first
    | with_reducible assumption
    | with_reducible refine fun _ => ?_
    | split
    | with_reducible apply okV_done
    | with_reducible apply okV_wait
    | with_reducible apply keep_okay)

theorem keep_okay {R : State → State → Prop} (hR : Absorbs Same R) {s0 : State} {s : State} {a1 : optParam Nat 0} (h : R s0 s) :
    okV R s0 (okay s a1) := by
  unfold okay
  repeat' (first
    | with_reducible assumption
    | with_reducible refine fun _ => ?_
    | split
    | with_reducible apply okV_done
    | with_reducible apply okV_wait)

theorem keep_failUnread {R : State → State → Prop} (hR : Absorbs Held R) {s0 : State} {s : State} {a1 : Nat} {a2 : QCmd} {a3 a4 a5 a6 : Nat} (h : R s0 s) :
    okV R s0 (failUnread s a1 a2 a3 a4 a5 a6) := by
  have hS := hR.sameOfHeld
  unfold failUnread
  repeat' (first
    | with_reducible assumption
    | with_reducible refine fun _ => ?_
    | ((try lift_lets -underBinder); with_reducible intro x; first | (refine (fun (_ : R s0 x) => ?_) ?_; clear_value x; rotate_left; unfold x; rotate_right) | (refine (fun (_ : okP R s0 x) => ?_) ?_; clear_value x; rotate_left; unfold x; rotate_right) | clear_value x)
    | split
    | with_reducible apply okV_done
    | with_reducible apply okV_wait
    | with_reducible apply keep_reportUncorr
    | with_reducible apply keep_beginTeardown)

theorem keep_failAccess {R : State → State → Prop} (hR : Absorbs Held R) {s0 : State} {s : State} {a1 : Nat} {a2 : QCmd} {a3 a4 : Nat} {a5 : AccErr} (h : R s0 s) :
    okV R s0 (failAccess s a1 a2 a3 a4 a5) := by
  have hS := hR.sameOfHeld
  unfold failAccess
  repeat' (first
    | with_reducible assumption
    | with_reducible refine fun _ => ?_
    | split
    | with_reducible apply okV_done
    | with_reducible apply okV_wait
    | with_reducible apply keep_failUnread
    | refine okV_get_done ?_ (by with_reducible assumption)
    | refine okV_get_wait ?_ (by with_reducible assumption))

theorem keep_failOperand {R : State → State → Prop} (hR : Absorbs Held R) {s0 : State} {s : State} {a1 : Nat} {a2 : QCmd} {a3 a4 : Nat} {a5 : AccErr} (h : R s0 s) :
    okV R s0 (failOperand s a1 a2 a3 a4 a5) := by
  have hS := hR.sameOfHeld
  unfold failOperand
  repeat' (first
    | with_reducible assumption
    | with_reducible refine fun _ => ?_
    | split
    | with_reducible apply okV_done
    | with_reducible apply okV_wait
    | with_reducible apply keep_reportUncorr
    | with_reducible apply keep_failAccess
    | refine okV_get_done ?_ (by with_reducible assumption)
    | refine okV_get_wait ?_ (by with_reducible assumption))

theorem keep_wakeQueueWaiters {R : State → State → Prop} (hR : Absorbs Same R) {s0 : State} {s : State} {a1 : Nat} (h : R s0 s) :
    R s0 (wakeQueueWaiters s a1) := by
  unfold wakeQueueWaiters
  repeat' (first
    | with_reducible assumption
    | with_reducible refine fun _ => ?_
    | ((try lift_lets -underBinder); with_reducible intro x; first | (refine (fun (_ : R s0 x) => ?_) ?_; clear_value x; rotate_left; unfold x; rotate_right) | (refine (fun (_ : okP R s0 x) => ?_) ?_; clear_value x; rotate_left; unfold x; rotate_right) | clear_value x)
    | split
    | with_reducible apply keep_mapThreads)

theorem keep_settleFences {R : State → State → Prop} (hR : Absorbs Same R) {s0 : State} {s : State} (h : R s0 s) :
    R s0 (settleFences s) := by
  unfold settleFences
  repeat' (first
    | with_reducible assumption
    | with_reducible refine fun _ => ?_
    | ((try lift_lets -underBinder); with_reducible intro x; first | (refine (fun (_ : R s0 x) => ?_) ?_; clear_value x; rotate_left; unfold x; rotate_right) | (refine (fun (_ : okP R s0 x) => ?_) ?_; clear_value x; rotate_left; unfold x; rotate_right) | clear_value x)
    | split
    | with_reducible apply keep_forEach
    | with_reducible apply keep_modCmd
    | with_reducible apply keep_completeCmd
    | with_reducible refine keep_mk (by assumption) ?_ rfl rfl rfl rfl rfl rfl rfl rfl rfl rfl rfl rfl rfl rfl rfl)

theorem keep_settleCaptures {R : State → State → Prop} (hR : Absorbs Same R) {s0 : State} {s : State} (h : R s0 s) :
    R s0 (settleCaptures s) := by
  unfold settleCaptures
  repeat' (first
    | with_reducible assumption
    | with_reducible refine fun _ => ?_
    | ((try lift_lets -underBinder); with_reducible intro x; first | (refine (fun (_ : R s0 x) => ?_) ?_; clear_value x; rotate_left; unfold x; rotate_right) | (refine (fun (_ : okP R s0 x) => ?_) ?_; clear_value x; rotate_left; unfold x; rotate_right) | clear_value x)
    | split
    | with_reducible refine keep_mk (by assumption) ?_ rfl rfl rfl rfl rfl rfl rfl rfl rfl rfl rfl rfl rfl rfl rfl)

theorem keep_captureRequest {R : State → State → Prop} (hR : Absorbs Same R) {s0 : State} {a0 a1 : Nat} {a2 : Bool} {a3 : Nat} {s : State} (h : R s0 s) :
    R s0 (captureRequest a0 a1 a2 a3 s) := by
  unfold captureRequest
  repeat' (first
    | with_reducible assumption
    | with_reducible refine fun _ => ?_
    | split
    | with_reducible apply keep_settleCaptures
    | with_reducible refine keep_mk (by assumption) ?_ rfl rfl rfl rfl rfl rfl rfl rfl rfl rfl rfl rfl rfl rfl rfl)

theorem keep_postReply {R : State → State → Prop} (hR : Absorbs Held R) {s0 : State} {s : State} {a1 : Nat} {a2 : QCmd} (h : R s0 s) :
    R s0 (postReply s a1 a2) := by
  have hS := hR.sameOfHeld
  unfold postReply
  repeat' (first
    | with_reducible assumption
    | with_reducible refine fun _ => ?_
    | ((try lift_lets -underBinder); with_reducible intro x; first | (refine (fun (_ : R s0 x) => ?_) ?_; clear_value x; rotate_left; unfold x; rotate_right) | (refine (fun (_ : okP R s0 x) => ?_) ?_; clear_value x; rotate_left; unfold x; rotate_right) | clear_value x)
    | split
    | with_reducible apply keep_qmWrite
    | with_reducible apply keep_setQueue
    | with_reducible apply keep_wakeQueueWaiters
    | with_reducible apply keep_fsetb
    | with_reducible apply keep_setMgmt
    | with_reducible apply keep_rescheduleAll
    | with_reducible apply keep_settleCaptures
    | with_reducible apply keep_settleFences
    | with_reducible refine keep_mk (by assumption) ?_ rfl rfl rfl rfl rfl rfl rfl rfl rfl rfl rfl rfl rfl rfl rfl)

theorem keep_execReplyPost {R : State → State → Prop} (hR : Absorbs Held R) {s0 : State} {a0 : Nat} {s : State} (h : R s0 s) :
    okO R s0 (execReplyPost a0 s) := by
  have hS := hR.sameOfHeld
  unfold execReplyPost
  repeat' (first
    | with_reducible assumption
    | with_reducible refine fun _ => ?_
    | split
    | with_reducible apply okO_next
    | with_reducible apply keep_postReply)

theorem keep_fenceEngine {R : State → State → Prop} (hR : Absorbs Same R) {s0 : State} {a0 : Nat} {a1 : List Nat} {a2 : List Nat} {a3 : List Nat} {a4 : QCmd} {s : State} (h : R s0 s) :
    okV R s0 (fenceEngine a0 a1 a2 a3 a4 s) := by
  unfold fenceEngine
  repeat' (first
    | with_reducible assumption
    | with_reducible refine fun _ => ?_
    | ((try lift_lets -underBinder); with_reducible intro x; first | (refine (fun (_ : R s0 x) => ?_) ?_; clear_value x; rotate_left; unfold x; rotate_right) | (refine (fun (_ : okP R s0 x) => ?_) ?_; clear_value x; rotate_left; unfold x; rotate_right) | clear_value x)
    | split
    | with_reducible apply okV_done
    | with_reducible apply okV_wait
    | with_reducible apply keep_invalid
    | with_reducible apply keep_refuse
    | with_reducible apply keep_modCmd
    | with_reducible apply keep_forEach
    | with_reducible apply keep_settleFences
    | refine okV_get_done ?_ (by with_reducible assumption)
    | refine okV_get_wait ?_ (by with_reducible assumption)
    | with_reducible refine keep_mk (by assumption) ?_ rfl rfl rfl rfl rfl rfl rfl rfl rfl rfl rfl rfl rfl rfl rfl)

theorem keep_execFence {R : State → State → Prop} (hR : Absorbs Same R) {s0 : State} {a0 a1 : Nat} {a2 : FenceAnswers} {s : State} (h : R s0 s) :
    okO R s0 (execFence a0 a1 a2 s) := by
  unfold execFence
  repeat' (first
    | with_reducible assumption
    | with_reducible refine fun _ => ?_
    | split
    | with_reducible apply okO_next
    | with_reducible apply keep_runEngine
    | with_reducible apply keep_fenceEngine)

theorem keep_execFenceTimeout {R : State → State → Prop} (hR : Absorbs Held R) {s0 : State} {a0 : Nat} {s : State} (h : R s0 s) :
    okO R s0 (execFenceTimeout a0 s) := by
  have hS := hR.sameOfHeld
  unfold execFenceTimeout
  repeat' (first
    | with_reducible assumption
    | with_reducible refine fun _ => ?_
    | ((try lift_lets -underBinder); with_reducible intro x; first | (refine (fun (_ : R s0 x) => ?_) ?_; clear_value x; rotate_left; unfold x; rotate_right) | (refine (fun (_ : okP R s0 x) => ?_) ?_; clear_value x; rotate_left; unfold x; rotate_right) | clear_value x)
    | split
    | with_reducible apply okO_next
    | with_reducible apply keep_raiseCtx
    | with_reducible apply keep_completeCmd
    | with_reducible apply keep_beginTeardown)

end Sys2Proof.Machine
end

