-- ==== Sys2Proof/Laws/KeepThreads.lean ====
section
/-! SUPPORT. What the operations of Machine/Threads.lean keep. -/

namespace Sys2Proof.Machine

theorem keep_fetchWord {R : State → State → Prop} (hR : Absorbs Held R) {s0 : State} {s : State} {a1 a2 : Nat} (h : R s0 s) :
    okX R s0 (fetchWord s a1 a2) := by
  have hS := hR.sameOfHeld
  unfold fetchWord
  repeat' (first
    | with_reducible assumption
    | with_reducible refine fun _ => ?_
    | ((try lift_lets -underBinder); with_reducible intro x; first | (refine (fun (_ : R s0 x) => ?_) ?_; clear_value x; rotate_left; unfold x; rotate_right) | (refine (fun (_ : okP R s0 x) => ?_) ?_; clear_value x; rotate_left; unfold x; rotate_right) | clear_value x)
    | split
    | exact okX_ok
    | with_reducible apply okX_error
    | with_reducible apply keep_threadFault
    | with_reducible apply keep_tileAccessFault
    | with_reducible apply keep_tileUncorr)

theorem keep_countIssue {R : State → State → Prop} (hR : Absorbs Same R) {s0 : State} {s : State} {a1 a2 : Nat} (h : R s0 s) :
    R s0 (countIssue s a1 a2) := by
  unfold countIssue
  repeat' (first
    | with_reducible assumption
    | with_reducible refine fun _ => ?_
    | split
    | with_reducible apply keep_setReg64
    | with_reducible refine keep_mk (by assumption) ?_ rfl rfl rfl rfl rfl rfl rfl rfl rfl rfl rfl rfl rfl rfl rfl)

theorem keep_settleStep {R : State → State → Prop} (hR : Absorbs Same R) {s0 : State} {s : State} {a1 a2 : Nat} {a3 : Bool} (h : R s0 s) :
    R s0 (settleStep s a1 a2 a3) := by
  unfold settleStep
  repeat' (first
    | with_reducible assumption
    | with_reducible refine fun _ => ?_
    | ((try lift_lets -underBinder); with_reducible intro x; first | (refine (fun (_ : R s0 x) => ?_) ?_; clear_value x; rotate_left; unfold x; rotate_right) | (refine (fun (_ : okP R s0 x) => ?_) ?_; clear_value x; rotate_left; unfold x; rotate_right) | clear_value x)
    | split
    | with_reducible apply keep_setThread
    | with_reducible refine keep_mk (by assumption) ?_ rfl rfl rfl rfl rfl rfl rfl rfl rfl rfl rfl rfl rfl rfl rfl)

theorem keep_issued {R : State → State → Prop} (hR : Absorbs Same R) {s0 : State} {b0 : State} {a1 a2 : Nat} {s : State} (h : R s0 s) :
    R s0 (issued b0 a1 a2 s) := by
  unfold issued
  repeat' (first
    | with_reducible assumption
    | with_reducible refine fun _ => ?_
    | split
    | with_reducible apply keep_noteCorrs
    | with_reducible apply keep_settleStep)

theorem keep_issue {R : State → State → Prop} (hR : Absorbs Held R) {s0 s : State} {tile t func : Nat} {k : ModInstr → Thread → State → State}
    (h : R s0 s) (hk : ∀ i th s, R s0 s → R s0 (k i th s)) : R s0 (issue s tile t func k) := by
  have hS := hR.sameOfHeld
  unfold issue
  repeat' (first
    | with_reducible apply hk
    | with_reducible assumption
    | with_reducible refine fun _ => ?_
    | ((try lift_lets -underBinder); with_reducible intro x; first | (refine (fun (_ : R s0 x) => ?_) ?_; clear_value x; rotate_left; unfold x; rotate_right) | (refine (fun (_ : okP R s0 x) => ?_) ?_; clear_value x; rotate_left; unfold x; rotate_right) | clear_value x)
    | split
    | with_reducible apply keep_fetchWord
    | with_reducible apply keep_issued
    | with_reducible apply keep_countIssue
    | refine okX_get ?_ (by with_reducible assumption)
    | with_reducible refine keep_mk (by assumption) ?_ rfl rfl rfl rfl rfl rfl rfl rfl rfl rfl rfl rfl rfl rfl rfl)

theorem keep_issueFault {R : State → State → Prop} (hR : Absorbs Held R) {s0 : State} {s : State} {a1 a2 : Nat} {a3 : Thread} {a4 : Nat} (h : R s0 s) :
    R s0 (issueFault s a1 a2 a3 a4) := by
  have hS := hR.sameOfHeld
  unfold issueFault
  repeat' (first
    | with_reducible assumption
    | with_reducible refine fun _ => ?_
    | split
    | with_reducible apply keep_threadFault
    | with_reducible apply keep_setThread)

theorem keep_issueAccessFault {R : State → State → Prop} (hR : Absorbs Held R) {s0 : State} {s : State} {a1 a2 : Nat} {a3 : Thread} {a4 : AccErr} (h : R s0 s) :
    R s0 (issueAccessFault s a1 a2 a3 a4) := by
  have hS := hR.sameOfHeld
  unfold issueAccessFault
  repeat' (first
    | with_reducible assumption
    | with_reducible refine fun _ => ?_
    | split
    | with_reducible apply keep_tileAccessFault
    | with_reducible apply keep_setThread)

theorem keep_illegal {R : State → State → Prop} (hR : Absorbs Held R) {s0 : State} {s : State} {a1 a2 : Nat} {a3 : Thread} (h : R s0 s) :
    R s0 (illegal s a1 a2 a3) := by
  have hS := hR.sameOfHeld
  unfold illegal
  repeat' (first
    | with_reducible assumption
    | with_reducible refine fun _ => ?_
    | split
    | with_reducible apply keep_issueFault)

theorem keep_riseLevel {R : State → State → Prop} (hR : Absorbs Same R) {s0 : State} {s : State} {a1 : Launch} {a2 a3 : Nat} (h : R s0 s) :
    R s0 (riseLevel s a1 a2 a3) := by
  unfold riseLevel
  repeat' (first
    | with_reducible assumption
    | with_reducible refine fun _ => ?_
    | ((try lift_lets -underBinder); with_reducible intro x; first | (refine (fun (_ : R s0 x) => ?_) ?_; clear_value x; rotate_left; unfold x; rotate_right) | (refine (fun (_ : okP R s0 x) => ?_) ?_; clear_value x; rotate_left; unfold x; rotate_right) | clear_value x)
    | split
    | with_reducible apply keep_raiseCtx
    | with_reducible apply keep_finc
    | with_reducible apply keep_setLaunch
    | with_reducible apply keep_fset
    | with_reducible refine keep_mk (by assumption) ?_ rfl rfl rfl rfl rfl rfl rfl rfl rfl rfl rfl rfl rfl rfl rfl)

theorem keep_latchLevel {R : State → State → Prop} (hR : Absorbs Same R) {s0 : State} {s : State} {a1 : Launch} {a2 : Entry} {a3 : Nat} (h : R s0 s) :
    okP R s0 (latchLevel s a1 a2 a3) := by
  unfold latchLevel
  repeat' (first
    | with_reducible assumption
    | with_reducible refine fun _ => ?_
    | ((try lift_lets -underBinder); with_reducible intro x; first | (refine (fun (_ : R s0 x) => ?_) ?_; clear_value x; rotate_left; unfold x; rotate_right) | (refine (fun (_ : okP R s0 x) => ?_) ?_; clear_value x; rotate_left; unfold x; rotate_right) | clear_value x)
    | split
    | with_reducible apply keep_riseLevel
    | with_reducible apply keep_setLaunch
    | with_reducible refine keep_mk (by assumption) ?_ rfl rfl rfl rfl rfl rfl rfl rfl rfl rfl rfl rfl rfl rfl rfl)

theorem keep_finishLaunch {R : State → State → Prop} (hR : Absorbs Same R) {s0 : State} {s : State} {a1 : Launch} (h : R s0 s) :
    R s0 (finishLaunch s a1) := by
  unfold finishLaunch
  repeat' (first
    | with_reducible assumption
    | with_reducible refine fun _ => ?_
    | ((try lift_lets -underBinder); with_reducible intro x; first | (refine (fun (_ : R s0 x) => ?_) ?_; clear_value x; rotate_left; unfold x; rotate_right) | (refine (fun (_ : okP R s0 x) => ?_) ?_; clear_value x; rotate_left; unfold x; rotate_right) | clear_value x)
    | split
    | with_reducible apply keep_completeCmd
    | with_reducible apply keep_dropLaunch
    | with_reducible apply keep_closeFrame
    | with_reducible refine keep_mk (by assumption) ?_ rfl rfl rfl rfl rfl rfl rfl rfl rfl rfl rfl rfl rfl rfl rfl)

theorem keep_startThreads {R : State → State → Prop} (hR : Absorbs Same R) {s0 : State} {c id code arg length tiles : Nat} :
    ∀ (l : List Nat) {p : Nat} {s : State}, R s0 s → R s0 (startThreads c id code arg length tiles p l s)
  | [], _, _, h => h
  | _ :: rest, _, _, h => keep_startThreads hR rest (keep_forEach h (fun _ _ g => keep_setThread hR g))

theorem keep_launchCore {R : State → State → Prop} (hR : Absorbs Same R) {s0 : State} {a0 : Nat} {a1 : QCmd} {s : State} (h : R s0 s) :
    okV R s0 (launchCore a0 a1 s) := by
  unfold launchCore
  repeat' (first
    | with_reducible assumption
    | with_reducible refine fun _ => ?_
    | ((try lift_lets -underBinder); with_reducible intro x; first | (refine (fun (_ : R s0 x) => ?_) ?_; clear_value x; rotate_left; unfold x; rotate_right) | (refine (fun (_ : okP R s0 x) => ?_) ?_; clear_value x; rotate_left; unfold x; rotate_right) | clear_value x)
    | split
    | with_reducible apply okV_done
    | with_reducible apply okV_wait
    | with_reducible apply keep_invalid
    | with_reducible apply keep_noResource
    | with_reducible apply keep_modCmd
    | with_reducible apply keep_setCtx
    | with_reducible apply keep_riseLevel
    | with_reducible apply keep_startThreads
    | refine okV_get_done ?_ (by with_reducible assumption)
    | refine okV_get_wait ?_ (by with_reducible assumption)
    | with_reducible refine keep_mk (by assumption) ?_ rfl rfl rfl rfl rfl rfl rfl rfl rfl rfl rfl rfl rfl rfl rfl)

theorem keep_launchEngine {R : State → State → Prop} (hR : Absorbs Same R) {s0 s : State} {q : Nat} {c : QCmd} (h : R s0 s) :
    okV R s0 (launchEngine q c s) :=
  keep_Verdict_after (keep_launchCore hR h) (fun _ _ g => keep_ite (keep_closeEmptyFrame hR g) g)

theorem keep_execKernelLaunch {R : State → State → Prop} (hR : Absorbs Same R) {s0 : State} {a0 a1 : Nat} {s : State} (h : R s0 s) :
    okO R s0 (execKernelLaunch a0 a1 s) := by
  unfold execKernelLaunch
  repeat' (first
    | with_reducible assumption
    | with_reducible refine fun _ => ?_
    | split
    | with_reducible apply okO_next
    | with_reducible apply keep_runEngine
    | with_reducible apply keep_launchEngine)

theorem keep_sectionLeft {R : State → State → Prop} (hR : Absorbs Same R) {s0 : State} {s : State} {a1 : Nat} (h : R s0 s) :
    R s0 (sectionLeft s a1) := by
  unfold sectionLeft
  repeat' (first
    | with_reducible assumption
    | with_reducible refine fun _ => ?_
    | split
    | with_reducible apply keep_rescheduleAll
    | with_reducible apply keep_endDeferral)

theorem keep_retireHalt {R : State → State → Prop} (hR : Absorbs Same R) {s0 : State} {a0 a1 : Nat} {a2 : Thread} {s : State} (h : R s0 s) :
    R s0 (retireHalt a0 a1 a2 s) := by
  unfold retireHalt
  repeat' (first
    | with_reducible assumption
    | with_reducible refine fun _ => ?_
    | ((try lift_lets -underBinder); with_reducible intro x; first | (refine (fun (_ : R s0 x) => ?_) ?_; clear_value x; rotate_left; unfold x; rotate_right) | (refine (fun (_ : okP R s0 x) => ?_) ?_; clear_value x; rotate_left; unfold x; rotate_right) | clear_value x)
    | split
    | with_reducible apply keep_setThread
    | with_reducible apply keep_setLaunch
    | with_reducible apply keep_finishLaunch
    | with_reducible apply keep_rescheduleAll
    | with_reducible apply keep_sectionLeft
    | with_reducible refine keep_mk (by assumption) ?_ rfl rfl rfl rfl rfl rfl rfl rfl rfl rfl rfl rfl rfl rfl rfl)

theorem keep_execHalt {R : State → State → Prop} (hR : Absorbs Held R) {s0 : State} {a0 a1 : Nat} {s : State} (h : R s0 s) :
    okO R s0 (execHalt a0 a1 s) := by
  have hS := hR.sameOfHeld
  unfold execHalt
  repeat' (first
    | with_reducible assumption
    | with_reducible refine fun _ => ?_
    | split
    | with_reducible apply okO_next
    | with_reducible apply keep_issue
    | with_reducible apply keep_setThread
    | with_reducible apply keep_retireHalt
    | with_reducible refine keep_mk (by assumption) ?_ rfl rfl rfl rfl rfl rfl rfl rfl rfl rfl rfl rfl rfl rfl rfl)

theorem keep_settleHalt {R : State → State → Prop} (hR : Absorbs Same R) {s0 : State} {a0 a1 : Nat} {s : State} (h : R s0 s) :
    R s0 (settleHalt a0 a1 s) := by
  unfold settleHalt
  repeat' (first
    | with_reducible assumption
    | with_reducible refine fun _ => ?_
    | ((try lift_lets -underBinder); with_reducible intro x; first | (refine (fun (_ : R s0 x) => ?_) ?_; clear_value x; rotate_left; unfold x; rotate_right) | (refine (fun (_ : okP R s0 x) => ?_) ?_; clear_value x; rotate_left; unfold x; rotate_right) | clear_value x)
    | split
    | with_reducible apply keep_retireHalt)

theorem keep_issueUnit {R : State → State → Prop} (hR : Absorbs Same R) {s0 : State} {s : State} {a1 a2 a3 : Nat} {a4 : Thread} {a5 a6 : Nat} {a7 : UnitOp} (h : R s0 s) :
    R s0 (issueUnit s a1 a2 a3 a4 a5 a6 a7) := by
  unfold issueUnit
  repeat' (first
    | with_reducible assumption
    | with_reducible refine fun _ => ?_
    | ((try lift_lets -underBinder); with_reducible intro x; first | (refine (fun (_ : R s0 x) => ?_) ?_; clear_value x; rotate_left; unfold x; rotate_right) | (refine (fun (_ : okP R s0 x) => ?_) ?_; clear_value x; rotate_left; unfold x; rotate_right) | clear_value x)
    | split
    | with_reducible apply keep_setThread
    | with_reducible apply keep_setUnit
    | with_reducible refine keep_mk (by assumption) ?_ rfl rfl rfl rfl rfl rfl rfl rfl rfl rfl rfl rfl rfl rfl rfl)

theorem keep_execUcmd {R : State → State → Prop} (hR : Absorbs Held R) {s0 : State} {a0 a1 : Nat} {a2 : UnitOp} {s : State} (h : R s0 s) :
    okO R s0 (execUcmd a0 a1 a2 s) := by
  have hS := hR.sameOfHeld
  unfold execUcmd
  repeat' (first
    | with_reducible assumption
    | with_reducible refine fun _ => ?_
    | ((try lift_lets -underBinder); with_reducible intro x; first | (refine (fun (_ : R s0 x) => ?_) ?_; clear_value x; rotate_left; unfold x; rotate_right) | (refine (fun (_ : okP R s0 x) => ?_) ?_; clear_value x; rotate_left; unfold x; rotate_right) | clear_value x)
    | split
    | with_reducible apply okO_next
    | with_reducible apply keep_issue
    | with_reducible apply keep_illegal
    | with_reducible apply keep_issueFault
    | with_reducible apply keep_issueAccessFault
    | with_reducible apply keep_readNoted
    | with_reducible apply keep_issueUnit
    | with_reducible apply keep_invalid
    | refine okV_get_done ?_ (by with_reducible assumption)
    | refine okV_get_wait ?_ (by with_reducible assumption))

theorem keep_execTwait {R : State → State → Prop} (hR : Absorbs Held R) {s0 : State} {a0 a1 : Nat} {s : State} (h : R s0 s) :
    okO R s0 (execTwait a0 a1 s) := by
  have hS := hR.sameOfHeld
  unfold execTwait
  repeat' (first
    | with_reducible assumption
    | with_reducible refine fun _ => ?_
    | ((try lift_lets -underBinder); with_reducible intro x; first | (refine (fun (_ : R s0 x) => ?_) ?_; clear_value x; rotate_left; unfold x; rotate_right) | (refine (fun (_ : okP R s0 x) => ?_) ?_; clear_value x; rotate_left; unfold x; rotate_right) | clear_value x)
    | split
    | with_reducible apply okO_next
    | with_reducible apply keep_issue
    | with_reducible apply keep_setThread
    | with_reducible refine keep_mk (by assumption) ?_ rfl rfl rfl rfl rfl rfl rfl rfl rfl rfl rfl rfl rfl rfl rfl)

theorem keep_execLevel {R : State → State → Prop} (hR : Absorbs Held R) {s0 : State} {a0 a1 : Nat} {s : State} (h : R s0 s) :
    okO R s0 (execLevel a0 a1 s) := by
  have hS := hR.sameOfHeld
  unfold execLevel
  repeat' (first
    | with_reducible assumption
    | with_reducible refine fun _ => ?_
    | ((try lift_lets -underBinder); with_reducible intro x; first | (refine (fun (_ : R s0 x) => ?_) ?_; clear_value x; rotate_left; unfold x; rotate_right) | (refine (fun (_ : okP R s0 x) => ?_) ?_; clear_value x; rotate_left; unfold x; rotate_right) | clear_value x)
    | split
    | with_reducible apply okO_next
    | with_reducible apply keep_issue
    | with_reducible apply keep_illegal
    | with_reducible apply keep_latchLevel
    | with_reducible apply keep_setThread
    | refine okP_get ?_ (by with_reducible assumption))

theorem keep_execQwait {R : State → State → Prop} (hR : Absorbs Held R) {s0 : State} {a0 a1 : Nat} {s : State} (h : R s0 s) :
    okO R s0 (execQwait a0 a1 s) := by
  have hS := hR.sameOfHeld
  unfold execQwait
  repeat' (first
    | with_reducible assumption
    | with_reducible refine fun _ => ?_
    | ((try lift_lets -underBinder); with_reducible intro x; first | (refine (fun (_ : R s0 x) => ?_) ?_; clear_value x; rotate_left; unfold x; rotate_right) | (refine (fun (_ : okP R s0 x) => ?_) ?_; clear_value x; rotate_left; unfold x; rotate_right) | clear_value x)
    | split
    | with_reducible apply okO_next
    | with_reducible apply keep_issue
    | with_reducible apply keep_illegal
    | with_reducible apply keep_setThread
    | with_reducible refine keep_mk (by assumption) ?_ rfl rfl rfl rfl rfl rfl rfl rfl rfl rfl rfl rfl rfl rfl rfl)

theorem keep_execNpenter {R : State → State → Prop} (hR : Absorbs Held R) {s0 : State} {a0 a1 : Nat} {s : State} (h : R s0 s) :
    okO R s0 (execNpenter a0 a1 s) := by
  have hS := hR.sameOfHeld
  unfold execNpenter
  repeat' (first
    | with_reducible assumption
    | with_reducible refine fun _ => ?_
    | split
    | with_reducible apply okO_next
    | with_reducible apply keep_issue
    | with_reducible apply keep_illegal
    | with_reducible apply keep_setThread
    | with_reducible refine keep_mk (by assumption) ?_ rfl rfl rfl rfl rfl rfl rfl rfl rfl rfl rfl rfl rfl rfl rfl)

theorem keep_execNpexit {R : State → State → Prop} (hR : Absorbs Held R) {s0 : State} {a0 a1 : Nat} {s : State} (h : R s0 s) :
    okO R s0 (execNpexit a0 a1 s) := by
  have hS := hR.sameOfHeld
  unfold execNpexit
  repeat' (first
    | with_reducible assumption
    | with_reducible refine fun _ => ?_
    | split
    | with_reducible apply okO_next
    | with_reducible apply keep_issue
    | with_reducible apply keep_illegal
    | with_reducible apply keep_sectionLeft
    | with_reducible apply keep_setThread
    | with_reducible refine keep_mk (by assumption) ?_ rfl rfl rfl rfl rfl rfl rfl rfl rfl rfl rfl rfl rfl rfl rfl)

theorem keep_execJbar {R : State → State → Prop} (hR : Absorbs Held R) {s0 : State} {a0 a1 : Nat} {s : State} (h : R s0 s) :
    okO R s0 (execJbar a0 a1 s) := by
  have hS := hR.sameOfHeld
  unfold execJbar
  repeat' (first
    | with_reducible assumption
    | with_reducible refine fun _ => ?_
    | split
    | with_reducible apply okO_next
    | with_reducible apply keep_issue
    | with_reducible apply keep_illegal
    | with_reducible apply keep_issueUnit)

theorem keep_execLbar {R : State → State → Prop} (hR : Absorbs Held R) {s0 : State} {a0 a1 : Nat} {s : State} (h : R s0 s) :
    okO R s0 (execLbar a0 a1 s) := by
  have hS := hR.sameOfHeld
  unfold execLbar
  repeat' (first
    | with_reducible assumption
    | with_reducible refine fun _ => ?_
    | split
    | with_reducible apply okO_next
    | with_reducible apply keep_issue
    | with_reducible apply keep_issueUnit)

theorem keep_execTnow {R : State → State → Prop} (hR : Absorbs Held R) {s0 : State} {a0 a1 : Nat} {s : State} (h : R s0 s) :
    okO R s0 (execTnow a0 a1 s) := by
  have hS := hR.sameOfHeld
  unfold execTnow
  repeat' (first
    | with_reducible assumption
    | with_reducible refine fun _ => ?_
    | split
    | with_reducible apply okO_next
    | with_reducible apply keep_issue
    | with_reducible apply keep_setThread)

theorem keep_laterRecords {R : State → State → Prop} (hR : Absorbs Same R) {s0 : State} {a0 : Nat} {s : State} (h : R s0 s) :
    R s0 (laterRecords a0 s) := by
  unfold laterRecords
  repeat' (first
    | with_reducible assumption
    | with_reducible refine fun _ => ?_
    | split
    | with_reducible refine keep_mk (by assumption) ?_ rfl rfl rfl rfl rfl rfl rfl rfl rfl rfl rfl rfl rfl rfl rfl)

theorem keep_dbellThread {R : State → State → Prop} (hR : Absorbs Held R) {s0 : State} {a0 a1 : Nat} {s : State} (h : R s0 s) :
    R s0 (dbellThread a0 a1 s) := by
  have hS := hR.sameOfHeld
  unfold dbellThread
  repeat' (first
    | with_reducible assumption
    | with_reducible refine fun _ => ?_
    | ((try lift_lets -underBinder); with_reducible intro x; first | (refine (fun (_ : R s0 x) => ?_) ?_; clear_value x; rotate_left; unfold x; rotate_right) | (refine (fun (_ : okP R s0 x) => ?_) ?_; clear_value x; rotate_left; unfold x; rotate_right) | clear_value x)
    | split
    | with_reducible apply keep_issue
    | with_reducible apply keep_setThread
    | with_reducible apply keep_illegal
    | with_reducible apply keep_refuseDoorbell
    | with_reducible apply keep_laterRecords
    | with_reducible apply keep_beginTeardown
    | with_reducible apply keep_recordFault
    | with_reducible apply keep_doorbell)

theorem keep_scalarEffect {R : State → State → Prop} (hR : Absorbs Held R) {s0 : State} {a0 a1 a2 : Nat} {a3 : Thread} {s : State} {a5 : ScalarOp} (h : R s0 s) :
    R s0 (scalarEffect a0 a1 a2 a3 s a5) := by
  have hS := hR.sameOfHeld
  unfold scalarEffect
  repeat' (first
    | with_reducible assumption
    | with_reducible refine fun _ => ?_
    | ((try lift_lets -underBinder); with_reducible intro x; first | (refine (fun (_ : R s0 x) => ?_) ?_; clear_value x; rotate_left; unfold x; rotate_right) | (refine (fun (_ : okP R s0 x) => ?_) ?_; clear_value x; rotate_left; unfold x; rotate_right) | clear_value x)
    | split
    | with_reducible apply keep_setThread
    | with_reducible apply keep_issueFault
    | with_reducible apply keep_issueAccessFault
    | with_reducible apply keep_readNoted
    | with_reducible apply keep_vaWrite
    | with_reducible apply keep_tileWriteFault
    | with_reducible apply keep_illegal
    | refine okE_get ?_ (by with_reducible assumption)
    | with_reducible refine keep_mk (by assumption) ?_ rfl rfl rfl rfl rfl rfl rfl rfl rfl rfl rfl rfl rfl rfl rfl)

theorem keep_execScalarInstruction {R : State → State → Prop} (hR : Absorbs Held R) {s0 : State} {a0 a1 : Nat} {a2 : ScalarOp} {s : State} (h : R s0 s) :
    okO R s0 (execScalarInstruction a0 a1 a2 s) := by
  have hS := hR.sameOfHeld
  unfold execScalarInstruction
  repeat' (first
    | with_reducible assumption
    | with_reducible refine fun _ => ?_
    | ((try lift_lets -underBinder); with_reducible intro x; first | (refine (fun (_ : R s0 x) => ?_) ?_; clear_value x; rotate_left; unfold x; rotate_right) | (refine (fun (_ : okP R s0 x) => ?_) ?_; clear_value x; rotate_left; unfold x; rotate_right) | clear_value x)
    | split
    | with_reducible apply okO_next
    | with_reducible apply keep_fetchWord
    | with_reducible apply keep_issued
    | with_reducible apply keep_illegal
    | with_reducible apply keep_countIssue
    | with_reducible apply keep_scalarEffect
    | refine okX_get ?_ (by with_reducible assumption)
    | with_reducible refine keep_mk (by assumption) ?_ rfl rfl rfl rfl rfl rfl rfl rfl rfl rfl rfl rfl rfl rfl rfl)

end Sys2Proof.Machine
end

