-- ==== Sys2Proof/Laws/KeepUnits.lean ====
section
/-! SUPPORT. What the operations of Machine/Units.lean keep. -/

namespace Sys2Proof.Machine

theorem keep_uWrite {R : State → State → Prop} (hR : Absorbs Held R) {s0 : State} {s : State} {a1 a2 : Nat} {a3 : List Byte} (h : R s0 s) :
    okE R s0 (uWrite s a1 a2 a3) := by
  have hS := hR.sameOfHeld
  unfold uWrite
  repeat' (first
    | with_reducible assumption
    | with_reducible refine fun _ => ?_
    | split
    | with_reducible apply okE_ok
    | exact okE_error
    | with_reducible apply keep_vaWrite
    | refine okE_get ?_ (by with_reducible assumption))

theorem keep_scaleOut {R : State → State → Prop} (hR : Absorbs Held R) {s0 : State} {s : State} {a1 a2 a3 a4 a5 a6 : Nat} {a7 : List Rounded} (h : R s0 s) :
    okE R s0 (scaleOut s a1 a2 a3 a4 a5 a6 a7) := by
  have hS := hR.sameOfHeld
  unfold scaleOut
  repeat' (first
    | with_reducible assumption
    | with_reducible refine fun _ => ?_
    | ((try lift_lets -underBinder); with_reducible intro x; first | (refine (fun (_ : R s0 x) => ?_) ?_; clear_value x; rotate_left; unfold x; rotate_right) | (refine (fun (_ : okP R s0 x) => ?_) ?_; clear_value x; rotate_left; unfold x; rotate_right) | clear_value x)
    | split
    | with_reducible apply okE_ok
    | exact okE_error
    | with_reducible apply keep_uWrite
    | with_reducible apply keep_setUnit
    | refine okE_get ?_ (by with_reducible assumption)
    | with_reducible refine keep_mk (by assumption) ?_ rfl rfl rfl rfl rfl rfl rfl rfl rfl rfl rfl rfl rfl rfl rfl)

theorem keep_writeFigures {R : State → State → Prop} (hR : Absorbs Held R) {s0 : State} {s : State} {a1 : Figures} (h : R s0 s) :
    okE R s0 (writeFigures s a1) := by
  have hS := hR.sameOfHeld
  unfold writeFigures
  repeat' (first
    | with_reducible assumption
    | with_reducible refine fun _ => ?_
    | split
    | with_reducible apply okE_ok
    | exact okE_error
    | with_reducible apply keep_uWrite
    | refine okE_get ?_ (by with_reducible assumption))

theorem keep_stepClose {R : State → State → Prop} (hR : Absorbs Held R) {s0 : State} {s : State} {a1 a2 a3 : Nat} {a4 : Option Nat} (h : R s0 s) :
    okE R s0 (stepClose s a1 a2 a3 a4) := by
  have hS := hR.sameOfHeld
  unfold stepClose
  repeat' (first
    | with_reducible assumption
    | with_reducible refine fun _ => ?_
    | ((try lift_lets -underBinder); with_reducible intro x; first | (refine (fun (_ : R s0 x) => ?_) ?_; clear_value x; rotate_left; unfold x; rotate_right) | (refine (fun (_ : okP R s0 x) => ?_) ?_; clear_value x; rotate_left; unfold x; rotate_right) | clear_value x)
    | split
    | with_reducible apply okE_ok
    | exact okE_error
    | with_reducible apply keep_raiseCtx
    | with_reducible apply keep_uWrite
    | refine okE_get ?_ (by with_reducible assumption))

theorem keep_writeOut {R : State → State → Prop} (hR : Absorbs Held R) {s0 : State} {s : State} {a1 a2 a3 a4 a5 a6 a7 : Nat} {a8 : List Rounded} (h : R s0 s) :
    okE R s0 (writeOut s a1 a2 a3 a4 a5 a6 a7 a8) := by
  have hS := hR.sameOfHeld
  unfold writeOut
  repeat' (first
    | with_reducible assumption
    | with_reducible refine fun _ => ?_
    | split
    | with_reducible apply okE_ok
    | exact okE_error
    | with_reducible apply keep_uWrite
    | with_reducible apply keep_scaleOut)

theorem keep_runTensor {R : State → State → Prop} (hR : Absorbs Held R) {s0 : State} {s : State} {a1 a2 : Nat} {a3 : TensorCmd} (h : R s0 s) :
    okE R s0 (runTensor s a1 a2 a3) := by
  have hS := hR.sameOfHeld
  unfold runTensor
  repeat' (first
    | with_reducible assumption
    | with_reducible refine fun _ => ?_
    | split
    | with_reducible apply okE_ok
    | exact okE_error
    | with_reducible apply keep_writeOut
    | refine okE_get ?_ (by with_reducible assumption))

theorem keep_setVreg {R : State → State → Prop} (hR : Absorbs Same R) {s0 s : State} {tile r : Nat} {ws : List Word} (h : R s0 s) :
    R s0 (setVreg s tile r ws) :=
  hR _ _ _ h ⟨rfl, ⟨rfl, rfl⟩, rfl, fun g => { g with vregs := storeWf_setList _ _ _ g.vregs }⟩

theorem keep_runVector {R : State → State → Prop} (hR : Absorbs Held R) {s0 : State} {s : State} {a1 a2 : Nat} {a3 : VectorOp} (h : R s0 s) :
    okE R s0 (runVector s a1 a2 a3) := by
  have hS := hR.sameOfHeld
  unfold runVector
  repeat' (first
    | with_reducible assumption
    | with_reducible refine fun _ => ?_
    | split
    | with_reducible apply okE_ok
    | exact okE_error
    | with_reducible apply keep_setVreg
    | with_reducible apply keep_uWrite
    | refine okE_get ?_ (by with_reducible assumption))

theorem keep_runRotate {R : State → State → Prop} (hR : Absorbs Held R) {s0 : State} {s : State} {a1 : Nat} {a2 : RotateCmd} (h : R s0 s) :
    okE R s0 (runRotate s a1 a2) := by
  have hS := hR.sameOfHeld
  unfold runRotate
  repeat' (first
    | with_reducible assumption
    | with_reducible refine fun _ => ?_
    | ((try lift_lets -underBinder); with_reducible intro x; first | (refine (fun (_ : R s0 x) => ?_) ?_; clear_value x; rotate_left; unfold x; rotate_right) | (refine (fun (_ : okP R s0 x) => ?_) ?_; clear_value x; rotate_left; unfold x; rotate_right) | clear_value x)
    | split
    | with_reducible apply okE_ok
    | exact okE_error
    | with_reducible apply keep_uWrite
    | refine okE_get ?_ (by with_reducible assumption))

theorem keep_runChain {R : State → State → Prop} (hR : Absorbs Held R) {s0 : State} {s : State} {a1 a2 : Nat} {a3 : ChainCmd} (h : R s0 s) :
    okE R s0 (runChain s a1 a2 a3) := by
  have hS := hR.sameOfHeld
  unfold runChain
  repeat' (first
    | with_reducible assumption
    | with_reducible refine fun _ => ?_
    | ((try lift_lets -underBinder); with_reducible intro x; first | (refine (fun (_ : R s0 x) => ?_) ?_; clear_value x; rotate_left; unfold x; rotate_right) | (refine (fun (_ : okP R s0 x) => ?_) ?_; clear_value x; rotate_left; unfold x; rotate_right) | clear_value x)
    | split
    | with_reducible apply okE_ok
    | exact okE_error
    | with_reducible apply keep_uWrite
    | with_reducible apply keep_scaleOut
    | refine okE_get ?_ (by with_reducible assumption))

theorem keep_runScale {R : State → State → Prop} (hR : Absorbs Held R) {s0 : State} {s : State} {a1 a2 : Nat} {a3 : ScaleCmd} (h : R s0 s) :
    okE R s0 (runScale s a1 a2 a3) := by
  have hS := hR.sameOfHeld
  unfold runScale
  repeat' (first
    | with_reducible assumption
    | with_reducible refine fun _ => ?_
    | split
    | with_reducible apply okE_ok
    | exact okE_error
    | with_reducible apply keep_scaleOut
    | refine okE_get ?_ (by with_reducible assumption))

theorem keep_runDecode {R : State → State → Prop} (hR : Absorbs Held R) {s0 : State} {s : State} {a1 : Nat} {a2 : DecodeCmd} (h : R s0 s) :
    okE R s0 (runDecode s a1 a2) := by
  have hS := hR.sameOfHeld
  unfold runDecode
  repeat' (first
    | with_reducible assumption
    | with_reducible refine fun _ => ?_
    | ((try lift_lets -underBinder); with_reducible intro x; first | (refine (fun (_ : R s0 x) => ?_) ?_; clear_value x; rotate_left; unfold x; rotate_right) | (refine (fun (_ : okP R s0 x) => ?_) ?_; clear_value x; rotate_left; unfold x; rotate_right) | clear_value x)
    | split
    | with_reducible apply okE_ok
    | exact okE_error
    | with_reducible apply keep_uWrite
    | with_reducible apply keep_index
    | refine okE_get ?_ (by with_reducible assumption))

theorem keep_movePackets {R : State → State → Prop} (hR : Absorbs Held R) {s0 : State} {tile : Nat} : ∀ (fuel : Nat) {src dst n : Nat}
    {s : State}, R s0 s → okP R s0 (movePackets tile fuel src dst n s) := by
  have hS := hR.sameOfHeld
  intro fuel
  induction fuel with
  | zero => intro src dst n s h; exact h
  | succ n ih =>
    intro src dst m s h
    unfold movePackets
    repeat' (first
      | with_reducible apply ih
      | with_reducible assumption
      | with_reducible refine fun _ => ?_
      | ((try lift_lets -underBinder); with_reducible intro x; first | (refine (fun (_ : R s0 x) => ?_) ?_; clear_value x; rotate_left; unfold x; rotate_right) | (refine (fun (_ : okP R s0 x) => ?_) ?_; clear_value x; rotate_left; unfold x; rotate_right) | clear_value x)
      | split
      | with_reducible apply keep_uWrite
      | refine okE_get ?_ (by with_reducible assumption))

theorem keep_landPackets {R : State → State → Prop} (hR : Absorbs Held R) {s0 : State} {x : Nat} : ∀ (fuel : Nat) {dst : Nat} {bs : List Byte}
    {s : State}, R s0 s → okP R s0 (landPackets x fuel dst bs s) := by
  have hS := hR.sameOfHeld
  intro fuel
  induction fuel with
  | zero => intro dst bs s h; exact h
  | succ n ih =>
    intro dst bs s h
    unfold landPackets
    repeat' (first
      | with_reducible apply ih
      | with_reducible assumption
      | with_reducible refine fun _ => ?_
      | split
      | with_reducible apply keep_uWrite
      | refine okE_get ?_ (by with_reducible assumption))

theorem keep_runMove {R : State → State → Prop} (hR : Absorbs Held R) {s0 : State} {s : State} {a1 : Nat} {a2 : MoveCmd} (h : R s0 s) :
    okP R s0 (runMove s a1 a2) := by
  have hS := hR.sameOfHeld
  unfold runMove
  repeat' (first
    | with_reducible assumption
    | with_reducible refine fun _ => ?_
    | split
    | with_reducible apply keep_movePackets
    | refine okP_get ?_ (by with_reducible assumption))

theorem keep_setBarrier {R : State → State → Prop} (hR : Absorbs Same R) {s0 s : State} {b : Nat} {x : Barrier} (h : R s0 s) :
    R s0 (setBarrier s b x) :=
  hR _ _ _ h ⟨rfl, ⟨rfl, rfl⟩, rfl, fun g => { g with barriers := storeWf_set _ _ _ g.barriers }⟩

theorem keep_barrierArrive {R : State → State → Prop} (hR : Absorbs Same R) {s0 : State} {s : State} {a1 a2 : Nat} (h : R s0 s) :
    R s0 (barrierArrive s a1 a2) := by
  unfold barrierArrive
  repeat' (first
    | with_reducible assumption
    | with_reducible refine fun _ => ?_
    | ((try lift_lets -underBinder); with_reducible intro x; first | (refine (fun (_ : R s0 x) => ?_) ?_; clear_value x; rotate_left; unfold x; rotate_right) | (refine (fun (_ : okP R s0 x) => ?_) ?_; clear_value x; rotate_left; unfold x; rotate_right) | clear_value x)
    | split
    | with_reducible apply keep_setBarrier
    | with_reducible refine keep_mk (by assumption) ?_ rfl rfl rfl rfl rfl rfl rfl rfl rfl rfl rfl rfl rfl rfl rfl)

theorem keep_settleBarrier {R : State → State → Prop} (hR : Absorbs Same R) {s0 : State} {s : State} {a1 : Nat} (h : R s0 s) :
    R s0 (settleBarrier s a1) := by
  unfold settleBarrier
  repeat' (first
    | with_reducible assumption
    | with_reducible refine fun _ => ?_
    | ((try lift_lets -underBinder); with_reducible intro x; first | (refine (fun (_ : R s0 x) => ?_) ?_; clear_value x; rotate_left; unfold x; rotate_right) | (refine (fun (_ : okP R s0 x) => ?_) ?_; clear_value x; rotate_left; unfold x; rotate_right) | clear_value x)
    | split
    | with_reducible apply keep_setBarrier
    | with_reducible refine keep_mk (by assumption) ?_ rfl rfl rfl rfl rfl rfl rfl rfl rfl rfl rfl rfl rfl rfl rfl)

theorem keep_startBarrier {R : State → State → Prop} (hR : Absorbs Same R) {s0 : State} {s : State} {a1 a2 : Nat} (h : R s0 s) :
    R s0 (startBarrier s a1 a2) := by
  unfold startBarrier
  repeat' (first
    | with_reducible assumption
    | with_reducible refine fun _ => ?_
    | ((try lift_lets -underBinder); with_reducible intro x; first | (refine (fun (_ : R s0 x) => ?_) ?_; clear_value x; rotate_left; unfold x; rotate_right) | (refine (fun (_ : okP R s0 x) => ?_) ?_; clear_value x; rotate_left; unfold x; rotate_right) | clear_value x)
    | split
    | with_reducible apply keep_setBarrier
    | with_reducible apply keep_settleBarrier
    | with_reducible apply keep_barrierArrive
    | with_reducible refine keep_mk (by assumption) ?_ rfl rfl rfl rfl rfl rfl rfl rfl rfl rfl rfl rfl rfl rfl rfl)

theorem keep_whole {R : State → State → Prop} {s0 s : State} {r : Except UFault State} (h : R s0 s) (hr : okE R s0 r) :
    okP R s0 (whole s r) := by
  cases hr with
  | ok g => exact g
  | error => exact h

theorem keep_runUnit {R : State → State → Prop} (hR : Absorbs Held R) {s0 : State} {s : State} {a1 : Nat} {a2 : UnitCmd} (h : R s0 s) :
    okP R s0 (runUnit s a1 a2) := by
  have hS := hR.sameOfHeld
  unfold runUnit
  repeat' (first
    | with_reducible assumption
    | with_reducible refine fun _ => ?_
    | split
    | with_reducible apply keep_whole
    | with_reducible apply keep_runTensor
    | with_reducible apply keep_runVector
    | with_reducible apply keep_runChain
    | with_reducible apply keep_runRotate
    | with_reducible apply keep_runScale
    | with_reducible apply keep_stepClose
    | with_reducible apply keep_runDecode
    | with_reducible apply keep_runMove
    | with_reducible apply keep_startBarrier
    | with_reducible apply keep_invalid
    | refine okE_get ?_ (by with_reducible assumption)
    | refine okP_get ?_ (by with_reducible assumption)
    | refine okV_get_done ?_ (by with_reducible assumption)
    | refine okV_get_wait ?_ (by with_reducible assumption))

theorem keep_unitFault {R : State → State → Prop} (hR : Absorbs Held R) {s0 : State} {s : State} {a1 : Nat} {a2 : UnitCmd} {a3 : UFault} (h : R s0 s) :
    R s0 (unitFault s a1 a2 a3) := by
  have hS := hR.sameOfHeld
  unfold unitFault
  repeat' (first
    | with_reducible assumption
    | with_reducible refine fun _ => ?_
    | ((try lift_lets -underBinder); with_reducible intro x; first | (refine (fun (_ : R s0 x) => ?_) ?_; clear_value x; rotate_left; unfold x; rotate_right) | (refine (fun (_ : okP R s0 x) => ?_) ?_; clear_value x; rotate_left; unfold x; rotate_right) | clear_value x)
    | split
    | with_reducible apply keep_tileAccessFault
    | with_reducible apply keep_tileWriteFault
    | with_reducible apply keep_threadFault
    | with_reducible apply keep_takeFree
    | with_reducible apply keep_vaPut
    | with_reducible apply keep_raiseCtx
    | with_reducible apply keep_index
    | refine okP_get ?_ (by with_reducible assumption))

theorem keep_execUnitCommandStart {R : State → State → Prop} (hR : Absorbs Held R) {s0 : State} {a0 a1 : Nat} {s : State} (h : R s0 s) :
    okO R s0 (execUnitCommandStart a0 a1 s) := by
  have hS := hR.sameOfHeld
  unfold execUnitCommandStart
  repeat' (first
    | with_reducible assumption
    | with_reducible refine fun _ => ?_
    | ((try lift_lets -underBinder); with_reducible intro x; first | (refine (fun (_ : R s0 x) => ?_) ?_; clear_value x; rotate_left; unfold x; rotate_right) | (refine (fun (_ : okP R s0 x) => ?_) ?_; clear_value x; rotate_left; unfold x; rotate_right) | clear_value x)
    | split
    | with_reducible apply okO_next
    | with_reducible apply keep_runUnit
    | with_reducible apply keep_unitFault
    | with_reducible apply keep_wakeUnitWaiters
    | with_reducible apply keep_setUnit
    | with_reducible apply keep_readNoted
    | refine okP_get ?_ (by with_reducible assumption)
    | with_reducible refine keep_mk (by assumption) ?_ rfl rfl rfl rfl rfl rfl rfl rfl rfl rfl rfl rfl rfl rfl rfl)

theorem keep_signalToken {R : State → State → Prop} (hR : Absorbs Same R) {s0 : State} {s : State} {a1 a2 a3 : Nat} (h : R s0 s) :
    R s0 (signalToken s a1 a2 a3) := by
  unfold signalToken
  repeat' (first
    | with_reducible assumption
    | with_reducible refine fun _ => ?_
    | ((try lift_lets -underBinder); with_reducible intro x; first | (refine (fun (_ : R s0 x) => ?_) ?_; clear_value x; rotate_left; unfold x; rotate_right) | (refine (fun (_ : okP R s0 x) => ?_) ?_; clear_value x; rotate_left; unfold x; rotate_right) | clear_value x)
    | split
    | with_reducible apply keep_setThread
    | with_reducible refine keep_mk (by assumption) ?_ rfl rfl rfl rfl rfl rfl rfl rfl rfl rfl rfl rfl rfl rfl rfl)

theorem keep_markRemote {R : State → State → Prop} (hR : Absorbs Same R) {s0 : State} {s : State} {a1 : Option Nat} (h : R s0 s) :
    R s0 (markRemote s a1) := by
  unfold markRemote
  repeat' (first
    | with_reducible assumption
    | with_reducible refine fun _ => ?_
    | split
    | with_reducible apply keep_setLaunch
    | with_reducible refine keep_mk (by assumption) ?_ rfl rfl rfl rfl rfl rfl rfl rfl rfl rfl rfl rfl rfl rfl rfl)

theorem keep_moveEnd {R : State → State → Prop} (hR : Absorbs Held R) {s0 : State} {s : State} {a1 : UnitCmd} {a2 : MoveCmd} (h : R s0 s) :
    okP R s0 (moveEnd s a1 a2) := by
  have hS := hR.sameOfHeld
  unfold moveEnd
  repeat' (first
    | with_reducible assumption
    | with_reducible refine fun _ => ?_
    | ((try lift_lets -underBinder); with_reducible intro x; first | (refine (fun (_ : R s0 x) => ?_) ?_; clear_value x; rotate_left; unfold x; rotate_right) | (refine (fun (_ : okP R s0 x) => ?_) ?_; clear_value x; rotate_left; unfold x; rotate_right) | clear_value x)
    | split
    | with_reducible apply keep_markRemote
    | with_reducible apply keep_takeFree
    | with_reducible apply keep_landPackets
    | refine okP_get ?_ (by with_reducible assumption)
    | with_reducible refine keep_mk (by assumption) ?_ rfl rfl rfl rfl rfl rfl rfl rfl rfl rfl rfl rfl rfl rfl rfl)

theorem keep_unitEnd {R : State → State → Prop} (hR : Absorbs Held R) {s0 : State} {s : State} {a1 : UnitCmd} {a2 : Option Figures} (h : R s0 s) :
    okP R s0 (unitEnd s a1 a2) := by
  have hS := hR.sameOfHeld
  unfold unitEnd
  repeat' (first
    | with_reducible assumption
    | with_reducible refine fun _ => ?_
    | split
    | with_reducible apply keep_moveEnd
    | with_reducible apply keep_whole
    | with_reducible apply keep_writeFigures
    | refine okE_get ?_ (by with_reducible assumption)
    | refine okP_get ?_ (by with_reducible assumption))

theorem keep_execUnitCommandComplete {R : State → State → Prop} (hR : Absorbs Held R) {s0 : State} {a0 a1 : Nat} {s : State} (h : R s0 s) :
    okO R s0 (execUnitCommandComplete a0 a1 s) := by
  have hS := hR.sameOfHeld
  unfold execUnitCommandComplete
  repeat' (first
    | with_reducible assumption
    | with_reducible refine fun _ => ?_
    | ((try lift_lets -underBinder); with_reducible intro x; first | (refine (fun (_ : R s0 x) => ?_) ?_; clear_value x; rotate_left; unfold x; rotate_right) | (refine (fun (_ : okP R s0 x) => ?_) ?_; clear_value x; rotate_left; unfold x; rotate_right) | clear_value x)
    | split
    | with_reducible apply okO_next
    | with_reducible apply keep_unitEnd
    | with_reducible apply keep_setUnit
    | with_reducible apply keep_unitFault
    | with_reducible apply keep_settleHalt
    | with_reducible apply keep_signalToken
    | refine okP_get ?_ (by with_reducible assumption)
    | with_reducible refine keep_mk (by assumption) ?_ rfl rfl rfl rfl rfl rfl rfl rfl rfl rfl rfl rfl rfl rfl rfl)

theorem keep_execStepClose {R : State → State → Prop} (hR : Absorbs Held R) {s0 : State} {a0 a1 a2 : Nat} {a3 : Option Nat} {s : State} (h : R s0 s) :
    okO R s0 (execStepClose a0 a1 a2 a3 s) := by
  have hS := hR.sameOfHeld
  unfold execStepClose
  repeat' (first
    | with_reducible assumption
    | with_reducible refine fun _ => ?_
    | split
    | with_reducible apply okO_next
    | with_reducible apply keep_stepClose
    | with_reducible apply keep_unitFault
    | refine okE_get ?_ (by with_reducible assumption))

theorem keep_execBarrierArrival {R : State → State → Prop} (hR : Absorbs Same R) {s0 : State} {a0 a1 : Nat} {s : State} (h : R s0 s) :
    okO R s0 (execBarrierArrival a0 a1 s) := by
  unfold execBarrierArrival
  repeat' (first
    | with_reducible assumption
    | with_reducible refine fun _ => ?_
    | split
    | with_reducible apply okO_next
    | with_reducible apply keep_settleBarrier
    | with_reducible apply keep_barrierArrive)

end Sys2Proof.Machine
end

