-- ==== Sys2Proof/Laws/KeepTileCmds.lean ====
section
/-! SUPPORT. What the operations of Machine/TileCmds.lean keep. -/

namespace Sys2Proof.Machine

theorem keep_shareZeroEngine {R : State → State → Prop} (hR : Absorbs Held R) {s0 : State} {a0 : Nat} {a1 : QCmd} {s : State} (h : R s0 s) :
    okV R s0 (shareZeroEngine a0 a1 s) := by
  have hS := hR.sameOfHeld
  unfold shareZeroEngine
  repeat' (first
    | with_reducible assumption
    | with_reducible refine fun _ => ?_
    | ((try lift_lets -underBinder); with_reducible intro x; first | (refine (fun (_ : R s0 x) => ?_) ?_; clear_value x; rotate_left; unfold x; rotate_right) | (refine (fun (_ : okP R s0 x) => ?_) ?_; clear_value x; rotate_left; unfold x; rotate_right) | clear_value x)
    | split
    | with_reducible apply okV_done
    | with_reducible apply okV_wait
    | with_reducible apply keep_invalid
    | with_reducible apply keep_okay
    | with_reducible apply keep_forEach
    | with_reducible apply keep_memZero)

theorem keep_execShareZero {R : State → State → Prop} (hR : Absorbs Held R) {s0 : State} {a0 a1 : Nat} {s : State} (h : R s0 s) :
    okO R s0 (execShareZero a0 a1 s) := by
  have hS := hR.sameOfHeld
  unfold execShareZero
  repeat' (first
    | with_reducible assumption
    | with_reducible refine fun _ => ?_
    | split
    | with_reducible apply okO_next
    | with_reducible apply keep_runEngine
    | with_reducible apply keep_shareZeroEngine)

theorem keep_perfEngine {R : State → State → Prop} (hR : Absorbs Held R) {s0 : State} {a0 : Nat} {a1 : QCmd} {s : State} (h : R s0 s) :
    okV R s0 (perfEngine a0 a1 s) := by
  have hS := hR.sameOfHeld
  unfold perfEngine
  repeat' (first
    | with_reducible assumption
    | with_reducible refine fun _ => ?_
    | ((try lift_lets -underBinder); with_reducible intro x; first | (refine (fun (_ : R s0 x) => ?_) ?_; clear_value x; rotate_left; unfold x; rotate_right) | (refine (fun (_ : okP R s0 x) => ?_) ?_; clear_value x; rotate_left; unfold x; rotate_right) | clear_value x)
    | split
    | with_reducible apply okV_done
    | with_reducible apply okV_wait
    | with_reducible apply keep_invalid
    | with_reducible apply keep_vaWrite
    | with_reducible apply keep_failAccess
    | with_reducible apply keep_okay
    | refine okE_get ?_ (by with_reducible assumption)
    | refine okV_get_done ?_ (by with_reducible assumption)
    | refine okV_get_wait ?_ (by with_reducible assumption)
    | with_reducible refine keep_mk (by assumption) ?_ rfl rfl rfl rfl rfl rfl rfl rfl rfl rfl rfl rfl rfl rfl rfl)

theorem keep_execPerfSnapshot {R : State → State → Prop} (hR : Absorbs Held R) {s0 : State} {a0 a1 : Nat} {s : State} (h : R s0 s) :
    okO R s0 (execPerfSnapshot a0 a1 s) := by
  have hS := hR.sameOfHeld
  unfold execPerfSnapshot
  repeat' (first
    | with_reducible assumption
    | with_reducible refine fun _ => ?_
    | split
    | with_reducible apply okO_next
    | with_reducible apply keep_runEngine
    | with_reducible apply keep_perfEngine)

end Sys2Proof.Machine
end

