-- ==== Sys2Proof/Laws/KeepMove.lean ====
section
/-! SUPPORT. What the operations of Machine/Move.lean keep. -/

namespace Sys2Proof.Machine

theorem keep_moveUnread {R : State → State → Prop} (hR : Absorbs Held R) {s0 : State} {s : State} {a1 : Nat} {a2 : QCmd} {a3 : Nat} {a4 : AccErr} (h : R s0 s) :
    okV R s0 (moveUnread s a1 a2 a3 a4) := by
  have hS := hR.sameOfHeld
  unfold moveUnread
  repeat' (first
    | with_reducible assumption
    | with_reducible refine fun _ => ?_
    | split
    | with_reducible apply okV_done
    | with_reducible apply okV_wait
    | with_reducible apply keep_failAccess)

theorem keep_homeNoted {R : State → State → Prop} (hR : Absorbs Same R) {s0 : State} {a0 : Leaf} {s : State} (h : R s0 s) :
    R s0 (homeNoted a0 s) := by
  unfold homeNoted
  repeat' (first
    | with_reducible assumption
    | with_reducible refine fun _ => ?_
    | split
    | with_reducible apply keep_noteRetries
    | with_reducible apply keep_noteCorrs)

theorem keep_movePage {R : State → State → Prop} (hR : Absorbs Held R) {s0 : State} {s : State} {a1 a2 a3 a4 : Nat} {a5 : Bool} {a6 : Page} {a7 : List Byte} (h : R s0 s) :
    R s0 (movePage s a1 a2 a3 a4 a5 a6 a7) := by
  have hS := hR.sameOfHeld
  unfold movePage
  repeat' (first
    | with_reducible assumption
    | with_reducible refine fun _ => ?_
    | ((try lift_lets -underBinder); with_reducible intro x; first | (refine (fun (_ : R s0 x) => ?_) ?_; clear_value x; rotate_left; unfold x; rotate_right) | (refine (fun (_ : okP R s0 x) => ?_) ?_; clear_value x; rotate_left; unfold x; rotate_right) | clear_value x)
    | split
    | with_reducible apply keep_countFlash
    | with_reducible apply keep_flashWrite
    | with_reducible apply keep_softWrite
    | with_reducible apply keep_memZero
    | with_reducible apply keep_invalidateRange
    | with_reducible apply keep_memWrite)

theorem keep_reservePage {R : State → State → Prop} (hR : Absorbs Held R) {s0 : State} {a0 : Page} {s : State} (h : R s0 s) :
    R s0 (reservePage a0 s) := by
  have hS := hR.sameOfHeld
  unfold reservePage
  repeat' (first
    | with_reducible assumption
    | with_reducible refine fun _ => ?_
    | split
    | with_reducible apply keep_memWrite)

theorem keep_pagesDone {R : State → State → Prop} (hR : Absorbs Same R) {s0 : State} {a0 : Nat} {a1 : QCmd} {a2 : Nat} {s : State} (h : R s0 s) :
    okV R s0 (pagesDone a0 a1 a2 s) := by
  unfold pagesDone
  repeat' (first
    | with_reducible assumption
    | with_reducible refine fun _ => ?_
    | split
    | with_reducible apply okV_done
    | with_reducible apply okV_wait
    | with_reducible apply keep_modCmd
    | with_reducible apply keep_okay
    | with_reducible refine keep_mk (by assumption) ?_ rfl rfl rfl rfl rfl rfl rfl rfl rfl rfl rfl rfl rfl rfl rfl)

theorem keep_engage {R : State → State → Prop} (hR : Absorbs Same R) {s0 : State} {a0 : Nat} {a1 : QCmd} {s : State} (h : R s0 s) :
    okV R s0 (engage a0 a1 s) := by
  unfold engage
  repeat' (first
    | with_reducible assumption
    | with_reducible refine fun _ => ?_
    | split
    | with_reducible apply okV_done
    | with_reducible apply okV_wait
    | with_reducible apply keep_modCmd
    | with_reducible refine keep_mk (by assumption) ?_ rfl rfl rfl rfl rfl rfl rfl rfl rfl rfl rfl rfl rfl rfl rfl)

theorem keep_migrateStep {R : State → State → Prop} (hR : Absorbs Held R) {s0 : State} {a0 : Nat} {a1 : QCmd} {s : State} (h : R s0 s) :
    okV R s0 (migrateStep a0 a1 s) := by
  have hS := hR.sameOfHeld
  unfold migrateStep
  repeat' (first
    | with_reducible assumption
    | with_reducible refine fun _ => ?_
    | ((try lift_lets -underBinder); with_reducible intro x; first | (refine (fun (_ : R s0 x) => ?_) ?_; clear_value x; rotate_left; unfold x; rotate_right) | (refine (fun (_ : okP R s0 x) => ?_) ?_; clear_value x; rotate_left; unfold x; rotate_right) | clear_value x)
    | split
    | with_reducible apply okV_done
    | with_reducible apply okV_wait
    | with_reducible apply keep_moveUnread
    | with_reducible apply keep_invalid
    | with_reducible apply keep_releasePages
    | with_reducible apply keep_pagesDone
    | with_reducible apply keep_homeNoted
    | with_reducible apply keep_movePage
    | with_reducible apply keep_beginTeardown
    | with_reducible apply keep_flashUnread
    | refine okV_get_done ?_ (by with_reducible assumption)
    | refine okV_get_wait ?_ (by with_reducible assumption))

theorem keep_migrateEngine {R : State → State → Prop} (hR : Absorbs Held R) {s0 : State} {a0 : Nat} {a1 : QCmd} {s : State} (h : R s0 s) :
    okV R s0 (migrateEngine a0 a1 s) := by
  have hS := hR.sameOfHeld
  unfold migrateEngine
  repeat' (first
    | with_reducible assumption
    | with_reducible refine fun _ => ?_
    | ((try lift_lets -underBinder); with_reducible intro x; first | (refine (fun (_ : R s0 x) => ?_) ?_; clear_value x; rotate_left; unfold x; rotate_right) | (refine (fun (_ : okP R s0 x) => ?_) ?_; clear_value x; rotate_left; unfold x; rotate_right) | clear_value x)
    | split
    | with_reducible apply okV_done
    | with_reducible apply okV_wait
    | with_reducible apply keep_migrateStep
    | with_reducible apply keep_invalid
    | with_reducible apply keep_moveUnread
    | with_reducible apply keep_refuse
    | with_reducible apply keep_noResource
    | with_reducible apply keep_engage
    | with_reducible apply keep_forEach
    | with_reducible apply keep_reservePage
    | with_reducible apply keep_index
    | refine okV_get_done ?_ (by with_reducible assumption)
    | refine okV_get_wait ?_ (by with_reducible assumption))

theorem keep_execMigrate {R : State → State → Prop} (hR : Absorbs Held R) {s0 : State} {a0 a1 : Nat} {s : State} (h : R s0 s) :
    okO R s0 (execMigrate a0 a1 s) := by
  have hS := hR.sameOfHeld
  unfold execMigrate
  repeat' (first
    | with_reducible assumption
    | with_reducible refine fun _ => ?_
    | split
    | with_reducible apply okO_next
    | with_reducible apply keep_runEngine
    | with_reducible apply keep_migrateEngine)

theorem keep_pageFail {R : State → State → Prop} (hR : Absorbs Held R) {s0 : State} {s : State} {a1 : Nat} {a2 : QCmd} {a3 : Nat} {a4 : PageErr} (h : R s0 s) :
    okV R s0 (pageFail s a1 a2 a3 a4) := by
  have hS := hR.sameOfHeld
  unfold pageFail
  repeat' (first
    | with_reducible assumption
    | with_reducible refine fun _ => ?_
    | split
    | with_reducible apply okV_done
    | with_reducible apply okV_wait
    | with_reducible apply keep_invalid
    | with_reducible apply keep_moveUnread)

theorem keep_copyStep {R : State → State → Prop} (hR : Absorbs Held R) {s0 : State} {a0 : Nat} {a1 : QCmd} {s : State} (h : R s0 s) :
    okV R s0 (copyStep a0 a1 s) := by
  have hS := hR.sameOfHeld
  unfold copyStep
  repeat' (first
    | with_reducible assumption
    | with_reducible refine fun _ => ?_
    | ((try lift_lets -underBinder); with_reducible intro x; first | (refine (fun (_ : R s0 x) => ?_) ?_; clear_value x; rotate_left; unfold x; rotate_right) | (refine (fun (_ : okP R s0 x) => ?_) ?_; clear_value x; rotate_left; unfold x; rotate_right) | clear_value x)
    | split
    | with_reducible apply okV_done
    | with_reducible apply okV_wait
    | with_reducible apply keep_pageFail
    | with_reducible apply keep_moveUnread
    | with_reducible apply keep_pagesDone
    | with_reducible apply keep_noteCorr
    | with_reducible apply keep_softWrite
    | refine okV_get_done ?_ (by with_reducible assumption)
    | refine okV_get_wait ?_ (by with_reducible assumption))

theorem keep_copyEngine {R : State → State → Prop} (hR : Absorbs Held R) {s0 : State} {a0 : Nat} {a1 : QCmd} {s : State} (h : R s0 s) :
    okV R s0 (copyEngine a0 a1 s) := by
  have hS := hR.sameOfHeld
  unfold copyEngine
  repeat' (first
    | with_reducible assumption
    | with_reducible refine fun _ => ?_
    | ((try lift_lets -underBinder); with_reducible intro x; first | (refine (fun (_ : R s0 x) => ?_) ?_; clear_value x; rotate_left; unfold x; rotate_right) | (refine (fun (_ : okP R s0 x) => ?_) ?_; clear_value x; rotate_left; unfold x; rotate_right) | clear_value x)
    | split
    | with_reducible apply okV_done
    | with_reducible apply okV_wait
    | with_reducible apply keep_copyStep
    | with_reducible apply keep_invalid
    | with_reducible apply keep_engage
    | with_reducible apply keep_pageFail
    | refine okV_get_done ?_ (by with_reducible assumption)
    | refine okV_get_wait ?_ (by with_reducible assumption))

theorem keep_execCopy {R : State → State → Prop} (hR : Absorbs Held R) {s0 : State} {a0 a1 : Nat} {s : State} (h : R s0 s) :
    okO R s0 (execCopy a0 a1 s) := by
  have hS := hR.sameOfHeld
  unfold execCopy
  repeat' (first
    | with_reducible assumption
    | with_reducible refine fun _ => ?_
    | split
    | with_reducible apply okO_next
    | with_reducible apply keep_runEngine
    | with_reducible apply keep_copyEngine)

theorem keep_fillStep {R : State → State → Prop} (hR : Absorbs Held R) {s0 : State} {a0 : Nat} {a1 : QCmd} {s : State} (h : R s0 s) :
    okV R s0 (fillStep a0 a1 s) := by
  have hS := hR.sameOfHeld
  unfold fillStep
  repeat' (first
    | with_reducible assumption
    | with_reducible refine fun _ => ?_
    | split
    | with_reducible apply okV_done
    | with_reducible apply okV_wait
    | with_reducible apply keep_pageFail
    | with_reducible apply keep_pagesDone
    | with_reducible apply keep_softWrite
    | refine okV_get_done ?_ (by with_reducible assumption)
    | refine okV_get_wait ?_ (by with_reducible assumption))

theorem keep_fillEngine {R : State → State → Prop} (hR : Absorbs Held R) {s0 : State} {a0 : Nat} {a1 : QCmd} {s : State} (h : R s0 s) :
    okV R s0 (fillEngine a0 a1 s) := by
  have hS := hR.sameOfHeld
  unfold fillEngine
  repeat' (first
    | with_reducible assumption
    | with_reducible refine fun _ => ?_
    | ((try lift_lets -underBinder); with_reducible intro x; first | (refine (fun (_ : R s0 x) => ?_) ?_; clear_value x; rotate_left; unfold x; rotate_right) | (refine (fun (_ : okP R s0 x) => ?_) ?_; clear_value x; rotate_left; unfold x; rotate_right) | clear_value x)
    | split
    | with_reducible apply okV_done
    | with_reducible apply okV_wait
    | with_reducible apply keep_fillStep
    | with_reducible apply keep_invalid
    | with_reducible apply keep_pageFail
    | with_reducible apply keep_engage
    | refine okV_get_done ?_ (by with_reducible assumption)
    | refine okV_get_wait ?_ (by with_reducible assumption))

theorem keep_execFill {R : State → State → Prop} (hR : Absorbs Held R) {s0 : State} {a0 a1 : Nat} {s : State} (h : R s0 s) :
    okO R s0 (execFill a0 a1 s) := by
  have hS := hR.sameOfHeld
  unfold execFill
  repeat' (first
    | with_reducible assumption
    | with_reducible refine fun _ => ?_
    | split
    | with_reducible apply okO_next
    | with_reducible apply keep_runEngine
    | with_reducible apply keep_fillEngine)

theorem keep_invalidateEngine {R : State → State → Prop} (hR : Absorbs Same R) {s0 : State} {a0 : Nat} {a1 : QCmd} {s : State} (h : R s0 s) :
    okV R s0 (invalidateEngine a0 a1 s) := by
  unfold invalidateEngine
  repeat' (first
    | with_reducible assumption
    | with_reducible refine fun _ => ?_
    | ((try lift_lets -underBinder); with_reducible intro x; first | (refine (fun (_ : R s0 x) => ?_) ?_; clear_value x; rotate_left; unfold x; rotate_right) | (refine (fun (_ : okP R s0 x) => ?_) ?_; clear_value x; rotate_left; unfold x; rotate_right) | clear_value x)
    | split
    | with_reducible apply okV_done
    | with_reducible apply okV_wait
    | with_reducible apply keep_invalid
    | with_reducible apply keep_okay
    | with_reducible apply keep_invalidateAll
    | with_reducible apply keep_invalidateRange)

theorem keep_execTranslationInvalidate {R : State → State → Prop} (hR : Absorbs Same R) {s0 : State} {a0 a1 : Nat} {s : State} (h : R s0 s) :
    okO R s0 (execTranslationInvalidate a0 a1 s) := by
  unfold execTranslationInvalidate
  repeat' (first
    | with_reducible assumption
    | with_reducible refine fun _ => ?_
    | split
    | with_reducible apply okO_next
    | with_reducible apply keep_runEngine
    | with_reducible apply keep_invalidateEngine)

end Sys2Proof.Machine
end

