-- ==== Sys2Proof/Laws/KeepKv.lean ====
section
/-! SUPPORT. What the operations of Machine/Kv.lean keep. -/

namespace Sys2Proof.Machine

theorem keep_kvEngine {R : State → State → Prop} (hR : Absorbs Held R) {s0 s : State} {q n : Nat} {used : List (Nat × Nat)}
    {f : Nat → QCmd → State → Verdict} {c : QCmd} (h : R s0 s) (hf : ∀ x c s, R s0 s → okV R s0 (f x c s)) :
    okV R s0 (kvEngine q n used f c s) := by
  have hS := hR.sameOfHeld
  unfold kvEngine
  repeat' (first
    | refine keep_Verdict_after (hf _ _ _ h) (fun _ _ g => keep_noteStacks hS g)
    | with_reducible assumption
    | with_reducible refine fun _ => ?_
    | ((try lift_lets -underBinder); with_reducible intro x; first | (refine (fun (_ : R s0 x) => ?_) ?_; clear_value x; rotate_left; unfold x; rotate_right) | (refine (fun (_ : okP R s0 x) => ?_) ?_; clear_value x; rotate_left; unfold x; rotate_right) | clear_value x)
    | split
    | with_reducible apply okV_done
    | with_reducible apply okV_wait
    | with_reducible apply keep_refuse
    | with_reducible apply keep_invalid
    | with_reducible apply keep_failAccess
    | with_reducible apply keep_Verdict_after
    | with_reducible apply keep_noteStacks
    | refine okV_get_done ?_ (by with_reducible assumption)
    | refine okV_get_wait ?_ (by with_reducible assumption))

theorem keep_exhausted {R : State → State → Prop} (hR : Absorbs Same R) {s0 : State} {s : State} {a1 : Nat} (h : R s0 s) :
    okV R s0 (exhausted s a1) := by
  unfold exhausted
  repeat' (first
    | with_reducible assumption
    | with_reducible refine fun _ => ?_
    | split
    | with_reducible apply okV_done
    | with_reducible apply okV_wait
    | with_reducible apply keep_noResource
    | with_reducible apply keep_raiseCtx)

theorem keep_createSeq {R : State → State → Prop} (hR : Absorbs Held R) {s0 : State} {a0 a1 a2 a3 : Nat} {s : State} (h : R s0 s) :
    R s0 (createSeq a0 a1 a2 a3 s) := by
  have hS := hR.sameOfHeld
  unfold createSeq
  repeat' (first
    | with_reducible assumption
    | with_reducible refine fun _ => ?_
    | split
    | with_reducible apply keep_setSeq
    | with_reducible apply keep_memZero)

theorem keep_seqCreateEngine {R : State → State → Prop} (hR : Absorbs Held R) {s0 : State} {a0 : Nat} {a1 : QCmd} {s : State} (h : R s0 s) :
    okV R s0 (seqCreateEngine a0 a1 s) := by
  have hS := hR.sameOfHeld
  unfold seqCreateEngine
  repeat' (first
    | with_reducible assumption
    | with_reducible refine fun _ => ?_
    | ((try lift_lets -underBinder); with_reducible intro x; first | (refine (fun (_ : R s0 x) => ?_) ?_; clear_value x; rotate_left; unfold x; rotate_right) | (refine (fun (_ : okP R s0 x) => ?_) ?_; clear_value x; rotate_left; unfold x; rotate_right) | clear_value x)
    | split
    | with_reducible apply okV_done
    | with_reducible apply okV_wait
    | with_reducible apply keep_invalid
    | with_reducible apply keep_noResource
    | with_reducible apply keep_okay
    | with_reducible apply keep_forRange
    | with_reducible apply keep_createSeq)

theorem keep_execSeqCreate {R : State → State → Prop} (hR : Absorbs Held R) {s0 : State} {a0 a1 : Nat} {s : State} (h : R s0 s) :
    okO R s0 (execSeqCreate a0 a1 s) := by
  have hS := hR.sameOfHeld
  unfold execSeqCreate
  repeat' (first
    | with_reducible assumption
    | with_reducible refine fun _ => ?_
    | split
    | with_reducible apply okO_next
    | with_reducible apply keep_runEngine
    | with_reducible apply keep_kvEngine
    | with_reducible apply keep_seqCreateEngine)

theorem keep_freeSeq {R : State → State → Prop} (hR : Absorbs Held R) {s0 : State} {a0 a1 : Nat} {s : State} (h : R s0 s) :
    R s0 (freeSeq a0 a1 s) := by
  have hS := hR.sameOfHeld
  unfold freeSeq
  repeat' (first
    | with_reducible assumption
    | with_reducible refine fun _ => ?_
    | split
    | with_reducible apply keep_memPut
    | with_reducible apply keep_forRange
    | with_reducible apply keep_dropEntry)

theorem keep_seqFreeEngine {R : State → State → Prop} (hR : Absorbs Held R) {s0 : State} {a0 : Nat} {a1 : QCmd} {s : State} (h : R s0 s) :
    okV R s0 (seqFreeEngine a0 a1 s) := by
  have hS := hR.sameOfHeld
  unfold seqFreeEngine
  repeat' (first
    | with_reducible assumption
    | with_reducible refine fun _ => ?_
    | split
    | with_reducible apply okV_done
    | with_reducible apply okV_wait
    | with_reducible apply keep_invalid
    | with_reducible apply keep_okay
    | with_reducible apply keep_forRange
    | with_reducible apply keep_freeSeq)

theorem keep_execSeqFree {R : State → State → Prop} (hR : Absorbs Held R) {s0 : State} {a0 a1 : Nat} {s : State} (h : R s0 s) :
    okO R s0 (execSeqFree a0 a1 s) := by
  have hS := hR.sameOfHeld
  unfold execSeqFree
  repeat' (first
    | with_reducible assumption
    | with_reducible refine fun _ => ?_
    | split
    | with_reducible apply okO_next
    | with_reducible apply keep_runEngine
    | with_reducible apply keep_kvEngine
    | with_reducible apply keep_seqFreeEngine)

theorem keep_forkSeq {R : State → State → Prop} (hR : Absorbs Held R) {s0 : State} {a0 a1 a2 : Nat} {s : State} (h : R s0 s) :
    R s0 (forkSeq a0 a1 a2 s) := by
  have hS := hR.sameOfHeld
  unfold forkSeq
  repeat' (first
    | with_reducible assumption
    | with_reducible refine fun _ => ?_
    | ((try lift_lets -underBinder); with_reducible intro x; first | (refine (fun (_ : R s0 x) => ?_) ?_; clear_value x; rotate_left; unfold x; rotate_right) | (refine (fun (_ : okP R s0 x) => ?_) ?_; clear_value x; rotate_left; unfold x; rotate_right) | clear_value x)
    | split
    | with_reducible apply keep_memWrite
    | with_reducible apply keep_forRange
    | with_reducible apply keep_memPut
    | with_reducible apply keep_setSlotRef)

theorem keep_seqForkEngine {R : State → State → Prop} (hR : Absorbs Held R) {s0 : State} {a0 : Nat} {a1 : QCmd} {s : State} (h : R s0 s) :
    okV R s0 (seqForkEngine a0 a1 s) := by
  have hS := hR.sameOfHeld
  unfold seqForkEngine
  repeat' (first
    | with_reducible assumption
    | with_reducible refine fun _ => ?_
    | split
    | with_reducible apply okV_done
    | with_reducible apply okV_wait
    | with_reducible apply keep_invalid
    | with_reducible apply keep_noResource
    | with_reducible apply keep_okay
    | with_reducible apply keep_forRange
    | with_reducible apply keep_forkSeq)

theorem keep_execSeqFork {R : State → State → Prop} (hR : Absorbs Held R) {s0 : State} {a0 a1 : Nat} {s : State} (h : R s0 s) :
    okO R s0 (execSeqFork a0 a1 s) := by
  have hS := hR.sameOfHeld
  unfold execSeqFork
  repeat' (first
    | with_reducible assumption
    | with_reducible refine fun _ => ?_
    | split
    | with_reducible apply okO_next
    | with_reducible apply keep_runEngine
    | with_reducible apply keep_kvEngine
    | with_reducible apply keep_seqForkEngine)

theorem keep_matchChunks {R : State → State → Prop} (hR : Absorbs Held R) {s0 : State} {x q : Nat} : ∀ (fuel : Nat)
    {i pkey pslot : Nat} {toks : List Byte} {s : State}, R s0 s → okP R s0 (matchChunks x q fuel i pkey pslot toks s) := by
  have hS := hR.sameOfHeld
  intro fuel
  induction fuel with
  | zero => intro i pkey pslot toks s h; exact h
  | succ n ih =>
    intro i pkey pslot toks s h
    unfold matchChunks
    repeat' (first
      | with_reducible apply ih
      | with_reducible assumption
      | with_reducible refine fun _ => ?_
      | ((try lift_lets -underBinder); with_reducible intro x; first | (refine (fun (_ : R s0 x) => ?_) ?_; clear_value x; rotate_left; unfold x; rotate_right) | (refine (fun (_ : okP R s0 x) => ?_) ?_; clear_value x; rotate_left; unfold x; rotate_right) | clear_value x)
      | split
      | with_reducible apply keep_finc
      | with_reducible apply keep_setPt
      | with_reducible apply keep_setSlotRef
      | with_reducible apply keep_setSlotState)

theorem keep_prefixMatchEngine {R : State → State → Prop} (hR : Absorbs Held R) {s0 : State} {a0 a1 : Nat} {a2 : QCmd} {s : State} (h : R s0 s) :
    okV R s0 (prefixMatchEngine a0 a1 a2 s) := by
  have hS := hR.sameOfHeld
  unfold prefixMatchEngine
  repeat' (first
    | with_reducible assumption
    | with_reducible refine fun _ => ?_
    | ((try lift_lets -underBinder); with_reducible intro x; first | (refine (fun (_ : R s0 x) => ?_) ?_; clear_value x; rotate_left; unfold x; rotate_right) | (refine (fun (_ : okP R s0 x) => ?_) ?_; clear_value x; rotate_left; unfold x; rotate_right) | clear_value x)
    | split
    | with_reducible apply okV_done
    | with_reducible apply okV_wait
    | with_reducible apply keep_invalid
    | with_reducible apply keep_failAccess
    | with_reducible apply keep_matchChunks
    | with_reducible apply keep_okay
    | with_reducible apply keep_fadd
    | with_reducible apply keep_setSeqLength
    | refine okP_get ?_ (by with_reducible assumption)
    | refine okV_get_done ?_ (by with_reducible assumption)
    | refine okV_get_wait ?_ (by with_reducible assumption))

theorem keep_execPrefixMatch {R : State → State → Prop} (hR : Absorbs Held R) {s0 : State} {a0 a1 : Nat} {s : State} (h : R s0 s) :
    okO R s0 (execPrefixMatch a0 a1 s) := by
  have hS := hR.sameOfHeld
  unfold execPrefixMatch
  repeat' (first
    | with_reducible assumption
    | with_reducible refine fun _ => ?_
    | split
    | with_reducible apply okO_next
    | with_reducible apply keep_runEngine
    | with_reducible apply keep_kvEngine
    | with_reducible apply keep_prefixMatchEngine)

theorem keep_addPosition {R : State → State → Prop} (hR : Absorbs Held R) {s0 : State} {a0 a1 : Nat} {a2 : List Byte} {s : State} (h : R s0 s) :
    R s0 (addPosition a0 a1 a2 s) := by
  have hS := hR.sameOfHeld
  unfold addPosition
  repeat' (first
    | with_reducible assumption
    | with_reducible refine fun _ => ?_
    | ((try lift_lets -underBinder); with_reducible intro x; first | (refine (fun (_ : R s0 x) => ?_) ?_; clear_value x; rotate_left; unfold x; rotate_right) | (refine (fun (_ : okP R s0 x) => ?_) ?_; clear_value x; rotate_left; unfold x; rotate_right) | clear_value x)
    | split
    | with_reducible apply keep_allocSlot
    | with_reducible apply keep_setPt
    | with_reducible apply keep_undefPosition
    | with_reducible apply keep_setSlotMask
    | with_reducible apply keep_setSlotFilled
    | with_reducible apply keep_memWrite
    | with_reducible apply keep_setSeqLength
    | refine okMP_get ?_ (by with_reducible assumption))

theorem keep_seqExtendEngine {R : State → State → Prop} (hR : Absorbs Held R) {s0 : State} {a0 a1 : Nat} {a2 : QCmd} {s : State} (h : R s0 s) :
    okV R s0 (seqExtendEngine a0 a1 a2 s) := by
  have hS := hR.sameOfHeld
  unfold seqExtendEngine
  repeat' (first
    | with_reducible assumption
    | with_reducible refine fun _ => ?_
    | ((try lift_lets -underBinder); with_reducible intro x; first | (refine (fun (_ : R s0 x) => ?_) ?_; clear_value x; rotate_left; unfold x; rotate_right) | (refine (fun (_ : okP R s0 x) => ?_) ?_; clear_value x; rotate_left; unfold x; rotate_right) | clear_value x)
    | split
    | with_reducible apply okV_done
    | with_reducible apply okV_wait
    | with_reducible apply keep_invalid
    | with_reducible apply keep_failAccess
    | with_reducible apply keep_exhausted
    | with_reducible apply keep_ownPage
    | with_reducible apply keep_okay
    | with_reducible apply keep_forEach
    | with_reducible apply keep_addPosition
    | refine okM_get ?_ (by with_reducible assumption)
    | with_reducible apply okM_getD
    | refine okV_get_done ?_ (by with_reducible assumption)
    | refine okV_get_wait ?_ (by with_reducible assumption))

theorem keep_execSeqExtend {R : State → State → Prop} (hR : Absorbs Held R) {s0 : State} {a0 a1 : Nat} {s : State} (h : R s0 s) :
    okO R s0 (execSeqExtend a0 a1 s) := by
  have hS := hR.sameOfHeld
  unfold execSeqExtend
  repeat' (first
    | with_reducible assumption
    | with_reducible refine fun _ => ?_
    | split
    | with_reducible apply okO_next
    | with_reducible apply keep_runEngine
    | with_reducible apply keep_kvEngine
    | with_reducible apply keep_seqExtendEngine)

theorem keep_seqTruncateEngine {R : State → State → Prop} (hR : Absorbs Held R) {s0 : State} {a0 : Nat} {a1 : QCmd} {s : State} (h : R s0 s) :
    okV R s0 (seqTruncateEngine a0 a1 s) := by
  have hS := hR.sameOfHeld
  unfold seqTruncateEngine
  repeat' (first
    | with_reducible assumption
    | with_reducible refine fun _ => ?_
    | ((try lift_lets -underBinder); with_reducible intro x; first | (refine (fun (_ : R s0 x) => ?_) ?_; clear_value x; rotate_left; unfold x; rotate_right) | (refine (fun (_ : okP R s0 x) => ?_) ?_; clear_value x; rotate_left; unfold x; rotate_right) | clear_value x)
    | split
    | with_reducible apply okV_done
    | with_reducible apply okV_wait
    | with_reducible apply keep_invalid
    | with_reducible apply keep_forRange
    | with_reducible apply keep_dropEntry
    | with_reducible apply keep_okay
    | with_reducible apply keep_setSeqLength)

theorem keep_execSeqTruncate {R : State → State → Prop} (hR : Absorbs Held R) {s0 : State} {a0 a1 : Nat} {s : State} (h : R s0 s) :
    okO R s0 (execSeqTruncate a0 a1 s) := by
  have hS := hR.sameOfHeld
  unfold execSeqTruncate
  repeat' (first
    | with_reducible assumption
    | with_reducible refine fun _ => ?_
    | split
    | with_reducible apply okO_next
    | with_reducible apply keep_runEngine
    | with_reducible apply keep_kvEngine
    | with_reducible apply keep_seqTruncateEngine)

theorem keep_seqTrimEngine {R : State → State → Prop} (hR : Absorbs Held R) {s0 : State} {a0 : Nat} {a1 : QCmd} {s : State} (h : R s0 s) :
    okV R s0 (seqTrimEngine a0 a1 s) := by
  have hS := hR.sameOfHeld
  unfold seqTrimEngine
  repeat' (first
    | with_reducible assumption
    | with_reducible refine fun _ => ?_
    | ((try lift_lets -underBinder); with_reducible intro x; first | (refine (fun (_ : R s0 x) => ?_) ?_; clear_value x; rotate_left; unfold x; rotate_right) | (refine (fun (_ : okP R s0 x) => ?_) ?_; clear_value x; rotate_left; unfold x; rotate_right) | clear_value x)
    | split
    | with_reducible apply okV_done
    | with_reducible apply okV_wait
    | with_reducible apply keep_invalid
    | with_reducible apply keep_memPut
    | with_reducible apply keep_okay
    | with_reducible apply keep_forRange
    | with_reducible apply keep_dropEntry)

theorem keep_execSeqTrim {R : State → State → Prop} (hR : Absorbs Held R) {s0 : State} {a0 a1 : Nat} {s : State} (h : R s0 s) :
    okO R s0 (execSeqTrim a0 a1 s) := by
  have hS := hR.sameOfHeld
  unfold execSeqTrim
  repeat' (first
    | with_reducible assumption
    | with_reducible refine fun _ => ?_
    | split
    | with_reducible apply okO_next
    | with_reducible apply keep_runEngine
    | with_reducible apply keep_kvEngine
    | with_reducible apply keep_seqTrimEngine)

theorem keep_writePosition {R : State → State → Prop} (hR : Absorbs Held R) {s0 : State} {a0 a1 a2 a3 : Nat} {a4 : List Byte} {s : State} (h : R s0 s) :
    R s0 (writePosition a0 a1 a2 a3 a4 s) := by
  have hS := hR.sameOfHeld
  unfold writePosition
  repeat' (first
    | with_reducible assumption
    | with_reducible refine fun _ => ?_
    | ((try lift_lets -underBinder); with_reducible intro x; first | (refine (fun (_ : R s0 x) => ?_) ?_; clear_value x; rotate_left; unfold x; rotate_right) | (refine (fun (_ : okP R s0 x) => ?_) ?_; clear_value x; rotate_left; unfold x; rotate_right) | clear_value x)
    | split
    | with_reducible apply keep_forEach
    | with_reducible apply keep_fadd
    | with_reducible apply keep_memWrite
    | with_reducible apply keep_setSlotMask)

theorem keep_writePositions {R : State → State → Prop} (hR : Absorbs Held R) {s0 : State} {x q layer : Nat} :
    ∀ (l : List (List Byte)) {pos : Nat} {s : State}, R s0 s → R s0 (writePositions x q layer pos l s)
  | [], _, _, h => h
  | _ :: rest, _, _, h => keep_writePositions hR rest (keep_writePosition hR h)

theorem keep_kvWriteEngine {R : State → State → Prop} (hR : Absorbs Held R) {s0 : State} {a0 a1 : Nat} {a2 : QCmd} {s : State} (h : R s0 s) :
    okV R s0 (kvWriteEngine a0 a1 a2 s) := by
  have hS := hR.sameOfHeld
  unfold kvWriteEngine
  repeat' (first
    | with_reducible assumption
    | with_reducible refine fun _ => ?_
    | ((try lift_lets -underBinder); with_reducible intro x; first | (refine (fun (_ : R s0 x) => ?_) ?_; clear_value x; rotate_left; unfold x; rotate_right) | (refine (fun (_ : okP R s0 x) => ?_) ?_; clear_value x; rotate_left; unfold x; rotate_right) | clear_value x)
    | split
    | with_reducible apply okV_done
    | with_reducible apply okV_wait
    | with_reducible apply keep_invalid
    | with_reducible apply keep_failAccess
    | with_reducible apply keep_exhausted
    | with_reducible apply keep_forEach
    | with_reducible apply keep_ownPage
    | with_reducible apply keep_writePositions
    | with_reducible apply keep_okay
    | with_reducible apply keep_tryPages
    | refine okM_get ?_ (by with_reducible assumption)
    | with_reducible apply okM_getD
    | refine okV_get_done ?_ (by with_reducible assumption)
    | refine okV_get_wait ?_ (by with_reducible assumption))

theorem keep_execKvWrite {R : State → State → Prop} (hR : Absorbs Held R) {s0 : State} {a0 a1 : Nat} {s : State} (h : R s0 s) :
    okO R s0 (execKvWrite a0 a1 s) := by
  have hS := hR.sameOfHeld
  unfold execKvWrite
  repeat' (first
    | with_reducible assumption
    | with_reducible refine fun _ => ?_
    | split
    | with_reducible apply okO_next
    | with_reducible apply keep_runEngine
    | with_reducible apply keep_kvEngine
    | with_reducible apply keep_kvWriteEngine)

theorem keep_clobberLanding {R : State → State → Prop} (hR : Absorbs Held R) {s0 : State} {s : State} {a1 a2 : Nat} {a3 : List Nat} {a4 : List (Nat × Nat)} (h : R s0 s) :
    R s0 (clobberLanding s a1 a2 a3 a4) := by
  have hS := hR.sameOfHeld
  unfold clobberLanding
  repeat' (first
    | with_reducible assumption
    | with_reducible refine fun _ => ?_
    | ((try lift_lets -underBinder); with_reducible intro x; first | (refine (fun (_ : R s0 x) => ?_) ?_; clear_value x; rotate_left; unfold x; rotate_right) | (refine (fun (_ : okP R s0 x) => ?_) ?_; clear_value x; rotate_left; unfold x; rotate_right) | clear_value x)
    | split
    | with_reducible apply keep_forEach
    | with_reducible apply keep_takeFree
    | with_reducible apply keep_memWrite
    | refine okP_get ?_ (by with_reducible assumption))

theorem keep_attendFinish {R : State → State → Prop} (hR : Absorbs Held R) {s0 : State} {a0 : Nat} {a1 : QCmd} {a2 : Attend} {s : State} (h : R s0 s) :
    okV R s0 (attendFinish a0 a1 a2 s) := by
  have hS := hR.sameOfHeld
  unfold attendFinish
  repeat' (first
    | with_reducible assumption
    | with_reducible refine fun _ => ?_
    | ((try lift_lets -underBinder); with_reducible intro x; first | (refine (fun (_ : R s0 x) => ?_) ?_; clear_value x; rotate_left; unfold x; rotate_right) | (refine (fun (_ : okP R s0 x) => ?_) ?_; clear_value x; rotate_left; unfold x; rotate_right) | clear_value x)
    | split
    | with_reducible apply okV_done
    | with_reducible apply okV_wait
    | with_reducible apply keep_failAccess
    | with_reducible apply keep_clobberLanding
    | with_reducible apply keep_vaWrite
    | with_reducible apply keep_okay
    | with_reducible apply keep_fadd
    | refine okE_get ?_ (by with_reducible assumption)
    | refine okV_get_done ?_ (by with_reducible assumption)
    | refine okV_get_wait ?_ (by with_reducible assumption)
    | with_reducible refine keep_mk (by assumption) ?_ rfl rfl rfl rfl rfl rfl rfl rfl rfl rfl rfl rfl rfl rfl rfl)

theorem keep_attendSnapshot {R : State → State → Prop} (hR : Absorbs Held R) {s0 : State} {a0 a1 : Nat} {a2 : QCmd} {s : State} (h : R s0 s) :
    okP R s0 (attendSnapshot a0 a1 a2 s) := by
  have hS := hR.sameOfHeld
  unfold attendSnapshot
  repeat' (first
    | with_reducible assumption
    | with_reducible refine fun _ => ?_
    | ((try lift_lets -underBinder); with_reducible intro x; first | (refine (fun (_ : R s0 x) => ?_) ?_; clear_value x; rotate_left; unfold x; rotate_right) | (refine (fun (_ : okP R s0 x) => ?_) ?_; clear_value x; rotate_left; unfold x; rotate_right) | clear_value x)
    | split
    | with_reducible apply keep_forEach
    | with_reducible apply keep_setSlotPin)

theorem keep_attendEngine {R : State → State → Prop} (hR : Absorbs Held R) {s0 : State} {a0 a1 : Nat} {a2 : QCmd} {s : State} (h : R s0 s) :
    okV R s0 (attendEngine a0 a1 a2 s) := by
  have hS := hR.sameOfHeld
  unfold attendEngine
  repeat' (first
    | with_reducible assumption
    | with_reducible refine fun _ => ?_
    | ((try lift_lets -underBinder); with_reducible intro x; first | (refine (fun (_ : R s0 x) => ?_) ?_; clear_value x; rotate_left; unfold x; rotate_right) | (refine (fun (_ : okP R s0 x) => ?_) ?_; clear_value x; rotate_left; unfold x; rotate_right) | clear_value x)
    | split
    | with_reducible apply okV_done
    | with_reducible apply okV_wait
    | with_reducible apply keep_attendFinish
    | with_reducible apply keep_invalid
    | with_reducible apply keep_failAccess
    | with_reducible apply keep_noResource
    | with_reducible apply keep_attendSnapshot
    | with_reducible apply keep_modCmd
    | refine okP_get ?_ (by with_reducible assumption)
    | refine okV_get_done ?_ (by with_reducible assumption)
    | refine okV_get_wait ?_ (by with_reducible assumption)
    | with_reducible refine keep_mk (by assumption) ?_ rfl rfl rfl rfl rfl rfl rfl rfl rfl rfl rfl rfl rfl rfl rfl)

theorem keep_execAttend {R : State → State → Prop} (hR : Absorbs Held R) {s0 : State} {a0 a1 : Nat} {s : State} (h : R s0 s) :
    okO R s0 (execAttend a0 a1 s) := by
  have hS := hR.sameOfHeld
  unfold execAttend
  repeat' (first
    | with_reducible assumption
    | with_reducible refine fun _ => ?_
    | split
    | with_reducible apply okO_next
    | with_reducible apply keep_runEngine
    | with_reducible apply keep_kvEngine
    | with_reducible apply keep_attendEngine)

theorem keep_settlePending {R : State → State → Prop} (hR : Absorbs Held R) {s0 : State} {a0 : Nat} {s : State} (h : R s0 s) :
    R s0 (settlePending a0 s) := by
  have hS := hR.sameOfHeld
  unfold settlePending
  repeat' (first
    | with_reducible assumption
    | with_reducible refine fun _ => ?_
    | split
    | with_reducible apply keep_forRange
    | with_reducible apply keep_settleSlot)

theorem keep_stepRetireEngine {R : State → State → Prop} (hR : Absorbs Held R) {s0 : State} {a0 : Nat} {a1 : QCmd} {s : State} (h : R s0 s) :
    okV R s0 (stepRetireEngine a0 a1 s) := by
  have hS := hR.sameOfHeld
  unfold stepRetireEngine
  repeat' (first
    | with_reducible assumption
    | with_reducible refine fun _ => ?_
    | ((try lift_lets -underBinder); with_reducible intro x; first | (refine (fun (_ : R s0 x) => ?_) ?_; clear_value x; rotate_left; unfold x; rotate_right) | (refine (fun (_ : okP R s0 x) => ?_) ?_; clear_value x; rotate_left; unfold x; rotate_right) | clear_value x)
    | split
    | with_reducible apply okV_done
    | with_reducible apply okV_wait
    | with_reducible apply keep_settlePending
    | with_reducible apply keep_fset
    | with_reducible apply keep_raiseCtx
    | with_reducible apply keep_okay
    | with_reducible apply keep_setCtx
    | with_reducible refine keep_mk (by assumption) ?_ rfl rfl rfl rfl rfl rfl rfl rfl rfl rfl rfl rfl rfl rfl rfl)

theorem keep_execStepRetire {R : State → State → Prop} (hR : Absorbs Held R) {s0 : State} {a0 a1 : Nat} {s : State} (h : R s0 s) :
    okO R s0 (execStepRetire a0 a1 s) := by
  have hS := hR.sameOfHeld
  unfold execStepRetire
  repeat' (first
    | with_reducible assumption
    | with_reducible refine fun _ => ?_
    | split
    | with_reducible apply okO_next
    | with_reducible apply keep_runEngine
    | with_reducible apply keep_kvEngine
    | with_reducible apply keep_stepRetireEngine)

theorem keep_execKvRegionInitDone {R : State → State → Prop} (hR : Absorbs Same R) {s0 : State} {a0 : Nat} {s : State} (h : R s0 s) :
    okO R s0 (execKvRegionInitDone a0 s) := by
  unfold execKvRegionInitDone
  repeat' (first
    | with_reducible assumption
    | with_reducible refine fun _ => ?_
    | split
    | with_reducible apply okO_next
    | with_reducible apply keep_fsetb
    | with_reducible apply keep_setCtx
    | with_reducible refine keep_mk (by assumption) ?_ rfl rfl rfl rfl rfl rfl rfl rfl rfl rfl rfl rfl rfl rfl rfl)

end Sys2Proof.Machine
end

