-- ==== Sys2Proof/Laws/KeepRecorder.lean ====
section
/-! SUPPORT. What the operations of Machine/Recorder.lean keep. -/

namespace Sys2Proof.Machine

theorem keep_modTansy {R : State → State → Prop} (hR : Absorbs Same R) {s0 : State} {s : State} {a1 : Tansy → Tansy} (h : R s0 s) :
    R s0 (modTansy s a1) := by
  unfold modTansy
  repeat' (first
    | with_reducible assumption
    | with_reducible refine fun _ => ?_
    | split
    | with_reducible refine keep_mk (by assumption) ?_ rfl rfl rfl rfl rfl rfl rfl rfl rfl rfl rfl rfl rfl rfl rfl)

theorem keep_execRecordStaging {R : State → State → Prop} (hR : Absorbs Same R) {s0 : State} {s : State} (h : R s0 s) :
    okO R s0 (execRecordStaging s) := by
  unfold execRecordStaging
  repeat' (first
    | with_reducible assumption
    | with_reducible refine fun _ => ?_
    | split
    | with_reducible apply okO_next
    | with_reducible apply keep_modTansy
    | with_reducible refine keep_mk (by assumption) ?_ rfl rfl rfl rfl rfl rfl rfl rfl rfl rfl rfl rfl rfl rfl rfl)

theorem keep_execLogRecordWrite {R : State → State → Prop} (hR : Absorbs Same R) {s0 : State} {s : State} (h : R s0 s) :
    okO R s0 (execLogRecordWrite s) := by
  unfold execLogRecordWrite
  repeat' (first
    | with_reducible assumption
    | with_reducible refine fun _ => ?_
    | split
    | with_reducible apply okO_next
    | with_reducible apply keep_modTansy
    | with_reducible refine keep_mk (by assumption) ?_ rfl rfl rfl rfl rfl rfl rfl rfl rfl rfl rfl rfl rfl rfl rfl)

theorem keep_execFreezeExpired {R : State → State → Prop} (hR : Absorbs Same R) {s0 : State} {s : State} (h : R s0 s) :
    okO R s0 (execFreezeExpired s) := by
  unfold execFreezeExpired
  repeat' (first
    | with_reducible assumption
    | with_reducible refine fun _ => ?_
    | split
    | with_reducible apply okO_next
    | with_reducible apply keep_raise
    | with_reducible apply keep_modTansy
    | with_reducible refine keep_mk (by assumption) ?_ rfl rfl rfl rfl rfl rfl rfl rfl rfl rfl rfl rfl rfl rfl rfl)

theorem keep_execOpSecondsTick {R : State → State → Prop} (hR : Absorbs Same R) {s0 : State} {s : State} (h : R s0 s) :
    okO R s0 (execOpSecondsTick s) := by
  unfold execOpSecondsTick
  repeat' (first
    | with_reducible assumption
    | with_reducible refine fun _ => ?_
    | ((try lift_lets -underBinder); with_reducible intro x; first | (refine (fun (_ : R s0 x) => ?_) ?_; clear_value x; rotate_left; unfold x; rotate_right) | (refine (fun (_ : okP R s0 x) => ?_) ?_; clear_value x; rotate_left; unfold x; rotate_right) | clear_value x)
    | split
    | with_reducible apply okO_next
    | with_reducible apply keep_modTansy
    | with_reducible refine keep_mk (by assumption) ?_ rfl rfl rfl rfl rfl rfl rfl rfl rfl rfl rfl rfl rfl rfl rfl)

theorem keep_readSlot {R : State → State → Prop} (hR : Absorbs Same R) {s0 : State} {i : Nat} {p : List Byte × Nat × State} (h : okP3 R s0 p) :
    okP3 R s0 (readSlot i p) := by
  obtain ⟨bs, n, s⟩ := p
  unfold readSlot
  dsimp only
  repeat' (first
    | exact h
    | split
    | exact keep_raise hR h)

theorem keep_logReadEngine {R : State → State → Prop} (hR : Absorbs Held R) {s0 : State} {q : Nat} {c : QCmd} {s : State} (h : R s0 s) :
    okV R s0 (logReadEngine q c s) := by
  have hS := hR.sameOfHeld
  unfold logReadEngine
  extract_lets first va
  split
  · exact keep_invalid hS h
  · have hp : okP3 R s0 ((List.range c.length).foldl (fun p i => readSlot (first + i) p) (logHeader s.tansy, 0, s)) :=
      okP3_foldl (fun p i g => keep_readSlot hS g) _ h
    split
    rename_i bs n s' e
    have g : R s0 s' := okP3_get hp e
    repeat' (first
      | with_reducible assumption
      | with_reducible refine fun _ => ?_
      | ((try lift_lets -underBinder); with_reducible intro x; first | (refine (fun (_ : R s0 x) => ?_) ?_; clear_value x; rotate_left; unfold x; rotate_right) | (refine (fun (_ : okP R s0 x) => ?_) ?_; clear_value x; rotate_left; unfold x; rotate_right) | clear_value x)
      | split
      | with_reducible apply okV_done
      | with_reducible apply okV_wait
      | with_reducible apply keep_invalid
      | with_reducible apply keep_readSlot
      | with_reducible apply keep_opWrite
      | with_reducible apply keep_failOperand
      | with_reducible apply keep_okay
      | refine okE_get ?_ (by with_reducible assumption)
      | refine okP3_get ?_ (by with_reducible assumption)
      | refine okV_get_done ?_ (by with_reducible assumption)
      | refine okV_get_wait ?_ (by with_reducible assumption)
      | with_reducible apply keep_foldl
      | with_reducible apply okP_foldl)

theorem keep_execLogRead {R : State → State → Prop} (hR : Absorbs Held R) {s0 : State} {a0 a1 : Nat} {s : State} (h : R s0 s) :
    okO R s0 (execLogRead a0 a1 s) := by
  have hS := hR.sameOfHeld
  unfold execLogRead
  repeat' (first
    | with_reducible assumption
    | with_reducible refine fun _ => ?_
    | split
    | with_reducible apply okO_next
    | with_reducible apply keep_runEngine
    | with_reducible apply keep_logReadEngine)

theorem keep_logFreezeEngine {R : State → State → Prop} (hR : Absorbs Same R) {s0 : State} {a0 : QCmd} {s : State} (h : R s0 s) :
    okV R s0 (logFreezeEngine a0 s) := by
  unfold logFreezeEngine
  repeat' (first
    | with_reducible assumption
    | with_reducible refine fun _ => ?_
    | split
    | with_reducible apply okV_done
    | with_reducible apply okV_wait
    | with_reducible apply keep_invalid
    | with_reducible apply keep_okay
    | with_reducible apply keep_modTansy
    | with_reducible refine keep_mk (by assumption) ?_ rfl rfl rfl rfl rfl rfl rfl rfl rfl rfl rfl rfl rfl rfl rfl)

theorem keep_execLogFreeze {R : State → State → Prop} (hR : Absorbs Same R) {s0 : State} {a0 a1 : Nat} {s : State} (h : R s0 s) :
    okO R s0 (execLogFreeze a0 a1 s) := by
  unfold execLogFreeze
  repeat' (first
    | with_reducible assumption
    | with_reducible refine fun _ => ?_
    | split
    | with_reducible apply okO_next
    | with_reducible apply keep_runEngine
    | with_reducible apply keep_logFreezeEngine)

theorem keep_logThawEngine {R : State → State → Prop} (hR : Absorbs Same R) {s0 : State} {a0 : QCmd} {s : State} (h : R s0 s) :
    okV R s0 (logThawEngine a0 s) := by
  unfold logThawEngine
  repeat' (first
    | with_reducible assumption
    | with_reducible refine fun _ => ?_
    | split
    | with_reducible apply okV_done
    | with_reducible apply okV_wait
    | with_reducible apply keep_invalid
    | with_reducible apply keep_okay
    | with_reducible apply keep_modTansy
    | with_reducible refine keep_mk (by assumption) ?_ rfl rfl rfl rfl rfl rfl rfl rfl rfl rfl rfl rfl rfl rfl rfl)

theorem keep_execLogThaw {R : State → State → Prop} (hR : Absorbs Same R) {s0 : State} {a0 a1 : Nat} {s : State} (h : R s0 s) :
    okO R s0 (execLogThaw a0 a1 s) := by
  unfold execLogThaw
  repeat' (first
    | with_reducible assumption
    | with_reducible refine fun _ => ?_
    | split
    | with_reducible apply okO_next
    | with_reducible apply keep_runEngine
    | with_reducible apply keep_logThawEngine)

theorem keep_logClearEngine {R : State → State → Prop} (hR : Absorbs Same R) {s0 : State} {a0 : QCmd} {s : State} (h : R s0 s) :
    okV R s0 (logClearEngine a0 s) := by
  unfold logClearEngine
  repeat' (first
    | with_reducible assumption
    | with_reducible refine fun _ => ?_
    | ((try lift_lets -underBinder); with_reducible intro x; first | (refine (fun (_ : R s0 x) => ?_) ?_; clear_value x; rotate_left; unfold x; rotate_right) | (refine (fun (_ : okP R s0 x) => ?_) ?_; clear_value x; rotate_left; unfold x; rotate_right) | clear_value x)
    | split
    | with_reducible apply okV_done
    | with_reducible apply okV_wait
    | with_reducible apply keep_invalid
    | with_reducible apply keep_okay
    | with_reducible apply keep_modTansy
    | with_reducible apply keep_nextSeq
    | with_reducible refine keep_mk (by assumption) ?_ rfl rfl rfl rfl rfl rfl rfl rfl rfl rfl rfl rfl rfl rfl rfl)

theorem keep_execLogClear {R : State → State → Prop} (hR : Absorbs Same R) {s0 : State} {a0 a1 : Nat} {s : State} (h : R s0 s) :
    okO R s0 (execLogClear a0 a1 s) := by
  unfold execLogClear
  repeat' (first
    | with_reducible assumption
    | with_reducible refine fun _ => ?_
    | split
    | with_reducible apply okO_next
    | with_reducible apply keep_runEngine
    | with_reducible apply keep_logClearEngine)

theorem keep_logScan {R : State → State → Prop} (hR : Absorbs Same R) {s0 : State} {s : State} {a1 : Bool} (h : R s0 s) :
    R s0 (logScan s a1) := by
  unfold logScan
  repeat' (first
    | with_reducible assumption
    | with_reducible refine fun _ => ?_
    | ((try lift_lets -underBinder); with_reducible intro x; first | (refine (fun (_ : R s0 x) => ?_) ?_; clear_value x; rotate_left; unfold x; rotate_right) | (refine (fun (_ : okP R s0 x) => ?_) ?_; clear_value x; rotate_left; unfold x; rotate_right) | clear_value x)
    | split
    | with_reducible apply keep_modTansy
    | with_reducible apply keep_raise
    | with_reducible apply keep_nextSeq
    | refine okP_get ?_ (by with_reducible assumption)
    | with_reducible apply keep_foldl
    | with_reducible apply okP_foldl
    | with_reducible refine keep_mk (by assumption) ?_ rfl rfl rfl rfl rfl rfl rfl rfl rfl rfl rfl rfl rfl rfl rfl)

end Sys2Proof.Machine
end

