-- ==== Sys2Proof/Laws/KeepMgmt.lean ====
section
/-! SUPPORT. What the operations of Machine/Mgmt.lean keep. -/

namespace Sys2Proof.Machine

theorem keep_noteTaken {R : State → State → Prop} (hR : Absorbs Same R) {s0 : State} {s : State} {a1 : Nat} {a2 : MgmtFrame} (h : R s0 s) :
    R s0 (noteTaken s a1 a2) := by
  unfold noteTaken
  repeat' (first
    | with_reducible assumption
    | with_reducible refine fun _ => ?_
    | split
    | with_reducible apply keep_finc
    | with_reducible apply keep_setMgmt
    | with_reducible refine keep_mk (by assumption) ?_ rfl rfl rfl rfl rfl rfl rfl rfl rfl rfl rfl rfl rfl rfl rfl)

theorem keep_mgmtTag {R : State → State → Prop} (hR : Absorbs Same R) {s0 : State} {s : State} {a1 : Nat} (h : R s0 s) :
    okP R s0 (mgmtTag s a1) := by
  unfold mgmtTag
  repeat' (first
    | with_reducible assumption
    | with_reducible refine fun _ => ?_
    | ((try lift_lets -underBinder); with_reducible intro x; first | (refine (fun (_ : R s0 x) => ?_) ?_; clear_value x; rotate_left; unfold x; rotate_right) | (refine (fun (_ : okP R s0 x) => ?_) ?_; clear_value x; rotate_left; unfold x; rotate_right) | clear_value x)
    | split
    | with_reducible apply keep_takeFree
    | refine okP_get ?_ (by with_reducible assumption))

theorem keep_sendMgmt {R : State → State → Prop} (hR : Absorbs Same R) {s0 : State} {s : State} {a1 : Nat} {a2 : List Byte} (h : R s0 s) :
    R s0 (sendMgmt s a1 a2) := by
  unfold sendMgmt
  repeat' (first
    | with_reducible assumption
    | with_reducible refine fun _ => ?_
    | ((try lift_lets -underBinder); with_reducible intro x; first | (refine (fun (_ : R s0 x) => ?_) ?_; clear_value x; rotate_left; unfold x; rotate_right) | (refine (fun (_ : okP R s0 x) => ?_) ?_; clear_value x; rotate_left; unfold x; rotate_right) | clear_value x)
    | split
    | with_reducible apply keep_mgmtTag
    | with_reducible apply keep_handFrame
    | refine okP_get ?_ (by with_reducible assumption))

theorem keep_sendAck {R : State → State → Prop} (hR : Absorbs Same R) {s0 : State} {s : State} {a1 : Nat} (h : R s0 s) :
    R s0 (sendAck s a1) := by
  unfold sendAck
  repeat' (first
    | with_reducible assumption
    | with_reducible refine fun _ => ?_
    | split
    | with_reducible apply keep_sendMgmt)

theorem keep_applyCq {R : State → State → Prop} (hR : Absorbs Held R) {s0 : State} {s : State} {a1 a2 : Nat} (h : R s0 s) :
    R s0 (applyCq s a1 a2) := by
  have hS := hR.sameOfHeld
  unfold applyCq
  repeat' (first
    | with_reducible assumption
    | with_reducible refine fun _ => ?_
    | ((try lift_lets -underBinder); with_reducible intro x; first | (refine (fun (_ : R s0 x) => ?_) ?_; clear_value x; rotate_left; unfold x; rotate_right) | (refine (fun (_ : okP R s0 x) => ?_) ?_; clear_value x; rotate_left; unfold x; rotate_right) | clear_value x)
    | split
    | with_reducible apply keep_qmWrite)

theorem keep_writePackets {R : State → State → Prop} (hR : Absorbs Held R) {s0 : State} {e : Nat} :
    ∀ (l : List (List Byte)) {n : Nat} {s : State}, R s0 s → R s0 (writePackets e n l s)
  | [], _, _, h => h
  | _ :: rest, _, _, h => keep_writePackets hR rest (keep_qmWrite hR h)

theorem keep_takePackets {R : State → State → Prop} (hR : Absorbs Held R) {s0 : State} {s : State} {a1 a2 a3 : Nat} {a4 : List (List Byte)} (h : R s0 s) :
    R s0 (takePackets s a1 a2 a3 a4) := by
  have hS := hR.sameOfHeld
  unfold takePackets
  repeat' (first
    | with_reducible assumption
    | with_reducible refine fun _ => ?_
    | ((try lift_lets -underBinder); with_reducible intro x; first | (refine (fun (_ : R s0 x) => ?_) ?_; clear_value x; rotate_left; unfold x; rotate_right) | (refine (fun (_ : okP R s0 x) => ?_) ?_; clear_value x; rotate_left; unfold x; rotate_right) | clear_value x)
    | split
    | with_reducible apply keep_writePackets
    | with_reducible apply keep_doorbell)

theorem keep_refuseFrame {R : State → State → Prop} (hR : Absorbs Same R) {s0 : State} {s : State} {a1 : Nat} {a2 : MgmtFrame} (h : R s0 s) :
    R s0 (refuseFrame s a1 a2) := by
  unfold refuseFrame
  repeat' (first
    | with_reducible assumption
    | with_reducible refine fun _ => ?_
    | ((try lift_lets -underBinder); with_reducible intro x; first | (refine (fun (_ : R s0 x) => ?_) ?_; clear_value x; rotate_left; unfold x; rotate_right) | (refine (fun (_ : okP R s0 x) => ?_) ?_; clear_value x; rotate_left; unfold x; rotate_right) | clear_value x)
    | split
    | with_reducible apply keep_finc
    | with_reducible apply keep_setMgmt
    | with_reducible apply keep_raise
    | with_reducible refine keep_mk (by assumption) ?_ rfl rfl rfl rfl rfl rfl rfl rfl rfl rfl rfl rfl rfl rfl rfl)

theorem keep_submitFrame {R : State → State → Prop} (hR : Absorbs Held R) {s0 : State} {a0 : Nat} {a1 : MgmtFrame} {s : State} (h : R s0 s) :
    R s0 (submitFrame a0 a1 s) := by
  have hS := hR.sameOfHeld
  unfold submitFrame
  repeat' (first
    | with_reducible assumption
    | with_reducible refine fun _ => ?_
    | ((try lift_lets -underBinder); with_reducible intro x; first | (refine (fun (_ : R s0 x) => ?_) ?_; clear_value x; rotate_left; unfold x; rotate_right) | (refine (fun (_ : okP R s0 x) => ?_) ?_; clear_value x; rotate_left; unfold x; rotate_right) | clear_value x)
    | split
    | with_reducible apply keep_noteTaken
    | with_reducible apply keep_setMgmt
    | with_reducible apply keep_applyCq
    | with_reducible apply keep_sendAck
    | with_reducible apply keep_takePackets
    | with_reducible refine keep_mk (by assumption) ?_ rfl rfl rfl rfl rfl rfl rfl rfl rfl rfl rfl rfl rfl rfl rfl)

theorem keep_sendReplies {R : State → State → Prop} (hR : Absorbs Same R) {s0 : State} {s : State} {a1 a2 a3 : Nat} (h : R s0 s) :
    R s0 (sendReplies s a1 a2 a3) := by
  unfold sendReplies
  repeat' (first
    | with_reducible assumption
    | with_reducible refine fun _ => ?_
    | ((try lift_lets -underBinder); with_reducible intro x; first | (refine (fun (_ : R s0 x) => ?_) ?_; clear_value x; rotate_left; unfold x; rotate_right) | (refine (fun (_ : okP R s0 x) => ?_) ?_; clear_value x; rotate_left; unfold x; rotate_right) | clear_value x)
    | split
    | with_reducible apply keep_finc
    | with_reducible apply keep_sendMgmt
    | with_reducible apply keep_setMgmt
    | with_reducible refine keep_mk (by assumption) ?_ rfl rfl rfl rfl rfl rfl rfl rfl rfl rfl rfl rfl rfl rfl rfl)

theorem keep_resend {R : State → State → Prop} (hR : Absorbs Same R) {s0 : State} {e : Nat} : ∀ (fuel : Nat) {n total : Nat}
    {s : State}, R s0 s → R s0 (resend e fuel n total s) := by
  intro fuel
  induction fuel with
  | zero => intro n total s h; exact h
  | succ n ih =>
    intro n total s h
    unfold resend
    repeat' (first
      | with_reducible apply ih
      | with_reducible assumption
      | with_reducible refine fun _ => ?_
      | ((try lift_lets -underBinder); with_reducible intro x; first | (refine (fun (_ : R s0 x) => ?_) ?_; clear_value x; rotate_left; unfold x; rotate_right) | (refine (fun (_ : okP R s0 x) => ?_) ?_; clear_value x; rotate_left; unfold x; rotate_right) | clear_value x)
      | split
      | with_reducible apply keep_sendReplies
      | with_reducible apply keep_finc)

theorem keep_pollFrame {R : State → State → Prop} (hR : Absorbs Held R) {s0 : State} {a0 : Nat} {a1 : MgmtFrame} {s : State} (h : R s0 s) :
    R s0 (pollFrame a0 a1 s) := by
  have hS := hR.sameOfHeld
  unfold pollFrame
  repeat' (first
    | with_reducible assumption
    | with_reducible refine fun _ => ?_
    | ((try lift_lets -underBinder); with_reducible intro x; first | (refine (fun (_ : R s0 x) => ?_) ?_; clear_value x; rotate_left; unfold x; rotate_right) | (refine (fun (_ : okP R s0 x) => ?_) ?_; clear_value x; rotate_left; unfold x; rotate_right) | clear_value x)
    | split
    | with_reducible apply keep_noteTaken
    | with_reducible apply keep_setMgmt
    | with_reducible apply keep_sendAck
    | with_reducible apply keep_applyCq
    | with_reducible apply keep_resend
    | with_reducible refine keep_mk (by assumption) ?_ rfl rfl rfl rfl rfl rfl rfl rfl rfl rfl rfl rfl rfl rfl rfl)

theorem keep_mgmtArrival {R : State → State → Prop} (hR : Absorbs Same R) {s0 s : State} {ty e : Nat} {f : MgmtFrame}
    {act : Nat → MgmtFrame → State → State} (h : R s0 s) (ha : ∀ e f s, R s0 s → R s0 (act e f s)) : R s0 (mgmtArrival ty e f act s) := by
  unfold mgmtArrival
  repeat' (first
    | with_reducible apply ha
    | with_reducible assumption
    | with_reducible refine fun _ => ?_
    | split
    | with_reducible apply keep_refuseFrame)

theorem keep_execMgmtFrameRefused {R : State → State → Prop} (hR : Absorbs Same R) {s0 : State} {a0 : Nat} {a1 : MgmtFrame} {s : State} (h : R s0 s) :
    okO R s0 (execMgmtFrameRefused a0 a1 s) := by
  unfold execMgmtFrameRefused
  repeat' (first
    | with_reducible assumption
    | with_reducible refine fun _ => ?_
    | split
    | with_reducible apply okO_next
    | with_reducible apply keep_refuseFrame
    | with_reducible apply keep_noteTaken)

theorem keep_execReplyFrameSend {R : State → State → Prop} (hR : Absorbs Same R) {s0 : State} {a0 : Nat} {s : State} (h : R s0 s) :
    okO R s0 (execReplyFrameSend a0 s) := by
  unfold execReplyFrameSend
  repeat' (first
    | with_reducible assumption
    | with_reducible refine fun _ => ?_
    | ((try lift_lets -underBinder); with_reducible intro x; first | (refine (fun (_ : R s0 x) => ?_) ?_; clear_value x; rotate_left; unfold x; rotate_right) | (refine (fun (_ : okP R s0 x) => ?_) ?_; clear_value x; rotate_left; unfold x; rotate_right) | clear_value x)
    | split
    | with_reducible apply okO_next
    | with_reducible apply keep_sendReplies
    | with_reducible apply keep_setMgmt
    | with_reducible refine keep_mk (by assumption) ?_ rfl rfl rfl rfl rfl rfl rfl rfl rfl rfl rfl rfl rfl rfl rfl)

theorem keep_execReplyResend {R : State → State → Prop} (hR : Absorbs Same R) {s0 : State} {a0 : Nat} {s : State} (h : R s0 s) :
    okO R s0 (execReplyResend a0 s) := by
  unfold execReplyResend
  repeat' (first
    | with_reducible assumption
    | with_reducible refine fun _ => ?_
    | ((try lift_lets -underBinder); with_reducible intro x; first | (refine (fun (_ : R s0 x) => ?_) ?_; clear_value x; rotate_left; unfold x; rotate_right) | (refine (fun (_ : okP R s0 x) => ?_) ?_; clear_value x; rotate_left; unfold x; rotate_right) | clear_value x)
    | split
    | with_reducible apply okO_next
    | with_reducible apply keep_resend
    | with_reducible apply keep_setMgmt
    | with_reducible refine keep_mk (by assumption) ?_ rfl rfl rfl rfl rfl rfl rfl rfl rfl rfl rfl rfl rfl rfl rfl)

theorem keep_execOtherDropped {R : State → State → Prop} (hR : Absorbs Same R) {s0 : State} {a0 : Nat} {s : State} (h : R s0 s) :
    okO R s0 (execOtherDropped a0 s) := by
  unfold execOtherDropped
  repeat' (first
    | with_reducible assumption
    | with_reducible refine fun _ => ?_
    | split
    | with_reducible apply okO_next
    | with_reducible apply keep_finc)

end Sys2Proof.Machine
end

