-- ==== Sys2Proof/Laws/KeepEntry.lean ====
section
/-! SUPPORT. What the operations of Machine/Entry.lean keep. -/

namespace Sys2Proof.Machine

theorem keep_whenAlive {R : State → State → Prop} (hR : Absorbs Same R) {s0 s : State} {f : State → Out} (h : R s0 s) (hf : ∀ s, R s0 s → okO R s0 (f s)) :
    okO R s0 (whenAlive s f) := by
  unfold whenAlive
  repeat' (first
    | with_reducible apply hf
    | with_reducible assumption
    | with_reducible refine fun _ => ?_
    | split
    | with_reducible apply okO_next)

theorem keep_whenFed {R : State → State → Prop} (hR : Absorbs Same R) {s0 s : State} {k : Nat} {f : State → Out} (h : R s0 s)
    (hf : ∀ s, R s0 s → okO R s0 (f s)) : okO R s0 (whenFed k s f) := by
  unfold whenFed
  repeat' (first
    | with_reducible apply hf
    | with_reducible assumption
    | with_reducible refine fun _ => ?_
    | split
    | with_reducible apply okO_next
    | with_reducible apply keep_whenAlive)

theorem keep_modPower {R : State → State → Prop} (hR : Absorbs Same R) {s0 : State} {s : State} {a1 : Power → Power} (h : R s0 s) :
    R s0 (modPower s a1) := by
  unfold modPower
  repeat' (first
    | with_reducible assumption
    | with_reducible refine fun _ => ?_
    | split
    | with_reducible refine keep_mk (by assumption) ?_ rfl rfl rfl rfl rfl rfl rfl rfl rfl rfl rfl rfl rfl rfl rfl)

theorem keep_modSafety {R : State → State → Prop} (hR : Absorbs Same R) {s0 : State} {s : State} {a1 : Safety → Safety} (h : R s0 s) :
    R s0 (modSafety s a1) := by
  unfold modSafety
  repeat' (first
    | with_reducible assumption
    | with_reducible refine fun _ => ?_
    | split
    | with_reducible refine keep_mk (by assumption) ?_ rfl rfl rfl rfl rfl rfl rfl rfl rfl rfl rfl rfl rfl rfl rfl)

theorem keep_modYarrow {R : State → State → Prop} (hR : Absorbs Same R) {s0 : State} {s : State} {a1 : Yarrow → Yarrow} (h : R s0 s) :
    R s0 (modYarrow s a1) := by
  unfold modYarrow
  repeat' (first
    | with_reducible assumption
    | with_reducible refine fun _ => ?_
    | split
    | with_reducible refine keep_mk (by assumption) ?_ rfl rfl rfl rfl rfl rfl rfl rfl rfl rfl rfl rfl rfl rfl rfl)

theorem keep_modHarebell {R : State → State → Prop} (hR : Absorbs Same R) {s0 : State} {s : State} {a1 : Harebell → Harebell} (h : R s0 s) :
    R s0 (modHarebell s a1) := by
  unfold modHarebell
  repeat' (first
    | with_reducible assumption
    | with_reducible refine fun _ => ?_
    | split
    | with_reducible refine keep_mk (by assumption) ?_ rfl rfl rfl rfl rfl rfl rfl rfl rfl rfl rfl rfl rfl rfl rfl)

theorem keep_drowseExit {R : State → State → Prop} (hR : Absorbs Same R) {s0 : State} {a0 : Nat} {s : State} (h : R s0 s) :
    R s0 (drowseExit a0 s) := by
  unfold drowseExit
  repeat' (first
    | with_reducible assumption
    | with_reducible refine fun _ => ?_
    | ((try lift_lets -underBinder); with_reducible intro x; first | (refine (fun (_ : R s0 x) => ?_) ?_; clear_value x; rotate_left; unfold x; rotate_right) | (refine (fun (_ : okP R s0 x) => ?_) ?_; clear_value x; rotate_left; unfold x; rotate_right) | clear_value x)
    | split
    | with_reducible apply keep_fset
    | with_reducible apply keep_raise
    | with_reducible apply keep_modPower
    | with_reducible apply keep_forRange
    | with_reducible apply keep_modSafety
    | with_reducible refine keep_mk (by assumption) ?_ rfl rfl rfl rfl rfl rfl rfl rfl rfl rfl rfl rfl rfl rfl rfl)

theorem keep_setLoop {R : State → State → Prop} (hR : Absorbs Same R) {s0 : State} {s : State} {a1 : Nat} {a2 : Loop} (h : R s0 s) :
    R s0 (setLoop s a1 a2) := by
  unfold setLoop
  repeat' (first
    | with_reducible assumption
    | with_reducible refine fun _ => ?_
    | split
    | with_reducible apply keep_modYarrow
    | with_reducible refine keep_mk (by assumption) ?_ rfl rfl rfl rfl rfl rfl rfl rfl rfl rfl rfl rfl rfl rfl rfl)

theorem keep_settleControl {R : State → State → Prop} (hR : Absorbs Same R) {s0 : State} {s : State} (h : R s0 s) :
    R s0 (settleControl s) := by
  unfold settleControl
  repeat' (first
    | with_reducible assumption
    | with_reducible refine fun _ => ?_
    | split
    | with_reducible apply keep_forEach
    | with_reducible apply keep_completeCmd)

theorem keep_yarrowSafe {R : State → State → Prop} (hR : Absorbs Same R) {s0 : State} {s : State} (h : R s0 s) :
    R s0 (yarrowSafe s) := by
  unfold yarrowSafe
  repeat' (first
    | with_reducible assumption
    | with_reducible refine fun _ => ?_
    | ((try lift_lets -underBinder); with_reducible intro x; first | (refine (fun (_ : R s0 x) => ?_) ?_; clear_value x; rotate_left; unfold x; rotate_right) | (refine (fun (_ : okP R s0 x) => ?_) ?_; clear_value x; rotate_left; unfold x; rotate_right) | clear_value x)
    | split
    | with_reducible apply keep_forEach
    | with_reducible apply keep_completeCmd
    | with_reducible apply keep_modSafety
    | with_reducible apply keep_fsetb
    | with_reducible apply keep_modYarrow
    | with_reducible refine keep_mk (by assumption) ?_ rfl rfl rfl rfl rfl rfl rfl rfl rfl rfl rfl rfl rfl rfl rfl)

theorem keep_holdAbandon {R : State → State → Prop} (hR : Absorbs Same R) {s0 : State} {s : State} (h : R s0 s) :
    R s0 (holdAbandon s) := by
  unfold holdAbandon
  repeat' (first
    | with_reducible assumption
    | with_reducible refine fun _ => ?_
    | split
    | with_reducible apply keep_modHarebell
    | with_reducible apply keep_completeCmd
    | with_reducible refine keep_mk (by assumption) ?_ rfl rfl rfl rfl rfl rfl rfl rfl rfl rfl rfl rfl rfl rfl rfl)

theorem keep_faultPattern {R : State → State → Prop} (hR : Absorbs Same R) {s0 : State} {s : State} {a1 : Field} (h : R s0 s) :
    R s0 (faultPattern s a1) := by
  unfold faultPattern
  repeat' (first
    | with_reducible assumption
    | with_reducible refine fun _ => ?_
    | split
    | with_reducible apply keep_fset)

theorem keep_suspendRefine {R : State → State → Prop} (hR : Absorbs Same R) {s0 : State} {s : State} (h : R s0 s) :
    R s0 (suspendRefine s) := by
  unfold suspendRefine
  repeat' (first
    | with_reducible assumption
    | with_reducible refine fun _ => ?_
    | split
    | with_reducible apply keep_fsetb
    | with_reducible refine keep_mk (by assumption) ?_ rfl rfl rfl rfl rfl rfl rfl rfl rfl rfl rfl rfl rfl rfl rfl)

theorem keep_enterSafe {R : State → State → Prop} (hR : Absorbs Same R) {s0 : State} {a0 : Nat} {s : State} (h : R s0 s) :
    R s0 (enterSafe a0 s) := by
  unfold enterSafe
  repeat' (first
    | with_reducible assumption
    | with_reducible refine fun _ => ?_
    | ((try lift_lets -underBinder); with_reducible intro x; first | (refine (fun (_ : R s0 x) => ?_) ?_; clear_value x; rotate_left; unfold x; rotate_right) | (refine (fun (_ : okP R s0 x) => ?_) ?_; clear_value x; rotate_left; unfold x; rotate_right) | clear_value x)
    | split
    | with_reducible apply keep_drowseExit
    | with_reducible apply keep_setReg64
    | with_reducible apply keep_fset
    | with_reducible apply keep_raise
    | with_reducible apply keep_fsetb
    | with_reducible apply keep_suspendRefine
    | with_reducible apply keep_yarrowSafe
    | with_reducible apply keep_faultPattern
    | with_reducible apply keep_holdAbandon)

theorem keep_safeCause {R : State → State → Prop} (hR : Absorbs Same R) {s0 : State} {a0 : Nat} {a1 : Bool} {a2 : Bool} {s : State} (h : R s0 s) :
    R s0 (safeCause a0 a1 a2 s) := by
  unfold safeCause
  repeat' (first
    | with_reducible assumption
    | with_reducible refine fun _ => ?_
    | ((try lift_lets -underBinder); with_reducible intro x; first | (refine (fun (_ : R s0 x) => ?_) ?_; clear_value x; rotate_left; unfold x; rotate_right) | (refine (fun (_ : okP R s0 x) => ?_) ?_; clear_value x; rotate_left; unfold x; rotate_right) | clear_value x)
    | split
    | with_reducible apply keep_fsetb
    | with_reducible apply keep_setRegWord
    | with_reducible apply keep_enterSafe
    | with_reducible apply keep_raise)

theorem keep_safeBoth {R : State → State → Prop} (hR : Absorbs Same R) {s0 : State} {a0 : Nat} {s : State} (h : R s0 s) :
    R s0 (safeBoth a0 s) := by
  unfold safeBoth
  repeat' (first
    | with_reducible assumption
    | with_reducible refine fun _ => ?_
    | split
    | with_reducible apply keep_safeCause)

end Sys2Proof.Machine
end

