-- ==== Sys2Proof/Laws/KeepYarrow.lean ====
section
/-! SUPPORT. What the operations of Machine/Yarrow.lean keep. -/

namespace Sys2Proof.Machine

theorem keep_fbArrive {R : State → State → Prop} (hR : Absorbs Same R) {s0 : State} {s : State} {a1 : Nat} {a2 : Word} (h : R s0 s) :
    R s0 (fbArrive s a1 a2) := by
  unfold fbArrive
  repeat' (first
    | with_reducible assumption
    | with_reducible refine fun _ => ?_
    | split
    | with_reducible apply keep_modYarrow
    | with_reducible refine keep_mk (by assumption) ?_ rfl rfl rfl rfl rfl rfl rfl rfl rfl rfl rfl rfl rfl rfl rfl)

theorem keep_setFrame {R : State → State → Prop} (hR : Absorbs Same R) {s0 : State} {s : State} {a1 : YFrame} (h : R s0 s) :
    R s0 (setFrame s a1) := by
  unfold setFrame
  repeat' (first
    | with_reducible assumption
    | with_reducible refine fun _ => ?_
    | split
    | with_reducible apply keep_modYarrow
    | with_reducible refine keep_mk (by assumption) ?_ rfl rfl rfl rfl rfl rfl rfl rfl rfl rfl rfl rfl rfl rfl rfl)

theorem keep_commitOne {R : State → State → Prop} (hR : Absorbs Same R) {s0 : State} {a0 a1 : Nat} {a2 : YFrame} {s : State} (h : R s0 s) :
    R s0 (commitOne a0 a1 a2 s) := by
  unfold commitOne
  repeat' (first
    | with_reducible assumption
    | with_reducible refine fun _ => ?_
    | ((try lift_lets -underBinder); with_reducible intro x; first | (refine (fun (_ : R s0 x) => ?_) ?_; clear_value x; rotate_left; unfold x; rotate_right) | (refine (fun (_ : okP R s0 x) => ?_) ?_; clear_value x; rotate_left; unfold x; rotate_right) | clear_value x)
    | split
    | with_reducible apply keep_setLoop
    | with_reducible apply keep_fsetb
    | with_reducible apply keep_raise
    | with_reducible apply keep_setFrame
    | with_reducible refine keep_mk (by assumption) ?_ rfl rfl rfl rfl rfl rfl rfl rfl rfl rfl rfl rfl rfl rfl rfl)

theorem keep_commitBoundary {R : State → State → Prop} (hR : Absorbs Same R) {s0 : State} {a0 a1 : Nat} {s : State} (h : R s0 s) :
    R s0 (commitBoundary a0 a1 s) := by
  unfold commitBoundary
  repeat' (first
    | with_reducible assumption
    | with_reducible refine fun _ => ?_
    | ((try lift_lets -underBinder); with_reducible intro x; first | (refine (fun (_ : R s0 x) => ?_) ?_; clear_value x; rotate_left; unfold x; rotate_right) | (refine (fun (_ : okP R s0 x) => ?_) ?_; clear_value x; rotate_left; unfold x; rotate_right) | clear_value x)
    | split
    | with_reducible apply keep_commitOne
    | with_reducible apply keep_foldl
    | with_reducible apply okP_foldl)

theorem keep_commitBoundaries {R : State → State → Prop} (hR : Absorbs Same R) {s0 : State} {a0 a1 : Nat} {s : State} (h : R s0 s) :
    R s0 (commitBoundaries a0 a1 s) := by
  unfold commitBoundaries
  repeat' (first
    | with_reducible assumption
    | with_reducible refine fun _ => ?_
    | split
    | with_reducible apply keep_forEach
    | with_reducible apply keep_commitBoundary)

theorem keep_loopSetpoint {R : State → State → Prop} (hR : Absorbs Same R) {s0 : State} {a0 a1 : Nat} {a2 : List Result} {s : State} (h : R s0 s) :
    okP R s0 (loopSetpoint a0 a1 a2 s) := by
  unfold loopSetpoint
  repeat' (first
    | with_reducible assumption
    | with_reducible refine fun _ => ?_
    | ((try lift_lets -underBinder); with_reducible intro x; first | (refine (fun (_ : R s0 x) => ?_) ?_; clear_value x; rotate_left; unfold x; rotate_right) | (refine (fun (_ : okP R s0 x) => ?_) ?_; clear_value x; rotate_left; unfold x; rotate_right) | clear_value x)
    | split
    | with_reducible apply keep_takeFree
    | with_reducible apply keep_setLoop
    | refine okP_get ?_ (by with_reducible assumption)
    | with_reducible refine keep_mk (by assumption) ?_ rfl rfl rfl rfl rfl rfl rfl rfl rfl rfl rfl rfl rfl rfl rfl)

theorem keep_tripLoop {R : State → State → Prop} (hR : Absorbs Same R) {s0 : State} {a0 a1 : Nat} {a2 : Word} {s : State} (h : R s0 s) :
    R s0 (tripLoop a0 a1 a2 s) := by
  unfold tripLoop
  repeat' (first
    | with_reducible assumption
    | with_reducible refine fun _ => ?_
    | ((try lift_lets -underBinder); with_reducible intro x; first | (refine (fun (_ : R s0 x) => ?_) ?_; clear_value x; rotate_left; unfold x; rotate_right) | (refine (fun (_ : okP R s0 x) => ?_) ?_; clear_value x; rotate_left; unfold x; rotate_right) | clear_value x)
    | split
    | with_reducible apply keep_setLoop
    | with_reducible apply keep_modSafety
    | with_reducible apply keep_raise
    | with_reducible refine keep_mk (by assumption) ?_ rfl rfl rfl rfl rfl rfl rfl rfl rfl rfl rfl rfl rfl rfl rfl)

theorem keep_tripSample {R : State → State → Prop} (hR : Absorbs Same R) {s0 : State} {a0 a1 : Nat} {a2 : Word} {s : State} (h : R s0 s) :
    okP R s0 (tripSample a0 a1 a2 s) := by
  unfold tripSample
  repeat' (first
    | with_reducible assumption
    | with_reducible refine fun _ => ?_
    | ((try lift_lets -underBinder); with_reducible intro x; first | (refine (fun (_ : R s0 x) => ?_) ?_; clear_value x; rotate_left; unfold x; rotate_right) | (refine (fun (_ : okP R s0 x) => ?_) ?_; clear_value x; rotate_left; unfold x; rotate_right) | clear_value x)
    | split
    | with_reducible apply keep_tripLoop)

theorem keep_sampleLoop {R : State → State → Prop} (hR : Absorbs Same R) {s0 : State} {a0 a1 : Nat} {a2 : Word} {a3 : Nat} {s : State} (h : R s0 s) :
    okP R s0 (sampleLoop a0 a1 a2 a3 s) := by
  unfold sampleLoop
  repeat' (first
    | with_reducible assumption
    | with_reducible refine fun _ => ?_
    | ((try lift_lets -underBinder); with_reducible intro x; first | (refine (fun (_ : R s0 x) => ?_) ?_; clear_value x; rotate_left; unfold x; rotate_right) | (refine (fun (_ : okP R s0 x) => ?_) ?_; clear_value x; rotate_left; unfold x; rotate_right) | clear_value x)
    | split
    | with_reducible apply keep_setLoop
    | with_reducible apply keep_raise
    | with_reducible apply keep_tripSample
    | refine okP_get ?_ (by with_reducible assumption)
    | with_reducible refine keep_mk (by assumption) ?_ rfl rfl rfl rfl rfl rfl rfl rfl rfl rfl rfl rfl rfl rfl rfl)

theorem keep_loopAt {R : State → State → Prop} (hR : Absorbs Same R) {s0 : State} {b l : Nat} {p : List Result × State} (h : okP R s0 p) :
    okP R s0 (loopAt b l p) := by
  unfold loopAt
  repeat' (first
    | refine okP_get ?_ (by with_reducible assumption)
    | with_reducible assumption
    | with_reducible refine fun _ => ?_
    | ((try lift_lets -underBinder); with_reducible intro x; first | (refine (fun (_ : R s0 x) => ?_) ?_; clear_value x; rotate_left; unfold x; rotate_right) | (refine (fun (_ : okP R s0 x) => ?_) ?_; clear_value x; rotate_left; unfold x; rotate_right) | clear_value x)
    | split
    | with_reducible apply keep_stagingUncorr
    | with_reducible apply keep_setLoop
    | with_reducible apply keep_loopSetpoint
    | with_reducible apply keep_sampleLoop
    | refine okP_get ?_ (by with_reducible assumption)
    | with_reducible refine keep_mk (by assumption) ?_ rfl rfl rfl rfl rfl rfl rfl rfl rfl rfl rfl rfl rfl rfl rfl)

theorem keep_commitInteg {R : State → State → Prop} (hR : Absorbs Same R) {s0 : State} {a0 : Result} {a1 : Bool} {s : State} (h : R s0 s) :
    R s0 (commitInteg a0 a1 s) := by
  unfold commitInteg
  repeat' (first
    | with_reducible assumption
    | with_reducible refine fun _ => ?_
    | ((try lift_lets -underBinder); with_reducible intro x; first | (refine (fun (_ : R s0 x) => ?_) ?_; clear_value x; rotate_left; unfold x; rotate_right) | (refine (fun (_ : okP R s0 x) => ?_) ?_; clear_value x; rotate_left; unfold x; rotate_right) | clear_value x)
    | split
    | with_reducible apply keep_setLoop
    | with_reducible refine keep_mk (by assumption) ?_ rfl rfl rfl rfl rfl rfl rfl rfl rfl rfl rfl rfl rfl rfl rfl)

theorem keep_setRport {R : State → State → Prop} (hR : Absorbs Same R) {s0 : State} {s : State} {a1 : Nat} {a2 : RPort} (h : R s0 s) :
    R s0 (setRport s a1 a2) := by
  unfold setRport
  repeat' (first
    | with_reducible assumption
    | with_reducible refine fun _ => ?_
    | split
    | with_reducible refine keep_mk (by assumption) ?_ rfl rfl rfl rfl rfl rfl rfl rfl rfl rfl rfl rfl rfl rfl rfl)

theorem keep_imageWrite {R : State → State → Prop} (hR : Absorbs Same R) {s0 : State} {a0 a1 a2 a3 : Nat} {a4 : Word} {s : State} (h : R s0 s) :
    R s0 (imageWrite a0 a1 a2 a3 a4 s) := by
  unfold imageWrite
  repeat' (first
    | with_reducible assumption
    | with_reducible refine fun _ => ?_
    | ((try lift_lets -underBinder); with_reducible intro x; first | (refine (fun (_ : R s0 x) => ?_) ?_; clear_value x; rotate_left; unfold x; rotate_right) | (refine (fun (_ : okP R s0 x) => ?_) ?_; clear_value x; rotate_left; unfold x; rotate_right) | clear_value x)
    | split
    | with_reducible apply keep_setRport
    | with_reducible refine keep_mk (by assumption) ?_ rfl rfl rfl rfl rfl rfl rfl rfl rfl rfl rfl rfl rfl rfl rfl)

theorem keep_writeCommand {R : State → State → Prop} (hR : Absorbs Same R) {s0 : State} {a0 a1 : Nat} {a2 : Word} {s : State} (h : R s0 s) :
    R s0 (writeCommand a0 a1 a2 s) := by
  unfold writeCommand
  repeat' (first
    | with_reducible assumption
    | with_reducible refine fun _ => ?_
    | ((try lift_lets -underBinder); with_reducible intro x; first | (refine (fun (_ : R s0 x) => ?_) ?_; clear_value x; rotate_left; unfold x; rotate_right) | (refine (fun (_ : okP R s0 x) => ?_) ?_; clear_value x; rotate_left; unfold x; rotate_right) | clear_value x)
    | split
    | with_reducible apply keep_imageWrite)

theorem keep_resolveGroup {R : State → State → Prop} (hR : Absorbs Same R) {s0 : State} {b : Nat} {rs : List Result} {g : Nat} {s : State}
    (h : R s0 s) : R s0 (resolveGroup b rs g s) := by
  unfold resolveGroup
  extract_lets ms part
  cases groupSelect part with
  | none => exact h
  | some x =>
    dsimp only
    repeat' (first
      | with_reducible assumption
      | with_reducible refine fun _ => ?_
      | ((try lift_lets -underBinder); with_reducible intro x; first | (refine (fun (_ : R s0 x) => ?_) ?_; clear_value x; rotate_left; unfold x; rotate_right) | (refine (fun (_ : okP R s0 x) => ?_) ?_; clear_value x; rotate_left; unfold x; rotate_right) | clear_value x)
      | split
      | with_reducible apply keep_fset
      | with_reducible apply keep_forEach
      | with_reducible apply keep_commitInteg
      | with_reducible apply keep_writeCommand)

theorem keep_finishBoundary {R : State → State → Prop} (hR : Absorbs Same R) {s0 : State} {a0 : Nat} {a1 : List Result} {s : State} (h : R s0 s) :
    R s0 (finishBoundary a0 a1 s) := by
  unfold finishBoundary
  repeat' (first
    | with_reducible assumption
    | with_reducible refine fun _ => ?_
    | ((try lift_lets -underBinder); with_reducible intro x; first | (refine (fun (_ : R s0 x) => ?_) ?_; clear_value x; rotate_left; unfold x; rotate_right) | (refine (fun (_ : okP R s0 x) => ?_) ?_; clear_value x; rotate_left; unfold x; rotate_right) | clear_value x)
    | split
    | with_reducible apply keep_forEach
    | with_reducible apply keep_resolveGroup
    | with_reducible apply keep_writeCommand
    | with_reducible apply keep_commitInteg)

theorem keep_coefAdvance {R : State → State → Prop} (hR : Absorbs Same R) {s0 : State} {a0 : CoefWait} {s : State} (h : R s0 s) :
    okP R s0 (coefAdvance a0 s) := by
  unfold coefAdvance
  repeat' (first
    | with_reducible assumption
    | with_reducible refine fun _ => ?_
    | split
    | with_reducible apply keep_setLoop
    | with_reducible apply keep_foldl
    | with_reducible apply okP_foldl)

theorem keep_coefSettle {R : State → State → Prop} (hR : Absorbs Same R) {s0 : State} {s : State} (h : R s0 s) :
    R s0 (coefSettle s) := by
  unfold coefSettle
  repeat' (first
    | with_reducible assumption
    | with_reducible refine fun _ => ?_
    | ((try lift_lets -underBinder); with_reducible intro x; first | (refine (fun (_ : R s0 x) => ?_) ?_; clear_value x; rotate_left; unfold x; rotate_right) | (refine (fun (_ : okP R s0 x) => ?_) ?_; clear_value x; rotate_left; unfold x; rotate_right) | clear_value x)
    | split
    | with_reducible apply keep_coefAdvance
    | with_reducible apply keep_modYarrow
    | refine okP_get ?_ (by with_reducible assumption)
    | with_reducible apply keep_foldl
    | with_reducible apply okP_foldl
    | with_reducible refine keep_mk (by assumption) ?_ rfl rfl rfl rfl rfl rfl rfl rfl rfl rfl rfl rfl rfl rfl rfl)

theorem keep_boundaryRequests {R : State → State → Prop} (hR : Absorbs Same R) {s0 : State} {a0 a1 : Nat} {s : State} (h : R s0 s) :
    R s0 (boundaryRequests a0 a1 s) := by
  unfold boundaryRequests
  repeat' (first
    | with_reducible assumption
    | with_reducible refine fun _ => ?_
    | ((try lift_lets -underBinder); with_reducible intro x; first | (refine (fun (_ : R s0 x) => ?_) ?_; clear_value x; rotate_left; unfold x; rotate_right) | (refine (fun (_ : okP R s0 x) => ?_) ?_; clear_value x; rotate_left; unfold x; rotate_right) | clear_value x)
    | split
    | with_reducible apply keep_forEach
    | with_reducible apply keep_setLoop
    | with_reducible apply keep_settleControl
    | with_reducible apply keep_coefSettle
    | with_reducible refine keep_mk (by assumption) ?_ rfl rfl rfl rfl rfl rfl rfl rfl rfl rfl rfl rfl rfl rfl rfl)

theorem keep_rateCheck {R : State → State → Prop} (hR : Absorbs Same R) {s0 : State} {a0 a1 : Nat} {s : State} (h : R s0 s) :
    R s0 (rateCheck a0 a1 s) := by
  unfold rateCheck
  repeat' (first
    | with_reducible assumption
    | with_reducible refine fun _ => ?_
    | ((try lift_lets -underBinder); with_reducible intro x; first | (refine (fun (_ : R s0 x) => ?_) ?_; clear_value x; rotate_left; unfold x; rotate_right) | (refine (fun (_ : okP R s0 x) => ?_) ?_; clear_value x; rotate_left; unfold x; rotate_right) | clear_value x)
    | split
    | with_reducible apply keep_raise
    | with_reducible apply keep_modYarrow
    | with_reducible refine keep_mk (by assumption) ?_ rfl rfl rfl rfl rfl rfl rfl rfl rfl rfl rfl rfl rfl rfl rfl)

theorem keep_sampleBoundary {R : State → State → Prop} (hR : Absorbs Same R) {s0 : State} {a0 a1 : Nat} {s : State} (h : R s0 s) :
    R s0 (sampleBoundary a0 a1 s) := by
  unfold sampleBoundary
  repeat' (first
    | with_reducible assumption
    | with_reducible refine fun _ => ?_
    | ((try lift_lets -underBinder); with_reducible intro x; first | (refine (fun (_ : R s0 x) => ?_) ?_; clear_value x; rotate_left; unfold x; rotate_right) | (refine (fun (_ : okP R s0 x) => ?_) ?_; clear_value x; rotate_left; unfold x; rotate_right) | clear_value x)
    | split
    | with_reducible apply keep_commitBoundaries
    | with_reducible apply keep_boundaryRequests
    | with_reducible apply keep_rateCheck
    | with_reducible apply keep_loopAt
    | with_reducible apply keep_finishBoundary
    | with_reducible apply keep_takeFree
    | with_reducible apply keep_fset
    | refine okP_get ?_ (by with_reducible assumption)
    | with_reducible apply keep_foldl
    | with_reducible apply okP_foldl)

theorem keep_yarrowFrame {R : State → State → Prop} (hR : Absorbs Same R) {s0 : State} {a0 : Nat} {s : State} (h : R s0 s) :
    R s0 (yarrowFrame a0 s) := by
  unfold yarrowFrame
  repeat' (first
    | with_reducible assumption
    | with_reducible refine fun _ => ?_
    | split
    | with_reducible apply keep_modYarrow
    | with_reducible refine keep_mk (by assumption) ?_ rfl rfl rfl rfl rfl rfl rfl rfl rfl rfl rfl rfl rfl rfl rfl)

theorem keep_commitWrite {R : State → State → Prop} (hR : Absorbs Same R) {s0 : State} {a0 : Nat} {s : State} (h : R s0 s) :
    R s0 (commitWrite a0 s) := by
  unfold commitWrite
  repeat' (first
    | with_reducible assumption
    | with_reducible refine fun _ => ?_
    | split
    | with_reducible apply keep_modYarrow
    | with_reducible refine keep_mk (by assumption) ?_ rfl rfl rfl rfl rfl rfl rfl rfl rfl rfl rfl rfl rfl rfl rfl)

theorem keep_ctlChecked {R : State → State → Prop} (hR : Absorbs Same R) {s0 s : State} {q : Nat} {c : QCmd} {va : Bool} {k : Verdict} (h : R s0 s)
    (hk : okV R s0 k) : okV R s0 (ctlChecked q c va s k) := by
  unfold ctlChecked
  repeat' (first
    | with_reducible assumption
    | with_reducible refine fun _ => ?_
    | ((try lift_lets -underBinder); with_reducible intro x; first | (refine (fun (_ : R s0 x) => ?_) ?_; clear_value x; rotate_left; unfold x; rotate_right) | (refine (fun (_ : okP R s0 x) => ?_) ?_; clear_value x; rotate_left; unfold x; rotate_right) | clear_value x)
    | split
    | with_reducible apply okV_done
    | with_reducible apply okV_wait
    | with_reducible apply keep_invalid)

theorem keep_askLoops {R : State → State → Prop} (hR : Absorbs Same R) {s0 : State} {a0 : Nat} {a1 : QCmd} {a2 : ReqKind} {a3 : List Nat} {s : State} (h : R s0 s) :
    R s0 (askLoops a0 a1 a2 a3 s) := by
  unfold askLoops
  repeat' (first
    | with_reducible assumption
    | with_reducible refine fun _ => ?_
    | split
    | with_reducible apply keep_forEach
    | with_reducible apply keep_setLoop
    | with_reducible refine keep_mk (by assumption) ?_ rfl rfl rfl rfl rfl rfl rfl rfl rfl rfl rfl rfl rfl rfl rfl)

theorem keep_failElement {R : State → State → Prop} (hR : Absorbs Held R) {s0 : State} {a0 : Nat} {a1 : QCmd} {a2 : Nat} {a3 : Nat → Bool} {a4 : Nat → Nat} {a5 : AccErr} {s : State} (h : R s0 s) :
    okV R s0 (failElement a0 a1 a2 a3 a4 a5 s) := by
  have hS := hR.sameOfHeld
  unfold failElement
  repeat' (first
    | with_reducible assumption
    | with_reducible refine fun _ => ?_
    | split
    | with_reducible apply okV_done
    | with_reducible apply okV_wait
    | with_reducible apply keep_failOperand
    | with_reducible apply keep_invalid
    | refine okV_get_done ?_ (by with_reducible assumption)
    | refine okV_get_wait ?_ (by with_reducible assumption))

theorem keep_askVerdict {R : State → State → Prop} (hR : Absorbs Same R) {s0 : State} {a0 : Nat} {a1 : QCmd} {a2 : ReqKind} {a3 : List Nat} {s : State} (h : R s0 s) :
    okV R s0 (askVerdict a0 a1 a2 a3 s) := by
  unfold askVerdict
  repeat' (first
    | with_reducible assumption
    | with_reducible refine fun _ => ?_
    | split
    | with_reducible apply okV_done
    | with_reducible apply okV_wait
    | with_reducible apply keep_okay
    | with_reducible apply keep_askLoops
    | with_reducible apply keep_modCmd
    | with_reducible refine keep_mk (by assumption) ?_ rfl rfl rfl rfl rfl rfl rfl rfl rfl rfl rfl rfl rfl rfl rfl)

theorem keep_loopEnableEngine {R : State → State → Prop} (hR : Absorbs Same R) {s0 : State} {a0 : Nat} {a1 : QCmd} {s : State} (h : R s0 s) :
    okV R s0 (loopEnableEngine a0 a1 s) := by
  unfold loopEnableEngine
  repeat' (first
    | with_reducible assumption
    | with_reducible refine fun _ => ?_
    | split
    | with_reducible apply okV_done
    | with_reducible apply okV_wait
    | with_reducible apply keep_ctlChecked
    | with_reducible apply keep_askVerdict)

theorem keep_execLoopEnable {R : State → State → Prop} (hR : Absorbs Same R) {s0 : State} {a0 a1 : Nat} {s : State} (h : R s0 s) :
    okO R s0 (execLoopEnable a0 a1 s) := by
  unfold execLoopEnable
  repeat' (first
    | with_reducible assumption
    | with_reducible refine fun _ => ?_
    | split
    | with_reducible apply okO_next
    | with_reducible apply keep_runEngine
    | with_reducible apply keep_loopEnableEngine)

theorem keep_takeDeferred {R : State → State → Prop} (hR : Absorbs Same R) {s0 : State} {s : State} (h : R s0 s) :
    R s0 (takeDeferred s) := by
  unfold takeDeferred
  repeat' (first
    | with_reducible assumption
    | with_reducible refine fun _ => ?_
    | ((try lift_lets -underBinder); with_reducible intro x; first | (refine (fun (_ : R s0 x) => ?_) ?_; clear_value x; rotate_left; unfold x; rotate_right) | (refine (fun (_ : okP R s0 x) => ?_) ?_; clear_value x; rotate_left; unfold x; rotate_right) | clear_value x)
    | split
    | with_reducible apply keep_forEach
    | with_reducible apply keep_setRegWord
    | with_reducible apply keep_modYarrow
    | with_reducible refine keep_mk (by assumption) ?_ rfl rfl rfl rfl rfl rfl rfl rfl rfl rfl rfl rfl rfl rfl rfl)

theorem keep_loopDisableEngine {R : State → State → Prop} (hR : Absorbs Same R) {s0 : State} {a0 : Nat} {a1 : QCmd} {s : State} (h : R s0 s) :
    okV R s0 (loopDisableEngine a0 a1 s) := by
  unfold loopDisableEngine
  repeat' (first
    | with_reducible assumption
    | with_reducible refine fun _ => ?_
    | split
    | with_reducible apply okV_done
    | with_reducible apply okV_wait
    | with_reducible apply keep_ctlChecked
    | with_reducible apply keep_okay
    | with_reducible apply keep_takeDeferred
    | with_reducible apply keep_settleControl
    | with_reducible apply keep_coefSettle
    | with_reducible apply keep_forEach
    | with_reducible apply keep_setLoop)

theorem keep_execLoopDisable {R : State → State → Prop} (hR : Absorbs Same R) {s0 : State} {a0 a1 : Nat} {s : State} (h : R s0 s) :
    okO R s0 (execLoopDisable a0 a1 s) := by
  unfold execLoopDisable
  repeat' (first
    | with_reducible assumption
    | with_reducible refine fun _ => ?_
    | split
    | with_reducible apply okO_next
    | with_reducible apply keep_runEngine
    | with_reducible apply keep_loopDisableEngine)

theorem keep_coefWriteEngine {R : State → State → Prop} (hR : Absorbs Held R) {s0 : State} {a0 : Nat} {a1 : QCmd} {s : State} (h : R s0 s) :
    okV R s0 (coefWriteEngine a0 a1 s) := by
  have hS := hR.sameOfHeld
  unfold coefWriteEngine
  repeat' (first
    | with_reducible assumption
    | with_reducible refine fun _ => ?_
    | ((try lift_lets -underBinder); with_reducible intro x; first | (refine (fun (_ : R s0 x) => ?_) ?_; clear_value x; rotate_left; unfold x; rotate_right) | (refine (fun (_ : okP R s0 x) => ?_) ?_; clear_value x; rotate_left; unfold x; rotate_right) | clear_value x)
    | split
    | with_reducible apply okV_done
    | with_reducible apply okV_wait
    | with_reducible apply keep_ctlChecked
    | with_reducible apply keep_failElement
    | with_reducible apply keep_invalid
    | with_reducible apply keep_coefAdvance
    | with_reducible apply keep_okay
    | with_reducible apply keep_modYarrow
    | with_reducible apply keep_modCmd
    | refine okP_get ?_ (by with_reducible assumption)
    | refine okV_get_done ?_ (by with_reducible assumption)
    | refine okV_get_wait ?_ (by with_reducible assumption)
    | with_reducible refine keep_mk (by assumption) ?_ rfl rfl rfl rfl rfl rfl rfl rfl rfl rfl rfl rfl rfl rfl rfl)

theorem keep_execCoefWrite {R : State → State → Prop} (hR : Absorbs Held R) {s0 : State} {a0 a1 : Nat} {s : State} (h : R s0 s) :
    okO R s0 (execCoefWrite a0 a1 s) := by
  have hS := hR.sameOfHeld
  unfold execCoefWrite
  repeat' (first
    | with_reducible assumption
    | with_reducible refine fun _ => ?_
    | split
    | with_reducible apply okO_next
    | with_reducible apply keep_runEngine
    | with_reducible apply keep_coefWriteEngine)

theorem keep_bankSwapEngine {R : State → State → Prop} (hR : Absorbs Same R) {s0 : State} {a0 : Nat} {a1 : QCmd} {s : State} (h : R s0 s) :
    okV R s0 (bankSwapEngine a0 a1 s) := by
  unfold bankSwapEngine
  repeat' (first
    | with_reducible assumption
    | with_reducible refine fun _ => ?_
    | ((try lift_lets -underBinder); with_reducible intro x; first | (refine (fun (_ : R s0 x) => ?_) ?_; clear_value x; rotate_left; unfold x; rotate_right) | (refine (fun (_ : okP R s0 x) => ?_) ?_; clear_value x; rotate_left; unfold x; rotate_right) | clear_value x)
    | split
    | with_reducible apply okV_done
    | with_reducible apply okV_wait
    | with_reducible apply keep_ctlChecked
    | with_reducible apply keep_askVerdict
    | with_reducible apply keep_forEach
    | with_reducible apply keep_setLoop
    | with_reducible refine keep_mk (by assumption) ?_ rfl rfl rfl rfl rfl rfl rfl rfl rfl rfl rfl rfl rfl rfl rfl)

theorem keep_execBankSwap {R : State → State → Prop} (hR : Absorbs Same R) {s0 : State} {a0 a1 : Nat} {s : State} (h : R s0 s) :
    okO R s0 (execBankSwap a0 a1 s) := by
  unfold execBankSwap
  repeat' (first
    | with_reducible assumption
    | with_reducible refine fun _ => ?_
    | split
    | with_reducible apply okO_next
    | with_reducible apply keep_runEngine
    | with_reducible apply keep_bankSwapEngine)

theorem keep_setpointEngine {R : State → State → Prop} (hR : Absorbs Held R) {s0 : State} {a0 : Nat} {a1 : QCmd} {s : State} (h : R s0 s) :
    okV R s0 (setpointEngine a0 a1 s) := by
  have hS := hR.sameOfHeld
  unfold setpointEngine
  repeat' (first
    | with_reducible assumption
    | with_reducible refine fun _ => ?_
    | ((try lift_lets -underBinder); with_reducible intro x; first | (refine (fun (_ : R s0 x) => ?_) ?_; clear_value x; rotate_left; unfold x; rotate_right) | (refine (fun (_ : okP R s0 x) => ?_) ?_; clear_value x; rotate_left; unfold x; rotate_right) | clear_value x)
    | split
    | with_reducible apply okV_done
    | with_reducible apply okV_wait
    | with_reducible apply keep_ctlChecked
    | with_reducible apply keep_failElement
    | with_reducible apply keep_refuse
    | with_reducible apply keep_forEach
    | with_reducible apply keep_setLoop
    | with_reducible apply keep_askVerdict
    | refine okV_get_done ?_ (by with_reducible assumption)
    | refine okV_get_wait ?_ (by with_reducible assumption)
    | with_reducible refine keep_mk (by assumption) ?_ rfl rfl rfl rfl rfl rfl rfl rfl rfl rfl rfl rfl rfl rfl rfl)

theorem keep_execSetpointWrite {R : State → State → Prop} (hR : Absorbs Held R) {s0 : State} {a0 a1 : Nat} {s : State} (h : R s0 s) :
    okO R s0 (execSetpointWrite a0 a1 s) := by
  have hS := hR.sameOfHeld
  unfold execSetpointWrite
  repeat' (first
    | with_reducible assumption
    | with_reducible refine fun _ => ?_
    | split
    | with_reducible apply okO_next
    | with_reducible apply keep_runEngine
    | with_reducible apply keep_setpointEngine)

theorem keep_tripClearEngine {R : State → State → Prop} (hR : Absorbs Same R) {s0 : State} {a0 : Nat} {a1 : QCmd} {s : State} (h : R s0 s) :
    okV R s0 (tripClearEngine a0 a1 s) := by
  unfold tripClearEngine
  repeat' (first
    | with_reducible assumption
    | with_reducible refine fun _ => ?_
    | split
    | with_reducible apply okV_done
    | with_reducible apply okV_wait
    | with_reducible apply keep_ctlChecked
    | with_reducible apply keep_askVerdict)

theorem keep_execTripClear {R : State → State → Prop} (hR : Absorbs Same R) {s0 : State} {a0 a1 : Nat} {s : State} (h : R s0 s) :
    okO R s0 (execTripClear a0 a1 s) := by
  unfold execTripClear
  repeat' (first
    | with_reducible assumption
    | with_reducible refine fun _ => ?_
    | split
    | with_reducible apply okO_next
    | with_reducible apply keep_runEngine
    | with_reducible apply keep_tripClearEngine)

theorem keep_loopReadEngine {R : State → State → Prop} (hR : Absorbs Held R) {s0 : State} {a0 : Nat} {a1 : QCmd} {s : State} (h : R s0 s) :
    okV R s0 (loopReadEngine a0 a1 s) := by
  have hS := hR.sameOfHeld
  unfold loopReadEngine
  repeat' (first
    | with_reducible assumption
    | with_reducible refine fun _ => ?_
    | ((try lift_lets -underBinder); with_reducible intro x; first | (refine (fun (_ : R s0 x) => ?_) ?_; clear_value x; rotate_left; unfold x; rotate_right) | (refine (fun (_ : okP R s0 x) => ?_) ?_; clear_value x; rotate_left; unfold x; rotate_right) | clear_value x)
    | split
    | with_reducible apply okV_done
    | with_reducible apply okV_wait
    | with_reducible apply keep_ctlChecked
    | with_reducible apply keep_opWrite
    | with_reducible apply keep_failElement
    | with_reducible apply keep_okay
    | refine okE_get ?_ (by with_reducible assumption)
    | refine okV_get_done ?_ (by with_reducible assumption)
    | refine okV_get_wait ?_ (by with_reducible assumption))

theorem keep_execLoopRead {R : State → State → Prop} (hR : Absorbs Held R) {s0 : State} {a0 a1 : Nat} {s : State} (h : R s0 s) :
    okO R s0 (execLoopRead a0 a1 s) := by
  have hS := hR.sameOfHeld
  unfold execLoopRead
  repeat' (first
    | with_reducible assumption
    | with_reducible refine fun _ => ?_
    | split
    | with_reducible apply okO_next
    | with_reducible apply keep_runEngine
    | with_reducible apply keep_loopReadEngine)

end Sys2Proof.Machine
end

