-- ==== Sys2Proof/Laws/KeepTime.lean ====
section
/-! SUPPORT. What the operations of Machine/Time.lean keep. -/

namespace Sys2Proof.Machine

theorem keep_setTrigNext {R : State → State → Prop} (hR : Absorbs Same R) {s0 : State} {s : State} {a1 a2 : Nat} (h : R s0 s) :
    R s0 (setTrigNext s a1 a2) := by
  unfold setTrigNext
  repeat' (first
    | with_reducible assumption
    | with_reducible refine fun _ => ?_
    | split
    | with_reducible refine keep_modTime (by assumption) ?_ rfl
    | with_reducible refine keep_mk (by assumption) ?_ rfl rfl rfl rfl rfl rfl rfl rfl rfl rfl rfl rfl rfl rfl rfl)

theorem keep_armTrigger {R : State → State → Prop} (hR : Absorbs Same R) {s0 : State} {a0 : Nat} {s : State} (h : R s0 s) :
    R s0 (armTrigger a0 s) := by
  unfold armTrigger
  repeat' (first
    | with_reducible assumption
    | with_reducible refine fun _ => ?_
    | ((try lift_lets -underBinder); with_reducible intro x; first | (refine (fun (_ : R s0 x) => ?_) ?_; clear_value x; rotate_left; unfold x; rotate_right) | (refine (fun (_ : okP R s0 x) => ?_) ?_; clear_value x; rotate_left; unfold x; rotate_right) | clear_value x)
    | split
    | with_reducible apply keep_fsetb
    | with_reducible apply keep_setTrigNext
    | with_reducible apply keep_raise)

theorem keep_disarmTrigger {R : State → State → Prop} (hR : Absorbs Same R) {s0 : State} {a0 : Nat} {s : State} (h : R s0 s) :
    R s0 (disarmTrigger a0 s) := by
  unfold disarmTrigger
  repeat' (first
    | with_reducible assumption
    | with_reducible refine fun _ => ?_
    | ((try lift_lets -underBinder); with_reducible intro x; first | (refine (fun (_ : R s0 x) => ?_) ?_; clear_value x; rotate_left; unfold x; rotate_right) | (refine (fun (_ : okP R s0 x) => ?_) ?_; clear_value x; rotate_left; unfold x; rotate_right) | clear_value x)
    | split
    | with_reducible apply keep_fsetb
    | with_reducible refine keep_mk (by assumption) ?_ rfl rfl rfl rfl rfl rfl rfl rfl rfl rfl rfl rfl rfl rfl rfl)

theorem keep_rearmTrigger {R : State → State → Prop} (hR : Absorbs Same R) {s0 : State} {a0 : Nat} {a1 : List Byte} {s : State} (h : R s0 s) :
    R s0 (rearmTrigger a0 a1 s) := by
  unfold rearmTrigger
  repeat' (first
    | with_reducible assumption
    | with_reducible refine fun _ => ?_
    | split
    | with_reducible apply keep_armTrigger
    | with_reducible apply keep_disarmTrigger
    | with_reducible refine keep_modTime (by assumption) ?_ rfl
    | with_reducible refine keep_mk (by assumption) ?_ rfl rfl rfl rfl rfl rfl rfl rfl rfl rfl rfl rfl rfl rfl rfl)

theorem keep_loadTrigger {R : State → State → Prop} (hR : Absorbs Same R) {s0 : State} {a0 : Nat} {a1 : List Byte} {s : State} (h : R s0 s) :
    R s0 (loadTrigger a0 a1 s) := by
  unfold loadTrigger
  repeat' (first
    | with_reducible assumption
    | with_reducible refine fun _ => ?_
    | split
    | with_reducible apply keep_rearmTrigger
    | with_reducible apply keep_disarmTrigger
    | with_reducible refine keep_modTime (by assumption) ?_ rfl
    | with_reducible refine keep_mk (by assumption) ?_ rfl rfl rfl rfl rfl rfl rfl rfl rfl rfl rfl rfl rfl rfl rfl)

theorem keep_clockTick {R : State → State → Prop} (hR : Absorbs Kept R) {s0 s : State} (h : R s0 s) : R s0 (clockTick s) := by
  have hH := hR.heldOfKept
  have hS := hR.sameOfKept
  unfold clockTick
  split
  · exact h
  · refine hR _ _ _ h ⟨rfl, fun g => ?_⟩
    exact { g with time := Nat.mod_lt _ (by decide), frac := Nat.mod_lt _ (by decide) }

theorem keep_setDom {R : State → State → Prop} (hR : Absorbs Same R) {s0 : State} {s : State} {a1 : Nat} {a2 : Domain} (h : R s0 s) :
    R s0 (setDom s a1 a2) := by
  unfold setDom
  repeat' (first
    | with_reducible assumption
    | with_reducible refine fun _ => ?_
    | split
    | with_reducible refine keep_modTime (by assumption) ?_ rfl
    | with_reducible refine keep_mk (by assumption) ?_ rfl rfl rfl rfl rfl rfl rfl rfl rfl rfl rfl rfl rfl rfl rfl)

theorem keep_setLocked {R : State → State → Prop} (hR : Absorbs Same R) {s0 : State} {s : State} {a1 : Bool} (h : R s0 s) :
    R s0 (setLocked s a1) := by
  unfold setLocked
  repeat' (first
    | with_reducible assumption
    | with_reducible refine fun _ => ?_
    | split
    | with_reducible apply keep_raise
    | with_reducible apply keep_fsetb)

theorem keep_settleLock {R : State → State → Prop} (hR : Absorbs Same R) {s0 : State} {s : State} (h : R s0 s) :
    R s0 (settleLock s) := by
  unfold settleLock
  repeat' (first
    | with_reducible assumption
    | with_reducible refine fun _ => ?_
    | ((try lift_lets -underBinder); with_reducible intro x; first | (refine (fun (_ : R s0 x) => ?_) ?_; clear_value x; rotate_left; unfold x; rotate_right) | (refine (fun (_ : okP R s0 x) => ?_) ?_; clear_value x; rotate_left; unfold x; rotate_right) | clear_value x)
    | split
    | with_reducible apply keep_setLocked
    | with_reducible apply keep_fsetb)

theorem keep_setSource {R : State → State → Prop} (hR : Absorbs Same R) {s0 : State} {a0 : Nat} {s : State} (h : R s0 s) :
    R s0 (setSource a0 s) := by
  unfold setSource
  repeat' (first
    | with_reducible assumption
    | with_reducible refine fun _ => ?_
    | ((try lift_lets -underBinder); with_reducible intro x; first | (refine (fun (_ : R s0 x) => ?_) ?_; clear_value x; rotate_left; unfold x; rotate_right) | (refine (fun (_ : okP R s0 x) => ?_) ?_; clear_value x; rotate_left; unfold x; rotate_right) | clear_value x)
    | split
    | with_reducible apply keep_settleLock
    | with_reducible apply keep_fset
    | with_reducible apply keep_raise
    | with_reducible refine keep_modTime (by assumption) ?_ rfl
    | with_reducible refine keep_mk (by assumption) ?_ rfl rfl rfl rfl rfl rfl rfl rfl rfl rfl rfl rfl rfl rfl rfl)

theorem keep_domGained {R : State → State → Prop} (hR : Absorbs Same R) {s0 : State} {a0 : Nat} {s : State} (h : R s0 s) :
    R s0 (domGained a0 s) := by
  unfold domGained
  repeat' (first
    | with_reducible assumption
    | with_reducible refine fun _ => ?_
    | ((try lift_lets -underBinder); with_reducible intro x; first | (refine (fun (_ : R s0 x) => ?_) ?_; clear_value x; rotate_left; unfold x; rotate_right) | (refine (fun (_ : okP R s0 x) => ?_) ?_; clear_value x; rotate_left; unfold x; rotate_right) | clear_value x)
    | split
    | with_reducible apply keep_settleLock
    | with_reducible apply keep_setDom
    | with_reducible apply keep_fsetb
    | with_reducible apply keep_raise
    | with_reducible apply keep_setSource
    | with_reducible refine keep_mk (by assumption) ?_ rfl rfl rfl rfl rfl rfl rfl rfl rfl rfl rfl rfl rfl rfl rfl)

theorem keep_domLost {R : State → State → Prop} (hR : Absorbs Same R) {s0 : State} {a0 : Nat} {s : State} (h : R s0 s) :
    R s0 (domLost a0 s) := by
  unfold domLost
  repeat' (first
    | with_reducible assumption
    | with_reducible refine fun _ => ?_
    | ((try lift_lets -underBinder); with_reducible intro x; first | (refine (fun (_ : R s0 x) => ?_) ?_; clear_value x; rotate_left; unfold x; rotate_right) | (refine (fun (_ : okP R s0 x) => ?_) ?_; clear_value x; rotate_left; unfold x; rotate_right) | clear_value x)
    | split
    | with_reducible apply keep_setDom
    | with_reducible apply keep_fsetb
    | with_reducible apply keep_raise
    | with_reducible apply keep_setSource
    | with_reducible refine keep_mk (by assumption) ?_ rfl rfl rfl rfl rfl rfl rfl rfl rfl rfl rfl rfl rfl rfl rfl)

theorem keep_applyTimeCfg {R : State → State → Prop} (hR : Absorbs Same R) {s0 : State} {s : State} (h : R s0 s) :
    R s0 (applyTimeCfg s) := by
  unfold applyTimeCfg
  repeat' (first
    | with_reducible assumption
    | with_reducible refine fun _ => ?_
    | split
    | with_reducible apply keep_setSource
    | with_reducible apply keep_settleLock)

theorem keep_execSyncReceive {R : State → State → Prop} (hR : Absorbs Same R) {s0 : State} {a0 : Nat} {a1 : SyncIn} {s : State} (h : R s0 s) :
    okO R s0 (execSyncReceive a0 a1 s) := by
  unfold execSyncReceive
  repeat' (first
    | with_reducible assumption
    | with_reducible refine fun _ => ?_
    | ((try lift_lets -underBinder); with_reducible intro x; first | (refine (fun (_ : R s0 x) => ?_) ?_; clear_value x; rotate_left; unfold x; rotate_right) | (refine (fun (_ : okP R s0 x) => ?_) ?_; clear_value x; rotate_left; unfold x; rotate_right) | clear_value x)
    | split
    | with_reducible apply okO_next
    | with_reducible apply keep_whenFed
    | with_reducible apply keep_setNetPort
    | with_reducible apply keep_domGained
    | with_reducible apply keep_setDom
    | with_reducible refine keep_mk (by assumption) ?_ rfl rfl rfl rfl rfl rfl rfl rfl rfl rfl rfl rfl rfl rfl rfl)

theorem keep_execSyncLost {R : State → State → Prop} (hR : Absorbs Same R) {s0 : State} {a0 : Nat} {s : State} (h : R s0 s) :
    okO R s0 (execSyncLost a0 s) := by
  unfold execSyncLost
  repeat' (first
    | with_reducible assumption
    | with_reducible refine fun _ => ?_
    | ((try lift_lets -underBinder); with_reducible intro x; first | (refine (fun (_ : R s0 x) => ?_) ?_; clear_value x; rotate_left; unfold x; rotate_right) | (refine (fun (_ : okP R s0 x) => ?_) ?_; clear_value x; rotate_left; unfold x; rotate_right) | clear_value x)
    | split
    | with_reducible apply okO_next
    | with_reducible apply keep_whenAlive
    | with_reducible apply keep_domLost)

theorem keep_execHoldoverEnd {R : State → State → Prop} (hR : Absorbs Same R) {s0 : State} {s : State} (h : R s0 s) :
    okO R s0 (execHoldoverEnd s) := by
  unfold execHoldoverEnd
  repeat' (first
    | with_reducible assumption
    | with_reducible refine fun _ => ?_
    | ((try lift_lets -underBinder); with_reducible intro x; first | (refine (fun (_ : R s0 x) => ?_) ?_; clear_value x; rotate_left; unfold x; rotate_right) | (refine (fun (_ : okP R s0 x) => ?_) ?_; clear_value x; rotate_left; unfold x; rotate_right) | clear_value x)
    | split
    | with_reducible apply okO_next
    | with_reducible apply keep_whenAlive
    | with_reducible apply keep_setLocked
    | with_reducible apply keep_setSource)

theorem keep_execDomainReturn {R : State → State → Prop} (hR : Absorbs Same R) {s0 : State} {s : State} (h : R s0 s) :
    okO R s0 (execDomainReturn s) := by
  unfold execDomainReturn
  repeat' (first
    | with_reducible assumption
    | with_reducible refine fun _ => ?_
    | split
    | with_reducible apply okO_next
    | with_reducible apply keep_whenAlive
    | with_reducible apply keep_setSource)

theorem keep_setIncr {R : State → State → Prop} (hR : Absorbs Same R) {s0 s : State} {v : Nat} (hv : incrMin ≤ v ∧ v ≤ incrMax)
    (h : R s0 s) : R s0 (setIncr s v) :=
  hR _ _ _ h ⟨rfl, ⟨rfl, rfl⟩, rfl, fun g => { g with incr := hv }⟩

theorem keep_advanceDomAt {R : State → State → Prop} (hR : Absorbs Same R) {s0 : State} {a0 : Nat} {s : State} (h : R s0 s) :
    R s0 (advanceDomAt a0 s) := by
  unfold advanceDomAt
  repeat' (first
    | with_reducible assumption
    | with_reducible refine fun _ => ?_
    | split
    | with_reducible apply keep_setDom)

theorem steeredIncr_range (ramp : Nat) (x : Domain) : incrMin ≤ steeredIncr ramp x ∧ steeredIncr ramp x ≤ incrMax := by
  unfold steeredIncr
  have : incrMin ≤ incrMax := by decide
  dsimp only
  omega

theorem keep_execSteeringUpdate {R : State → State → Prop} (hR : Absorbs Same R) {s0 s : State} (h : R s0 s) :
    okO R s0 (execSteeringUpdate s) := by
  unfold execSteeringUpdate
  repeat' (first
    | refine keep_setIncr hR (steeredIncr_range _ _) ?_
    | with_reducible assumption
    | with_reducible refine fun _ => ?_
    | ((try lift_lets -underBinder); with_reducible intro x; first | (refine (fun (_ : R s0 x) => ?_) ?_; clear_value x; rotate_left; unfold x; rotate_right) | (refine (fun (_ : okP R s0 x) => ?_) ?_; clear_value x; rotate_left; unfold x; rotate_right) | clear_value x)
    | split
    | with_reducible apply okO_next
    | with_reducible apply keep_whenAlive
    | with_reducible apply keep_advanceDomAt
    | with_reducible apply keep_setIncr
    | with_reducible apply keep_settleLock)

theorem keep_execGmChange {R : State → State → Prop} (hR : Absorbs Same R) {s0 : State} {a0 : Nat} {a1 : Bool} {a2 : Master} {s : State} (h : R s0 s) :
    okO R s0 (execGmChange a0 a1 a2 s) := by
  unfold execGmChange
  repeat' (first
    | with_reducible assumption
    | with_reducible refine fun _ => ?_
    | ((try lift_lets -underBinder); with_reducible intro x; first | (refine (fun (_ : R s0 x) => ?_) ?_; clear_value x; rotate_left; unfold x; rotate_right) | (refine (fun (_ : okP R s0 x) => ?_) ?_; clear_value x; rotate_left; unfold x; rotate_right) | clear_value x)
    | split
    | with_reducible apply okO_next
    | with_reducible apply keep_whenAlive
    | with_reducible apply keep_raise
    | with_reducible apply keep_domGained
    | with_reducible apply keep_setDom
    | with_reducible apply keep_domLost
    | with_reducible refine keep_mk (by assumption) ?_ rfl rfl rfl rfl rfl rfl rfl rfl rfl rfl rfl rfl rfl rfl rfl)

theorem keep_execSyncTransmit {R : State → State → Prop} (hR : Absorbs Same R) {s0 : State} {a0 : Nat} {s : State} (h : R s0 s) :
    okO R s0 (execSyncTransmit a0 s) := by
  unfold execSyncTransmit
  repeat' (first
    | with_reducible assumption
    | with_reducible refine fun _ => ?_
    | ((try lift_lets -underBinder); with_reducible intro x; first | (refine (fun (_ : R s0 x) => ?_) ?_; clear_value x; rotate_left; unfold x; rotate_right) | (refine (fun (_ : okP R s0 x) => ?_) ?_; clear_value x; rotate_left; unfold x; rotate_right) | clear_value x)
    | split
    | with_reducible apply okO_next
    | with_reducible apply keep_whenFed
    | with_reducible apply keep_setDom
    | with_reducible refine keep_mk (by assumption) ?_ rfl rfl rfl rfl rfl rfl rfl rfl rfl rfl rfl rfl rfl rfl rfl)

theorem keep_timeCfgApply {R : State → State → Prop} (hR : Absorbs Same R) {s0 : State} {a0 : Nat} {s : State} (h : R s0 s) :
    R s0 (timeCfgApply a0 s) := by
  unfold timeCfgApply
  repeat' (first
    | with_reducible assumption
    | with_reducible refine fun _ => ?_
    | ((try lift_lets -underBinder); with_reducible intro x; first | (refine (fun (_ : R s0 x) => ?_) ?_; clear_value x; rotate_left; unfold x; rotate_right) | (refine (fun (_ : okP R s0 x) => ?_) ?_; clear_value x; rotate_left; unfold x; rotate_right) | clear_value x)
    | split
    | with_reducible apply keep_applyTimeCfg
    | with_reducible apply keep_setDom
    | with_reducible apply keep_domLost)

theorem keep_timeCfgWrite {R : State → State → Prop} (hR : Absorbs Same R) {s0 : State} {a0 : Agent} {a1 a2 : Nat} {s : State} (h : R s0 s) :
    R s0 (timeCfgWrite a0 a1 a2 s) := by
  unfold timeCfgWrite
  repeat' (first
    | with_reducible assumption
    | with_reducible refine fun _ => ?_
    | split
    | with_reducible apply keep_timeCfgApply
    | with_reducible apply keep_rwStore
    | with_reducible apply keep_raise)

theorem keep_execTimeCfgWrite {R : State → State → Prop} (hR : Absorbs Same R) {s0 : State} {a0 : Agent} {a1 : Nat} {a2 : Word} {s : State} (h : R s0 s) :
    okO R s0 (execTimeCfgWrite a0 a1 a2 s) := by
  unfold execTimeCfgWrite
  repeat' (first
    | with_reducible assumption
    | with_reducible refine fun _ => ?_
    | split
    | with_reducible apply okO_next
    | with_reducible apply keep_whenAlive
    | with_reducible apply keep_timeCfgWrite)

theorem keep_setTime {R : State → State → Prop} (hR : Absorbs Kept R) {s0 s : State} {v : Nat} (h : R s0 s) : R s0 (setTime s v) :=
  hR _ (setReg64 s Reg.TIME_SET (v % 2 ^ 64)) _ (keep_setReg64 hR.sameOfKept h) ⟨rfl, fun g =>
    { mem := g.mem, flash := g.flash, cw := g.cw, threads := g.threads, units := g.units, vregs := g.vregs, queues := g.queues
      ctxs := g.ctxs, lanes := g.lanes, mgmt := g.mgmt, barriers := g.barriers, incr := g.incr
      time := Nat.mod_lt _ (Nat.two_pow_pos 64), frac := Nat.two_pow_pos 32 }⟩

theorem keep_timeSetWrite {R : State → State → Prop} (hR : Absorbs Kept R) {s0 : State} {a0 : Agent} {a1 : Nat} {s : State} (h : R s0 s) :
    R s0 (timeSetWrite a0 a1 s) := by
  have hH := hR.heldOfKept
  have hS := hR.sameOfKept
  unfold timeSetWrite
  repeat' (first
    | with_reducible assumption
    | with_reducible refine fun _ => ?_
    | split
    | with_reducible apply keep_setTime
    | with_reducible apply keep_raise)

theorem keep_execTimeSet {R : State → State → Prop} (hR : Absorbs Kept R) {s0 : State} {a0 : Agent} {a1 : DWord} {s : State} (h : R s0 s) :
    okO R s0 (execTimeSet a0 a1 s) := by
  have hH := hR.heldOfKept
  have hS := hR.sameOfKept
  unfold execTimeSet
  repeat' (first
    | with_reducible assumption
    | with_reducible refine fun _ => ?_
    | split
    | with_reducible apply okO_next
    | with_reducible apply keep_whenAlive
    | with_reducible apply keep_timeSetWrite)

theorem keep_timeSetIncrEngine {R : State → State → Prop} (hR : Absorbs Same R) {s0 : State} {c : QCmd} {s : State} (h : R s0 s) :
    okV R s0 (timeSetIncrEngine c s) := by
  unfold timeSetIncrEngine
  extract_lets v
  split
  · exact keep_invalid hR h
  · split
    · exact keep_refuse hR h
    · exact keep_okay hR (keep_setIncr hR (by omega) h)

theorem keep_execTimeSetIncr {R : State → State → Prop} (hR : Absorbs Same R) {s0 : State} {a0 a1 : Nat} {s : State} (h : R s0 s) :
    okO R s0 (execTimeSetIncr a0 a1 s) := by
  unfold execTimeSetIncr
  repeat' (first
    | with_reducible assumption
    | with_reducible refine fun _ => ?_
    | split
    | with_reducible apply okO_next
    | with_reducible apply keep_runEngine
    | with_reducible apply keep_timeSetIncrEngine)

theorem keep_triggerArmEngine {R : State → State → Prop} (hR : Absorbs Same R) {s0 : State} {a0 : QCmd} {s : State} (h : R s0 s) :
    okV R s0 (triggerArmEngine a0 s) := by
  unfold triggerArmEngine
  repeat' (first
    | with_reducible assumption
    | with_reducible refine fun _ => ?_
    | ((try lift_lets -underBinder); with_reducible intro x; first | (refine (fun (_ : R s0 x) => ?_) ?_; clear_value x; rotate_left; unfold x; rotate_right) | (refine (fun (_ : okP R s0 x) => ?_) ?_; clear_value x; rotate_left; unfold x; rotate_right) | clear_value x)
    | split
    | with_reducible apply okV_done
    | with_reducible apply okV_wait
    | with_reducible apply keep_invalid
    | with_reducible apply keep_okay
    | with_reducible apply keep_forEach
    | with_reducible apply keep_armTrigger
    | with_reducible apply keep_refuse
    | with_reducible apply keep_disarmTrigger
    | refine okV_get_done ?_ (by with_reducible assumption)
    | refine okV_get_wait ?_ (by with_reducible assumption))

theorem keep_execTriggerArm {R : State → State → Prop} (hR : Absorbs Same R) {s0 : State} {a0 a1 : Nat} {s : State} (h : R s0 s) :
    okO R s0 (execTriggerArm a0 a1 s) := by
  unfold execTriggerArm
  repeat' (first
    | with_reducible assumption
    | with_reducible refine fun _ => ?_
    | split
    | with_reducible apply okO_next
    | with_reducible apply keep_runEngine
    | with_reducible apply keep_triggerArmEngine)

theorem keep_timeReadEngine {R : State → State → Prop} (hR : Absorbs Held R) {s0 : State} {a0 : Nat} {a1 : QCmd} {s : State} (h : R s0 s) :
    okV R s0 (timeReadEngine a0 a1 s) := by
  have hS := hR.sameOfHeld
  unfold timeReadEngine
  repeat' (first
    | with_reducible assumption
    | with_reducible refine fun _ => ?_
    | split
    | with_reducible apply okV_done
    | with_reducible apply okV_wait
    | with_reducible apply keep_invalid
    | with_reducible apply keep_opWrite
    | with_reducible apply keep_failOperand
    | with_reducible apply keep_okay
    | refine okE_get ?_ (by with_reducible assumption)
    | refine okV_get_done ?_ (by with_reducible assumption)
    | refine okV_get_wait ?_ (by with_reducible assumption))

theorem keep_execTimeRead {R : State → State → Prop} (hR : Absorbs Held R) {s0 : State} {a0 a1 : Nat} {s : State} (h : R s0 s) :
    okO R s0 (execTimeRead a0 a1 s) := by
  have hS := hR.sameOfHeld
  unfold execTimeRead
  repeat' (first
    | with_reducible assumption
    | with_reducible refine fun _ => ?_
    | split
    | with_reducible apply okO_next
    | with_reducible apply keep_runEngine
    | with_reducible apply keep_timeReadEngine)

theorem keep_gateCycle {R : State → State → Prop} (hR : Absorbs Same R) {s0 : State} {a0 a1 : Nat} {s : State} (h : R s0 s) :
    R s0 (gateCycle a0 a1 s) := by
  unfold gateCycle
  repeat' (first
    | with_reducible assumption
    | with_reducible refine fun _ => ?_
    | ((try lift_lets -underBinder); with_reducible intro x; first | (refine (fun (_ : R s0 x) => ?_) ?_; clear_value x; rotate_left; unfold x; rotate_right) | (refine (fun (_ : okP R s0 x) => ?_) ?_; clear_value x; rotate_left; unfold x; rotate_right) | clear_value x)
    | split
    | with_reducible apply keep_fset
    | with_reducible apply keep_setNetPort
    | with_reducible refine keep_mk (by assumption) ?_ rfl rfl rfl rfl rfl rfl rfl rfl rfl rfl rfl rfl rfl rfl rfl)

theorem keep_execGateEntryExpiry {R : State → State → Prop} (hR : Absorbs Same R) {s0 : State} {a0 : Nat} {s : State} (h : R s0 s) :
    okO R s0 (execGateEntryExpiry a0 s) := by
  unfold execGateEntryExpiry
  repeat' (first
    | with_reducible assumption
    | with_reducible refine fun _ => ?_
    | ((try lift_lets -underBinder); with_reducible intro x; first | (refine (fun (_ : R s0 x) => ?_) ?_; clear_value x; rotate_left; unfold x; rotate_right) | (refine (fun (_ : okP R s0 x) => ?_) ?_; clear_value x; rotate_left; unfold x; rotate_right) | clear_value x)
    | split
    | with_reducible apply okO_next
    | with_reducible apply keep_whenFed
    | with_reducible apply keep_setNetPort
    | with_reducible apply keep_fset
    | with_reducible refine keep_mk (by assumption) ?_ rfl rfl rfl rfl rfl rfl rfl rfl rfl rfl rfl rfl rfl rfl rfl)

theorem keep_noteLaunch {R : State → State → Prop} (hR : Absorbs Same R) {s0 : State} {s : State} {a1 : Nat} {a2 : NetFrame} (h : R s0 s) :
    R s0 (noteLaunch s a1 a2) := by
  unfold noteLaunch
  repeat' (first
    | with_reducible assumption
    | with_reducible refine fun _ => ?_
    | ((try lift_lets -underBinder); with_reducible intro x; first | (refine (fun (_ : R s0 x) => ?_) ?_; clear_value x; rotate_left; unfold x; rotate_right) | (refine (fun (_ : okP R s0 x) => ?_) ?_; clear_value x; rotate_left; unfold x; rotate_right) | clear_value x)
    | split
    | with_reducible apply keep_raise
    | with_reducible apply keep_finc)

theorem keep_settleNetSend {R : State → State → Prop} (hR : Absorbs Same R) {s0 : State} {a0 : Option (Nat × Nat)} {s : State} (h : R s0 s) :
    R s0 (settleNetSend a0 s) := by
  unfold settleNetSend
  repeat' (first
    | with_reducible assumption
    | with_reducible refine fun _ => ?_
    | split
    | with_reducible apply keep_completeCmd)

theorem keep_execNetFrameTransmit {R : State → State → Prop} (hR : Absorbs Same R) {s0 : State} {a0 : Nat} {s : State} (h : R s0 s) :
    okO R s0 (execNetFrameTransmit a0 s) := by
  unfold execNetFrameTransmit
  repeat' (first
    | with_reducible assumption
    | with_reducible refine fun _ => ?_
    | ((try lift_lets -underBinder); with_reducible intro x; first | (refine (fun (_ : R s0 x) => ?_) ?_; clear_value x; rotate_left; unfold x; rotate_right) | (refine (fun (_ : okP R s0 x) => ?_) ?_; clear_value x; rotate_left; unfold x; rotate_right) | clear_value x)
    | split
    | with_reducible apply okO_next
    | with_reducible apply keep_whenFed
    | with_reducible apply keep_setNetPort
    | with_reducible apply keep_noteLaunch
    | with_reducible apply keep_settleNetSend
    | with_reducible refine keep_mk (by assumption) ?_ rfl rfl rfl rfl rfl rfl rfl rfl rfl rfl rfl rfl rfl rfl rfl)

theorem keep_netSendEngine {R : State → State → Prop} (hR : Absorbs Held R) {s0 : State} {a0 : Nat} {a1 : QCmd} {s : State} (h : R s0 s) :
    okV R s0 (netSendEngine a0 a1 s) := by
  have hS := hR.sameOfHeld
  unfold netSendEngine
  repeat' (first
    | with_reducible assumption
    | with_reducible refine fun _ => ?_
    | ((try lift_lets -underBinder); with_reducible intro x; first | (refine (fun (_ : R s0 x) => ?_) ?_; clear_value x; rotate_left; unfold x; rotate_right) | (refine (fun (_ : okP R s0 x) => ?_) ?_; clear_value x; rotate_left; unfold x; rotate_right) | clear_value x)
    | split
    | with_reducible apply okV_done
    | with_reducible apply okV_wait
    | with_reducible apply keep_invalid
    | with_reducible apply keep_failOperand
    | with_reducible apply keep_modCmd
    | with_reducible apply keep_forEach
    | with_reducible apply keep_handFrame
    | refine okV_get_done ?_ (by with_reducible assumption)
    | refine okV_get_wait ?_ (by with_reducible assumption)
    | with_reducible refine keep_mk (by assumption) ?_ rfl rfl rfl rfl rfl rfl rfl rfl rfl rfl rfl rfl rfl rfl rfl)

theorem keep_execNetSend {R : State → State → Prop} (hR : Absorbs Held R) {s0 : State} {a0 a1 : Nat} {s : State} (h : R s0 s) :
    okO R s0 (execNetSend a0 a1 s) := by
  have hS := hR.sameOfHeld
  unfold execNetSend
  repeat' (first
    | with_reducible assumption
    | with_reducible refine fun _ => ?_
    | split
    | with_reducible apply okO_next
    | with_reducible apply keep_runEngine
    | with_reducible apply keep_netSendEngine)

end Sys2Proof.Machine
end

