-- ==== Sys2Proof/Laws/KeepSensors.lean ====
section
/-! SUPPORT. What the operations of Machine/Sensors.lean keep. -/

namespace Sys2Proof.Machine

theorem keep_modSensors {R : State → State → Prop} (hR : Absorbs Same R) {s0 : State} {s : State} {a1 : Sensors → Sensors} (h : R s0 s) :
    R s0 (modSensors s a1) := by
  unfold modSensors
  repeat' (first
    | with_reducible assumption
    | with_reducible refine fun _ => ?_
    | split
    | with_reducible refine keep_mk (by assumption) ?_ rfl rfl rfl rfl rfl rfl rfl rfl rfl rfl rfl rfl rfl rfl rfl)

theorem keep_setStream {R : State → State → Prop} (hR : Absorbs Same R) {s0 : State} {s : State} {a1 : Nat} {a2 : Stream} (h : R s0 s) :
    R s0 (setStream s a1 a2) := by
  unfold setStream
  repeat' (first
    | with_reducible assumption
    | with_reducible refine fun _ => ?_
    | split
    | with_reducible apply keep_modSensors
    | with_reducible refine keep_mk (by assumption) ?_ rfl rfl rfl rfl rfl rfl rfl rfl rfl rfl rfl rfl rfl rfl rfl)

theorem keep_setGroup {R : State → State → Prop} (hR : Absorbs Same R) {s0 : State} {s : State} {a1 : Nat} {a2 : Group} (h : R s0 s) :
    R s0 (setGroup s a1 a2) := by
  unfold setGroup
  repeat' (first
    | with_reducible assumption
    | with_reducible refine fun _ => ?_
    | split
    | with_reducible apply keep_modSensors
    | with_reducible refine keep_mk (by assumption) ?_ rfl rfl rfl rfl rfl rfl rfl rfl rfl rfl rfl rfl rfl rfl rfl)

theorem keep_setExtr {R : State → State → Prop} (hR : Absorbs Same R) {s0 : State} {s : State} {a1 : Nat} {a2 : Slot} (h : R s0 s) :
    R s0 (setExtr s a1 a2) := by
  unfold setExtr
  repeat' (first
    | with_reducible assumption
    | with_reducible refine fun _ => ?_
    | split
    | with_reducible apply keep_modSensors
    | with_reducible refine keep_mk (by assumption) ?_ rfl rfl rfl rfl rfl rfl rfl rfl rfl rfl rfl rfl rfl rfl rfl)

theorem keep_lateGroups {R : State → State → Prop} (hR : Absorbs Same R) {s0 : State} {a0 : Nat} {a1 : Int} {a2 : Nat} {s : State} (h : R s0 s) :
    okP R s0 (lateGroups a0 a1 a2 s) := by
  unfold lateGroups
  repeat' (first
    | with_reducible assumption
    | with_reducible refine fun _ => ?_
    | ((try lift_lets -underBinder); with_reducible intro x; first | (refine (fun (_ : R s0 x) => ?_) ?_; clear_value x; rotate_left; unfold x; rotate_right) | (refine (fun (_ : okP R s0 x) => ?_) ?_; clear_value x; rotate_left; unfold x; rotate_right) | clear_value x)
    | split
    | with_reducible apply keep_setGroup
    | with_reducible apply keep_foldl
    | with_reducible apply okP_foldl
    | with_reducible refine keep_mk (by assumption) ?_ rfl rfl rfl rfl rfl rfl rfl rfl rfl rfl rfl rfl rfl rfl rfl)

theorem keep_stagingWrite {R : State → State → Prop} (hR : Absorbs Held R) {s0 : State} {s : State} {a1 : Nat} {a2 : List Byte} (h : R s0 s) :
    R s0 (stagingWrite s a1 a2) := by
  have hS := hR.sameOfHeld
  unfold stagingWrite
  repeat' (first
    | with_reducible assumption
    | with_reducible refine fun _ => ?_
    | split
    | with_reducible apply keep_memWrite
    | with_reducible apply keep_reportUncorr)

theorem keep_cameraFrame {R : State → State → Prop} (hR : Absorbs Held R) {s0 : State} {a0 : Stream} {a1 : Nat} {a2 : List Byte} {s : State} (h : R s0 s) :
    R s0 (cameraFrame a0 a1 a2 s) := by
  have hS := hR.sameOfHeld
  unfold cameraFrame
  repeat' (first
    | with_reducible assumption
    | with_reducible refine fun _ => ?_
    | ((try lift_lets -underBinder); with_reducible intro x; first | (refine (fun (_ : R s0 x) => ?_) ?_; clear_value x; rotate_left; unfold x; rotate_right) | (refine (fun (_ : okP R s0 x) => ?_) ?_; clear_value x; rotate_left; unfold x; rotate_right) | clear_value x)
    | split
    | with_reducible apply keep_vaPut)

theorem keep_sampleIngress {R : State → State → Prop} (hR : Absorbs Held R) {s0 : State} {a0 : Nat} {a1 : List Byte} {a2 a3 : Nat} {s : State} (h : R s0 s) :
    R s0 (sampleIngress a0 a1 a2 a3 s) := by
  have hS := hR.sameOfHeld
  unfold sampleIngress
  repeat' (first
    | with_reducible assumption
    | with_reducible refine fun _ => ?_
    | ((try lift_lets -underBinder); with_reducible intro x; first | (refine (fun (_ : R s0 x) => ?_) ?_; clear_value x; rotate_left; unfold x; rotate_right) | (refine (fun (_ : okP R s0 x) => ?_) ?_; clear_value x; rotate_left; unfold x; rotate_right) | clear_value x)
    | split
    | with_reducible apply keep_cameraFrame
    | with_reducible apply keep_finc
    | with_reducible apply keep_lateGroups
    | with_reducible apply keep_raise
    | with_reducible apply keep_stagingWrite
    | with_reducible apply keep_setStream
    | with_reducible apply keep_setReg64
    | with_reducible apply keep_fsetb
    | refine okP_get ?_ (by with_reducible assumption)
    | with_reducible refine keep_mk (by assumption) ?_ rfl rfl rfl rfl rfl rfl rfl rfl rfl rfl rfl rfl rfl rfl rfl)

theorem keep_ringIngress {R : State → State → Prop} (hR : Absorbs Held R) {s0 : State} {a0 : Nat} {s : State} (h : R s0 s) :
    R s0 (ringIngress a0 s) := by
  have hS := hR.sameOfHeld
  unfold ringIngress
  repeat' (first
    | with_reducible assumption
    | with_reducible refine fun _ => ?_
    | split
    | with_reducible apply keep_sampleIngress
    | with_reducible apply keep_modSensors
    | with_reducible refine keep_mk (by assumption) ?_ rfl rfl rfl rfl rfl rfl rfl rfl rfl rfl rfl rfl rfl rfl rfl)

theorem keep_execSampleIngress {R : State → State → Prop} (hR : Absorbs Held R) {s0 : State} {a0 : Nat} {a1 : SampleIn} {a2 : Nat} {s : State} (h : R s0 s) :
    okO R s0 (execSampleIngress a0 a1 a2 s) := by
  have hS := hR.sameOfHeld
  unfold execSampleIngress
  repeat' (first
    | with_reducible assumption
    | with_reducible refine fun _ => ?_
    | split
    | with_reducible apply okO_next
    | with_reducible apply keep_whenAlive
    | with_reducible apply keep_ringIngress
    | with_reducible apply keep_sampleIngress)

theorem keep_readSamples {R : State → State → Prop} (hR : Absorbs Same R) {s0 : State} {k : Nat} {x : Stream} :
    ∀ (l : List StreamRec) {n : Nat} {s : State}, R s0 s → okP R s0 (readSamples k x n l s) := by
  intro l
  induction l with
  | nil => intro n s h; cases n <;> exact h
  | cons r rest ih =>
    intro n s h
    cases n with
    | zero => exact h
    | succ n =>
      unfold readSamples
      dsimp only
      split
      · exact ih (keep_finc hR (keep_reportUncorr hR h))
      · exact ih h

theorem keep_bodyTurn {R : State → State → Prop} (hR : Absorbs Same R) {s0 : State} {s : State} {a1 : Nat} {a2 : Int} {a3 : Int} {a4 : Stream → List StreamRec} (h : R s0 s) :
    okP R s0 (bodyTurn s a1 a2 a3 a4) := by
  unfold bodyTurn
  repeat' (first
    | with_reducible assumption
    | with_reducible refine fun _ => ?_
    | ((try lift_lets -underBinder); with_reducible intro x; first | (refine (fun (_ : R s0 x) => ?_) ?_; clear_value x; rotate_left; unfold x; rotate_right) | (refine (fun (_ : okP R s0 x) => ?_) ?_; clear_value x; rotate_left; unfold x; rotate_right) | clear_value x)
    | split
    | with_reducible apply keep_readSamples
    | refine okP_get ?_ (by with_reducible assumption))

theorem keep_poseBytes {R : State → State → Prop} (hR : Absorbs Same R) {s0 : State} {a0 a1 : Nat} {a2 : Stream} {a3 : Int} {s : State} (h : R s0 s) :
    okP R s0 (poseBytes a0 a1 a2 a3 s) := by
  unfold poseBytes
  repeat' (first
    | with_reducible assumption
    | with_reducible refine fun _ => ?_
    | ((try lift_lets -underBinder); with_reducible intro x; first | (refine (fun (_ : R s0 x) => ?_) ?_; clear_value x; rotate_left; unfold x; rotate_right) | (refine (fun (_ : okP R s0 x) => ?_) ?_; clear_value x; rotate_left; unfold x; rotate_right) | clear_value x)
    | split
    | with_reducible apply keep_bodyTurn
    | refine okP_get ?_ (by with_reducible assumption))

theorem keep_entryValue {R : State → State → Prop} (hR : Absorbs Same R) {s0 : State} {a0 a1 : Nat} {a2 : Stream} {a3 : List (StreamRec × List Byte)} {s : State} (h : R s0 s) :
    okP R s0 (entryValue a0 a1 a2 a3 s) := by
  unfold entryValue
  repeat' (first
    | with_reducible assumption
    | with_reducible refine fun _ => ?_
    | ((try lift_lets -underBinder); with_reducible intro x; first | (refine (fun (_ : R s0 x) => ?_) ?_; clear_value x; rotate_left; unfold x; rotate_right) | (refine (fun (_ : okP R s0 x) => ?_) ?_; clear_value x; rotate_left; unfold x; rotate_right) | clear_value x)
    | split
    | with_reducible apply keep_poseBytes
    | refine okP_get ?_ (by with_reducible assumption))

theorem keep_markRead {R : State → State → Prop} (hR : Absorbs Same R) {s0 : State} {a0 : Nat} {a1 : List (StreamRec × List Byte)} {s : State} (h : R s0 s) :
    R s0 (markRead a0 a1 s) := by
  unfold markRead
  repeat' (first
    | with_reducible assumption
    | with_reducible refine fun _ => ?_
    | ((try lift_lets -underBinder); with_reducible intro x; first | (refine (fun (_ : R s0 x) => ?_) ?_; clear_value x; rotate_left; unfold x; rotate_right) | (refine (fun (_ : okP R s0 x) => ?_) ?_; clear_value x; rotate_left; unfold x; rotate_right) | clear_value x)
    | split
    | with_reducible apply keep_setStream
    | with_reducible refine keep_mk (by assumption) ?_ rfl rfl rfl rfl rfl rfl rfl rfl rfl rfl rfl rfl rfl rfl rfl)

theorem keep_dropAged {R : State → State → Prop} (hR : Absorbs Same R) {s0 : State} {a0 a1 : Nat} {s : State} (h : R s0 s) :
    R s0 (dropAged a0 a1 s) := by
  unfold dropAged
  repeat' (first
    | with_reducible assumption
    | with_reducible refine fun _ => ?_
    | ((try lift_lets -underBinder); with_reducible intro x; first | (refine (fun (_ : R s0 x) => ?_) ?_; clear_value x; rotate_left; unfold x; rotate_right) | (refine (fun (_ : okP R s0 x) => ?_) ?_; clear_value x; rotate_left; unfold x; rotate_right) | clear_value x)
    | split
    | with_reducible apply keep_setStream
    | with_reducible apply keep_fadd
    | with_reducible refine keep_mk (by assumption) ?_ rfl rfl rfl rfl rfl rfl rfl rfl rfl rfl rfl rfl rfl rfl rfl)

theorem keep_buildEntry {R : State → State → Prop} (hR : Absorbs Same R) {s0 : State} {a0 a1 a2 : Nat} {s : State} (h : R s0 s) :
    okP R s0 (buildEntry a0 a1 a2 s) := by
  unfold buildEntry
  repeat' (first
    | with_reducible assumption
    | with_reducible refine fun _ => ?_
    | ((try lift_lets -underBinder); with_reducible intro x; first | (refine (fun (_ : R s0 x) => ?_) ?_; clear_value x; rotate_left; unfold x; rotate_right) | (refine (fun (_ : okP R s0 x) => ?_) ?_; clear_value x; rotate_left; unfold x; rotate_right) | clear_value x)
    | split
    | with_reducible apply keep_readSamples
    | with_reducible apply keep_entryValue
    | with_reducible apply keep_markRead
    | refine okP_get ?_ (by with_reducible assumption))

theorem keep_skipInstant {R : State → State → Prop} (hR : Absorbs Same R) {s0 : State} {a0 : Nat} {s : State} (h : R s0 s) :
    R s0 (skipInstant a0 s) := by
  unfold skipInstant
  repeat' (first
    | with_reducible assumption
    | with_reducible refine fun _ => ?_
    | split
    | with_reducible apply keep_finc)

theorem keep_releaseRecord {R : State → State → Prop} (hR : Absorbs Held R) {s0 : State} {a0 : Nat} {s : State} (h : R s0 s) :
    R s0 (releaseRecord a0 s) := by
  have hS := hR.sameOfHeld
  unfold releaseRecord
  repeat' (first
    | with_reducible assumption
    | with_reducible refine fun _ => ?_
    | ((try lift_lets -underBinder); with_reducible intro x; first | (refine (fun (_ : R s0 x) => ?_) ?_; clear_value x; rotate_left; unfold x; rotate_right) | (refine (fun (_ : okP R s0 x) => ?_) ?_; clear_value x; rotate_left; unfold x; rotate_right) | clear_value x)
    | split
    | with_reducible apply keep_setGroup
    | with_reducible apply keep_skipInstant
    | with_reducible apply keep_vaPut
    | with_reducible apply keep_fset
    | with_reducible apply keep_raise
    | with_reducible apply keep_finc
    | with_reducible refine keep_mk (by assumption) ?_ rfl rfl rfl rfl rfl rfl rfl rfl rfl rfl rfl rfl rfl rfl rfl)

theorem keep_execFuseRecordRelease {R : State → State → Prop} (hR : Absorbs Held R) {s0 : State} {a0 : Nat} {s : State} (h : R s0 s) :
    okO R s0 (execFuseRecordRelease a0 s) := by
  have hS := hR.sameOfHeld
  unfold execFuseRecordRelease
  repeat' (first
    | with_reducible assumption
    | with_reducible refine fun _ => ?_
    | split
    | with_reducible apply okO_next
    | with_reducible apply keep_whenAlive
    | with_reducible apply keep_releaseRecord)

theorem keep_execFuseReleaseDeadline {R : State → State → Prop} (hR : Absorbs Held R) {s0 : State} {a0 : Nat} {s : State} (h : R s0 s) :
    okO R s0 (execFuseReleaseDeadline a0 s) := by
  have hS := hR.sameOfHeld
  unfold execFuseReleaseDeadline
  repeat' (first
    | with_reducible assumption
    | with_reducible refine fun _ => ?_
    | ((try lift_lets -underBinder); with_reducible intro x; first | (refine (fun (_ : R s0 x) => ?_) ?_; clear_value x; rotate_left; unfold x; rotate_right) | (refine (fun (_ : okP R s0 x) => ?_) ?_; clear_value x; rotate_left; unfold x; rotate_right) | clear_value x)
    | split
    | with_reducible apply okO_next
    | with_reducible apply keep_whenAlive
    | with_reducible apply keep_takeFree
    | with_reducible apply keep_releaseRecord
    | with_reducible apply keep_setGroup
    | refine okP_get ?_ (by with_reducible assumption)
    | with_reducible refine keep_mk (by assumption) ?_ rfl rfl rfl rfl rfl rfl rfl rfl rfl rfl rfl rfl rfl rfl rfl)

theorem keep_reportMissed {R : State → State → Prop} (hR : Absorbs Same R) {s0 : State} {a0 : Nat} {s : State} (h : R s0 s) :
    R s0 (reportMissed a0 s) := by
  unfold reportMissed
  repeat' (first
    | with_reducible assumption
    | with_reducible refine fun _ => ?_
    | ((try lift_lets -underBinder); with_reducible intro x; first | (refine (fun (_ : R s0 x) => ?_) ?_; clear_value x; rotate_left; unfold x; rotate_right) | (refine (fun (_ : okP R s0 x) => ?_) ?_; clear_value x; rotate_left; unfold x; rotate_right) | clear_value x)
    | split
    | with_reducible apply keep_forEach
    | with_reducible apply keep_raise
    | with_reducible apply keep_setGroup
    | with_reducible apply keep_foldl
    | with_reducible apply okP_foldl
    | with_reducible refine keep_mk (by assumption) ?_ rfl rfl rfl rfl rfl rfl rfl rfl rfl rfl rfl rfl rfl rfl rfl)

theorem keep_takeGroupNext {R : State → State → Prop} (hR : Absorbs Same R) {s0 : State} {a0 : Nat} {s : State} (h : R s0 s) :
    R s0 (takeGroupNext a0 s) := by
  unfold takeGroupNext
  repeat' (first
    | with_reducible assumption
    | with_reducible refine fun _ => ?_
    | ((try lift_lets -underBinder); with_reducible intro x; first | (refine (fun (_ : R s0 x) => ?_) ?_; clear_value x; rotate_left; unfold x; rotate_right) | (refine (fun (_ : okP R s0 x) => ?_) ?_; clear_value x; rotate_left; unfold x; rotate_right) | clear_value x)
    | split
    | with_reducible apply keep_setGroup
    | with_reducible refine keep_mk (by assumption) ?_ rfl rfl rfl rfl rfl rfl rfl rfl rfl rfl rfl rfl rfl rfl rfl)

theorem keep_fuseInstant {R : State → State → Prop} (hR : Absorbs Held R) {s0 : State} {a0 a1 : Nat} {s : State} (h : R s0 s) :
    R s0 (fuseInstant a0 a1 s) := by
  have hS := hR.sameOfHeld
  unfold fuseInstant
  repeat' (first
    | with_reducible assumption
    | with_reducible refine fun _ => ?_
    | ((try lift_lets -underBinder); with_reducible intro x; first | (refine (fun (_ : R s0 x) => ?_) ?_; clear_value x; rotate_left; unfold x; rotate_right) | (refine (fun (_ : okP R s0 x) => ?_) ?_; clear_value x; rotate_left; unfold x; rotate_right) | clear_value x)
    | split
    | with_reducible apply keep_takeGroupNext
    | with_reducible apply keep_releaseRecord
    | with_reducible apply keep_reportMissed
    | with_reducible apply keep_forEach
    | with_reducible apply keep_dropAged
    | with_reducible apply keep_buildEntry
    | with_reducible apply keep_setGroup
    | with_reducible apply keep_skipInstant
    | refine okP_get ?_ (by with_reducible assumption)
    | with_reducible apply keep_foldl
    | with_reducible apply okP_foldl
    | with_reducible refine keep_mk (by assumption) ?_ rfl rfl rfl rfl rfl rfl rfl rfl rfl rfl rfl rfl rfl rfl rfl)

theorem keep_raiseEpoch {R : State → State → Prop} (hR : Absorbs Same R) {s0 : State} {s : State} (h : R s0 s) :
    R s0 (raiseEpoch s) := by
  unfold raiseEpoch
  repeat' (first
    | with_reducible assumption
    | with_reducible refine fun _ => ?_
    | split
    | with_reducible apply keep_fset)

theorem keep_refineSlot {R : State → State → Prop} (hR : Absorbs Same R) {s0 : State} {a0 : Nat} {s : State} (h : R s0 s) :
    R s0 (refineSlot a0 s) := by
  unfold refineSlot
  repeat' (first
    | with_reducible assumption
    | with_reducible refine fun _ => ?_
    | ((try lift_lets -underBinder); with_reducible intro x; first | (refine (fun (_ : R s0 x) => ?_) ?_; clear_value x; rotate_left; unfold x; rotate_right) | (refine (fun (_ : okP R s0 x) => ?_) ?_; clear_value x; rotate_left; unfold x; rotate_right) | clear_value x)
    | split
    | with_reducible apply keep_raise
    | with_reducible apply keep_setExtr
    | with_reducible apply keep_raiseEpoch
    | with_reducible refine keep_mk (by assumption) ?_ rfl rfl rfl rfl rfl rfl rfl rfl rfl rfl rfl rfl rfl rfl rfl)

theorem keep_feedOne {R : State → State → Prop} (hR : Absorbs Same R) {s0 : State} {b : List Byte} {p : Nat × State} (h : okP R s0 p) :
    okP R s0 (feedOne b p) := by
  unfold feedOne
  repeat' (first
    | refine okP_get ?_ (by with_reducible assumption)
    | with_reducible assumption
    | with_reducible refine fun _ => ?_
    | ((try lift_lets -underBinder); with_reducible intro x; first | (refine (fun (_ : R s0 x) => ?_) ?_; clear_value x; rotate_left; unfold x; rotate_right) | (refine (fun (_ : okP R s0 x) => ?_) ?_; clear_value x; rotate_left; unfold x; rotate_right) | clear_value x)
    | split
    | with_reducible apply keep_bodyTurn
    | with_reducible apply keep_refineSlot
    | with_reducible apply keep_setExtr
    | refine okP_get ?_ (by with_reducible assumption)
    | with_reducible refine keep_mk (by assumption) ?_ rfl rfl rfl rfl rfl rfl rfl rfl rfl rfl rfl rfl rfl rfl rfl)

theorem keep_loadStream {R : State → State → Prop} (hR : Absorbs Same R) {s0 : State} {a0 : Nat} {a1 : List Byte} {s : State} (h : R s0 s) :
    R s0 (loadStream a0 a1 s) := by
  unfold loadStream
  repeat' (first
    | with_reducible assumption
    | with_reducible refine fun _ => ?_
    | ((try lift_lets -underBinder); with_reducible intro x; first | (refine (fun (_ : R s0 x) => ?_) ?_; clear_value x; rotate_left; unfold x; rotate_right) | (refine (fun (_ : okP R s0 x) => ?_) ?_; clear_value x; rotate_left; unfold x; rotate_right) | clear_value x)
    | split
    | with_reducible apply keep_setStream
    | with_reducible apply keep_raise
    | with_reducible refine keep_mk (by assumption) ?_ rfl rfl rfl rfl rfl rfl rfl rfl rfl rfl rfl rfl rfl rfl rfl)

theorem keep_loadGroup {R : State → State → Prop} (hR : Absorbs Same R) {s0 : State} {a0 : Nat} {a1 : List Byte} {s : State} (h : R s0 s) :
    R s0 (loadGroup a0 a1 s) := by
  unfold loadGroup
  repeat' (first
    | with_reducible assumption
    | with_reducible refine fun _ => ?_
    | ((try lift_lets -underBinder); with_reducible intro x; first | (refine (fun (_ : R s0 x) => ?_) ?_; clear_value x; rotate_left; unfold x; rotate_right) | (refine (fun (_ : okP R s0 x) => ?_) ?_; clear_value x; rotate_left; unfold x; rotate_right) | clear_value x)
    | split
    | with_reducible apply keep_setGroup
    | with_reducible apply keep_raise
    | with_reducible refine keep_mk (by assumption) ?_ rfl rfl rfl rfl rfl rfl rfl rfl rfl rfl rfl rfl rfl rfl rfl)

theorem keep_loadSlot {R : State → State → Prop} (hR : Absorbs Same R) {s0 : State} {a0 : Nat} {a1 : List Byte} {s : State} (h : R s0 s) :
    R s0 (loadSlot a0 a1 s) := by
  unfold loadSlot
  repeat' (first
    | with_reducible assumption
    | with_reducible refine fun _ => ?_
    | ((try lift_lets -underBinder); with_reducible intro x; first | (refine (fun (_ : R s0 x) => ?_) ?_; clear_value x; rotate_left; unfold x; rotate_right) | (refine (fun (_ : okP R s0 x) => ?_) ?_; clear_value x; rotate_left; unfold x; rotate_right) | clear_value x)
    | split
    | with_reducible apply keep_raiseEpoch
    | with_reducible apply keep_setExtr
    | with_reducible refine keep_mk (by assumption) ?_ rfl rfl rfl rfl rfl rfl rfl rfl rfl rfl rfl rfl rfl rfl rfl)

theorem keep_startStream {R : State → State → Prop} (hR : Absorbs Same R) {s0 : State} {a0 : Nat} {s : State} (h : R s0 s) :
    R s0 (startStream a0 s) := by
  unfold startStream
  repeat' (first
    | with_reducible assumption
    | with_reducible refine fun _ => ?_
    | ((try lift_lets -underBinder); with_reducible intro x; first | (refine (fun (_ : R s0 x) => ?_) ?_; clear_value x; rotate_left; unfold x; rotate_right) | (refine (fun (_ : okP R s0 x) => ?_) ?_; clear_value x; rotate_left; unfold x; rotate_right) | clear_value x)
    | split
    | with_reducible apply keep_setStream
    | with_reducible apply keep_setReg64
    | with_reducible apply keep_fsetb
    | with_reducible refine keep_mk (by assumption) ?_ rfl rfl rfl rfl rfl rfl rfl rfl rfl rfl rfl rfl rfl rfl rfl)

theorem keep_stopStream {R : State → State → Prop} (hR : Absorbs Same R) {s0 : State} {a0 : Nat} {s : State} (h : R s0 s) :
    R s0 (stopStream a0 s) := by
  unfold stopStream
  repeat' (first
    | with_reducible assumption
    | with_reducible refine fun _ => ?_
    | ((try lift_lets -underBinder); with_reducible intro x; first | (refine (fun (_ : R s0 x) => ?_) ?_; clear_value x; rotate_left; unfold x; rotate_right) | (refine (fun (_ : okP R s0 x) => ?_) ?_; clear_value x; rotate_left; unfold x; rotate_right) | clear_value x)
    | split
    | with_reducible apply keep_fsetb
    | with_reducible apply keep_modSensors
    | with_reducible apply keep_setStream
    | with_reducible refine keep_mk (by assumption) ?_ rfl rfl rfl rfl rfl rfl rfl rfl rfl rfl rfl rfl rfl rfl rfl)

theorem keep_streamsEngine {R : State → State → Prop} (hR : Absorbs Same R) {s0 s : State} {q : Nat} {f : Nat → State → State} {c : QCmd}
    (h : R s0 s) (hf : ∀ i s, R s0 s → R s0 (f i s)) : okV R s0 (streamsEngine q f c s) := by
  unfold streamsEngine
  repeat' (first
    | with_reducible apply hf
    | with_reducible apply keep_forEach
    | with_reducible assumption
    | with_reducible refine fun _ => ?_
    | ((try lift_lets -underBinder); with_reducible intro x; first | (refine (fun (_ : R s0 x) => ?_) ?_; clear_value x; rotate_left; unfold x; rotate_right) | (refine (fun (_ : okP R s0 x) => ?_) ?_; clear_value x; rotate_left; unfold x; rotate_right) | clear_value x)
    | split
    | with_reducible apply okV_done
    | with_reducible apply okV_wait
    | with_reducible apply keep_invalid
    | with_reducible apply keep_okay
    | with_reducible apply keep_forEach
    | refine okV_get_done ?_ (by with_reducible assumption)
    | refine okV_get_wait ?_ (by with_reducible assumption))

theorem keep_execStreamStart {R : State → State → Prop} (hR : Absorbs Same R) {s0 : State} {a0 a1 : Nat} {s : State} (h : R s0 s) :
    okO R s0 (execStreamStart a0 a1 s) := by
  unfold execStreamStart
  repeat' (first
    | with_reducible assumption
    | with_reducible refine fun _ => ?_
    | split
    | with_reducible apply okO_next
    | with_reducible apply keep_runEngine
    | with_reducible apply keep_streamsEngine
    | with_reducible apply keep_startStream)

theorem keep_execStreamStop {R : State → State → Prop} (hR : Absorbs Same R) {s0 : State} {a0 a1 : Nat} {s : State} (h : R s0 s) :
    okO R s0 (execStreamStop a0 a1 s) := by
  unfold execStreamStop
  repeat' (first
    | with_reducible assumption
    | with_reducible refine fun _ => ?_
    | split
    | with_reducible apply okO_next
    | with_reducible apply keep_runEngine
    | with_reducible apply keep_streamsEngine
    | with_reducible apply keep_stopStream)

theorem keep_sampleReadEngine {R : State → State → Prop} (hR : Absorbs Held R) {s0 : State} {a0 : Nat} {a1 : QCmd} {s : State} (h : R s0 s) :
    okV R s0 (sampleReadEngine a0 a1 s) := by
  have hS := hR.sameOfHeld
  unfold sampleReadEngine
  repeat' (first
    | with_reducible assumption
    | with_reducible refine fun _ => ?_
    | ((try lift_lets -underBinder); with_reducible intro x; first | (refine (fun (_ : R s0 x) => ?_) ?_; clear_value x; rotate_left; unfold x; rotate_right) | (refine (fun (_ : okP R s0 x) => ?_) ?_; clear_value x; rotate_left; unfold x; rotate_right) | clear_value x)
    | split
    | with_reducible apply okV_done
    | with_reducible apply okV_wait
    | with_reducible apply keep_invalid
    | with_reducible apply keep_failOperand
    | with_reducible apply keep_opWrite
    | with_reducible apply keep_okay
    | refine okE_get ?_ (by with_reducible assumption)
    | refine okV_get_done ?_ (by with_reducible assumption)
    | refine okV_get_wait ?_ (by with_reducible assumption))

theorem keep_execSampleRead {R : State → State → Prop} (hR : Absorbs Held R) {s0 : State} {a0 a1 : Nat} {s : State} (h : R s0 s) :
    okO R s0 (execSampleRead a0 a1 s) := by
  have hS := hR.sameOfHeld
  unfold execSampleRead
  repeat' (first
    | with_reducible assumption
    | with_reducible refine fun _ => ?_
    | split
    | with_reducible apply okO_next
    | with_reducible apply keep_runEngine
    | with_reducible apply keep_sampleReadEngine)

theorem keep_calibFeedEngine {R : State → State → Prop} (hR : Absorbs Held R) {s0 : State} {a0 : Nat} {a1 : QCmd} {s : State} (h : R s0 s) :
    okV R s0 (calibFeedEngine a0 a1 s) := by
  have hS := hR.sameOfHeld
  unfold calibFeedEngine
  repeat' (first
    | with_reducible assumption
    | with_reducible refine fun _ => ?_
    | ((try lift_lets -underBinder); with_reducible intro x; first | (refine (fun (_ : R s0 x) => ?_) ?_; clear_value x; rotate_left; unfold x; rotate_right) | (refine (fun (_ : okP R s0 x) => ?_) ?_; clear_value x; rotate_left; unfold x; rotate_right) | clear_value x)
    | split
    | with_reducible apply okV_done
    | with_reducible apply okV_wait
    | with_reducible apply keep_invalid
    | with_reducible apply keep_failOperand
    | with_reducible apply keep_feedOne
    | with_reducible apply keep_okay
    | refine okP_get ?_ (by with_reducible assumption)
    | refine okV_get_done ?_ (by with_reducible assumption)
    | refine okV_get_wait ?_ (by with_reducible assumption)
    | with_reducible apply keep_foldl
    | with_reducible apply okP_foldl)

theorem keep_execCalibFeed {R : State → State → Prop} (hR : Absorbs Held R) {s0 : State} {a0 a1 : Nat} {s : State} (h : R s0 s) :
    okO R s0 (execCalibFeed a0 a1 s) := by
  have hS := hR.sameOfHeld
  unfold execCalibFeed
  repeat' (first
    | with_reducible assumption
    | with_reducible refine fun _ => ?_
    | split
    | with_reducible apply okO_next
    | with_reducible apply keep_runEngine
    | with_reducible apply keep_calibFeedEngine)

theorem keep_calibSetEngine {R : State → State → Prop} (hR : Absorbs Held R) {s0 : State} {a0 : Nat} {a1 : QCmd} {s : State} (h : R s0 s) :
    okV R s0 (calibSetEngine a0 a1 s) := by
  have hS := hR.sameOfHeld
  unfold calibSetEngine
  repeat' (first
    | with_reducible assumption
    | with_reducible refine fun _ => ?_
    | ((try lift_lets -underBinder); with_reducible intro x; first | (refine (fun (_ : R s0 x) => ?_) ?_; clear_value x; rotate_left; unfold x; rotate_right) | (refine (fun (_ : okP R s0 x) => ?_) ?_; clear_value x; rotate_left; unfold x; rotate_right) | clear_value x)
    | split
    | with_reducible apply okV_done
    | with_reducible apply okV_wait
    | with_reducible apply keep_invalid
    | with_reducible apply keep_failOperand
    | with_reducible apply keep_okay
    | with_reducible apply keep_raiseEpoch
    | with_reducible apply keep_forEach
    | with_reducible apply keep_setExtr
    | refine okV_get_done ?_ (by with_reducible assumption)
    | refine okV_get_wait ?_ (by with_reducible assumption)
    | with_reducible refine keep_mk (by assumption) ?_ rfl rfl rfl rfl rfl rfl rfl rfl rfl rfl rfl rfl rfl rfl rfl)

theorem keep_execCalibSet {R : State → State → Prop} (hR : Absorbs Held R) {s0 : State} {a0 a1 : Nat} {s : State} (h : R s0 s) :
    okO R s0 (execCalibSet a0 a1 s) := by
  have hS := hR.sameOfHeld
  unfold execCalibSet
  repeat' (first
    | with_reducible assumption
    | with_reducible refine fun _ => ?_
    | split
    | with_reducible apply okO_next
    | with_reducible apply keep_runEngine
    | with_reducible apply keep_calibSetEngine)

theorem keep_calibReadEngine {R : State → State → Prop} (hR : Absorbs Held R) {s0 : State} {a0 : Nat} {a1 : QCmd} {s : State} (h : R s0 s) :
    okV R s0 (calibReadEngine a0 a1 s) := by
  have hS := hR.sameOfHeld
  unfold calibReadEngine
  repeat' (first
    | with_reducible assumption
    | with_reducible refine fun _ => ?_
    | ((try lift_lets -underBinder); with_reducible intro x; first | (refine (fun (_ : R s0 x) => ?_) ?_; clear_value x; rotate_left; unfold x; rotate_right) | (refine (fun (_ : okP R s0 x) => ?_) ?_; clear_value x; rotate_left; unfold x; rotate_right) | clear_value x)
    | split
    | with_reducible apply okV_done
    | with_reducible apply okV_wait
    | with_reducible apply keep_invalid
    | with_reducible apply keep_opWrite
    | with_reducible apply keep_failOperand
    | with_reducible apply keep_okay
    | refine okE_get ?_ (by with_reducible assumption)
    | refine okV_get_done ?_ (by with_reducible assumption)
    | refine okV_get_wait ?_ (by with_reducible assumption))

theorem keep_execCalibRead {R : State → State → Prop} (hR : Absorbs Held R) {s0 : State} {a0 a1 : Nat} {s : State} (h : R s0 s) :
    okO R s0 (execCalibRead a0 a1 s) := by
  have hS := hR.sameOfHeld
  unfold execCalibRead
  repeat' (first
    | with_reducible assumption
    | with_reducible refine fun _ => ?_
    | split
    | with_reducible apply okO_next
    | with_reducible apply keep_runEngine
    | with_reducible apply keep_calibReadEngine)

end Sys2Proof.Machine
end

