-- ==== Sys2Proof/Laws/KeepVetch.lean ====
section
/-! SUPPORT. What the operations of Machine/Vetch.lean keep. -/

namespace Sys2Proof.Machine

theorem keep_modVetch {R : State → State → Prop} (hR : Absorbs Same R) {s0 : State} {s : State} {a1 : Vetch → Vetch} (h : R s0 s) :
    R s0 (modVetch s a1) := by
  unfold modVetch
  repeat' (first
    | with_reducible assumption
    | with_reducible refine fun _ => ?_
    | split
    | with_reducible refine keep_mk (by assumption) ?_ rfl rfl rfl rfl rfl rfl rfl rfl rfl rfl rfl rfl rfl rfl rfl)

theorem keep_planEvent {R : State → State → Prop} (hR : Absorbs Same R) {s0 : State} {s : State} {a1 : Nat} {a2 : List Byte} (h : R s0 s) :
    R s0 (planEvent s a1 a2) := by
  unfold planEvent
  repeat' (first
    | with_reducible assumption
    | with_reducible refine fun _ => ?_
    | split
    | with_reducible apply keep_raiseCtx)

theorem keep_mapUnread {R : State → State → Prop} (hR : Absorbs Same R) {s0 : State} {s : State} (h : R s0 s) :
    okMP R s0 (mapUnread s) := by
  unfold mapUnread
  repeat' (first
    | with_reducible assumption
    | with_reducible refine fun _ => ?_
    | ((try lift_lets -underBinder); with_reducible intro x; first | (refine (fun (_ : R s0 x) => ?_) ?_; clear_value x; rotate_left; unfold x; rotate_right) | (refine (fun (_ : okP R s0 x) => ?_) ?_; clear_value x; rotate_left; unfold x; rotate_right) | clear_value x)
    | split
    | exact okMP_none
    | with_reducible apply okMP_map
    | with_reducible apply okMP_some
    | with_reducible apply keep_takeFree
    | refine okP_get ?_ (by with_reducible assumption))

theorem keep_unpin {R : State → State → Prop} (hR : Absorbs Same R) {s0 : State} {s : State} {a1 a2 : Nat} (h : R s0 s) :
    R s0 (unpin s a1 a2) := by
  unfold unpin
  repeat' (first
    | with_reducible assumption
    | with_reducible refine fun _ => ?_
    | split
    | with_reducible apply keep_modVetch
    | with_reducible refine keep_mk (by assumption) ?_ rfl rfl rfl rfl rfl rfl rfl rfl rfl rfl rfl rfl rfl rfl rfl)

theorem keep_planGate {R : State → State → Prop} (hR : Absorbs Held R) {s0 s : State} {q : Nat} {c : QCmd} {m : Bool}
    {k : Verdict} (h : R s0 s) (hk : okV R s0 k) : okV R s0 (planGate q c m s k) := by
  have hS := hR.sameOfHeld
  unfold planGate
  repeat' (first
    | with_reducible assumption
    | with_reducible refine fun _ => ?_
    | split
    | with_reducible apply okV_done
    | with_reducible apply okV_wait
    | with_reducible apply keep_refuse
    | with_reducible apply keep_unpin
    | with_reducible apply keep_mapUnread
    | with_reducible apply keep_failAccess
    | refine okMP_get ?_ (by with_reducible assumption)
    | refine okV_get_done ?_ (by with_reducible assumption)
    | refine okV_get_wait ?_ (by with_reducible assumption))

theorem keep_mapUpdateEngine {R : State → State → Prop} (hR : Absorbs Held R) {s0 : State} {a0 : Nat} {a1 : QCmd} {s : State} (h : R s0 s) :
    okV R s0 (mapUpdateEngine a0 a1 s) := by
  have hS := hR.sameOfHeld
  unfold mapUpdateEngine
  repeat' (first
    | with_reducible assumption
    | with_reducible refine fun _ => ?_
    | ((try lift_lets -underBinder); with_reducible intro x; first | (refine (fun (_ : R s0 x) => ?_) ?_; clear_value x; rotate_left; unfold x; rotate_right) | (refine (fun (_ : okP R s0 x) => ?_) ?_; clear_value x; rotate_left; unfold x; rotate_right) | clear_value x)
    | split
    | with_reducible apply okV_done
    | with_reducible apply okV_wait
    | with_reducible apply keep_planGate
    | with_reducible apply keep_invalid
    | with_reducible apply keep_failElement
    | with_reducible apply keep_noResource
    | with_reducible apply keep_planEvent
    | with_reducible apply keep_okay
    | with_reducible apply keep_modVetch
    | refine okV_get_done ?_ (by with_reducible assumption)
    | refine okV_get_wait ?_ (by with_reducible assumption)
    | with_reducible apply keep_foldl
    | with_reducible apply okP_foldl
    | with_reducible refine keep_mk (by assumption) ?_ rfl rfl rfl rfl rfl rfl rfl rfl rfl rfl rfl rfl rfl rfl rfl)

theorem keep_execMapUpdate {R : State → State → Prop} (hR : Absorbs Held R) {s0 : State} {a0 a1 : Nat} {s : State} (h : R s0 s) :
    okO R s0 (execMapUpdate a0 a1 s) := by
  have hS := hR.sameOfHeld
  unfold execMapUpdate
  repeat' (first
    | with_reducible assumption
    | with_reducible refine fun _ => ?_
    | split
    | with_reducible apply okO_next
    | with_reducible apply keep_runEngine
    | with_reducible apply keep_mapUpdateEngine)

theorem keep_publishMap {R : State → State → Prop} (hR : Absorbs Same R) {s0 : State} {a0 : Nat} {s : State} (h : R s0 s) :
    R s0 (publishMap a0 s) := by
  unfold publishMap
  repeat' (first
    | with_reducible assumption
    | with_reducible refine fun _ => ?_
    | ((try lift_lets -underBinder); with_reducible intro x; first | (refine (fun (_ : R s0 x) => ?_) ?_; clear_value x; rotate_left; unfold x; rotate_right) | (refine (fun (_ : okP R s0 x) => ?_) ?_; clear_value x; rotate_left; unfold x; rotate_right) | clear_value x)
    | split
    | with_reducible apply keep_modVetch
    | with_reducible apply keep_setReg64
    | with_reducible apply keep_fset
    | with_reducible apply keep_forRange
    | with_reducible refine keep_mk (by assumption) ?_ rfl rfl rfl rfl rfl rfl rfl rfl rfl rfl rfl rfl rfl rfl rfl)

theorem keep_mapPublishEngine {R : State → State → Prop} (hR : Absorbs Held R) {s0 : State} {a0 : Nat} {a1 : QCmd} {s : State} (h : R s0 s) :
    okV R s0 (mapPublishEngine a0 a1 s) := by
  have hS := hR.sameOfHeld
  unfold mapPublishEngine
  repeat' (first
    | with_reducible assumption
    | with_reducible refine fun _ => ?_
    | split
    | with_reducible apply okV_done
    | with_reducible apply okV_wait
    | with_reducible apply keep_planGate
    | with_reducible apply keep_invalid
    | with_reducible apply keep_okay
    | with_reducible apply keep_publishMap)

theorem keep_execMapPublish {R : State → State → Prop} (hR : Absorbs Held R) {s0 : State} {a0 a1 : Nat} {s : State} (h : R s0 s) :
    okO R s0 (execMapPublish a0 a1 s) := by
  have hS := hR.sameOfHeld
  unfold execMapPublish
  repeat' (first
    | with_reducible assumption
    | with_reducible refine fun _ => ?_
    | split
    | with_reducible apply okO_next
    | with_reducible apply keep_runEngine
    | with_reducible apply keep_mapPublishEngine)

theorem keep_libLoadEngine {R : State → State → Prop} (hR : Absorbs Held R) {s0 : State} {a0 : Nat} {a1 : QCmd} {s : State} (h : R s0 s) :
    okV R s0 (libLoadEngine a0 a1 s) := by
  have hS := hR.sameOfHeld
  unfold libLoadEngine
  repeat' (first
    | with_reducible assumption
    | with_reducible refine fun _ => ?_
    | ((try lift_lets -underBinder); with_reducible intro x; first | (refine (fun (_ : R s0 x) => ?_) ?_; clear_value x; rotate_left; unfold x; rotate_right) | (refine (fun (_ : okP R s0 x) => ?_) ?_; clear_value x; rotate_left; unfold x; rotate_right) | clear_value x)
    | split
    | with_reducible apply okV_done
    | with_reducible apply okV_wait
    | with_reducible apply keep_planGate
    | with_reducible apply keep_invalid
    | with_reducible apply keep_failAccess
    | with_reducible apply keep_planEvent
    | with_reducible apply keep_noResource
    | with_reducible apply keep_okay
    | with_reducible apply keep_modVetch
    | with_reducible apply keep_fsetb
    | with_reducible apply keep_memWrite
    | refine okV_get_done ?_ (by with_reducible assumption)
    | refine okV_get_wait ?_ (by with_reducible assumption)
    | with_reducible refine keep_mk (by assumption) ?_ rfl rfl rfl rfl rfl rfl rfl rfl rfl rfl rfl rfl rfl rfl rfl)

theorem keep_execLibLoad {R : State → State → Prop} (hR : Absorbs Held R) {s0 : State} {a0 a1 : Nat} {s : State} (h : R s0 s) :
    okO R s0 (execLibLoad a0 a1 s) := by
  have hS := hR.sameOfHeld
  unfold execLibLoad
  repeat' (first
    | with_reducible assumption
    | with_reducible refine fun _ => ?_
    | split
    | with_reducible apply okO_next
    | with_reducible apply keep_runEngine
    | with_reducible apply keep_libLoadEngine)

theorem keep_endQuery {R : State → State → Prop} (hR : Absorbs Same R) {s0 : State} {a0 : Nat} {a1 : QCmd} {a2 a3 a4 a5 : Nat} {s : State} (h : R s0 s) :
    okV R s0 (endQuery a0 a1 a2 a3 a4 a5 s) := by
  unfold endQuery
  repeat' (first
    | with_reducible assumption
    | with_reducible refine fun _ => ?_
    | ((try lift_lets -underBinder); with_reducible intro x; first | (refine (fun (_ : R s0 x) => ?_) ?_; clear_value x; rotate_left; unfold x; rotate_right) | (refine (fun (_ : okP R s0 x) => ?_) ?_; clear_value x; rotate_left; unfold x; rotate_right) | clear_value x)
    | split
    | with_reducible apply okV_done
    | with_reducible apply okV_wait
    | with_reducible apply keep_unpin
    | with_reducible apply keep_finc
    | with_reducible apply keep_planEvent)

theorem keep_deadlineTests {R : State → State → Prop} (hR : Absorbs Same R) {s0 : State} {s : State} {a1 : QCmd} {a2 : Nat} (h : R s0 s) :
    okP R s0 (deadlineTests s a1 a2) := by
  unfold deadlineTests
  repeat' (first
    | with_reducible assumption
    | with_reducible refine fun _ => ?_
    | ((try lift_lets -underBinder); with_reducible intro x; first | (refine (fun (_ : R s0 x) => ?_) ?_; clear_value x; rotate_left; unfold x; rotate_right) | (refine (fun (_ : okP R s0 x) => ?_) ?_; clear_value x; rotate_left; unfold x; rotate_right) | clear_value x)
    | split
    | with_reducible apply keep_takeFree
    | refine okP_get ?_ (by with_reducible assumption))

theorem keep_writeResult {R : State → State → Prop} (hR : Absorbs Held R) {s0 s : State} {q : Nat} {c : QCmd} {va : Nat} {bs : List Byte}
    {k : State → Verdict} (h : R s0 s) (hk : ∀ s, R s0 s → okV R s0 (k s)) : okV R s0 (writeResult q c va bs s k) := by
  have hS := hR.sameOfHeld
  unfold writeResult
  repeat' (first
    | with_reducible apply hk
    | with_reducible assumption
    | with_reducible refine fun _ => ?_
    | split
    | with_reducible apply okV_done
    | with_reducible apply okV_wait
    | with_reducible apply keep_opWrite
    | with_reducible apply keep_failAccess
    | refine okE_get ?_ (by with_reducible assumption)
    | refine okV_get_done ?_ (by with_reducible assumption)
    | refine okV_get_wait ?_ (by with_reducible assumption))

theorem keep_endSearch {R : State → State → Prop} (hR : Absorbs Held R) {s0 : State} {a0 : Nat} {a1 : QCmd} {a2 : List Byte} {a3 a4 a5 a6 : Nat} {a7 : Node} {a8 : Search} {s : State} (h : R s0 s) :
    okV R s0 (endSearch a0 a1 a2 a3 a4 a5 a6 a7 a8 s) := by
  have hS := hR.sameOfHeld
  unfold endSearch
  repeat' (first
    | with_reducible assumption
    | with_reducible refine fun _ => ?_
    | ((try lift_lets -underBinder); with_reducible intro x; first | (refine (fun (_ : R s0 x) => ?_) ?_; clear_value x; rotate_left; unfold x; rotate_right) | (refine (fun (_ : okP R s0 x) => ?_) ?_; clear_value x; rotate_left; unfold x; rotate_right) | clear_value x)
    | split
    | with_reducible apply okV_done
    | with_reducible apply okV_wait
    | with_reducible apply keep_planEvent
    | with_reducible apply keep_fadd
    | with_reducible apply keep_writeResult
    | with_reducible apply keep_endQuery)

theorem keep_runQuery {R : State → State → Prop} (hR : Absorbs Held R) {s0 : State} {a0 : Nat} {a1 : QCmd} {a2 : List Byte} {s : State} (h : R s0 s) :
    okV R s0 (runQuery a0 a1 a2 s) := by
  have hS := hR.sameOfHeld
  unfold runQuery
  repeat' (first
    | with_reducible assumption
    | with_reducible refine fun _ => ?_
    | ((try lift_lets -underBinder); with_reducible intro x; first | (refine (fun (_ : R s0 x) => ?_) ?_; clear_value x; rotate_left; unfold x; rotate_right) | (refine (fun (_ : okP R s0 x) => ?_) ?_; clear_value x; rotate_left; unfold x; rotate_right) | clear_value x)
    | split
    | with_reducible apply okV_done
    | with_reducible apply okV_wait
    | with_reducible apply keep_failAccess
    | with_reducible apply keep_endSearch
    | with_reducible apply keep_planEvent
    | with_reducible apply keep_deadlineTests
    | with_reducible apply keep_unpin
    | refine okP_get ?_ (by with_reducible assumption)
    | refine okV_get_done ?_ (by with_reducible assumption)
    | refine okV_get_wait ?_ (by with_reducible assumption)
    | with_reducible refine keep_mk (by assumption) ?_ rfl rfl rfl rfl rfl rfl rfl rfl rfl rfl rfl rfl rfl rfl rfl)

theorem keep_queryChecked {R : State → State → Prop} (hR : Absorbs Held R) {s0 s : State} {q : Nat} {c : QCmd} {used : List (Nat × Nat)}
    {result bytes : Nat} {k : List Byte → State → Verdict} (h : R s0 s) (hk : ∀ r s, R s0 s → okV R s0 (k r s)) :
    okV R s0 (queryChecked q c used result bytes s k) := by
  have hS := hR.sameOfHeld
  unfold queryChecked
  repeat' (first
    | with_reducible apply hk
    | with_reducible assumption
    | with_reducible refine fun _ => ?_
    | split
    | with_reducible apply okV_done
    | with_reducible apply okV_wait
    | with_reducible apply keep_planGate
    | with_reducible apply keep_invalid
    | with_reducible apply keep_unpin
    | with_reducible apply keep_failAccess
    | refine okV_get_done ?_ (by with_reducible assumption)
    | refine okV_get_wait ?_ (by with_reducible assumption))

theorem keep_planQueryEngine {R : State → State → Prop} (hR : Absorbs Held R) {s0 : State} {a0 : Nat} {a1 : QCmd} {s : State} (h : R s0 s) :
    okV R s0 (planQueryEngine a0 a1 s) := by
  have hS := hR.sameOfHeld
  unfold planQueryEngine
  repeat' (first
    | with_reducible assumption
    | with_reducible refine fun _ => ?_
    | split
    | with_reducible apply okV_done
    | with_reducible apply okV_wait
    | with_reducible apply keep_queryChecked
    | with_reducible apply keep_runQuery)

theorem keep_execPlanQuery {R : State → State → Prop} (hR : Absorbs Held R) {s0 : State} {a0 a1 : Nat} {s : State} (h : R s0 s) :
    okO R s0 (execPlanQuery a0 a1 s) := by
  have hS := hR.sameOfHeld
  unfold execPlanQuery
  repeat' (first
    | with_reducible assumption
    | with_reducible refine fun _ => ?_
    | split
    | with_reducible apply okO_next
    | with_reducible apply keep_runEngine
    | with_reducible apply keep_planQueryEngine)

theorem keep_endCheck {R : State → State → Prop} (hR : Absorbs Held R) {s0 : State} {a0 : Nat} {a1 : QCmd} {a2 : List Byte} {a3 a4 a5 a6 a7 : Nat} {a8 : Node} {a9 : Search} {s : State} (h : R s0 s) :
    okV R s0 (endCheck a0 a1 a2 a3 a4 a5 a6 a7 a8 a9 s) := by
  have hS := hR.sameOfHeld
  unfold endCheck
  repeat' (first
    | with_reducible assumption
    | with_reducible refine fun _ => ?_
    | split
    | with_reducible apply okV_done
    | with_reducible apply okV_wait
    | with_reducible apply keep_writeResult
    | with_reducible apply keep_endQuery)

theorem keep_planCheckEngine {R : State → State → Prop} (hR : Absorbs Held R) {s0 : State} {a0 : Nat} {a1 : QCmd} {s : State} (h : R s0 s) :
    okV R s0 (planCheckEngine a0 a1 s) := by
  have hS := hR.sameOfHeld
  unfold planCheckEngine
  repeat' (first
    | with_reducible assumption
    | with_reducible refine fun _ => ?_
    | ((try lift_lets -underBinder); with_reducible intro x; first | (refine (fun (_ : R s0 x) => ?_) ?_; clear_value x; rotate_left; unfold x; rotate_right) | (refine (fun (_ : okP R s0 x) => ?_) ?_; clear_value x; rotate_left; unfold x; rotate_right) | clear_value x)
    | split
    | with_reducible apply okV_done
    | with_reducible apply okV_wait
    | with_reducible apply keep_queryChecked
    | with_reducible apply keep_failElement
    | with_reducible apply keep_unpin
    | with_reducible apply keep_invalid
    | with_reducible apply keep_failAccess
    | with_reducible apply keep_endCheck
    | with_reducible apply keep_planEvent
    | refine okV_get_done ?_ (by with_reducible assumption)
    | refine okV_get_wait ?_ (by with_reducible assumption)
    | with_reducible refine keep_mk (by assumption) ?_ rfl rfl rfl rfl rfl rfl rfl rfl rfl rfl rfl rfl rfl rfl rfl)

theorem keep_execPlanCheck {R : State → State → Prop} (hR : Absorbs Held R) {s0 : State} {a0 a1 : Nat} {s : State} (h : R s0 s) :
    okO R s0 (execPlanCheck a0 a1 s) := by
  have hS := hR.sameOfHeld
  unfold execPlanCheck
  repeat' (first
    | with_reducible assumption
    | with_reducible refine fun _ => ?_
    | split
    | with_reducible apply okO_next
    | with_reducible apply keep_runEngine
    | with_reducible apply keep_planCheckEngine)

theorem keep_vetchReplace {R : State → State → Prop} (hR : Absorbs Same R) {s0 : State} {s : State} (h : R s0 s) :
    R s0 (vetchReplace s) := by
  unfold vetchReplace
  repeat' (first
    | with_reducible assumption
    | with_reducible refine fun _ => ?_
    | ((try lift_lets -underBinder); with_reducible intro x; first | (refine (fun (_ : R s0 x) => ?_) ?_; clear_value x; rotate_left; unfold x; rotate_right) | (refine (fun (_ : okP R s0 x) => ?_) ?_; clear_value x; rotate_left; unfold x; rotate_right) | clear_value x)
    | split
    | with_reducible apply keep_forEach
    | with_reducible apply keep_completeCmd
    | with_reducible apply keep_vetchDiscard)

end Sys2Proof.Machine
end

