-- ==== Sys2Proof/Laws/KeepLinks.lean ====
section
/-! SUPPORT. What the operations of Machine/Links.lean keep. -/

namespace Sys2Proof.Machine

theorem keep_modLinks {R : State → State → Prop} (hR : Absorbs Same R) {s0 : State} {s : State} {a1 : Links → Links} (h : R s0 s) :
    R s0 (modLinks s a1) := by
  unfold modLinks
  repeat' (first
    | with_reducible assumption
    | with_reducible refine fun _ => ?_
    | split
    | with_reducible refine keep_mk (by assumption) ?_ rfl rfl rfl rfl rfl rfl rfl rfl rfl rfl rfl rfl rfl rfl rfl)

theorem keep_setLport {R : State → State → Prop} (hR : Absorbs Same R) {s0 : State} {s : State} {a1 : Nat} {a2 : LPort} (h : R s0 s) :
    R s0 (setLport s a1 a2) := by
  unfold setLport
  repeat' (first
    | with_reducible assumption
    | with_reducible refine fun _ => ?_
    | split
    | with_reducible apply keep_modLinks
    | with_reducible refine keep_mk (by assumption) ?_ rfl rfl rfl rfl rfl rfl rfl rfl rfl rfl rfl rfl rfl rfl rfl)

theorem keep_setLinkState {R : State → State → Prop} (hR : Absorbs Same R) {s0 : State} {s : State} {a1 a2 : Nat} (h : R s0 s) :
    R s0 (setLinkState s a1 a2) := by
  unfold setLinkState
  repeat' (first
    | with_reducible assumption
    | with_reducible refine fun _ => ?_
    | split
    | with_reducible apply keep_fset)

theorem keep_emit {R : State → State → Prop} (hR : Absorbs Same R) {s0 : State} {s : State} {a1 : Wire} (h : R s0 s) :
    R s0 (emit s a1) := by
  unfold emit
  repeat' (first
    | with_reducible assumption
    | with_reducible refine fun _ => ?_
    | split
    | with_reducible refine keep_mk (by assumption) ?_ rfl rfl rfl rfl rfl rfl rfl rfl rfl rfl rfl rfl rfl rfl rfl)

theorem keep_loseCommands {R : State → State → Prop} (hR : Absorbs Same R) {s0 : State} {a0 : Nat} {s : State} (h : R s0 s) :
    R s0 (loseCommands a0 s) := by
  unfold loseCommands
  repeat' (first
    | with_reducible assumption
    | with_reducible refine fun _ => ?_
    | ((try lift_lets -underBinder); with_reducible intro x; first | (refine (fun (_ : R s0 x) => ?_) ?_; clear_value x; rotate_left; unfold x; rotate_right) | (refine (fun (_ : okP R s0 x) => ?_) ?_; clear_value x; rotate_left; unfold x; rotate_right) | clear_value x)
    | split
    | with_reducible apply keep_forEach
    | with_reducible apply keep_completeCmd
    | with_reducible refine keep_mk (by assumption) ?_ rfl rfl rfl rfl rfl rfl rfl rfl rfl rfl rfl rfl rfl rfl rfl)

theorem keep_loseBarrier {R : State → State → Prop} (hR : Absorbs Same R) {s0 : State} {a0 a1 : Nat} {s : State} (h : R s0 s) :
    R s0 (loseBarrier a0 a1 s) := by
  unfold loseBarrier
  repeat' (first
    | with_reducible assumption
    | with_reducible refine fun _ => ?_
    | ((try lift_lets -underBinder); with_reducible intro x; first | (refine (fun (_ : R s0 x) => ?_) ?_; clear_value x; rotate_left; unfold x; rotate_right) | (refine (fun (_ : okP R s0 x) => ?_) ?_; clear_value x; rotate_left; unfold x; rotate_right) | clear_value x)
    | split
    | with_reducible apply keep_forEach
    | with_reducible apply keep_markRemote
    | with_reducible apply keep_setBarrier
    | with_reducible refine keep_mk (by assumption) ?_ rfl rfl rfl rfl rfl rfl rfl rfl rfl rfl rfl rfl rfl rfl rfl)

theorem keep_declareLost {R : State → State → Prop} (hR : Absorbs Same R) {s0 : State} {a0 a1 a2 : Nat} {s : State} (h : R s0 s) :
    R s0 (declareLost a0 a1 a2 s) := by
  unfold declareLost
  repeat' (first
    | with_reducible assumption
    | with_reducible refine fun _ => ?_
    | ((try lift_lets -underBinder); with_reducible intro x; first | (refine (fun (_ : R s0 x) => ?_) ?_; clear_value x; rotate_left; unfold x; rotate_right) | (refine (fun (_ : okP R s0 x) => ?_) ?_; clear_value x; rotate_left; unfold x; rotate_right) | clear_value x)
    | split
    | with_reducible apply keep_fset
    | with_reducible apply keep_raise
    | with_reducible apply keep_forRange
    | with_reducible apply keep_loseBarrier
    | with_reducible apply keep_forgetPeer
    | with_reducible apply keep_loseCommands)

theorem keep_leaveJob {R : State → State → Prop} (hR : Absorbs Same R) {s0 : State} {a0 a1 : Nat} {s : State} (h : R s0 s) :
    R s0 (leaveJob a0 a1 s) := by
  unfold leaveJob
  repeat' (first
    | with_reducible assumption
    | with_reducible refine fun _ => ?_
    | split
    | with_reducible apply keep_raise
    | with_reducible apply keep_forEach
    | with_reducible apply keep_declareLost)

theorem keep_sendLeft {R : State → State → Prop} (hR : Absorbs Same R) {s0 : State} {a0 : Option Nat} {s : State} (h : R s0 s) :
    R s0 (sendLeft a0 s) := by
  unfold sendLeft
  repeat' (first
    | with_reducible assumption
    | with_reducible refine fun _ => ?_
    | split
    | with_reducible apply keep_forEach
    | with_reducible apply keep_emit)

theorem keep_sendLost {R : State → State → Prop} (hR : Absorbs Same R) {s0 : State} {a0 : Nat} {a1 : Option Nat} {s : State} (h : R s0 s) :
    R s0 (sendLost a0 a1 s) := by
  unfold sendLost
  repeat' (first
    | with_reducible assumption
    | with_reducible refine fun _ => ?_
    | split
    | with_reducible apply keep_forEach
    | with_reducible apply keep_emit)

theorem keep_linkLoss {R : State → State → Prop} (hR : Absorbs Same R) {s0 : State} {a0 : Nat} {s : State} (h : R s0 s) :
    R s0 (linkLoss a0 s) := by
  unfold linkLoss
  repeat' (first
    | with_reducible assumption
    | with_reducible refine fun _ => ?_
    | ((try lift_lets -underBinder); with_reducible intro x; first | (refine (fun (_ : R s0 x) => ?_) ?_; clear_value x; rotate_left; unfold x; rotate_right) | (refine (fun (_ : okP R s0 x) => ?_) ?_; clear_value x; rotate_left; unfold x; rotate_right) | clear_value x)
    | split
    | with_reducible apply keep_sendLost
    | with_reducible apply keep_declareLost
    | with_reducible apply keep_sendLeft
    | with_reducible apply keep_leaveJob)

theorem keep_endJoin {R : State → State → Prop} (hR : Absorbs Same R) {s0 : State} {s : State} (h : R s0 s) :
    R s0 (endJoin s) := by
  unfold endJoin
  repeat' (first
    | with_reducible assumption
    | with_reducible refine fun _ => ?_
    | split
    | with_reducible apply keep_modLinks
    | with_reducible apply keep_fsetb
    | with_reducible refine keep_mk (by assumption) ?_ rfl rfl rfl rfl rfl rfl rfl rfl rfl rfl rfl rfl rfl rfl rfl)

theorem keep_refuseJoin {R : State → State → Prop} (hR : Absorbs Same R) {s0 : State} {a0 a1 : Nat} {s : State} (h : R s0 s) :
    R s0 (refuseJoin a0 a1 s) := by
  unfold refuseJoin
  repeat' (first
    | with_reducible assumption
    | with_reducible refine fun _ => ?_
    | ((try lift_lets -underBinder); with_reducible intro x; first | (refine (fun (_ : R s0 x) => ?_) ?_; clear_value x; rotate_left; unfold x; rotate_right) | (refine (fun (_ : okP R s0 x) => ?_) ?_; clear_value x; rotate_left; unfold x; rotate_right) | clear_value x)
    | split
    | with_reducible apply keep_raise
    | with_reducible apply keep_endJoin
    | with_reducible apply keep_completeCmd)

theorem keep_settleJoin {R : State → State → Prop} (hR : Absorbs Same R) {s0 : State} {s : State} (h : R s0 s) :
    R s0 (settleJoin s) := by
  unfold settleJoin
  repeat' (first
    | with_reducible assumption
    | with_reducible refine fun _ => ?_
    | ((try lift_lets -underBinder); with_reducible intro x; first | (refine (fun (_ : R s0 x) => ?_) ?_; clear_value x; rotate_left; unfold x; rotate_right) | (refine (fun (_ : okP R s0 x) => ?_) ?_; clear_value x; rotate_left; unfold x; rotate_right) | clear_value x)
    | split
    | with_reducible apply keep_endJoin
    | with_reducible apply keep_completeCmd)

theorem keep_arbitrate {R : State → State → Prop} (hR : Absorbs Same R) {s0 : State} {a0 : Nat} {a1 : JoinRequest} {s : State} (h : R s0 s) :
    R s0 (arbitrate a0 a1 s) := by
  unfold arbitrate
  repeat' (first
    | with_reducible assumption
    | with_reducible refine fun _ => ?_
    | ((try lift_lets -underBinder); with_reducible intro x; first | (refine (fun (_ : R s0 x) => ?_) ?_; clear_value x; rotate_left; unfold x; rotate_right) | (refine (fun (_ : okP R s0 x) => ?_) ?_; clear_value x; rotate_left; unfold x; rotate_right) | clear_value x)
    | split
    | with_reducible apply keep_emit
    | with_reducible apply keep_forEach
    | with_reducible apply keep_raise
    | with_reducible apply keep_fset
    | with_reducible apply keep_endJoin
    | with_reducible apply keep_completeCmd)

theorem keep_settleHeld {R : State → State → Prop} (hR : Absorbs Same R) {s0 : State} {s : State} (h : R s0 s) :
    R s0 (settleHeld s) := by
  unfold settleHeld
  repeat' (first
    | with_reducible assumption
    | with_reducible refine fun _ => ?_
    | ((try lift_lets -underBinder); with_reducible intro x; first | (refine (fun (_ : R s0 x) => ?_) ?_; clear_value x; rotate_left; unfold x; rotate_right) | (refine (fun (_ : okP R s0 x) => ?_) ?_; clear_value x; rotate_left; unfold x; rotate_right) | clear_value x)
    | split
    | with_reducible apply keep_modLinks
    | with_reducible apply keep_forEach
    | with_reducible apply keep_arbitrate
    | with_reducible apply keep_fsetb
    | with_reducible refine keep_mk (by assumption) ?_ rfl rfl rfl rfl rfl rfl rfl rfl rfl rfl rfl rfl rfl rfl rfl)

theorem keep_execJoinRequestReceive {R : State → State → Prop} (hR : Absorbs Same R) {s0 : State} {a0 : Nat} {a1 : JoinRequest} {s : State} (h : R s0 s) :
    okO R s0 (execJoinRequestReceive a0 a1 s) := by
  unfold execJoinRequestReceive
  repeat' (first
    | with_reducible assumption
    | with_reducible refine fun _ => ?_
    | split
    | with_reducible apply okO_next
    | with_reducible apply keep_whenAlive
    | with_reducible apply keep_modLinks
    | with_reducible apply keep_fsetb
    | with_reducible apply keep_arbitrate
    | with_reducible refine keep_mk (by assumption) ?_ rfl rfl rfl rfl rfl rfl rfl rfl rfl rfl rfl rfl rfl rfl rfl)

theorem keep_execJoinCommitReceive {R : State → State → Prop} (hR : Absorbs Same R) {s0 : State} {a0 a1 a2 : Nat} {s : State} (h : R s0 s) :
    okO R s0 (execJoinCommitReceive a0 a1 a2 s) := by
  unfold execJoinCommitReceive
  repeat' (first
    | with_reducible assumption
    | with_reducible refine fun _ => ?_
    | ((try lift_lets -underBinder); with_reducible intro x; first | (refine (fun (_ : R s0 x) => ?_) ?_; clear_value x; rotate_left; unfold x; rotate_right) | (refine (fun (_ : okP R s0 x) => ?_) ?_; clear_value x; rotate_left; unfold x; rotate_right) | clear_value x)
    | split
    | with_reducible apply okO_next
    | with_reducible apply keep_whenAlive
    | with_reducible apply keep_raise
    | with_reducible apply keep_fset
    | with_reducible apply keep_settleJoin
    | with_reducible apply keep_modLinks
    | with_reducible refine keep_mk (by assumption) ?_ rfl rfl rfl rfl rfl rfl rfl rfl rfl rfl rfl rfl rfl rfl rfl)

theorem keep_execJoinTimeout {R : State → State → Prop} (hR : Absorbs Same R) {s0 : State} {s : State} (h : R s0 s) :
    okO R s0 (execJoinTimeout s) := by
  unfold execJoinTimeout
  repeat' (first
    | with_reducible assumption
    | with_reducible refine fun _ => ?_
    | split
    | with_reducible apply okO_next
    | with_reducible apply keep_whenAlive
    | with_reducible apply keep_refuseJoin)

theorem keep_startJoin {R : State → State → Prop} (hR : Absorbs Same R) {s0 : State} {a0 : Option (Nat × Nat)} {a1 : Nat} {s : State} (h : R s0 s) :
    R s0 (startJoin a0 a1 s) := by
  unfold startJoin
  repeat' (first
    | with_reducible assumption
    | with_reducible refine fun _ => ?_
    | ((try lift_lets -underBinder); with_reducible intro x; first | (refine (fun (_ : R s0 x) => ?_) ?_; clear_value x; rotate_left; unfold x; rotate_right) | (refine (fun (_ : okP R s0 x) => ?_) ?_; clear_value x; rotate_left; unfold x; rotate_right) | clear_value x)
    | split
    | with_reducible apply keep_modLinks
    | with_reducible apply keep_fsetb
    | with_reducible apply keep_emit
    | with_reducible refine keep_mk (by assumption) ?_ rfl rfl rfl rfl rfl rfl rfl rfl rfl rfl rfl rfl rfl rfl rfl)

theorem keep_wakePorts {R : State → State → Prop} (hR : Absorbs Same R) {s0 : State} {s : State} (h : R s0 s) :
    R s0 (wakePorts s) := by
  unfold wakePorts
  repeat' (first
    | with_reducible assumption
    | with_reducible refine fun _ => ?_
    | split
    | with_reducible apply keep_forRange
    | with_reducible apply keep_setLinkState
    | with_reducible apply keep_fsetb)

theorem keep_jobJoinEngine {R : State → State → Prop} (hR : Absorbs Same R) {s0 : State} {a0 : Nat} {a1 : List Nat} {a2 : Option (Nat × Nat)} {a3 : QCmd} {s : State} (h : R s0 s) :
    okV R s0 (jobJoinEngine a0 a1 a2 a3 s) := by
  unfold jobJoinEngine
  repeat' (first
    | with_reducible assumption
    | with_reducible refine fun _ => ?_
    | ((try lift_lets -underBinder); with_reducible intro x; first | (refine (fun (_ : R s0 x) => ?_) ?_; clear_value x; rotate_left; unfold x; rotate_right) | (refine (fun (_ : okP R s0 x) => ?_) ?_; clear_value x; rotate_left; unfold x; rotate_right) | clear_value x)
    | split
    | with_reducible apply okV_done
    | with_reducible apply okV_wait
    | with_reducible apply keep_refuseJoin
    | with_reducible apply keep_invalid
    | with_reducible apply keep_refuse
    | with_reducible apply keep_raise
    | with_reducible apply keep_modLinks
    | with_reducible apply keep_wakePorts
    | with_reducible apply keep_noResource
    | with_reducible apply keep_startJoin
    | with_reducible apply keep_modCmd
    | refine okV_get_done ?_ (by with_reducible assumption)
    | refine okV_get_wait ?_ (by with_reducible assumption)
    | with_reducible refine keep_mk (by assumption) ?_ rfl rfl rfl rfl rfl rfl rfl rfl rfl rfl rfl rfl rfl rfl rfl)

theorem keep_execJobJoin {R : State → State → Prop} (hR : Absorbs Same R) {s0 : State} {a0 a1 : Nat} {a2 : List Nat} {a3 : Option (Nat × Nat)} {s : State} (h : R s0 s) :
    okO R s0 (execJobJoin a0 a1 a2 a3 s) := by
  unfold execJobJoin
  repeat' (first
    | with_reducible assumption
    | with_reducible refine fun _ => ?_
    | split
    | with_reducible apply okO_next
    | with_reducible apply keep_refuseJoin
    | with_reducible apply keep_runEngine
    | with_reducible apply keep_jobJoinEngine
    | refine okV_get_done ?_ (by with_reducible assumption)
    | refine okV_get_wait ?_ (by with_reducible assumption))

theorem keep_autoJoin {R : State → State → Prop} (hR : Absorbs Same R) {s0 : State} {s : State} (h : R s0 s) :
    R s0 (autoJoin s) := by
  unfold autoJoin
  repeat' (first
    | with_reducible assumption
    | with_reducible refine fun _ => ?_
    | ((try lift_lets -underBinder); with_reducible intro x; first | (refine (fun (_ : R s0 x) => ?_) ?_; clear_value x; rotate_left; unfold x; rotate_right) | (refine (fun (_ : okP R s0 x) => ?_) ?_; clear_value x; rotate_left; unfold x; rotate_right) | clear_value x)
    | split
    | with_reducible apply keep_takeFree
    | with_reducible apply keep_startJoin
    | refine okP_get ?_ (by with_reducible assumption))

theorem keep_leaveSteps {R : State → State → Prop} (hR : Absorbs Same R) {s0 : State} {s : State} (h : R s0 s) :
    R s0 (leaveSteps s) := by
  unfold leaveSteps
  repeat' (first
    | with_reducible assumption
    | with_reducible refine fun _ => ?_
    | split
    | with_reducible apply keep_leaveJob
    | with_reducible apply keep_sendLeft
    | with_reducible apply keep_fsetb)

theorem keep_jobLeaveEngine {R : State → State → Prop} (hR : Absorbs Same R) {s0 : State} {a0 : QCmd} {s : State} (h : R s0 s) :
    okV R s0 (jobLeaveEngine a0 s) := by
  unfold jobLeaveEngine
  repeat' (first
    | with_reducible assumption
    | with_reducible refine fun _ => ?_
    | ((try lift_lets -underBinder); with_reducible intro x; first | (refine (fun (_ : R s0 x) => ?_) ?_; clear_value x; rotate_left; unfold x; rotate_right) | (refine (fun (_ : okP R s0 x) => ?_) ?_; clear_value x; rotate_left; unfold x; rotate_right) | clear_value x)
    | split
    | with_reducible apply okV_done
    | with_reducible apply okV_wait
    | with_reducible apply keep_invalid
    | with_reducible apply keep_okay
    | with_reducible apply keep_forRange
    | with_reducible apply keep_fsetb
    | with_reducible apply keep_fset
    | with_reducible apply keep_setLinkState
    | with_reducible apply keep_leaveSteps)

theorem keep_execJobLeave {R : State → State → Prop} (hR : Absorbs Same R) {s0 : State} {a0 a1 : Nat} {s : State} (h : R s0 s) :
    okO R s0 (execJobLeave a0 a1 s) := by
  unfold execJobLeave
  repeat' (first
    | with_reducible assumption
    | with_reducible refine fun _ => ?_
    | split
    | with_reducible apply okO_next
    | with_reducible apply keep_runEngine
    | with_reducible apply keep_jobLeaveEngine)

theorem keep_execLossMessageReceive {R : State → State → Prop} (hR : Absorbs Same R) {s0 : State} {a0 : Nat} {a1 : LossMessage} {s : State} (h : R s0 s) :
    okO R s0 (execLossMessageReceive a0 a1 s) := by
  unfold execLossMessageReceive
  repeat' (first
    | with_reducible assumption
    | with_reducible refine fun _ => ?_
    | split
    | with_reducible apply okO_next
    | with_reducible apply keep_whenAlive
    | with_reducible apply keep_sendLeft
    | with_reducible apply keep_leaveJob
    | with_reducible apply keep_sendLost
    | with_reducible apply keep_declareLost
    | with_reducible apply keep_forEach
    | with_reducible apply keep_emit)

theorem keep_execPresNChange {R : State → State → Prop} (hR : Absorbs Same R) {s0 : State} {a0 : Bool} {s : State} (h : R s0 s) :
    okO R s0 (execPresNChange a0 s) := by
  unfold execPresNChange
  repeat' (first
    | with_reducible assumption
    | with_reducible refine fun _ => ?_
    | ((try lift_lets -underBinder); with_reducible intro x; first | (refine (fun (_ : R s0 x) => ?_) ?_; clear_value x; rotate_left; unfold x; rotate_right) | (refine (fun (_ : okP R s0 x) => ?_) ?_; clear_value x; rotate_left; unfold x; rotate_right) | clear_value x)
    | split
    | with_reducible apply okO_next
    | with_reducible apply keep_whenAlive
    | with_reducible apply keep_fsetb
    | with_reducible apply keep_modPower
    | with_reducible apply keep_modLinks
    | with_reducible apply keep_leaveSteps
    | with_reducible refine keep_mk (by assumption) ?_ rfl rfl rfl rfl rfl rfl rfl rfl rfl rfl rfl rfl rfl rfl rfl)

theorem keep_execFlitReplay {R : State → State → Prop} (hR : Absorbs Same R) {s0 : State} {a0 : Nat} {a1 : Bool} {s : State} (h : R s0 s) :
    okO R s0 (execFlitReplay a0 a1 s) := by
  unfold execFlitReplay
  repeat' (first
    | with_reducible assumption
    | with_reducible refine fun _ => ?_
    | ((try lift_lets -underBinder); with_reducible intro x; first | (refine (fun (_ : R s0 x) => ?_) ?_; clear_value x; rotate_left; unfold x; rotate_right) | (refine (fun (_ : okP R s0 x) => ?_) ?_; clear_value x; rotate_left; unfold x; rotate_right) | clear_value x)
    | split
    | with_reducible apply okO_next
    | with_reducible apply keep_whenAlive
    | with_reducible apply keep_takeFree
    | with_reducible apply keep_fadd
    | with_reducible apply keep_finc
    | with_reducible apply keep_setLport
    | with_reducible apply keep_raise
    | refine okP_get ?_ (by with_reducible assumption)
    | with_reducible refine keep_mk (by assumption) ?_ rfl rfl rfl rfl rfl rfl rfl rfl rfl rfl rfl rfl rfl rfl rfl)

theorem keep_startRetrain {R : State → State → Prop} (hR : Absorbs Same R) {s0 : State} {a0 a1 : Nat} {s : State} (h : R s0 s) :
    R s0 (startRetrain a0 a1 s) := by
  unfold startRetrain
  repeat' (first
    | with_reducible assumption
    | with_reducible refine fun _ => ?_
    | ((try lift_lets -underBinder); with_reducible intro x; first | (refine (fun (_ : R s0 x) => ?_) ?_; clear_value x; rotate_left; unfold x; rotate_right) | (refine (fun (_ : okP R s0 x) => ?_) ?_; clear_value x; rotate_left; unfold x; rotate_right) | clear_value x)
    | split
    | with_reducible apply keep_fset
    | with_reducible apply keep_setLinkState
    | with_reducible apply keep_setLport
    | with_reducible apply keep_finc
    | with_reducible apply keep_raise
    | with_reducible refine keep_mk (by assumption) ?_ rfl rfl rfl rfl rfl rfl rfl rfl rfl rfl rfl rfl rfl rfl rfl)

theorem keep_execRetrainStart {R : State → State → Prop} (hR : Absorbs Same R) {s0 : State} {a0 : Nat} {a1 : RetrainCause} {s : State} (h : R s0 s) :
    okO R s0 (execRetrainStart a0 a1 s) := by
  unfold execRetrainStart
  repeat' (first
    | with_reducible assumption
    | with_reducible refine fun _ => ?_
    | ((try lift_lets -underBinder); with_reducible intro x; first | (refine (fun (_ : R s0 x) => ?_) ?_; clear_value x; rotate_left; unfold x; rotate_right) | (refine (fun (_ : okP R s0 x) => ?_) ?_; clear_value x; rotate_left; unfold x; rotate_right) | clear_value x)
    | split
    | with_reducible apply okO_next
    | with_reducible apply keep_whenAlive
    | with_reducible apply keep_startRetrain)

theorem keep_endRetrainCmds {R : State → State → Prop} (hR : Absorbs Same R) {s0 : State} {a0 a1 a2 : Nat} {s : State} (h : R s0 s) :
    R s0 (endRetrainCmds a0 a1 a2 s) := by
  unfold endRetrainCmds
  repeat' (first
    | with_reducible assumption
    | with_reducible refine fun _ => ?_
    | split
    | with_reducible apply keep_forEach
    | with_reducible apply keep_completeCmd)

theorem keep_failLink {R : State → State → Prop} (hR : Absorbs Same R) {s0 : State} {a0 a1 : Nat} {s : State} (h : R s0 s) :
    R s0 (failLink a0 a1 s) := by
  unfold failLink
  repeat' (first
    | with_reducible assumption
    | with_reducible refine fun _ => ?_
    | ((try lift_lets -underBinder); with_reducible intro x; first | (refine (fun (_ : R s0 x) => ?_) ?_; clear_value x; rotate_left; unfold x; rotate_right) | (refine (fun (_ : okP R s0 x) => ?_) ?_; clear_value x; rotate_left; unfold x; rotate_right) | clear_value x)
    | split
    | with_reducible apply keep_fsetb
    | with_reducible apply keep_fset
    | with_reducible apply keep_setLinkState
    | with_reducible apply keep_setLport
    | with_reducible apply keep_raise
    | with_reducible apply keep_endRetrainCmds
    | with_reducible apply keep_refuseJoin
    | with_reducible apply keep_settleHeld
    | with_reducible apply keep_linkLoss
    | with_reducible refine keep_mk (by assumption) ?_ rfl rfl rfl rfl rfl rfl rfl rfl rfl rfl rfl rfl rfl rfl rfl)

theorem keep_forgiveFences {R : State → State → Prop} (hR : Absorbs Same R) {s0 : State} {a0 a1 : Nat} {s : State} (h : R s0 s) :
    R s0 (forgiveFences a0 a1 s) := by
  unfold forgiveFences
  repeat' (first
    | with_reducible assumption
    | with_reducible refine fun _ => ?_
    | ((try lift_lets -underBinder); with_reducible intro x; first | (refine (fun (_ : R s0 x) => ?_) ?_; clear_value x; rotate_left; unfold x; rotate_right) | (refine (fun (_ : okP R s0 x) => ?_) ?_; clear_value x; rotate_left; unfold x; rotate_right) | clear_value x)
    | split
    | with_reducible apply keep_forEach
    | with_reducible apply keep_modCmd
    | with_reducible refine keep_mk (by assumption) ?_ rfl rfl rfl rfl rfl rfl rfl rfl rfl rfl rfl rfl rfl rfl rfl)

theorem keep_execRetrainEnd {R : State → State → Prop} (hR : Absorbs Same R) {s0 : State} {a0 : Nat} {a1 : Bool} {a2 : Nat} {s : State} (h : R s0 s) :
    okO R s0 (execRetrainEnd a0 a1 a2 s) := by
  unfold execRetrainEnd
  repeat' (first
    | with_reducible assumption
    | with_reducible refine fun _ => ?_
    | ((try lift_lets -underBinder); with_reducible intro x; first | (refine (fun (_ : R s0 x) => ?_) ?_; clear_value x; rotate_left; unfold x; rotate_right) | (refine (fun (_ : okP R s0 x) => ?_) ?_; clear_value x; rotate_left; unfold x; rotate_right) | clear_value x)
    | split
    | with_reducible apply okO_next
    | with_reducible apply keep_whenAlive
    | with_reducible apply keep_fset
    | with_reducible apply keep_setLinkState
    | with_reducible apply keep_raise
    | with_reducible apply keep_settleHeld
    | with_reducible apply keep_settleJoin
    | with_reducible apply keep_endRetrainCmds
    | with_reducible apply keep_forgiveFences
    | with_reducible apply keep_failLink)

theorem keep_execLanesSilent {R : State → State → Prop} (hR : Absorbs Same R) {s0 : State} {a0 : Nat} {s : State} (h : R s0 s) :
    okO R s0 (execLanesSilent a0 s) := by
  unfold execLanesSilent
  repeat' (first
    | with_reducible assumption
    | with_reducible refine fun _ => ?_
    | split
    | with_reducible apply okO_next
    | with_reducible apply keep_whenAlive
    | with_reducible apply keep_failLink)

theorem keep_execTrainingPatternSeen {R : State → State → Prop} (hR : Absorbs Same R) {s0 : State} {a0 : Nat} {s : State} (h : R s0 s) :
    okO R s0 (execTrainingPatternSeen a0 s) := by
  unfold execTrainingPatternSeen
  repeat' (first
    | with_reducible assumption
    | with_reducible refine fun _ => ?_
    | split
    | with_reducible apply okO_next
    | with_reducible apply keep_whenAlive
    | with_reducible apply keep_setLinkState)

theorem keep_execLinkTrainDone {R : State → State → Prop} (hR : Absorbs Same R) {s0 : State} {a0 : Nat} {a1 : Bool} {a2 : Nat} {s : State} (h : R s0 s) :
    okO R s0 (execLinkTrainDone a0 a1 a2 s) := by
  unfold execLinkTrainDone
  repeat' (first
    | with_reducible assumption
    | with_reducible refine fun _ => ?_
    | ((try lift_lets -underBinder); with_reducible intro x; first | (refine (fun (_ : R s0 x) => ?_) ?_; clear_value x; rotate_left; unfold x; rotate_right) | (refine (fun (_ : okP R s0 x) => ?_) ?_; clear_value x; rotate_left; unfold x; rotate_right) | clear_value x)
    | split
    | with_reducible apply okO_next
    | with_reducible apply keep_whenAlive
    | with_reducible apply keep_fset
    | with_reducible apply keep_setLinkState
    | with_reducible apply keep_fsetb
    | with_reducible apply keep_settleJoin
    | with_reducible apply keep_endRetrainCmds
    | with_reducible apply keep_raise)

theorem keep_execLinkFailedHoldoff {R : State → State → Prop} (hR : Absorbs Same R) {s0 : State} {a0 : Nat} {s : State} (h : R s0 s) :
    okO R s0 (execLinkFailedHoldoff a0 s) := by
  unfold execLinkFailedHoldoff
  repeat' (first
    | with_reducible assumption
    | with_reducible refine fun _ => ?_
    | split
    | with_reducible apply okO_next
    | with_reducible apply keep_whenAlive
    | with_reducible apply keep_fset
    | with_reducible apply keep_setLinkState)

theorem keep_linkRetrainEngine {R : State → State → Prop} (hR : Absorbs Same R) {s0 : State} {a0 : Nat} {a1 : QCmd} {s : State} (h : R s0 s) :
    okV R s0 (linkRetrainEngine a0 a1 s) := by
  unfold linkRetrainEngine
  repeat' (first
    | with_reducible assumption
    | with_reducible refine fun _ => ?_
    | ((try lift_lets -underBinder); with_reducible intro x; first | (refine (fun (_ : R s0 x) => ?_) ?_; clear_value x; rotate_left; unfold x; rotate_right) | (refine (fun (_ : okP R s0 x) => ?_) ?_; clear_value x; rotate_left; unfold x; rotate_right) | clear_value x)
    | split
    | with_reducible apply okV_done
    | with_reducible apply okV_wait
    | with_reducible apply keep_invalid
    | with_reducible apply keep_modCmd
    | with_reducible apply keep_startRetrain
    | with_reducible refine keep_mk (by assumption) ?_ rfl rfl rfl rfl rfl rfl rfl rfl rfl rfl rfl rfl rfl rfl rfl)

theorem keep_execLinkRetrain {R : State → State → Prop} (hR : Absorbs Same R) {s0 : State} {a0 a1 : Nat} {s : State} (h : R s0 s) :
    okO R s0 (execLinkRetrain a0 a1 s) := by
  unfold execLinkRetrain
  repeat' (first
    | with_reducible assumption
    | with_reducible refine fun _ => ?_
    | split
    | with_reducible apply okO_next
    | with_reducible apply keep_runEngine
    | with_reducible apply keep_linkRetrainEngine)

theorem keep_linkReadEngine {R : State → State → Prop} (hR : Absorbs Held R) {s0 : State} {a0 : Nat} {a1 : QCmd} {s : State} (h : R s0 s) :
    okV R s0 (linkReadEngine a0 a1 s) := by
  have hS := hR.sameOfHeld
  unfold linkReadEngine
  repeat' (first
    | with_reducible assumption
    | with_reducible refine fun _ => ?_
    | ((try lift_lets -underBinder); with_reducible intro x; first | (refine (fun (_ : R s0 x) => ?_) ?_; clear_value x; rotate_left; unfold x; rotate_right) | (refine (fun (_ : okP R s0 x) => ?_) ?_; clear_value x; rotate_left; unfold x; rotate_right) | clear_value x)
    | split
    | with_reducible apply okV_done
    | with_reducible apply okV_wait
    | with_reducible apply keep_invalid
    | with_reducible apply keep_opWrite
    | with_reducible apply keep_failOperand
    | with_reducible apply keep_okay
    | refine okE_get ?_ (by with_reducible assumption)
    | refine okV_get_done ?_ (by with_reducible assumption)
    | refine okV_get_wait ?_ (by with_reducible assumption))

theorem keep_execLinkRead {R : State → State → Prop} (hR : Absorbs Held R) {s0 : State} {a0 a1 : Nat} {s : State} (h : R s0 s) :
    okO R s0 (execLinkRead a0 a1 s) := by
  have hS := hR.sameOfHeld
  unfold execLinkRead
  repeat' (first
    | with_reducible assumption
    | with_reducible refine fun _ => ?_
    | split
    | with_reducible apply okO_next
    | with_reducible apply keep_runEngine
    | with_reducible apply keep_linkReadEngine)

theorem keep_linkCfgWrite {R : State → State → Prop} (hR : Absorbs Same R) {s0 : State} {a0 : Agent} {a1 : Nat} {s : State} (h : R s0 s) :
    R s0 (linkCfgWrite a0 a1 s) := by
  unfold linkCfgWrite
  repeat' (first
    | with_reducible assumption
    | with_reducible refine fun _ => ?_
    | split
    | with_reducible apply keep_rwStore
    | with_reducible apply keep_raise)

end Sys2Proof.Machine
end

