-- ==== Sys2Proof/Laws/KeepImage.lean ====
section
/-! SUPPORT. What the operations of Machine/Image.lean keep. -/

namespace Sys2Proof.Machine

theorem keep_flashReport {R : State → State → Prop} (hR : Absorbs Same R) {s0 : State} {s : State} {a1 a2 : Nat} (h : R s0 s) :
    R s0 (flashReport s a1 a2) := by
  unfold flashReport
  repeat' (first
    | with_reducible assumption
    | with_reducible refine fun _ => ?_
    | split
    | with_reducible apply keep_flashUnread)

theorem keep_extendMeas {R : State → State → Prop} (hR : Absorbs Same R) {s0 : State} {a0 : Nat} {a1 : List Byte} {s : State} (h : R s0 s) :
    R s0 (extendMeas a0 a1 s) := by
  unfold extendMeas
  repeat' (first
    | with_reducible assumption
    | with_reducible refine fun _ => ?_
    | split
    | with_reducible apply keep_modHarebell
    | with_reducible refine keep_mk (by assumption) ?_ rfl rfl rfl rfl rfl rfl rfl rfl rfl rfl rfl rfl rfl rfl rfl)

theorem keep_imageEvent {R : State → State → Prop} (hR : Absorbs Same R) {s0 : State} {a0 : Nat} {a1 : ImageErr} {s : State} (h : R s0 s) :
    R s0 (imageEvent a0 a1 s) := by
  unfold imageEvent
  repeat' (first
    | with_reducible assumption
    | with_reducible refine fun _ => ?_
    | split
    | with_reducible apply keep_raise)

theorem keep_slotReport {R : State → State → Prop} (hR : Absorbs Same R) {s0 : State} {a0 a1 : Nat} {s : State} (h : R s0 s) :
    R s0 (slotReport a0 a1 s) := by
  unfold slotReport
  repeat' (first
    | with_reducible assumption
    | with_reducible refine fun _ => ?_
    | ((try lift_lets -underBinder); with_reducible intro x; first | (refine (fun (_ : R s0 x) => ?_) ?_; clear_value x; rotate_left; unfold x; rotate_right) | (refine (fun (_ : okP R s0 x) => ?_) ?_; clear_value x; rotate_left; unfold x; rotate_right) | clear_value x)
    | split
    | with_reducible apply keep_flashReport)

theorem keep_thistleReload {R : State → State → Prop} (hR : Absorbs Same R) {s0 : State} {s : State} (h : R s0 s) :
    R s0 (thistleReload s) := by
  unfold thistleReload
  repeat' (first
    | with_reducible assumption
    | with_reducible refine fun _ => ?_
    | split
    | with_reducible apply keep_modSafety
    | with_reducible refine keep_mk (by assumption) ?_ rfl rfl rfl rfl rfl rfl rfl rfl rfl rfl rfl rfl rfl rfl rfl)

theorem keep_placeImage {R : State → State → Prop} (hR : Absorbs Held R) {s0 : State} {a0 : Image} {a1 : List (Section × List Byte)} {a2 : Nat} {s : State} (h : R s0 s) :
    R s0 (placeImage a0 a1 a2 s) := by
  have hS := hR.sameOfHeld
  unfold placeImage
  repeat' (first
    | with_reducible assumption
    | with_reducible refine fun _ => ?_
    | ((try lift_lets -underBinder); with_reducible intro x; first | (refine (fun (_ : R s0 x) => ?_) ?_; clear_value x; rotate_left; unfold x; rotate_right) | (refine (fun (_ : okP R s0 x) => ?_) ?_; clear_value x; rotate_left; unfold x; rotate_right) | clear_value x)
    | split
    | with_reducible apply keep_thistleReload
    | with_reducible apply keep_memZero
    | with_reducible apply keep_forEach
    | with_reducible apply keep_memWrite
    | with_reducible apply keep_fset
    | with_reducible apply keep_extendMeas
    | with_reducible apply keep_setReg64
    | with_reducible refine keep_mk (by assumption) ?_ rfl rfl rfl rfl rfl rfl rfl rfl rfl rfl rfl rfl rfl rfl rfl)

theorem keep_loadImage {R : State → State → Prop} (hR : Absorbs Held R) {s0 : State} {a0 : Nat} {s : State} (h : R s0 s) :
    okP R s0 (loadImage a0 s) := by
  have hS := hR.sameOfHeld
  unfold loadImage
  repeat' (first
    | with_reducible assumption
    | with_reducible refine fun _ => ?_
    | split
    | with_reducible apply keep_placeImage
    | with_reducible apply keep_imageEvent
    | with_reducible apply keep_slotReport)

end Sys2Proof.Machine
end

