-- ==== Sys2Proof/Laws/KeepPlan.lean ====
section
/-! SUPPORT. What the operations of Machine/Plan.lean keep. -/

namespace Sys2Proof.Machine

theorem keep_putEntry {R : State → State → Prop} (hR : Absorbs Held R) {s0 : State} {a0 a1 a2 : Nat} {s : State} (h : R s0 s) :
    R s0 (putEntry a0 a1 a2 s) := by
  have hS := hR.sameOfHeld
  unfold putEntry
  repeat' (first
    | with_reducible assumption
    | with_reducible refine fun _ => ?_
    | split
    | with_reducible apply keep_memWrite)

theorem keep_putPointers {R : State → State → Prop} (hR : Absorbs Held R) {s0 : State} {a0 : List Nat} {a1 a2 : Nat} {a3 : List Nat} {s : State} (h : R s0 s) :
    R s0 (putPointers a0 a1 a2 a3 s) := by
  have hS := hR.sameOfHeld
  unfold putPointers
  repeat' (first
    | with_reducible assumption
    | with_reducible refine fun _ => ?_
    | split
    | with_reducible apply keep_forEach
    | with_reducible apply keep_putEntry)

theorem keep_buildTables {R : State → State → Prop} (hR : Absorbs Held R) {s0 : State} {a0 : Image} {a1 a2 a3 : Nat} {s : State} (h : R s0 s) :
    R s0 (buildTables a0 a1 a2 a3 s) := by
  have hS := hR.sameOfHeld
  unfold buildTables
  repeat' (first
    | with_reducible assumption
    | with_reducible refine fun _ => ?_
    | ((try lift_lets -underBinder); with_reducible intro x; first | (refine (fun (_ : R s0 x) => ?_) ?_; clear_value x; rotate_left; unfold x; rotate_right) | (refine (fun (_ : okP R s0 x) => ?_) ?_; clear_value x; rotate_left; unfold x; rotate_right) | clear_value x)
    | split
    | with_reducible apply keep_memZero
    | with_reducible apply keep_putPointers
    | with_reducible apply keep_forEach
    | with_reducible apply keep_putEntry)

theorem keep_giveShares {R : State → State → Prop} (hR : Absorbs Same R) {s0 : State} {a0 : Nat} {a1 : Plan} {s : State} (h : R s0 s) :
    R s0 (giveShares a0 a1 s) := by
  unfold giveShares
  repeat' (first
    | with_reducible assumption
    | with_reducible refine fun _ => ?_
    | split
    | with_reducible apply keep_forEach
    | with_reducible apply keep_fset)

theorem keep_giveThreads {R : State → State → Prop} (hR : Absorbs Same R) {s0 : State} {a0 : Nat} {a1 : Plan} {s : State} (h : R s0 s) :
    R s0 (giveThreads a0 a1 s) := by
  unfold giveThreads
  repeat' (first
    | with_reducible assumption
    | with_reducible refine fun _ => ?_
    | ((try lift_lets -underBinder); with_reducible intro x; first | (refine (fun (_ : R s0 x) => ?_) ?_; clear_value x; rotate_left; unfold x; rotate_right) | (refine (fun (_ : okP R s0 x) => ?_) ?_; clear_value x; rotate_left; unfold x; rotate_right) | clear_value x)
    | split
    | with_reducible apply keep_forEach
    | with_reducible apply keep_setThread
    | with_reducible refine keep_mk (by assumption) ?_ rfl rfl rfl rfl rfl rfl rfl rfl rfl rfl rfl rfl rfl rfl rfl)

theorem keep_giveKv {R : State → State → Prop} (hR : Absorbs Held R) {s0 : State} {a0 a1 : Nat} {a2 : Plan} {s : State} (h : R s0 s) :
    R s0 (giveKv a0 a1 a2 s) := by
  have hS := hR.sameOfHeld
  unfold giveKv
  repeat' (first
    | with_reducible assumption
    | with_reducible refine fun _ => ?_
    | ((try lift_lets -underBinder); with_reducible intro x; first | (refine (fun (_ : R s0 x) => ?_) ?_; clear_value x; rotate_left; unfold x; rotate_right) | (refine (fun (_ : okP R s0 x) => ?_) ?_; clear_value x; rotate_left; unfold x; rotate_right) | clear_value x)
    | split
    | with_reducible apply keep_fset
    | with_reducible apply keep_setRegWord
    | with_reducible apply keep_kvInitRegion
    | with_reducible apply keep_fsetb)

theorem keep_giveSram {R : State → State → Prop} (hR : Absorbs Held R) {s0 : State} {a0 : Image} {a1 : Nat} {a2 : Plan} {s : State} (h : R s0 s) :
    R s0 (giveSram a0 a1 a2 s) := by
  have hS := hR.sameOfHeld
  unfold giveSram
  repeat' (first
    | with_reducible assumption
    | with_reducible refine fun _ => ?_
    | ((try lift_lets -underBinder); with_reducible intro x; first | (refine (fun (_ : R s0 x) => ?_) ?_; clear_value x; rotate_left; unfold x; rotate_right) | (refine (fun (_ : okP R s0 x) => ?_) ?_; clear_value x; rotate_left; unfold x; rotate_right) | clear_value x)
    | split
    | with_reducible apply keep_forEach
    | with_reducible apply keep_memZero
    | with_reducible apply keep_reportUncorr
    | with_reducible apply keep_memWrite)

theorem keep_giveSched {R : State → State → Prop} (hR : Absorbs Same R) {s0 : State} {a0 : Nat} {a1 : Plan} {s : State} (h : R s0 s) :
    R s0 (giveSched a0 a1 s) := by
  unfold giveSched
  repeat' (first
    | with_reducible assumption
    | with_reducible refine fun _ => ?_
    | ((try lift_lets -underBinder); with_reducible intro x; first | (refine (fun (_ : R s0 x) => ?_) ?_; clear_value x; rotate_left; unfold x; rotate_right) | (refine (fun (_ : okP R s0 x) => ?_) ?_; clear_value x; rotate_left; unfold x; rotate_right) | clear_value x)
    | split
    | with_reducible apply keep_fset
    | with_reducible apply keep_fsetb)

theorem keep_giveTables {R : State → State → Prop} (hR : Absorbs Held R) {s0 : State} {a0 : Image} {a1 : Nat} {a2 : Plan} {a3 a4 : Nat} {s : State} (h : R s0 s) :
    R s0 (giveTables a0 a1 a2 a3 a4 s) := by
  have hS := hR.sameOfHeld
  unfold giveTables
  repeat' (first
    | with_reducible assumption
    | with_reducible refine fun _ => ?_
    | ((try lift_lets -underBinder); with_reducible intro x; first | (refine (fun (_ : R s0 x) => ?_) ?_; clear_value x; rotate_left; unfold x; rotate_right) | (refine (fun (_ : okP R s0 x) => ?_) ?_; clear_value x; rotate_left; unfold x; rotate_right) | clear_value x)
    | split
    | with_reducible apply keep_buildTables
    | with_reducible apply keep_invalidateAll
    | with_reducible apply keep_fset)

theorem keep_createCtx {R : State → State → Prop} (hR : Absorbs Held R) {s0 : State} {a0 : Image} {a1 : Nat} {a2 : Plan} {a3 a4 a5 : Nat} {s : State} (h : R s0 s) :
    R s0 (createCtx a0 a1 a2 a3 a4 a5 s) := by
  have hS := hR.sameOfHeld
  unfold createCtx
  repeat' (first
    | with_reducible assumption
    | with_reducible refine fun _ => ?_
    | ((try lift_lets -underBinder); with_reducible intro x; first | (refine (fun (_ : R s0 x) => ?_) ?_; clear_value x; rotate_left; unfold x; rotate_right) | (refine (fun (_ : okP R s0 x) => ?_) ?_; clear_value x; rotate_left; unfold x; rotate_right) | clear_value x)
    | split
    | with_reducible apply keep_giveThreads
    | with_reducible apply keep_giveShares
    | with_reducible apply keep_fset
    | with_reducible apply keep_giveKv
    | with_reducible apply keep_fsetb
    | with_reducible apply keep_giveSram
    | with_reducible apply keep_giveTables
    | with_reducible apply keep_forRange
    | with_reducible apply keep_setCtx
    | with_reducible apply keep_giveSched
    | with_reducible refine keep_mk (by assumption) ?_ rfl rfl rfl rfl rfl rfl rfl rfl rfl rfl rfl rfl rfl rfl rfl)

theorem keep_clearContexts {R : State → State → Prop} (hR : Absorbs Same R) {s0 s : State} (h : R s0 s) : R s0 (clearContexts s) := by
  unfold clearContexts
  extract_lets qs t u
  have ht : R s0 t := by
    unfold t
    repeat' (first
      | with_reducible assumption
      | with_reducible refine fun _ => ?_
      | ((try lift_lets -underBinder); with_reducible intro x; first | (refine (fun (_ : R s0 x) => ?_) ?_; clear_value x; rotate_left; unfold x; rotate_right) | (refine (fun (_ : okP R s0 x) => ?_) ?_; clear_value x; rotate_left; unfold x; rotate_right) | clear_value x)
      | split
      | with_reducible apply keep_forEach
      | with_reducible apply keep_setQueue
      | with_reducible apply keep_fset
      | with_reducible apply keep_fsetb
      | with_reducible apply keep_mapUnits
      | with_reducible apply keep_dropRegs
      | with_reducible refine keep_mk (by assumption) ?_ rfl rfl rfl rfl rfl rfl rfl rfl rfl rfl rfl rfl rfl rfl rfl)
  have hu : R s0 u := keep_mapUnits hR (keep_dropRegs hR ht)
  exact hR _ _ _ hu ⟨rfl, ⟨rfl, rfl⟩, rfl, fun g => { g with threads := rfl, ctxs := rfl, lanes := rfl }⟩

theorem keep_createPlan {R : State → State → Prop} (hR : Absorbs Held R) {s0 : State} {a0 : Image} {a1 : Nat × Nat} {a2 : List Byte} {s : State} (h : R s0 s) :
    R s0 (createPlan a0 a1 a2 s) := by
  have hS := hR.sameOfHeld
  unfold createPlan
  repeat' (first
    | with_reducible assumption
    | with_reducible refine fun _ => ?_
    | ((try lift_lets -underBinder); with_reducible intro x; first | (refine (fun (_ : R s0 x) => ?_) ?_; clear_value x; rotate_left; unfold x; rotate_right) | (refine (fun (_ : okP R s0 x) => ?_) ?_; clear_value x; rotate_left; unfold x; rotate_right) | clear_value x)
    | split
    | with_reducible apply keep_forEach
    | with_reducible apply keep_createCtx)

theorem keep_planRecord {R : State → State → Prop} (hR : Absorbs Same R) {s0 : State} {s : State} {a1 a2 : Nat} (h : R s0 s) :
    R s0 (planRecord s a1 a2) := by
  unfold planRecord
  repeat' (first
    | with_reducible assumption
    | with_reducible refine fun _ => ?_
    | split
    | with_reducible apply keep_raiseCtx)

theorem keep_cancelWaiting {R : State → State → Prop} (hR : Absorbs Same R) {s0 : State} {a0 : Nat} {s : State} (h : R s0 s) :
    R s0 (cancelWaiting a0 s) := by
  unfold cancelWaiting
  repeat' (first
    | with_reducible assumption
    | with_reducible refine fun _ => ?_
    | split
    | with_reducible apply keep_forEach
    | with_reducible apply keep_completeCmd)

theorem keep_recreateCtx {R : State → State → Prop} (hR : Absorbs Held R) {s0 : State} {a0 : Nat} {s : State} (h : R s0 s) :
    R s0 (recreateCtx a0 s) := by
  have hS := hR.sameOfHeld
  unfold recreateCtx
  repeat' (first
    | with_reducible assumption
    | with_reducible refine fun _ => ?_
    | ((try lift_lets -underBinder); with_reducible intro x; first | (refine (fun (_ : R s0 x) => ?_) ?_; clear_value x; rotate_left; unfold x; rotate_right) | (refine (fun (_ : okP R s0 x) => ?_) ?_; clear_value x; rotate_left; unfold x; rotate_right) | clear_value x)
    | split
    | with_reducible apply keep_mapThreads
    | with_reducible apply keep_giveKv
    | with_reducible apply keep_giveThreads
    | with_reducible apply keep_giveShares
    | with_reducible apply keep_giveSram
    | with_reducible apply keep_giveTables
    | with_reducible apply keep_cancelWaiting
    | with_reducible apply keep_forEach
    | with_reducible apply keep_fsetb
    | with_reducible apply keep_fset
    | with_reducible apply keep_setCtx
    | with_reducible apply keep_raiseCtx
    | with_reducible apply keep_rescheduleAll
    | with_reducible apply keep_vetchDiscard
    | with_reducible refine keep_mk (by assumption) ?_ rfl rfl rfl rfl rfl rfl rfl rfl rfl rfl rfl rfl rfl rfl rfl)

end Sys2Proof.Machine
end

