-- ==== Sys2Proof/Laws/KeepSets.lean ====
section
/-! SUPPORT. What the operations of Machine/Sets.lean keep. -/

namespace Sys2Proof.Machine

theorem keep_storeSetReg {R : State → State → Prop} (hR : Absorbs Same R) {s0 : State} {a0 : List SetRecord} {a1 : Nat × Nat × Nat} {s : State} (h : R s0 s) :
    R s0 (storeSetReg a0 a1 s) := by
  unfold storeSetReg
  repeat' (first
    | with_reducible assumption
    | with_reducible refine fun _ => ?_
    | split
    | with_reducible apply keep_setRegWord)

theorem keep_storeSetRegs {R : State → State → Prop} (hR : Absorbs Same R) {s0 : State} {a0 : List SetRecord} {a1 : List Nat} {s : State} (h : R s0 s) :
    R s0 (storeSetRegs a0 a1 s) := by
  unfold storeSetRegs
  repeat' (first
    | with_reducible assumption
    | with_reducible refine fun _ => ?_
    | split
    | with_reducible apply keep_forEach
    | with_reducible apply keep_storeSetReg)

theorem keep_commitLoops {R : State → State → Prop} (hR : Absorbs Same R) {s0 : State} {a0 : List Nat} {s : State} (h : R s0 s) :
    R s0 (commitLoops a0 s) := by
  unfold commitLoops
  repeat' (first
    | with_reducible assumption
    | with_reducible refine fun _ => ?_
    | split
    | with_reducible apply keep_forEach
    | with_reducible apply keep_fset)

theorem keep_setProbe {R : State → State → Prop} (hR : Absorbs Same R) {s0 : State} {a0 : List SetRecord} {a1 : List Nat} {s : State} (h : R s0 s) :
    R s0 (setProbe a0 a1 s) := by
  unfold setProbe
  repeat' (first
    | with_reducible assumption
    | with_reducible refine fun _ => ?_
    | ((try lift_lets -underBinder); with_reducible intro x; first | (refine (fun (_ : R s0 x) => ?_) ?_; clear_value x; rotate_left; unfold x; rotate_right) | (refine (fun (_ : okP R s0 x) => ?_) ?_; clear_value x; rotate_left; unfold x; rotate_right) | clear_value x)
    | split
    | with_reducible apply keep_commitLoops
    | with_reducible apply keep_storeSetRegs
    | with_reducible apply keep_forRange
    | with_reducible apply keep_fsetb
    | with_reducible apply keep_setRule
    | with_reducible apply keep_modSafety
    | with_reducible refine keep_modTime (by assumption) ?_ rfl
    | with_reducible refine keep_mk (by assumption) ?_ rfl rfl rfl rfl rfl rfl rfl rfl rfl rfl rfl rfl rfl rfl rfl)

theorem keep_takeTriggers {R : State → State → Prop} (hR : Absorbs Same R) {s0 : State} {a0 : List SetRecord} {s : State} (h : R s0 s) :
    R s0 (takeTriggers a0 s) := by
  unfold takeTriggers
  repeat' (first
    | with_reducible assumption
    | with_reducible refine fun _ => ?_
    | split
    | with_reducible apply keep_forRange
    | with_reducible apply keep_rearmTrigger)

theorem keep_takeTimes {R : State → State → Prop} (hR : Absorbs Same R) {s0 : State} {a0 : List SetRecord} {s : State} (h : R s0 s) :
    R s0 (takeTimes a0 s) := by
  unfold takeTimes
  repeat' (first
    | with_reducible assumption
    | with_reducible refine fun _ => ?_
    | ((try lift_lets -underBinder); with_reducible intro x; first | (refine (fun (_ : R s0 x) => ?_) ?_; clear_value x; rotate_left; unfold x; rotate_right) | (refine (fun (_ : okP R s0 x) => ?_) ?_; clear_value x; rotate_left; unfold x; rotate_right) | clear_value x)
    | split
    | with_reducible apply keep_forEach
    | with_reducible apply keep_timeCfgApply
    | with_reducible apply keep_storeSetReg
    | with_reducible apply keep_forRange
    | with_reducible apply keep_setNetPort
    | with_reducible refine keep_mk (by assumption) ?_ rfl rfl rfl rfl rfl rfl rfl rfl rfl rfl rfl rfl rfl rfl rfl)

theorem keep_takeLoops {R : State → State → Prop} (hR : Absorbs Same R) {s0 : State} {a0 : List SetRecord} {s : State} (h : R s0 s) :
    R s0 (takeLoops a0 s) := by
  unfold takeLoops
  repeat' (first
    | with_reducible assumption
    | with_reducible refine fun _ => ?_
    | ((try lift_lets -underBinder); with_reducible intro x; first | (refine (fun (_ : R s0 x) => ?_) ?_; clear_value x; rotate_left; unfold x; rotate_right) | (refine (fun (_ : okP R s0 x) => ?_) ?_; clear_value x; rotate_left; unfold x; rotate_right) | clear_value x)
    | split
    | with_reducible apply keep_commitLoops
    | with_reducible apply keep_storeSetRegs
    | with_reducible apply keep_modYarrow
    | with_reducible apply keep_forEach
    | with_reducible apply keep_setRegWord
    | with_reducible apply keep_raise
    | with_reducible apply keep_forRange
    | with_reducible apply keep_setLoop
    | with_reducible refine keep_mk (by assumption) ?_ rfl rfl rfl rfl rfl rfl rfl rfl rfl rfl rfl rfl rfl rfl rfl)

theorem keep_askSwaps {R : State → State → Prop} (hR : Absorbs Same R) {s0 : State} {a0 : List SetRecord} {s : State} (h : R s0 s) :
    R s0 (askSwaps a0 s) := by
  unfold askSwaps
  repeat' (first
    | with_reducible assumption
    | with_reducible refine fun _ => ?_
    | split
    | with_reducible apply keep_forRange
    | with_reducible apply keep_setLoop
    | with_reducible refine keep_mk (by assumption) ?_ rfl rfl rfl rfl rfl rfl rfl rfl rfl rfl rfl rfl rfl rfl rfl)

theorem keep_takePort {R : State → State → Prop} (hR : Absorbs Same R) {s0 : State} {a0 : List SetRecord} {a1 : Nat} {s : State} (h : R s0 s) :
    R s0 (takePort a0 a1 s) := by
  unfold takePort
  repeat' (first
    | with_reducible assumption
    | with_reducible refine fun _ => ?_
    | ((try lift_lets -underBinder); with_reducible intro x; first | (refine (fun (_ : R s0 x) => ?_) ?_; clear_value x; rotate_left; unfold x; rotate_right) | (refine (fun (_ : okP R s0 x) => ?_) ?_; clear_value x; rotate_left; unfold x; rotate_right) | clear_value x)
    | split
    | with_reducible apply keep_forEach
    | with_reducible apply keep_setRegWord
    | with_reducible apply keep_setRport
    | with_reducible apply keep_settleEn
    | with_reducible apply keep_raise
    | with_reducible refine keep_mk (by assumption) ?_ rfl rfl rfl rfl rfl rfl rfl rfl rfl rfl rfl rfl rfl rfl rfl)

theorem keep_takeRule {R : State → State → Prop} (hR : Absorbs Same R) {s0 : State} {a0 : List SetRecord} {a1 : Nat} {s : State} (h : R s0 s) :
    R s0 (takeRule a0 a1 s) := by
  unfold takeRule
  repeat' (first
    | with_reducible assumption
    | with_reducible refine fun _ => ?_
    | ((try lift_lets -underBinder); with_reducible intro x; first | (refine (fun (_ : R s0 x) => ?_) ?_; clear_value x; rotate_left; unfold x; rotate_right) | (refine (fun (_ : okP R s0 x) => ?_) ?_; clear_value x; rotate_left; unfold x; rotate_right) | clear_value x)
    | split
    | with_reducible apply keep_fsetb
    | with_reducible apply keep_setRule)

theorem keep_takeRings {R : State → State → Prop} (hR : Absorbs Same R) {s0 : State} {a0 : List SetRecord} {s : State} (h : R s0 s) :
    R s0 (takeRings a0 s) := by
  unfold takeRings
  repeat' (first
    | with_reducible assumption
    | with_reducible refine fun _ => ?_
    | split
    | with_reducible apply keep_forRange
    | with_reducible apply keep_takeRule
    | with_reducible apply keep_takePort)

theorem keep_takeSensors {R : State → State → Prop} (hR : Absorbs Same R) {s0 : State} {a0 : List SetRecord} {s : State} (h : R s0 s) :
    R s0 (takeSensors a0 s) := by
  unfold takeSensors
  repeat' (first
    | with_reducible assumption
    | with_reducible refine fun _ => ?_
    | ((try lift_lets -underBinder); with_reducible intro x; first | (refine (fun (_ : R s0 x) => ?_) ?_; clear_value x; rotate_left; unfold x; rotate_right) | (refine (fun (_ : okP R s0 x) => ?_) ?_; clear_value x; rotate_left; unfold x; rotate_right) | clear_value x)
    | split
    | with_reducible apply keep_forRange
    | with_reducible apply keep_loadStream
    | with_reducible apply keep_loadGroup
    | with_reducible apply keep_loadSlot)

theorem keep_takeVetch {R : State → State → Prop} (hR : Absorbs Same R) {s0 : State} {a0 : List SetRecord} {s : State} (h : R s0 s) :
    R s0 (takeVetch a0 s) := by
  unfold takeVetch
  repeat' (first
    | with_reducible assumption
    | with_reducible refine fun _ => ?_
    | ((try lift_lets -underBinder); with_reducible intro x; first | (refine (fun (_ : R s0 x) => ?_) ?_; clear_value x; rotate_left; unfold x; rotate_right) | (refine (fun (_ : okP R s0 x) => ?_) ?_; clear_value x; rotate_left; unfold x; rotate_right) | clear_value x)
    | split
    | with_reducible apply keep_storeSetRegs
    | with_reducible apply keep_fsetb
    | with_reducible apply keep_vetchReplace
    | with_reducible refine keep_mk (by assumption) ?_ rfl rfl rfl rfl rfl rfl rfl rfl rfl rfl rfl rfl rfl rfl rfl)

theorem keep_takeSafety {R : State → State → Prop} (hR : Absorbs Same R) {s0 : State} {a0 : List SetRecord} {s : State} (h : R s0 s) :
    R s0 (takeSafety a0 s) := by
  unfold takeSafety
  repeat' (first
    | with_reducible assumption
    | with_reducible refine fun _ => ?_
    | ((try lift_lets -underBinder); with_reducible intro x; first | (refine (fun (_ : R s0 x) => ?_) ?_; clear_value x; rotate_left; unfold x; rotate_right) | (refine (fun (_ : okP R s0 x) => ?_) ?_; clear_value x; rotate_left; unfold x; rotate_right) | clear_value x)
    | split
    | with_reducible apply keep_modSafety
    | with_reducible apply keep_storeSetRegs
    | with_reducible refine keep_mk (by assumption) ?_ rfl rfl rfl rfl rfl rfl rfl rfl rfl rfl rfl rfl rfl rfl rfl)

theorem keep_takePower {R : State → State → Prop} (hR : Absorbs Same R) {s0 : State} {a0 : List SetRecord} {s : State} (h : R s0 s) :
    R s0 (takePower a0 s) := by
  unfold takePower
  repeat' (first
    | with_reducible assumption
    | with_reducible refine fun _ => ?_
    | ((try lift_lets -underBinder); with_reducible intro x; first | (refine (fun (_ : R s0 x) => ?_) ?_; clear_value x; rotate_left; unfold x; rotate_right) | (refine (fun (_ : okP R s0 x) => ?_) ?_; clear_value x; rotate_left; unfold x; rotate_right) | clear_value x)
    | split
    | with_reducible apply keep_storeSetRegs
    | with_reducible apply keep_modPower
    | with_reducible apply keep_startRamp
    | with_reducible refine keep_mk (by assumption) ?_ rfl rfl rfl rfl rfl rfl rfl rfl rfl rfl rfl rfl rfl rfl rfl)

theorem keep_takeSet {R : State → State → Prop} (hR : Absorbs Same R) {s0 : State} {a0 : List SetRecord} {s : State} (h : R s0 s) :
    R s0 (takeSet a0 s) := by
  unfold takeSet
  repeat' (first
    | with_reducible assumption
    | with_reducible refine fun _ => ?_
    | ((try lift_lets -underBinder); with_reducible intro x; first | (refine (fun (_ : R s0 x) => ?_) ?_; clear_value x; rotate_left; unfold x; rotate_right) | (refine (fun (_ : okP R s0 x) => ?_) ?_; clear_value x; rotate_left; unfold x; rotate_right) | clear_value x)
    | split
    | with_reducible apply keep_takeTimes
    | with_reducible apply keep_takeTriggers
    | with_reducible apply keep_takePower
    | with_reducible apply keep_takeSafety
    | with_reducible apply keep_takeVetch
    | with_reducible apply keep_takeSensors
    | with_reducible apply keep_takeRings
    | with_reducible apply keep_takeLoops
    | with_reducible apply keep_storeSetRegs)

end Sys2Proof.Machine
end

