-- ==== Sys2Proof/Laws/KeepCommit.lean ====
section
/-! SUPPORT. What the operations of Machine/Commit.lean keep. -/

namespace Sys2Proof.Machine

theorem keep_placeStage3 {R : State → State → Prop} (hR : Absorbs Held R) {s0 : State} {s : State} (h : R s0 s) :
    R s0 (placeStage3 s) := by
  have hS := hR.sameOfHeld
  unfold placeStage3
  repeat' (first
    | with_reducible assumption
    | with_reducible refine fun _ => ?_
    | split
    | with_reducible apply keep_memWrite)

theorem keep_startStage3 {R : State → State → Prop} (hR : Absorbs Same R) {s0 : State} {s : State} (h : R s0 s) :
    R s0 (startStage3 s) := by
  unfold startStage3
  repeat' (first
    | with_reducible assumption
    | with_reducible refine fun _ => ?_
    | ((try lift_lets -underBinder); with_reducible intro x; first | (refine (fun (_ : R s0 x) => ?_) ?_; clear_value x; rotate_left; unfold x; rotate_right) | (refine (fun (_ : okP R s0 x) => ?_) ?_; clear_value x; rotate_left; unfold x; rotate_right) | clear_value x)
    | split
    | with_reducible apply keep_setThread
    | with_reducible apply keep_rescheduleAll
    | with_reducible apply keep_modHarebell
    | with_reducible refine keep_mk (by assumption) ?_ rfl rfl rfl rfl rfl rfl rfl rfl rfl rfl rfl rfl rfl rfl rfl)

theorem keep_stepFails {R : State → State → Prop} (hR : Absorbs Same R) {s0 : State} {a0 a1 : Nat} {s : State} (h : R s0 s) :
    R s0 (stepFails a0 a1 s) := by
  unfold stepFails
  repeat' (first
    | with_reducible assumption
    | with_reducible refine fun _ => ?_
    | split
    | with_reducible apply keep_raise)

theorem keep_holdLoad {R : State → State → Prop} (hR : Absorbs Held R) {s0 : State} {a0 : List Byte} {s : State} (h : R s0 s) :
    okP R s0 (holdLoad a0 s) := by
  have hS := hR.sameOfHeld
  unfold holdLoad
  repeat' (first
    | with_reducible assumption
    | with_reducible refine fun _ => ?_
    | split
    | with_reducible apply keep_loadImage
    | with_reducible apply keep_raise
    | refine okP_get ?_ (by with_reducible assumption))

theorem keep_holdContexts {R : State → State → Prop} (hR : Absorbs Held R) {s0 : State} {a0 : Nat} {a1 : List SetRecord} {s : State} (h : R s0 s) :
    okP R s0 (holdContexts a0 a1 s) := by
  have hS := hR.sameOfHeld
  unfold holdContexts
  repeat' (first
    | with_reducible assumption
    | with_reducible refine fun _ => ?_
    | ((try lift_lets -underBinder); with_reducible intro x; first | (refine (fun (_ : R s0 x) => ?_) ?_; clear_value x; rotate_left; unfold x; rotate_right) | (refine (fun (_ : okP R s0 x) => ?_) ?_; clear_value x; rotate_left; unfold x; rotate_right) | clear_value x)
    | split
    | with_reducible apply keep_stepFails
    | with_reducible apply keep_planRecord
    | with_reducible apply keep_createPlan
    | with_reducible apply keep_clearContexts
    | with_reducible apply keep_vetchDiscard
    | with_reducible apply keep_flashReport
    | with_reducible apply keep_startStage3
    | with_reducible apply keep_placeStage3)

theorem keep_injection {R : State → State → Prop} (hR : Absorbs Same R) {s0 : State} {a0 : Nat} {s : State} (h : R s0 s) :
    R s0 (injection a0 s) := by
  unfold injection
  repeat' (first
    | with_reducible assumption
    | with_reducible refine fun _ => ?_
    | ((try lift_lets -underBinder); with_reducible intro x; first | (refine (fun (_ : R s0 x) => ?_) ?_; clear_value x; rotate_left; unfold x; rotate_right) | (refine (fun (_ : okP R s0 x) => ?_) ?_; clear_value x; rotate_left; unfold x; rotate_right) | clear_value x)
    | split
    | with_reducible apply keep_fset
    | with_reducible apply keep_fsetb
    | with_reducible apply keep_raise)

theorem keep_goldenIssue {R : State → State → Prop} (hR : Absorbs Held R) {s0 : State} {a0 : Image} {a1 : Nat} {a2 : Plan} {a3 a4 : Nat} {s : State} (h : R s0 s) :
    R s0 (goldenIssue a0 a1 a2 a3 a4 s) := by
  have hS := hR.sameOfHeld
  unfold goldenIssue
  repeat' (first
    | with_reducible assumption
    | with_reducible refine fun _ => ?_
    | ((try lift_lets -underBinder); with_reducible intro x; first | (refine (fun (_ : R s0 x) => ?_) ?_; clear_value x; rotate_left; unfold x; rotate_right) | (refine (fun (_ : okP R s0 x) => ?_) ?_; clear_value x; rotate_left; unfold x; rotate_right) | clear_value x)
    | split
    | with_reducible apply keep_memWrite
    | with_reducible apply keep_doorbell
    | with_reducible apply keep_writePackets
    | with_reducible refine keep_mk (by assumption) ?_ rfl rfl rfl rfl rfl rfl rfl rfl rfl rfl rfl rfl rfl rfl rfl)

theorem keep_goldenBegin {R : State → State → Prop} (hR : Absorbs Held R) {s0 : State} {a0 : Nat} {s : State} (h : R s0 s) :
    okP R s0 (goldenBegin a0 s) := by
  have hS := hR.sameOfHeld
  unfold goldenBegin
  repeat' (first
    | with_reducible assumption
    | with_reducible refine fun _ => ?_
    | split
    | with_reducible apply keep_goldenIssue
    | with_reducible apply keep_stepFails)

theorem keep_holdRebuild {R : State → State → Prop} (hR : Absorbs Held R) {s0 : State} {a0 : Nat} {a1 : List SetRecord} {a2 : Nat} {s : State} (h : R s0 s) :
    okP R s0 (holdRebuild a0 a1 a2 s) := by
  have hS := hR.sameOfHeld
  unfold holdRebuild
  repeat' (first
    | with_reducible assumption
    | with_reducible refine fun _ => ?_
    | split
    | with_reducible apply keep_holdContexts
    | with_reducible apply keep_stepFails
    | with_reducible apply keep_injection
    | with_reducible apply keep_goldenBegin
    | refine okP_get ?_ (by with_reducible assumption))

theorem keep_activate {R : State → State → Prop} (hR : Absorbs Same R) {s0 : State} {a0 : Nat} {s : State} (h : R s0 s) :
    R s0 (activate a0 s) := by
  unfold activate
  repeat' (first
    | with_reducible assumption
    | with_reducible refine fun _ => ?_
    | split
    | with_reducible apply keep_modHarebell
    | with_reducible refine keep_mk (by assumption) ?_ rfl rfl rfl rfl rfl rfl rfl rfl rfl rfl rfl rfl rfl rfl rfl)

theorem keep_holdFallback {R : State → State → Prop} (hR : Absorbs Held R) {s0 : State} {a0 : Nat} {s : State} (h : R s0 s) :
    R s0 (holdFallback a0 s) := by
  have hS := hR.sameOfHeld
  unfold holdFallback
  repeat' (first
    | with_reducible assumption
    | with_reducible refine fun _ => ?_
    | ((try lift_lets -underBinder); with_reducible intro x; first | (refine (fun (_ : R s0 x) => ?_) ?_; clear_value x; rotate_left; unfold x; rotate_right) | (refine (fun (_ : okP R s0 x) => ?_) ?_; clear_value x; rotate_left; unfold x; rotate_right) | clear_value x)
    | split
    | with_reducible apply keep_modHarebell
    | with_reducible apply keep_holdLoad
    | with_reducible apply keep_safeBoth
    | with_reducible apply keep_holdRebuild
    | with_reducible apply keep_takeSet
    | with_reducible apply keep_activate
    | refine okP_get ?_ (by with_reducible assumption)
    | with_reducible refine keep_mk (by assumption) ?_ rfl rfl rfl rfl rfl rfl rfl rfl rfl rfl rfl rfl rfl rfl rfl)

theorem keep_beginHold {R : State → State → Prop} (hR : Absorbs Held R) {s0 : State} {a0 a1 a2 : Nat} {s : State} (h : R s0 s) :
    R s0 (beginHold a0 a1 a2 s) := by
  have hS := hR.sameOfHeld
  unfold beginHold
  repeat' (first
    | with_reducible assumption
    | with_reducible refine fun _ => ?_
    | ((try lift_lets -underBinder); with_reducible intro x; first | (refine (fun (_ : R s0 x) => ?_) ?_; clear_value x; rotate_left; unfold x; rotate_right) | (refine (fun (_ : okP R s0 x) => ?_) ?_; clear_value x; rotate_left; unfold x; rotate_right) | clear_value x)
    | split
    | with_reducible apply keep_modHarebell
    | with_reducible apply keep_fsetb
    | with_reducible apply keep_holdLoad
    | with_reducible apply keep_holdFallback
    | with_reducible apply keep_holdRebuild
    | with_reducible apply keep_takeSet
    | with_reducible apply keep_activate
    | refine okP_get ?_ (by with_reducible assumption)
    | with_reducible refine keep_mk (by assumption) ?_ rfl rfl rfl rfl rfl rfl rfl rfl rfl rfl rfl rfl rfl rfl rfl)

theorem keep_holdGolden {R : State → State → Prop} (hR : Absorbs Held R) {s0 : State} {a0 : Bool} {s : State} (h : R s0 s) :
    R s0 (holdGolden a0 s) := by
  have hS := hR.sameOfHeld
  unfold holdGolden
  repeat' (first
    | with_reducible assumption
    | with_reducible refine fun _ => ?_
    | ((try lift_lets -underBinder); with_reducible intro x; first | (refine (fun (_ : R s0 x) => ?_) ?_; clear_value x; rotate_left; unfold x; rotate_right) | (refine (fun (_ : okP R s0 x) => ?_) ?_; clear_value x; rotate_left; unfold x; rotate_right) | clear_value x)
    | split
    | with_reducible apply keep_modHarebell
    | with_reducible apply keep_stepFails
    | with_reducible apply keep_safeBoth
    | with_reducible apply keep_holdFallback
    | with_reducible refine keep_mk (by assumption) ?_ rfl rfl rfl rfl rfl rfl rfl rfl rfl rfl rfl rfl rfl rfl rfl)

theorem keep_endHold {R : State → State → Prop} (hR : Absorbs Same R) {s0 : State} {s : State} (h : R s0 s) :
    R s0 (endHold s) := by
  unfold endHold
  repeat' (first
    | with_reducible assumption
    | with_reducible refine fun _ => ?_
    | ((try lift_lets -underBinder); with_reducible intro x; first | (refine (fun (_ : R s0 x) => ?_) ?_; clear_value x; rotate_left; unfold x; rotate_right) | (refine (fun (_ : okP R s0 x) => ?_) ?_; clear_value x; rotate_left; unfold x; rotate_right) | clear_value x)
    | split
    | with_reducible apply keep_modHarebell
    | with_reducible apply keep_fsetb
    | with_reducible apply keep_askSwaps
    | with_reducible apply keep_fset
    | with_reducible apply keep_modSafety
    | with_reducible apply keep_completeCmd
    | with_reducible apply keep_raise
    | with_reducible apply keep_extendMeas
    | with_reducible apply keep_rescheduleAll
    | with_reducible refine keep_mk (by assumption) ?_ rfl rfl rfl rfl rfl rfl rfl rfl rfl rfl rfl rfl rfl rfl rfl)

theorem keep_execImageHoldTimeout {R : State → State → Prop} (hR : Absorbs Same R) {s0 : State} {s : State} (h : R s0 s) :
    okO R s0 (execImageHoldTimeout s) := by
  unfold execImageHoldTimeout
  repeat' (first
    | with_reducible assumption
    | with_reducible refine fun _ => ?_
    | split
    | with_reducible apply okO_next
    | with_reducible apply keep_whenAlive
    | with_reducible apply keep_safeBoth)

theorem keep_planRefused {R : State → State → Prop} (hR : Absorbs Same R) {s0 : State} {a0 : List SetRecord} {s : State} (h : R s0 s) :
    okM R s0 (planRefused a0 s) := by
  unfold planRefused
  repeat' (first
    | with_reducible assumption
    | with_reducible refine fun _ => ?_
    | split
    | exact okM_none
    | with_reducible apply okM_map
    | with_reducible apply okM_some
    | with_reducible apply keep_planRecord)

theorem keep_noCommit {R : State → State → Prop} (hR : Absorbs Same R) {s0 : State} {a0 a1 : Nat} {s : State} (h : R s0 s) :
    R s0 (noCommit a0 a1 s) := by
  unfold noCommit
  repeat' (first
    | with_reducible assumption
    | with_reducible refine fun _ => ?_
    | split
    | with_reducible apply keep_completeCmd)

theorem keep_commitNow {R : State → State → Prop} (hR : Absorbs Held R) {s0 : State} {q n failed : Nat} {s : State} (h : R s0 s) :
    R s0 (commitNow q n failed s) := by
  have hS := hR.sameOfHeld
  unfold commitNow
  repeat' (first
    | exact okM_none
    | with_reducible assumption
    | with_reducible refine fun _ => ?_
    | ((try lift_lets -underBinder); with_reducible intro x; first | (refine (fun (_ : R s0 x) => ?_) ?_; clear_value x; rotate_left; unfold x; rotate_right) | (refine (fun (_ : okP R s0 x) => ?_) ?_; clear_value x; rotate_left; unfold x; rotate_right) | clear_value x)
    | split
    | with_reducible apply keep_modHarebell
    | with_reducible apply keep_noCommit
    | with_reducible apply keep_raise
    | with_reducible apply keep_askSwaps
    | with_reducible apply keep_takeSet
    | with_reducible apply keep_activate
    | with_reducible apply keep_extendMeas
    | with_reducible apply keep_rescheduleAll
    | with_reducible apply keep_completeCmd
    | with_reducible apply keep_planRefused
    | with_reducible apply keep_beginHold
    | refine okM_get ?_ (by with_reducible assumption)
    | with_reducible apply okM_getD
    | with_reducible refine keep_mk (by assumption) ?_ rfl rfl rfl rfl rfl rfl rfl rfl rfl rfl rfl rfl rfl rfl rfl)

theorem keep_commitFire {R : State → State → Prop} (hR : Absorbs Held R) {s0 : State} {a0 a1 : Nat} {s : State} (h : R s0 s) :
    R s0 (commitFire a0 a1 s) := by
  have hS := hR.sameOfHeld
  unfold commitFire
  repeat' (first
    | with_reducible assumption
    | with_reducible refine fun _ => ?_
    | split
    | with_reducible apply keep_completeCmd
    | with_reducible apply keep_modHarebell
    | with_reducible apply keep_commitNow
    | with_reducible refine keep_mk (by assumption) ?_ rfl rfl rfl rfl rfl rfl rfl rfl rfl rfl rfl rfl rfl rfl rfl)

theorem keep_setWriteEngine {R : State → State → Prop} (hR : Absorbs Held R) {s0 : State} {a0 : Nat} {a1 : QCmd} {s : State} (h : R s0 s) :
    okV R s0 (setWriteEngine a0 a1 s) := by
  have hS := hR.sameOfHeld
  unfold setWriteEngine
  repeat' (first
    | with_reducible assumption
    | with_reducible refine fun _ => ?_
    | ((try lift_lets -underBinder); with_reducible intro x; first | (refine (fun (_ : R s0 x) => ?_) ?_; clear_value x; rotate_left; unfold x; rotate_right) | (refine (fun (_ : okP R s0 x) => ?_) ?_; clear_value x; rotate_left; unfold x; rotate_right) | clear_value x)
    | split
    | with_reducible apply okV_done
    | with_reducible apply okV_wait
    | with_reducible apply keep_invalid
    | with_reducible apply keep_refuse
    | with_reducible apply keep_failOperand
    | with_reducible apply keep_modHarebell
    | with_reducible apply keep_okay
    | with_reducible apply keep_raise
    | refine okV_get_done ?_ (by with_reducible assumption)
    | refine okV_get_wait ?_ (by with_reducible assumption)
    | with_reducible refine keep_mk (by assumption) ?_ rfl rfl rfl rfl rfl rfl rfl rfl rfl rfl rfl rfl rfl rfl rfl)

theorem keep_execSetWrite {R : State → State → Prop} (hR : Absorbs Held R) {s0 : State} {a0 a1 : Nat} {s : State} (h : R s0 s) :
    okO R s0 (execSetWrite a0 a1 s) := by
  have hS := hR.sameOfHeld
  unfold execSetWrite
  repeat' (first
    | with_reducible assumption
    | with_reducible refine fun _ => ?_
    | split
    | with_reducible apply okO_next
    | with_reducible apply keep_runEngine
    | with_reducible apply keep_setWriteEngine)

theorem keep_setCommitEngine {R : State → State → Prop} (hR : Absorbs Same R) {s0 : State} {a0 : Nat} {a1 : QCmd} {s : State} (h : R s0 s) :
    okV R s0 (setCommitEngine a0 a1 s) := by
  unfold setCommitEngine
  repeat' (first
    | with_reducible assumption
    | with_reducible refine fun _ => ?_
    | ((try lift_lets -underBinder); with_reducible intro x; first | (refine (fun (_ : R s0 x) => ?_) ?_; clear_value x; rotate_left; unfold x; rotate_right) | (refine (fun (_ : okP R s0 x) => ?_) ?_; clear_value x; rotate_left; unfold x; rotate_right) | clear_value x)
    | split
    | with_reducible apply okV_done
    | with_reducible apply okV_wait
    | with_reducible apply keep_invalid
    | with_reducible apply keep_refuse
    | with_reducible apply keep_modHarebell
    | with_reducible apply keep_modCmd
    | with_reducible refine keep_mk (by assumption) ?_ rfl rfl rfl rfl rfl rfl rfl rfl rfl rfl rfl rfl rfl rfl rfl)

theorem keep_execSetCommit {R : State → State → Prop} (hR : Absorbs Same R) {s0 : State} {a0 a1 : Nat} {s : State} (h : R s0 s) :
    okO R s0 (execSetCommit a0 a1 s) := by
  unfold execSetCommit
  repeat' (first
    | with_reducible assumption
    | with_reducible refine fun _ => ?_
    | split
    | with_reducible apply okO_next
    | with_reducible apply keep_runEngine
    | with_reducible apply keep_setCommitEngine)

theorem keep_setReadEngine {R : State → State → Prop} (hR : Absorbs Held R) {s0 : State} {a0 : Nat} {a1 : QCmd} {s : State} (h : R s0 s) :
    okV R s0 (setReadEngine a0 a1 s) := by
  have hS := hR.sameOfHeld
  unfold setReadEngine
  repeat' (first
    | with_reducible assumption
    | with_reducible refine fun _ => ?_
    | ((try lift_lets -underBinder); with_reducible intro x; first | (refine (fun (_ : R s0 x) => ?_) ?_; clear_value x; rotate_left; unfold x; rotate_right) | (refine (fun (_ : okP R s0 x) => ?_) ?_; clear_value x; rotate_left; unfold x; rotate_right) | clear_value x)
    | split
    | with_reducible apply okV_done
    | with_reducible apply okV_wait
    | with_reducible apply keep_invalid
    | with_reducible apply keep_raise
    | with_reducible apply keep_opWrite
    | with_reducible apply keep_failOperand
    | with_reducible apply keep_okay
    | refine okE_get ?_ (by with_reducible assumption)
    | refine okV_get_done ?_ (by with_reducible assumption)
    | refine okV_get_wait ?_ (by with_reducible assumption))

theorem keep_execSetRead {R : State → State → Prop} (hR : Absorbs Held R) {s0 : State} {a0 a1 : Nat} {s : State} (h : R s0 s) :
    okO R s0 (execSetRead a0 a1 s) := by
  have hS := hR.sameOfHeld
  unfold execSetRead
  repeat' (first
    | with_reducible assumption
    | with_reducible refine fun _ => ?_
    | split
    | with_reducible apply okO_next
    | with_reducible apply keep_runEngine
    | with_reducible apply keep_setReadEngine)

end Sys2Proof.Machine
end

