-- ==== Sys2Proof/Laws/KeepBoot.lean ====
section
/-! SUPPORT. What the operations of Machine/Boot.lean keep. -/

namespace Sys2Proof.Machine

theorem keep_keepField {R : State → State → Prop} (hR : Absorbs Same R) {s0 : State} {b0 : State} {a1 : Field} {s : State} (h : R s0 s) :
    R s0 (keepField b0 a1 s) := by
  unfold keepField
  repeat' (first
    | with_reducible assumption
    | with_reducible refine fun _ => ?_
    | split
    | with_reducible apply keep_fset)

theorem keep_keepWindow {R : State → State → Prop} (hR : Absorbs Same R) {s0 : State} {a0 : ResetKind} {a1 : Nat} {b2 : State} {s : State} (h : R s0 s) :
    R s0 (keepWindow a0 a1 b2 s) := by
  unfold keepWindow
  repeat' (first
    | with_reducible assumption
    | with_reducible refine fun _ => ?_
    | ((try lift_lets -underBinder); with_reducible intro x; first | (refine (fun (_ : R s0 x) => ?_) ?_; clear_value x; rotate_left; unfold x; rotate_right) | (refine (fun (_ : okP R s0 x) => ?_) ?_; clear_value x; rotate_left; unfold x; rotate_right) | clear_value x)
    | split
    | with_reducible apply keep_fset
    | with_reducible apply keep_forEach
    | with_reducible apply keep_keepField
    | with_reducible apply keep_fsetb
    | with_reducible apply keep_forRange)

theorem keep_resetState {R : State → State → Prop} (hR : Absorbs Kept R) {s0 : State} {k : ResetKind} {msel : Nat} {s : State} (h : R s0 s) :
    R s0 (resetState k msel s) := by
  have hH := hR.heldOfKept
  have hS := hR.sameOfKept
  unfold resetState
  extract_lets on r
  refine keep_keepWindow hS ?_
  refine hR _ _ _ h ⟨rfl, fun g => ?_⟩
  have e1 (b : Bool) : incrMin ≤ (if b then TimeUnit.init else { TimeUnit.init with incr := s.timeu.incr }).incr
      ∧ (if b then TimeUnit.init else { TimeUnit.init with incr := s.timeu.incr }).incr ≤ incrMax := by
    cases b
    · exact g.incr
    · exact (by decide : incrMin ≤ TimeUnit.init.incr ∧ TimeUnit.init.incr ≤ incrMax)
  exact { mem := rfl, flash := g.flash, cw := rfl, threads := rfl, units := rfl, vregs := rfl, queues := rfl, ctxs := rfl, lanes := rfl,
          mgmt := rfl, barriers := rfl
          incr := e1 on
          time := by
            show (if on then 0 else s.time) < 2 ^ 64
            cases on
            · exact g.time
            · exact Nat.two_pow_pos 64
          frac := by
            show (if on then 0 else s.frac) < 2 ^ 32
            cases on
            · exact g.frac
            · exact Nat.two_pow_pos 32 }

theorem keep_reportCopies {R : State → State → Prop} (hR : Absorbs Same R) {s0 : State} {a1 : List (Option α)} {s : State} (h : R s0 s) :
    R s0 (reportCopies a1 s) := by
  unfold reportCopies
  repeat' (first
    | with_reducible assumption
    | with_reducible refine fun _ => ?_
    | ((try lift_lets -underBinder); with_reducible intro x; first | (refine (fun (_ : R s0 x) => ?_) ?_; clear_value x; rotate_left; unfold x; rotate_right) | (refine (fun (_ : okP R s0 x) => ?_) ?_; clear_value x; rotate_left; unfold x; rotate_right) | clear_value x)
    | split
    | with_reducible apply keep_forEach
    | with_reducible apply keep_takeFree
    | with_reducible apply keep_raise
    | refine okP_get ?_ (by with_reducible assumption))

theorem keep_stageReport {R : State → State → Prop} (hR : Absorbs Same R) {s0 : State} {a0 a1 : Nat} {s : State} (h : R s0 s) :
    R s0 (stageReport a0 a1 s) := by
  unfold stageReport
  repeat' (first
    | with_reducible assumption
    | with_reducible refine fun _ => ?_
    | ((try lift_lets -underBinder); with_reducible intro x; first | (refine (fun (_ : R s0 x) => ?_) ?_; clear_value x; rotate_left; unfold x; rotate_right) | (refine (fun (_ : okP R s0 x) => ?_) ?_; clear_value x; rotate_left; unfold x; rotate_right) | clear_value x)
    | split
    | with_reducible apply keep_flashReport)

theorem keep_stageRefused {R : State → State → Prop} (hR : Absorbs Same R) {s0 : State} {a0 a1 a2 : Nat} {s : State} (h : R s0 s) :
    R s0 (stageRefused a0 a1 a2 s) := by
  unfold stageRefused
  repeat' (first
    | with_reducible assumption
    | with_reducible refine fun _ => ?_
    | split
    | with_reducible apply keep_raise)

theorem keep_Boot_next {R : State → State → Prop} {s0 : State} {b : Boot} {f : State → Boot} (h : okB R s0 b)
    (hf : ∀ s, R s0 s → okB R s0 (f s)) : okB R s0 (Boot.next b f) := by
  cases h with
  | on g => exact hf _ g
  | stop g => exact .stop g
  | refused g => exact .refused g

theorem keep_bootPhase {R : State → State → Prop} (hR : Absorbs Same R) {s0 : State} {a0 : Nat} {s : State} (h : R s0 s) :
    R s0 (bootPhase a0 s) := by
  unfold bootPhase
  repeat' (first
    | with_reducible assumption
    | with_reducible refine fun _ => ?_
    | split
    | with_reducible apply keep_fset)

theorem keep_bootStage {R : State → State → Prop} (hR : Absorbs Same R) {s0 : State} {a0 a1 : Nat} {s : State} (h : R s0 s) :
    okB R s0 (bootStage a0 a1 s) := by
  unfold bootStage
  repeat' (first
    | with_reducible assumption
    | with_reducible refine fun _ => ?_
    | ((try lift_lets -underBinder); with_reducible intro x; first | (refine (fun (_ : R s0 x) => ?_) ?_; clear_value x; rotate_left; unfold x; rotate_right) | (refine (fun (_ : okP R s0 x) => ?_) ?_; clear_value x; rotate_left; unfold x; rotate_right) | clear_value x)
    | split
    | with_reducible apply okB_on
    | with_reducible apply okB_stop
    | with_reducible apply okB_refused
    | with_reducible apply keep_modHarebell
    | with_reducible apply keep_extendMeas
    | with_reducible apply keep_fset
    | with_reducible apply keep_stageRefused
    | with_reducible apply keep_stageReport
    | with_reducible refine keep_mk (by assumption) ?_ rfl rfl rfl rfl rfl rfl rfl rfl rfl rfl rfl rfl rfl rfl rfl)

theorem keep_bootRom {R : State → State → Prop} (hR : Absorbs Same R) {s0 : State} {s : State} (h : R s0 s) :
    okB R s0 (bootRom s) := by
  unfold bootRom
  repeat' (first
    | with_reducible assumption
    | with_reducible refine fun _ => ?_
    | ((try lift_lets -underBinder); with_reducible intro x; first | (refine (fun (_ : R s0 x) => ?_) ?_; clear_value x; rotate_left; unfold x; rotate_right) | (refine (fun (_ : okP R s0 x) => ?_) ?_; clear_value x; rotate_left; unfold x; rotate_right) | clear_value x)
    | split
    | with_reducible apply okB_on
    | with_reducible apply okB_stop
    | with_reducible apply okB_refused
    | with_reducible apply keep_extendMeas
    | with_reducible apply keep_reportCopies
    | with_reducible apply keep_modHarebell
    | with_reducible apply keep_stageRefused
    | with_reducible refine keep_mk (by assumption) ?_ rfl rfl rfl rfl rfl rfl rfl rfl rfl rfl rfl rfl rfl rfl rfl)

theorem keep_bootQueue {R : State → State → Prop} (hR : Absorbs Same R) {s0 : State} {a0 a1 : Nat} {s : State} (h : R s0 s) :
    R s0 (bootQueue a0 a1 s) := by
  unfold bootQueue
  repeat' (first
    | with_reducible assumption
    | with_reducible refine fun _ => ?_
    | ((try lift_lets -underBinder); with_reducible intro x; first | (refine (fun (_ : R s0 x) => ?_) ?_; clear_value x; rotate_left; unfold x; rotate_right) | (refine (fun (_ : okP R s0 x) => ?_) ?_; clear_value x; rotate_left; unfold x; rotate_right) | clear_value x)
    | split
    | with_reducible apply keep_fset
    | with_reducible apply keep_fsetb
    | with_reducible apply keep_takeFree
    | refine okP_get ?_ (by with_reducible assumption))

theorem keep_bootQueues {R : State → State → Prop} (hR : Absorbs Same R) {s0 : State} {s : State} (h : R s0 s) :
    R s0 (bootQueues s) := by
  unfold bootQueues
  repeat' (first
    | with_reducible assumption
    | with_reducible refine fun _ => ?_
    | split
    | with_reducible apply keep_bootQueue)

theorem keep_bootMemory {R : State → State → Prop} (hR : Absorbs Same R) {s0 : State} {s : State} (h : R s0 s) :
    R s0 (bootMemory s) := by
  unfold bootMemory
  repeat' (first
    | with_reducible assumption
    | with_reducible refine fun _ => ?_
    | ((try lift_lets -underBinder); with_reducible intro x; first | (refine (fun (_ : R s0 x) => ?_) ?_; clear_value x; rotate_left; unfold x; rotate_right) | (refine (fun (_ : okP R s0 x) => ?_) ?_; clear_value x; rotate_left; unfold x; rotate_right) | clear_value x)
    | split
    | with_reducible apply keep_fsetb
    | with_reducible apply keep_bootPhase
    | with_reducible apply keep_forRange
    | with_reducible apply keep_setLinkState
    | with_reducible apply keep_logScan)

theorem keep_bootToken {R : State → State → Prop} (hR : Absorbs Same R) {s0 : State} {a0 : List SetRecord} {s : State} (h : R s0 s) :
    R s0 (bootToken a0 s) := by
  unfold bootToken
  repeat' (first
    | with_reducible assumption
    | with_reducible refine fun _ => ?_
    | ((try lift_lets -underBinder); with_reducible intro x; first | (refine (fun (_ : R s0 x) => ?_) ?_; clear_value x; rotate_left; unfold x; rotate_right) | (refine (fun (_ : okP R s0 x) => ?_) ?_; clear_value x; rotate_left; unfold x; rotate_right) | clear_value x)
    | split
    | with_reducible apply keep_extendMeas
    | with_reducible apply keep_raise
    | with_reducible apply keep_fsetb)

theorem keep_bootSet {R : State → State → Prop} (hR : Absorbs Same R) {s0 : State} {s : State} (h : R s0 s) :
    okB R s0 (bootSet s) := by
  unfold bootSet
  repeat' (first
    | with_reducible assumption
    | with_reducible refine fun _ => ?_
    | ((try lift_lets -underBinder); with_reducible intro x; first | (refine (fun (_ : R s0 x) => ?_) ?_; clear_value x; rotate_left; unfold x; rotate_right) | (refine (fun (_ : okP R s0 x) => ?_) ?_; clear_value x; rotate_left; unfold x; rotate_right) | clear_value x)
    | split
    | with_reducible apply okB_on
    | with_reducible apply okB_stop
    | with_reducible apply okB_refused
    | with_reducible apply keep_raise
    | with_reducible apply keep_bootToken
    | with_reducible apply keep_extendMeas)

theorem keep_bootStage3Place {R : State → State → Prop} (hR : Absorbs Same R) {s0 : State} {s : State} (h : R s0 s) :
    R s0 (bootStage3Place s) := by
  unfold bootStage3Place
  repeat' (first
    | with_reducible assumption
    | with_reducible refine fun _ => ?_
    | ((try lift_lets -underBinder); with_reducible intro x; first | (refine (fun (_ : R s0 x) => ?_) ?_; clear_value x; rotate_left; unfold x; rotate_right) | (refine (fun (_ : okP R s0 x) => ?_) ?_; clear_value x; rotate_left; unfold x; rotate_right) | clear_value x)
    | split
    | with_reducible apply keep_modHarebell
    | with_reducible refine keep_mk (by assumption) ?_ rfl rfl rfl rfl rfl rfl rfl rfl rfl rfl rfl rfl rfl rfl rfl)

theorem keep_bootContexts {R : State → State → Prop} (hR : Absorbs Held R) {s0 : State} {s : State} (h : R s0 s) :
    okB R s0 (bootContexts s) := by
  have hS := hR.sameOfHeld
  unfold bootContexts
  repeat' (first
    | with_reducible assumption
    | with_reducible refine fun _ => ?_
    | ((try lift_lets -underBinder); with_reducible intro x; first | (refine (fun (_ : R s0 x) => ?_) ?_; clear_value x; rotate_left; unfold x; rotate_right) | (refine (fun (_ : okP R s0 x) => ?_) ?_; clear_value x; rotate_left; unfold x; rotate_right) | clear_value x)
    | split
    | with_reducible apply okB_on
    | with_reducible apply okB_stop
    | with_reducible apply okB_refused
    | with_reducible apply keep_bootPhase
    | with_reducible apply keep_bootStage3Place
    | with_reducible apply keep_planRecord
    | with_reducible apply keep_createPlan)

theorem keep_loadCoefs {R : State → State → Prop} (hR : Absorbs Same R) {s0 : State} {a0 : List SetRecord} {a1 : Nat} {s : State} (h : R s0 s) :
    R s0 (loadCoefs a0 a1 s) := by
  unfold loadCoefs
  repeat' (first
    | with_reducible assumption
    | with_reducible refine fun _ => ?_
    | split
    | with_reducible apply keep_setLoop
    | with_reducible refine keep_mk (by assumption) ?_ rfl rfl rfl rfl rfl rfl rfl rfl rfl rfl rfl rfl rfl rfl rfl)

theorem keep_loadSet {R : State → State → Prop} (hR : Absorbs Same R) {s0 : State} {a0 : List SetRecord} {s : State} (h : R s0 s) :
    R s0 (loadSet a0 s) := by
  unfold loadSet
  repeat' (first
    | with_reducible assumption
    | with_reducible refine fun _ => ?_
    | ((try lift_lets -underBinder); with_reducible intro x; first | (refine (fun (_ : R s0 x) => ?_) ?_; clear_value x; rotate_left; unfold x; rotate_right) | (refine (fun (_ : okP R s0 x) => ?_) ?_; clear_value x; rotate_left; unfold x; rotate_right) | clear_value x)
    | split
    | with_reducible apply keep_commitLoops
    | with_reducible apply keep_storeSetRegs
    | with_reducible apply keep_fset
    | with_reducible apply keep_forRange
    | with_reducible apply keep_setNetPort
    | with_reducible apply keep_takeRings
    | with_reducible apply keep_loadCoefs
    | with_reducible apply keep_setStream
    | with_reducible apply keep_setGroup
    | with_reducible apply keep_setExtr
    | with_reducible apply keep_fsetb
    | with_reducible apply keep_applyTimeCfg
    | with_reducible apply keep_takeSafety
    | with_reducible refine keep_mk (by assumption) ?_ rfl rfl rfl rfl rfl rfl rfl rfl rfl rfl rfl rfl rfl rfl rfl)

theorem keep_bootBlocks {R : State → State → Prop} (hR : Absorbs Same R) {s0 : State} {s : State} (h : R s0 s) :
    okB R s0 (bootBlocks s) := by
  unfold bootBlocks
  repeat' (first
    | with_reducible assumption
    | with_reducible refine fun _ => ?_
    | ((try lift_lets -underBinder); with_reducible intro x; first | (refine (fun (_ : R s0 x) => ?_) ?_; clear_value x; rotate_left; unfold x; rotate_right) | (refine (fun (_ : okP R s0 x) => ?_) ?_; clear_value x; rotate_left; unfold x; rotate_right) | clear_value x)
    | split
    | with_reducible apply okB_on
    | with_reducible apply okB_stop
    | with_reducible apply okB_refused
    | with_reducible apply keep_loadSet)

theorem keep_bootInject {R : State → State → Prop} (hR : Absorbs Same R) {s0 : State} {a0 : Nat} {s : State} (h : R s0 s) :
    okB R s0 (bootInject a0 s) := by
  unfold bootInject
  repeat' (first
    | with_reducible assumption
    | with_reducible refine fun _ => ?_
    | ((try lift_lets -underBinder); with_reducible intro x; first | (refine (fun (_ : R s0 x) => ?_) ?_; clear_value x; rotate_left; unfold x; rotate_right) | (refine (fun (_ : okP R s0 x) => ?_) ?_; clear_value x; rotate_left; unfold x; rotate_right) | clear_value x)
    | split
    | with_reducible apply okB_on
    | with_reducible apply okB_stop
    | with_reducible apply okB_refused
    | with_reducible apply keep_injection
    | with_reducible apply keep_bootPhase
    | with_reducible apply keep_modHarebell
    | with_reducible apply keep_modSafety
    | with_reducible refine keep_mk (by assumption) ?_ rfl rfl rfl rfl rfl rfl rfl rfl rfl rfl rfl rfl rfl rfl rfl)

theorem keep_bringUpBank {R : State → State → Prop} (hR : Absorbs Held R) {s0 : State} {a0 : Nat} {s : State} (h : R s0 s) :
    okB R s0 (bringUpBank a0 s) := by
  have hS := hR.sameOfHeld
  unfold bringUpBank
  repeat' (first
    | with_reducible assumption
    | with_reducible refine fun _ => ?_
    | ((try lift_lets -underBinder); with_reducible intro x; first | (refine (fun (_ : R s0 x) => ?_) ?_; clear_value x; rotate_left; unfold x; rotate_right) | (refine (fun (_ : okP R s0 x) => ?_) ?_; clear_value x; rotate_left; unfold x; rotate_right) | clear_value x)
    | split
    | with_reducible apply okB_on
    | with_reducible apply okB_stop
    | with_reducible apply okB_refused
    | with_reducible apply keep_Boot_next
    | with_reducible apply keep_bootRom
    | with_reducible apply keep_bootStage
    | with_reducible apply keep_bootSet
    | with_reducible apply keep_bootMemory
    | with_reducible apply keep_bootQueues
    | with_reducible apply keep_bootPhase
    | with_reducible apply keep_holdLoad
    | with_reducible apply keep_bootContexts
    | with_reducible apply keep_bootBlocks
    | with_reducible apply keep_placeStage3
    | with_reducible apply keep_bootInject
    | refine okB_get_on ?_ (by with_reducible assumption)
    | refine okB_get_refused ?_ (by with_reducible assumption)
    | refine okB_get_stop ?_ (by with_reducible assumption)
    | refine okP_get ?_ (by with_reducible assumption))

theorem keep_useBank {R : State → State → Prop} (hR : Absorbs Same R) {s0 : State} {a0 : Nat} {a1 : Bool} {s : State} (h : R s0 s) :
    R s0 (useBank a0 a1 s) := by
  unfold useBank
  repeat' (first
    | with_reducible assumption
    | with_reducible refine fun _ => ?_
    | split
    | with_reducible apply keep_fsetb
    | with_reducible apply keep_modHarebell
    | with_reducible refine keep_mk (by assumption) ?_ rfl rfl rfl rfl rfl rfl rfl rfl rfl rfl rfl rfl rfl rfl rfl)

theorem keep_restart {R : State → State → Prop} (hR : Absorbs Kept R) {s0 : State} {a0 : Nat} {s : State} (h : R s0 s) :
    R s0 (restart a0 s) := by
  have hH := hR.heldOfKept
  have hS := hR.sameOfKept
  unfold restart
  repeat' (first
    | with_reducible assumption
    | with_reducible refine fun _ => ?_
    | ((try lift_lets -underBinder); with_reducible intro x; first | (refine (fun (_ : R s0 x) => ?_) ?_; clear_value x; rotate_left; unfold x; rotate_right) | (refine (fun (_ : okP R s0 x) => ?_) ?_; clear_value x; rotate_left; unfold x; rotate_right) | clear_value x)
    | split
    | with_reducible apply keep_resetState
    | with_reducible apply keep_fset
    | with_reducible refine keep_mk (by assumption) ?_ rfl rfl rfl rfl rfl rfl rfl rfl rfl rfl rfl rfl rfl rfl rfl)

theorem keep_abandonTrial {R : State → State → Prop} (hR : Absorbs Same R) {s0 : State} {a0 : Nat} {s : State} (h : R s0 s) :
    R s0 (abandonTrial a0 s) := by
  unfold abandonTrial
  repeat' (first
    | with_reducible assumption
    | with_reducible refine fun _ => ?_
    | ((try lift_lets -underBinder); with_reducible intro x; first | (refine (fun (_ : R s0 x) => ?_) ?_; clear_value x; rotate_left; unfold x; rotate_right) | (refine (fun (_ : okP R s0 x) => ?_) ?_; clear_value x; rotate_left; unfold x; rotate_right) | clear_value x)
    | split
    | with_reducible apply keep_raise
    | with_reducible apply keep_modHarebell
    | with_reducible refine keep_mk (by assumption) ?_ rfl rfl rfl rfl rfl rfl rfl rfl rfl rfl rfl rfl rfl rfl rfl)

theorem keep_bringUp {R : State → State → Prop} (hR : Absorbs Kept R) {s0 : State} {failed : Nat} : ∀ (fuel : Nat) {last : Bool}
    {s : State}, R s0 s → R s0 (bringUp fuel failed last s) := by
  have hH := hR.heldOfKept
  have hS := hR.sameOfKept
  intro fuel
  induction fuel with
  | zero => intro last s h; exact h
  | succ n ih =>
    intro last s h
    unfold bringUp
    repeat' (first
      | with_reducible apply ih
      | with_reducible assumption
      | with_reducible refine fun _ => ?_
      | ((try lift_lets -underBinder); with_reducible intro x; first | (refine (fun (_ : R s0 x) => ?_) ?_; clear_value x; rotate_left; unfold x; rotate_right) | (refine (fun (_ : okP R s0 x) => ?_) ?_; clear_value x; rotate_left; unfold x; rotate_right) | clear_value x)
      | split
      | with_reducible apply keep_useBank
      | with_reducible apply keep_bringUpBank
      | with_reducible apply keep_abandonTrial
      | with_reducible apply keep_restart
      | refine okB_get_on ?_ (by with_reducible assumption)
      | refine okB_get_refused ?_ (by with_reducible assumption)
      | refine okB_get_stop ?_ (by with_reducible assumption))

theorem keep_startBringUp {R : State → State → Prop} (hR : Absorbs Kept R) {s0 : State} {a0 a1 a2 : Nat} {s : State} (h : R s0 s) :
    R s0 (startBringUp a0 a1 a2 s) := by
  have hH := hR.heldOfKept
  have hS := hR.sameOfKept
  unfold startBringUp
  repeat' (first
    | with_reducible assumption
    | with_reducible refine fun _ => ?_
    | ((try lift_lets -underBinder); with_reducible intro x; first | (refine (fun (_ : R s0 x) => ?_) ?_; clear_value x; rotate_left; unfold x; rotate_right) | (refine (fun (_ : okP R s0 x) => ?_) ?_; clear_value x; rotate_left; unfold x; rotate_right) | clear_value x)
    | split
    | with_reducible apply keep_fset
    | with_reducible apply keep_bringUp
    | with_reducible apply keep_useBank)

theorem keep_bootTime {R : State → State → Prop} (hR : Absorbs Kept R) {s0 : State} {s : State} (h : R s0 s) :
    R s0 (bootTime s) := by
  have hH := hR.heldOfKept
  have hS := hR.sameOfKept
  unfold bootTime
  repeat' (first
    | with_reducible assumption
    | with_reducible refine fun _ => ?_
    | ((try lift_lets -underBinder); with_reducible intro x; first | (refine (fun (_ : R s0 x) => ?_) ?_; clear_value x; rotate_left; unfold x; rotate_right) | (refine (fun (_ : okP R s0 x) => ?_) ?_; clear_value x; rotate_left; unfold x; rotate_right) | clear_value x)
    | split
    | with_reducible apply keep_advanceDomAt
    | with_reducible apply keep_setTime)

theorem keep_stayHeld {R : State → State → Prop} (hR : Absorbs Same R) {s0 : State} {s : State} (h : R s0 s) :
    R s0 (stayHeld s) := by
  unfold stayHeld
  repeat' (first
    | with_reducible assumption
    | with_reducible refine fun _ => ?_
    | ((try lift_lets -underBinder); with_reducible intro x; first | (refine (fun (_ : R s0 x) => ?_) ?_; clear_value x; rotate_left; unfold x; rotate_right) | (refine (fun (_ : okP R s0 x) => ?_) ?_; clear_value x; rotate_left; unfold x; rotate_right) | clear_value x)
    | split
    | with_reducible apply keep_fsetb
    | with_reducible apply keep_fset
    | with_reducible apply keep_suspendRefine
    | with_reducible apply keep_yarrowSafe)

theorem keep_bootDone {R : State → State → Prop} (hR : Absorbs Kept R) {s0 : State} {s : State} (h : R s0 s) :
    R s0 (bootDone s) := by
  have hH := hR.heldOfKept
  have hS := hR.sameOfKept
  unfold bootDone
  repeat' (first
    | with_reducible assumption
    | with_reducible refine fun _ => ?_
    | ((try lift_lets -underBinder); with_reducible intro x; first | (refine (fun (_ : R s0 x) => ?_) ?_; clear_value x; rotate_left; unfold x; rotate_right) | (refine (fun (_ : okP R s0 x) => ?_) ?_; clear_value x; rotate_left; unfold x; rotate_right) | clear_value x)
    | split
    | with_reducible apply keep_bootTime
    | with_reducible apply keep_forRange
    | with_reducible apply keep_loadTrigger
    | with_reducible apply keep_startStream
    | with_reducible apply keep_fsetb
    | with_reducible apply keep_bootPhase
    | with_reducible apply keep_stayHeld
    | with_reducible apply keep_fset
    | with_reducible apply keep_startStage3
    | with_reducible apply keep_modHarebell
    | with_reducible apply keep_modSafety
    | with_reducible apply keep_raise
    | with_reducible apply keep_autoJoin
    | with_reducible refine keep_mk (by assumption) ?_ rfl rfl rfl rfl rfl rfl rfl rfl rfl rfl rfl rfl rfl rfl rfl)

theorem keep_execBootDone {R : State → State → Prop} (hR : Absorbs Kept R) {s0 : State} {s : State} (h : R s0 s) :
    okO R s0 (execBootDone s) := by
  have hH := hR.heldOfKept
  have hS := hR.sameOfKept
  unfold execBootDone
  repeat' (first
    | with_reducible assumption
    | with_reducible refine fun _ => ?_
    | split
    | with_reducible apply okO_next
    | with_reducible apply keep_whenAlive
    | with_reducible apply keep_bootDone)

theorem keep_execTrialBootTimeout {R : State → State → Prop} (hR : Absorbs Kept R) {s0 : State} {a0 : Nat} {s : State} (h : R s0 s) :
    okO R s0 (execTrialBootTimeout a0 s) := by
  have hH := hR.heldOfKept
  have hS := hR.sameOfKept
  unfold execTrialBootTimeout
  repeat' (first
    | with_reducible assumption
    | with_reducible refine fun _ => ?_
    | ((try lift_lets -underBinder); with_reducible intro x; first | (refine (fun (_ : R s0 x) => ?_) ?_; clear_value x; rotate_left; unfold x; rotate_right) | (refine (fun (_ : okP R s0 x) => ?_) ?_; clear_value x; rotate_left; unfold x; rotate_right) | clear_value x)
    | split
    | with_reducible apply okO_next
    | with_reducible apply keep_whenAlive
    | with_reducible apply keep_restart
    | with_reducible apply keep_abandonTrial
    | with_reducible apply keep_bringUp
    | with_reducible apply keep_useBank)

theorem keep_execPowerOnReset {R : State → State → Prop} (hR : Absorbs Kept R) {s0 : State} {a0 a1 : Nat} {s : State} (h : R s0 s) :
    okO R s0 (execPowerOnReset a0 a1 s) := by
  have hH := hR.heldOfKept
  have hS := hR.sameOfKept
  unfold execPowerOnReset
  repeat' (first
    | with_reducible assumption
    | with_reducible refine fun _ => ?_
    | ((try lift_lets -underBinder); with_reducible intro x; first | (refine (fun (_ : R s0 x) => ?_) ?_; clear_value x; rotate_left; unfold x; rotate_right) | (refine (fun (_ : okP R s0 x) => ?_) ?_; clear_value x; rotate_left; unfold x; rotate_right) | clear_value x)
    | split
    | with_reducible apply okO_next
    | with_reducible apply keep_modPower
    | with_reducible apply keep_resetState
    | with_reducible apply keep_fset
    | with_reducible apply keep_startBringUp
    | with_reducible refine keep_mk (by assumption) ?_ rfl rfl rfl rfl rfl rfl rfl rfl rfl rfl rfl rfl rfl rfl rfl)

theorem keep_execRstNAssert {R : State → State → Prop} (hR : Absorbs Kept R) {s0 : State} {s : State} (h : R s0 s) :
    okO R s0 (execRstNAssert s) := by
  have hH := hR.heldOfKept
  have hS := hR.sameOfKept
  unfold execRstNAssert
  repeat' (first
    | with_reducible assumption
    | with_reducible refine fun _ => ?_
    | ((try lift_lets -underBinder); with_reducible intro x; first | (refine (fun (_ : R s0 x) => ?_) ?_; clear_value x; rotate_left; unfold x; rotate_right) | (refine (fun (_ : okP R s0 x) => ?_) ?_; clear_value x; rotate_left; unfold x; rotate_right) | clear_value x)
    | split
    | with_reducible apply okO_next
    | with_reducible apply keep_resetState
    | with_reducible apply keep_modPower
    | with_reducible refine keep_mk (by assumption) ?_ rfl rfl rfl rfl rfl rfl rfl rfl rfl rfl rfl rfl rfl rfl rfl)

theorem keep_execRstNRelease {R : State → State → Prop} (hR : Absorbs Kept R) {s0 : State} {a0 a1 : Nat} {s : State} (h : R s0 s) :
    okO R s0 (execRstNRelease a0 a1 s) := by
  have hH := hR.heldOfKept
  have hS := hR.sameOfKept
  unfold execRstNRelease
  repeat' (first
    | with_reducible assumption
    | with_reducible refine fun _ => ?_
    | ((try lift_lets -underBinder); with_reducible intro x; first | (refine (fun (_ : R s0 x) => ?_) ?_; clear_value x; rotate_left; unfold x; rotate_right) | (refine (fun (_ : okP R s0 x) => ?_) ?_; clear_value x; rotate_left; unfold x; rotate_right) | clear_value x)
    | split
    | with_reducible apply okO_next
    | with_reducible apply keep_modPower
    | with_reducible apply keep_startBringUp
    | with_reducible apply keep_resetState
    | with_reducible refine keep_mk (by assumption) ?_ rfl rfl rfl rfl rfl rfl rfl rfl rfl rfl rfl rfl rfl rfl rfl)

end Sys2Proof.Machine
end

