-- ==== Sys2Proof/Laws/KeepResets.lean ====
section
/-! SUPPORT. What the operations of Machine/Resets.lean keep. -/

namespace Sys2Proof.Machine

theorem keep_warmResetEngine {R : State → State → Prop} (hR : Absorbs Kept R) {s0 : State} {a0 : Nat} {a1 : QCmd} {s : State} (h : R s0 s) :
    okV R s0 (warmResetEngine a0 a1 s) := by
  have hH := hR.heldOfKept
  have hS := hR.sameOfKept
  unfold warmResetEngine
  repeat' (first
    | with_reducible assumption
    | with_reducible refine fun _ => ?_
    | split
    | with_reducible apply okV_done
    | with_reducible apply okV_wait
    | with_reducible apply keep_invalid
    | with_reducible apply keep_refuse
    | with_reducible apply keep_startBringUp
    | with_reducible apply keep_resetState
    | with_reducible apply keep_leaveSteps)

theorem keep_execWarmReset {R : State → State → Prop} (hR : Absorbs Kept R) {s0 : State} {a0 a1 a2 : Nat} {s : State} (h : R s0 s) :
    okO R s0 (execWarmReset a0 a1 a2 s) := by
  have hH := hR.heldOfKept
  have hS := hR.sameOfKept
  unfold execWarmReset
  repeat' (first
    | with_reducible assumption
    | with_reducible refine fun _ => ?_
    | split
    | with_reducible apply okO_next
    | with_reducible apply keep_runEngine
    | with_reducible apply keep_warmResetEngine)

theorem keep_linksDown {R : State → State → Prop} (hR : Absorbs Same R) {s0 : State} {s : State} (h : R s0 s) :
    R s0 (linksDown s) := by
  unfold linksDown
  repeat' (first
    | with_reducible assumption
    | with_reducible refine fun _ => ?_
    | ((try lift_lets -underBinder); with_reducible intro x; first | (refine (fun (_ : R s0 x) => ?_) ?_; clear_value x; rotate_left; unfold x; rotate_right) | (refine (fun (_ : okP R s0 x) => ?_) ?_; clear_value x; rotate_left; unfold x; rotate_right) | clear_value x)
    | split
    | with_reducible apply keep_forRange
    | with_reducible apply keep_fset
    | with_reducible apply keep_fsetb
    | with_reducible apply keep_setLinkState
    | with_reducible apply keep_setRegWord)

theorem keep_enterDrowse {R : State → State → Prop} (hR : Absorbs Same R) {s0 : State} {a0 : Nat} {s : State} (h : R s0 s) :
    R s0 (enterDrowse a0 s) := by
  unfold enterDrowse
  repeat' (first
    | with_reducible assumption
    | with_reducible refine fun _ => ?_
    | ((try lift_lets -underBinder); with_reducible intro x; first | (refine (fun (_ : R s0 x) => ?_) ?_; clear_value x; rotate_left; unfold x; rotate_right) | (refine (fun (_ : okP R s0 x) => ?_) ?_; clear_value x; rotate_left; unfold x; rotate_right) | clear_value x)
    | split
    | with_reducible apply keep_raise
    | with_reducible apply keep_linksDown
    | with_reducible apply keep_modPower
    | with_reducible apply keep_fset
    | with_reducible refine keep_mk (by assumption) ?_ rfl rfl rfl rfl rfl rfl rfl rfl rfl rfl rfl rfl rfl rfl rfl)

theorem keep_drainLog {R : State → State → Prop} (hR : Absorbs Same R) {s0 : State} {s : State} (h : R s0 s) :
    R s0 (drainLog s) := by
  unfold drainLog
  repeat' (first
    | with_reducible assumption
    | with_reducible refine fun _ => ?_
    | ((try lift_lets -underBinder); with_reducible intro x; first | (refine (fun (_ : R s0 x) => ?_) ?_; clear_value x; rotate_left; unfold x; rotate_right) | (refine (fun (_ : okP R s0 x) => ?_) ?_; clear_value x; rotate_left; unfold x; rotate_right) | clear_value x)
    | split
    | with_reducible apply keep_foldl
    | with_reducible apply okP_foldl
    | with_reducible refine keep_mk (by assumption) ?_ rfl rfl rfl rfl rfl rfl rfl rfl rfl rfl rfl rfl rfl rfl rfl)

theorem keep_enterDormant {R : State → State → Prop} (hR : Absorbs Kept R) {s0 : State} {a0 : Nat} {s : State} (h : R s0 s) :
    R s0 (enterDormant a0 s) := by
  have hH := hR.heldOfKept
  have hS := hR.sameOfKept
  unfold enterDormant
  repeat' (first
    | with_reducible assumption
    | with_reducible refine fun _ => ?_
    | ((try lift_lets -underBinder); with_reducible intro x; first | (refine (fun (_ : R s0 x) => ?_) ?_; clear_value x; rotate_left; unfold x; rotate_right) | (refine (fun (_ : okP R s0 x) => ?_) ?_; clear_value x; rotate_left; unfold x; rotate_right) | clear_value x)
    | split
    | with_reducible apply keep_drainLog
    | with_reducible apply keep_raise
    | with_reducible apply keep_modSafety
    | with_reducible apply keep_resetState
    | with_reducible apply keep_modPower
    | with_reducible refine keep_mk (by assumption) ?_ rfl rfl rfl rfl rfl rfl rfl rfl rfl rfl rfl rfl rfl rfl rfl)

theorem keep_exitDormant {R : State → State → Prop} (hR : Absorbs Kept R) {s0 : State} {a0 a1 : Nat} {s : State} (h : R s0 s) :
    R s0 (exitDormant a0 a1 s) := by
  have hH := hR.heldOfKept
  have hS := hR.sameOfKept
  unfold exitDormant
  repeat' (first
    | with_reducible assumption
    | with_reducible refine fun _ => ?_
    | ((try lift_lets -underBinder); with_reducible intro x; first | (refine (fun (_ : R s0 x) => ?_) ?_; clear_value x; rotate_left; unfold x; rotate_right) | (refine (fun (_ : okP R s0 x) => ?_) ?_; clear_value x; rotate_left; unfold x; rotate_right) | clear_value x)
    | split
    | with_reducible apply keep_modSafety
    | with_reducible apply keep_resetState
    | with_reducible apply keep_modPower
    | with_reducible apply keep_startBringUp
    | with_reducible refine keep_mk (by assumption) ?_ rfl rfl rfl rfl rfl rfl rfl rfl rfl rfl rfl rfl rfl rfl rfl)

theorem keep_flushReplies {R : State → State → Prop} (hR : Absorbs Same R) {s0 : State} {a0 : Nat} {s : State} (h : R s0 s) :
    R s0 (flushReplies a0 s) := by
  unfold flushReplies
  repeat' (first
    | with_reducible assumption
    | with_reducible refine fun _ => ?_
    | ((try lift_lets -underBinder); with_reducible intro x; first | (refine (fun (_ : R s0 x) => ?_) ?_; clear_value x; rotate_left; unfold x; rotate_right) | (refine (fun (_ : okP R s0 x) => ?_) ?_; clear_value x; rotate_left; unfold x; rotate_right) | clear_value x)
    | split
    | with_reducible apply keep_sendReplies)

theorem keep_replyThenSleep {R : State → State → Prop} (hR : Absorbs Kept R) {s0 : State} {a0 a1 : Nat} {a2 : QCmd} {s : State} (h : R s0 s) :
    R s0 (replyThenSleep a0 a1 a2 s) := by
  have hH := hR.heldOfKept
  have hS := hR.sameOfKept
  unfold replyThenSleep
  repeat' (first
    | with_reducible assumption
    | with_reducible refine fun _ => ?_
    | ((try lift_lets -underBinder); with_reducible intro x; first | (refine (fun (_ : R s0 x) => ?_) ?_; clear_value x; rotate_left; unfold x; rotate_right) | (refine (fun (_ : okP R s0 x) => ?_) ?_; clear_value x; rotate_left; unfold x; rotate_right) | clear_value x)
    | split
    | with_reducible apply keep_completeCmd
    | with_reducible apply keep_enterDormant
    | with_reducible apply keep_flushReplies
    | with_reducible apply keep_postReply)

theorem keep_powerStateEngine {R : State → State → Prop} (hR : Absorbs Kept R) {s0 : State} {a0 : Nat} {a1 : QCmd} {s : State} (h : R s0 s) :
    okV R s0 (powerStateEngine a0 a1 s) := by
  have hH := hR.heldOfKept
  have hS := hR.sameOfKept
  unfold powerStateEngine
  repeat' (first
    | with_reducible assumption
    | with_reducible refine fun _ => ?_
    | ((try lift_lets -underBinder); with_reducible intro x; first | (refine (fun (_ : R s0 x) => ?_) ?_; clear_value x; rotate_left; unfold x; rotate_right) | (refine (fun (_ : okP R s0 x) => ?_) ?_; clear_value x; rotate_left; unfold x; rotate_right) | clear_value x)
    | split
    | with_reducible apply okV_done
    | with_reducible apply okV_wait
    | with_reducible apply keep_invalid
    | with_reducible apply keep_okay
    | with_reducible apply keep_refuse
    | with_reducible apply keep_enterDrowse
    | with_reducible apply keep_replyThenSleep)

theorem keep_execPowerStateSet {R : State → State → Prop} (hR : Absorbs Kept R) {s0 : State} {a0 a1 : Nat} {s : State} (h : R s0 s) :
    okO R s0 (execPowerStateSet a0 a1 s) := by
  have hH := hR.heldOfKept
  have hS := hR.sameOfKept
  unfold execPowerStateSet
  repeat' (first
    | with_reducible assumption
    | with_reducible refine fun _ => ?_
    | split
    | with_reducible apply okO_next
    | with_reducible apply keep_runEngine
    | with_reducible apply keep_powerStateEngine)

theorem keep_wakeUp {R : State → State → Prop} (hR : Absorbs Kept R) {s0 : State} {a0 a1 : Nat} {s : State} (h : R s0 s) :
    R s0 (wakeUp a0 a1 s) := by
  have hH := hR.heldOfKept
  have hS := hR.sameOfKept
  unfold wakeUp
  repeat' (first
    | with_reducible assumption
    | with_reducible refine fun _ => ?_
    | split
    | with_reducible apply keep_exitDormant
    | with_reducible apply keep_drowseExit)

theorem keep_execWakeNLow {R : State → State → Prop} (hR : Absorbs Kept R) {s0 : State} {a0 : Nat} {s : State} (h : R s0 s) :
    okO R s0 (execWakeNLow a0 s) := by
  have hH := hR.heldOfKept
  have hS := hR.sameOfKept
  unfold execWakeNLow
  repeat' (first
    | with_reducible assumption
    | with_reducible refine fun _ => ?_
    | split
    | with_reducible apply okO_next
    | with_reducible apply keep_wakeUp)

theorem keep_execWakeAfterMsExpiry {R : State → State → Prop} (hR : Absorbs Kept R) {s0 : State} {a0 : Nat} {s : State} (h : R s0 s) :
    okO R s0 (execWakeAfterMsExpiry a0 s) := by
  have hH := hR.heldOfKept
  have hS := hR.sameOfKept
  unfold execWakeAfterMsExpiry
  repeat' (first
    | with_reducible assumption
    | with_reducible refine fun _ => ?_
    | split
    | with_reducible apply okO_next
    | with_reducible apply keep_wakeUp)

theorem keep_shutOff {R : State → State → Prop} (hR : Absorbs Kept R) {s0 : State} {s : State} (h : R s0 s) :
    R s0 (shutOff s) := by
  have hH := hR.heldOfKept
  have hS := hR.sameOfKept
  unfold shutOff
  repeat' (first
    | with_reducible assumption
    | with_reducible refine fun _ => ?_
    | ((try lift_lets -underBinder); with_reducible intro x; first | (refine (fun (_ : R s0 x) => ?_) ?_; clear_value x; rotate_left; unfold x; rotate_right) | (refine (fun (_ : okP R s0 x) => ?_) ?_; clear_value x; rotate_left; unfold x; rotate_right) | clear_value x)
    | split
    | with_reducible apply keep_resetState
    | with_reducible apply keep_modPower
    | with_reducible refine keep_mk (by assumption) ?_ rfl rfl rfl rfl rfl rfl rfl rfl rfl rfl rfl rfl rfl rfl rfl)

theorem keep_execBusShutoff {R : State → State → Prop} (hR : Absorbs Kept R) {s0 : State} {s : State} (h : R s0 s) :
    okO R s0 (execBusShutoff s) := by
  have hH := hR.heldOfKept
  have hS := hR.sameOfKept
  unfold execBusShutoff
  repeat' (first
    | with_reducible assumption
    | with_reducible refine fun _ => ?_
    | split
    | with_reducible apply okO_next
    | with_reducible apply keep_shutOff)

theorem keep_execThermalShutdown {R : State → State → Prop} (hR : Absorbs Kept R) {s0 : State} {a0 : Nat} {s : State} (h : R s0 s) :
    okO R s0 (execThermalShutdown a0 s) := by
  have hH := hR.heldOfKept
  have hS := hR.sameOfKept
  unfold execThermalShutdown
  repeat' (first
    | with_reducible assumption
    | with_reducible refine fun _ => ?_
    | split
    | with_reducible apply okO_next
    | with_reducible apply keep_whenAlive
    | with_reducible apply keep_shutOff
    | with_reducible apply keep_drainLog
    | with_reducible apply keep_raise)

theorem keep_execPhaseFault {R : State → State → Prop} (hR : Absorbs Kept R) {s0 : State} {a0 : Nat} {a1 : PhaseCause} {s : State} (h : R s0 s) :
    okO R s0 (execPhaseFault a0 a1 s) := by
  have hH := hR.heldOfKept
  have hS := hR.sameOfKept
  unfold execPhaseFault
  repeat' (first
    | with_reducible assumption
    | with_reducible refine fun _ => ?_
    | ((try lift_lets -underBinder); with_reducible intro x; first | (refine (fun (_ : R s0 x) => ?_) ?_; clear_value x; rotate_left; unfold x; rotate_right) | (refine (fun (_ : okP R s0 x) => ?_) ?_; clear_value x; rotate_left; unfold x; rotate_right) | clear_value x)
    | split
    | with_reducible apply okO_next
    | with_reducible apply keep_whenAlive
    | with_reducible apply keep_finc
    | with_reducible apply keep_fsetb
    | with_reducible apply keep_raise
    | with_reducible apply keep_shutOff
    | with_reducible apply keep_rescheduleAll
    | with_reducible apply keep_linksDown)

theorem keep_powerReadEngine {R : State → State → Prop} (hR : Absorbs Held R) {s0 : State} {a0 : Nat} {a1 : QCmd} {s : State} (h : R s0 s) :
    okV R s0 (powerReadEngine a0 a1 s) := by
  have hS := hR.sameOfHeld
  unfold powerReadEngine
  repeat' (first
    | with_reducible assumption
    | with_reducible refine fun _ => ?_
    | ((try lift_lets -underBinder); with_reducible intro x; first | (refine (fun (_ : R s0 x) => ?_) ?_; clear_value x; rotate_left; unfold x; rotate_right) | (refine (fun (_ : okP R s0 x) => ?_) ?_; clear_value x; rotate_left; unfold x; rotate_right) | clear_value x)
    | split
    | with_reducible apply okV_done
    | with_reducible apply okV_wait
    | with_reducible apply keep_invalid
    | with_reducible apply keep_opWrite
    | with_reducible apply keep_failOperand
    | with_reducible apply keep_okay
    | refine okE_get ?_ (by with_reducible assumption)
    | refine okV_get_done ?_ (by with_reducible assumption)
    | refine okV_get_wait ?_ (by with_reducible assumption))

theorem keep_execPowerRead {R : State → State → Prop} (hR : Absorbs Held R) {s0 : State} {a0 a1 : Nat} {s : State} (h : R s0 s) :
    okO R s0 (execPowerRead a0 a1 s) := by
  have hS := hR.sameOfHeld
  unfold execPowerRead
  repeat' (first
    | with_reducible assumption
    | with_reducible refine fun _ => ?_
    | split
    | with_reducible apply okO_next
    | with_reducible apply keep_runEngine
    | with_reducible apply keep_powerReadEngine)

end Sys2Proof.Machine
end

