-- ==== Sys2Proof/Laws/KeepUpkeep.lean ====
section
/-! SUPPORT. What the operations of Machine/Upkeep.lean keep. -/

namespace Sys2Proof.Machine

theorem keep_scrubBad {R : State → State → Prop} (hR : Absorbs Same R) {s0 : State} {a0 : Nat} {s : State} (h : R s0 s) :
    R s0 (scrubBad a0 s) := by
  unfold scrubBad
  repeat' (first
    | with_reducible assumption
    | with_reducible refine fun _ => ?_
    | ((try lift_lets -underBinder); with_reducible intro x; first | (refine (fun (_ : R s0 x) => ?_) ?_; clear_value x; rotate_left; unfold x; rotate_right) | (refine (fun (_ : okP R s0 x) => ?_) ?_; clear_value x; rotate_left; unfold x; rotate_right) | clear_value x)
    | split
    | with_reducible apply keep_fsetb
    | with_reducible apply keep_fset
    | with_reducible apply keep_markBad
    | with_reducible apply keep_stackUncorr
    | with_reducible apply keep_raise)

theorem keep_scrubRead {R : State → State → Prop} (hR : Absorbs Same R) {s0 : State} {a0 : Nat} {a1 : ScrubResult} {s : State} (h : R s0 s) :
    R s0 (scrubRead a0 a1 s) := by
  unfold scrubRead
  repeat' (first
    | with_reducible assumption
    | with_reducible refine fun _ => ?_
    | split
    | with_reducible apply keep_scrubBad
    | with_reducible apply keep_corrCount)

theorem keep_execScrubPassRead {R : State → State → Prop} (hR : Absorbs Same R) {s0 : State} {a0 : Nat} {a1 : ScrubResult} {s : State} (h : R s0 s) :
    okO R s0 (execScrubPassRead a0 a1 s) := by
  unfold execScrubPassRead
  repeat' (first
    | with_reducible assumption
    | with_reducible refine fun _ => ?_
    | split
    | with_reducible apply okO_next
    | with_reducible apply keep_whenAlive
    | with_reducible apply keep_scrubRead)

theorem keep_execCorrHourRoll {R : State → State → Prop} (hR : Absorbs Same R) {s0 : State} {s : State} (h : R s0 s) :
    okO R s0 (execCorrHourRoll s) := by
  unfold execCorrHourRoll
  repeat' (first
    | with_reducible assumption
    | with_reducible refine fun _ => ?_
    | ((try lift_lets -underBinder); with_reducible intro x; first | (refine (fun (_ : R s0 x) => ?_) ?_; clear_value x; rotate_left; unfold x; rotate_right) | (refine (fun (_ : okP R s0 x) => ?_) ?_; clear_value x; rotate_left; unfold x; rotate_right) | clear_value x)
    | split
    | with_reducible apply okO_next
    | with_reducible apply keep_whenAlive
    | with_reducible apply keep_forRange
    | with_reducible apply keep_corrRaise
    | with_reducible apply keep_fset
    | with_reducible apply keep_setStackLog
    | with_reducible refine keep_mk (by assumption) ?_ rfl rfl rfl rfl rfl rfl rfl rfl rfl rfl rfl rfl rfl rfl rfl)

theorem keep_wire {R : State → State → Prop} (hR : Absorbs Same R) {s0 : State} {s : State} {a1 : Wire} (h : R s0 s) :
    R s0 (wire s a1) := by
  unfold wire
  repeat' (first
    | with_reducible assumption
    | with_reducible refine fun _ => ?_
    | split
    | with_reducible refine keep_mk (by assumption) ?_ rfl rfl rfl rfl rfl rfl rfl rfl rfl rfl rfl rfl rfl rfl rfl)

theorem keep_pcieAnswer {R : State → State → Prop} (hR : Absorbs Same R) {s0 : State} {a0 : PcieCompletion} {s : State} (h : R s0 s) :
    okP R s0 (pcieAnswer a0 s) := by
  unfold pcieAnswer
  repeat' (first
    | with_reducible assumption
    | with_reducible refine fun _ => ?_
    | split
    | with_reducible apply keep_raise)

theorem keep_pcieCfgRead {R : State → State → Prop} (hR : Absorbs Same R) {s0 : State} {a0 : PcieCompletion} {s : State} (h : R s0 s) :
    okP R s0 (pcieCfgRead a0 s) := by
  unfold pcieCfgRead
  repeat' (first
    | with_reducible assumption
    | with_reducible refine fun _ => ?_
    | split
    | with_reducible apply keep_pcieAnswer
    | with_reducible apply keep_wire)

theorem keep_pcieMemRead {R : State → State → Prop} (hR : Absorbs Same R) {s0 : State} {a0 : PcieCompletion} {s : State} (h : R s0 s) :
    okP R s0 (pcieMemRead a0 s) := by
  unfold pcieMemRead
  repeat' (first
    | with_reducible assumption
    | with_reducible refine fun _ => ?_
    | split
    | with_reducible apply keep_pcieAnswer
    | with_reducible apply keep_wire)

theorem keep_pcieCfgWrite {R : State → State → Prop} (hR : Absorbs Same R) {s0 : State} {a0 : Nat} {a1 : PcieCompletion} {s : State} (h : R s0 s) :
    R s0 (pcieCfgWrite a0 a1 s) := by
  unfold pcieCfgWrite
  repeat' (first
    | with_reducible assumption
    | with_reducible refine fun _ => ?_
    | split
    | with_reducible apply keep_pcieAnswer
    | with_reducible apply keep_wire)

theorem keep_pcieMemWrite {R : State → State → Prop} (hR : Absorbs Same R) {s0 : State} {a0 : Nat} {a1 : PcieCompletion} {s : State} (h : R s0 s) :
    R s0 (pcieMemWrite a0 a1 s) := by
  unfold pcieMemWrite
  repeat' (first
    | with_reducible assumption
    | with_reducible refine fun _ => ?_
    | split
    | with_reducible apply keep_pcieAnswer
    | with_reducible apply keep_wire)

theorem keep_keepData {R : State → State → Prop} (hR : Absorbs Same R) {s0 : State} {off : Nat} {p : Nat × State} (h : okP R s0 p) :
    R s0 (keepData off p) := keep_setRegWord hR h

theorem keep_execPcieCfgRead {R : State → State → Prop} (hR : Absorbs Same R) {s0 : State} {a0 : Agent} {a1 : PcieCompletion} {s : State} (h : R s0 s) :
    okO R s0 (execPcieCfgRead a0 a1 s) := by
  unfold execPcieCfgRead
  repeat' (first
    | with_reducible assumption
    | with_reducible refine fun _ => ?_
    | split
    | with_reducible apply okO_next
    | with_reducible apply keep_whenAlive
    | with_reducible apply keep_keepData
    | with_reducible apply keep_pcieCfgRead)

theorem keep_execPcieCfgWrite {R : State → State → Prop} (hR : Absorbs Same R) {s0 : State} {a0 : Agent} {a1 : Word} {a2 : PcieCompletion} {s : State} (h : R s0 s) :
    okO R s0 (execPcieCfgWrite a0 a1 a2 s) := by
  unfold execPcieCfgWrite
  repeat' (first
    | with_reducible assumption
    | with_reducible refine fun _ => ?_
    | split
    | with_reducible apply okO_next
    | with_reducible apply keep_whenAlive
    | with_reducible apply keep_pcieCfgWrite)

theorem keep_execPcieMemRead {R : State → State → Prop} (hR : Absorbs Same R) {s0 : State} {a0 : Agent} {a1 : PcieCompletion} {s : State} (h : R s0 s) :
    okO R s0 (execPcieMemRead a0 a1 s) := by
  unfold execPcieMemRead
  repeat' (first
    | with_reducible assumption
    | with_reducible refine fun _ => ?_
    | split
    | with_reducible apply okO_next
    | with_reducible apply keep_whenAlive
    | with_reducible apply keep_keepData
    | with_reducible apply keep_pcieMemRead)

theorem keep_execPcieMemWrite {R : State → State → Prop} (hR : Absorbs Same R) {s0 : State} {a0 : Agent} {a1 : Word} {a2 : PcieCompletion} {s : State} (h : R s0 s) :
    okO R s0 (execPcieMemWrite a0 a1 a2 s) := by
  unfold execPcieMemWrite
  repeat' (first
    | with_reducible assumption
    | with_reducible refine fun _ => ?_
    | split
    | with_reducible apply okO_next
    | with_reducible apply keep_whenAlive
    | with_reducible apply keep_pcieMemWrite)

theorem keep_inboundWrite {R : State → State → Prop} (hR : Absorbs Same R) {s0 : State} {a0 : Nat} {s : State} (h : R s0 s) :
    R s0 (inboundWrite a0 s) := by
  unfold inboundWrite
  repeat' (first
    | with_reducible assumption
    | with_reducible refine fun _ => ?_
    | split
    | with_reducible apply keep_rwStore
    | with_reducible apply keep_raise)

theorem keep_execPcieInboundWrite {R : State → State → Prop} (hR : Absorbs Same R) {s0 : State} {a0 : Agent} {a1 : DWord} {s : State} (h : R s0 s) :
    okO R s0 (execPcieInboundWrite a0 a1 s) := by
  unfold execPcieInboundWrite
  repeat' (first
    | with_reducible assumption
    | with_reducible refine fun _ => ?_
    | split
    | with_reducible apply okO_next
    | with_reducible apply keep_whenAlive
    | with_reducible apply keep_inboundWrite)

theorem keep_unsupported {R : State → State → Prop} (hR : Absorbs Same R) {s0 : State} {s : State} (h : R s0 s) :
    R s0 (unsupported s) := by
  unfold unsupported
  repeat' (first
    | with_reducible assumption
    | with_reducible refine fun _ => ?_
    | split
    | with_reducible apply keep_wire)

theorem keep_inboundRequest {R : State → State → Prop} (hR : Absorbs Held R) {s0 : State} {a0 : PcieRequest} {s : State} (h : R s0 s) :
    R s0 (inboundRequest a0 s) := by
  have hS := hR.sameOfHeld
  unfold inboundRequest
  repeat' (first
    | with_reducible assumption
    | with_reducible refine fun _ => ?_
    | ((try lift_lets -underBinder); with_reducible intro x; first | (refine (fun (_ : R s0 x) => ?_) ?_; clear_value x; rotate_left; unfold x; rotate_right) | (refine (fun (_ : okP R s0 x) => ?_) ?_; clear_value x; rotate_left; unfold x; rotate_right) | clear_value x)
    | split
    | with_reducible apply keep_raise
    | with_reducible apply keep_unsupported
    | with_reducible apply keep_reportUncorr
    | with_reducible apply keep_wire
    | with_reducible apply keep_softWrite
    | with_reducible apply keep_noteCorr)

theorem keep_execPcieInboundRequest {R : State → State → Prop} (hR : Absorbs Held R) {s0 : State} {a0 : PcieRequest} {s : State} (h : R s0 s) :
    okO R s0 (execPcieInboundRequest a0 s) := by
  have hS := hR.sameOfHeld
  unfold execPcieInboundRequest
  repeat' (first
    | with_reducible assumption
    | with_reducible refine fun _ => ?_
    | split
    | with_reducible apply okO_next
    | with_reducible apply keep_whenFed
    | with_reducible apply keep_inboundRequest)

theorem keep_execPcieLinkChange {R : State → State → Prop} (hR : Absorbs Same R) {s0 : State} {a0 : Bool} {a1 a2 : Nat} {s : State} (h : R s0 s) :
    okO R s0 (execPcieLinkChange a0 a1 a2 s) := by
  unfold execPcieLinkChange
  repeat' (first
    | with_reducible assumption
    | with_reducible refine fun _ => ?_
    | ((try lift_lets -underBinder); with_reducible intro x; first | (refine (fun (_ : R s0 x) => ?_) ?_; clear_value x; rotate_left; unfold x; rotate_right) | (refine (fun (_ : okP R s0 x) => ?_) ?_; clear_value x; rotate_left; unfold x; rotate_right) | clear_value x)
    | split
    | with_reducible apply okO_next
    | with_reducible apply keep_whenAlive
    | with_reducible apply keep_setRegWord
    | with_reducible apply keep_raise)

theorem keep_dbgAddrWrite {R : State → State → Prop} (hR : Absorbs Same R) {s0 : State} {a0 : Agent} {a1 : Nat} {s : State} (h : R s0 s) :
    R s0 (dbgAddrWrite a0 a1 s) := by
  unfold dbgAddrWrite
  repeat' (first
    | with_reducible assumption
    | with_reducible refine fun _ => ?_
    | ((try lift_lets -underBinder); with_reducible intro x; first | (refine (fun (_ : R s0 x) => ?_) ?_; clear_value x; rotate_left; unfold x; rotate_right) | (refine (fun (_ : okP R s0 x) => ?_) ?_; clear_value x; rotate_left; unfold x; rotate_right) | clear_value x)
    | split
    | with_reducible apply keep_rwStore
    | with_reducible refine keep_mk (by assumption) ?_ rfl rfl rfl rfl rfl rfl rfl rfl rfl rfl rfl rfl rfl rfl rfl)

theorem keep_dbgWake {R : State → State → Prop} (hR : Absorbs Same R) {s0 : State} {a0 : Nat} {s : State} (h : R s0 s) :
    R s0 (dbgWake a0 s) := by
  unfold dbgWake
  repeat' (first
    | with_reducible assumption
    | with_reducible refine fun _ => ?_
    | split
    | with_reducible apply keep_mapThreads)

theorem keep_latchHigh {R : State → State → Prop} (hR : Absorbs Same R) {s0 : State} {a0 a1 : Nat} {s : State} (h : R s0 s) :
    R s0 (latchHigh a0 a1 s) := by
  unfold latchHigh
  repeat' (first
    | with_reducible assumption
    | with_reducible refine fun _ => ?_
    | split
    | with_reducible refine keep_mk (by assumption) ?_ rfl rfl rfl rfl rfl rfl rfl rfl rfl rfl rfl rfl rfl rfl rfl)

theorem keep_dbgNoted {R : State → State → Prop} (hR : Absorbs Same R) {s0 : State} {a0 : Nat} {s : State} (h : R s0 s) :
    R s0 (dbgNoted s a0) := by
  unfold dbgNoted
  repeat' (first
    | with_reducible assumption
    | split
    | with_reducible apply keep_reportUncorr
    | with_reducible apply keep_noteCorr)

theorem keep_dbgFinish {R : State → State → Prop} (hR : Absorbs Same R) {s0 : State} {s : State} (h : R s0 s) :
    R s0 (dbgFinish s) := by
  unfold dbgFinish
  repeat' (first
    | with_reducible assumption
    | with_reducible refine fun _ => ?_
    | ((try lift_lets -underBinder); with_reducible intro x; first | (refine (fun (_ : R s0 x) => ?_) ?_; clear_value x; rotate_left; unfold x; rotate_right) | (refine (fun (_ : okP R s0 x) => ?_) ?_; clear_value x; rotate_left; unfold x; rotate_right) | clear_value x)
    | split
    | with_reducible apply keep_dbgNoted
    | with_reducible apply keep_fsetb
    | with_reducible apply keep_setReg64
    | with_reducible apply keep_latchHigh
    | with_reducible apply keep_dbgWake
    | with_reducible refine keep_mk (by assumption) ?_ rfl rfl rfl rfl rfl rfl rfl rfl rfl rfl rfl rfl rfl rfl rfl)

theorem keep_execDebugReadComplete {R : State → State → Prop} (hR : Absorbs Same R) {s0 : State} {s : State} (h : R s0 s) :
    okO R s0 (execDebugReadComplete s) := by
  unfold execDebugReadComplete
  repeat' (first
    | with_reducible assumption
    | with_reducible refine fun _ => ?_
    | split
    | with_reducible apply okO_next
    | with_reducible apply keep_whenAlive
    | with_reducible apply keep_dbgFinish)

end Sys2Proof.Machine
end

