-- ==== Sys2Proof/Laws/KeepFlags.lean ====
section
/-! SUPPORT. What the operations of Machine/Flags.lean keep. -/

namespace Sys2Proof.Machine

theorem keep_readLatched {R : State → State → Prop} (hR : Absorbs Same R) {s0 : State} {s : State} {a1 : Nat} (h : R s0 s) :
    okP R s0 (readLatched s a1) := by
  unfold readLatched
  repeat' (first
    | with_reducible assumption
    | with_reducible refine fun _ => ?_
    | ((try lift_lets -underBinder); with_reducible intro x; first | (refine (fun (_ : R s0 x) => ?_) ?_; clear_value x; rotate_left; unfold x; rotate_right) | (refine (fun (_ : okP R s0 x) => ?_) ?_; clear_value x; rotate_left; unfold x; rotate_right) | clear_value x)
    | split
    | with_reducible refine keep_modTime (by assumption) ?_ rfl
    | with_reducible refine keep_mk (by assumption) ?_ rfl rfl rfl rfl rfl rfl rfl rfl rfl rfl rfl rfl rfl rfl rfl)

theorem keep_windowRead {R : State → State → Prop} (hR : Absorbs Same R) {s0 : State} {p : PcieCompletion} {s : State} {off : Nat} (h : R s0 s) :
    okP R s0 (windowRead p s off) := by
  unfold windowRead
  repeat' (first
    | with_reducible apply keep_keepData
    | with_reducible assumption
    | with_reducible refine fun _ => ?_
    | ((try lift_lets -underBinder); with_reducible intro x; first | (refine (fun (_ : R s0 x) => ?_) ?_; clear_value x; rotate_left; unfold x; rotate_right) | (refine (fun (_ : okP R s0 x) => ?_) ?_; clear_value x; rotate_left; unfold x; rotate_right) | clear_value x)
    | split
    | with_reducible apply keep_pcieCfgRead
    | with_reducible apply keep_keepData
    | with_reducible apply keep_pcieMemRead
    | with_reducible apply keep_readLatched)

end Sys2Proof.Machine
end

