-- ==== Sys2Proof/Laws/KeepAccess.lean ====
section
/-! SUPPORT. What the operations of Machine/Access.lean keep. -/

namespace Sys2Proof.Machine

theorem keep_shareWrite {R : State → State → Prop} (hR : Absorbs Same R) {s0 : State} {a0 a1 a2 : Nat} {s : State} (h : R s0 s) :
    R s0 (shareWrite a0 a1 a2 s) := by
  unfold shareWrite
  repeat' (first
    | with_reducible assumption
    | with_reducible refine fun _ => ?_
    | split
    | with_reducible apply keep_rwStore
    | with_reducible apply keep_raise)

theorem keep_thrWrite {R : State → State → Prop} (hR : Absorbs Same R) {s0 : State} {a0 a1 a2 : Nat} {s : State} (h : R s0 s) :
    R s0 (thrWrite a0 a1 a2 s) := by
  unfold thrWrite
  repeat' (first
    | with_reducible assumption
    | with_reducible refine fun _ => ?_
    | split
    | with_reducible apply keep_setThread
    | with_reducible apply keep_raise)

theorem keep_dbgWrite {R : State → State → Prop} (hR : Absorbs Same R) {s0 : State} {a0 a1 a2 : Nat} {s : State} (h : R s0 s) :
    R s0 (dbgWrite a0 a1 a2 s) := by
  unfold dbgWrite
  repeat' (first
    | with_reducible assumption
    | with_reducible refine fun _ => ?_
    | split
    | with_reducible apply keep_rescheduleAll
    | with_reducible apply keep_setThread
    | with_reducible apply keep_raise)

theorem keep_dbgRegWrite {R : State → State → Prop} (hR : Absorbs Same R) {s0 : State} {a0 a1 a2 a3 : Nat} {s : State} (h : R s0 s) :
    R s0 (dbgRegWrite a0 a1 a2 a3 s) := by
  unfold dbgRegWrite
  repeat' (first
    | with_reducible assumption
    | with_reducible refine fun _ => ?_
    | ((try lift_lets -underBinder); with_reducible intro x; first | (refine (fun (_ : R s0 x) => ?_) ?_; clear_value x; rotate_left; unfold x; rotate_right) | (refine (fun (_ : okP R s0 x) => ?_) ?_; clear_value x; rotate_left; unfold x; rotate_right) | clear_value x)
    | split
    | with_reducible apply keep_setThread
    | with_reducible apply keep_raise)

theorem keep_tileCtrlWrite {R : State → State → Prop} (hR : Absorbs Same R) {s0 : State} {a0 a1 : Nat} {s : State} (h : R s0 s) :
    R s0 (tileCtrlWrite a0 a1 s) := by
  unfold tileCtrlWrite
  repeat' (first
    | with_reducible assumption
    | with_reducible refine fun _ => ?_
    | ((try lift_lets -underBinder); with_reducible intro x; first | (refine (fun (_ : R s0 x) => ?_) ?_; clear_value x; rotate_left; unfold x; rotate_right) | (refine (fun (_ : okP R s0 x) => ?_) ?_; clear_value x; rotate_left; unfold x; rotate_right) | clear_value x)
    | split
    | with_reducible apply keep_rwStore
    | with_reducible apply keep_forRange
    | with_reducible apply keep_setReg64)

theorem keep_faultClear {R : State → State → Prop} (hR : Absorbs Same R) {s0 : State} {a0 a1 : Nat} {s : State} (h : R s0 s) :
    R s0 (faultClear a0 a1 s) := by
  unfold faultClear
  repeat' (first
    | with_reducible assumption
    | with_reducible refine fun _ => ?_
    | split
    | with_reducible apply keep_fset
    | with_reducible apply keep_fsetb)

theorem keep_w1cStore {R : State → State → Prop} (hR : Absorbs Same R) {s0 : State} {a0 a1 : Nat} {s : State} (h : R s0 s) :
    R s0 (w1cStore a0 a1 s) := by
  unfold w1cStore
  repeat' (first
    | with_reducible assumption
    | with_reducible refine fun _ => ?_
    | ((try lift_lets -underBinder); with_reducible intro x; first | (refine (fun (_ : R s0 x) => ?_) ?_; clear_value x; rotate_left; unfold x; rotate_right) | (refine (fun (_ : okP R s0 x) => ?_) ?_; clear_value x; rotate_left; unfold x; rotate_right) | clear_value x)
    | split
    | with_reducible apply keep_setRegWord)

theorem keep_plainStore {R : State → State → Prop} (hR : Absorbs Same R) {s0 : State} {a0 a1 : Nat} {s : State} (h : R s0 s) :
    R s0 (plainStore a0 a1 s) := by
  unfold plainStore
  repeat' (first
    | with_reducible assumption
    | with_reducible refine fun _ => ?_
    | split
    | with_reducible apply keep_w1cStore
    | with_reducible apply keep_rwStore)

theorem keep_plainStore64 {R : State → State → Prop} (hR : Absorbs Same R) {s0 : State} {a0 a1 : Nat} {s : State} (h : R s0 s) :
    R s0 (plainStore64 a0 a1 s) := by
  unfold plainStore64
  repeat' (first
    | with_reducible assumption
    | with_reducible refine fun _ => ?_
    | split
    | with_reducible apply keep_rwStore)

theorem keep_tileWrite {R : State → State → Prop} (hR : Absorbs Same R) {s0 : State} {a0 a1 a2 : Nat} {s : State} (h : R s0 s) :
    R s0 (tileWrite a0 a1 a2 s) := by
  unfold tileWrite
  repeat' (first
    | with_reducible assumption
    | with_reducible refine fun _ => ?_
    | split
    | with_reducible apply keep_tileCtrlWrite
    | with_reducible apply keep_faultClear
    | with_reducible apply keep_w1cStore
    | with_reducible apply keep_shareWrite
    | with_reducible apply keep_thrWrite
    | with_reducible apply keep_dbgWrite
    | with_reducible apply keep_dbgRegWrite)

theorem keep_storeBoth {R : State → State → Prop} (hR : Absorbs Same R) {s0 : State} {a0 a1 : Nat} {s : State} (h : R s0 s) :
    R s0 (storeBoth a0 a1 s) := by
  unfold storeBoth
  repeat' (first
    | with_reducible assumption
    | with_reducible refine fun _ => ?_
    | split
    | with_reducible apply keep_plainStore64
    | with_reducible apply keep_rwStore)

theorem keep_memCtxStore {R : State → State → Prop} (hR : Absorbs Same R) {s0 : State} {a0 a1 a2 : Nat} {s : State} (h : R s0 s) :
    R s0 (memCtxStore a0 a1 a2 s) := by
  unfold memCtxStore
  repeat' (first
    | with_reducible assumption
    | with_reducible refine fun _ => ?_
    | ((try lift_lets -underBinder); with_reducible intro x; first | (refine (fun (_ : R s0 x) => ?_) ?_; clear_value x; rotate_left; unfold x; rotate_right) | (refine (fun (_ : okP R s0 x) => ?_) ?_; clear_value x; rotate_left; unfold x; rotate_right) | clear_value x)
    | split
    | with_reducible apply keep_storeBoth
    | with_reducible apply keep_raiseCtx)

theorem keep_memSlotWrite {R : State → State → Prop} (hR : Absorbs Same R) {s0 : State} {a0 : Agent} {a1 a2 : Nat} {s : State} (h : R s0 s) :
    R s0 (memSlotWrite a0 a1 a2 s) := by
  unfold memSlotWrite
  repeat' (first
    | with_reducible assumption
    | with_reducible refine fun _ => ?_
    | split
    | with_reducible apply keep_memCtxStore
    | with_reducible apply keep_dbgAddrWrite
    | with_reducible apply keep_rwStore
    | with_reducible apply keep_plainStore)

theorem keep_kvmCtxStore {R : State → State → Prop} (hR : Absorbs Held R) {s0 : State} {a0 a1 a2 : Nat} {s : State} (h : R s0 s) :
    R s0 (kvmCtxStore a0 a1 a2 s) := by
  have hS := hR.sameOfHeld
  unfold kvmCtxStore
  repeat' (first
    | with_reducible assumption
    | with_reducible refine fun _ => ?_
    | ((try lift_lets -underBinder); with_reducible intro x; first | (refine (fun (_ : R s0 x) => ?_) ?_; clear_value x; rotate_left; unfold x; rotate_right) | (refine (fun (_ : okP R s0 x) => ?_) ?_; clear_value x; rotate_left; unfold x; rotate_right) | clear_value x)
    | split
    | with_reducible apply keep_storeBoth
    | with_reducible apply keep_fsetb
    | with_reducible apply keep_kvInitRegion
    | with_reducible apply keep_raiseCtx)

theorem keep_kvmSlotWrite {R : State → State → Prop} (hR : Absorbs Held R) {s0 : State} {a0 a1 : Nat} {s : State} (h : R s0 s) :
    R s0 (kvmSlotWrite a0 a1 s) := by
  have hS := hR.sameOfHeld
  unfold kvmSlotWrite
  repeat' (first
    | with_reducible assumption
    | with_reducible refine fun _ => ?_
    | split
    | with_reducible apply keep_kvmCtxStore)

theorem keep_queueCfgRefused {R : State → State → Prop} (hR : Absorbs Same R) {s0 : State} {a0 : Nat} {s : State} (h : R s0 s) :
    R s0 (queueCfgRefused a0 s) := by
  unfold queueCfgRefused
  repeat' (first
    | with_reducible assumption
    | with_reducible refine fun _ => ?_
    | split
    | with_reducible apply keep_raiseCtx)

theorem keep_enableQueue {R : State → State → Prop} (hR : Absorbs Held R) {s0 : State} {a0 : Nat} {s : State} (h : R s0 s) :
    R s0 (enableQueue a0 s) := by
  have hS := hR.sameOfHeld
  unfold enableQueue
  repeat' (first
    | with_reducible assumption
    | with_reducible refine fun _ => ?_
    | split
    | with_reducible apply keep_qmWrite
    | with_reducible apply keep_setQueue)

theorem keep_qcfgWrite {R : State → State → Prop} (hR : Absorbs Held R) {s0 : State} {a0 a1 : Nat} {s : State} (h : R s0 s) :
    R s0 (qcfgWrite a0 a1 s) := by
  have hS := hR.sameOfHeld
  unfold qcfgWrite
  repeat' (first
    | with_reducible assumption
    | with_reducible refine fun _ => ?_
    | ((try lift_lets -underBinder); with_reducible intro x; first | (refine (fun (_ : R s0 x) => ?_) ?_; clear_value x; rotate_left; unfold x; rotate_right) | (refine (fun (_ : okP R s0 x) => ?_) ?_; clear_value x; rotate_left; unfold x; rotate_right) | clear_value x)
    | split
    | with_reducible apply keep_rwStore
    | with_reducible apply keep_queueCfgRefused
    | with_reducible apply keep_enableQueue)

theorem keep_queueRegWrite {R : State → State → Prop} (hR : Absorbs Held R) {s0 : State} {a0 : Agent} {a1 a2 a3 : Nat} {s : State} (h : R s0 s) :
    R s0 (queueRegWrite a0 a1 a2 a3 s) := by
  have hS := hR.sameOfHeld
  unfold queueRegWrite
  repeat' (first
    | with_reducible assumption
    | with_reducible refine fun _ => ?_
    | split
    | with_reducible apply keep_queueCfgRefused
    | with_reducible apply keep_qcfgWrite
    | with_reducible apply keep_w1cStore
    | with_reducible apply keep_storeBoth)

theorem keep_schedCfgWrite {R : State → State → Prop} (hR : Absorbs Same R) {s0 : State} {a0 : Agent} {a1 : Nat} {s : State} (h : R s0 s) :
    R s0 (schedCfgWrite a0 a1 s) := by
  unfold schedCfgWrite
  repeat' (first
    | with_reducible assumption
    | with_reducible refine fun _ => ?_
    | split
    | with_reducible apply keep_rwStore
    | with_reducible apply keep_raiseCtx)

theorem keep_doorbellWrite {R : State → State → Prop} (hR : Absorbs Held R) {s0 : State} {a0 : Nat} {s : State} (h : R s0 s) :
    R s0 (doorbellWrite a0 s) := by
  have hS := hR.sameOfHeld
  unfold doorbellWrite
  repeat' (first
    | with_reducible assumption
    | with_reducible refine fun _ => ?_
    | ((try lift_lets -underBinder); with_reducible intro x; first | (refine (fun (_ : R s0 x) => ?_) ?_; clear_value x; rotate_left; unfold x; rotate_right) | (refine (fun (_ : okP R s0 x) => ?_) ?_; clear_value x; rotate_left; unfold x; rotate_right) | clear_value x)
    | split
    | with_reducible apply keep_doorbell
    | with_reducible apply keep_drowseExit)

theorem keep_qmgrSlotWrite {R : State → State → Prop} (hR : Absorbs Held R) {s0 : State} {a0 : Agent} {a1 a2 : Nat} {s : State} (h : R s0 s) :
    R s0 (qmgrSlotWrite a0 a1 a2 s) := by
  have hS := hR.sameOfHeld
  unfold qmgrSlotWrite
  repeat' (first
    | with_reducible assumption
    | with_reducible refine fun _ => ?_
    | ((try lift_lets -underBinder); with_reducible intro x; first | (refine (fun (_ : R s0 x) => ?_) ?_; clear_value x; rotate_left; unfold x; rotate_right) | (refine (fun (_ : okP R s0 x) => ?_) ?_; clear_value x; rotate_left; unfold x; rotate_right) | clear_value x)
    | split
    | with_reducible apply keep_doorbellWrite
    | with_reducible apply keep_schedCfgWrite
    | with_reducible apply keep_queueRegWrite
    | with_reducible apply keep_ctxResetWrite
    | with_reducible apply keep_plainStore)

theorem keep_ctlRefused {R : State → State → Prop} (hR : Absorbs Same R) {s0 : State} {a0 : Nat} {s : State} (h : R s0 s) :
    R s0 (ctlRefused a0 s) := by
  unfold ctlRefused
  repeat' (first
    | with_reducible assumption
    | with_reducible refine fun _ => ?_
    | split
    | with_reducible apply keep_raise)

theorem keep_commitReg {R : State → State → Prop} (hR : Absorbs Same R) {s0 : State} {a0 : Agent} {a1 : Nat} {s : State} (h : R s0 s) :
    R s0 (commitReg a0 a1 s) := by
  unfold commitReg
  repeat' (first
    | with_reducible assumption
    | with_reducible refine fun _ => ?_
    | split
    | with_reducible apply keep_commitWrite
    | with_reducible apply keep_ctlRefused)

theorem keep_ctlSlotWrite {R : State → State → Prop} (hR : Absorbs Same R) {s0 : State} {a0 : Agent} {a1 a2 : Nat} {s : State} (h : R s0 s) :
    R s0 (ctlSlotWrite a0 a1 a2 s) := by
  unfold ctlSlotWrite
  repeat' (first
    | with_reducible assumption
    | with_reducible refine fun _ => ?_
    | ((try lift_lets -underBinder); with_reducible intro x; first | (refine (fun (_ : R s0 x) => ?_) ?_; clear_value x; rotate_left; unfold x; rotate_right) | (refine (fun (_ : okP R s0 x) => ?_) ?_; clear_value x; rotate_left; unfold x; rotate_right) | clear_value x)
    | split
    | with_reducible apply keep_commitReg
    | with_reducible apply keep_storeBoth
    | with_reducible apply keep_ctlRefused)

theorem keep_ringCfgStore {R : State → State → Prop} (hR : Absorbs Same R) {s0 : State} {a0 a1 a2 : Nat} {s : State} (h : R s0 s) :
    R s0 (ringCfgStore a0 a1 a2 s) := by
  unfold ringCfgStore
  repeat' (first
    | with_reducible assumption
    | with_reducible refine fun _ => ?_
    | ((try lift_lets -underBinder); with_reducible intro x; first | (refine (fun (_ : R s0 x) => ?_) ?_; clear_value x; rotate_left; unfold x; rotate_right) | (refine (fun (_ : okP R s0 x) => ?_) ?_; clear_value x; rotate_left; unfold x; rotate_right) | clear_value x)
    | split
    | with_reducible apply keep_rwStore
    | with_reducible apply keep_settleEn
    | with_reducible apply keep_raise)

theorem keep_ringSlotWrite {R : State → State → Prop} (hR : Absorbs Same R) {s0 : State} {a0 a1 : Nat} {s : State} (h : R s0 s) :
    R s0 (ringSlotWrite a0 a1 s) := by
  unfold ringSlotWrite
  repeat' (first
    | with_reducible assumption
    | with_reducible refine fun _ => ?_
    | split
    | with_reducible apply keep_ringCfgStore)

theorem keep_pwrSlotWrite {R : State → State → Prop} (hR : Absorbs Same R) {s0 : State} {a0 : Agent} {a1 a2 : Nat} {s : State} (h : R s0 s) :
    R s0 (pwrSlotWrite a0 a1 a2 s) := by
  unfold pwrSlotWrite
  repeat' (first
    | with_reducible assumption
    | with_reducible refine fun _ => ?_
    | split
    | with_reducible apply keep_rwStore
    | with_reducible apply keep_raise)

theorem keep_pcieSlotWrite {R : State → State → Prop} (hR : Absorbs Same R) {s0 : State} {a0 : PcieCompletion} {a1 a2 : Nat} {s : State} (h : R s0 s) :
    R s0 (pcieSlotWrite a0 a1 a2 s) := by
  unfold pcieSlotWrite
  repeat' (first
    | with_reducible assumption
    | with_reducible refine fun _ => ?_
    | split
    | with_reducible apply keep_pcieCfgWrite
    | with_reducible apply keep_pcieMemWrite
    | with_reducible apply keep_inboundWrite
    | with_reducible apply keep_plainStore64
    | with_reducible apply keep_plainStore)

theorem keep_secWrite {R : State → State → Prop} (hR : Absorbs Same R) {s0 : State} {a0 : Agent} {a1 : Nat} {s : State} (h : R s0 s) :
    R s0 (secWrite a0 a1 s) := by
  unfold secWrite
  repeat' (first
    | with_reducible assumption
    | with_reducible refine fun _ => ?_
    | split
    | with_reducible apply keep_raise)

theorem keep_slotWrite {R : State → State → Prop} (hR : Absorbs Kept R) {s0 : State} {a0 : Agent} {a1 : PcieCompletion} {a2 a3 : Nat} {s : State} (h : R s0 s) :
    R s0 (slotWrite a0 a1 a2 a3 s) := by
  have hH := hR.heldOfKept
  have hS := hR.sameOfKept
  unfold slotWrite
  repeat' (first
    | with_reducible assumption
    | with_reducible refine fun _ => ?_
    | split
    | with_reducible apply keep_plainStore
    | with_reducible apply keep_secWrite
    | with_reducible apply keep_pwrSlotWrite
    | with_reducible apply keep_timeSetWrite
    | with_reducible apply keep_timeCfgWrite
    | with_reducible apply keep_ctlSlotWrite
    | with_reducible apply keep_ringSlotWrite
    | with_reducible apply keep_kvmSlotWrite
    | with_reducible apply keep_qmgrSlotWrite
    | with_reducible apply keep_memSlotWrite
    | with_reducible apply keep_safeWrite
    | with_reducible apply keep_linkCfgWrite
    | with_reducible apply keep_plainStore64
    | with_reducible apply keep_pcieSlotWrite
    | with_reducible apply keep_tileWrite)

theorem keep_heldCleared {R : State → State → Prop} (hR : Absorbs Same R) {s0 : State} {s : State} {a1 : Nat} (h : R s0 s) :
    R s0 (heldCleared s a1) := by
  unfold heldCleared
  repeat' (first
    | with_reducible assumption
    | with_reducible refine fun _ => ?_
    | split
    | with_reducible refine keep_mk (by assumption) ?_ rfl rfl rfl rfl rfl rfl rfl rfl rfl rfl rfl rfl rfl rfl rfl)

theorem keep_windowWrite {R : State → State → Prop} (hR : Absorbs Kept R) {s0 : State} {a0 : Agent} {a1 : PcieCompletion} {a2 a3 : Nat} {s : State} (h : R s0 s) :
    R s0 (windowWrite a0 a1 a2 a3 s) := by
  have hH := hR.heldOfKept
  have hS := hR.sameOfKept
  unfold windowWrite
  repeat' (first
    | with_reducible assumption
    | with_reducible refine fun _ => ?_
    | split
    | with_reducible apply keep_slotWrite
    | with_reducible apply keep_raise
    | with_reducible apply keep_heldCleared
    | with_reducible refine keep_mk (by assumption) ?_ rfl rfl rfl rfl rfl rfl rfl rfl rfl rfl rfl rfl rfl rfl rfl)

theorem keep_regRow {R : State → State → Prop} (hR : Absorbs Kept R) {s0 : State} {a0 : Agent} {a1 a2 : Nat} {s : State} (h : R s0 s) :
    okO R s0 (regRow a0 a1 a2 s) := by
  have hH := hR.heldOfKept
  have hS := hR.sameOfKept
  unfold regRow
  repeat' (first
    | with_reducible assumption
    | with_reducible refine fun _ => ?_
    | split
    | with_reducible apply okO_next
    | with_reducible apply keep_whenAlive
    | with_reducible apply keep_windowWrite)

theorem keep_regRowIf {R : State → State → Prop} (hR : Absorbs Kept R) {s0 : State} {a0 : Bool} {a1 : Agent} {a2 a3 : Nat} {s : State} (h : R s0 s) :
    okO R s0 (regRowIf a0 a1 a2 a3 s) := by
  have hH := hR.heldOfKept
  have hS := hR.sameOfKept
  unfold regRowIf
  repeat' (first
    | with_reducible assumption
    | with_reducible refine fun _ => ?_
    | split
    | with_reducible apply okO_next
    | with_reducible apply keep_regRow)

theorem keep_regRow64 {R : State → State → Prop} (hR : Absorbs Kept R) {s0 : State} {a0 : Agent} {a1 a2 : Nat} {s : State} (h : R s0 s) :
    okO R s0 (regRow64 a0 a1 a2 s) := by
  have hH := hR.heldOfKept
  have hS := hR.sameOfKept
  unfold regRow64
  repeat' (first
    | with_reducible assumption
    | with_reducible refine fun _ => ?_
    | split
    | with_reducible apply okO_next
    | with_reducible apply keep_whenAlive
    | with_reducible apply keep_windowWrite)

theorem keep_execRegisterWrite {R : State → State → Prop} (hR : Absorbs Kept R) {s0 : State} {a0 : Agent} {a1 : Nat} {a2 : Word} {s : State} (h : R s0 s) :
    okO R s0 (execRegisterWrite a0 a1 a2 s) := by
  have hH := hR.heldOfKept
  have hS := hR.sameOfKept
  unfold execRegisterWrite
  repeat' (first
    | with_reducible assumption
    | with_reducible refine fun _ => ?_
    | split
    | with_reducible apply okO_next
    | with_reducible apply keep_regRow)

theorem keep_execQmgrDoorbellWrite {R : State → State → Prop} (hR : Absorbs Kept R) {s0 : State} {a0 : Agent} {a1 : Word} {s : State} (h : R s0 s) :
    okO R s0 (execQmgrDoorbellWrite a0 a1 s) := by
  have hH := hR.heldOfKept
  have hS := hR.sameOfKept
  unfold execQmgrDoorbellWrite
  repeat' (first
    | with_reducible assumption
    | with_reducible refine fun _ => ?_
    | split
    | with_reducible apply okO_next
    | with_reducible apply keep_regRow)

theorem keep_execQueueCfgWrite {R : State → State → Prop} (hR : Absorbs Kept R) {s0 : State} {a0 : Agent} {a1 : Nat} {a2 : Word} {s : State} (h : R s0 s) :
    okO R s0 (execQueueCfgWrite a0 a1 a2 s) := by
  have hH := hR.heldOfKept
  have hS := hR.sameOfKept
  unfold execQueueCfgWrite
  repeat' (first
    | with_reducible assumption
    | with_reducible refine fun _ => ?_
    | split
    | with_reducible apply okO_next
    | with_reducible apply keep_regRowIf)

theorem keep_execCtxReset {R : State → State → Prop} (hR : Absorbs Kept R) {s0 : State} {a0 : Agent} {a1 : Nat} {s : State} (h : R s0 s) :
    okO R s0 (execCtxReset a0 a1 s) := by
  have hH := hR.heldOfKept
  have hS := hR.sameOfKept
  unfold execCtxReset
  repeat' (first
    | with_reducible assumption
    | with_reducible refine fun _ => ?_
    | split
    | with_reducible apply okO_next
    | with_reducible apply keep_regRowIf)

theorem keep_execTileShareWrite {R : State → State → Prop} (hR : Absorbs Kept R) {s0 : State} {a0 : Agent} {a1 a2 : Nat} {a3 : Word} {s : State} (h : R s0 s) :
    okO R s0 (execTileShareWrite a0 a1 a2 a3 s) := by
  have hH := hR.heldOfKept
  have hS := hR.sameOfKept
  unfold execTileShareWrite
  repeat' (first
    | with_reducible assumption
    | with_reducible refine fun _ => ?_
    | split
    | with_reducible apply okO_next
    | with_reducible apply keep_regRowIf)

theorem keep_execTileThrAssign {R : State → State → Prop} (hR : Absorbs Kept R) {s0 : State} {a0 : Agent} {a1 a2 a3 : Nat} {s : State} (h : R s0 s) :
    okO R s0 (execTileThrAssign a0 a1 a2 a3 s) := by
  have hH := hR.heldOfKept
  have hS := hR.sameOfKept
  unfold execTileThrAssign
  repeat' (first
    | with_reducible assumption
    | with_reducible refine fun _ => ?_
    | split
    | with_reducible apply okO_next
    | with_reducible apply keep_regRowIf)

theorem keep_execTileThrRelease {R : State → State → Prop} (hR : Absorbs Kept R) {s0 : State} {a0 : Agent} {a1 a2 a3 : Nat} {s : State} (h : R s0 s) :
    okO R s0 (execTileThrRelease a0 a1 a2 a3 s) := by
  have hH := hR.heldOfKept
  have hS := hR.sameOfKept
  unfold execTileThrRelease
  repeat' (first
    | with_reducible assumption
    | with_reducible refine fun _ => ?_
    | split
    | with_reducible apply okO_next
    | with_reducible apply keep_regRowIf)

theorem keep_execPerfClear {R : State → State → Prop} (hR : Absorbs Kept R) {s0 : State} {a0 : Agent} {a1 : Nat} {s : State} (h : R s0 s) :
    okO R s0 (execPerfClear a0 a1 s) := by
  have hH := hR.heldOfKept
  have hS := hR.sameOfKept
  unfold execPerfClear
  repeat' (first
    | with_reducible assumption
    | with_reducible refine fun _ => ?_
    | split
    | with_reducible apply okO_next
    | with_reducible apply keep_regRowIf)

theorem keep_execTileFaultClear {R : State → State → Prop} (hR : Absorbs Kept R) {s0 : State} {a0 : Agent} {a1 : Nat} {s : State} (h : R s0 s) :
    okO R s0 (execTileFaultClear a0 a1 s) := by
  have hH := hR.heldOfKept
  have hS := hR.sameOfKept
  unfold execTileFaultClear
  repeat' (first
    | with_reducible assumption
    | with_reducible refine fun _ => ?_
    | split
    | with_reducible apply okO_next
    | with_reducible apply keep_regRowIf)

theorem keep_execTileDbgHalt {R : State → State → Prop} (hR : Absorbs Kept R) {s0 : State} {a0 : Agent} {a1 a2 : Nat} {s : State} (h : R s0 s) :
    okO R s0 (execTileDbgHalt a0 a1 a2 s) := by
  have hH := hR.heldOfKept
  have hS := hR.sameOfKept
  unfold execTileDbgHalt
  repeat' (first
    | with_reducible assumption
    | with_reducible refine fun _ => ?_
    | split
    | with_reducible apply okO_next
    | with_reducible apply keep_regRowIf)

theorem keep_execTileDbgResume {R : State → State → Prop} (hR : Absorbs Kept R) {s0 : State} {a0 : Agent} {a1 a2 : Nat} {s : State} (h : R s0 s) :
    okO R s0 (execTileDbgResume a0 a1 a2 s) := by
  have hH := hR.heldOfKept
  have hS := hR.sameOfKept
  unfold execTileDbgResume
  repeat' (first
    | with_reducible assumption
    | with_reducible refine fun _ => ?_
    | split
    | with_reducible apply okO_next
    | with_reducible apply keep_regRowIf)

theorem keep_execTileDbgStep {R : State → State → Prop} (hR : Absorbs Kept R) {s0 : State} {a0 : Agent} {a1 a2 : Nat} {s : State} (h : R s0 s) :
    okO R s0 (execTileDbgStep a0 a1 a2 s) := by
  have hH := hR.heldOfKept
  have hS := hR.sameOfKept
  unfold execTileDbgStep
  repeat' (first
    | with_reducible assumption
    | with_reducible refine fun _ => ?_
    | split
    | with_reducible apply okO_next
    | with_reducible apply keep_regRowIf)

theorem keep_execTileDbgRegWrite {R : State → State → Prop} (hR : Absorbs Kept R) {s0 : State} {a0 : Agent} {a1 a2 a3 : Nat} {a4 : DWord} {s : State} (h : R s0 s) :
    okO R s0 (execTileDbgRegWrite a0 a1 a2 a3 a4 s) := by
  have hH := hR.heldOfKept
  have hS := hR.sameOfKept
  unfold execTileDbgRegWrite
  repeat' (first
    | with_reducible assumption
    | with_reducible refine fun _ => ?_
    | split
    | with_reducible apply okO_next
    | with_reducible apply keep_regRow64)

theorem keep_execMemCtxWrite {R : State → State → Prop} (hR : Absorbs Kept R) {s0 : State} {a0 : Agent} {a1 : Nat} {a2 : Word} {s : State} (h : R s0 s) :
    okO R s0 (execMemCtxWrite a0 a1 a2 s) := by
  have hH := hR.heldOfKept
  have hS := hR.sameOfKept
  unfold execMemCtxWrite
  repeat' (first
    | with_reducible assumption
    | with_reducible refine fun _ => ?_
    | split
    | with_reducible apply okO_next
    | with_reducible apply keep_regRowIf)

theorem keep_execKvmCtxWrite {R : State → State → Prop} (hR : Absorbs Kept R) {s0 : State} {a0 : Agent} {a1 : Nat} {a2 : Word} {s : State} (h : R s0 s) :
    okO R s0 (execKvmCtxWrite a0 a1 a2 s) := by
  have hH := hR.heldOfKept
  have hS := hR.sameOfKept
  unfold execKvmCtxWrite
  repeat' (first
    | with_reducible assumption
    | with_reducible refine fun _ => ?_
    | split
    | with_reducible apply okO_next
    | with_reducible apply keep_regRowIf)

theorem keep_execCtlCfgWrite {R : State → State → Prop} (hR : Absorbs Kept R) {s0 : State} {a0 : Agent} {a1 : Nat} {a2 : Word} {s : State} (h : R s0 s) :
    okO R s0 (execCtlCfgWrite a0 a1 a2 s) := by
  have hH := hR.heldOfKept
  have hS := hR.sameOfKept
  unfold execCtlCfgWrite
  repeat' (first
    | with_reducible assumption
    | with_reducible refine fun _ => ?_
    | split
    | with_reducible apply okO_next
    | with_reducible apply keep_regRowIf)

theorem keep_execCtlCommit {R : State → State → Prop} (hR : Absorbs Kept R) {s0 : State} {a0 : Agent} {a1 : Word} {s : State} (h : R s0 s) :
    okO R s0 (execCtlCommit a0 a1 s) := by
  have hH := hR.heldOfKept
  have hS := hR.sameOfKept
  unfold execCtlCommit
  repeat' (first
    | with_reducible assumption
    | with_reducible refine fun _ => ?_
    | split
    | with_reducible apply okO_next
    | with_reducible apply keep_regRow)

theorem keep_execRingCfgWrite {R : State → State → Prop} (hR : Absorbs Kept R) {s0 : State} {a0 : Agent} {a1 : Nat} {a2 : Word} {s : State} (h : R s0 s) :
    okO R s0 (execRingCfgWrite a0 a1 a2 s) := by
  have hH := hR.heldOfKept
  have hS := hR.sameOfKept
  unfold execRingCfgWrite
  repeat' (first
    | with_reducible assumption
    | with_reducible refine fun _ => ?_
    | split
    | with_reducible apply okO_next
    | with_reducible apply keep_regRowIf)

theorem keep_execPwrCfgWrite {R : State → State → Prop} (hR : Absorbs Kept R) {s0 : State} {a0 : Agent} {a1 : Nat} {a2 : Word} {s : State} (h : R s0 s) :
    okO R s0 (execPwrCfgWrite a0 a1 a2 s) := by
  have hH := hR.heldOfKept
  have hS := hR.sameOfKept
  unfold execPwrCfgWrite
  repeat' (first
    | with_reducible assumption
    | with_reducible refine fun _ => ?_
    | split
    | with_reducible apply okO_next
    | with_reducible apply keep_regRowIf)

theorem keep_execMemDbgAddrWrite {R : State → State → Prop} (hR : Absorbs Kept R) {s0 : State} {a0 : Agent} {a1 : Word} {s : State} (h : R s0 s) :
    okO R s0 (execMemDbgAddrWrite a0 a1 s) := by
  have hH := hR.heldOfKept
  have hS := hR.sameOfKept
  unfold execMemDbgAddrWrite
  repeat' (first
    | with_reducible assumption
    | with_reducible refine fun _ => ?_
    | split
    | with_reducible apply okO_next
    | with_reducible apply keep_regRow)

theorem keep_misaligned {R : State → State → Prop} (hR : Absorbs Held R) {s0 : State} {s : State} {a1 a2 : Nat} {a3 : Thread} (h : R s0 s) :
    R s0 (misaligned s a1 a2 a3) := by
  have hS := hR.sameOfHeld
  unfold misaligned
  repeat' (first
    | with_reducible assumption
    | with_reducible refine fun _ => ?_
    | split
    | with_reducible apply keep_threadFault)

theorem keep_cwldLocal {R : State → State → Prop} (hR : Absorbs Same R) {s0 : State} {a0 a1 a2 a3 : Nat} {a4 : Thread} {a5 : PcieCompletion} {s : State} (h : R s0 s) :
    R s0 (cwldLocal a0 a1 a2 a3 a4 a5 s) := by
  unfold cwldLocal
  repeat' (first
    | with_reducible assumption
    | with_reducible refine fun _ => ?_
    | ((try lift_lets -underBinder); with_reducible intro x; first | (refine (fun (_ : R s0 x) => ?_) ?_; clear_value x; rotate_left; unfold x; rotate_right) | (refine (fun (_ : okP R s0 x) => ?_) ?_; clear_value x; rotate_left; unfold x; rotate_right) | clear_value x)
    | split
    | with_reducible apply keep_setThread
    | with_reducible apply keep_windowRead
    | with_reducible refine keep_mk (by assumption) ?_ rfl rfl rfl rfl rfl rfl rfl rfl rfl rfl rfl rfl rfl rfl rfl)

theorem keep_execCwld {R : State → State → Prop} (hR : Absorbs Held R) {s0 : State} {tile t : Nat} {w : Word} {p : PcieCompletion} {s : State}
    (h : R s0 s) : okO R s0 (execCwld tile t w p s) := by
  have hS := hR.sameOfHeld
  unfold execCwld
  repeat' (first
    | with_reducible apply keep_ite
    | with_reducible assumption
    | with_reducible refine fun _ => ?_
    | ((try lift_lets -underBinder); with_reducible intro x; first | (refine (fun (_ : R s0 x) => ?_) ?_; clear_value x; rotate_left; unfold x; rotate_right) | (refine (fun (_ : okP R s0 x) => ?_) ?_; clear_value x; rotate_left; unfold x; rotate_right) | clear_value x)
    | split
    | with_reducible apply okO_next
    | with_reducible apply keep_issue
    | with_reducible apply keep_illegal
    | with_reducible apply keep_misaligned
    | with_reducible apply keep_threadFault
    | with_reducible apply keep_cwldLocal
    | with_reducible apply keep_setThread)

theorem keep_execCwst {R : State → State → Prop} (hR : Absorbs Kept R) {s0 : State} {tile t : Nat} {p : PcieCompletion} {s : State}
    (h : R s0 s) : okO R s0 (execCwst tile t p s) := by
  have hH := hR.heldOfKept
  have hS := hR.sameOfKept
  unfold execCwst
  repeat' (first
    | with_reducible apply keep_ite
    | with_reducible assumption
    | with_reducible refine fun _ => ?_
    | ((try lift_lets -underBinder); with_reducible intro x; first | (refine (fun (_ : R s0 x) => ?_) ?_; clear_value x; rotate_left; unfold x; rotate_right) | (refine (fun (_ : okP R s0 x) => ?_) ?_; clear_value x; rotate_left; unfold x; rotate_right) | clear_value x)
    | split
    | with_reducible apply okO_next
    | with_reducible apply keep_issue
    | with_reducible apply keep_illegal
    | with_reducible apply keep_misaligned
    | with_reducible apply keep_windowWrite
    | with_reducible apply keep_setThread)

theorem keep_execDbell {R : State → State → Prop} (hR : Absorbs Held R) {s0 : State} {a0 a1 : Nat} {s : State} (h : R s0 s) :
    okO R s0 (execDbell a0 a1 s) := by
  have hS := hR.sameOfHeld
  unfold execDbell
  repeat' (first
    | with_reducible assumption
    | with_reducible refine fun _ => ?_
    | split
    | with_reducible apply okO_next
    | with_reducible apply keep_dbellThread)

theorem keep_readRegs {R : State → State → Prop} (hR : Absorbs Same R) {s0 : State} {answers : List PcieCompletion} :
    ∀ (n : Nat) {i off : Nat} {s : State}, R s0 s → okP R s0 (readRegs answers n i off s) := by
  intro n
  induction n with
  | zero => intro i off s h; exact h
  | succ n ih =>
    intro i off s h
    unfold readRegs
    dsimp only
    refine ih (keep_windowRead hR ?_)
    split
    · exact keep_dbgFinish hR h
    · exact h

theorem keep_writeRegs {R : State → State → Prop} (hR : Absorbs Kept R) {s0 : State} {answers : List PcieCompletion} {off : Nat}
    {vs : List Word} : ∀ (l : List Nat) {first : Option Nat} {s : State}, R s0 s → okP R s0 (writeRegs answers off vs l first s)
  | [], _, _, h => h
  | _ :: rest, _, _, h => keep_writeRegs hR rest (keep_windowWrite hR h)

theorem keep_putRegs {R : State → State → Prop} (hR : Absorbs Held R) {s0 : State} {a0 : Nat} {a1 : QCmd} {a2 : List Byte} {s : State} (h : R s0 s) :
    okV R s0 (putRegs a0 a1 a2 s) := by
  have hS := hR.sameOfHeld
  unfold putRegs
  repeat' (first
    | with_reducible assumption
    | with_reducible refine fun _ => ?_
    | split
    | with_reducible apply okV_done
    | with_reducible apply okV_wait
    | with_reducible apply keep_opWrite
    | with_reducible apply keep_failOperand
    | with_reducible apply keep_okay
    | refine okE_get ?_ (by with_reducible assumption)
    | refine okV_get_done ?_ (by with_reducible assumption)
    | refine okV_get_wait ?_ (by with_reducible assumption))

theorem keep_regReadEngine {R : State → State → Prop} (hR : Absorbs Held R) {s0 : State} {a0 a1 : Nat} {a2 : List Word} {a3 : List PcieCompletion} {a4 : QCmd} {s : State} (h : R s0 s) :
    okV R s0 (regReadEngine a0 a1 a2 a3 a4 s) := by
  have hS := hR.sameOfHeld
  unfold regReadEngine
  repeat' (first
    | with_reducible assumption
    | with_reducible refine fun _ => ?_
    | ((try lift_lets -underBinder); with_reducible intro x; first | (refine (fun (_ : R s0 x) => ?_) ?_; clear_value x; rotate_left; unfold x; rotate_right) | (refine (fun (_ : okP R s0 x) => ?_) ?_; clear_value x; rotate_left; unfold x; rotate_right) | clear_value x)
    | split
    | with_reducible apply okV_done
    | with_reducible apply okV_wait
    | with_reducible apply keep_invalid
    | with_reducible apply keep_refuse
    | with_reducible apply keep_opWrite
    | with_reducible apply keep_failOperand
    | with_reducible apply keep_putRegs
    | with_reducible apply keep_modCmd
    | with_reducible apply keep_readRegs
    | refine okE_get ?_ (by with_reducible assumption)
    | refine okP_get ?_ (by with_reducible assumption)
    | refine okV_get_done ?_ (by with_reducible assumption)
    | refine okV_get_wait ?_ (by with_reducible assumption)
    | with_reducible refine keep_mk (by assumption) ?_ rfl rfl rfl rfl rfl rfl rfl rfl rfl rfl rfl rfl rfl rfl rfl)

theorem keep_execRegRead {R : State → State → Prop} (hR : Absorbs Held R) {s0 : State} {a0 a1 : Nat} {a2 : List Word} {a3 : List PcieCompletion} {s : State} (h : R s0 s) :
    okO R s0 (execRegRead a0 a1 a2 a3 s) := by
  have hS := hR.sameOfHeld
  unfold execRegRead
  repeat' (first
    | with_reducible assumption
    | with_reducible refine fun _ => ?_
    | split
    | with_reducible apply okO_next
    | with_reducible apply keep_runEngine
    | with_reducible apply keep_regReadEngine)

theorem keep_regWriteEngine {R : State → State → Prop} (hR : Absorbs Kept R) {s0 : State} {a0 : Nat} {a1 : List PcieCompletion} {a2 : QCmd} {s : State} (h : R s0 s) :
    okV R s0 (regWriteEngine a0 a1 a2 s) := by
  have hH := hR.heldOfKept
  have hS := hR.sameOfKept
  unfold regWriteEngine
  repeat' (first
    | with_reducible assumption
    | with_reducible refine fun _ => ?_
    | ((try lift_lets -underBinder); with_reducible intro x; first | (refine (fun (_ : R s0 x) => ?_) ?_; clear_value x; rotate_left; unfold x; rotate_right) | (refine (fun (_ : okP R s0 x) => ?_) ?_; clear_value x; rotate_left; unfold x; rotate_right) | clear_value x)
    | split
    | with_reducible apply okV_done
    | with_reducible apply okV_wait
    | with_reducible apply keep_invalid
    | with_reducible apply keep_refuse
    | with_reducible apply keep_failOperand
    | with_reducible apply keep_writeRegs
    | with_reducible apply keep_okay
    | refine okP_get ?_ (by with_reducible assumption)
    | refine okV_get_done ?_ (by with_reducible assumption)
    | refine okV_get_wait ?_ (by with_reducible assumption))

theorem keep_execRegWrite {R : State → State → Prop} (hR : Absorbs Kept R) {s0 : State} {a0 a1 : Nat} {a2 : List PcieCompletion} {s : State} (h : R s0 s) :
    okO R s0 (execRegWrite a0 a1 a2 s) := by
  have hH := hR.heldOfKept
  have hS := hR.sameOfKept
  unfold execRegWrite
  repeat' (first
    | with_reducible assumption
    | with_reducible refine fun _ => ?_
    | split
    | with_reducible apply okO_next
    | with_reducible apply keep_runEngine
    | with_reducible apply keep_regWriteEngine)

theorem keep_execMgmtSubmit {R : State → State → Prop} (hR : Absorbs Held R) {s0 : State} {a0 : Nat} {a1 : MgmtFrame} {s : State} (h : R s0 s) :
    okO R s0 (execMgmtSubmit a0 a1 s) := by
  have hS := hR.sameOfHeld
  unfold execMgmtSubmit
  repeat' (first
    | with_reducible assumption
    | with_reducible refine fun _ => ?_
    | split
    | with_reducible apply okO_next
    | with_reducible apply keep_whenAlive
    | with_reducible apply keep_mgmtArrival
    | with_reducible apply keep_submitFrame
    | with_reducible apply keep_drowseExit)

theorem keep_execMgmtPoll {R : State → State → Prop} (hR : Absorbs Held R) {s0 : State} {a0 : Nat} {a1 : MgmtFrame} {s : State} (h : R s0 s) :
    okO R s0 (execMgmtPoll a0 a1 s) := by
  have hS := hR.sameOfHeld
  unfold execMgmtPoll
  repeat' (first
    | with_reducible assumption
    | with_reducible refine fun _ => ?_
    | split
    | with_reducible apply okO_next
    | with_reducible apply keep_whenAlive
    | with_reducible apply keep_mgmtArrival
    | with_reducible apply keep_pollFrame)

theorem keep_answerPeer {R : State → State → Prop} (hR : Absorbs Same R) {s0 : State} {a0 : RemoteReq} {a1 : Bool} {a2 : List Byte} {s : State} (h : R s0 s) :
    R s0 (answerPeer a0 a1 a2 s) := by
  unfold answerPeer
  repeat' (first
    | with_reducible assumption
    | with_reducible refine fun _ => ?_
    | split
    | with_reducible apply keep_wire)

theorem keep_remoteWindow {R : State → State → Prop} (hR : Absorbs Same R) {s0 : State} {r : RemoteReq} {p : PcieCompletion} {s : State}
    (h : R s0 s) : R s0 (remoteWindow r p s) := by
  have hd (off : Nat) : R s0 (if off = Reg.MEM_DBG_DATA then dbgFinish s else s) := keep_ite (keep_dbgFinish hR h) h
  exact keep_ite (keep_answerPeer hR h) (keep_answerPeer hR (keep_windowRead hR (hd _)))

theorem keep_remoteMemory {R : State → State → Prop} (hR : Absorbs Held R) {s0 : State} {a0 : RemoteReq} {s : State} (h : R s0 s) :
    R s0 (remoteMemory a0 s) := by
  have hS := hR.sameOfHeld
  unfold remoteMemory
  repeat' (first
    | with_reducible assumption
    | with_reducible refine fun _ => ?_
    | split
    | with_reducible apply keep_answerPeer
    | with_reducible apply keep_reportUncorr
    | with_reducible apply keep_softWrite
    | with_reducible apply keep_noteCorr)

theorem keep_execRemoteAccess {R : State → State → Prop} (hR : Absorbs Held R) {s0 : State} {a0 : RemoteReq} {a1 : PcieCompletion} {s : State} (h : R s0 s) :
    okO R s0 (execRemoteAccess a0 a1 s) := by
  have hS := hR.sameOfHeld
  unfold execRemoteAccess
  repeat' (first
    | with_reducible assumption
    | with_reducible refine fun _ => ?_
    | split
    | with_reducible apply okO_next
    | with_reducible apply keep_whenAlive
    | with_reducible apply keep_answerPeer
    | with_reducible apply keep_captureRequest
    | with_reducible apply keep_remoteWindow
    | with_reducible apply keep_remoteMemory)

end Sys2Proof.Machine
end

