-- ==== Sys2Proof/Laws/State.lean ====
section
/-! SUPPORT. What each update leaves of each field: one lemma per field per update. -/

namespace Sys2Proof.Machine

variable (s : State)

@[simp] theorem setRegWord_pending (o v : Nat) : (setRegWord s o v).pending = s.pending := rfl
@[simp] theorem setRegWord_latch (o v : Nat) : (setRegWord s o v).latch = s.latch := rfl
@[simp] theorem setRegWord_held (o v : Nat) : (setRegWord s o v).held = s.held := rfl
@[simp] theorem setRegWord_mem (o v : Nat) : (setRegWord s o v).mem = s.mem := rfl
@[simp] theorem setRegWord_uncorr (o v : Nat) : (setRegWord s o v).uncorr = s.uncorr := rfl
@[simp] theorem setRegWord_stale (o v : Nat) : (setRegWord s o v).stale = s.stale := rfl
@[simp] theorem setRegWord_flash (o v : Nat) : (setRegWord s o v).flash = s.flash := rfl
@[simp] theorem setRegWord_flashBad (o v : Nat) : (setRegWord s o v).flashBad = s.flashBad := rfl
@[simp] theorem setRegWord_flashBytes (o v : Nat) : (setRegWord s o v).flashBytes = s.flashBytes := rfl
@[simp] theorem setRegWord_stackLogs (o v : Nat) : (setRegWord s o v).stackLogs = s.stackLogs := rfl
@[simp] theorem setRegWord_dbgRead (o v : Nat) : (setRegWord s o v).dbgRead = s.dbgRead := rfl
@[simp] theorem setRegWord_threads (o v : Nat) : (setRegWord s o v).threads = s.threads := rfl
@[simp] theorem setRegWord_units (o v : Nat) : (setRegWord s o v).units = s.units := rfl
@[simp] theorem setRegWord_vregs (o v : Nat) : (setRegWord s o v).vregs = s.vregs := rfl
@[simp] theorem setRegWord_pipes (o v : Nat) : (setRegWord s o v).pipes = s.pipes := rfl
@[simp] theorem setRegWord_attends (o v : Nat) : (setRegWord s o v).attends = s.attends := rfl
@[simp] theorem setRegWord_barriers (o v : Nat) : (setRegWord s o v).barriers = s.barriers := rfl
@[simp] theorem setRegWord_boundary (o v : Nat) : (setRegWord s o v).boundary = s.boundary := rfl
@[simp] theorem setRegWord_launches (o v : Nat) : (setRegWord s o v).launches = s.launches := rfl
@[simp] theorem setRegWord_nextLaunch (o v : Nat) : (setRegWord s o v).nextLaunch = s.nextLaunch := rfl
@[simp] theorem setRegWord_queues (o v : Nat) : (setRegWord s o v).queues = s.queues := rfl
@[simp] theorem setRegWord_served (o v : Nat) : (setRegWord s o v).served = s.served := rfl
@[simp] theorem setRegWord_captures (o v : Nat) : (setRegWord s o v).captures = s.captures := rfl
@[simp] theorem setRegWord_mgmt (o v : Nat) : (setRegWord s o v).mgmt = s.mgmt := rfl
@[simp] theorem setRegWord_outbox (o v : Nat) : (setRegWord s o v).outbox = s.outbox := rfl
@[simp] theorem setRegWord_ctxs (o v : Nat) : (setRegWord s o v).ctxs = s.ctxs := rfl
@[simp] theorem setRegWord_lanes (o v : Nat) : (setRegWord s o v).lanes = s.lanes := rfl
@[simp] theorem setRegWord_image (o v : Nat) : (setRegWord s o v).image = s.image := rfl
@[simp] theorem setRegWord_tansy (o v : Nat) : (setRegWord s o v).tansy = s.tansy := rfl
@[simp] theorem setRegWord_vetch (o v : Nat) : (setRegWord s o v).vetch = s.vetch := rfl
@[simp] theorem setRegWord_yarrow (o v : Nat) : (setRegWord s o v).yarrow = s.yarrow := rfl
@[simp] theorem setRegWord_rings (o v : Nat) : (setRegWord s o v).rings = s.rings := rfl
@[simp] theorem setRegWord_timeu (o v : Nat) : (setRegWord s o v).timeu = s.timeu := rfl
@[simp] theorem setRegWord_sensors (o v : Nat) : (setRegWord s o v).sensors = s.sensors := rfl
@[simp] theorem setRegWord_links (o v : Nat) : (setRegWord s o v).links = s.links := rfl
@[simp] theorem setRegWord_power (o v : Nat) : (setRegWord s o v).power = s.power := rfl
@[simp] theorem setRegWord_safety (o v : Nat) : (setRegWord s o v).safety = s.safety := rfl
@[simp] theorem setRegWord_cowslip (o v : Nat) : (setRegWord s o v).cowslip = s.cowslip := rfl
@[simp] theorem setRegWord_harebell (o v : Nat) : (setRegWord s o v).harebell = s.harebell := rfl
@[simp] theorem setRegWord_goldenAt (o v : Nat) : (setRegWord s o v).goldenAt = s.goldenAt := rfl
@[simp] theorem setRegWord_golden (o v : Nat) : (setRegWord s o v).golden = s.golden := rfl
@[simp] theorem setRegWord_goldenLate (o v : Nat) : (setRegWord s o v).goldenLate = s.goldenLate := rfl
@[simp] theorem setRegWord_time (o v : Nat) : (setRegWord s o v).time = s.time := rfl
@[simp] theorem setRegWord_frac (o v : Nat) : (setRegWord s o v).frac = s.frac := rfl
@[simp] theorem setRegWord_ticks (o v : Nat) : (setRegWord s o v).ticks = s.ticks := rfl
@[simp] theorem setRegWord_free (o v : Nat) : (setRegWord s o v).free = s.free := rfl

@[simp] theorem setReg64_pending (o v : Nat) : (setReg64 s o v).pending = s.pending := rfl
@[simp] theorem setReg64_latch (o v : Nat) : (setReg64 s o v).latch = s.latch := rfl
@[simp] theorem setReg64_held (o v : Nat) : (setReg64 s o v).held = s.held := rfl
@[simp] theorem setReg64_mem (o v : Nat) : (setReg64 s o v).mem = s.mem := rfl
@[simp] theorem setReg64_uncorr (o v : Nat) : (setReg64 s o v).uncorr = s.uncorr := rfl
@[simp] theorem setReg64_stale (o v : Nat) : (setReg64 s o v).stale = s.stale := rfl
@[simp] theorem setReg64_flash (o v : Nat) : (setReg64 s o v).flash = s.flash := rfl
@[simp] theorem setReg64_flashBad (o v : Nat) : (setReg64 s o v).flashBad = s.flashBad := rfl
@[simp] theorem setReg64_flashBytes (o v : Nat) : (setReg64 s o v).flashBytes = s.flashBytes := rfl
@[simp] theorem setReg64_stackLogs (o v : Nat) : (setReg64 s o v).stackLogs = s.stackLogs := rfl
@[simp] theorem setReg64_dbgRead (o v : Nat) : (setReg64 s o v).dbgRead = s.dbgRead := rfl
@[simp] theorem setReg64_threads (o v : Nat) : (setReg64 s o v).threads = s.threads := rfl
@[simp] theorem setReg64_units (o v : Nat) : (setReg64 s o v).units = s.units := rfl
@[simp] theorem setReg64_vregs (o v : Nat) : (setReg64 s o v).vregs = s.vregs := rfl
@[simp] theorem setReg64_pipes (o v : Nat) : (setReg64 s o v).pipes = s.pipes := rfl
@[simp] theorem setReg64_attends (o v : Nat) : (setReg64 s o v).attends = s.attends := rfl
@[simp] theorem setReg64_barriers (o v : Nat) : (setReg64 s o v).barriers = s.barriers := rfl
@[simp] theorem setReg64_boundary (o v : Nat) : (setReg64 s o v).boundary = s.boundary := rfl
@[simp] theorem setReg64_launches (o v : Nat) : (setReg64 s o v).launches = s.launches := rfl
@[simp] theorem setReg64_nextLaunch (o v : Nat) : (setReg64 s o v).nextLaunch = s.nextLaunch := rfl
@[simp] theorem setReg64_queues (o v : Nat) : (setReg64 s o v).queues = s.queues := rfl
@[simp] theorem setReg64_served (o v : Nat) : (setReg64 s o v).served = s.served := rfl
@[simp] theorem setReg64_captures (o v : Nat) : (setReg64 s o v).captures = s.captures := rfl
@[simp] theorem setReg64_mgmt (o v : Nat) : (setReg64 s o v).mgmt = s.mgmt := rfl
@[simp] theorem setReg64_outbox (o v : Nat) : (setReg64 s o v).outbox = s.outbox := rfl
@[simp] theorem setReg64_ctxs (o v : Nat) : (setReg64 s o v).ctxs = s.ctxs := rfl
@[simp] theorem setReg64_lanes (o v : Nat) : (setReg64 s o v).lanes = s.lanes := rfl
@[simp] theorem setReg64_image (o v : Nat) : (setReg64 s o v).image = s.image := rfl
@[simp] theorem setReg64_tansy (o v : Nat) : (setReg64 s o v).tansy = s.tansy := rfl
@[simp] theorem setReg64_vetch (o v : Nat) : (setReg64 s o v).vetch = s.vetch := rfl
@[simp] theorem setReg64_yarrow (o v : Nat) : (setReg64 s o v).yarrow = s.yarrow := rfl
@[simp] theorem setReg64_rings (o v : Nat) : (setReg64 s o v).rings = s.rings := rfl
@[simp] theorem setReg64_timeu (o v : Nat) : (setReg64 s o v).timeu = s.timeu := rfl
@[simp] theorem setReg64_sensors (o v : Nat) : (setReg64 s o v).sensors = s.sensors := rfl
@[simp] theorem setReg64_links (o v : Nat) : (setReg64 s o v).links = s.links := rfl
@[simp] theorem setReg64_power (o v : Nat) : (setReg64 s o v).power = s.power := rfl
@[simp] theorem setReg64_safety (o v : Nat) : (setReg64 s o v).safety = s.safety := rfl
@[simp] theorem setReg64_cowslip (o v : Nat) : (setReg64 s o v).cowslip = s.cowslip := rfl
@[simp] theorem setReg64_harebell (o v : Nat) : (setReg64 s o v).harebell = s.harebell := rfl
@[simp] theorem setReg64_goldenAt (o v : Nat) : (setReg64 s o v).goldenAt = s.goldenAt := rfl
@[simp] theorem setReg64_golden (o v : Nat) : (setReg64 s o v).golden = s.golden := rfl
@[simp] theorem setReg64_goldenLate (o v : Nat) : (setReg64 s o v).goldenLate = s.goldenLate := rfl
@[simp] theorem setReg64_time (o v : Nat) : (setReg64 s o v).time = s.time := rfl
@[simp] theorem setReg64_frac (o v : Nat) : (setReg64 s o v).frac = s.frac := rfl
@[simp] theorem setReg64_ticks (o v : Nat) : (setReg64 s o v).ticks = s.ticks := rfl
@[simp] theorem setReg64_free (o v : Nat) : (setReg64 s o v).free = s.free := rfl

@[simp] theorem fset_pending (f : Field) (v : Nat) : (fset s f v).pending = s.pending := by unfold fset; split <;> rfl
@[simp] theorem fset_latch (f : Field) (v : Nat) : (fset s f v).latch = s.latch := by unfold fset; split <;> rfl
@[simp] theorem fset_held (f : Field) (v : Nat) : (fset s f v).held = s.held := by unfold fset; split <;> rfl
@[simp] theorem fset_mem (f : Field) (v : Nat) : (fset s f v).mem = s.mem := by unfold fset; split <;> rfl
@[simp] theorem fset_uncorr (f : Field) (v : Nat) : (fset s f v).uncorr = s.uncorr := by unfold fset; split <;> rfl
@[simp] theorem fset_stale (f : Field) (v : Nat) : (fset s f v).stale = s.stale := by unfold fset; split <;> rfl
@[simp] theorem fset_flash (f : Field) (v : Nat) : (fset s f v).flash = s.flash := by unfold fset; split <;> rfl
@[simp] theorem fset_flashBad (f : Field) (v : Nat) : (fset s f v).flashBad = s.flashBad := by unfold fset; split <;> rfl
@[simp] theorem fset_flashBytes (f : Field) (v : Nat) : (fset s f v).flashBytes = s.flashBytes := by unfold fset; split <;> rfl
@[simp] theorem fset_stackLogs (f : Field) (v : Nat) : (fset s f v).stackLogs = s.stackLogs := by unfold fset; split <;> rfl
@[simp] theorem fset_dbgRead (f : Field) (v : Nat) : (fset s f v).dbgRead = s.dbgRead := by unfold fset; split <;> rfl
@[simp] theorem fset_threads (f : Field) (v : Nat) : (fset s f v).threads = s.threads := by unfold fset; split <;> rfl
@[simp] theorem fset_units (f : Field) (v : Nat) : (fset s f v).units = s.units := by unfold fset; split <;> rfl
@[simp] theorem fset_vregs (f : Field) (v : Nat) : (fset s f v).vregs = s.vregs := by unfold fset; split <;> rfl
@[simp] theorem fset_pipes (f : Field) (v : Nat) : (fset s f v).pipes = s.pipes := by unfold fset; split <;> rfl
@[simp] theorem fset_attends (f : Field) (v : Nat) : (fset s f v).attends = s.attends := by unfold fset; split <;> rfl
@[simp] theorem fset_barriers (f : Field) (v : Nat) : (fset s f v).barriers = s.barriers := by unfold fset; split <;> rfl
@[simp] theorem fset_boundary (f : Field) (v : Nat) : (fset s f v).boundary = s.boundary := by unfold fset; split <;> rfl
@[simp] theorem fset_launches (f : Field) (v : Nat) : (fset s f v).launches = s.launches := by unfold fset; split <;> rfl
@[simp] theorem fset_nextLaunch (f : Field) (v : Nat) : (fset s f v).nextLaunch = s.nextLaunch := by unfold fset; split <;> rfl
@[simp] theorem fset_queues (f : Field) (v : Nat) : (fset s f v).queues = s.queues := by unfold fset; split <;> rfl
@[simp] theorem fset_served (f : Field) (v : Nat) : (fset s f v).served = s.served := by unfold fset; split <;> rfl
@[simp] theorem fset_captures (f : Field) (v : Nat) : (fset s f v).captures = s.captures := by unfold fset; split <;> rfl
@[simp] theorem fset_mgmt (f : Field) (v : Nat) : (fset s f v).mgmt = s.mgmt := by unfold fset; split <;> rfl
@[simp] theorem fset_outbox (f : Field) (v : Nat) : (fset s f v).outbox = s.outbox := by unfold fset; split <;> rfl
@[simp] theorem fset_ctxs (f : Field) (v : Nat) : (fset s f v).ctxs = s.ctxs := by unfold fset; split <;> rfl
@[simp] theorem fset_lanes (f : Field) (v : Nat) : (fset s f v).lanes = s.lanes := by unfold fset; split <;> rfl
@[simp] theorem fset_image (f : Field) (v : Nat) : (fset s f v).image = s.image := by unfold fset; split <;> rfl
@[simp] theorem fset_tansy (f : Field) (v : Nat) : (fset s f v).tansy = s.tansy := by unfold fset; split <;> rfl
@[simp] theorem fset_vetch (f : Field) (v : Nat) : (fset s f v).vetch = s.vetch := by unfold fset; split <;> rfl
@[simp] theorem fset_yarrow (f : Field) (v : Nat) : (fset s f v).yarrow = s.yarrow := by unfold fset; split <;> rfl
@[simp] theorem fset_rings (f : Field) (v : Nat) : (fset s f v).rings = s.rings := by unfold fset; split <;> rfl
@[simp] theorem fset_timeu (f : Field) (v : Nat) : (fset s f v).timeu = s.timeu := by unfold fset; split <;> rfl
@[simp] theorem fset_sensors (f : Field) (v : Nat) : (fset s f v).sensors = s.sensors := by unfold fset; split <;> rfl
@[simp] theorem fset_links (f : Field) (v : Nat) : (fset s f v).links = s.links := by unfold fset; split <;> rfl
@[simp] theorem fset_power (f : Field) (v : Nat) : (fset s f v).power = s.power := by unfold fset; split <;> rfl
@[simp] theorem fset_safety (f : Field) (v : Nat) : (fset s f v).safety = s.safety := by unfold fset; split <;> rfl
@[simp] theorem fset_cowslip (f : Field) (v : Nat) : (fset s f v).cowslip = s.cowslip := by unfold fset; split <;> rfl
@[simp] theorem fset_harebell (f : Field) (v : Nat) : (fset s f v).harebell = s.harebell := by unfold fset; split <;> rfl
@[simp] theorem fset_goldenAt (f : Field) (v : Nat) : (fset s f v).goldenAt = s.goldenAt := by unfold fset; split <;> rfl
@[simp] theorem fset_golden (f : Field) (v : Nat) : (fset s f v).golden = s.golden := by unfold fset; split <;> rfl
@[simp] theorem fset_goldenLate (f : Field) (v : Nat) : (fset s f v).goldenLate = s.goldenLate := by unfold fset; split <;> rfl
@[simp] theorem fset_time (f : Field) (v : Nat) : (fset s f v).time = s.time := by unfold fset; split <;> rfl
@[simp] theorem fset_frac (f : Field) (v : Nat) : (fset s f v).frac = s.frac := by unfold fset; split <;> rfl
@[simp] theorem fset_ticks (f : Field) (v : Nat) : (fset s f v).ticks = s.ticks := by unfold fset; split <;> rfl
@[simp] theorem fset_free (f : Field) (v : Nat) : (fset s f v).free = s.free := by unfold fset; split <;> rfl

@[simp] theorem fsetb_pending (f : Field) (b : Bool) : (fsetb s f b).pending = s.pending := fset_pending s f _
@[simp] theorem fsetb_latch (f : Field) (b : Bool) : (fsetb s f b).latch = s.latch := fset_latch s f _
@[simp] theorem fsetb_held (f : Field) (b : Bool) : (fsetb s f b).held = s.held := fset_held s f _
@[simp] theorem fsetb_mem (f : Field) (b : Bool) : (fsetb s f b).mem = s.mem := fset_mem s f _
@[simp] theorem fsetb_uncorr (f : Field) (b : Bool) : (fsetb s f b).uncorr = s.uncorr := fset_uncorr s f _
@[simp] theorem fsetb_stale (f : Field) (b : Bool) : (fsetb s f b).stale = s.stale := fset_stale s f _
@[simp] theorem fsetb_flash (f : Field) (b : Bool) : (fsetb s f b).flash = s.flash := fset_flash s f _
@[simp] theorem fsetb_flashBad (f : Field) (b : Bool) : (fsetb s f b).flashBad = s.flashBad := fset_flashBad s f _
@[simp] theorem fsetb_flashBytes (f : Field) (b : Bool) : (fsetb s f b).flashBytes = s.flashBytes := fset_flashBytes s f _
@[simp] theorem fsetb_stackLogs (f : Field) (b : Bool) : (fsetb s f b).stackLogs = s.stackLogs := fset_stackLogs s f _
@[simp] theorem fsetb_dbgRead (f : Field) (b : Bool) : (fsetb s f b).dbgRead = s.dbgRead := fset_dbgRead s f _
@[simp] theorem fsetb_threads (f : Field) (b : Bool) : (fsetb s f b).threads = s.threads := fset_threads s f _
@[simp] theorem fsetb_units (f : Field) (b : Bool) : (fsetb s f b).units = s.units := fset_units s f _
@[simp] theorem fsetb_vregs (f : Field) (b : Bool) : (fsetb s f b).vregs = s.vregs := fset_vregs s f _
@[simp] theorem fsetb_pipes (f : Field) (b : Bool) : (fsetb s f b).pipes = s.pipes := fset_pipes s f _
@[simp] theorem fsetb_attends (f : Field) (b : Bool) : (fsetb s f b).attends = s.attends := fset_attends s f _
@[simp] theorem fsetb_barriers (f : Field) (b : Bool) : (fsetb s f b).barriers = s.barriers := fset_barriers s f _
@[simp] theorem fsetb_boundary (f : Field) (b : Bool) : (fsetb s f b).boundary = s.boundary := fset_boundary s f _
@[simp] theorem fsetb_launches (f : Field) (b : Bool) : (fsetb s f b).launches = s.launches := fset_launches s f _
@[simp] theorem fsetb_nextLaunch (f : Field) (b : Bool) : (fsetb s f b).nextLaunch = s.nextLaunch := fset_nextLaunch s f _
@[simp] theorem fsetb_queues (f : Field) (b : Bool) : (fsetb s f b).queues = s.queues := fset_queues s f _
@[simp] theorem fsetb_served (f : Field) (b : Bool) : (fsetb s f b).served = s.served := fset_served s f _
@[simp] theorem fsetb_captures (f : Field) (b : Bool) : (fsetb s f b).captures = s.captures := fset_captures s f _
@[simp] theorem fsetb_mgmt (f : Field) (b : Bool) : (fsetb s f b).mgmt = s.mgmt := fset_mgmt s f _
@[simp] theorem fsetb_outbox (f : Field) (b : Bool) : (fsetb s f b).outbox = s.outbox := fset_outbox s f _
@[simp] theorem fsetb_ctxs (f : Field) (b : Bool) : (fsetb s f b).ctxs = s.ctxs := fset_ctxs s f _
@[simp] theorem fsetb_lanes (f : Field) (b : Bool) : (fsetb s f b).lanes = s.lanes := fset_lanes s f _
@[simp] theorem fsetb_image (f : Field) (b : Bool) : (fsetb s f b).image = s.image := fset_image s f _
@[simp] theorem fsetb_tansy (f : Field) (b : Bool) : (fsetb s f b).tansy = s.tansy := fset_tansy s f _
@[simp] theorem fsetb_vetch (f : Field) (b : Bool) : (fsetb s f b).vetch = s.vetch := fset_vetch s f _
@[simp] theorem fsetb_yarrow (f : Field) (b : Bool) : (fsetb s f b).yarrow = s.yarrow := fset_yarrow s f _
@[simp] theorem fsetb_rings (f : Field) (b : Bool) : (fsetb s f b).rings = s.rings := fset_rings s f _
@[simp] theorem fsetb_timeu (f : Field) (b : Bool) : (fsetb s f b).timeu = s.timeu := fset_timeu s f _
@[simp] theorem fsetb_sensors (f : Field) (b : Bool) : (fsetb s f b).sensors = s.sensors := fset_sensors s f _
@[simp] theorem fsetb_links (f : Field) (b : Bool) : (fsetb s f b).links = s.links := fset_links s f _
@[simp] theorem fsetb_power (f : Field) (b : Bool) : (fsetb s f b).power = s.power := fset_power s f _
@[simp] theorem fsetb_safety (f : Field) (b : Bool) : (fsetb s f b).safety = s.safety := fset_safety s f _
@[simp] theorem fsetb_cowslip (f : Field) (b : Bool) : (fsetb s f b).cowslip = s.cowslip := fset_cowslip s f _
@[simp] theorem fsetb_harebell (f : Field) (b : Bool) : (fsetb s f b).harebell = s.harebell := fset_harebell s f _
@[simp] theorem fsetb_goldenAt (f : Field) (b : Bool) : (fsetb s f b).goldenAt = s.goldenAt := fset_goldenAt s f _
@[simp] theorem fsetb_golden (f : Field) (b : Bool) : (fsetb s f b).golden = s.golden := fset_golden s f _
@[simp] theorem fsetb_goldenLate (f : Field) (b : Bool) : (fsetb s f b).goldenLate = s.goldenLate := fset_goldenLate s f _
@[simp] theorem fsetb_time (f : Field) (b : Bool) : (fsetb s f b).time = s.time := fset_time s f _
@[simp] theorem fsetb_frac (f : Field) (b : Bool) : (fsetb s f b).frac = s.frac := fset_frac s f _
@[simp] theorem fsetb_ticks (f : Field) (b : Bool) : (fsetb s f b).ticks = s.ticks := fset_ticks s f _
@[simp] theorem fsetb_free (f : Field) (b : Bool) : (fsetb s f b).free = s.free := fset_free s f _

@[simp] theorem fadd_pending (f : Field) (k : Nat) : (fadd s f k).pending = s.pending := fset_pending s f _
@[simp] theorem fadd_latch (f : Field) (k : Nat) : (fadd s f k).latch = s.latch := fset_latch s f _
@[simp] theorem fadd_held (f : Field) (k : Nat) : (fadd s f k).held = s.held := fset_held s f _
@[simp] theorem fadd_mem (f : Field) (k : Nat) : (fadd s f k).mem = s.mem := fset_mem s f _
@[simp] theorem fadd_uncorr (f : Field) (k : Nat) : (fadd s f k).uncorr = s.uncorr := fset_uncorr s f _
@[simp] theorem fadd_stale (f : Field) (k : Nat) : (fadd s f k).stale = s.stale := fset_stale s f _
@[simp] theorem fadd_flash (f : Field) (k : Nat) : (fadd s f k).flash = s.flash := fset_flash s f _
@[simp] theorem fadd_flashBad (f : Field) (k : Nat) : (fadd s f k).flashBad = s.flashBad := fset_flashBad s f _
@[simp] theorem fadd_flashBytes (f : Field) (k : Nat) : (fadd s f k).flashBytes = s.flashBytes := fset_flashBytes s f _
@[simp] theorem fadd_stackLogs (f : Field) (k : Nat) : (fadd s f k).stackLogs = s.stackLogs := fset_stackLogs s f _
@[simp] theorem fadd_dbgRead (f : Field) (k : Nat) : (fadd s f k).dbgRead = s.dbgRead := fset_dbgRead s f _
@[simp] theorem fadd_threads (f : Field) (k : Nat) : (fadd s f k).threads = s.threads := fset_threads s f _
@[simp] theorem fadd_units (f : Field) (k : Nat) : (fadd s f k).units = s.units := fset_units s f _
@[simp] theorem fadd_vregs (f : Field) (k : Nat) : (fadd s f k).vregs = s.vregs := fset_vregs s f _
@[simp] theorem fadd_pipes (f : Field) (k : Nat) : (fadd s f k).pipes = s.pipes := fset_pipes s f _
@[simp] theorem fadd_attends (f : Field) (k : Nat) : (fadd s f k).attends = s.attends := fset_attends s f _
@[simp] theorem fadd_barriers (f : Field) (k : Nat) : (fadd s f k).barriers = s.barriers := fset_barriers s f _
@[simp] theorem fadd_boundary (f : Field) (k : Nat) : (fadd s f k).boundary = s.boundary := fset_boundary s f _
@[simp] theorem fadd_launches (f : Field) (k : Nat) : (fadd s f k).launches = s.launches := fset_launches s f _
@[simp] theorem fadd_nextLaunch (f : Field) (k : Nat) : (fadd s f k).nextLaunch = s.nextLaunch := fset_nextLaunch s f _
@[simp] theorem fadd_queues (f : Field) (k : Nat) : (fadd s f k).queues = s.queues := fset_queues s f _
@[simp] theorem fadd_served (f : Field) (k : Nat) : (fadd s f k).served = s.served := fset_served s f _
@[simp] theorem fadd_captures (f : Field) (k : Nat) : (fadd s f k).captures = s.captures := fset_captures s f _
@[simp] theorem fadd_mgmt (f : Field) (k : Nat) : (fadd s f k).mgmt = s.mgmt := fset_mgmt s f _
@[simp] theorem fadd_outbox (f : Field) (k : Nat) : (fadd s f k).outbox = s.outbox := fset_outbox s f _
@[simp] theorem fadd_ctxs (f : Field) (k : Nat) : (fadd s f k).ctxs = s.ctxs := fset_ctxs s f _
@[simp] theorem fadd_lanes (f : Field) (k : Nat) : (fadd s f k).lanes = s.lanes := fset_lanes s f _
@[simp] theorem fadd_image (f : Field) (k : Nat) : (fadd s f k).image = s.image := fset_image s f _
@[simp] theorem fadd_tansy (f : Field) (k : Nat) : (fadd s f k).tansy = s.tansy := fset_tansy s f _
@[simp] theorem fadd_vetch (f : Field) (k : Nat) : (fadd s f k).vetch = s.vetch := fset_vetch s f _
@[simp] theorem fadd_yarrow (f : Field) (k : Nat) : (fadd s f k).yarrow = s.yarrow := fset_yarrow s f _
@[simp] theorem fadd_rings (f : Field) (k : Nat) : (fadd s f k).rings = s.rings := fset_rings s f _
@[simp] theorem fadd_timeu (f : Field) (k : Nat) : (fadd s f k).timeu = s.timeu := fset_timeu s f _
@[simp] theorem fadd_sensors (f : Field) (k : Nat) : (fadd s f k).sensors = s.sensors := fset_sensors s f _
@[simp] theorem fadd_links (f : Field) (k : Nat) : (fadd s f k).links = s.links := fset_links s f _
@[simp] theorem fadd_power (f : Field) (k : Nat) : (fadd s f k).power = s.power := fset_power s f _
@[simp] theorem fadd_safety (f : Field) (k : Nat) : (fadd s f k).safety = s.safety := fset_safety s f _
@[simp] theorem fadd_cowslip (f : Field) (k : Nat) : (fadd s f k).cowslip = s.cowslip := fset_cowslip s f _
@[simp] theorem fadd_harebell (f : Field) (k : Nat) : (fadd s f k).harebell = s.harebell := fset_harebell s f _
@[simp] theorem fadd_goldenAt (f : Field) (k : Nat) : (fadd s f k).goldenAt = s.goldenAt := fset_goldenAt s f _
@[simp] theorem fadd_golden (f : Field) (k : Nat) : (fadd s f k).golden = s.golden := fset_golden s f _
@[simp] theorem fadd_goldenLate (f : Field) (k : Nat) : (fadd s f k).goldenLate = s.goldenLate := fset_goldenLate s f _
@[simp] theorem fadd_time (f : Field) (k : Nat) : (fadd s f k).time = s.time := fset_time s f _
@[simp] theorem fadd_frac (f : Field) (k : Nat) : (fadd s f k).frac = s.frac := fset_frac s f _
@[simp] theorem fadd_ticks (f : Field) (k : Nat) : (fadd s f k).ticks = s.ticks := fset_ticks s f _
@[simp] theorem fadd_free (f : Field) (k : Nat) : (fadd s f k).free = s.free := fset_free s f _

@[simp] theorem finc_pending (f : Field) : (finc s f).pending = s.pending := fset_pending s f _
@[simp] theorem finc_latch (f : Field) : (finc s f).latch = s.latch := fset_latch s f _
@[simp] theorem finc_held (f : Field) : (finc s f).held = s.held := fset_held s f _
@[simp] theorem finc_mem (f : Field) : (finc s f).mem = s.mem := fset_mem s f _
@[simp] theorem finc_uncorr (f : Field) : (finc s f).uncorr = s.uncorr := fset_uncorr s f _
@[simp] theorem finc_stale (f : Field) : (finc s f).stale = s.stale := fset_stale s f _
@[simp] theorem finc_flash (f : Field) : (finc s f).flash = s.flash := fset_flash s f _
@[simp] theorem finc_flashBad (f : Field) : (finc s f).flashBad = s.flashBad := fset_flashBad s f _
@[simp] theorem finc_flashBytes (f : Field) : (finc s f).flashBytes = s.flashBytes := fset_flashBytes s f _
@[simp] theorem finc_stackLogs (f : Field) : (finc s f).stackLogs = s.stackLogs := fset_stackLogs s f _
@[simp] theorem finc_dbgRead (f : Field) : (finc s f).dbgRead = s.dbgRead := fset_dbgRead s f _
@[simp] theorem finc_threads (f : Field) : (finc s f).threads = s.threads := fset_threads s f _
@[simp] theorem finc_units (f : Field) : (finc s f).units = s.units := fset_units s f _
@[simp] theorem finc_vregs (f : Field) : (finc s f).vregs = s.vregs := fset_vregs s f _
@[simp] theorem finc_pipes (f : Field) : (finc s f).pipes = s.pipes := fset_pipes s f _
@[simp] theorem finc_attends (f : Field) : (finc s f).attends = s.attends := fset_attends s f _
@[simp] theorem finc_barriers (f : Field) : (finc s f).barriers = s.barriers := fset_barriers s f _
@[simp] theorem finc_boundary (f : Field) : (finc s f).boundary = s.boundary := fset_boundary s f _
@[simp] theorem finc_launches (f : Field) : (finc s f).launches = s.launches := fset_launches s f _
@[simp] theorem finc_nextLaunch (f : Field) : (finc s f).nextLaunch = s.nextLaunch := fset_nextLaunch s f _
@[simp] theorem finc_queues (f : Field) : (finc s f).queues = s.queues := fset_queues s f _
@[simp] theorem finc_served (f : Field) : (finc s f).served = s.served := fset_served s f _
@[simp] theorem finc_captures (f : Field) : (finc s f).captures = s.captures := fset_captures s f _
@[simp] theorem finc_mgmt (f : Field) : (finc s f).mgmt = s.mgmt := fset_mgmt s f _
@[simp] theorem finc_outbox (f : Field) : (finc s f).outbox = s.outbox := fset_outbox s f _
@[simp] theorem finc_ctxs (f : Field) : (finc s f).ctxs = s.ctxs := fset_ctxs s f _
@[simp] theorem finc_lanes (f : Field) : (finc s f).lanes = s.lanes := fset_lanes s f _
@[simp] theorem finc_image (f : Field) : (finc s f).image = s.image := fset_image s f _
@[simp] theorem finc_tansy (f : Field) : (finc s f).tansy = s.tansy := fset_tansy s f _
@[simp] theorem finc_vetch (f : Field) : (finc s f).vetch = s.vetch := fset_vetch s f _
@[simp] theorem finc_yarrow (f : Field) : (finc s f).yarrow = s.yarrow := fset_yarrow s f _
@[simp] theorem finc_rings (f : Field) : (finc s f).rings = s.rings := fset_rings s f _
@[simp] theorem finc_timeu (f : Field) : (finc s f).timeu = s.timeu := fset_timeu s f _
@[simp] theorem finc_sensors (f : Field) : (finc s f).sensors = s.sensors := fset_sensors s f _
@[simp] theorem finc_links (f : Field) : (finc s f).links = s.links := fset_links s f _
@[simp] theorem finc_power (f : Field) : (finc s f).power = s.power := fset_power s f _
@[simp] theorem finc_safety (f : Field) : (finc s f).safety = s.safety := fset_safety s f _
@[simp] theorem finc_cowslip (f : Field) : (finc s f).cowslip = s.cowslip := fset_cowslip s f _
@[simp] theorem finc_harebell (f : Field) : (finc s f).harebell = s.harebell := fset_harebell s f _
@[simp] theorem finc_goldenAt (f : Field) : (finc s f).goldenAt = s.goldenAt := fset_goldenAt s f _
@[simp] theorem finc_golden (f : Field) : (finc s f).golden = s.golden := fset_golden s f _
@[simp] theorem finc_goldenLate (f : Field) : (finc s f).goldenLate = s.goldenLate := fset_goldenLate s f _
@[simp] theorem finc_time (f : Field) : (finc s f).time = s.time := fset_time s f _
@[simp] theorem finc_frac (f : Field) : (finc s f).frac = s.frac := fset_frac s f _
@[simp] theorem finc_ticks (f : Field) : (finc s f).ticks = s.ticks := fset_ticks s f _
@[simp] theorem finc_free (f : Field) : (finc s f).free = s.free := fset_free s f _

@[simp] theorem memWrite_pending (a : Nat) (bs : List Byte) : (memWrite s a bs).pending = s.pending := rfl
@[simp] theorem memWrite_cw (a : Nat) (bs : List Byte) : (memWrite s a bs).cw = s.cw := rfl
@[simp] theorem memWrite_latch (a : Nat) (bs : List Byte) : (memWrite s a bs).latch = s.latch := rfl
@[simp] theorem memWrite_held (a : Nat) (bs : List Byte) : (memWrite s a bs).held = s.held := rfl
@[simp] theorem memWrite_stale (a : Nat) (bs : List Byte) : (memWrite s a bs).stale = s.stale := rfl
@[simp] theorem memWrite_flash (a : Nat) (bs : List Byte) : (memWrite s a bs).flash = s.flash := rfl
@[simp] theorem memWrite_flashBad (a : Nat) (bs : List Byte) : (memWrite s a bs).flashBad = s.flashBad := rfl
@[simp] theorem memWrite_flashBytes (a : Nat) (bs : List Byte) : (memWrite s a bs).flashBytes = s.flashBytes := rfl
@[simp] theorem memWrite_stackLogs (a : Nat) (bs : List Byte) : (memWrite s a bs).stackLogs = s.stackLogs := rfl
@[simp] theorem memWrite_dbgRead (a : Nat) (bs : List Byte) : (memWrite s a bs).dbgRead = s.dbgRead := rfl
@[simp] theorem memWrite_threads (a : Nat) (bs : List Byte) : (memWrite s a bs).threads = s.threads := rfl
@[simp] theorem memWrite_units (a : Nat) (bs : List Byte) : (memWrite s a bs).units = s.units := rfl
@[simp] theorem memWrite_vregs (a : Nat) (bs : List Byte) : (memWrite s a bs).vregs = s.vregs := rfl
@[simp] theorem memWrite_pipes (a : Nat) (bs : List Byte) : (memWrite s a bs).pipes = s.pipes := rfl
@[simp] theorem memWrite_attends (a : Nat) (bs : List Byte) : (memWrite s a bs).attends = s.attends := rfl
@[simp] theorem memWrite_barriers (a : Nat) (bs : List Byte) : (memWrite s a bs).barriers = s.barriers := rfl
@[simp] theorem memWrite_boundary (a : Nat) (bs : List Byte) : (memWrite s a bs).boundary = s.boundary := rfl
@[simp] theorem memWrite_launches (a : Nat) (bs : List Byte) : (memWrite s a bs).launches = s.launches := rfl
@[simp] theorem memWrite_nextLaunch (a : Nat) (bs : List Byte) : (memWrite s a bs).nextLaunch = s.nextLaunch := rfl
@[simp] theorem memWrite_queues (a : Nat) (bs : List Byte) : (memWrite s a bs).queues = s.queues := rfl
@[simp] theorem memWrite_served (a : Nat) (bs : List Byte) : (memWrite s a bs).served = s.served := rfl
@[simp] theorem memWrite_captures (a : Nat) (bs : List Byte) : (memWrite s a bs).captures = s.captures := rfl
@[simp] theorem memWrite_mgmt (a : Nat) (bs : List Byte) : (memWrite s a bs).mgmt = s.mgmt := rfl
@[simp] theorem memWrite_outbox (a : Nat) (bs : List Byte) : (memWrite s a bs).outbox = s.outbox := rfl
@[simp] theorem memWrite_ctxs (a : Nat) (bs : List Byte) : (memWrite s a bs).ctxs = s.ctxs := rfl
@[simp] theorem memWrite_lanes (a : Nat) (bs : List Byte) : (memWrite s a bs).lanes = s.lanes := rfl
@[simp] theorem memWrite_image (a : Nat) (bs : List Byte) : (memWrite s a bs).image = s.image := rfl
@[simp] theorem memWrite_tansy (a : Nat) (bs : List Byte) : (memWrite s a bs).tansy = s.tansy := rfl
@[simp] theorem memWrite_vetch (a : Nat) (bs : List Byte) : (memWrite s a bs).vetch = s.vetch := rfl
@[simp] theorem memWrite_yarrow (a : Nat) (bs : List Byte) : (memWrite s a bs).yarrow = s.yarrow := rfl
@[simp] theorem memWrite_rings (a : Nat) (bs : List Byte) : (memWrite s a bs).rings = s.rings := rfl
@[simp] theorem memWrite_timeu (a : Nat) (bs : List Byte) : (memWrite s a bs).timeu = s.timeu := rfl
@[simp] theorem memWrite_sensors (a : Nat) (bs : List Byte) : (memWrite s a bs).sensors = s.sensors := rfl
@[simp] theorem memWrite_links (a : Nat) (bs : List Byte) : (memWrite s a bs).links = s.links := rfl
@[simp] theorem memWrite_power (a : Nat) (bs : List Byte) : (memWrite s a bs).power = s.power := rfl
@[simp] theorem memWrite_safety (a : Nat) (bs : List Byte) : (memWrite s a bs).safety = s.safety := rfl
@[simp] theorem memWrite_cowslip (a : Nat) (bs : List Byte) : (memWrite s a bs).cowslip = s.cowslip := rfl
@[simp] theorem memWrite_harebell (a : Nat) (bs : List Byte) : (memWrite s a bs).harebell = s.harebell := rfl
@[simp] theorem memWrite_goldenAt (a : Nat) (bs : List Byte) : (memWrite s a bs).goldenAt = s.goldenAt := rfl
@[simp] theorem memWrite_golden (a : Nat) (bs : List Byte) : (memWrite s a bs).golden = s.golden := rfl
@[simp] theorem memWrite_goldenLate (a : Nat) (bs : List Byte) : (memWrite s a bs).goldenLate = s.goldenLate := rfl
@[simp] theorem memWrite_time (a : Nat) (bs : List Byte) : (memWrite s a bs).time = s.time := rfl
@[simp] theorem memWrite_frac (a : Nat) (bs : List Byte) : (memWrite s a bs).frac = s.frac := rfl
@[simp] theorem memWrite_ticks (a : Nat) (bs : List Byte) : (memWrite s a bs).ticks = s.ticks := rfl
@[simp] theorem memWrite_free (a : Nat) (bs : List Byte) : (memWrite s a bs).free = s.free := rfl

@[simp] theorem memZero_pending (a n : Nat) : (memZero s a n).pending = s.pending := rfl
@[simp] theorem memZero_cw (a n : Nat) : (memZero s a n).cw = s.cw := rfl
@[simp] theorem memZero_latch (a n : Nat) : (memZero s a n).latch = s.latch := rfl
@[simp] theorem memZero_held (a n : Nat) : (memZero s a n).held = s.held := rfl
@[simp] theorem memZero_stale (a n : Nat) : (memZero s a n).stale = s.stale := rfl
@[simp] theorem memZero_flash (a n : Nat) : (memZero s a n).flash = s.flash := rfl
@[simp] theorem memZero_flashBad (a n : Nat) : (memZero s a n).flashBad = s.flashBad := rfl
@[simp] theorem memZero_flashBytes (a n : Nat) : (memZero s a n).flashBytes = s.flashBytes := rfl
@[simp] theorem memZero_stackLogs (a n : Nat) : (memZero s a n).stackLogs = s.stackLogs := rfl
@[simp] theorem memZero_dbgRead (a n : Nat) : (memZero s a n).dbgRead = s.dbgRead := rfl
@[simp] theorem memZero_threads (a n : Nat) : (memZero s a n).threads = s.threads := rfl
@[simp] theorem memZero_units (a n : Nat) : (memZero s a n).units = s.units := rfl
@[simp] theorem memZero_vregs (a n : Nat) : (memZero s a n).vregs = s.vregs := rfl
@[simp] theorem memZero_pipes (a n : Nat) : (memZero s a n).pipes = s.pipes := rfl
@[simp] theorem memZero_attends (a n : Nat) : (memZero s a n).attends = s.attends := rfl
@[simp] theorem memZero_barriers (a n : Nat) : (memZero s a n).barriers = s.barriers := rfl
@[simp] theorem memZero_boundary (a n : Nat) : (memZero s a n).boundary = s.boundary := rfl
@[simp] theorem memZero_launches (a n : Nat) : (memZero s a n).launches = s.launches := rfl
@[simp] theorem memZero_nextLaunch (a n : Nat) : (memZero s a n).nextLaunch = s.nextLaunch := rfl
@[simp] theorem memZero_queues (a n : Nat) : (memZero s a n).queues = s.queues := rfl
@[simp] theorem memZero_served (a n : Nat) : (memZero s a n).served = s.served := rfl
@[simp] theorem memZero_captures (a n : Nat) : (memZero s a n).captures = s.captures := rfl
@[simp] theorem memZero_mgmt (a n : Nat) : (memZero s a n).mgmt = s.mgmt := rfl
@[simp] theorem memZero_outbox (a n : Nat) : (memZero s a n).outbox = s.outbox := rfl
@[simp] theorem memZero_ctxs (a n : Nat) : (memZero s a n).ctxs = s.ctxs := rfl
@[simp] theorem memZero_lanes (a n : Nat) : (memZero s a n).lanes = s.lanes := rfl
@[simp] theorem memZero_image (a n : Nat) : (memZero s a n).image = s.image := rfl
@[simp] theorem memZero_tansy (a n : Nat) : (memZero s a n).tansy = s.tansy := rfl
@[simp] theorem memZero_vetch (a n : Nat) : (memZero s a n).vetch = s.vetch := rfl
@[simp] theorem memZero_yarrow (a n : Nat) : (memZero s a n).yarrow = s.yarrow := rfl
@[simp] theorem memZero_rings (a n : Nat) : (memZero s a n).rings = s.rings := rfl
@[simp] theorem memZero_timeu (a n : Nat) : (memZero s a n).timeu = s.timeu := rfl
@[simp] theorem memZero_sensors (a n : Nat) : (memZero s a n).sensors = s.sensors := rfl
@[simp] theorem memZero_links (a n : Nat) : (memZero s a n).links = s.links := rfl
@[simp] theorem memZero_power (a n : Nat) : (memZero s a n).power = s.power := rfl
@[simp] theorem memZero_safety (a n : Nat) : (memZero s a n).safety = s.safety := rfl
@[simp] theorem memZero_cowslip (a n : Nat) : (memZero s a n).cowslip = s.cowslip := rfl
@[simp] theorem memZero_harebell (a n : Nat) : (memZero s a n).harebell = s.harebell := rfl
@[simp] theorem memZero_goldenAt (a n : Nat) : (memZero s a n).goldenAt = s.goldenAt := rfl
@[simp] theorem memZero_golden (a n : Nat) : (memZero s a n).golden = s.golden := rfl
@[simp] theorem memZero_goldenLate (a n : Nat) : (memZero s a n).goldenLate = s.goldenLate := rfl
@[simp] theorem memZero_time (a n : Nat) : (memZero s a n).time = s.time := rfl
@[simp] theorem memZero_frac (a n : Nat) : (memZero s a n).frac = s.frac := rfl
@[simp] theorem memZero_ticks (a n : Nat) : (memZero s a n).ticks = s.ticks := rfl
@[simp] theorem memZero_free (a n : Nat) : (memZero s a n).free = s.free := rfl

@[simp] theorem noteStale_pending (a n : Nat) : (noteStale s a n).pending = s.pending := rfl
@[simp] theorem noteStale_cw (a n : Nat) : (noteStale s a n).cw = s.cw := rfl
@[simp] theorem noteStale_latch (a n : Nat) : (noteStale s a n).latch = s.latch := rfl
@[simp] theorem noteStale_held (a n : Nat) : (noteStale s a n).held = s.held := rfl
@[simp] theorem noteStale_mem (a n : Nat) : (noteStale s a n).mem = s.mem := rfl
@[simp] theorem noteStale_uncorr (a n : Nat) : (noteStale s a n).uncorr = s.uncorr := rfl
@[simp] theorem noteStale_flash (a n : Nat) : (noteStale s a n).flash = s.flash := rfl
@[simp] theorem noteStale_flashBad (a n : Nat) : (noteStale s a n).flashBad = s.flashBad := rfl
@[simp] theorem noteStale_flashBytes (a n : Nat) : (noteStale s a n).flashBytes = s.flashBytes := rfl
@[simp] theorem noteStale_stackLogs (a n : Nat) : (noteStale s a n).stackLogs = s.stackLogs := rfl
@[simp] theorem noteStale_dbgRead (a n : Nat) : (noteStale s a n).dbgRead = s.dbgRead := rfl
@[simp] theorem noteStale_threads (a n : Nat) : (noteStale s a n).threads = s.threads := rfl
@[simp] theorem noteStale_units (a n : Nat) : (noteStale s a n).units = s.units := rfl
@[simp] theorem noteStale_vregs (a n : Nat) : (noteStale s a n).vregs = s.vregs := rfl
@[simp] theorem noteStale_pipes (a n : Nat) : (noteStale s a n).pipes = s.pipes := rfl
@[simp] theorem noteStale_attends (a n : Nat) : (noteStale s a n).attends = s.attends := rfl
@[simp] theorem noteStale_barriers (a n : Nat) : (noteStale s a n).barriers = s.barriers := rfl
@[simp] theorem noteStale_boundary (a n : Nat) : (noteStale s a n).boundary = s.boundary := rfl
@[simp] theorem noteStale_launches (a n : Nat) : (noteStale s a n).launches = s.launches := rfl
@[simp] theorem noteStale_nextLaunch (a n : Nat) : (noteStale s a n).nextLaunch = s.nextLaunch := rfl
@[simp] theorem noteStale_queues (a n : Nat) : (noteStale s a n).queues = s.queues := rfl
@[simp] theorem noteStale_served (a n : Nat) : (noteStale s a n).served = s.served := rfl
@[simp] theorem noteStale_captures (a n : Nat) : (noteStale s a n).captures = s.captures := rfl
@[simp] theorem noteStale_mgmt (a n : Nat) : (noteStale s a n).mgmt = s.mgmt := rfl
@[simp] theorem noteStale_outbox (a n : Nat) : (noteStale s a n).outbox = s.outbox := rfl
@[simp] theorem noteStale_ctxs (a n : Nat) : (noteStale s a n).ctxs = s.ctxs := rfl
@[simp] theorem noteStale_lanes (a n : Nat) : (noteStale s a n).lanes = s.lanes := rfl
@[simp] theorem noteStale_image (a n : Nat) : (noteStale s a n).image = s.image := rfl
@[simp] theorem noteStale_tansy (a n : Nat) : (noteStale s a n).tansy = s.tansy := rfl
@[simp] theorem noteStale_vetch (a n : Nat) : (noteStale s a n).vetch = s.vetch := rfl
@[simp] theorem noteStale_yarrow (a n : Nat) : (noteStale s a n).yarrow = s.yarrow := rfl
@[simp] theorem noteStale_rings (a n : Nat) : (noteStale s a n).rings = s.rings := rfl
@[simp] theorem noteStale_timeu (a n : Nat) : (noteStale s a n).timeu = s.timeu := rfl
@[simp] theorem noteStale_sensors (a n : Nat) : (noteStale s a n).sensors = s.sensors := rfl
@[simp] theorem noteStale_links (a n : Nat) : (noteStale s a n).links = s.links := rfl
@[simp] theorem noteStale_power (a n : Nat) : (noteStale s a n).power = s.power := rfl
@[simp] theorem noteStale_safety (a n : Nat) : (noteStale s a n).safety = s.safety := rfl
@[simp] theorem noteStale_cowslip (a n : Nat) : (noteStale s a n).cowslip = s.cowslip := rfl
@[simp] theorem noteStale_harebell (a n : Nat) : (noteStale s a n).harebell = s.harebell := rfl
@[simp] theorem noteStale_goldenAt (a n : Nat) : (noteStale s a n).goldenAt = s.goldenAt := rfl
@[simp] theorem noteStale_golden (a n : Nat) : (noteStale s a n).golden = s.golden := rfl
@[simp] theorem noteStale_goldenLate (a n : Nat) : (noteStale s a n).goldenLate = s.goldenLate := rfl
@[simp] theorem noteStale_time (a n : Nat) : (noteStale s a n).time = s.time := rfl
@[simp] theorem noteStale_frac (a n : Nat) : (noteStale s a n).frac = s.frac := rfl
@[simp] theorem noteStale_ticks (a n : Nat) : (noteStale s a n).ticks = s.ticks := rfl
@[simp] theorem noteStale_free (a n : Nat) : (noteStale s a n).free = s.free := rfl

@[simp] theorem softWrite_pending (a : Nat) (bs : List Byte) : (softWrite s a bs).pending = s.pending := rfl
@[simp] theorem softWrite_cw (a : Nat) (bs : List Byte) : (softWrite s a bs).cw = s.cw := rfl
@[simp] theorem softWrite_latch (a : Nat) (bs : List Byte) : (softWrite s a bs).latch = s.latch := rfl
@[simp] theorem softWrite_held (a : Nat) (bs : List Byte) : (softWrite s a bs).held = s.held := rfl
@[simp] theorem softWrite_flash (a : Nat) (bs : List Byte) : (softWrite s a bs).flash = s.flash := rfl
@[simp] theorem softWrite_flashBad (a : Nat) (bs : List Byte) : (softWrite s a bs).flashBad = s.flashBad := rfl
@[simp] theorem softWrite_flashBytes (a : Nat) (bs : List Byte) : (softWrite s a bs).flashBytes = s.flashBytes := rfl
@[simp] theorem softWrite_stackLogs (a : Nat) (bs : List Byte) : (softWrite s a bs).stackLogs = s.stackLogs := rfl
@[simp] theorem softWrite_dbgRead (a : Nat) (bs : List Byte) : (softWrite s a bs).dbgRead = s.dbgRead := rfl
@[simp] theorem softWrite_threads (a : Nat) (bs : List Byte) : (softWrite s a bs).threads = s.threads := rfl
@[simp] theorem softWrite_units (a : Nat) (bs : List Byte) : (softWrite s a bs).units = s.units := rfl
@[simp] theorem softWrite_vregs (a : Nat) (bs : List Byte) : (softWrite s a bs).vregs = s.vregs := rfl
@[simp] theorem softWrite_pipes (a : Nat) (bs : List Byte) : (softWrite s a bs).pipes = s.pipes := rfl
@[simp] theorem softWrite_attends (a : Nat) (bs : List Byte) : (softWrite s a bs).attends = s.attends := rfl
@[simp] theorem softWrite_barriers (a : Nat) (bs : List Byte) : (softWrite s a bs).barriers = s.barriers := rfl
@[simp] theorem softWrite_boundary (a : Nat) (bs : List Byte) : (softWrite s a bs).boundary = s.boundary := rfl
@[simp] theorem softWrite_launches (a : Nat) (bs : List Byte) : (softWrite s a bs).launches = s.launches := rfl
@[simp] theorem softWrite_nextLaunch (a : Nat) (bs : List Byte) : (softWrite s a bs).nextLaunch = s.nextLaunch := rfl
@[simp] theorem softWrite_queues (a : Nat) (bs : List Byte) : (softWrite s a bs).queues = s.queues := rfl
@[simp] theorem softWrite_served (a : Nat) (bs : List Byte) : (softWrite s a bs).served = s.served := rfl
@[simp] theorem softWrite_captures (a : Nat) (bs : List Byte) : (softWrite s a bs).captures = s.captures := rfl
@[simp] theorem softWrite_mgmt (a : Nat) (bs : List Byte) : (softWrite s a bs).mgmt = s.mgmt := rfl
@[simp] theorem softWrite_outbox (a : Nat) (bs : List Byte) : (softWrite s a bs).outbox = s.outbox := rfl
@[simp] theorem softWrite_ctxs (a : Nat) (bs : List Byte) : (softWrite s a bs).ctxs = s.ctxs := rfl
@[simp] theorem softWrite_lanes (a : Nat) (bs : List Byte) : (softWrite s a bs).lanes = s.lanes := rfl
@[simp] theorem softWrite_image (a : Nat) (bs : List Byte) : (softWrite s a bs).image = s.image := rfl
@[simp] theorem softWrite_tansy (a : Nat) (bs : List Byte) : (softWrite s a bs).tansy = s.tansy := rfl
@[simp] theorem softWrite_vetch (a : Nat) (bs : List Byte) : (softWrite s a bs).vetch = s.vetch := rfl
@[simp] theorem softWrite_yarrow (a : Nat) (bs : List Byte) : (softWrite s a bs).yarrow = s.yarrow := rfl
@[simp] theorem softWrite_rings (a : Nat) (bs : List Byte) : (softWrite s a bs).rings = s.rings := rfl
@[simp] theorem softWrite_timeu (a : Nat) (bs : List Byte) : (softWrite s a bs).timeu = s.timeu := rfl
@[simp] theorem softWrite_sensors (a : Nat) (bs : List Byte) : (softWrite s a bs).sensors = s.sensors := rfl
@[simp] theorem softWrite_links (a : Nat) (bs : List Byte) : (softWrite s a bs).links = s.links := rfl
@[simp] theorem softWrite_power (a : Nat) (bs : List Byte) : (softWrite s a bs).power = s.power := rfl
@[simp] theorem softWrite_safety (a : Nat) (bs : List Byte) : (softWrite s a bs).safety = s.safety := rfl
@[simp] theorem softWrite_cowslip (a : Nat) (bs : List Byte) : (softWrite s a bs).cowslip = s.cowslip := rfl
@[simp] theorem softWrite_harebell (a : Nat) (bs : List Byte) : (softWrite s a bs).harebell = s.harebell := rfl
@[simp] theorem softWrite_goldenAt (a : Nat) (bs : List Byte) : (softWrite s a bs).goldenAt = s.goldenAt := rfl
@[simp] theorem softWrite_golden (a : Nat) (bs : List Byte) : (softWrite s a bs).golden = s.golden := rfl
@[simp] theorem softWrite_goldenLate (a : Nat) (bs : List Byte) : (softWrite s a bs).goldenLate = s.goldenLate := rfl
@[simp] theorem softWrite_time (a : Nat) (bs : List Byte) : (softWrite s a bs).time = s.time := rfl
@[simp] theorem softWrite_frac (a : Nat) (bs : List Byte) : (softWrite s a bs).frac = s.frac := rfl
@[simp] theorem softWrite_ticks (a : Nat) (bs : List Byte) : (softWrite s a bs).ticks = s.ticks := rfl
@[simp] theorem softWrite_free (a : Nat) (bs : List Byte) : (softWrite s a bs).free = s.free := rfl

@[simp] theorem takeFree_pending : (takeFree s).2.pending = s.pending := rfl
@[simp] theorem takeFree_cw : (takeFree s).2.cw = s.cw := rfl
@[simp] theorem takeFree_latch : (takeFree s).2.latch = s.latch := rfl
@[simp] theorem takeFree_held : (takeFree s).2.held = s.held := rfl
@[simp] theorem takeFree_mem : (takeFree s).2.mem = s.mem := rfl
@[simp] theorem takeFree_uncorr : (takeFree s).2.uncorr = s.uncorr := rfl
@[simp] theorem takeFree_stale : (takeFree s).2.stale = s.stale := rfl
@[simp] theorem takeFree_flash : (takeFree s).2.flash = s.flash := rfl
@[simp] theorem takeFree_flashBad : (takeFree s).2.flashBad = s.flashBad := rfl
@[simp] theorem takeFree_flashBytes : (takeFree s).2.flashBytes = s.flashBytes := rfl
@[simp] theorem takeFree_stackLogs : (takeFree s).2.stackLogs = s.stackLogs := rfl
@[simp] theorem takeFree_dbgRead : (takeFree s).2.dbgRead = s.dbgRead := rfl
@[simp] theorem takeFree_threads : (takeFree s).2.threads = s.threads := rfl
@[simp] theorem takeFree_units : (takeFree s).2.units = s.units := rfl
@[simp] theorem takeFree_vregs : (takeFree s).2.vregs = s.vregs := rfl
@[simp] theorem takeFree_pipes : (takeFree s).2.pipes = s.pipes := rfl
@[simp] theorem takeFree_attends : (takeFree s).2.attends = s.attends := rfl
@[simp] theorem takeFree_barriers : (takeFree s).2.barriers = s.barriers := rfl
@[simp] theorem takeFree_boundary : (takeFree s).2.boundary = s.boundary := rfl
@[simp] theorem takeFree_launches : (takeFree s).2.launches = s.launches := rfl
@[simp] theorem takeFree_nextLaunch : (takeFree s).2.nextLaunch = s.nextLaunch := rfl
@[simp] theorem takeFree_queues : (takeFree s).2.queues = s.queues := rfl
@[simp] theorem takeFree_served : (takeFree s).2.served = s.served := rfl
@[simp] theorem takeFree_captures : (takeFree s).2.captures = s.captures := rfl
@[simp] theorem takeFree_mgmt : (takeFree s).2.mgmt = s.mgmt := rfl
@[simp] theorem takeFree_outbox : (takeFree s).2.outbox = s.outbox := rfl
@[simp] theorem takeFree_ctxs : (takeFree s).2.ctxs = s.ctxs := rfl
@[simp] theorem takeFree_lanes : (takeFree s).2.lanes = s.lanes := rfl
@[simp] theorem takeFree_image : (takeFree s).2.image = s.image := rfl
@[simp] theorem takeFree_tansy : (takeFree s).2.tansy = s.tansy := rfl
@[simp] theorem takeFree_vetch : (takeFree s).2.vetch = s.vetch := rfl
@[simp] theorem takeFree_yarrow : (takeFree s).2.yarrow = s.yarrow := rfl
@[simp] theorem takeFree_rings : (takeFree s).2.rings = s.rings := rfl
@[simp] theorem takeFree_timeu : (takeFree s).2.timeu = s.timeu := rfl
@[simp] theorem takeFree_sensors : (takeFree s).2.sensors = s.sensors := rfl
@[simp] theorem takeFree_links : (takeFree s).2.links = s.links := rfl
@[simp] theorem takeFree_power : (takeFree s).2.power = s.power := rfl
@[simp] theorem takeFree_safety : (takeFree s).2.safety = s.safety := rfl
@[simp] theorem takeFree_cowslip : (takeFree s).2.cowslip = s.cowslip := rfl
@[simp] theorem takeFree_harebell : (takeFree s).2.harebell = s.harebell := rfl
@[simp] theorem takeFree_goldenAt : (takeFree s).2.goldenAt = s.goldenAt := rfl
@[simp] theorem takeFree_golden : (takeFree s).2.golden = s.golden := rfl
@[simp] theorem takeFree_goldenLate : (takeFree s).2.goldenLate = s.goldenLate := rfl
@[simp] theorem takeFree_time : (takeFree s).2.time = s.time := rfl
@[simp] theorem takeFree_frac : (takeFree s).2.frac = s.frac := rfl
@[simp] theorem takeFree_ticks : (takeFree s).2.ticks = s.ticks := rfl

@[simp] theorem dropRegs_pending (p : Nat → Bool) : (dropRegs p s).pending = s.pending := rfl
@[simp] theorem dropRegs_latch (p : Nat → Bool) : (dropRegs p s).latch = s.latch := rfl
@[simp] theorem dropRegs_held (p : Nat → Bool) : (dropRegs p s).held = s.held := rfl
@[simp] theorem dropRegs_mem (p : Nat → Bool) : (dropRegs p s).mem = s.mem := rfl
@[simp] theorem dropRegs_uncorr (p : Nat → Bool) : (dropRegs p s).uncorr = s.uncorr := rfl
@[simp] theorem dropRegs_stale (p : Nat → Bool) : (dropRegs p s).stale = s.stale := rfl
@[simp] theorem dropRegs_flash (p : Nat → Bool) : (dropRegs p s).flash = s.flash := rfl
@[simp] theorem dropRegs_flashBad (p : Nat → Bool) : (dropRegs p s).flashBad = s.flashBad := rfl
@[simp] theorem dropRegs_flashBytes (p : Nat → Bool) : (dropRegs p s).flashBytes = s.flashBytes := rfl
@[simp] theorem dropRegs_stackLogs (p : Nat → Bool) : (dropRegs p s).stackLogs = s.stackLogs := rfl
@[simp] theorem dropRegs_dbgRead (p : Nat → Bool) : (dropRegs p s).dbgRead = s.dbgRead := rfl
@[simp] theorem dropRegs_threads (p : Nat → Bool) : (dropRegs p s).threads = s.threads := rfl
@[simp] theorem dropRegs_units (p : Nat → Bool) : (dropRegs p s).units = s.units := rfl
@[simp] theorem dropRegs_vregs (p : Nat → Bool) : (dropRegs p s).vregs = s.vregs := rfl
@[simp] theorem dropRegs_pipes (p : Nat → Bool) : (dropRegs p s).pipes = s.pipes := rfl
@[simp] theorem dropRegs_attends (p : Nat → Bool) : (dropRegs p s).attends = s.attends := rfl
@[simp] theorem dropRegs_barriers (p : Nat → Bool) : (dropRegs p s).barriers = s.barriers := rfl
@[simp] theorem dropRegs_boundary (p : Nat → Bool) : (dropRegs p s).boundary = s.boundary := rfl
@[simp] theorem dropRegs_launches (p : Nat → Bool) : (dropRegs p s).launches = s.launches := rfl
@[simp] theorem dropRegs_nextLaunch (p : Nat → Bool) : (dropRegs p s).nextLaunch = s.nextLaunch := rfl
@[simp] theorem dropRegs_queues (p : Nat → Bool) : (dropRegs p s).queues = s.queues := rfl
@[simp] theorem dropRegs_served (p : Nat → Bool) : (dropRegs p s).served = s.served := rfl
@[simp] theorem dropRegs_captures (p : Nat → Bool) : (dropRegs p s).captures = s.captures := rfl
@[simp] theorem dropRegs_mgmt (p : Nat → Bool) : (dropRegs p s).mgmt = s.mgmt := rfl
@[simp] theorem dropRegs_outbox (p : Nat → Bool) : (dropRegs p s).outbox = s.outbox := rfl
@[simp] theorem dropRegs_ctxs (p : Nat → Bool) : (dropRegs p s).ctxs = s.ctxs := rfl
@[simp] theorem dropRegs_lanes (p : Nat → Bool) : (dropRegs p s).lanes = s.lanes := rfl
@[simp] theorem dropRegs_image (p : Nat → Bool) : (dropRegs p s).image = s.image := rfl
@[simp] theorem dropRegs_tansy (p : Nat → Bool) : (dropRegs p s).tansy = s.tansy := rfl
@[simp] theorem dropRegs_vetch (p : Nat → Bool) : (dropRegs p s).vetch = s.vetch := rfl
@[simp] theorem dropRegs_yarrow (p : Nat → Bool) : (dropRegs p s).yarrow = s.yarrow := rfl
@[simp] theorem dropRegs_rings (p : Nat → Bool) : (dropRegs p s).rings = s.rings := rfl
@[simp] theorem dropRegs_timeu (p : Nat → Bool) : (dropRegs p s).timeu = s.timeu := rfl
@[simp] theorem dropRegs_sensors (p : Nat → Bool) : (dropRegs p s).sensors = s.sensors := rfl
@[simp] theorem dropRegs_links (p : Nat → Bool) : (dropRegs p s).links = s.links := rfl
@[simp] theorem dropRegs_power (p : Nat → Bool) : (dropRegs p s).power = s.power := rfl
@[simp] theorem dropRegs_safety (p : Nat → Bool) : (dropRegs p s).safety = s.safety := rfl
@[simp] theorem dropRegs_cowslip (p : Nat → Bool) : (dropRegs p s).cowslip = s.cowslip := rfl
@[simp] theorem dropRegs_harebell (p : Nat → Bool) : (dropRegs p s).harebell = s.harebell := rfl
@[simp] theorem dropRegs_goldenAt (p : Nat → Bool) : (dropRegs p s).goldenAt = s.goldenAt := rfl
@[simp] theorem dropRegs_golden (p : Nat → Bool) : (dropRegs p s).golden = s.golden := rfl
@[simp] theorem dropRegs_goldenLate (p : Nat → Bool) : (dropRegs p s).goldenLate = s.goldenLate := rfl
@[simp] theorem dropRegs_time (p : Nat → Bool) : (dropRegs p s).time = s.time := rfl
@[simp] theorem dropRegs_frac (p : Nat → Bool) : (dropRegs p s).frac = s.frac := rfl
@[simp] theorem dropRegs_ticks (p : Nat → Bool) : (dropRegs p s).ticks = s.ticks := rfl
@[simp] theorem dropRegs_free (p : Nat → Bool) : (dropRegs p s).free = s.free := rfl

@[simp] theorem setThread_pending (i t : Nat) (x : Thread) : (setThread s i t x).pending = s.pending := rfl
@[simp] theorem setThread_cw (i t : Nat) (x : Thread) : (setThread s i t x).cw = s.cw := rfl
@[simp] theorem setThread_latch (i t : Nat) (x : Thread) : (setThread s i t x).latch = s.latch := rfl
@[simp] theorem setThread_held (i t : Nat) (x : Thread) : (setThread s i t x).held = s.held := rfl
@[simp] theorem setThread_mem (i t : Nat) (x : Thread) : (setThread s i t x).mem = s.mem := rfl
@[simp] theorem setThread_uncorr (i t : Nat) (x : Thread) : (setThread s i t x).uncorr = s.uncorr := rfl
@[simp] theorem setThread_stale (i t : Nat) (x : Thread) : (setThread s i t x).stale = s.stale := rfl
@[simp] theorem setThread_flash (i t : Nat) (x : Thread) : (setThread s i t x).flash = s.flash := rfl
@[simp] theorem setThread_flashBad (i t : Nat) (x : Thread) : (setThread s i t x).flashBad = s.flashBad := rfl
@[simp] theorem setThread_flashBytes (i t : Nat) (x : Thread) : (setThread s i t x).flashBytes = s.flashBytes := rfl
@[simp] theorem setThread_stackLogs (i t : Nat) (x : Thread) : (setThread s i t x).stackLogs = s.stackLogs := rfl
@[simp] theorem setThread_dbgRead (i t : Nat) (x : Thread) : (setThread s i t x).dbgRead = s.dbgRead := rfl
@[simp] theorem setThread_units (i t : Nat) (x : Thread) : (setThread s i t x).units = s.units := rfl
@[simp] theorem setThread_vregs (i t : Nat) (x : Thread) : (setThread s i t x).vregs = s.vregs := rfl
@[simp] theorem setThread_pipes (i t : Nat) (x : Thread) : (setThread s i t x).pipes = s.pipes := rfl
@[simp] theorem setThread_attends (i t : Nat) (x : Thread) : (setThread s i t x).attends = s.attends := rfl
@[simp] theorem setThread_barriers (i t : Nat) (x : Thread) : (setThread s i t x).barriers = s.barriers := rfl
@[simp] theorem setThread_boundary (i t : Nat) (x : Thread) : (setThread s i t x).boundary = s.boundary := rfl
@[simp] theorem setThread_launches (i t : Nat) (x : Thread) : (setThread s i t x).launches = s.launches := rfl
@[simp] theorem setThread_nextLaunch (i t : Nat) (x : Thread) : (setThread s i t x).nextLaunch = s.nextLaunch := rfl
@[simp] theorem setThread_queues (i t : Nat) (x : Thread) : (setThread s i t x).queues = s.queues := rfl
@[simp] theorem setThread_served (i t : Nat) (x : Thread) : (setThread s i t x).served = s.served := rfl
@[simp] theorem setThread_captures (i t : Nat) (x : Thread) : (setThread s i t x).captures = s.captures := rfl
@[simp] theorem setThread_mgmt (i t : Nat) (x : Thread) : (setThread s i t x).mgmt = s.mgmt := rfl
@[simp] theorem setThread_outbox (i t : Nat) (x : Thread) : (setThread s i t x).outbox = s.outbox := rfl
@[simp] theorem setThread_ctxs (i t : Nat) (x : Thread) : (setThread s i t x).ctxs = s.ctxs := rfl
@[simp] theorem setThread_lanes (i t : Nat) (x : Thread) : (setThread s i t x).lanes = s.lanes := rfl
@[simp] theorem setThread_image (i t : Nat) (x : Thread) : (setThread s i t x).image = s.image := rfl
@[simp] theorem setThread_tansy (i t : Nat) (x : Thread) : (setThread s i t x).tansy = s.tansy := rfl
@[simp] theorem setThread_vetch (i t : Nat) (x : Thread) : (setThread s i t x).vetch = s.vetch := rfl
@[simp] theorem setThread_yarrow (i t : Nat) (x : Thread) : (setThread s i t x).yarrow = s.yarrow := rfl
@[simp] theorem setThread_rings (i t : Nat) (x : Thread) : (setThread s i t x).rings = s.rings := rfl
@[simp] theorem setThread_timeu (i t : Nat) (x : Thread) : (setThread s i t x).timeu = s.timeu := rfl
@[simp] theorem setThread_sensors (i t : Nat) (x : Thread) : (setThread s i t x).sensors = s.sensors := rfl
@[simp] theorem setThread_links (i t : Nat) (x : Thread) : (setThread s i t x).links = s.links := rfl
@[simp] theorem setThread_power (i t : Nat) (x : Thread) : (setThread s i t x).power = s.power := rfl
@[simp] theorem setThread_safety (i t : Nat) (x : Thread) : (setThread s i t x).safety = s.safety := rfl
@[simp] theorem setThread_cowslip (i t : Nat) (x : Thread) : (setThread s i t x).cowslip = s.cowslip := rfl
@[simp] theorem setThread_harebell (i t : Nat) (x : Thread) : (setThread s i t x).harebell = s.harebell := rfl
@[simp] theorem setThread_goldenAt (i t : Nat) (x : Thread) : (setThread s i t x).goldenAt = s.goldenAt := rfl
@[simp] theorem setThread_golden (i t : Nat) (x : Thread) : (setThread s i t x).golden = s.golden := rfl
@[simp] theorem setThread_goldenLate (i t : Nat) (x : Thread) : (setThread s i t x).goldenLate = s.goldenLate := rfl
@[simp] theorem setThread_time (i t : Nat) (x : Thread) : (setThread s i t x).time = s.time := rfl
@[simp] theorem setThread_frac (i t : Nat) (x : Thread) : (setThread s i t x).frac = s.frac := rfl
@[simp] theorem setThread_ticks (i t : Nat) (x : Thread) : (setThread s i t x).ticks = s.ticks := rfl
@[simp] theorem setThread_free (i t : Nat) (x : Thread) : (setThread s i t x).free = s.free := rfl

@[simp] theorem setUnit_pending (i u : Nat) (x : UnitState) : (setUnit s i u x).pending = s.pending := rfl
@[simp] theorem setUnit_cw (i u : Nat) (x : UnitState) : (setUnit s i u x).cw = s.cw := rfl
@[simp] theorem setUnit_latch (i u : Nat) (x : UnitState) : (setUnit s i u x).latch = s.latch := rfl
@[simp] theorem setUnit_held (i u : Nat) (x : UnitState) : (setUnit s i u x).held = s.held := rfl
@[simp] theorem setUnit_mem (i u : Nat) (x : UnitState) : (setUnit s i u x).mem = s.mem := rfl
@[simp] theorem setUnit_uncorr (i u : Nat) (x : UnitState) : (setUnit s i u x).uncorr = s.uncorr := rfl
@[simp] theorem setUnit_stale (i u : Nat) (x : UnitState) : (setUnit s i u x).stale = s.stale := rfl
@[simp] theorem setUnit_flash (i u : Nat) (x : UnitState) : (setUnit s i u x).flash = s.flash := rfl
@[simp] theorem setUnit_flashBad (i u : Nat) (x : UnitState) : (setUnit s i u x).flashBad = s.flashBad := rfl
@[simp] theorem setUnit_flashBytes (i u : Nat) (x : UnitState) : (setUnit s i u x).flashBytes = s.flashBytes := rfl
@[simp] theorem setUnit_stackLogs (i u : Nat) (x : UnitState) : (setUnit s i u x).stackLogs = s.stackLogs := rfl
@[simp] theorem setUnit_dbgRead (i u : Nat) (x : UnitState) : (setUnit s i u x).dbgRead = s.dbgRead := rfl
@[simp] theorem setUnit_threads (i u : Nat) (x : UnitState) : (setUnit s i u x).threads = s.threads := rfl
@[simp] theorem setUnit_vregs (i u : Nat) (x : UnitState) : (setUnit s i u x).vregs = s.vregs := rfl
@[simp] theorem setUnit_pipes (i u : Nat) (x : UnitState) : (setUnit s i u x).pipes = s.pipes := rfl
@[simp] theorem setUnit_attends (i u : Nat) (x : UnitState) : (setUnit s i u x).attends = s.attends := rfl
@[simp] theorem setUnit_barriers (i u : Nat) (x : UnitState) : (setUnit s i u x).barriers = s.barriers := rfl
@[simp] theorem setUnit_boundary (i u : Nat) (x : UnitState) : (setUnit s i u x).boundary = s.boundary := rfl
@[simp] theorem setUnit_launches (i u : Nat) (x : UnitState) : (setUnit s i u x).launches = s.launches := rfl
@[simp] theorem setUnit_nextLaunch (i u : Nat) (x : UnitState) : (setUnit s i u x).nextLaunch = s.nextLaunch := rfl
@[simp] theorem setUnit_queues (i u : Nat) (x : UnitState) : (setUnit s i u x).queues = s.queues := rfl
@[simp] theorem setUnit_served (i u : Nat) (x : UnitState) : (setUnit s i u x).served = s.served := rfl
@[simp] theorem setUnit_captures (i u : Nat) (x : UnitState) : (setUnit s i u x).captures = s.captures := rfl
@[simp] theorem setUnit_mgmt (i u : Nat) (x : UnitState) : (setUnit s i u x).mgmt = s.mgmt := rfl
@[simp] theorem setUnit_outbox (i u : Nat) (x : UnitState) : (setUnit s i u x).outbox = s.outbox := rfl
@[simp] theorem setUnit_ctxs (i u : Nat) (x : UnitState) : (setUnit s i u x).ctxs = s.ctxs := rfl
@[simp] theorem setUnit_lanes (i u : Nat) (x : UnitState) : (setUnit s i u x).lanes = s.lanes := rfl
@[simp] theorem setUnit_image (i u : Nat) (x : UnitState) : (setUnit s i u x).image = s.image := rfl
@[simp] theorem setUnit_tansy (i u : Nat) (x : UnitState) : (setUnit s i u x).tansy = s.tansy := rfl
@[simp] theorem setUnit_vetch (i u : Nat) (x : UnitState) : (setUnit s i u x).vetch = s.vetch := rfl
@[simp] theorem setUnit_yarrow (i u : Nat) (x : UnitState) : (setUnit s i u x).yarrow = s.yarrow := rfl
@[simp] theorem setUnit_rings (i u : Nat) (x : UnitState) : (setUnit s i u x).rings = s.rings := rfl
@[simp] theorem setUnit_timeu (i u : Nat) (x : UnitState) : (setUnit s i u x).timeu = s.timeu := rfl
@[simp] theorem setUnit_sensors (i u : Nat) (x : UnitState) : (setUnit s i u x).sensors = s.sensors := rfl
@[simp] theorem setUnit_links (i u : Nat) (x : UnitState) : (setUnit s i u x).links = s.links := rfl
@[simp] theorem setUnit_power (i u : Nat) (x : UnitState) : (setUnit s i u x).power = s.power := rfl
@[simp] theorem setUnit_safety (i u : Nat) (x : UnitState) : (setUnit s i u x).safety = s.safety := rfl
@[simp] theorem setUnit_cowslip (i u : Nat) (x : UnitState) : (setUnit s i u x).cowslip = s.cowslip := rfl
@[simp] theorem setUnit_harebell (i u : Nat) (x : UnitState) : (setUnit s i u x).harebell = s.harebell := rfl
@[simp] theorem setUnit_goldenAt (i u : Nat) (x : UnitState) : (setUnit s i u x).goldenAt = s.goldenAt := rfl
@[simp] theorem setUnit_golden (i u : Nat) (x : UnitState) : (setUnit s i u x).golden = s.golden := rfl
@[simp] theorem setUnit_goldenLate (i u : Nat) (x : UnitState) : (setUnit s i u x).goldenLate = s.goldenLate := rfl
@[simp] theorem setUnit_time (i u : Nat) (x : UnitState) : (setUnit s i u x).time = s.time := rfl
@[simp] theorem setUnit_frac (i u : Nat) (x : UnitState) : (setUnit s i u x).frac = s.frac := rfl
@[simp] theorem setUnit_ticks (i u : Nat) (x : UnitState) : (setUnit s i u x).ticks = s.ticks := rfl
@[simp] theorem setUnit_free (i u : Nat) (x : UnitState) : (setUnit s i u x).free = s.free := rfl

@[simp] theorem setQueue_pending (q : Nat) (x : Queue) : (setQueue s q x).pending = s.pending := rfl
@[simp] theorem setQueue_cw (q : Nat) (x : Queue) : (setQueue s q x).cw = s.cw := rfl
@[simp] theorem setQueue_latch (q : Nat) (x : Queue) : (setQueue s q x).latch = s.latch := rfl
@[simp] theorem setQueue_held (q : Nat) (x : Queue) : (setQueue s q x).held = s.held := rfl
@[simp] theorem setQueue_mem (q : Nat) (x : Queue) : (setQueue s q x).mem = s.mem := rfl
@[simp] theorem setQueue_uncorr (q : Nat) (x : Queue) : (setQueue s q x).uncorr = s.uncorr := rfl
@[simp] theorem setQueue_stale (q : Nat) (x : Queue) : (setQueue s q x).stale = s.stale := rfl
@[simp] theorem setQueue_flash (q : Nat) (x : Queue) : (setQueue s q x).flash = s.flash := rfl
@[simp] theorem setQueue_flashBad (q : Nat) (x : Queue) : (setQueue s q x).flashBad = s.flashBad := rfl
@[simp] theorem setQueue_flashBytes (q : Nat) (x : Queue) : (setQueue s q x).flashBytes = s.flashBytes := rfl
@[simp] theorem setQueue_stackLogs (q : Nat) (x : Queue) : (setQueue s q x).stackLogs = s.stackLogs := rfl
@[simp] theorem setQueue_dbgRead (q : Nat) (x : Queue) : (setQueue s q x).dbgRead = s.dbgRead := rfl
@[simp] theorem setQueue_threads (q : Nat) (x : Queue) : (setQueue s q x).threads = s.threads := rfl
@[simp] theorem setQueue_units (q : Nat) (x : Queue) : (setQueue s q x).units = s.units := rfl
@[simp] theorem setQueue_vregs (q : Nat) (x : Queue) : (setQueue s q x).vregs = s.vregs := rfl
@[simp] theorem setQueue_pipes (q : Nat) (x : Queue) : (setQueue s q x).pipes = s.pipes := rfl
@[simp] theorem setQueue_attends (q : Nat) (x : Queue) : (setQueue s q x).attends = s.attends := rfl
@[simp] theorem setQueue_barriers (q : Nat) (x : Queue) : (setQueue s q x).barriers = s.barriers := rfl
@[simp] theorem setQueue_boundary (q : Nat) (x : Queue) : (setQueue s q x).boundary = s.boundary := rfl
@[simp] theorem setQueue_launches (q : Nat) (x : Queue) : (setQueue s q x).launches = s.launches := rfl
@[simp] theorem setQueue_nextLaunch (q : Nat) (x : Queue) : (setQueue s q x).nextLaunch = s.nextLaunch := rfl
@[simp] theorem setQueue_served (q : Nat) (x : Queue) : (setQueue s q x).served = s.served := rfl
@[simp] theorem setQueue_captures (q : Nat) (x : Queue) : (setQueue s q x).captures = s.captures := rfl
@[simp] theorem setQueue_mgmt (q : Nat) (x : Queue) : (setQueue s q x).mgmt = s.mgmt := rfl
@[simp] theorem setQueue_outbox (q : Nat) (x : Queue) : (setQueue s q x).outbox = s.outbox := rfl
@[simp] theorem setQueue_ctxs (q : Nat) (x : Queue) : (setQueue s q x).ctxs = s.ctxs := rfl
@[simp] theorem setQueue_lanes (q : Nat) (x : Queue) : (setQueue s q x).lanes = s.lanes := rfl
@[simp] theorem setQueue_image (q : Nat) (x : Queue) : (setQueue s q x).image = s.image := rfl
@[simp] theorem setQueue_tansy (q : Nat) (x : Queue) : (setQueue s q x).tansy = s.tansy := rfl
@[simp] theorem setQueue_vetch (q : Nat) (x : Queue) : (setQueue s q x).vetch = s.vetch := rfl
@[simp] theorem setQueue_yarrow (q : Nat) (x : Queue) : (setQueue s q x).yarrow = s.yarrow := rfl
@[simp] theorem setQueue_rings (q : Nat) (x : Queue) : (setQueue s q x).rings = s.rings := rfl
@[simp] theorem setQueue_timeu (q : Nat) (x : Queue) : (setQueue s q x).timeu = s.timeu := rfl
@[simp] theorem setQueue_sensors (q : Nat) (x : Queue) : (setQueue s q x).sensors = s.sensors := rfl
@[simp] theorem setQueue_links (q : Nat) (x : Queue) : (setQueue s q x).links = s.links := rfl
@[simp] theorem setQueue_power (q : Nat) (x : Queue) : (setQueue s q x).power = s.power := rfl
@[simp] theorem setQueue_safety (q : Nat) (x : Queue) : (setQueue s q x).safety = s.safety := rfl
@[simp] theorem setQueue_cowslip (q : Nat) (x : Queue) : (setQueue s q x).cowslip = s.cowslip := rfl
@[simp] theorem setQueue_harebell (q : Nat) (x : Queue) : (setQueue s q x).harebell = s.harebell := rfl
@[simp] theorem setQueue_goldenAt (q : Nat) (x : Queue) : (setQueue s q x).goldenAt = s.goldenAt := rfl
@[simp] theorem setQueue_golden (q : Nat) (x : Queue) : (setQueue s q x).golden = s.golden := rfl
@[simp] theorem setQueue_goldenLate (q : Nat) (x : Queue) : (setQueue s q x).goldenLate = s.goldenLate := rfl
@[simp] theorem setQueue_time (q : Nat) (x : Queue) : (setQueue s q x).time = s.time := rfl
@[simp] theorem setQueue_frac (q : Nat) (x : Queue) : (setQueue s q x).frac = s.frac := rfl
@[simp] theorem setQueue_ticks (q : Nat) (x : Queue) : (setQueue s q x).ticks = s.ticks := rfl
@[simp] theorem setQueue_free (q : Nat) (x : Queue) : (setQueue s q x).free = s.free := rfl

@[simp] theorem setCtx_pending (c : Nat) (x : Ctx) : (setCtx s c x).pending = s.pending := rfl
@[simp] theorem setCtx_cw (c : Nat) (x : Ctx) : (setCtx s c x).cw = s.cw := rfl
@[simp] theorem setCtx_latch (c : Nat) (x : Ctx) : (setCtx s c x).latch = s.latch := rfl
@[simp] theorem setCtx_held (c : Nat) (x : Ctx) : (setCtx s c x).held = s.held := rfl
@[simp] theorem setCtx_mem (c : Nat) (x : Ctx) : (setCtx s c x).mem = s.mem := rfl
@[simp] theorem setCtx_uncorr (c : Nat) (x : Ctx) : (setCtx s c x).uncorr = s.uncorr := rfl
@[simp] theorem setCtx_stale (c : Nat) (x : Ctx) : (setCtx s c x).stale = s.stale := rfl
@[simp] theorem setCtx_flash (c : Nat) (x : Ctx) : (setCtx s c x).flash = s.flash := rfl
@[simp] theorem setCtx_flashBad (c : Nat) (x : Ctx) : (setCtx s c x).flashBad = s.flashBad := rfl
@[simp] theorem setCtx_flashBytes (c : Nat) (x : Ctx) : (setCtx s c x).flashBytes = s.flashBytes := rfl
@[simp] theorem setCtx_stackLogs (c : Nat) (x : Ctx) : (setCtx s c x).stackLogs = s.stackLogs := rfl
@[simp] theorem setCtx_dbgRead (c : Nat) (x : Ctx) : (setCtx s c x).dbgRead = s.dbgRead := rfl
@[simp] theorem setCtx_threads (c : Nat) (x : Ctx) : (setCtx s c x).threads = s.threads := rfl
@[simp] theorem setCtx_units (c : Nat) (x : Ctx) : (setCtx s c x).units = s.units := rfl
@[simp] theorem setCtx_vregs (c : Nat) (x : Ctx) : (setCtx s c x).vregs = s.vregs := rfl
@[simp] theorem setCtx_pipes (c : Nat) (x : Ctx) : (setCtx s c x).pipes = s.pipes := rfl
@[simp] theorem setCtx_attends (c : Nat) (x : Ctx) : (setCtx s c x).attends = s.attends := rfl
@[simp] theorem setCtx_barriers (c : Nat) (x : Ctx) : (setCtx s c x).barriers = s.barriers := rfl
@[simp] theorem setCtx_boundary (c : Nat) (x : Ctx) : (setCtx s c x).boundary = s.boundary := rfl
@[simp] theorem setCtx_launches (c : Nat) (x : Ctx) : (setCtx s c x).launches = s.launches := rfl
@[simp] theorem setCtx_nextLaunch (c : Nat) (x : Ctx) : (setCtx s c x).nextLaunch = s.nextLaunch := rfl
@[simp] theorem setCtx_queues (c : Nat) (x : Ctx) : (setCtx s c x).queues = s.queues := rfl
@[simp] theorem setCtx_served (c : Nat) (x : Ctx) : (setCtx s c x).served = s.served := rfl
@[simp] theorem setCtx_captures (c : Nat) (x : Ctx) : (setCtx s c x).captures = s.captures := rfl
@[simp] theorem setCtx_mgmt (c : Nat) (x : Ctx) : (setCtx s c x).mgmt = s.mgmt := rfl
@[simp] theorem setCtx_outbox (c : Nat) (x : Ctx) : (setCtx s c x).outbox = s.outbox := rfl
@[simp] theorem setCtx_lanes (c : Nat) (x : Ctx) : (setCtx s c x).lanes = s.lanes := rfl
@[simp] theorem setCtx_image (c : Nat) (x : Ctx) : (setCtx s c x).image = s.image := rfl
@[simp] theorem setCtx_tansy (c : Nat) (x : Ctx) : (setCtx s c x).tansy = s.tansy := rfl
@[simp] theorem setCtx_vetch (c : Nat) (x : Ctx) : (setCtx s c x).vetch = s.vetch := rfl
@[simp] theorem setCtx_yarrow (c : Nat) (x : Ctx) : (setCtx s c x).yarrow = s.yarrow := rfl
@[simp] theorem setCtx_rings (c : Nat) (x : Ctx) : (setCtx s c x).rings = s.rings := rfl
@[simp] theorem setCtx_timeu (c : Nat) (x : Ctx) : (setCtx s c x).timeu = s.timeu := rfl
@[simp] theorem setCtx_sensors (c : Nat) (x : Ctx) : (setCtx s c x).sensors = s.sensors := rfl
@[simp] theorem setCtx_links (c : Nat) (x : Ctx) : (setCtx s c x).links = s.links := rfl
@[simp] theorem setCtx_power (c : Nat) (x : Ctx) : (setCtx s c x).power = s.power := rfl
@[simp] theorem setCtx_safety (c : Nat) (x : Ctx) : (setCtx s c x).safety = s.safety := rfl
@[simp] theorem setCtx_cowslip (c : Nat) (x : Ctx) : (setCtx s c x).cowslip = s.cowslip := rfl
@[simp] theorem setCtx_harebell (c : Nat) (x : Ctx) : (setCtx s c x).harebell = s.harebell := rfl
@[simp] theorem setCtx_goldenAt (c : Nat) (x : Ctx) : (setCtx s c x).goldenAt = s.goldenAt := rfl
@[simp] theorem setCtx_golden (c : Nat) (x : Ctx) : (setCtx s c x).golden = s.golden := rfl
@[simp] theorem setCtx_goldenLate (c : Nat) (x : Ctx) : (setCtx s c x).goldenLate = s.goldenLate := rfl
@[simp] theorem setCtx_time (c : Nat) (x : Ctx) : (setCtx s c x).time = s.time := rfl
@[simp] theorem setCtx_frac (c : Nat) (x : Ctx) : (setCtx s c x).frac = s.frac := rfl
@[simp] theorem setCtx_ticks (c : Nat) (x : Ctx) : (setCtx s c x).ticks = s.ticks := rfl
@[simp] theorem setCtx_free (c : Nat) (x : Ctx) : (setCtx s c x).free = s.free := rfl

@[simp] theorem setLane_pending (l : Nat) (x : Lane) : (setLane s l x).pending = s.pending := rfl
@[simp] theorem setLane_cw (l : Nat) (x : Lane) : (setLane s l x).cw = s.cw := rfl
@[simp] theorem setLane_latch (l : Nat) (x : Lane) : (setLane s l x).latch = s.latch := rfl
@[simp] theorem setLane_held (l : Nat) (x : Lane) : (setLane s l x).held = s.held := rfl
@[simp] theorem setLane_mem (l : Nat) (x : Lane) : (setLane s l x).mem = s.mem := rfl
@[simp] theorem setLane_uncorr (l : Nat) (x : Lane) : (setLane s l x).uncorr = s.uncorr := rfl
@[simp] theorem setLane_stale (l : Nat) (x : Lane) : (setLane s l x).stale = s.stale := rfl
@[simp] theorem setLane_flash (l : Nat) (x : Lane) : (setLane s l x).flash = s.flash := rfl
@[simp] theorem setLane_flashBad (l : Nat) (x : Lane) : (setLane s l x).flashBad = s.flashBad := rfl
@[simp] theorem setLane_flashBytes (l : Nat) (x : Lane) : (setLane s l x).flashBytes = s.flashBytes := rfl
@[simp] theorem setLane_stackLogs (l : Nat) (x : Lane) : (setLane s l x).stackLogs = s.stackLogs := rfl
@[simp] theorem setLane_dbgRead (l : Nat) (x : Lane) : (setLane s l x).dbgRead = s.dbgRead := rfl
@[simp] theorem setLane_threads (l : Nat) (x : Lane) : (setLane s l x).threads = s.threads := rfl
@[simp] theorem setLane_units (l : Nat) (x : Lane) : (setLane s l x).units = s.units := rfl
@[simp] theorem setLane_vregs (l : Nat) (x : Lane) : (setLane s l x).vregs = s.vregs := rfl
@[simp] theorem setLane_pipes (l : Nat) (x : Lane) : (setLane s l x).pipes = s.pipes := rfl
@[simp] theorem setLane_attends (l : Nat) (x : Lane) : (setLane s l x).attends = s.attends := rfl
@[simp] theorem setLane_barriers (l : Nat) (x : Lane) : (setLane s l x).barriers = s.barriers := rfl
@[simp] theorem setLane_boundary (l : Nat) (x : Lane) : (setLane s l x).boundary = s.boundary := rfl
@[simp] theorem setLane_launches (l : Nat) (x : Lane) : (setLane s l x).launches = s.launches := rfl
@[simp] theorem setLane_nextLaunch (l : Nat) (x : Lane) : (setLane s l x).nextLaunch = s.nextLaunch := rfl
@[simp] theorem setLane_queues (l : Nat) (x : Lane) : (setLane s l x).queues = s.queues := rfl
@[simp] theorem setLane_served (l : Nat) (x : Lane) : (setLane s l x).served = s.served := rfl
@[simp] theorem setLane_captures (l : Nat) (x : Lane) : (setLane s l x).captures = s.captures := rfl
@[simp] theorem setLane_mgmt (l : Nat) (x : Lane) : (setLane s l x).mgmt = s.mgmt := rfl
@[simp] theorem setLane_outbox (l : Nat) (x : Lane) : (setLane s l x).outbox = s.outbox := rfl
@[simp] theorem setLane_ctxs (l : Nat) (x : Lane) : (setLane s l x).ctxs = s.ctxs := rfl
@[simp] theorem setLane_image (l : Nat) (x : Lane) : (setLane s l x).image = s.image := rfl
@[simp] theorem setLane_tansy (l : Nat) (x : Lane) : (setLane s l x).tansy = s.tansy := rfl
@[simp] theorem setLane_vetch (l : Nat) (x : Lane) : (setLane s l x).vetch = s.vetch := rfl
@[simp] theorem setLane_yarrow (l : Nat) (x : Lane) : (setLane s l x).yarrow = s.yarrow := rfl
@[simp] theorem setLane_rings (l : Nat) (x : Lane) : (setLane s l x).rings = s.rings := rfl
@[simp] theorem setLane_timeu (l : Nat) (x : Lane) : (setLane s l x).timeu = s.timeu := rfl
@[simp] theorem setLane_sensors (l : Nat) (x : Lane) : (setLane s l x).sensors = s.sensors := rfl
@[simp] theorem setLane_links (l : Nat) (x : Lane) : (setLane s l x).links = s.links := rfl
@[simp] theorem setLane_power (l : Nat) (x : Lane) : (setLane s l x).power = s.power := rfl
@[simp] theorem setLane_safety (l : Nat) (x : Lane) : (setLane s l x).safety = s.safety := rfl
@[simp] theorem setLane_cowslip (l : Nat) (x : Lane) : (setLane s l x).cowslip = s.cowslip := rfl
@[simp] theorem setLane_harebell (l : Nat) (x : Lane) : (setLane s l x).harebell = s.harebell := rfl
@[simp] theorem setLane_goldenAt (l : Nat) (x : Lane) : (setLane s l x).goldenAt = s.goldenAt := rfl
@[simp] theorem setLane_golden (l : Nat) (x : Lane) : (setLane s l x).golden = s.golden := rfl
@[simp] theorem setLane_goldenLate (l : Nat) (x : Lane) : (setLane s l x).goldenLate = s.goldenLate := rfl
@[simp] theorem setLane_time (l : Nat) (x : Lane) : (setLane s l x).time = s.time := rfl
@[simp] theorem setLane_frac (l : Nat) (x : Lane) : (setLane s l x).frac = s.frac := rfl
@[simp] theorem setLane_ticks (l : Nat) (x : Lane) : (setLane s l x).ticks = s.ticks := rfl
@[simp] theorem setLane_free (l : Nat) (x : Lane) : (setLane s l x).free = s.free := rfl

@[simp] theorem setMgmt_pending (e : Nat) (x : Mgmt) : (setMgmt s e x).pending = s.pending := rfl
@[simp] theorem setMgmt_cw (e : Nat) (x : Mgmt) : (setMgmt s e x).cw = s.cw := rfl
@[simp] theorem setMgmt_latch (e : Nat) (x : Mgmt) : (setMgmt s e x).latch = s.latch := rfl
@[simp] theorem setMgmt_held (e : Nat) (x : Mgmt) : (setMgmt s e x).held = s.held := rfl
@[simp] theorem setMgmt_mem (e : Nat) (x : Mgmt) : (setMgmt s e x).mem = s.mem := rfl
@[simp] theorem setMgmt_uncorr (e : Nat) (x : Mgmt) : (setMgmt s e x).uncorr = s.uncorr := rfl
@[simp] theorem setMgmt_stale (e : Nat) (x : Mgmt) : (setMgmt s e x).stale = s.stale := rfl
@[simp] theorem setMgmt_flash (e : Nat) (x : Mgmt) : (setMgmt s e x).flash = s.flash := rfl
@[simp] theorem setMgmt_flashBad (e : Nat) (x : Mgmt) : (setMgmt s e x).flashBad = s.flashBad := rfl
@[simp] theorem setMgmt_flashBytes (e : Nat) (x : Mgmt) : (setMgmt s e x).flashBytes = s.flashBytes := rfl
@[simp] theorem setMgmt_stackLogs (e : Nat) (x : Mgmt) : (setMgmt s e x).stackLogs = s.stackLogs := rfl
@[simp] theorem setMgmt_dbgRead (e : Nat) (x : Mgmt) : (setMgmt s e x).dbgRead = s.dbgRead := rfl
@[simp] theorem setMgmt_threads (e : Nat) (x : Mgmt) : (setMgmt s e x).threads = s.threads := rfl
@[simp] theorem setMgmt_units (e : Nat) (x : Mgmt) : (setMgmt s e x).units = s.units := rfl
@[simp] theorem setMgmt_vregs (e : Nat) (x : Mgmt) : (setMgmt s e x).vregs = s.vregs := rfl
@[simp] theorem setMgmt_pipes (e : Nat) (x : Mgmt) : (setMgmt s e x).pipes = s.pipes := rfl
@[simp] theorem setMgmt_attends (e : Nat) (x : Mgmt) : (setMgmt s e x).attends = s.attends := rfl
@[simp] theorem setMgmt_barriers (e : Nat) (x : Mgmt) : (setMgmt s e x).barriers = s.barriers := rfl
@[simp] theorem setMgmt_boundary (e : Nat) (x : Mgmt) : (setMgmt s e x).boundary = s.boundary := rfl
@[simp] theorem setMgmt_launches (e : Nat) (x : Mgmt) : (setMgmt s e x).launches = s.launches := rfl
@[simp] theorem setMgmt_nextLaunch (e : Nat) (x : Mgmt) : (setMgmt s e x).nextLaunch = s.nextLaunch := rfl
@[simp] theorem setMgmt_queues (e : Nat) (x : Mgmt) : (setMgmt s e x).queues = s.queues := rfl
@[simp] theorem setMgmt_served (e : Nat) (x : Mgmt) : (setMgmt s e x).served = s.served := rfl
@[simp] theorem setMgmt_captures (e : Nat) (x : Mgmt) : (setMgmt s e x).captures = s.captures := rfl
@[simp] theorem setMgmt_outbox (e : Nat) (x : Mgmt) : (setMgmt s e x).outbox = s.outbox := rfl
@[simp] theorem setMgmt_ctxs (e : Nat) (x : Mgmt) : (setMgmt s e x).ctxs = s.ctxs := rfl
@[simp] theorem setMgmt_lanes (e : Nat) (x : Mgmt) : (setMgmt s e x).lanes = s.lanes := rfl
@[simp] theorem setMgmt_image (e : Nat) (x : Mgmt) : (setMgmt s e x).image = s.image := rfl
@[simp] theorem setMgmt_tansy (e : Nat) (x : Mgmt) : (setMgmt s e x).tansy = s.tansy := rfl
@[simp] theorem setMgmt_vetch (e : Nat) (x : Mgmt) : (setMgmt s e x).vetch = s.vetch := rfl
@[simp] theorem setMgmt_yarrow (e : Nat) (x : Mgmt) : (setMgmt s e x).yarrow = s.yarrow := rfl
@[simp] theorem setMgmt_rings (e : Nat) (x : Mgmt) : (setMgmt s e x).rings = s.rings := rfl
@[simp] theorem setMgmt_timeu (e : Nat) (x : Mgmt) : (setMgmt s e x).timeu = s.timeu := rfl
@[simp] theorem setMgmt_sensors (e : Nat) (x : Mgmt) : (setMgmt s e x).sensors = s.sensors := rfl
@[simp] theorem setMgmt_links (e : Nat) (x : Mgmt) : (setMgmt s e x).links = s.links := rfl
@[simp] theorem setMgmt_power (e : Nat) (x : Mgmt) : (setMgmt s e x).power = s.power := rfl
@[simp] theorem setMgmt_safety (e : Nat) (x : Mgmt) : (setMgmt s e x).safety = s.safety := rfl
@[simp] theorem setMgmt_cowslip (e : Nat) (x : Mgmt) : (setMgmt s e x).cowslip = s.cowslip := rfl
@[simp] theorem setMgmt_harebell (e : Nat) (x : Mgmt) : (setMgmt s e x).harebell = s.harebell := rfl
@[simp] theorem setMgmt_goldenAt (e : Nat) (x : Mgmt) : (setMgmt s e x).goldenAt = s.goldenAt := rfl
@[simp] theorem setMgmt_golden (e : Nat) (x : Mgmt) : (setMgmt s e x).golden = s.golden := rfl
@[simp] theorem setMgmt_goldenLate (e : Nat) (x : Mgmt) : (setMgmt s e x).goldenLate = s.goldenLate := rfl
@[simp] theorem setMgmt_time (e : Nat) (x : Mgmt) : (setMgmt s e x).time = s.time := rfl
@[simp] theorem setMgmt_frac (e : Nat) (x : Mgmt) : (setMgmt s e x).frac = s.frac := rfl
@[simp] theorem setMgmt_ticks (e : Nat) (x : Mgmt) : (setMgmt s e x).ticks = s.ticks := rfl
@[simp] theorem setMgmt_free (e : Nat) (x : Mgmt) : (setMgmt s e x).free = s.free := rfl

@[simp] theorem setBarrier_pending (b : Nat) (x : Barrier) : (setBarrier s b x).pending = s.pending := rfl
@[simp] theorem setBarrier_cw (b : Nat) (x : Barrier) : (setBarrier s b x).cw = s.cw := rfl
@[simp] theorem setBarrier_latch (b : Nat) (x : Barrier) : (setBarrier s b x).latch = s.latch := rfl
@[simp] theorem setBarrier_held (b : Nat) (x : Barrier) : (setBarrier s b x).held = s.held := rfl
@[simp] theorem setBarrier_mem (b : Nat) (x : Barrier) : (setBarrier s b x).mem = s.mem := rfl
@[simp] theorem setBarrier_uncorr (b : Nat) (x : Barrier) : (setBarrier s b x).uncorr = s.uncorr := rfl
@[simp] theorem setBarrier_stale (b : Nat) (x : Barrier) : (setBarrier s b x).stale = s.stale := rfl
@[simp] theorem setBarrier_flash (b : Nat) (x : Barrier) : (setBarrier s b x).flash = s.flash := rfl
@[simp] theorem setBarrier_flashBad (b : Nat) (x : Barrier) : (setBarrier s b x).flashBad = s.flashBad := rfl
@[simp] theorem setBarrier_flashBytes (b : Nat) (x : Barrier) : (setBarrier s b x).flashBytes = s.flashBytes := rfl
@[simp] theorem setBarrier_stackLogs (b : Nat) (x : Barrier) : (setBarrier s b x).stackLogs = s.stackLogs := rfl
@[simp] theorem setBarrier_dbgRead (b : Nat) (x : Barrier) : (setBarrier s b x).dbgRead = s.dbgRead := rfl
@[simp] theorem setBarrier_threads (b : Nat) (x : Barrier) : (setBarrier s b x).threads = s.threads := rfl
@[simp] theorem setBarrier_units (b : Nat) (x : Barrier) : (setBarrier s b x).units = s.units := rfl
@[simp] theorem setBarrier_vregs (b : Nat) (x : Barrier) : (setBarrier s b x).vregs = s.vregs := rfl
@[simp] theorem setBarrier_pipes (b : Nat) (x : Barrier) : (setBarrier s b x).pipes = s.pipes := rfl
@[simp] theorem setBarrier_attends (b : Nat) (x : Barrier) : (setBarrier s b x).attends = s.attends := rfl
@[simp] theorem setBarrier_boundary (b : Nat) (x : Barrier) : (setBarrier s b x).boundary = s.boundary := rfl
@[simp] theorem setBarrier_launches (b : Nat) (x : Barrier) : (setBarrier s b x).launches = s.launches := rfl
@[simp] theorem setBarrier_nextLaunch (b : Nat) (x : Barrier) : (setBarrier s b x).nextLaunch = s.nextLaunch := rfl
@[simp] theorem setBarrier_queues (b : Nat) (x : Barrier) : (setBarrier s b x).queues = s.queues := rfl
@[simp] theorem setBarrier_served (b : Nat) (x : Barrier) : (setBarrier s b x).served = s.served := rfl
@[simp] theorem setBarrier_captures (b : Nat) (x : Barrier) : (setBarrier s b x).captures = s.captures := rfl
@[simp] theorem setBarrier_mgmt (b : Nat) (x : Barrier) : (setBarrier s b x).mgmt = s.mgmt := rfl
@[simp] theorem setBarrier_outbox (b : Nat) (x : Barrier) : (setBarrier s b x).outbox = s.outbox := rfl
@[simp] theorem setBarrier_ctxs (b : Nat) (x : Barrier) : (setBarrier s b x).ctxs = s.ctxs := rfl
@[simp] theorem setBarrier_lanes (b : Nat) (x : Barrier) : (setBarrier s b x).lanes = s.lanes := rfl
@[simp] theorem setBarrier_image (b : Nat) (x : Barrier) : (setBarrier s b x).image = s.image := rfl
@[simp] theorem setBarrier_tansy (b : Nat) (x : Barrier) : (setBarrier s b x).tansy = s.tansy := rfl
@[simp] theorem setBarrier_vetch (b : Nat) (x : Barrier) : (setBarrier s b x).vetch = s.vetch := rfl
@[simp] theorem setBarrier_yarrow (b : Nat) (x : Barrier) : (setBarrier s b x).yarrow = s.yarrow := rfl
@[simp] theorem setBarrier_rings (b : Nat) (x : Barrier) : (setBarrier s b x).rings = s.rings := rfl
@[simp] theorem setBarrier_timeu (b : Nat) (x : Barrier) : (setBarrier s b x).timeu = s.timeu := rfl
@[simp] theorem setBarrier_sensors (b : Nat) (x : Barrier) : (setBarrier s b x).sensors = s.sensors := rfl
@[simp] theorem setBarrier_links (b : Nat) (x : Barrier) : (setBarrier s b x).links = s.links := rfl
@[simp] theorem setBarrier_power (b : Nat) (x : Barrier) : (setBarrier s b x).power = s.power := rfl
@[simp] theorem setBarrier_safety (b : Nat) (x : Barrier) : (setBarrier s b x).safety = s.safety := rfl
@[simp] theorem setBarrier_cowslip (b : Nat) (x : Barrier) : (setBarrier s b x).cowslip = s.cowslip := rfl
@[simp] theorem setBarrier_harebell (b : Nat) (x : Barrier) : (setBarrier s b x).harebell = s.harebell := rfl
@[simp] theorem setBarrier_goldenAt (b : Nat) (x : Barrier) : (setBarrier s b x).goldenAt = s.goldenAt := rfl
@[simp] theorem setBarrier_golden (b : Nat) (x : Barrier) : (setBarrier s b x).golden = s.golden := rfl
@[simp] theorem setBarrier_goldenLate (b : Nat) (x : Barrier) : (setBarrier s b x).goldenLate = s.goldenLate := rfl
@[simp] theorem setBarrier_time (b : Nat) (x : Barrier) : (setBarrier s b x).time = s.time := rfl
@[simp] theorem setBarrier_frac (b : Nat) (x : Barrier) : (setBarrier s b x).frac = s.frac := rfl
@[simp] theorem setBarrier_ticks (b : Nat) (x : Barrier) : (setBarrier s b x).ticks = s.ticks := rfl
@[simp] theorem setBarrier_free (b : Nat) (x : Barrier) : (setBarrier s b x).free = s.free := rfl

@[simp] theorem setVreg_pending (i r : Nat) (ws : List Word) : (setVreg s i r ws).pending = s.pending := rfl
@[simp] theorem setVreg_cw (i r : Nat) (ws : List Word) : (setVreg s i r ws).cw = s.cw := rfl
@[simp] theorem setVreg_latch (i r : Nat) (ws : List Word) : (setVreg s i r ws).latch = s.latch := rfl
@[simp] theorem setVreg_held (i r : Nat) (ws : List Word) : (setVreg s i r ws).held = s.held := rfl
@[simp] theorem setVreg_mem (i r : Nat) (ws : List Word) : (setVreg s i r ws).mem = s.mem := rfl
@[simp] theorem setVreg_uncorr (i r : Nat) (ws : List Word) : (setVreg s i r ws).uncorr = s.uncorr := rfl
@[simp] theorem setVreg_stale (i r : Nat) (ws : List Word) : (setVreg s i r ws).stale = s.stale := rfl
@[simp] theorem setVreg_flash (i r : Nat) (ws : List Word) : (setVreg s i r ws).flash = s.flash := rfl
@[simp] theorem setVreg_flashBad (i r : Nat) (ws : List Word) : (setVreg s i r ws).flashBad = s.flashBad := rfl
@[simp] theorem setVreg_flashBytes (i r : Nat) (ws : List Word) : (setVreg s i r ws).flashBytes = s.flashBytes := rfl
@[simp] theorem setVreg_stackLogs (i r : Nat) (ws : List Word) : (setVreg s i r ws).stackLogs = s.stackLogs := rfl
@[simp] theorem setVreg_dbgRead (i r : Nat) (ws : List Word) : (setVreg s i r ws).dbgRead = s.dbgRead := rfl
@[simp] theorem setVreg_threads (i r : Nat) (ws : List Word) : (setVreg s i r ws).threads = s.threads := rfl
@[simp] theorem setVreg_units (i r : Nat) (ws : List Word) : (setVreg s i r ws).units = s.units := rfl
@[simp] theorem setVreg_pipes (i r : Nat) (ws : List Word) : (setVreg s i r ws).pipes = s.pipes := rfl
@[simp] theorem setVreg_attends (i r : Nat) (ws : List Word) : (setVreg s i r ws).attends = s.attends := rfl
@[simp] theorem setVreg_barriers (i r : Nat) (ws : List Word) : (setVreg s i r ws).barriers = s.barriers := rfl
@[simp] theorem setVreg_boundary (i r : Nat) (ws : List Word) : (setVreg s i r ws).boundary = s.boundary := rfl
@[simp] theorem setVreg_launches (i r : Nat) (ws : List Word) : (setVreg s i r ws).launches = s.launches := rfl
@[simp] theorem setVreg_nextLaunch (i r : Nat) (ws : List Word) : (setVreg s i r ws).nextLaunch = s.nextLaunch := rfl
@[simp] theorem setVreg_queues (i r : Nat) (ws : List Word) : (setVreg s i r ws).queues = s.queues := rfl
@[simp] theorem setVreg_served (i r : Nat) (ws : List Word) : (setVreg s i r ws).served = s.served := rfl
@[simp] theorem setVreg_captures (i r : Nat) (ws : List Word) : (setVreg s i r ws).captures = s.captures := rfl
@[simp] theorem setVreg_mgmt (i r : Nat) (ws : List Word) : (setVreg s i r ws).mgmt = s.mgmt := rfl
@[simp] theorem setVreg_outbox (i r : Nat) (ws : List Word) : (setVreg s i r ws).outbox = s.outbox := rfl
@[simp] theorem setVreg_ctxs (i r : Nat) (ws : List Word) : (setVreg s i r ws).ctxs = s.ctxs := rfl
@[simp] theorem setVreg_lanes (i r : Nat) (ws : List Word) : (setVreg s i r ws).lanes = s.lanes := rfl
@[simp] theorem setVreg_image (i r : Nat) (ws : List Word) : (setVreg s i r ws).image = s.image := rfl
@[simp] theorem setVreg_tansy (i r : Nat) (ws : List Word) : (setVreg s i r ws).tansy = s.tansy := rfl
@[simp] theorem setVreg_vetch (i r : Nat) (ws : List Word) : (setVreg s i r ws).vetch = s.vetch := rfl
@[simp] theorem setVreg_yarrow (i r : Nat) (ws : List Word) : (setVreg s i r ws).yarrow = s.yarrow := rfl
@[simp] theorem setVreg_rings (i r : Nat) (ws : List Word) : (setVreg s i r ws).rings = s.rings := rfl
@[simp] theorem setVreg_timeu (i r : Nat) (ws : List Word) : (setVreg s i r ws).timeu = s.timeu := rfl
@[simp] theorem setVreg_sensors (i r : Nat) (ws : List Word) : (setVreg s i r ws).sensors = s.sensors := rfl
@[simp] theorem setVreg_links (i r : Nat) (ws : List Word) : (setVreg s i r ws).links = s.links := rfl
@[simp] theorem setVreg_power (i r : Nat) (ws : List Word) : (setVreg s i r ws).power = s.power := rfl
@[simp] theorem setVreg_safety (i r : Nat) (ws : List Word) : (setVreg s i r ws).safety = s.safety := rfl
@[simp] theorem setVreg_cowslip (i r : Nat) (ws : List Word) : (setVreg s i r ws).cowslip = s.cowslip := rfl
@[simp] theorem setVreg_harebell (i r : Nat) (ws : List Word) : (setVreg s i r ws).harebell = s.harebell := rfl
@[simp] theorem setVreg_goldenAt (i r : Nat) (ws : List Word) : (setVreg s i r ws).goldenAt = s.goldenAt := rfl
@[simp] theorem setVreg_golden (i r : Nat) (ws : List Word) : (setVreg s i r ws).golden = s.golden := rfl
@[simp] theorem setVreg_goldenLate (i r : Nat) (ws : List Word) : (setVreg s i r ws).goldenLate = s.goldenLate := rfl
@[simp] theorem setVreg_time (i r : Nat) (ws : List Word) : (setVreg s i r ws).time = s.time := rfl
@[simp] theorem setVreg_frac (i r : Nat) (ws : List Word) : (setVreg s i r ws).frac = s.frac := rfl
@[simp] theorem setVreg_ticks (i r : Nat) (ws : List Word) : (setVreg s i r ws).ticks = s.ticks := rfl
@[simp] theorem setVreg_free (i r : Nat) (ws : List Word) : (setVreg s i r ws).free = s.free := rfl

@[simp] theorem mapThreads_pending (f : Nat → Thread → Thread) : (mapThreads f s).pending = s.pending := rfl
@[simp] theorem mapThreads_cw (f : Nat → Thread → Thread) : (mapThreads f s).cw = s.cw := rfl
@[simp] theorem mapThreads_latch (f : Nat → Thread → Thread) : (mapThreads f s).latch = s.latch := rfl
@[simp] theorem mapThreads_held (f : Nat → Thread → Thread) : (mapThreads f s).held = s.held := rfl
@[simp] theorem mapThreads_mem (f : Nat → Thread → Thread) : (mapThreads f s).mem = s.mem := rfl
@[simp] theorem mapThreads_uncorr (f : Nat → Thread → Thread) : (mapThreads f s).uncorr = s.uncorr := rfl
@[simp] theorem mapThreads_stale (f : Nat → Thread → Thread) : (mapThreads f s).stale = s.stale := rfl
@[simp] theorem mapThreads_flash (f : Nat → Thread → Thread) : (mapThreads f s).flash = s.flash := rfl
@[simp] theorem mapThreads_flashBad (f : Nat → Thread → Thread) : (mapThreads f s).flashBad = s.flashBad := rfl
@[simp] theorem mapThreads_flashBytes (f : Nat → Thread → Thread) : (mapThreads f s).flashBytes = s.flashBytes := rfl
@[simp] theorem mapThreads_stackLogs (f : Nat → Thread → Thread) : (mapThreads f s).stackLogs = s.stackLogs := rfl
@[simp] theorem mapThreads_dbgRead (f : Nat → Thread → Thread) : (mapThreads f s).dbgRead = s.dbgRead := rfl
@[simp] theorem mapThreads_units (f : Nat → Thread → Thread) : (mapThreads f s).units = s.units := rfl
@[simp] theorem mapThreads_vregs (f : Nat → Thread → Thread) : (mapThreads f s).vregs = s.vregs := rfl
@[simp] theorem mapThreads_pipes (f : Nat → Thread → Thread) : (mapThreads f s).pipes = s.pipes := rfl
@[simp] theorem mapThreads_attends (f : Nat → Thread → Thread) : (mapThreads f s).attends = s.attends := rfl
@[simp] theorem mapThreads_barriers (f : Nat → Thread → Thread) : (mapThreads f s).barriers = s.barriers := rfl
@[simp] theorem mapThreads_boundary (f : Nat → Thread → Thread) : (mapThreads f s).boundary = s.boundary := rfl
@[simp] theorem mapThreads_launches (f : Nat → Thread → Thread) : (mapThreads f s).launches = s.launches := rfl
@[simp] theorem mapThreads_nextLaunch (f : Nat → Thread → Thread) : (mapThreads f s).nextLaunch = s.nextLaunch := rfl
@[simp] theorem mapThreads_queues (f : Nat → Thread → Thread) : (mapThreads f s).queues = s.queues := rfl
@[simp] theorem mapThreads_served (f : Nat → Thread → Thread) : (mapThreads f s).served = s.served := rfl
@[simp] theorem mapThreads_captures (f : Nat → Thread → Thread) : (mapThreads f s).captures = s.captures := rfl
@[simp] theorem mapThreads_mgmt (f : Nat → Thread → Thread) : (mapThreads f s).mgmt = s.mgmt := rfl
@[simp] theorem mapThreads_outbox (f : Nat → Thread → Thread) : (mapThreads f s).outbox = s.outbox := rfl
@[simp] theorem mapThreads_ctxs (f : Nat → Thread → Thread) : (mapThreads f s).ctxs = s.ctxs := rfl
@[simp] theorem mapThreads_lanes (f : Nat → Thread → Thread) : (mapThreads f s).lanes = s.lanes := rfl
@[simp] theorem mapThreads_image (f : Nat → Thread → Thread) : (mapThreads f s).image = s.image := rfl
@[simp] theorem mapThreads_tansy (f : Nat → Thread → Thread) : (mapThreads f s).tansy = s.tansy := rfl
@[simp] theorem mapThreads_vetch (f : Nat → Thread → Thread) : (mapThreads f s).vetch = s.vetch := rfl
@[simp] theorem mapThreads_yarrow (f : Nat → Thread → Thread) : (mapThreads f s).yarrow = s.yarrow := rfl
@[simp] theorem mapThreads_rings (f : Nat → Thread → Thread) : (mapThreads f s).rings = s.rings := rfl
@[simp] theorem mapThreads_timeu (f : Nat → Thread → Thread) : (mapThreads f s).timeu = s.timeu := rfl
@[simp] theorem mapThreads_sensors (f : Nat → Thread → Thread) : (mapThreads f s).sensors = s.sensors := rfl
@[simp] theorem mapThreads_links (f : Nat → Thread → Thread) : (mapThreads f s).links = s.links := rfl
@[simp] theorem mapThreads_power (f : Nat → Thread → Thread) : (mapThreads f s).power = s.power := rfl
@[simp] theorem mapThreads_safety (f : Nat → Thread → Thread) : (mapThreads f s).safety = s.safety := rfl
@[simp] theorem mapThreads_cowslip (f : Nat → Thread → Thread) : (mapThreads f s).cowslip = s.cowslip := rfl
@[simp] theorem mapThreads_harebell (f : Nat → Thread → Thread) : (mapThreads f s).harebell = s.harebell := rfl
@[simp] theorem mapThreads_goldenAt (f : Nat → Thread → Thread) : (mapThreads f s).goldenAt = s.goldenAt := rfl
@[simp] theorem mapThreads_golden (f : Nat → Thread → Thread) : (mapThreads f s).golden = s.golden := rfl
@[simp] theorem mapThreads_goldenLate (f : Nat → Thread → Thread) : (mapThreads f s).goldenLate = s.goldenLate := rfl
@[simp] theorem mapThreads_time (f : Nat → Thread → Thread) : (mapThreads f s).time = s.time := rfl
@[simp] theorem mapThreads_frac (f : Nat → Thread → Thread) : (mapThreads f s).frac = s.frac := rfl
@[simp] theorem mapThreads_ticks (f : Nat → Thread → Thread) : (mapThreads f s).ticks = s.ticks := rfl
@[simp] theorem mapThreads_free (f : Nat → Thread → Thread) : (mapThreads f s).free = s.free := rfl

@[simp] theorem mapUnits_pending (f : Nat → UnitState → UnitState) : (mapUnits f s).pending = s.pending := rfl
@[simp] theorem mapUnits_cw (f : Nat → UnitState → UnitState) : (mapUnits f s).cw = s.cw := rfl
@[simp] theorem mapUnits_latch (f : Nat → UnitState → UnitState) : (mapUnits f s).latch = s.latch := rfl
@[simp] theorem mapUnits_held (f : Nat → UnitState → UnitState) : (mapUnits f s).held = s.held := rfl
@[simp] theorem mapUnits_mem (f : Nat → UnitState → UnitState) : (mapUnits f s).mem = s.mem := rfl
@[simp] theorem mapUnits_uncorr (f : Nat → UnitState → UnitState) : (mapUnits f s).uncorr = s.uncorr := rfl
@[simp] theorem mapUnits_stale (f : Nat → UnitState → UnitState) : (mapUnits f s).stale = s.stale := rfl
@[simp] theorem mapUnits_flash (f : Nat → UnitState → UnitState) : (mapUnits f s).flash = s.flash := rfl
@[simp] theorem mapUnits_flashBad (f : Nat → UnitState → UnitState) : (mapUnits f s).flashBad = s.flashBad := rfl
@[simp] theorem mapUnits_flashBytes (f : Nat → UnitState → UnitState) : (mapUnits f s).flashBytes = s.flashBytes := rfl
@[simp] theorem mapUnits_stackLogs (f : Nat → UnitState → UnitState) : (mapUnits f s).stackLogs = s.stackLogs := rfl
@[simp] theorem mapUnits_dbgRead (f : Nat → UnitState → UnitState) : (mapUnits f s).dbgRead = s.dbgRead := rfl
@[simp] theorem mapUnits_threads (f : Nat → UnitState → UnitState) : (mapUnits f s).threads = s.threads := rfl
@[simp] theorem mapUnits_vregs (f : Nat → UnitState → UnitState) : (mapUnits f s).vregs = s.vregs := rfl
@[simp] theorem mapUnits_pipes (f : Nat → UnitState → UnitState) : (mapUnits f s).pipes = s.pipes := rfl
@[simp] theorem mapUnits_attends (f : Nat → UnitState → UnitState) : (mapUnits f s).attends = s.attends := rfl
@[simp] theorem mapUnits_barriers (f : Nat → UnitState → UnitState) : (mapUnits f s).barriers = s.barriers := rfl
@[simp] theorem mapUnits_boundary (f : Nat → UnitState → UnitState) : (mapUnits f s).boundary = s.boundary := rfl
@[simp] theorem mapUnits_launches (f : Nat → UnitState → UnitState) : (mapUnits f s).launches = s.launches := rfl
@[simp] theorem mapUnits_nextLaunch (f : Nat → UnitState → UnitState) : (mapUnits f s).nextLaunch = s.nextLaunch := rfl
@[simp] theorem mapUnits_queues (f : Nat → UnitState → UnitState) : (mapUnits f s).queues = s.queues := rfl
@[simp] theorem mapUnits_served (f : Nat → UnitState → UnitState) : (mapUnits f s).served = s.served := rfl
@[simp] theorem mapUnits_captures (f : Nat → UnitState → UnitState) : (mapUnits f s).captures = s.captures := rfl
@[simp] theorem mapUnits_mgmt (f : Nat → UnitState → UnitState) : (mapUnits f s).mgmt = s.mgmt := rfl
@[simp] theorem mapUnits_outbox (f : Nat → UnitState → UnitState) : (mapUnits f s).outbox = s.outbox := rfl
@[simp] theorem mapUnits_ctxs (f : Nat → UnitState → UnitState) : (mapUnits f s).ctxs = s.ctxs := rfl
@[simp] theorem mapUnits_lanes (f : Nat → UnitState → UnitState) : (mapUnits f s).lanes = s.lanes := rfl
@[simp] theorem mapUnits_image (f : Nat → UnitState → UnitState) : (mapUnits f s).image = s.image := rfl
@[simp] theorem mapUnits_tansy (f : Nat → UnitState → UnitState) : (mapUnits f s).tansy = s.tansy := rfl
@[simp] theorem mapUnits_vetch (f : Nat → UnitState → UnitState) : (mapUnits f s).vetch = s.vetch := rfl
@[simp] theorem mapUnits_yarrow (f : Nat → UnitState → UnitState) : (mapUnits f s).yarrow = s.yarrow := rfl
@[simp] theorem mapUnits_rings (f : Nat → UnitState → UnitState) : (mapUnits f s).rings = s.rings := rfl
@[simp] theorem mapUnits_timeu (f : Nat → UnitState → UnitState) : (mapUnits f s).timeu = s.timeu := rfl
@[simp] theorem mapUnits_sensors (f : Nat → UnitState → UnitState) : (mapUnits f s).sensors = s.sensors := rfl
@[simp] theorem mapUnits_links (f : Nat → UnitState → UnitState) : (mapUnits f s).links = s.links := rfl
@[simp] theorem mapUnits_power (f : Nat → UnitState → UnitState) : (mapUnits f s).power = s.power := rfl
@[simp] theorem mapUnits_safety (f : Nat → UnitState → UnitState) : (mapUnits f s).safety = s.safety := rfl
@[simp] theorem mapUnits_cowslip (f : Nat → UnitState → UnitState) : (mapUnits f s).cowslip = s.cowslip := rfl
@[simp] theorem mapUnits_harebell (f : Nat → UnitState → UnitState) : (mapUnits f s).harebell = s.harebell := rfl
@[simp] theorem mapUnits_goldenAt (f : Nat → UnitState → UnitState) : (mapUnits f s).goldenAt = s.goldenAt := rfl
@[simp] theorem mapUnits_golden (f : Nat → UnitState → UnitState) : (mapUnits f s).golden = s.golden := rfl
@[simp] theorem mapUnits_goldenLate (f : Nat → UnitState → UnitState) : (mapUnits f s).goldenLate = s.goldenLate := rfl
@[simp] theorem mapUnits_time (f : Nat → UnitState → UnitState) : (mapUnits f s).time = s.time := rfl
@[simp] theorem mapUnits_frac (f : Nat → UnitState → UnitState) : (mapUnits f s).frac = s.frac := rfl
@[simp] theorem mapUnits_ticks (f : Nat → UnitState → UnitState) : (mapUnits f s).ticks = s.ticks := rfl
@[simp] theorem mapUnits_free (f : Nat → UnitState → UnitState) : (mapUnits f s).free = s.free := rfl

@[simp] theorem modTansy_pending (f : Tansy → Tansy) : (modTansy s f).pending = s.pending := rfl
@[simp] theorem modTansy_cw (f : Tansy → Tansy) : (modTansy s f).cw = s.cw := rfl
@[simp] theorem modTansy_latch (f : Tansy → Tansy) : (modTansy s f).latch = s.latch := rfl
@[simp] theorem modTansy_held (f : Tansy → Tansy) : (modTansy s f).held = s.held := rfl
@[simp] theorem modTansy_mem (f : Tansy → Tansy) : (modTansy s f).mem = s.mem := rfl
@[simp] theorem modTansy_uncorr (f : Tansy → Tansy) : (modTansy s f).uncorr = s.uncorr := rfl
@[simp] theorem modTansy_stale (f : Tansy → Tansy) : (modTansy s f).stale = s.stale := rfl
@[simp] theorem modTansy_flash (f : Tansy → Tansy) : (modTansy s f).flash = s.flash := rfl
@[simp] theorem modTansy_flashBad (f : Tansy → Tansy) : (modTansy s f).flashBad = s.flashBad := rfl
@[simp] theorem modTansy_flashBytes (f : Tansy → Tansy) : (modTansy s f).flashBytes = s.flashBytes := rfl
@[simp] theorem modTansy_stackLogs (f : Tansy → Tansy) : (modTansy s f).stackLogs = s.stackLogs := rfl
@[simp] theorem modTansy_dbgRead (f : Tansy → Tansy) : (modTansy s f).dbgRead = s.dbgRead := rfl
@[simp] theorem modTansy_threads (f : Tansy → Tansy) : (modTansy s f).threads = s.threads := rfl
@[simp] theorem modTansy_units (f : Tansy → Tansy) : (modTansy s f).units = s.units := rfl
@[simp] theorem modTansy_vregs (f : Tansy → Tansy) : (modTansy s f).vregs = s.vregs := rfl
@[simp] theorem modTansy_pipes (f : Tansy → Tansy) : (modTansy s f).pipes = s.pipes := rfl
@[simp] theorem modTansy_attends (f : Tansy → Tansy) : (modTansy s f).attends = s.attends := rfl
@[simp] theorem modTansy_barriers (f : Tansy → Tansy) : (modTansy s f).barriers = s.barriers := rfl
@[simp] theorem modTansy_boundary (f : Tansy → Tansy) : (modTansy s f).boundary = s.boundary := rfl
@[simp] theorem modTansy_launches (f : Tansy → Tansy) : (modTansy s f).launches = s.launches := rfl
@[simp] theorem modTansy_nextLaunch (f : Tansy → Tansy) : (modTansy s f).nextLaunch = s.nextLaunch := rfl
@[simp] theorem modTansy_queues (f : Tansy → Tansy) : (modTansy s f).queues = s.queues := rfl
@[simp] theorem modTansy_served (f : Tansy → Tansy) : (modTansy s f).served = s.served := rfl
@[simp] theorem modTansy_captures (f : Tansy → Tansy) : (modTansy s f).captures = s.captures := rfl
@[simp] theorem modTansy_mgmt (f : Tansy → Tansy) : (modTansy s f).mgmt = s.mgmt := rfl
@[simp] theorem modTansy_outbox (f : Tansy → Tansy) : (modTansy s f).outbox = s.outbox := rfl
@[simp] theorem modTansy_ctxs (f : Tansy → Tansy) : (modTansy s f).ctxs = s.ctxs := rfl
@[simp] theorem modTansy_lanes (f : Tansy → Tansy) : (modTansy s f).lanes = s.lanes := rfl
@[simp] theorem modTansy_image (f : Tansy → Tansy) : (modTansy s f).image = s.image := rfl
@[simp] theorem modTansy_vetch (f : Tansy → Tansy) : (modTansy s f).vetch = s.vetch := rfl
@[simp] theorem modTansy_yarrow (f : Tansy → Tansy) : (modTansy s f).yarrow = s.yarrow := rfl
@[simp] theorem modTansy_rings (f : Tansy → Tansy) : (modTansy s f).rings = s.rings := rfl
@[simp] theorem modTansy_timeu (f : Tansy → Tansy) : (modTansy s f).timeu = s.timeu := rfl
@[simp] theorem modTansy_sensors (f : Tansy → Tansy) : (modTansy s f).sensors = s.sensors := rfl
@[simp] theorem modTansy_links (f : Tansy → Tansy) : (modTansy s f).links = s.links := rfl
@[simp] theorem modTansy_power (f : Tansy → Tansy) : (modTansy s f).power = s.power := rfl
@[simp] theorem modTansy_safety (f : Tansy → Tansy) : (modTansy s f).safety = s.safety := rfl
@[simp] theorem modTansy_cowslip (f : Tansy → Tansy) : (modTansy s f).cowslip = s.cowslip := rfl
@[simp] theorem modTansy_harebell (f : Tansy → Tansy) : (modTansy s f).harebell = s.harebell := rfl
@[simp] theorem modTansy_goldenAt (f : Tansy → Tansy) : (modTansy s f).goldenAt = s.goldenAt := rfl
@[simp] theorem modTansy_golden (f : Tansy → Tansy) : (modTansy s f).golden = s.golden := rfl
@[simp] theorem modTansy_goldenLate (f : Tansy → Tansy) : (modTansy s f).goldenLate = s.goldenLate := rfl
@[simp] theorem modTansy_time (f : Tansy → Tansy) : (modTansy s f).time = s.time := rfl
@[simp] theorem modTansy_frac (f : Tansy → Tansy) : (modTansy s f).frac = s.frac := rfl
@[simp] theorem modTansy_ticks (f : Tansy → Tansy) : (modTansy s f).ticks = s.ticks := rfl
@[simp] theorem modTansy_free (f : Tansy → Tansy) : (modTansy s f).free = s.free := rfl

@[simp] theorem modPower_pending (f : Power → Power) : (modPower s f).pending = s.pending := rfl
@[simp] theorem modPower_cw (f : Power → Power) : (modPower s f).cw = s.cw := rfl
@[simp] theorem modPower_latch (f : Power → Power) : (modPower s f).latch = s.latch := rfl
@[simp] theorem modPower_held (f : Power → Power) : (modPower s f).held = s.held := rfl
@[simp] theorem modPower_mem (f : Power → Power) : (modPower s f).mem = s.mem := rfl
@[simp] theorem modPower_uncorr (f : Power → Power) : (modPower s f).uncorr = s.uncorr := rfl
@[simp] theorem modPower_stale (f : Power → Power) : (modPower s f).stale = s.stale := rfl
@[simp] theorem modPower_flash (f : Power → Power) : (modPower s f).flash = s.flash := rfl
@[simp] theorem modPower_flashBad (f : Power → Power) : (modPower s f).flashBad = s.flashBad := rfl
@[simp] theorem modPower_flashBytes (f : Power → Power) : (modPower s f).flashBytes = s.flashBytes := rfl
@[simp] theorem modPower_stackLogs (f : Power → Power) : (modPower s f).stackLogs = s.stackLogs := rfl
@[simp] theorem modPower_dbgRead (f : Power → Power) : (modPower s f).dbgRead = s.dbgRead := rfl
@[simp] theorem modPower_threads (f : Power → Power) : (modPower s f).threads = s.threads := rfl
@[simp] theorem modPower_units (f : Power → Power) : (modPower s f).units = s.units := rfl
@[simp] theorem modPower_vregs (f : Power → Power) : (modPower s f).vregs = s.vregs := rfl
@[simp] theorem modPower_pipes (f : Power → Power) : (modPower s f).pipes = s.pipes := rfl
@[simp] theorem modPower_attends (f : Power → Power) : (modPower s f).attends = s.attends := rfl
@[simp] theorem modPower_barriers (f : Power → Power) : (modPower s f).barriers = s.barriers := rfl
@[simp] theorem modPower_boundary (f : Power → Power) : (modPower s f).boundary = s.boundary := rfl
@[simp] theorem modPower_launches (f : Power → Power) : (modPower s f).launches = s.launches := rfl
@[simp] theorem modPower_nextLaunch (f : Power → Power) : (modPower s f).nextLaunch = s.nextLaunch := rfl
@[simp] theorem modPower_queues (f : Power → Power) : (modPower s f).queues = s.queues := rfl
@[simp] theorem modPower_served (f : Power → Power) : (modPower s f).served = s.served := rfl
@[simp] theorem modPower_captures (f : Power → Power) : (modPower s f).captures = s.captures := rfl
@[simp] theorem modPower_mgmt (f : Power → Power) : (modPower s f).mgmt = s.mgmt := rfl
@[simp] theorem modPower_outbox (f : Power → Power) : (modPower s f).outbox = s.outbox := rfl
@[simp] theorem modPower_ctxs (f : Power → Power) : (modPower s f).ctxs = s.ctxs := rfl
@[simp] theorem modPower_lanes (f : Power → Power) : (modPower s f).lanes = s.lanes := rfl
@[simp] theorem modPower_image (f : Power → Power) : (modPower s f).image = s.image := rfl
@[simp] theorem modPower_tansy (f : Power → Power) : (modPower s f).tansy = s.tansy := rfl
@[simp] theorem modPower_vetch (f : Power → Power) : (modPower s f).vetch = s.vetch := rfl
@[simp] theorem modPower_yarrow (f : Power → Power) : (modPower s f).yarrow = s.yarrow := rfl
@[simp] theorem modPower_rings (f : Power → Power) : (modPower s f).rings = s.rings := rfl
@[simp] theorem modPower_timeu (f : Power → Power) : (modPower s f).timeu = s.timeu := rfl
@[simp] theorem modPower_sensors (f : Power → Power) : (modPower s f).sensors = s.sensors := rfl
@[simp] theorem modPower_links (f : Power → Power) : (modPower s f).links = s.links := rfl
@[simp] theorem modPower_safety (f : Power → Power) : (modPower s f).safety = s.safety := rfl
@[simp] theorem modPower_cowslip (f : Power → Power) : (modPower s f).cowslip = s.cowslip := rfl
@[simp] theorem modPower_harebell (f : Power → Power) : (modPower s f).harebell = s.harebell := rfl
@[simp] theorem modPower_goldenAt (f : Power → Power) : (modPower s f).goldenAt = s.goldenAt := rfl
@[simp] theorem modPower_golden (f : Power → Power) : (modPower s f).golden = s.golden := rfl
@[simp] theorem modPower_goldenLate (f : Power → Power) : (modPower s f).goldenLate = s.goldenLate := rfl
@[simp] theorem modPower_time (f : Power → Power) : (modPower s f).time = s.time := rfl
@[simp] theorem modPower_frac (f : Power → Power) : (modPower s f).frac = s.frac := rfl
@[simp] theorem modPower_ticks (f : Power → Power) : (modPower s f).ticks = s.ticks := rfl
@[simp] theorem modPower_free (f : Power → Power) : (modPower s f).free = s.free := rfl

@[simp] theorem modSafety_pending (f : Safety → Safety) : (modSafety s f).pending = s.pending := rfl
@[simp] theorem modSafety_cw (f : Safety → Safety) : (modSafety s f).cw = s.cw := rfl
@[simp] theorem modSafety_latch (f : Safety → Safety) : (modSafety s f).latch = s.latch := rfl
@[simp] theorem modSafety_held (f : Safety → Safety) : (modSafety s f).held = s.held := rfl
@[simp] theorem modSafety_mem (f : Safety → Safety) : (modSafety s f).mem = s.mem := rfl
@[simp] theorem modSafety_uncorr (f : Safety → Safety) : (modSafety s f).uncorr = s.uncorr := rfl
@[simp] theorem modSafety_stale (f : Safety → Safety) : (modSafety s f).stale = s.stale := rfl
@[simp] theorem modSafety_flash (f : Safety → Safety) : (modSafety s f).flash = s.flash := rfl
@[simp] theorem modSafety_flashBad (f : Safety → Safety) : (modSafety s f).flashBad = s.flashBad := rfl
@[simp] theorem modSafety_flashBytes (f : Safety → Safety) : (modSafety s f).flashBytes = s.flashBytes := rfl
@[simp] theorem modSafety_stackLogs (f : Safety → Safety) : (modSafety s f).stackLogs = s.stackLogs := rfl
@[simp] theorem modSafety_dbgRead (f : Safety → Safety) : (modSafety s f).dbgRead = s.dbgRead := rfl
@[simp] theorem modSafety_threads (f : Safety → Safety) : (modSafety s f).threads = s.threads := rfl
@[simp] theorem modSafety_units (f : Safety → Safety) : (modSafety s f).units = s.units := rfl
@[simp] theorem modSafety_vregs (f : Safety → Safety) : (modSafety s f).vregs = s.vregs := rfl
@[simp] theorem modSafety_pipes (f : Safety → Safety) : (modSafety s f).pipes = s.pipes := rfl
@[simp] theorem modSafety_attends (f : Safety → Safety) : (modSafety s f).attends = s.attends := rfl
@[simp] theorem modSafety_barriers (f : Safety → Safety) : (modSafety s f).barriers = s.barriers := rfl
@[simp] theorem modSafety_boundary (f : Safety → Safety) : (modSafety s f).boundary = s.boundary := rfl
@[simp] theorem modSafety_launches (f : Safety → Safety) : (modSafety s f).launches = s.launches := rfl
@[simp] theorem modSafety_nextLaunch (f : Safety → Safety) : (modSafety s f).nextLaunch = s.nextLaunch := rfl
@[simp] theorem modSafety_queues (f : Safety → Safety) : (modSafety s f).queues = s.queues := rfl
@[simp] theorem modSafety_served (f : Safety → Safety) : (modSafety s f).served = s.served := rfl
@[simp] theorem modSafety_captures (f : Safety → Safety) : (modSafety s f).captures = s.captures := rfl
@[simp] theorem modSafety_mgmt (f : Safety → Safety) : (modSafety s f).mgmt = s.mgmt := rfl
@[simp] theorem modSafety_outbox (f : Safety → Safety) : (modSafety s f).outbox = s.outbox := rfl
@[simp] theorem modSafety_ctxs (f : Safety → Safety) : (modSafety s f).ctxs = s.ctxs := rfl
@[simp] theorem modSafety_lanes (f : Safety → Safety) : (modSafety s f).lanes = s.lanes := rfl
@[simp] theorem modSafety_image (f : Safety → Safety) : (modSafety s f).image = s.image := rfl
@[simp] theorem modSafety_tansy (f : Safety → Safety) : (modSafety s f).tansy = s.tansy := rfl
@[simp] theorem modSafety_vetch (f : Safety → Safety) : (modSafety s f).vetch = s.vetch := rfl
@[simp] theorem modSafety_yarrow (f : Safety → Safety) : (modSafety s f).yarrow = s.yarrow := rfl
@[simp] theorem modSafety_rings (f : Safety → Safety) : (modSafety s f).rings = s.rings := rfl
@[simp] theorem modSafety_timeu (f : Safety → Safety) : (modSafety s f).timeu = s.timeu := rfl
@[simp] theorem modSafety_sensors (f : Safety → Safety) : (modSafety s f).sensors = s.sensors := rfl
@[simp] theorem modSafety_links (f : Safety → Safety) : (modSafety s f).links = s.links := rfl
@[simp] theorem modSafety_power (f : Safety → Safety) : (modSafety s f).power = s.power := rfl
@[simp] theorem modSafety_cowslip (f : Safety → Safety) : (modSafety s f).cowslip = s.cowslip := rfl
@[simp] theorem modSafety_harebell (f : Safety → Safety) : (modSafety s f).harebell = s.harebell := rfl
@[simp] theorem modSafety_goldenAt (f : Safety → Safety) : (modSafety s f).goldenAt = s.goldenAt := rfl
@[simp] theorem modSafety_golden (f : Safety → Safety) : (modSafety s f).golden = s.golden := rfl
@[simp] theorem modSafety_goldenLate (f : Safety → Safety) : (modSafety s f).goldenLate = s.goldenLate := rfl
@[simp] theorem modSafety_time (f : Safety → Safety) : (modSafety s f).time = s.time := rfl
@[simp] theorem modSafety_frac (f : Safety → Safety) : (modSafety s f).frac = s.frac := rfl
@[simp] theorem modSafety_ticks (f : Safety → Safety) : (modSafety s f).ticks = s.ticks := rfl
@[simp] theorem modSafety_free (f : Safety → Safety) : (modSafety s f).free = s.free := rfl

@[simp] theorem modYarrow_pending (f : Yarrow → Yarrow) : (modYarrow s f).pending = s.pending := rfl
@[simp] theorem modYarrow_cw (f : Yarrow → Yarrow) : (modYarrow s f).cw = s.cw := rfl
@[simp] theorem modYarrow_latch (f : Yarrow → Yarrow) : (modYarrow s f).latch = s.latch := rfl
@[simp] theorem modYarrow_held (f : Yarrow → Yarrow) : (modYarrow s f).held = s.held := rfl
@[simp] theorem modYarrow_mem (f : Yarrow → Yarrow) : (modYarrow s f).mem = s.mem := rfl
@[simp] theorem modYarrow_uncorr (f : Yarrow → Yarrow) : (modYarrow s f).uncorr = s.uncorr := rfl
@[simp] theorem modYarrow_stale (f : Yarrow → Yarrow) : (modYarrow s f).stale = s.stale := rfl
@[simp] theorem modYarrow_flash (f : Yarrow → Yarrow) : (modYarrow s f).flash = s.flash := rfl
@[simp] theorem modYarrow_flashBad (f : Yarrow → Yarrow) : (modYarrow s f).flashBad = s.flashBad := rfl
@[simp] theorem modYarrow_flashBytes (f : Yarrow → Yarrow) : (modYarrow s f).flashBytes = s.flashBytes := rfl
@[simp] theorem modYarrow_stackLogs (f : Yarrow → Yarrow) : (modYarrow s f).stackLogs = s.stackLogs := rfl
@[simp] theorem modYarrow_dbgRead (f : Yarrow → Yarrow) : (modYarrow s f).dbgRead = s.dbgRead := rfl
@[simp] theorem modYarrow_threads (f : Yarrow → Yarrow) : (modYarrow s f).threads = s.threads := rfl
@[simp] theorem modYarrow_units (f : Yarrow → Yarrow) : (modYarrow s f).units = s.units := rfl
@[simp] theorem modYarrow_vregs (f : Yarrow → Yarrow) : (modYarrow s f).vregs = s.vregs := rfl
@[simp] theorem modYarrow_pipes (f : Yarrow → Yarrow) : (modYarrow s f).pipes = s.pipes := rfl
@[simp] theorem modYarrow_attends (f : Yarrow → Yarrow) : (modYarrow s f).attends = s.attends := rfl
@[simp] theorem modYarrow_barriers (f : Yarrow → Yarrow) : (modYarrow s f).barriers = s.barriers := rfl
@[simp] theorem modYarrow_boundary (f : Yarrow → Yarrow) : (modYarrow s f).boundary = s.boundary := rfl
@[simp] theorem modYarrow_launches (f : Yarrow → Yarrow) : (modYarrow s f).launches = s.launches := rfl
@[simp] theorem modYarrow_nextLaunch (f : Yarrow → Yarrow) : (modYarrow s f).nextLaunch = s.nextLaunch := rfl
@[simp] theorem modYarrow_queues (f : Yarrow → Yarrow) : (modYarrow s f).queues = s.queues := rfl
@[simp] theorem modYarrow_served (f : Yarrow → Yarrow) : (modYarrow s f).served = s.served := rfl
@[simp] theorem modYarrow_captures (f : Yarrow → Yarrow) : (modYarrow s f).captures = s.captures := rfl
@[simp] theorem modYarrow_mgmt (f : Yarrow → Yarrow) : (modYarrow s f).mgmt = s.mgmt := rfl
@[simp] theorem modYarrow_outbox (f : Yarrow → Yarrow) : (modYarrow s f).outbox = s.outbox := rfl
@[simp] theorem modYarrow_ctxs (f : Yarrow → Yarrow) : (modYarrow s f).ctxs = s.ctxs := rfl
@[simp] theorem modYarrow_lanes (f : Yarrow → Yarrow) : (modYarrow s f).lanes = s.lanes := rfl
@[simp] theorem modYarrow_image (f : Yarrow → Yarrow) : (modYarrow s f).image = s.image := rfl
@[simp] theorem modYarrow_tansy (f : Yarrow → Yarrow) : (modYarrow s f).tansy = s.tansy := rfl
@[simp] theorem modYarrow_vetch (f : Yarrow → Yarrow) : (modYarrow s f).vetch = s.vetch := rfl
@[simp] theorem modYarrow_rings (f : Yarrow → Yarrow) : (modYarrow s f).rings = s.rings := rfl
@[simp] theorem modYarrow_timeu (f : Yarrow → Yarrow) : (modYarrow s f).timeu = s.timeu := rfl
@[simp] theorem modYarrow_sensors (f : Yarrow → Yarrow) : (modYarrow s f).sensors = s.sensors := rfl
@[simp] theorem modYarrow_links (f : Yarrow → Yarrow) : (modYarrow s f).links = s.links := rfl
@[simp] theorem modYarrow_power (f : Yarrow → Yarrow) : (modYarrow s f).power = s.power := rfl
@[simp] theorem modYarrow_safety (f : Yarrow → Yarrow) : (modYarrow s f).safety = s.safety := rfl
@[simp] theorem modYarrow_cowslip (f : Yarrow → Yarrow) : (modYarrow s f).cowslip = s.cowslip := rfl
@[simp] theorem modYarrow_harebell (f : Yarrow → Yarrow) : (modYarrow s f).harebell = s.harebell := rfl
@[simp] theorem modYarrow_goldenAt (f : Yarrow → Yarrow) : (modYarrow s f).goldenAt = s.goldenAt := rfl
@[simp] theorem modYarrow_golden (f : Yarrow → Yarrow) : (modYarrow s f).golden = s.golden := rfl
@[simp] theorem modYarrow_goldenLate (f : Yarrow → Yarrow) : (modYarrow s f).goldenLate = s.goldenLate := rfl
@[simp] theorem modYarrow_time (f : Yarrow → Yarrow) : (modYarrow s f).time = s.time := rfl
@[simp] theorem modYarrow_frac (f : Yarrow → Yarrow) : (modYarrow s f).frac = s.frac := rfl
@[simp] theorem modYarrow_ticks (f : Yarrow → Yarrow) : (modYarrow s f).ticks = s.ticks := rfl
@[simp] theorem modYarrow_free (f : Yarrow → Yarrow) : (modYarrow s f).free = s.free := rfl

@[simp] theorem modHarebell_pending (f : Harebell → Harebell) : (modHarebell s f).pending = s.pending := rfl
@[simp] theorem modHarebell_cw (f : Harebell → Harebell) : (modHarebell s f).cw = s.cw := rfl
@[simp] theorem modHarebell_latch (f : Harebell → Harebell) : (modHarebell s f).latch = s.latch := rfl
@[simp] theorem modHarebell_held (f : Harebell → Harebell) : (modHarebell s f).held = s.held := rfl
@[simp] theorem modHarebell_mem (f : Harebell → Harebell) : (modHarebell s f).mem = s.mem := rfl
@[simp] theorem modHarebell_uncorr (f : Harebell → Harebell) : (modHarebell s f).uncorr = s.uncorr := rfl
@[simp] theorem modHarebell_stale (f : Harebell → Harebell) : (modHarebell s f).stale = s.stale := rfl
@[simp] theorem modHarebell_flash (f : Harebell → Harebell) : (modHarebell s f).flash = s.flash := rfl
@[simp] theorem modHarebell_flashBad (f : Harebell → Harebell) : (modHarebell s f).flashBad = s.flashBad := rfl
@[simp] theorem modHarebell_flashBytes (f : Harebell → Harebell) : (modHarebell s f).flashBytes = s.flashBytes := rfl
@[simp] theorem modHarebell_stackLogs (f : Harebell → Harebell) : (modHarebell s f).stackLogs = s.stackLogs := rfl
@[simp] theorem modHarebell_dbgRead (f : Harebell → Harebell) : (modHarebell s f).dbgRead = s.dbgRead := rfl
@[simp] theorem modHarebell_threads (f : Harebell → Harebell) : (modHarebell s f).threads = s.threads := rfl
@[simp] theorem modHarebell_units (f : Harebell → Harebell) : (modHarebell s f).units = s.units := rfl
@[simp] theorem modHarebell_vregs (f : Harebell → Harebell) : (modHarebell s f).vregs = s.vregs := rfl
@[simp] theorem modHarebell_pipes (f : Harebell → Harebell) : (modHarebell s f).pipes = s.pipes := rfl
@[simp] theorem modHarebell_attends (f : Harebell → Harebell) : (modHarebell s f).attends = s.attends := rfl
@[simp] theorem modHarebell_barriers (f : Harebell → Harebell) : (modHarebell s f).barriers = s.barriers := rfl
@[simp] theorem modHarebell_boundary (f : Harebell → Harebell) : (modHarebell s f).boundary = s.boundary := rfl
@[simp] theorem modHarebell_launches (f : Harebell → Harebell) : (modHarebell s f).launches = s.launches := rfl
@[simp] theorem modHarebell_nextLaunch (f : Harebell → Harebell) : (modHarebell s f).nextLaunch = s.nextLaunch := rfl
@[simp] theorem modHarebell_queues (f : Harebell → Harebell) : (modHarebell s f).queues = s.queues := rfl
@[simp] theorem modHarebell_served (f : Harebell → Harebell) : (modHarebell s f).served = s.served := rfl
@[simp] theorem modHarebell_captures (f : Harebell → Harebell) : (modHarebell s f).captures = s.captures := rfl
@[simp] theorem modHarebell_mgmt (f : Harebell → Harebell) : (modHarebell s f).mgmt = s.mgmt := rfl
@[simp] theorem modHarebell_outbox (f : Harebell → Harebell) : (modHarebell s f).outbox = s.outbox := rfl
@[simp] theorem modHarebell_ctxs (f : Harebell → Harebell) : (modHarebell s f).ctxs = s.ctxs := rfl
@[simp] theorem modHarebell_lanes (f : Harebell → Harebell) : (modHarebell s f).lanes = s.lanes := rfl
@[simp] theorem modHarebell_image (f : Harebell → Harebell) : (modHarebell s f).image = s.image := rfl
@[simp] theorem modHarebell_tansy (f : Harebell → Harebell) : (modHarebell s f).tansy = s.tansy := rfl
@[simp] theorem modHarebell_vetch (f : Harebell → Harebell) : (modHarebell s f).vetch = s.vetch := rfl
@[simp] theorem modHarebell_yarrow (f : Harebell → Harebell) : (modHarebell s f).yarrow = s.yarrow := rfl
@[simp] theorem modHarebell_rings (f : Harebell → Harebell) : (modHarebell s f).rings = s.rings := rfl
@[simp] theorem modHarebell_timeu (f : Harebell → Harebell) : (modHarebell s f).timeu = s.timeu := rfl
@[simp] theorem modHarebell_sensors (f : Harebell → Harebell) : (modHarebell s f).sensors = s.sensors := rfl
@[simp] theorem modHarebell_links (f : Harebell → Harebell) : (modHarebell s f).links = s.links := rfl
@[simp] theorem modHarebell_power (f : Harebell → Harebell) : (modHarebell s f).power = s.power := rfl
@[simp] theorem modHarebell_safety (f : Harebell → Harebell) : (modHarebell s f).safety = s.safety := rfl
@[simp] theorem modHarebell_cowslip (f : Harebell → Harebell) : (modHarebell s f).cowslip = s.cowslip := rfl
@[simp] theorem modHarebell_goldenAt (f : Harebell → Harebell) : (modHarebell s f).goldenAt = s.goldenAt := rfl
@[simp] theorem modHarebell_golden (f : Harebell → Harebell) : (modHarebell s f).golden = s.golden := rfl
@[simp] theorem modHarebell_goldenLate (f : Harebell → Harebell) : (modHarebell s f).goldenLate = s.goldenLate := rfl
@[simp] theorem modHarebell_time (f : Harebell → Harebell) : (modHarebell s f).time = s.time := rfl
@[simp] theorem modHarebell_frac (f : Harebell → Harebell) : (modHarebell s f).frac = s.frac := rfl
@[simp] theorem modHarebell_ticks (f : Harebell → Harebell) : (modHarebell s f).ticks = s.ticks := rfl
@[simp] theorem modHarebell_free (f : Harebell → Harebell) : (modHarebell s f).free = s.free := rfl

@[simp] theorem modTime_pending (f : TimeUnit → TimeUnit) : (modTime s f).pending = s.pending := rfl
@[simp] theorem modTime_cw (f : TimeUnit → TimeUnit) : (modTime s f).cw = s.cw := rfl
@[simp] theorem modTime_latch (f : TimeUnit → TimeUnit) : (modTime s f).latch = s.latch := rfl
@[simp] theorem modTime_held (f : TimeUnit → TimeUnit) : (modTime s f).held = s.held := rfl
@[simp] theorem modTime_mem (f : TimeUnit → TimeUnit) : (modTime s f).mem = s.mem := rfl
@[simp] theorem modTime_uncorr (f : TimeUnit → TimeUnit) : (modTime s f).uncorr = s.uncorr := rfl
@[simp] theorem modTime_stale (f : TimeUnit → TimeUnit) : (modTime s f).stale = s.stale := rfl
@[simp] theorem modTime_flash (f : TimeUnit → TimeUnit) : (modTime s f).flash = s.flash := rfl
@[simp] theorem modTime_flashBad (f : TimeUnit → TimeUnit) : (modTime s f).flashBad = s.flashBad := rfl
@[simp] theorem modTime_flashBytes (f : TimeUnit → TimeUnit) : (modTime s f).flashBytes = s.flashBytes := rfl
@[simp] theorem modTime_stackLogs (f : TimeUnit → TimeUnit) : (modTime s f).stackLogs = s.stackLogs := rfl
@[simp] theorem modTime_dbgRead (f : TimeUnit → TimeUnit) : (modTime s f).dbgRead = s.dbgRead := rfl
@[simp] theorem modTime_threads (f : TimeUnit → TimeUnit) : (modTime s f).threads = s.threads := rfl
@[simp] theorem modTime_units (f : TimeUnit → TimeUnit) : (modTime s f).units = s.units := rfl
@[simp] theorem modTime_vregs (f : TimeUnit → TimeUnit) : (modTime s f).vregs = s.vregs := rfl
@[simp] theorem modTime_pipes (f : TimeUnit → TimeUnit) : (modTime s f).pipes = s.pipes := rfl
@[simp] theorem modTime_attends (f : TimeUnit → TimeUnit) : (modTime s f).attends = s.attends := rfl
@[simp] theorem modTime_barriers (f : TimeUnit → TimeUnit) : (modTime s f).barriers = s.barriers := rfl
@[simp] theorem modTime_boundary (f : TimeUnit → TimeUnit) : (modTime s f).boundary = s.boundary := rfl
@[simp] theorem modTime_launches (f : TimeUnit → TimeUnit) : (modTime s f).launches = s.launches := rfl
@[simp] theorem modTime_nextLaunch (f : TimeUnit → TimeUnit) : (modTime s f).nextLaunch = s.nextLaunch := rfl
@[simp] theorem modTime_queues (f : TimeUnit → TimeUnit) : (modTime s f).queues = s.queues := rfl
@[simp] theorem modTime_served (f : TimeUnit → TimeUnit) : (modTime s f).served = s.served := rfl
@[simp] theorem modTime_captures (f : TimeUnit → TimeUnit) : (modTime s f).captures = s.captures := rfl
@[simp] theorem modTime_mgmt (f : TimeUnit → TimeUnit) : (modTime s f).mgmt = s.mgmt := rfl
@[simp] theorem modTime_outbox (f : TimeUnit → TimeUnit) : (modTime s f).outbox = s.outbox := rfl
@[simp] theorem modTime_ctxs (f : TimeUnit → TimeUnit) : (modTime s f).ctxs = s.ctxs := rfl
@[simp] theorem modTime_lanes (f : TimeUnit → TimeUnit) : (modTime s f).lanes = s.lanes := rfl
@[simp] theorem modTime_image (f : TimeUnit → TimeUnit) : (modTime s f).image = s.image := rfl
@[simp] theorem modTime_tansy (f : TimeUnit → TimeUnit) : (modTime s f).tansy = s.tansy := rfl
@[simp] theorem modTime_vetch (f : TimeUnit → TimeUnit) : (modTime s f).vetch = s.vetch := rfl
@[simp] theorem modTime_yarrow (f : TimeUnit → TimeUnit) : (modTime s f).yarrow = s.yarrow := rfl
@[simp] theorem modTime_rings (f : TimeUnit → TimeUnit) : (modTime s f).rings = s.rings := rfl
@[simp] theorem modTime_sensors (f : TimeUnit → TimeUnit) : (modTime s f).sensors = s.sensors := rfl
@[simp] theorem modTime_links (f : TimeUnit → TimeUnit) : (modTime s f).links = s.links := rfl
@[simp] theorem modTime_power (f : TimeUnit → TimeUnit) : (modTime s f).power = s.power := rfl
@[simp] theorem modTime_safety (f : TimeUnit → TimeUnit) : (modTime s f).safety = s.safety := rfl
@[simp] theorem modTime_cowslip (f : TimeUnit → TimeUnit) : (modTime s f).cowslip = s.cowslip := rfl
@[simp] theorem modTime_harebell (f : TimeUnit → TimeUnit) : (modTime s f).harebell = s.harebell := rfl
@[simp] theorem modTime_goldenAt (f : TimeUnit → TimeUnit) : (modTime s f).goldenAt = s.goldenAt := rfl
@[simp] theorem modTime_golden (f : TimeUnit → TimeUnit) : (modTime s f).golden = s.golden := rfl
@[simp] theorem modTime_goldenLate (f : TimeUnit → TimeUnit) : (modTime s f).goldenLate = s.goldenLate := rfl
@[simp] theorem modTime_time (f : TimeUnit → TimeUnit) : (modTime s f).time = s.time := rfl
@[simp] theorem modTime_frac (f : TimeUnit → TimeUnit) : (modTime s f).frac = s.frac := rfl
@[simp] theorem modTime_ticks (f : TimeUnit → TimeUnit) : (modTime s f).ticks = s.ticks := rfl
@[simp] theorem modTime_free (f : TimeUnit → TimeUnit) : (modTime s f).free = s.free := rfl

@[simp] theorem modSensors_pending (f : Sensors → Sensors) : (modSensors s f).pending = s.pending := rfl
@[simp] theorem modSensors_cw (f : Sensors → Sensors) : (modSensors s f).cw = s.cw := rfl
@[simp] theorem modSensors_latch (f : Sensors → Sensors) : (modSensors s f).latch = s.latch := rfl
@[simp] theorem modSensors_held (f : Sensors → Sensors) : (modSensors s f).held = s.held := rfl
@[simp] theorem modSensors_mem (f : Sensors → Sensors) : (modSensors s f).mem = s.mem := rfl
@[simp] theorem modSensors_uncorr (f : Sensors → Sensors) : (modSensors s f).uncorr = s.uncorr := rfl
@[simp] theorem modSensors_stale (f : Sensors → Sensors) : (modSensors s f).stale = s.stale := rfl
@[simp] theorem modSensors_flash (f : Sensors → Sensors) : (modSensors s f).flash = s.flash := rfl
@[simp] theorem modSensors_flashBad (f : Sensors → Sensors) : (modSensors s f).flashBad = s.flashBad := rfl
@[simp] theorem modSensors_flashBytes (f : Sensors → Sensors) : (modSensors s f).flashBytes = s.flashBytes := rfl
@[simp] theorem modSensors_stackLogs (f : Sensors → Sensors) : (modSensors s f).stackLogs = s.stackLogs := rfl
@[simp] theorem modSensors_dbgRead (f : Sensors → Sensors) : (modSensors s f).dbgRead = s.dbgRead := rfl
@[simp] theorem modSensors_threads (f : Sensors → Sensors) : (modSensors s f).threads = s.threads := rfl
@[simp] theorem modSensors_units (f : Sensors → Sensors) : (modSensors s f).units = s.units := rfl
@[simp] theorem modSensors_vregs (f : Sensors → Sensors) : (modSensors s f).vregs = s.vregs := rfl
@[simp] theorem modSensors_pipes (f : Sensors → Sensors) : (modSensors s f).pipes = s.pipes := rfl
@[simp] theorem modSensors_attends (f : Sensors → Sensors) : (modSensors s f).attends = s.attends := rfl
@[simp] theorem modSensors_barriers (f : Sensors → Sensors) : (modSensors s f).barriers = s.barriers := rfl
@[simp] theorem modSensors_boundary (f : Sensors → Sensors) : (modSensors s f).boundary = s.boundary := rfl
@[simp] theorem modSensors_launches (f : Sensors → Sensors) : (modSensors s f).launches = s.launches := rfl
@[simp] theorem modSensors_nextLaunch (f : Sensors → Sensors) : (modSensors s f).nextLaunch = s.nextLaunch := rfl
@[simp] theorem modSensors_queues (f : Sensors → Sensors) : (modSensors s f).queues = s.queues := rfl
@[simp] theorem modSensors_served (f : Sensors → Sensors) : (modSensors s f).served = s.served := rfl
@[simp] theorem modSensors_captures (f : Sensors → Sensors) : (modSensors s f).captures = s.captures := rfl
@[simp] theorem modSensors_mgmt (f : Sensors → Sensors) : (modSensors s f).mgmt = s.mgmt := rfl
@[simp] theorem modSensors_outbox (f : Sensors → Sensors) : (modSensors s f).outbox = s.outbox := rfl
@[simp] theorem modSensors_ctxs (f : Sensors → Sensors) : (modSensors s f).ctxs = s.ctxs := rfl
@[simp] theorem modSensors_lanes (f : Sensors → Sensors) : (modSensors s f).lanes = s.lanes := rfl
@[simp] theorem modSensors_image (f : Sensors → Sensors) : (modSensors s f).image = s.image := rfl
@[simp] theorem modSensors_tansy (f : Sensors → Sensors) : (modSensors s f).tansy = s.tansy := rfl
@[simp] theorem modSensors_vetch (f : Sensors → Sensors) : (modSensors s f).vetch = s.vetch := rfl
@[simp] theorem modSensors_yarrow (f : Sensors → Sensors) : (modSensors s f).yarrow = s.yarrow := rfl
@[simp] theorem modSensors_rings (f : Sensors → Sensors) : (modSensors s f).rings = s.rings := rfl
@[simp] theorem modSensors_timeu (f : Sensors → Sensors) : (modSensors s f).timeu = s.timeu := rfl
@[simp] theorem modSensors_links (f : Sensors → Sensors) : (modSensors s f).links = s.links := rfl
@[simp] theorem modSensors_power (f : Sensors → Sensors) : (modSensors s f).power = s.power := rfl
@[simp] theorem modSensors_safety (f : Sensors → Sensors) : (modSensors s f).safety = s.safety := rfl
@[simp] theorem modSensors_cowslip (f : Sensors → Sensors) : (modSensors s f).cowslip = s.cowslip := rfl
@[simp] theorem modSensors_harebell (f : Sensors → Sensors) : (modSensors s f).harebell = s.harebell := rfl
@[simp] theorem modSensors_goldenAt (f : Sensors → Sensors) : (modSensors s f).goldenAt = s.goldenAt := rfl
@[simp] theorem modSensors_golden (f : Sensors → Sensors) : (modSensors s f).golden = s.golden := rfl
@[simp] theorem modSensors_goldenLate (f : Sensors → Sensors) : (modSensors s f).goldenLate = s.goldenLate := rfl
@[simp] theorem modSensors_time (f : Sensors → Sensors) : (modSensors s f).time = s.time := rfl
@[simp] theorem modSensors_frac (f : Sensors → Sensors) : (modSensors s f).frac = s.frac := rfl
@[simp] theorem modSensors_ticks (f : Sensors → Sensors) : (modSensors s f).ticks = s.ticks := rfl
@[simp] theorem modSensors_free (f : Sensors → Sensors) : (modSensors s f).free = s.free := rfl

@[simp] theorem modVetch_pending (f : Vetch → Vetch) : (modVetch s f).pending = s.pending := rfl
@[simp] theorem modVetch_cw (f : Vetch → Vetch) : (modVetch s f).cw = s.cw := rfl
@[simp] theorem modVetch_latch (f : Vetch → Vetch) : (modVetch s f).latch = s.latch := rfl
@[simp] theorem modVetch_held (f : Vetch → Vetch) : (modVetch s f).held = s.held := rfl
@[simp] theorem modVetch_mem (f : Vetch → Vetch) : (modVetch s f).mem = s.mem := rfl
@[simp] theorem modVetch_uncorr (f : Vetch → Vetch) : (modVetch s f).uncorr = s.uncorr := rfl
@[simp] theorem modVetch_stale (f : Vetch → Vetch) : (modVetch s f).stale = s.stale := rfl
@[simp] theorem modVetch_flash (f : Vetch → Vetch) : (modVetch s f).flash = s.flash := rfl
@[simp] theorem modVetch_flashBad (f : Vetch → Vetch) : (modVetch s f).flashBad = s.flashBad := rfl
@[simp] theorem modVetch_flashBytes (f : Vetch → Vetch) : (modVetch s f).flashBytes = s.flashBytes := rfl
@[simp] theorem modVetch_stackLogs (f : Vetch → Vetch) : (modVetch s f).stackLogs = s.stackLogs := rfl
@[simp] theorem modVetch_dbgRead (f : Vetch → Vetch) : (modVetch s f).dbgRead = s.dbgRead := rfl
@[simp] theorem modVetch_threads (f : Vetch → Vetch) : (modVetch s f).threads = s.threads := rfl
@[simp] theorem modVetch_units (f : Vetch → Vetch) : (modVetch s f).units = s.units := rfl
@[simp] theorem modVetch_vregs (f : Vetch → Vetch) : (modVetch s f).vregs = s.vregs := rfl
@[simp] theorem modVetch_pipes (f : Vetch → Vetch) : (modVetch s f).pipes = s.pipes := rfl
@[simp] theorem modVetch_attends (f : Vetch → Vetch) : (modVetch s f).attends = s.attends := rfl
@[simp] theorem modVetch_barriers (f : Vetch → Vetch) : (modVetch s f).barriers = s.barriers := rfl
@[simp] theorem modVetch_boundary (f : Vetch → Vetch) : (modVetch s f).boundary = s.boundary := rfl
@[simp] theorem modVetch_launches (f : Vetch → Vetch) : (modVetch s f).launches = s.launches := rfl
@[simp] theorem modVetch_nextLaunch (f : Vetch → Vetch) : (modVetch s f).nextLaunch = s.nextLaunch := rfl
@[simp] theorem modVetch_queues (f : Vetch → Vetch) : (modVetch s f).queues = s.queues := rfl
@[simp] theorem modVetch_served (f : Vetch → Vetch) : (modVetch s f).served = s.served := rfl
@[simp] theorem modVetch_captures (f : Vetch → Vetch) : (modVetch s f).captures = s.captures := rfl
@[simp] theorem modVetch_mgmt (f : Vetch → Vetch) : (modVetch s f).mgmt = s.mgmt := rfl
@[simp] theorem modVetch_outbox (f : Vetch → Vetch) : (modVetch s f).outbox = s.outbox := rfl
@[simp] theorem modVetch_ctxs (f : Vetch → Vetch) : (modVetch s f).ctxs = s.ctxs := rfl
@[simp] theorem modVetch_lanes (f : Vetch → Vetch) : (modVetch s f).lanes = s.lanes := rfl
@[simp] theorem modVetch_image (f : Vetch → Vetch) : (modVetch s f).image = s.image := rfl
@[simp] theorem modVetch_tansy (f : Vetch → Vetch) : (modVetch s f).tansy = s.tansy := rfl
@[simp] theorem modVetch_yarrow (f : Vetch → Vetch) : (modVetch s f).yarrow = s.yarrow := rfl
@[simp] theorem modVetch_rings (f : Vetch → Vetch) : (modVetch s f).rings = s.rings := rfl
@[simp] theorem modVetch_timeu (f : Vetch → Vetch) : (modVetch s f).timeu = s.timeu := rfl
@[simp] theorem modVetch_sensors (f : Vetch → Vetch) : (modVetch s f).sensors = s.sensors := rfl
@[simp] theorem modVetch_links (f : Vetch → Vetch) : (modVetch s f).links = s.links := rfl
@[simp] theorem modVetch_power (f : Vetch → Vetch) : (modVetch s f).power = s.power := rfl
@[simp] theorem modVetch_safety (f : Vetch → Vetch) : (modVetch s f).safety = s.safety := rfl
@[simp] theorem modVetch_cowslip (f : Vetch → Vetch) : (modVetch s f).cowslip = s.cowslip := rfl
@[simp] theorem modVetch_harebell (f : Vetch → Vetch) : (modVetch s f).harebell = s.harebell := rfl
@[simp] theorem modVetch_goldenAt (f : Vetch → Vetch) : (modVetch s f).goldenAt = s.goldenAt := rfl
@[simp] theorem modVetch_golden (f : Vetch → Vetch) : (modVetch s f).golden = s.golden := rfl
@[simp] theorem modVetch_goldenLate (f : Vetch → Vetch) : (modVetch s f).goldenLate = s.goldenLate := rfl
@[simp] theorem modVetch_time (f : Vetch → Vetch) : (modVetch s f).time = s.time := rfl
@[simp] theorem modVetch_frac (f : Vetch → Vetch) : (modVetch s f).frac = s.frac := rfl
@[simp] theorem modVetch_ticks (f : Vetch → Vetch) : (modVetch s f).ticks = s.ticks := rfl
@[simp] theorem modVetch_free (f : Vetch → Vetch) : (modVetch s f).free = s.free := rfl

@[simp] theorem modLinks_pending (f : Links → Links) : (modLinks s f).pending = s.pending := rfl
@[simp] theorem modLinks_cw (f : Links → Links) : (modLinks s f).cw = s.cw := rfl
@[simp] theorem modLinks_latch (f : Links → Links) : (modLinks s f).latch = s.latch := rfl
@[simp] theorem modLinks_held (f : Links → Links) : (modLinks s f).held = s.held := rfl
@[simp] theorem modLinks_mem (f : Links → Links) : (modLinks s f).mem = s.mem := rfl
@[simp] theorem modLinks_uncorr (f : Links → Links) : (modLinks s f).uncorr = s.uncorr := rfl
@[simp] theorem modLinks_stale (f : Links → Links) : (modLinks s f).stale = s.stale := rfl
@[simp] theorem modLinks_flash (f : Links → Links) : (modLinks s f).flash = s.flash := rfl
@[simp] theorem modLinks_flashBad (f : Links → Links) : (modLinks s f).flashBad = s.flashBad := rfl
@[simp] theorem modLinks_flashBytes (f : Links → Links) : (modLinks s f).flashBytes = s.flashBytes := rfl
@[simp] theorem modLinks_stackLogs (f : Links → Links) : (modLinks s f).stackLogs = s.stackLogs := rfl
@[simp] theorem modLinks_dbgRead (f : Links → Links) : (modLinks s f).dbgRead = s.dbgRead := rfl
@[simp] theorem modLinks_threads (f : Links → Links) : (modLinks s f).threads = s.threads := rfl
@[simp] theorem modLinks_units (f : Links → Links) : (modLinks s f).units = s.units := rfl
@[simp] theorem modLinks_vregs (f : Links → Links) : (modLinks s f).vregs = s.vregs := rfl
@[simp] theorem modLinks_pipes (f : Links → Links) : (modLinks s f).pipes = s.pipes := rfl
@[simp] theorem modLinks_attends (f : Links → Links) : (modLinks s f).attends = s.attends := rfl
@[simp] theorem modLinks_barriers (f : Links → Links) : (modLinks s f).barriers = s.barriers := rfl
@[simp] theorem modLinks_boundary (f : Links → Links) : (modLinks s f).boundary = s.boundary := rfl
@[simp] theorem modLinks_launches (f : Links → Links) : (modLinks s f).launches = s.launches := rfl
@[simp] theorem modLinks_nextLaunch (f : Links → Links) : (modLinks s f).nextLaunch = s.nextLaunch := rfl
@[simp] theorem modLinks_queues (f : Links → Links) : (modLinks s f).queues = s.queues := rfl
@[simp] theorem modLinks_served (f : Links → Links) : (modLinks s f).served = s.served := rfl
@[simp] theorem modLinks_captures (f : Links → Links) : (modLinks s f).captures = s.captures := rfl
@[simp] theorem modLinks_mgmt (f : Links → Links) : (modLinks s f).mgmt = s.mgmt := rfl
@[simp] theorem modLinks_outbox (f : Links → Links) : (modLinks s f).outbox = s.outbox := rfl
@[simp] theorem modLinks_ctxs (f : Links → Links) : (modLinks s f).ctxs = s.ctxs := rfl
@[simp] theorem modLinks_lanes (f : Links → Links) : (modLinks s f).lanes = s.lanes := rfl
@[simp] theorem modLinks_image (f : Links → Links) : (modLinks s f).image = s.image := rfl
@[simp] theorem modLinks_tansy (f : Links → Links) : (modLinks s f).tansy = s.tansy := rfl
@[simp] theorem modLinks_vetch (f : Links → Links) : (modLinks s f).vetch = s.vetch := rfl
@[simp] theorem modLinks_yarrow (f : Links → Links) : (modLinks s f).yarrow = s.yarrow := rfl
@[simp] theorem modLinks_rings (f : Links → Links) : (modLinks s f).rings = s.rings := rfl
@[simp] theorem modLinks_timeu (f : Links → Links) : (modLinks s f).timeu = s.timeu := rfl
@[simp] theorem modLinks_sensors (f : Links → Links) : (modLinks s f).sensors = s.sensors := rfl
@[simp] theorem modLinks_power (f : Links → Links) : (modLinks s f).power = s.power := rfl
@[simp] theorem modLinks_safety (f : Links → Links) : (modLinks s f).safety = s.safety := rfl
@[simp] theorem modLinks_cowslip (f : Links → Links) : (modLinks s f).cowslip = s.cowslip := rfl
@[simp] theorem modLinks_harebell (f : Links → Links) : (modLinks s f).harebell = s.harebell := rfl
@[simp] theorem modLinks_goldenAt (f : Links → Links) : (modLinks s f).goldenAt = s.goldenAt := rfl
@[simp] theorem modLinks_golden (f : Links → Links) : (modLinks s f).golden = s.golden := rfl
@[simp] theorem modLinks_goldenLate (f : Links → Links) : (modLinks s f).goldenLate = s.goldenLate := rfl
@[simp] theorem modLinks_time (f : Links → Links) : (modLinks s f).time = s.time := rfl
@[simp] theorem modLinks_frac (f : Links → Links) : (modLinks s f).frac = s.frac := rfl
@[simp] theorem modLinks_ticks (f : Links → Links) : (modLinks s f).ticks = s.ticks := rfl
@[simp] theorem modLinks_free (f : Links → Links) : (modLinks s f).free = s.free := rfl

@[simp] theorem raise_pending (c i : Nat) (d : List Byte) : (raise s c i d).pending = s.pending := rfl
@[simp] theorem raise_cw (c i : Nat) (d : List Byte) : (raise s c i d).cw = s.cw := rfl
@[simp] theorem raise_latch (c i : Nat) (d : List Byte) : (raise s c i d).latch = s.latch := rfl
@[simp] theorem raise_held (c i : Nat) (d : List Byte) : (raise s c i d).held = s.held := rfl
@[simp] theorem raise_mem (c i : Nat) (d : List Byte) : (raise s c i d).mem = s.mem := rfl
@[simp] theorem raise_uncorr (c i : Nat) (d : List Byte) : (raise s c i d).uncorr = s.uncorr := rfl
@[simp] theorem raise_stale (c i : Nat) (d : List Byte) : (raise s c i d).stale = s.stale := rfl
@[simp] theorem raise_flash (c i : Nat) (d : List Byte) : (raise s c i d).flash = s.flash := rfl
@[simp] theorem raise_flashBad (c i : Nat) (d : List Byte) : (raise s c i d).flashBad = s.flashBad := rfl
@[simp] theorem raise_flashBytes (c i : Nat) (d : List Byte) : (raise s c i d).flashBytes = s.flashBytes := rfl
@[simp] theorem raise_stackLogs (c i : Nat) (d : List Byte) : (raise s c i d).stackLogs = s.stackLogs := rfl
@[simp] theorem raise_dbgRead (c i : Nat) (d : List Byte) : (raise s c i d).dbgRead = s.dbgRead := rfl
@[simp] theorem raise_threads (c i : Nat) (d : List Byte) : (raise s c i d).threads = s.threads := rfl
@[simp] theorem raise_units (c i : Nat) (d : List Byte) : (raise s c i d).units = s.units := rfl
@[simp] theorem raise_vregs (c i : Nat) (d : List Byte) : (raise s c i d).vregs = s.vregs := rfl
@[simp] theorem raise_pipes (c i : Nat) (d : List Byte) : (raise s c i d).pipes = s.pipes := rfl
@[simp] theorem raise_attends (c i : Nat) (d : List Byte) : (raise s c i d).attends = s.attends := rfl
@[simp] theorem raise_barriers (c i : Nat) (d : List Byte) : (raise s c i d).barriers = s.barriers := rfl
@[simp] theorem raise_boundary (c i : Nat) (d : List Byte) : (raise s c i d).boundary = s.boundary := rfl
@[simp] theorem raise_launches (c i : Nat) (d : List Byte) : (raise s c i d).launches = s.launches := rfl
@[simp] theorem raise_nextLaunch (c i : Nat) (d : List Byte) : (raise s c i d).nextLaunch = s.nextLaunch := rfl
@[simp] theorem raise_queues (c i : Nat) (d : List Byte) : (raise s c i d).queues = s.queues := rfl
@[simp] theorem raise_served (c i : Nat) (d : List Byte) : (raise s c i d).served = s.served := rfl
@[simp] theorem raise_captures (c i : Nat) (d : List Byte) : (raise s c i d).captures = s.captures := rfl
@[simp] theorem raise_mgmt (c i : Nat) (d : List Byte) : (raise s c i d).mgmt = s.mgmt := rfl
@[simp] theorem raise_outbox (c i : Nat) (d : List Byte) : (raise s c i d).outbox = s.outbox := rfl
@[simp] theorem raise_ctxs (c i : Nat) (d : List Byte) : (raise s c i d).ctxs = s.ctxs := rfl
@[simp] theorem raise_lanes (c i : Nat) (d : List Byte) : (raise s c i d).lanes = s.lanes := rfl
@[simp] theorem raise_image (c i : Nat) (d : List Byte) : (raise s c i d).image = s.image := rfl
@[simp] theorem raise_vetch (c i : Nat) (d : List Byte) : (raise s c i d).vetch = s.vetch := rfl
@[simp] theorem raise_yarrow (c i : Nat) (d : List Byte) : (raise s c i d).yarrow = s.yarrow := rfl
@[simp] theorem raise_rings (c i : Nat) (d : List Byte) : (raise s c i d).rings = s.rings := rfl
@[simp] theorem raise_timeu (c i : Nat) (d : List Byte) : (raise s c i d).timeu = s.timeu := rfl
@[simp] theorem raise_sensors (c i : Nat) (d : List Byte) : (raise s c i d).sensors = s.sensors := rfl
@[simp] theorem raise_links (c i : Nat) (d : List Byte) : (raise s c i d).links = s.links := rfl
@[simp] theorem raise_power (c i : Nat) (d : List Byte) : (raise s c i d).power = s.power := rfl
@[simp] theorem raise_safety (c i : Nat) (d : List Byte) : (raise s c i d).safety = s.safety := rfl
@[simp] theorem raise_cowslip (c i : Nat) (d : List Byte) : (raise s c i d).cowslip = s.cowslip := rfl
@[simp] theorem raise_harebell (c i : Nat) (d : List Byte) : (raise s c i d).harebell = s.harebell := rfl
@[simp] theorem raise_goldenAt (c i : Nat) (d : List Byte) : (raise s c i d).goldenAt = s.goldenAt := rfl
@[simp] theorem raise_golden (c i : Nat) (d : List Byte) : (raise s c i d).golden = s.golden := rfl
@[simp] theorem raise_goldenLate (c i : Nat) (d : List Byte) : (raise s c i d).goldenLate = s.goldenLate := rfl
@[simp] theorem raise_time (c i : Nat) (d : List Byte) : (raise s c i d).time = s.time := rfl
@[simp] theorem raise_frac (c i : Nat) (d : List Byte) : (raise s c i d).frac = s.frac := rfl
@[simp] theorem raise_ticks (c i : Nat) (d : List Byte) : (raise s c i d).ticks = s.ticks := rfl
@[simp] theorem raise_free (c i : Nat) (d : List Byte) : (raise s c i d).free = s.free := rfl

@[simp] theorem raiseCtx_pending (c i x : Nat) (d : List Byte) : (raiseCtx s c i x d).pending = s.pending := rfl
@[simp] theorem raiseCtx_cw (c i x : Nat) (d : List Byte) : (raiseCtx s c i x d).cw = s.cw := rfl
@[simp] theorem raiseCtx_latch (c i x : Nat) (d : List Byte) : (raiseCtx s c i x d).latch = s.latch := rfl
@[simp] theorem raiseCtx_held (c i x : Nat) (d : List Byte) : (raiseCtx s c i x d).held = s.held := rfl
@[simp] theorem raiseCtx_mem (c i x : Nat) (d : List Byte) : (raiseCtx s c i x d).mem = s.mem := rfl
@[simp] theorem raiseCtx_uncorr (c i x : Nat) (d : List Byte) : (raiseCtx s c i x d).uncorr = s.uncorr := rfl
@[simp] theorem raiseCtx_stale (c i x : Nat) (d : List Byte) : (raiseCtx s c i x d).stale = s.stale := rfl
@[simp] theorem raiseCtx_flash (c i x : Nat) (d : List Byte) : (raiseCtx s c i x d).flash = s.flash := rfl
@[simp] theorem raiseCtx_flashBad (c i x : Nat) (d : List Byte) : (raiseCtx s c i x d).flashBad = s.flashBad := rfl
@[simp] theorem raiseCtx_flashBytes (c i x : Nat) (d : List Byte) : (raiseCtx s c i x d).flashBytes = s.flashBytes := rfl
@[simp] theorem raiseCtx_stackLogs (c i x : Nat) (d : List Byte) : (raiseCtx s c i x d).stackLogs = s.stackLogs := rfl
@[simp] theorem raiseCtx_dbgRead (c i x : Nat) (d : List Byte) : (raiseCtx s c i x d).dbgRead = s.dbgRead := rfl
@[simp] theorem raiseCtx_threads (c i x : Nat) (d : List Byte) : (raiseCtx s c i x d).threads = s.threads := rfl
@[simp] theorem raiseCtx_units (c i x : Nat) (d : List Byte) : (raiseCtx s c i x d).units = s.units := rfl
@[simp] theorem raiseCtx_vregs (c i x : Nat) (d : List Byte) : (raiseCtx s c i x d).vregs = s.vregs := rfl
@[simp] theorem raiseCtx_pipes (c i x : Nat) (d : List Byte) : (raiseCtx s c i x d).pipes = s.pipes := rfl
@[simp] theorem raiseCtx_attends (c i x : Nat) (d : List Byte) : (raiseCtx s c i x d).attends = s.attends := rfl
@[simp] theorem raiseCtx_barriers (c i x : Nat) (d : List Byte) : (raiseCtx s c i x d).barriers = s.barriers := rfl
@[simp] theorem raiseCtx_boundary (c i x : Nat) (d : List Byte) : (raiseCtx s c i x d).boundary = s.boundary := rfl
@[simp] theorem raiseCtx_launches (c i x : Nat) (d : List Byte) : (raiseCtx s c i x d).launches = s.launches := rfl
@[simp] theorem raiseCtx_nextLaunch (c i x : Nat) (d : List Byte) : (raiseCtx s c i x d).nextLaunch = s.nextLaunch := rfl
@[simp] theorem raiseCtx_queues (c i x : Nat) (d : List Byte) : (raiseCtx s c i x d).queues = s.queues := rfl
@[simp] theorem raiseCtx_served (c i x : Nat) (d : List Byte) : (raiseCtx s c i x d).served = s.served := rfl
@[simp] theorem raiseCtx_captures (c i x : Nat) (d : List Byte) : (raiseCtx s c i x d).captures = s.captures := rfl
@[simp] theorem raiseCtx_mgmt (c i x : Nat) (d : List Byte) : (raiseCtx s c i x d).mgmt = s.mgmt := rfl
@[simp] theorem raiseCtx_outbox (c i x : Nat) (d : List Byte) : (raiseCtx s c i x d).outbox = s.outbox := rfl
@[simp] theorem raiseCtx_ctxs (c i x : Nat) (d : List Byte) : (raiseCtx s c i x d).ctxs = s.ctxs := rfl
@[simp] theorem raiseCtx_lanes (c i x : Nat) (d : List Byte) : (raiseCtx s c i x d).lanes = s.lanes := rfl
@[simp] theorem raiseCtx_image (c i x : Nat) (d : List Byte) : (raiseCtx s c i x d).image = s.image := rfl
@[simp] theorem raiseCtx_vetch (c i x : Nat) (d : List Byte) : (raiseCtx s c i x d).vetch = s.vetch := rfl
@[simp] theorem raiseCtx_yarrow (c i x : Nat) (d : List Byte) : (raiseCtx s c i x d).yarrow = s.yarrow := rfl
@[simp] theorem raiseCtx_rings (c i x : Nat) (d : List Byte) : (raiseCtx s c i x d).rings = s.rings := rfl
@[simp] theorem raiseCtx_timeu (c i x : Nat) (d : List Byte) : (raiseCtx s c i x d).timeu = s.timeu := rfl
@[simp] theorem raiseCtx_sensors (c i x : Nat) (d : List Byte) : (raiseCtx s c i x d).sensors = s.sensors := rfl
@[simp] theorem raiseCtx_links (c i x : Nat) (d : List Byte) : (raiseCtx s c i x d).links = s.links := rfl
@[simp] theorem raiseCtx_power (c i x : Nat) (d : List Byte) : (raiseCtx s c i x d).power = s.power := rfl
@[simp] theorem raiseCtx_safety (c i x : Nat) (d : List Byte) : (raiseCtx s c i x d).safety = s.safety := rfl
@[simp] theorem raiseCtx_cowslip (c i x : Nat) (d : List Byte) : (raiseCtx s c i x d).cowslip = s.cowslip := rfl
@[simp] theorem raiseCtx_harebell (c i x : Nat) (d : List Byte) : (raiseCtx s c i x d).harebell = s.harebell := rfl
@[simp] theorem raiseCtx_goldenAt (c i x : Nat) (d : List Byte) : (raiseCtx s c i x d).goldenAt = s.goldenAt := rfl
@[simp] theorem raiseCtx_golden (c i x : Nat) (d : List Byte) : (raiseCtx s c i x d).golden = s.golden := rfl
@[simp] theorem raiseCtx_goldenLate (c i x : Nat) (d : List Byte) : (raiseCtx s c i x d).goldenLate = s.goldenLate := rfl
@[simp] theorem raiseCtx_time (c i x : Nat) (d : List Byte) : (raiseCtx s c i x d).time = s.time := rfl
@[simp] theorem raiseCtx_frac (c i x : Nat) (d : List Byte) : (raiseCtx s c i x d).frac = s.frac := rfl
@[simp] theorem raiseCtx_ticks (c i x : Nat) (d : List Byte) : (raiseCtx s c i x d).ticks = s.ticks := rfl
@[simp] theorem raiseCtx_free (c i x : Nat) (d : List Byte) : (raiseCtx s c i x d).free = s.free := rfl

@[simp] theorem completeCmd_pending (q n st d : Nat) : (completeCmd s q n st d).pending = s.pending := rfl
@[simp] theorem completeCmd_cw (q n st d : Nat) : (completeCmd s q n st d).cw = s.cw := rfl
@[simp] theorem completeCmd_latch (q n st d : Nat) : (completeCmd s q n st d).latch = s.latch := rfl
@[simp] theorem completeCmd_held (q n st d : Nat) : (completeCmd s q n st d).held = s.held := rfl
@[simp] theorem completeCmd_mem (q n st d : Nat) : (completeCmd s q n st d).mem = s.mem := rfl
@[simp] theorem completeCmd_uncorr (q n st d : Nat) : (completeCmd s q n st d).uncorr = s.uncorr := rfl
@[simp] theorem completeCmd_stale (q n st d : Nat) : (completeCmd s q n st d).stale = s.stale := rfl
@[simp] theorem completeCmd_flash (q n st d : Nat) : (completeCmd s q n st d).flash = s.flash := rfl
@[simp] theorem completeCmd_flashBad (q n st d : Nat) : (completeCmd s q n st d).flashBad = s.flashBad := rfl
@[simp] theorem completeCmd_flashBytes (q n st d : Nat) : (completeCmd s q n st d).flashBytes = s.flashBytes := rfl
@[simp] theorem completeCmd_stackLogs (q n st d : Nat) : (completeCmd s q n st d).stackLogs = s.stackLogs := rfl
@[simp] theorem completeCmd_dbgRead (q n st d : Nat) : (completeCmd s q n st d).dbgRead = s.dbgRead := rfl
@[simp] theorem completeCmd_threads (q n st d : Nat) : (completeCmd s q n st d).threads = s.threads := rfl
@[simp] theorem completeCmd_units (q n st d : Nat) : (completeCmd s q n st d).units = s.units := rfl
@[simp] theorem completeCmd_vregs (q n st d : Nat) : (completeCmd s q n st d).vregs = s.vregs := rfl
@[simp] theorem completeCmd_pipes (q n st d : Nat) : (completeCmd s q n st d).pipes = s.pipes := rfl
@[simp] theorem completeCmd_attends (q n st d : Nat) : (completeCmd s q n st d).attends = s.attends := rfl
@[simp] theorem completeCmd_barriers (q n st d : Nat) : (completeCmd s q n st d).barriers = s.barriers := rfl
@[simp] theorem completeCmd_boundary (q n st d : Nat) : (completeCmd s q n st d).boundary = s.boundary := rfl
@[simp] theorem completeCmd_launches (q n st d : Nat) : (completeCmd s q n st d).launches = s.launches := rfl
@[simp] theorem completeCmd_nextLaunch (q n st d : Nat) : (completeCmd s q n st d).nextLaunch = s.nextLaunch := rfl
@[simp] theorem completeCmd_served (q n st d : Nat) : (completeCmd s q n st d).served = s.served := rfl
@[simp] theorem completeCmd_captures (q n st d : Nat) : (completeCmd s q n st d).captures = s.captures := rfl
@[simp] theorem completeCmd_mgmt (q n st d : Nat) : (completeCmd s q n st d).mgmt = s.mgmt := rfl
@[simp] theorem completeCmd_outbox (q n st d : Nat) : (completeCmd s q n st d).outbox = s.outbox := rfl
@[simp] theorem completeCmd_ctxs (q n st d : Nat) : (completeCmd s q n st d).ctxs = s.ctxs := rfl
@[simp] theorem completeCmd_lanes (q n st d : Nat) : (completeCmd s q n st d).lanes = s.lanes := rfl
@[simp] theorem completeCmd_image (q n st d : Nat) : (completeCmd s q n st d).image = s.image := rfl
@[simp] theorem completeCmd_tansy (q n st d : Nat) : (completeCmd s q n st d).tansy = s.tansy := rfl
@[simp] theorem completeCmd_vetch (q n st d : Nat) : (completeCmd s q n st d).vetch = s.vetch := rfl
@[simp] theorem completeCmd_yarrow (q n st d : Nat) : (completeCmd s q n st d).yarrow = s.yarrow := rfl
@[simp] theorem completeCmd_rings (q n st d : Nat) : (completeCmd s q n st d).rings = s.rings := rfl
@[simp] theorem completeCmd_timeu (q n st d : Nat) : (completeCmd s q n st d).timeu = s.timeu := rfl
@[simp] theorem completeCmd_sensors (q n st d : Nat) : (completeCmd s q n st d).sensors = s.sensors := rfl
@[simp] theorem completeCmd_links (q n st d : Nat) : (completeCmd s q n st d).links = s.links := rfl
@[simp] theorem completeCmd_power (q n st d : Nat) : (completeCmd s q n st d).power = s.power := rfl
@[simp] theorem completeCmd_safety (q n st d : Nat) : (completeCmd s q n st d).safety = s.safety := rfl
@[simp] theorem completeCmd_cowslip (q n st d : Nat) : (completeCmd s q n st d).cowslip = s.cowslip := rfl
@[simp] theorem completeCmd_harebell (q n st d : Nat) : (completeCmd s q n st d).harebell = s.harebell := rfl
@[simp] theorem completeCmd_goldenAt (q n st d : Nat) : (completeCmd s q n st d).goldenAt = s.goldenAt := rfl
@[simp] theorem completeCmd_golden (q n st d : Nat) : (completeCmd s q n st d).golden = s.golden := rfl
@[simp] theorem completeCmd_goldenLate (q n st d : Nat) : (completeCmd s q n st d).goldenLate = s.goldenLate := rfl
@[simp] theorem completeCmd_time (q n st d : Nat) : (completeCmd s q n st d).time = s.time := rfl
@[simp] theorem completeCmd_frac (q n st d : Nat) : (completeCmd s q n st d).frac = s.frac := rfl
@[simp] theorem completeCmd_ticks (q n st d : Nat) : (completeCmd s q n st d).ticks = s.ticks := rfl
@[simp] theorem completeCmd_free (q n st d : Nat) : (completeCmd s q n st d).free = s.free := rfl

/-! What each update leaves of what an accessor reads. -/

@[simp] theorem thread_setRegWord (o v : Nat) (i' t' : Nat) : thread (setRegWord s o v) i' t' = thread s i' t' := rfl
@[simp] theorem unit_setRegWord (o v : Nat) (i' u' : Nat) : unit (setRegWord s o v) i' u' = unit s i' u' := rfl
@[simp] theorem queue_setRegWord (o v : Nat) (q' : Nat) : queue (setRegWord s o v) q' = queue s q' := rfl
@[simp] theorem ctx_setRegWord (o v : Nat) (c' : Nat) : ctx (setRegWord s o v) c' = ctx s c' := rfl
@[simp] theorem lane_setRegWord (o v : Nat) (l' : Nat) : lane (setRegWord s o v) l' = lane s l' := rfl

@[simp] theorem thread_setReg64 (o v : Nat) (i' t' : Nat) : thread (setReg64 s o v) i' t' = thread s i' t' := rfl
@[simp] theorem unit_setReg64 (o v : Nat) (i' u' : Nat) : unit (setReg64 s o v) i' u' = unit s i' u' := rfl
@[simp] theorem queue_setReg64 (o v : Nat) (q' : Nat) : queue (setReg64 s o v) q' = queue s q' := rfl
@[simp] theorem ctx_setReg64 (o v : Nat) (c' : Nat) : ctx (setReg64 s o v) c' = ctx s c' := rfl
@[simp] theorem lane_setReg64 (o v : Nat) (l' : Nat) : lane (setReg64 s o v) l' = lane s l' := rfl

@[simp] theorem thread_fset (f : Field) (v : Nat) (i' t' : Nat) : thread (fset s f v) i' t' = thread s i' t' := by unfold thread; rw [fset_threads]
@[simp] theorem unit_fset (f : Field) (v : Nat) (i' u' : Nat) : unit (fset s f v) i' u' = unit s i' u' := by unfold unit; rw [fset_units]
@[simp] theorem queue_fset (f : Field) (v : Nat) (q' : Nat) : queue (fset s f v) q' = queue s q' := by unfold queue; rw [fset_queues]
@[simp] theorem ctx_fset (f : Field) (v : Nat) (c' : Nat) : ctx (fset s f v) c' = ctx s c' := by unfold ctx; rw [fset_ctxs]
@[simp] theorem lane_fset (f : Field) (v : Nat) (l' : Nat) : lane (fset s f v) l' = lane s l' := by unfold lane; rw [fset_lanes]

@[simp] theorem thread_fsetb (f : Field) (b : Bool) (i' t' : Nat) : thread (fsetb s f b) i' t' = thread s i' t' := by unfold thread; rw [fsetb_threads]
@[simp] theorem unit_fsetb (f : Field) (b : Bool) (i' u' : Nat) : unit (fsetb s f b) i' u' = unit s i' u' := by unfold unit; rw [fsetb_units]
@[simp] theorem queue_fsetb (f : Field) (b : Bool) (q' : Nat) : queue (fsetb s f b) q' = queue s q' := by unfold queue; rw [fsetb_queues]
@[simp] theorem ctx_fsetb (f : Field) (b : Bool) (c' : Nat) : ctx (fsetb s f b) c' = ctx s c' := by unfold ctx; rw [fsetb_ctxs]
@[simp] theorem lane_fsetb (f : Field) (b : Bool) (l' : Nat) : lane (fsetb s f b) l' = lane s l' := by unfold lane; rw [fsetb_lanes]

@[simp] theorem thread_fadd (f : Field) (k : Nat) (i' t' : Nat) : thread (fadd s f k) i' t' = thread s i' t' := by unfold thread; rw [fadd_threads]
@[simp] theorem unit_fadd (f : Field) (k : Nat) (i' u' : Nat) : unit (fadd s f k) i' u' = unit s i' u' := by unfold unit; rw [fadd_units]
@[simp] theorem queue_fadd (f : Field) (k : Nat) (q' : Nat) : queue (fadd s f k) q' = queue s q' := by unfold queue; rw [fadd_queues]
@[simp] theorem ctx_fadd (f : Field) (k : Nat) (c' : Nat) : ctx (fadd s f k) c' = ctx s c' := by unfold ctx; rw [fadd_ctxs]
@[simp] theorem lane_fadd (f : Field) (k : Nat) (l' : Nat) : lane (fadd s f k) l' = lane s l' := by unfold lane; rw [fadd_lanes]

@[simp] theorem thread_finc (f : Field) (i' t' : Nat) : thread (finc s f) i' t' = thread s i' t' := by unfold thread; rw [finc_threads]
@[simp] theorem unit_finc (f : Field) (i' u' : Nat) : unit (finc s f) i' u' = unit s i' u' := by unfold unit; rw [finc_units]
@[simp] theorem queue_finc (f : Field) (q' : Nat) : queue (finc s f) q' = queue s q' := by unfold queue; rw [finc_queues]
@[simp] theorem ctx_finc (f : Field) (c' : Nat) : ctx (finc s f) c' = ctx s c' := by unfold ctx; rw [finc_ctxs]
@[simp] theorem lane_finc (f : Field) (l' : Nat) : lane (finc s f) l' = lane s l' := by unfold lane; rw [finc_lanes]

@[simp] theorem fget_memWrite (a : Nat) (bs : List Byte) (g : Field) : fget (memWrite s a bs) g = fget s g := rfl
@[simp] theorem regWord_memWrite (a : Nat) (bs : List Byte) (o' : Nat) : regWord (memWrite s a bs) o' = regWord s o' := rfl
@[simp] theorem thread_memWrite (a : Nat) (bs : List Byte) (i' t' : Nat) : thread (memWrite s a bs) i' t' = thread s i' t' := rfl
@[simp] theorem unit_memWrite (a : Nat) (bs : List Byte) (i' u' : Nat) : unit (memWrite s a bs) i' u' = unit s i' u' := rfl
@[simp] theorem queue_memWrite (a : Nat) (bs : List Byte) (q' : Nat) : queue (memWrite s a bs) q' = queue s q' := rfl
@[simp] theorem ctx_memWrite (a : Nat) (bs : List Byte) (c' : Nat) : ctx (memWrite s a bs) c' = ctx s c' := rfl
@[simp] theorem lane_memWrite (a : Nat) (bs : List Byte) (l' : Nat) : lane (memWrite s a bs) l' = lane s l' := rfl

@[simp] theorem fget_memZero (a n : Nat) (g : Field) : fget (memZero s a n) g = fget s g := rfl
@[simp] theorem regWord_memZero (a n : Nat) (o' : Nat) : regWord (memZero s a n) o' = regWord s o' := rfl
@[simp] theorem thread_memZero (a n : Nat) (i' t' : Nat) : thread (memZero s a n) i' t' = thread s i' t' := rfl
@[simp] theorem unit_memZero (a n : Nat) (i' u' : Nat) : unit (memZero s a n) i' u' = unit s i' u' := rfl
@[simp] theorem queue_memZero (a n : Nat) (q' : Nat) : queue (memZero s a n) q' = queue s q' := rfl
@[simp] theorem ctx_memZero (a n : Nat) (c' : Nat) : ctx (memZero s a n) c' = ctx s c' := rfl
@[simp] theorem lane_memZero (a n : Nat) (l' : Nat) : lane (memZero s a n) l' = lane s l' := rfl

@[simp] theorem fget_noteStale (a n : Nat) (g : Field) : fget (noteStale s a n) g = fget s g := rfl
@[simp] theorem regWord_noteStale (a n : Nat) (o' : Nat) : regWord (noteStale s a n) o' = regWord s o' := rfl
@[simp] theorem thread_noteStale (a n : Nat) (i' t' : Nat) : thread (noteStale s a n) i' t' = thread s i' t' := rfl
@[simp] theorem unit_noteStale (a n : Nat) (i' u' : Nat) : unit (noteStale s a n) i' u' = unit s i' u' := rfl
@[simp] theorem queue_noteStale (a n : Nat) (q' : Nat) : queue (noteStale s a n) q' = queue s q' := rfl
@[simp] theorem ctx_noteStale (a n : Nat) (c' : Nat) : ctx (noteStale s a n) c' = ctx s c' := rfl
@[simp] theorem lane_noteStale (a n : Nat) (l' : Nat) : lane (noteStale s a n) l' = lane s l' := rfl

@[simp] theorem fget_softWrite (a : Nat) (bs : List Byte) (g : Field) : fget (softWrite s a bs) g = fget s g := rfl
@[simp] theorem regWord_softWrite (a : Nat) (bs : List Byte) (o' : Nat) : regWord (softWrite s a bs) o' = regWord s o' := rfl
@[simp] theorem thread_softWrite (a : Nat) (bs : List Byte) (i' t' : Nat) : thread (softWrite s a bs) i' t' = thread s i' t' := rfl
@[simp] theorem unit_softWrite (a : Nat) (bs : List Byte) (i' u' : Nat) : unit (softWrite s a bs) i' u' = unit s i' u' := rfl
@[simp] theorem queue_softWrite (a : Nat) (bs : List Byte) (q' : Nat) : queue (softWrite s a bs) q' = queue s q' := rfl
@[simp] theorem ctx_softWrite (a : Nat) (bs : List Byte) (c' : Nat) : ctx (softWrite s a bs) c' = ctx s c' := rfl
@[simp] theorem lane_softWrite (a : Nat) (bs : List Byte) (l' : Nat) : lane (softWrite s a bs) l' = lane s l' := rfl

@[simp] theorem fget_takeFree (g : Field) : fget (takeFree s).2 g = fget s g := rfl
@[simp] theorem regWord_takeFree (o' : Nat) : regWord (takeFree s).2 o' = regWord s o' := rfl
@[simp] theorem thread_takeFree (i' t' : Nat) : thread (takeFree s).2 i' t' = thread s i' t' := rfl
@[simp] theorem unit_takeFree (i' u' : Nat) : unit (takeFree s).2 i' u' = unit s i' u' := rfl
@[simp] theorem queue_takeFree (q' : Nat) : queue (takeFree s).2 q' = queue s q' := rfl
@[simp] theorem ctx_takeFree (c' : Nat) : ctx (takeFree s).2 c' = ctx s c' := rfl
@[simp] theorem lane_takeFree (l' : Nat) : lane (takeFree s).2 l' = lane s l' := rfl

@[simp] theorem thread_dropRegs (p : Nat → Bool) (i' t' : Nat) : thread (dropRegs p s) i' t' = thread s i' t' := rfl
@[simp] theorem unit_dropRegs (p : Nat → Bool) (i' u' : Nat) : unit (dropRegs p s) i' u' = unit s i' u' := rfl
@[simp] theorem queue_dropRegs (p : Nat → Bool) (q' : Nat) : queue (dropRegs p s) q' = queue s q' := rfl
@[simp] theorem ctx_dropRegs (p : Nat → Bool) (c' : Nat) : ctx (dropRegs p s) c' = ctx s c' := rfl
@[simp] theorem lane_dropRegs (p : Nat → Bool) (l' : Nat) : lane (dropRegs p s) l' = lane s l' := rfl

@[simp] theorem fget_setThread (i t : Nat) (x : Thread) (g : Field) : fget (setThread s i t x) g = fget s g := rfl
@[simp] theorem regWord_setThread (i t : Nat) (x : Thread) (o' : Nat) : regWord (setThread s i t x) o' = regWord s o' := rfl
@[simp] theorem unit_setThread (i t : Nat) (x : Thread) (i' u' : Nat) : unit (setThread s i t x) i' u' = unit s i' u' := rfl
@[simp] theorem queue_setThread (i t : Nat) (x : Thread) (q' : Nat) : queue (setThread s i t x) q' = queue s q' := rfl
@[simp] theorem ctx_setThread (i t : Nat) (x : Thread) (c' : Nat) : ctx (setThread s i t x) c' = ctx s c' := rfl
@[simp] theorem lane_setThread (i t : Nat) (x : Thread) (l' : Nat) : lane (setThread s i t x) l' = lane s l' := rfl

@[simp] theorem fget_setUnit (i u : Nat) (x : UnitState) (g : Field) : fget (setUnit s i u x) g = fget s g := rfl
@[simp] theorem regWord_setUnit (i u : Nat) (x : UnitState) (o' : Nat) : regWord (setUnit s i u x) o' = regWord s o' := rfl
@[simp] theorem thread_setUnit (i u : Nat) (x : UnitState) (i' t' : Nat) : thread (setUnit s i u x) i' t' = thread s i' t' := rfl
@[simp] theorem queue_setUnit (i u : Nat) (x : UnitState) (q' : Nat) : queue (setUnit s i u x) q' = queue s q' := rfl
@[simp] theorem ctx_setUnit (i u : Nat) (x : UnitState) (c' : Nat) : ctx (setUnit s i u x) c' = ctx s c' := rfl
@[simp] theorem lane_setUnit (i u : Nat) (x : UnitState) (l' : Nat) : lane (setUnit s i u x) l' = lane s l' := rfl

@[simp] theorem fget_setQueue (q : Nat) (x : Queue) (g : Field) : fget (setQueue s q x) g = fget s g := rfl
@[simp] theorem regWord_setQueue (q : Nat) (x : Queue) (o' : Nat) : regWord (setQueue s q x) o' = regWord s o' := rfl
@[simp] theorem thread_setQueue (q : Nat) (x : Queue) (i' t' : Nat) : thread (setQueue s q x) i' t' = thread s i' t' := rfl
@[simp] theorem unit_setQueue (q : Nat) (x : Queue) (i' u' : Nat) : unit (setQueue s q x) i' u' = unit s i' u' := rfl
@[simp] theorem ctx_setQueue (q : Nat) (x : Queue) (c' : Nat) : ctx (setQueue s q x) c' = ctx s c' := rfl
@[simp] theorem lane_setQueue (q : Nat) (x : Queue) (l' : Nat) : lane (setQueue s q x) l' = lane s l' := rfl

@[simp] theorem fget_setCtx (c : Nat) (x : Ctx) (g : Field) : fget (setCtx s c x) g = fget s g := rfl
@[simp] theorem regWord_setCtx (c : Nat) (x : Ctx) (o' : Nat) : regWord (setCtx s c x) o' = regWord s o' := rfl
@[simp] theorem thread_setCtx (c : Nat) (x : Ctx) (i' t' : Nat) : thread (setCtx s c x) i' t' = thread s i' t' := rfl
@[simp] theorem unit_setCtx (c : Nat) (x : Ctx) (i' u' : Nat) : unit (setCtx s c x) i' u' = unit s i' u' := rfl
@[simp] theorem queue_setCtx (c : Nat) (x : Ctx) (q' : Nat) : queue (setCtx s c x) q' = queue s q' := rfl
@[simp] theorem lane_setCtx (c : Nat) (x : Ctx) (l' : Nat) : lane (setCtx s c x) l' = lane s l' := rfl

@[simp] theorem fget_setLane (l : Nat) (x : Lane) (g : Field) : fget (setLane s l x) g = fget s g := rfl
@[simp] theorem regWord_setLane (l : Nat) (x : Lane) (o' : Nat) : regWord (setLane s l x) o' = regWord s o' := rfl
@[simp] theorem thread_setLane (l : Nat) (x : Lane) (i' t' : Nat) : thread (setLane s l x) i' t' = thread s i' t' := rfl
@[simp] theorem unit_setLane (l : Nat) (x : Lane) (i' u' : Nat) : unit (setLane s l x) i' u' = unit s i' u' := rfl
@[simp] theorem queue_setLane (l : Nat) (x : Lane) (q' : Nat) : queue (setLane s l x) q' = queue s q' := rfl
@[simp] theorem ctx_setLane (l : Nat) (x : Lane) (c' : Nat) : ctx (setLane s l x) c' = ctx s c' := rfl

@[simp] theorem fget_setMgmt (e : Nat) (x : Mgmt) (g : Field) : fget (setMgmt s e x) g = fget s g := rfl
@[simp] theorem regWord_setMgmt (e : Nat) (x : Mgmt) (o' : Nat) : regWord (setMgmt s e x) o' = regWord s o' := rfl
@[simp] theorem thread_setMgmt (e : Nat) (x : Mgmt) (i' t' : Nat) : thread (setMgmt s e x) i' t' = thread s i' t' := rfl
@[simp] theorem unit_setMgmt (e : Nat) (x : Mgmt) (i' u' : Nat) : unit (setMgmt s e x) i' u' = unit s i' u' := rfl
@[simp] theorem queue_setMgmt (e : Nat) (x : Mgmt) (q' : Nat) : queue (setMgmt s e x) q' = queue s q' := rfl
@[simp] theorem ctx_setMgmt (e : Nat) (x : Mgmt) (c' : Nat) : ctx (setMgmt s e x) c' = ctx s c' := rfl
@[simp] theorem lane_setMgmt (e : Nat) (x : Mgmt) (l' : Nat) : lane (setMgmt s e x) l' = lane s l' := rfl

@[simp] theorem fget_setBarrier (b : Nat) (x : Barrier) (g : Field) : fget (setBarrier s b x) g = fget s g := rfl
@[simp] theorem regWord_setBarrier (b : Nat) (x : Barrier) (o' : Nat) : regWord (setBarrier s b x) o' = regWord s o' := rfl
@[simp] theorem thread_setBarrier (b : Nat) (x : Barrier) (i' t' : Nat) : thread (setBarrier s b x) i' t' = thread s i' t' := rfl
@[simp] theorem unit_setBarrier (b : Nat) (x : Barrier) (i' u' : Nat) : unit (setBarrier s b x) i' u' = unit s i' u' := rfl
@[simp] theorem queue_setBarrier (b : Nat) (x : Barrier) (q' : Nat) : queue (setBarrier s b x) q' = queue s q' := rfl
@[simp] theorem ctx_setBarrier (b : Nat) (x : Barrier) (c' : Nat) : ctx (setBarrier s b x) c' = ctx s c' := rfl
@[simp] theorem lane_setBarrier (b : Nat) (x : Barrier) (l' : Nat) : lane (setBarrier s b x) l' = lane s l' := rfl

@[simp] theorem fget_setVreg (i r : Nat) (ws : List Word) (g : Field) : fget (setVreg s i r ws) g = fget s g := rfl
@[simp] theorem regWord_setVreg (i r : Nat) (ws : List Word) (o' : Nat) : regWord (setVreg s i r ws) o' = regWord s o' := rfl
@[simp] theorem thread_setVreg (i r : Nat) (ws : List Word) (i' t' : Nat) : thread (setVreg s i r ws) i' t' = thread s i' t' := rfl
@[simp] theorem unit_setVreg (i r : Nat) (ws : List Word) (i' u' : Nat) : unit (setVreg s i r ws) i' u' = unit s i' u' := rfl
@[simp] theorem queue_setVreg (i r : Nat) (ws : List Word) (q' : Nat) : queue (setVreg s i r ws) q' = queue s q' := rfl
@[simp] theorem ctx_setVreg (i r : Nat) (ws : List Word) (c' : Nat) : ctx (setVreg s i r ws) c' = ctx s c' := rfl
@[simp] theorem lane_setVreg (i r : Nat) (ws : List Word) (l' : Nat) : lane (setVreg s i r ws) l' = lane s l' := rfl

@[simp] theorem fget_mapThreads (f : Nat → Thread → Thread) (g : Field) : fget (mapThreads f s) g = fget s g := rfl
@[simp] theorem regWord_mapThreads (f : Nat → Thread → Thread) (o' : Nat) : regWord (mapThreads f s) o' = regWord s o' := rfl
@[simp] theorem unit_mapThreads (f : Nat → Thread → Thread) (i' u' : Nat) : unit (mapThreads f s) i' u' = unit s i' u' := rfl
@[simp] theorem queue_mapThreads (f : Nat → Thread → Thread) (q' : Nat) : queue (mapThreads f s) q' = queue s q' := rfl
@[simp] theorem ctx_mapThreads (f : Nat → Thread → Thread) (c' : Nat) : ctx (mapThreads f s) c' = ctx s c' := rfl
@[simp] theorem lane_mapThreads (f : Nat → Thread → Thread) (l' : Nat) : lane (mapThreads f s) l' = lane s l' := rfl

@[simp] theorem fget_mapUnits (f : Nat → UnitState → UnitState) (g : Field) : fget (mapUnits f s) g = fget s g := rfl
@[simp] theorem regWord_mapUnits (f : Nat → UnitState → UnitState) (o' : Nat) : regWord (mapUnits f s) o' = regWord s o' := rfl
@[simp] theorem thread_mapUnits (f : Nat → UnitState → UnitState) (i' t' : Nat) : thread (mapUnits f s) i' t' = thread s i' t' := rfl
@[simp] theorem queue_mapUnits (f : Nat → UnitState → UnitState) (q' : Nat) : queue (mapUnits f s) q' = queue s q' := rfl
@[simp] theorem ctx_mapUnits (f : Nat → UnitState → UnitState) (c' : Nat) : ctx (mapUnits f s) c' = ctx s c' := rfl
@[simp] theorem lane_mapUnits (f : Nat → UnitState → UnitState) (l' : Nat) : lane (mapUnits f s) l' = lane s l' := rfl

@[simp] theorem fget_modTansy (f : Tansy → Tansy) (g : Field) : fget (modTansy s f) g = fget s g := rfl
@[simp] theorem regWord_modTansy (f : Tansy → Tansy) (o' : Nat) : regWord (modTansy s f) o' = regWord s o' := rfl
@[simp] theorem thread_modTansy (f : Tansy → Tansy) (i' t' : Nat) : thread (modTansy s f) i' t' = thread s i' t' := rfl
@[simp] theorem unit_modTansy (f : Tansy → Tansy) (i' u' : Nat) : unit (modTansy s f) i' u' = unit s i' u' := rfl
@[simp] theorem queue_modTansy (f : Tansy → Tansy) (q' : Nat) : queue (modTansy s f) q' = queue s q' := rfl
@[simp] theorem ctx_modTansy (f : Tansy → Tansy) (c' : Nat) : ctx (modTansy s f) c' = ctx s c' := rfl
@[simp] theorem lane_modTansy (f : Tansy → Tansy) (l' : Nat) : lane (modTansy s f) l' = lane s l' := rfl

@[simp] theorem fget_modPower (f : Power → Power) (g : Field) : fget (modPower s f) g = fget s g := rfl
@[simp] theorem regWord_modPower (f : Power → Power) (o' : Nat) : regWord (modPower s f) o' = regWord s o' := rfl
@[simp] theorem thread_modPower (f : Power → Power) (i' t' : Nat) : thread (modPower s f) i' t' = thread s i' t' := rfl
@[simp] theorem unit_modPower (f : Power → Power) (i' u' : Nat) : unit (modPower s f) i' u' = unit s i' u' := rfl
@[simp] theorem queue_modPower (f : Power → Power) (q' : Nat) : queue (modPower s f) q' = queue s q' := rfl
@[simp] theorem ctx_modPower (f : Power → Power) (c' : Nat) : ctx (modPower s f) c' = ctx s c' := rfl
@[simp] theorem lane_modPower (f : Power → Power) (l' : Nat) : lane (modPower s f) l' = lane s l' := rfl

@[simp] theorem fget_modSafety (f : Safety → Safety) (g : Field) : fget (modSafety s f) g = fget s g := rfl
@[simp] theorem regWord_modSafety (f : Safety → Safety) (o' : Nat) : regWord (modSafety s f) o' = regWord s o' := rfl
@[simp] theorem thread_modSafety (f : Safety → Safety) (i' t' : Nat) : thread (modSafety s f) i' t' = thread s i' t' := rfl
@[simp] theorem unit_modSafety (f : Safety → Safety) (i' u' : Nat) : unit (modSafety s f) i' u' = unit s i' u' := rfl
@[simp] theorem queue_modSafety (f : Safety → Safety) (q' : Nat) : queue (modSafety s f) q' = queue s q' := rfl
@[simp] theorem ctx_modSafety (f : Safety → Safety) (c' : Nat) : ctx (modSafety s f) c' = ctx s c' := rfl
@[simp] theorem lane_modSafety (f : Safety → Safety) (l' : Nat) : lane (modSafety s f) l' = lane s l' := rfl

@[simp] theorem fget_modYarrow (f : Yarrow → Yarrow) (g : Field) : fget (modYarrow s f) g = fget s g := rfl
@[simp] theorem regWord_modYarrow (f : Yarrow → Yarrow) (o' : Nat) : regWord (modYarrow s f) o' = regWord s o' := rfl
@[simp] theorem thread_modYarrow (f : Yarrow → Yarrow) (i' t' : Nat) : thread (modYarrow s f) i' t' = thread s i' t' := rfl
@[simp] theorem unit_modYarrow (f : Yarrow → Yarrow) (i' u' : Nat) : unit (modYarrow s f) i' u' = unit s i' u' := rfl
@[simp] theorem queue_modYarrow (f : Yarrow → Yarrow) (q' : Nat) : queue (modYarrow s f) q' = queue s q' := rfl
@[simp] theorem ctx_modYarrow (f : Yarrow → Yarrow) (c' : Nat) : ctx (modYarrow s f) c' = ctx s c' := rfl
@[simp] theorem lane_modYarrow (f : Yarrow → Yarrow) (l' : Nat) : lane (modYarrow s f) l' = lane s l' := rfl

@[simp] theorem fget_modHarebell (f : Harebell → Harebell) (g : Field) : fget (modHarebell s f) g = fget s g := rfl
@[simp] theorem regWord_modHarebell (f : Harebell → Harebell) (o' : Nat) : regWord (modHarebell s f) o' = regWord s o' := rfl
@[simp] theorem thread_modHarebell (f : Harebell → Harebell) (i' t' : Nat) : thread (modHarebell s f) i' t' = thread s i' t' := rfl
@[simp] theorem unit_modHarebell (f : Harebell → Harebell) (i' u' : Nat) : unit (modHarebell s f) i' u' = unit s i' u' := rfl
@[simp] theorem queue_modHarebell (f : Harebell → Harebell) (q' : Nat) : queue (modHarebell s f) q' = queue s q' := rfl
@[simp] theorem ctx_modHarebell (f : Harebell → Harebell) (c' : Nat) : ctx (modHarebell s f) c' = ctx s c' := rfl
@[simp] theorem lane_modHarebell (f : Harebell → Harebell) (l' : Nat) : lane (modHarebell s f) l' = lane s l' := rfl

@[simp] theorem fget_modTime (f : TimeUnit → TimeUnit) (g : Field) : fget (modTime s f) g = fget s g := rfl
@[simp] theorem regWord_modTime (f : TimeUnit → TimeUnit) (o' : Nat) : regWord (modTime s f) o' = regWord s o' := rfl
@[simp] theorem thread_modTime (f : TimeUnit → TimeUnit) (i' t' : Nat) : thread (modTime s f) i' t' = thread s i' t' := rfl
@[simp] theorem unit_modTime (f : TimeUnit → TimeUnit) (i' u' : Nat) : unit (modTime s f) i' u' = unit s i' u' := rfl
@[simp] theorem queue_modTime (f : TimeUnit → TimeUnit) (q' : Nat) : queue (modTime s f) q' = queue s q' := rfl
@[simp] theorem ctx_modTime (f : TimeUnit → TimeUnit) (c' : Nat) : ctx (modTime s f) c' = ctx s c' := rfl
@[simp] theorem lane_modTime (f : TimeUnit → TimeUnit) (l' : Nat) : lane (modTime s f) l' = lane s l' := rfl

@[simp] theorem fget_modSensors (f : Sensors → Sensors) (g : Field) : fget (modSensors s f) g = fget s g := rfl
@[simp] theorem regWord_modSensors (f : Sensors → Sensors) (o' : Nat) : regWord (modSensors s f) o' = regWord s o' := rfl
@[simp] theorem thread_modSensors (f : Sensors → Sensors) (i' t' : Nat) : thread (modSensors s f) i' t' = thread s i' t' := rfl
@[simp] theorem unit_modSensors (f : Sensors → Sensors) (i' u' : Nat) : unit (modSensors s f) i' u' = unit s i' u' := rfl
@[simp] theorem queue_modSensors (f : Sensors → Sensors) (q' : Nat) : queue (modSensors s f) q' = queue s q' := rfl
@[simp] theorem ctx_modSensors (f : Sensors → Sensors) (c' : Nat) : ctx (modSensors s f) c' = ctx s c' := rfl
@[simp] theorem lane_modSensors (f : Sensors → Sensors) (l' : Nat) : lane (modSensors s f) l' = lane s l' := rfl

@[simp] theorem fget_modVetch (f : Vetch → Vetch) (g : Field) : fget (modVetch s f) g = fget s g := rfl
@[simp] theorem regWord_modVetch (f : Vetch → Vetch) (o' : Nat) : regWord (modVetch s f) o' = regWord s o' := rfl
@[simp] theorem thread_modVetch (f : Vetch → Vetch) (i' t' : Nat) : thread (modVetch s f) i' t' = thread s i' t' := rfl
@[simp] theorem unit_modVetch (f : Vetch → Vetch) (i' u' : Nat) : unit (modVetch s f) i' u' = unit s i' u' := rfl
@[simp] theorem queue_modVetch (f : Vetch → Vetch) (q' : Nat) : queue (modVetch s f) q' = queue s q' := rfl
@[simp] theorem ctx_modVetch (f : Vetch → Vetch) (c' : Nat) : ctx (modVetch s f) c' = ctx s c' := rfl
@[simp] theorem lane_modVetch (f : Vetch → Vetch) (l' : Nat) : lane (modVetch s f) l' = lane s l' := rfl

@[simp] theorem fget_modLinks (f : Links → Links) (g : Field) : fget (modLinks s f) g = fget s g := rfl
@[simp] theorem regWord_modLinks (f : Links → Links) (o' : Nat) : regWord (modLinks s f) o' = regWord s o' := rfl
@[simp] theorem thread_modLinks (f : Links → Links) (i' t' : Nat) : thread (modLinks s f) i' t' = thread s i' t' := rfl
@[simp] theorem unit_modLinks (f : Links → Links) (i' u' : Nat) : unit (modLinks s f) i' u' = unit s i' u' := rfl
@[simp] theorem queue_modLinks (f : Links → Links) (q' : Nat) : queue (modLinks s f) q' = queue s q' := rfl
@[simp] theorem ctx_modLinks (f : Links → Links) (c' : Nat) : ctx (modLinks s f) c' = ctx s c' := rfl
@[simp] theorem lane_modLinks (f : Links → Links) (l' : Nat) : lane (modLinks s f) l' = lane s l' := rfl

@[simp] theorem fget_raise (c i : Nat) (d : List Byte) (g : Field) : fget (raise s c i d) g = fget s g := rfl
@[simp] theorem regWord_raise (c i : Nat) (d : List Byte) (o' : Nat) : regWord (raise s c i d) o' = regWord s o' := rfl
@[simp] theorem thread_raise (c i : Nat) (d : List Byte) (i' t' : Nat) : thread (raise s c i d) i' t' = thread s i' t' := rfl
@[simp] theorem unit_raise (c i : Nat) (d : List Byte) (i' u' : Nat) : unit (raise s c i d) i' u' = unit s i' u' := rfl
@[simp] theorem queue_raise (c i : Nat) (d : List Byte) (q' : Nat) : queue (raise s c i d) q' = queue s q' := rfl
@[simp] theorem ctx_raise (c i : Nat) (d : List Byte) (c' : Nat) : ctx (raise s c i d) c' = ctx s c' := rfl
@[simp] theorem lane_raise (c i : Nat) (d : List Byte) (l' : Nat) : lane (raise s c i d) l' = lane s l' := rfl

@[simp] theorem fget_raiseCtx (c i x : Nat) (d : List Byte) (g : Field) : fget (raiseCtx s c i x d) g = fget s g := rfl
@[simp] theorem regWord_raiseCtx (c i x : Nat) (d : List Byte) (o' : Nat) : regWord (raiseCtx s c i x d) o' = regWord s o' := rfl
@[simp] theorem thread_raiseCtx (c i x : Nat) (d : List Byte) (i' t' : Nat) : thread (raiseCtx s c i x d) i' t' = thread s i' t' := rfl
@[simp] theorem unit_raiseCtx (c i x : Nat) (d : List Byte) (i' u' : Nat) : unit (raiseCtx s c i x d) i' u' = unit s i' u' := rfl
@[simp] theorem queue_raiseCtx (c i x : Nat) (d : List Byte) (q' : Nat) : queue (raiseCtx s c i x d) q' = queue s q' := rfl
@[simp] theorem ctx_raiseCtx (c i x : Nat) (d : List Byte) (c' : Nat) : ctx (raiseCtx s c i x d) c' = ctx s c' := rfl
@[simp] theorem lane_raiseCtx (c i x : Nat) (d : List Byte) (l' : Nat) : lane (raiseCtx s c i x d) l' = lane s l' := rfl

@[simp] theorem fget_completeCmd (q n st d : Nat) (g : Field) : fget (completeCmd s q n st d) g = fget s g := rfl
@[simp] theorem regWord_completeCmd (q n st d : Nat) (o' : Nat) : regWord (completeCmd s q n st d) o' = regWord s o' := rfl
@[simp] theorem thread_completeCmd (q n st d : Nat) (i' t' : Nat) : thread (completeCmd s q n st d) i' t' = thread s i' t' := rfl
@[simp] theorem unit_completeCmd (q n st d : Nat) (i' u' : Nat) : unit (completeCmd s q n st d) i' u' = unit s i' u' := rfl
@[simp] theorem ctx_completeCmd (q n st d : Nat) (c' : Nat) : ctx (completeCmd s q n st d) c' = ctx s c' := rfl
@[simp] theorem lane_completeCmd (q n st d : Nat) (l' : Nat) : lane (completeCmd s q n st d) l' = lane s l' := rfl

/-! What a replacement gives back. -/

theorem thread_setThread_same (i t : Nat) (x : Thread) (w : Sound s) : thread (setThread s i t x) i t = x := storeGet_set_same _ _ _ w.threads
theorem unit_setUnit_same (i u : Nat) (x : UnitState) (w : Sound s) : unit (setUnit s i u x) i u = x := storeGet_set_same _ _ _ w.units
theorem queue_setQueue_same (q : Nat) (x : Queue) (w : Sound s) : queue (setQueue s q x) q = x := storeGet_set_same _ _ _ w.queues
theorem ctx_setCtx_same (c : Nat) (x : Ctx) (w : Sound s) : ctx (setCtx s c x) c = x := storeGet_set_same _ _ _ w.ctxs
theorem lane_setLane_same (l : Nat) (x : Lane) (w : Sound s) : lane (setLane s l x) l = x := storeGet_set_same _ _ _ w.lanes
theorem queue_setQueue_ne {q r : Nat} (x : Queue) (h : r ≠ q) (w : Sound s) : queue (setQueue s q x) r = queue s r := storeGet_set_ne _ _ h w.queues
theorem ctx_setCtx_ne {c d : Nat} (x : Ctx) (h : d ≠ c) (w : Sound s) : ctx (setCtx s c x) d = ctx s d := storeGet_set_ne _ _ h w.ctxs
theorem lane_setLane_ne {l m : Nat} (x : Lane) (h : m ≠ l) (w : Sound s) : lane (setLane s l x) m = lane s m := storeGet_set_ne _ _ h w.lanes

end Sys2Proof.Machine
end

