-- ==== Sys2Proof/Laws/Memory.lean ====
section
/-! SUPPORT. Memory: every operation keeps its canonical form, what is written reads back, and nothing else changes. -/

namespace Sys2Proof.Machine

/-- A write keeps memory's canonical form. -/
theorem memWrite_wf (s : State) (a : Nat) (bs : List Byte) (h : Memory.wf s.mem = true) : Memory.wf (memWrite s a bs).mem = true :=
  storeWf_setList bs s.mem a h

/-- Clearing a range keeps memory's canonical form. -/
theorem memZero_wf (s : State) (a n : Nat) (h : Memory.wf s.mem = true) : Memory.wf (memZero s a n).mem = true :=
  storeWf_drop (fun k => decide (a ≤ k ∧ k < a + n)) s.mem h

/-- A write of flash keeps its canonical form. -/
theorem flashWrite_wf (s : State) (a : Nat) (bs : List Byte) (h : Memory.wf s.flash = true) :
    Memory.wf (flashWrite s a bs).flash = true := storeWf_setList bs s.flash a h

/-- Memory after reset lists nothing. -/
theorem reset_mem_wf : Memory.wf State.reset.mem = true := by decide

/-- A byte outside a write reads as before. -/
theorem memByte_memWrite_ne {s : State} {a b : Nat} {bs : List Byte} (w : Sound s) (h : b < a ∨ a + bs.length ≤ b) :
    memByte (memWrite s a bs) b = memByte s b :=
  storeGet_setList_outside bs s.mem a b w.mem h

/-- A write changes memory and the marks of unreadable units, and nothing else. -/
theorem memWrite_frame (s : State) (a : Nat) (bs : List Byte) :
    memWrite s a bs = { s with mem := (memWrite s a bs).mem, uncorr := (memWrite s a bs).uncorr } := rfl

/-- A store of software changes memory, the marks of unreadable units and the page tables' old entries, and nothing else. -/
theorem softWrite_frame (s : State) (a : Nat) (bs : List Byte) : softWrite s a bs
    = { s with mem := (softWrite s a bs).mem, uncorr := (softWrite s a bs).uncorr, stale := (softWrite s a bs).stale } := rfl

/-- A byte outside a store of software reads as before. -/
theorem memByte_softWrite_ne {s : State} {a b : Nat} {bs : List Byte} (w : Sound s) (h : b < a ∨ a + bs.length ≤ b) :
    memByte (softWrite s a bs) b = memByte s b :=
  storeGet_setList_outside bs s.mem a b w.mem h

/-- A store of software keeps a state sound. -/
theorem softWrite_sound {s : State} (a : Nat) (bs : List Byte) (w : Sound s) : Sound (softWrite s a bs) :=
  { w with mem := storeWf_setList bs s.mem a w.mem }

/-- A write keeps a state sound. -/
theorem memWrite_sound {s : State} (a : Nat) (bs : List Byte) (w : Sound s) : Sound (memWrite s a bs) :=
  { w with mem := memWrite_wf s a bs w.mem }

/-- Writing pieces changes memory and the marks of unreadable units and the page tables' old entries, and no byte outside the pieces. -/
theorem writePieces_frame : ∀ (ps : List (Nat × Nat)) (s : State) (bs : List Byte), Sound s →
    writePieces s ps bs = { s with mem := (writePieces s ps bs).mem, uncorr := (writePieces s ps bs).uncorr,
                                    stale := (writePieces s ps bs).stale }
      ∧ ∀ a : Nat, (∀ p ∈ ps, a < p.1 ∨ p.1 + p.2 ≤ a) → memByte (writePieces s ps bs) a = memByte s a
  | [], s, bs, _ => ⟨rfl, fun _ _ => rfl⟩
  | (b, n) :: rest, s, bs, w => by
    obtain ⟨h1, h2⟩ := writePieces_frame rest (softWrite s b (bs.take n)) (bs.drop n) (softWrite_sound b _ w)
    refine ⟨?_, ?_⟩
    · simp only [writePieces]; rw [h1]; rfl
    · intro a h
      simp only [writePieces]
      rw [h2 a (fun p hp => h p (List.mem_cons_of_mem _ hp))]
      apply memByte_softWrite_ne w
      have := h (b, n) List.mem_cons_self
      have h3 : (bs.take n).length ≤ n := List.length_take_le n bs
      simp only at this
      omega

end Sys2Proof.Machine
end

