-- ==== Sys2Proof/Laws/Reset.lean ====
section
/-! SUPPORT. What a reset leaves, field by field: only the control window is worked on after the fresh state is made. -/

namespace Sys2Proof.Machine

/-- An operation on the control window changes nothing else. -/
def WindowOnly (s t : State) : Prop := ∃ c, t = { s with cw := c }

theorem WindowOnly.refl (s : State) : WindowOnly s s := ⟨s.cw, rfl⟩

theorem WindowOnly.trans {a b c : State} (h : WindowOnly a b) (g : WindowOnly b c) : WindowOnly a c := by
  obtain ⟨x, rfl⟩ := h
  obtain ⟨y, rfl⟩ := g
  exact ⟨y, rfl⟩

theorem windowOnly_fset (s : State) (f : Field) (v : Nat) : WindowOnly s (fset s f v) := by
  unfold fset
  split
  · exact ⟨_, rfl⟩
  · exact ⟨_, rfl⟩

theorem windowOnly_forEach {α : Type} {f : α → State → State} (h : ∀ x s, WindowOnly s (f x s)) :
    ∀ (l : List α) (s : State), WindowOnly s (forEach l f s)
  | [], s => .refl s
  | x :: l, s => (h x s).trans (windowOnly_forEach h l (f x s))

theorem windowOnly_keepWindow (k : ResetKind) (m : Nat) (old s : State) : WindowOnly s (keepWindow k m old s) := by
  have hf (f : Field) (s : State) : WindowOnly s (keepField old f s) := windowOnly_fset _ _ _
  have hr (n : Nat) (g : Nat → Field) (s : State) : WindowOnly s (forRange n (fun i s => keepField old (g i) s) s) :=
    windowOnly_forEach (fun i s => hf (g i) s) _ s
  have hl (l : List Field) (s : State) : WindowOnly s (forEach l (fun f s => keepField old f s) s) :=
    windowOnly_forEach (fun f s => hf f s) _ s
  unfold keepWindow
  extract_lets _ s1 s2 s3 s4 s5 s6
  have h1 : WindowOnly s s1 := (windowOnly_fset _ _ _).trans (windowOnly_fset _ _ _)
  have h2 : WindowOnly s s2 := h1.trans (hl _ _)
  have h3 : WindowOnly s s3 := h2.trans (windowOnly_fset _ _ _)
  have h4 : WindowOnly s s4 := h3.trans ((hf _ _).trans (hr _ _ _))
  have h5 : WindowOnly s s5 := by
    unfold s5
    split
    · exact h3
    · exact h4.trans ((hf _ _).trans (hr _ _ _))
  split
  · exact h5
  · have h6 : WindowOnly s s6 := h5.trans (hl _ _)
    split
    · exact h6.trans (hf _ _)
    · exact h6

/-! The fields it leaves. -/

theorem WindowOnly.mem {s t : State} (h : WindowOnly s t) : t.mem = s.mem := by obtain ⟨c, rfl⟩ := h; rfl
theorem WindowOnly.threads {s t : State} (h : WindowOnly s t) : t.threads = s.threads := by obtain ⟨c, rfl⟩ := h; rfl
theorem WindowOnly.queues {s t : State} (h : WindowOnly s t) : t.queues = s.queues := by obtain ⟨c, rfl⟩ := h; rfl
theorem WindowOnly.ctxs {s t : State} (h : WindowOnly s t) : t.ctxs = s.ctxs := by obtain ⟨c, rfl⟩ := h; rfl
theorem WindowOnly.flash {s t : State} (h : WindowOnly s t) : t.flash = s.flash := by obtain ⟨c, rfl⟩ := h; rfl
theorem WindowOnly.pending {s t : State} (h : WindowOnly s t) : t.pending = s.pending := by obtain ⟨c, rfl⟩ := h; rfl
theorem WindowOnly.ticks {s t : State} (h : WindowOnly s t) : t.ticks = s.ticks := by obtain ⟨c, rfl⟩ := h; rfl
theorem WindowOnly.time {s t : State} (h : WindowOnly s t) : t.time = s.time := by obtain ⟨c, rfl⟩ := h; rfl
theorem WindowOnly.frac {s t : State} (h : WindowOnly s t) : t.frac = s.frac := by obtain ⟨c, rfl⟩ := h; rfl
theorem WindowOnly.timeu {s t : State} (h : WindowOnly s t) : t.timeu = s.timeu := by obtain ⟨c, rfl⟩ := h; rfl
theorem WindowOnly.power {s t : State} (h : WindowOnly s t) : t.power = s.power := by obtain ⟨c, rfl⟩ := h; rfl

variable (k : ResetKind) (m : Nat) (s : State)

/-! After a reset, by field. -/

theorem resetState_mem : (resetState k m s).mem = [] := (windowOnly_keepWindow k m s _).mem
theorem resetState_threads : (resetState k m s).threads = [] := (windowOnly_keepWindow k m s _).threads
theorem resetState_queues : (resetState k m s).queues = [] := (windowOnly_keepWindow k m s _).queues
theorem resetState_ctxs : (resetState k m s).ctxs = [] := (windowOnly_keepWindow k m s _).ctxs
theorem resetState_flash : (resetState k m s).flash = s.flash := (windowOnly_keepWindow k m s _).flash
theorem resetState_pending : (resetState k m s).pending = s.pending := (windowOnly_keepWindow k m s _).pending
theorem resetState_ticks : (resetState k m s).ticks = s.ticks := (windowOnly_keepWindow k m s _).ticks
theorem resetState_time : (resetState k m s).time = if decide (k = .powerOn) then 0 else s.time :=
  (windowOnly_keepWindow k m s _).time
theorem resetState_frac : (resetState k m s).frac = if decide (k = .powerOn) then 0 else s.frac :=
  (windowOnly_keepWindow k m s _).frac
theorem resetState_timeu : (resetState k m s).timeu =
    if decide (k = .powerOn) then TimeUnit.init else { TimeUnit.init with incr := s.timeu.incr } :=
  (windowOnly_keepWindow k m s _).timeu
theorem resetState_rstLow : (resetState k m s).power.rstLow = s.power.rstLow :=
  (congrArg Power.rstLow (windowOnly_keepWindow k m s _).power).trans rfl
theorem resetState_off : (resetState k m s).power.off = (!decide (k = .powerOn) && s.power.off) :=
  (congrArg Power.off (windowOnly_keepWindow k m s _).power).trans rfl
theorem resetState_dormant : (resetState k m s).power.dormant = false :=
  (congrArg Power.dormant (windowOnly_keepWindow k m s _).power).trans rfl

end Sys2Proof.Machine
end

