-- ==== Sys2Proof/Laws/Window.lean ====
section
/-! SUPPORT. Which rows of the register map hold the registers that rows of the table name, and what a write of them does. -/

namespace Sys2Proof.Machine

/-- A row of the map that does not hold a word is passed over. -/
theorem regFindIn_skip {r : RegDesc} {rs : List RegDesc} {off : Nat} (h : regMatch r off = none) :
    regFindIn off (r :: rs) = regFindIn off rs := by simp [regFindIn, h]

/-- The row that holds a word is found. -/
theorem regFindIn_take {r : RegDesc} {rs : List RegDesc} {off : Nat} {x : Nat × Nat × Nat} (h : regMatch r off = some x) :
    regFindIn off (r :: rs) = some (r, x) := by simp [regFindIn, h]

/-- A row of every tile whose span within the tile does not reach `o`. -/
theorem regMatch_tile_none {b s2 n2 w a1 a2 a3 a4 a5 tile o : Nat} (ht : tile < 48) (ho : o < 0x100000) (hb : b < 0x100000) (hs : 0 < s2)
    (h : o < b ∨ b + n2 * s2 ≤ o) (hn : n2 * s2 ≤ 0x100000 - b) :
    regMatch ⟨0x1000000 + b, 0x100000, 48, s2, n2, w, a1, a2, a3, a4, a5⟩ (0x1000000 + 0x100000 * tile + o) = none := by
  unfold regMatch
  simp only
  split
  · rfl
  · rename_i h1
    rw [if_neg]
    rintro ⟨i, j, k⟩
    have hj : (0x1000000 + 0x100000 * tile + o - (0x1000000 + b)) % 0x100000 < n2 * s2 := by
      rw [Nat.div_lt_iff_lt_mul hs] at j; exact j
    rcases h with h | h
    · have : (0x1000000 + 0x100000 * tile + o - (0x1000000 + b)) = 0x100000 * (tile - 1) + (0x100000 + o - b) := by omega
      rw [this, Nat.mul_add_mod, Nat.mod_eq_of_lt (by omega)] at hj
      omega
    · have : (0x1000000 + 0x100000 * tile + o - (0x1000000 + b)) = 0x100000 * tile + (o - b) := by omega
      rw [this, Nat.mul_add_mod, Nat.mod_eq_of_lt (by omega)] at hj
      omega

/-- A row of every tile that holds the word at `o`: the index of the register and of the word in it. -/
theorem regMatch_tile_some {b s2 n2 w a1 a2 a3 a4 a5 tile o : Nat} (ht : tile < 48) (ho : o < 0x100000)
    (h : b ≤ o) (hj : (o - b) / s2 < n2) (hk : (o - b) % s2 < 4 * w) :
    regMatch ⟨0x1000000 + b, 0x100000, 48, s2, n2, w, a1, a2, a3, a4, a5⟩ (0x1000000 + 0x100000 * tile + o)
      = some (tile, (o - b) / s2, (o - b) % s2 / 4) := by
  have e : (0x1000000 + 0x100000 * tile + o - (0x1000000 + b)) = 0x100000 * tile + (o - b) := by omega
  unfold regMatch
  simp only
  rw [if_neg (by omega), e, Nat.mul_add_mod, Nat.mod_eq_of_lt (by omega), Nat.mul_add_div (by omega), Nat.div_eq_of_lt (by omega)]
  rw [if_pos ⟨by omega, hj, hk⟩]
  simp

/-- A word of a tile is looked up among the tile's rows. -/
theorem regFind_tile {tile o : Nat} (ht : tile < 48) (ho : o < 0x100000) (h4 : o % 4 = 0) :
    regFind (0x1000000 + 0x100000 * tile + o) = regFindIn (0x1000000 + 0x100000 * tile + o) regRowsTile := by
  unfold regFind
  rw [if_pos (by omega)]
  have : (0x1000000 + 0x100000 * tile + o) / 0x100000 = 16 + tile := by omega
  rw [this]
  have : regRows (16 + tile) = regRowsTile := by
    rw [Nat.add_comm]; rfl
  rw [this]

/-- A row of one register per tile that does not hold the word at `o`. -/
theorem regMatch_tile_one {b w a1 a2 a3 a4 a5 tile o : Nat} (ht : tile < 48) (ho : o < 0x100000) (hb : b < 0x100000)
    (h : o < b ∨ b + 4 * w ≤ o) (hn : 4 * w ≤ 0x100000 - b) :
    regMatch ⟨0x1000000 + b, 0x100000, 48, 0x100000, 1, w, a1, a2, a3, a4, a5⟩ (0x1000000 + 0x100000 * tile + o) = none := by
  unfold regMatch
  simp only
  split
  · rfl
  · rename_i h1
    rw [if_neg]
    rintro ⟨i, j, k⟩
    rw [Nat.mod_mod] at k
    rcases h with h | h
    · have : (0x1000000 + 0x100000 * tile + o - (0x1000000 + b)) = 0x100000 * (tile - 1) + (0x100000 + o - b) := by omega
      rw [this, Nat.mul_add_mod, Nat.mod_eq_of_lt (by omega)] at k
      omega
    · have : (0x1000000 + 0x100000 * tile + o - (0x1000000 + b)) = 0x100000 * tile + (o - b) := by omega
      rw [this, Nat.mul_add_mod, Nat.mod_eq_of_lt (by omega)] at k
      omega

/-- A row of one register per tile that holds the word at `o`. -/
theorem regMatch_tile_here {b w a1 a2 a3 a4 a5 tile o : Nat} (ht : tile < 48) (ho : o < 0x100000)
    (h : b ≤ o) (hk : o - b < 4 * w) :
    regMatch ⟨0x1000000 + b, 0x100000, 48, 0x100000, 1, w, a1, a2, a3, a4, a5⟩ (0x1000000 + 0x100000 * tile + o)
      = some (tile, 0, (o - b) / 4) := by
  rw [regMatch_tile_some ht ho h (by rw [Nat.div_eq_of_lt (by omega)]; exact Nat.one_pos) (by rw [Nat.mod_eq_of_lt (by omega)]; exact hk)]
  rw [Nat.div_eq_of_lt (by omega), Nat.mod_eq_of_lt (by omega)]

/-- Outside the TIME slot, a word belongs to a 64-bit register where its row says so. -/
theorem pairLow_of_slot {off : Nat} (h : off / 0x100000 ≠ 3) :
    pairLow off = (regFind off).bind (fun r => if r.1.words = 2 then some (off - 4 * r.2.2.2) else none) := by
  unfold pairLow
  split
  · contradiction
  · rfl

/-! ### The registers of a tile -/

/-- TILE_CTRL is a word of its own. -/
theorem pairLow_tileCtrl {tile : Nat} (ht : tile < 48) : pairLow (Reg.TILE_CTRL tile) = none := by
  have e : Reg.TILE_CTRL tile = 0x1000000 + 0x100000 * tile + (0x4 + 0) := by unfold Reg.TILE_CTRL; omega
  rw [e, pairLow_of_slot (by omega), regFind_tile ht (by omega) (by omega)]
  unfold regRowsTile
  rw [regFindIn_skip (regMatch_tile_one (b := 0x0) ht (by omega) (by omega) (by omega) (by omega))]
  rw [regFindIn_take (regMatch_tile_here (b := 0x4) ht (by omega) (by omega) (by omega))]
  rfl

/-- TILE_FAULT is a word of its own. -/
theorem pairLow_tileFault {tile : Nat} (ht : tile < 48) : pairLow (Reg.TILE_FAULT tile) = none := by
  have e : Reg.TILE_FAULT tile = 0x1000000 + 0x100000 * tile + (0x10 + 0) := by unfold Reg.TILE_FAULT; omega
  rw [e, pairLow_of_slot (by omega), regFind_tile ht (by omega) (by omega)]
  unfold regRowsTile
  rw [regFindIn_skip (regMatch_tile_one (b := 0x0) ht (by omega) (by omega) (by omega) (by omega))]
  rw [regFindIn_skip (regMatch_tile_one (b := 0x4) ht (by omega) (by omega) (by omega) (by omega))]
  rw [regFindIn_skip (regMatch_tile_one (b := 0x8) ht (by omega) (by omega) (by omega) (by omega))]
  rw [regFindIn_take (regMatch_tile_here (b := 0x10) ht (by omega) (by omega) (by omega))]
  rfl

/-- TILE_SHARE is a word of its own. -/
theorem pairLow_tileShare {tile : Nat} (ht : tile < 48) {c : Nat} (hc : c < 64) : pairLow (Reg.TILE_SHARE tile c) = none := by
  have e : Reg.TILE_SHARE tile c = 0x1000000 + 0x100000 * tile + (0x200 + 4 * c) := by unfold Reg.TILE_SHARE; omega
  rw [e, pairLow_of_slot (by omega), regFind_tile ht (by omega) (by omega)]
  unfold regRowsTile
  rw [regFindIn_skip (regMatch_tile_one (b := 0x0) ht (by omega) (by omega) (by omega) (by omega))]
  rw [regFindIn_skip (regMatch_tile_one (b := 0x4) ht (by omega) (by omega) (by omega) (by omega))]
  rw [regFindIn_skip (regMatch_tile_one (b := 0x8) ht (by omega) (by omega) (by omega) (by omega))]
  rw [regFindIn_skip (regMatch_tile_one (b := 0x10) ht (by omega) (by omega) (by omega) (by omega))]
  rw [regFindIn_skip (regMatch_tile_one (b := 0x14) ht (by omega) (by omega) (by omega) (by omega))]
  rw [regFindIn_skip (regMatch_tile_one (b := 0x40) ht (by omega) (by omega) (by omega) (by omega))]
  rw [regFindIn_skip (regMatch_tile_none (b := 0x100) (s2 := 0x8) ht (by omega) (by omega) (by omega) (by omega) (by omega))]
  rw [regFindIn_take (regMatch_tile_some (b := 0x200) (s2 := 0x4) ht (by omega) (by omega) (by omega) (by omega))]
  rfl

/-- TILE_THR is a word of its own. -/
theorem pairLow_tileThr {tile : Nat} (ht : tile < 48) {t : Nat} (hc : t < 128) : pairLow (Reg.TILE_THR tile t) = none := by
  have e : Reg.TILE_THR tile t = 0x1000000 + 0x100000 * tile + (0x400 + 4 * t) := by unfold Reg.TILE_THR; omega
  rw [e, pairLow_of_slot (by omega), regFind_tile ht (by omega) (by omega)]
  unfold regRowsTile
  rw [regFindIn_skip (regMatch_tile_one (b := 0x0) ht (by omega) (by omega) (by omega) (by omega))]
  rw [regFindIn_skip (regMatch_tile_one (b := 0x4) ht (by omega) (by omega) (by omega) (by omega))]
  rw [regFindIn_skip (regMatch_tile_one (b := 0x8) ht (by omega) (by omega) (by omega) (by omega))]
  rw [regFindIn_skip (regMatch_tile_one (b := 0x10) ht (by omega) (by omega) (by omega) (by omega))]
  rw [regFindIn_skip (regMatch_tile_one (b := 0x14) ht (by omega) (by omega) (by omega) (by omega))]
  rw [regFindIn_skip (regMatch_tile_one (b := 0x40) ht (by omega) (by omega) (by omega) (by omega))]
  rw [regFindIn_skip (regMatch_tile_none (b := 0x100) (s2 := 0x8) ht (by omega) (by omega) (by omega) (by omega) (by omega))]
  rw [regFindIn_skip (regMatch_tile_none (b := 0x200) (s2 := 0x4) ht (by omega) (by omega) (by omega) (by omega) (by omega))]
  rw [regFindIn_take (regMatch_tile_some (b := 0x400) (s2 := 0x4) ht (by omega) (by omega) (by omega) (by omega))]
  rfl

/-- TILE_DBG is a word of its own. -/
theorem pairLow_tileDbg {tile : Nat} (ht : tile < 48) {t : Nat} (hc : t < 128) : pairLow (Reg.TILE_DBG tile t) = none := by
  have e : Reg.TILE_DBG tile t = 0x1000000 + 0x100000 * tile + (0xc00 + 4 * t) := by unfold Reg.TILE_DBG; omega
  rw [e, pairLow_of_slot (by omega), regFind_tile ht (by omega) (by omega)]
  unfold regRowsTile
  rw [regFindIn_skip (regMatch_tile_one (b := 0x0) ht (by omega) (by omega) (by omega) (by omega))]
  rw [regFindIn_skip (regMatch_tile_one (b := 0x4) ht (by omega) (by omega) (by omega) (by omega))]
  rw [regFindIn_skip (regMatch_tile_one (b := 0x8) ht (by omega) (by omega) (by omega) (by omega))]
  rw [regFindIn_skip (regMatch_tile_one (b := 0x10) ht (by omega) (by omega) (by omega) (by omega))]
  rw [regFindIn_skip (regMatch_tile_one (b := 0x14) ht (by omega) (by omega) (by omega) (by omega))]
  rw [regFindIn_skip (regMatch_tile_one (b := 0x40) ht (by omega) (by omega) (by omega) (by omega))]
  rw [regFindIn_skip (regMatch_tile_none (b := 0x100) (s2 := 0x8) ht (by omega) (by omega) (by omega) (by omega) (by omega))]
  rw [regFindIn_skip (regMatch_tile_none (b := 0x200) (s2 := 0x4) ht (by omega) (by omega) (by omega) (by omega) (by omega))]
  rw [regFindIn_skip (regMatch_tile_none (b := 0x400) (s2 := 0x4) ht (by omega) (by omega) (by omega) (by omega) (by omega))]
  rw [regFindIn_skip (regMatch_tile_none (b := 0x800) (s2 := 0x8) ht (by omega) (by omega) (by omega) (by omega) (by omega))]
  rw [regFindIn_take (regMatch_tile_some (b := 0xc00) (s2 := 0x4) ht (by omega) (by omega) (by omega) (by omega))]
  rfl

/-- TILE_DBG_REG is a 64-bit register: its low word. -/
theorem pairLow_tileDbgReg {tile t r : Nat} (ht : tile < 48) (hc : t < 128) (hr : r < 32) :
    pairLow (Reg.TILE_DBG_REG tile t r) = some (Reg.TILE_DBG_REG tile t r) := by
  have e : Reg.TILE_DBG_REG tile t r = 0x1000000 + 0x100000 * tile + (0x1000 + (256 * t + 8 * r)) := by
    unfold Reg.TILE_DBG_REG; omega
  rw [e, pairLow_of_slot (by omega), regFind_tile ht (by omega) (by omega)]
  unfold regRowsTile
  rw [regFindIn_skip (regMatch_tile_one (b := 0x0) ht (by omega) (by omega) (by omega) (by omega))]
  rw [regFindIn_skip (regMatch_tile_one (b := 0x4) ht (by omega) (by omega) (by omega) (by omega))]
  rw [regFindIn_skip (regMatch_tile_one (b := 0x8) ht (by omega) (by omega) (by omega) (by omega))]
  rw [regFindIn_skip (regMatch_tile_one (b := 0x10) ht (by omega) (by omega) (by omega) (by omega))]
  rw [regFindIn_skip (regMatch_tile_one (b := 0x14) ht (by omega) (by omega) (by omega) (by omega))]
  rw [regFindIn_skip (regMatch_tile_one (b := 0x40) ht (by omega) (by omega) (by omega) (by omega))]
  rw [regFindIn_skip (regMatch_tile_none (b := 0x100) (s2 := 0x8) ht (by omega) (by omega) (by omega) (by omega) (by omega))]
  rw [regFindIn_skip (regMatch_tile_none (b := 0x200) (s2 := 0x4) ht (by omega) (by omega) (by omega) (by omega) (by omega))]
  rw [regFindIn_skip (regMatch_tile_none (b := 0x400) (s2 := 0x4) ht (by omega) (by omega) (by omega) (by omega) (by omega))]
  rw [regFindIn_skip (regMatch_tile_none (b := 0x800) (s2 := 0x8) ht (by omega) (by omega) (by omega) (by omega) (by omega))]
  rw [regFindIn_skip (regMatch_tile_none (b := 0xc00) (s2 := 0x4) ht (by omega) (by omega) (by omega) (by omega) (by omega))]
  rw [regFindIn_take (regMatch_tile_some (b := 0x1000) (s2 := 0x8) ht (by omega) (by omega) (by omega) (by omega))]
  simp only [Option.bind]
  rw [if_pos trivial]
  congr 1
  omega

/-- TILE_DBG_REG is a 64-bit register: its high word. -/
theorem pairLow_tileDbgRegHigh {tile t r : Nat} (ht : tile < 48) (hc : t < 128) (hr : r < 32) :
    pairLow (Reg.TILE_DBG_REG tile t r + 4) = some (Reg.TILE_DBG_REG tile t r) := by
  have e : Reg.TILE_DBG_REG tile t r + 4 = 0x1000000 + 0x100000 * tile + (0x1000 + (256 * t + 8 * r + 4)) := by
    unfold Reg.TILE_DBG_REG; omega
  have e' : Reg.TILE_DBG_REG tile t r = 0x1000000 + 0x100000 * tile + (0x1000 + (256 * t + 8 * r)) := by
    unfold Reg.TILE_DBG_REG; omega
  rw [e, e', pairLow_of_slot (by omega), regFind_tile ht (by omega) (by omega)]
  unfold regRowsTile
  rw [regFindIn_skip (regMatch_tile_one (b := 0x0) ht (by omega) (by omega) (by omega) (by omega))]
  rw [regFindIn_skip (regMatch_tile_one (b := 0x4) ht (by omega) (by omega) (by omega) (by omega))]
  rw [regFindIn_skip (regMatch_tile_one (b := 0x8) ht (by omega) (by omega) (by omega) (by omega))]
  rw [regFindIn_skip (regMatch_tile_one (b := 0x10) ht (by omega) (by omega) (by omega) (by omega))]
  rw [regFindIn_skip (regMatch_tile_one (b := 0x14) ht (by omega) (by omega) (by omega) (by omega))]
  rw [regFindIn_skip (regMatch_tile_one (b := 0x40) ht (by omega) (by omega) (by omega) (by omega))]
  rw [regFindIn_skip (regMatch_tile_none (b := 0x100) (s2 := 0x8) ht (by omega) (by omega) (by omega) (by omega) (by omega))]
  rw [regFindIn_skip (regMatch_tile_none (b := 0x200) (s2 := 0x4) ht (by omega) (by omega) (by omega) (by omega) (by omega))]
  rw [regFindIn_skip (regMatch_tile_none (b := 0x400) (s2 := 0x4) ht (by omega) (by omega) (by omega) (by omega) (by omega))]
  rw [regFindIn_skip (regMatch_tile_none (b := 0x800) (s2 := 0x8) ht (by omega) (by omega) (by omega) (by omega) (by omega))]
  rw [regFindIn_skip (regMatch_tile_none (b := 0xc00) (s2 := 0x4) ht (by omega) (by omega) (by omega) (by omega) (by omega))]
  rw [regFindIn_take (regMatch_tile_some (b := 0x1000) (s2 := 0x8) ht (by omega) (by omega) (by omega) (by omega))]
  simp only [Option.bind]
  rw [if_pos trivial]
  congr 1
  omega

/-! ### Other registers that rows name -/

/-- QMGR_DOORBELL is a word of its own. -/
theorem pairLow_doorbell : pairLow Reg.QMGR_DOORBELL = none := by decide

/-- CTL_COMMIT is a word of its own. -/
theorem pairLow_ctlCommit : pairLow Reg.CTL_COMMIT = none := by decide

/-- The power registers that take writes are words of their own. -/
theorem pairLow_pwrCfg : pairLow Reg.PWR_CFG = none ∧ pairLow Reg.PWR_CAP = none := by decide

/-- MEM_DBG_ADDR is a 64-bit register. -/
theorem pairLow_memDbgAddr : pairLow Reg.MEM_DBG_ADDR = some Reg.MEM_DBG_ADDR := by decide

/-- CTX_STATE is a word of its own. -/
theorem pairLow_ctxState {c : Nat} (hc : c < 64) : pairLow (Reg.QMGR_CTX_STATE c) = none := by
  have h : ∀ i : Fin 64, pairLow (Reg.QMGR_CTX_STATE i.val) = none := by decide
  exact h ⟨c, hc⟩

/-! ### What a register row does -/

/-- A write of a register that is a word of its own takes effect. -/
theorem regRow_word {a : Agent} {off v : Nat} {s : State} (h : alive s = true) (h4 : off % 4 = 0) (hw : off < 0x4000000)
    (hs : slotRefuses a off = false) (ha : mayAccess a = true) (hp : pairLow off = none) :
    regRow a off v s = .next (slotWrite a .timeout off v s) := by
  simp [regRow, whenAlive, h, h4, hw, windowWrite, hs, ha, hp]

/-- A write of the low word of a 64-bit register takes effect with the high word held for it. -/
theorem regRow_low {a : Agent} {off v : Nat} {s : State} (h : alive s = true) (h4 : off % 4 = 0) (hw : off < 0x4000000)
    (hs : slotRefuses a off = false) (ha : mayAccess a = true) (hp : pairLow off = some off)
    (ht : off = Reg.TIME_SET → timeSetTakes a s = true) :
    regRow a off v s = .next (slotWrite a .timeout off (v + 2 ^ 32 * highHeld s off) (heldCleared s off)) := by
  by_cases e : off = Reg.TIME_SET <;> simp_all [regRow, whenAlive, windowWrite]

/-- A write of the high word of a 64-bit register is held. -/
theorem regRow_high {a : Agent} {off low v : Nat} {s : State} (h : alive s = true) (h4 : off % 4 = 0) (hw : off < 0x4000000)
    (hs : slotRefuses a off = false) (ha : mayAccess a = true) (hp : pairLow off = some low) (hl : off ≠ low)
    (ht : low = Reg.TIME_SET → timeSetTakes a s = true) :
    regRow a off v s = .next { s with held := storeSet (fun _ => none) s.held low (some (BitVec.ofNat 32 v)) } := by
  by_cases e : low = Reg.TIME_SET <;> simp_all [regRow, whenAlive, windowWrite]

/-- Slots other than SAFE and SEC refuse no agent at once. -/
theorem slotRefuses_other {a : Agent} {off : Nat} (h : off / 0x100000 ≠ 0x0B) (h' : off / 0x100000 ≠ 0x01) :
    slotRefuses a off = false := by
  simp [slotRefuses, h, h']

/-- A write of a tile's slot. -/
theorem slotWrite_tile {a : Agent} {p : PcieCompletion} {tile o v : Nat} {s : State} (ht : tile < 48) (ho : o < 0x100000) :
    slotWrite a p (0x1000000 + 0x100000 * tile + o) v s = tileWrite tile o v s := by
  have d : (0x1000000 + 0x100000 * tile + o) / 0x100000 = tile + 16 := by omega
  have m : (0x1000000 + 0x100000 * tile + o) % 0x100000 = o := by omega
  unfold slotWrite
  rw [d, m]
  have : tile + 16 < 0x40 := by omega
  simp [this]

end Sys2Proof.Machine
end

