-- ==== Sys2Proof/WellFormed.lean ====
section
/-! DEFINITION. Which commands are well formed: every operand lies in the range the spec gives the thing it names. A command
that names something outside its range reaches nothing (log entry 2). -/

namespace Sys2Proof

/-! ### Operand ranges -/

/-- Queues 0..16,383 (R198). -/
def queueNo (q : Nat) : Bool := decide (q < 16384)
/-- Command numbers are u32 (R201). -/
def packetNo (n : Nat) : Bool := decide (n < 2 ^ 32)
/-- 64 contexts (R232). -/
def contextNo (c : Nat) : Bool := decide (c < 64)
/-- 48 tiles. -/
def tileNo (t : Nat) : Bool := decide (t < 48)
/-- 128 threads a tile. -/
def threadNo (t : Nat) : Bool := decide (t < 128)
/-- Six units a tile. -/
def unitNo (u : Nat) : Bool := decide (u < 6)
/-- Eight best-effort lanes. -/
def laneNo (l : Nat) : Bool := decide (l < 8)
/-- 64 triggers (R326). -/
def triggerNo (t : Nat) : Bool := decide (t < 64)
/-- Two gPTP domains. -/
def domainNo (d : Nat) : Bool := decide (d < 2)
/-- Four modules in a job. -/
def memberNo (m : Nat) : Bool := decide (m < 4)
/-- A JOB_MASK. -/
def maskNo (m : Nat) : Bool := decide (m < 16)
/-- An aligned offset in the 64 MiB control window (R32). -/
def windowOff (o : Nat) : Bool := decide (o < 2 ^ 26) && decide (o % 4 = 0)
/-- A scalar register (R44). -/
def scalarReg (r : Nat) : Bool := decide (r < 32)
/-- 128 sensor streams. -/
def streamNo (k : Nat) : Bool := decide (k < 128)
/-- Eight fusion groups (R347). -/
def groupNo (g : Nat) : Bool := decide (g < 8)
/-- Eight power phases. -/
def phaseNo (p : Nat) : Bool := decide (p < 8)
/-- Eight trip sensors. -/
def tripSensor (k : Nat) : Bool := decide (k < 8)
/-- 64 job barriers (R509). -/
def barrierNo (b : Nat) : Bool := decide (b < 64)
/-- An injection is named in one byte; 0 is none. -/
def injectionNo (k : Nat) : Bool := decide (k < 256)
/-- Eight ring ports. -/
def ringPortNo (p : Nat) : Bool := decide (p < 8)
/-- Three Pyilarek ports. -/
def linkPortNo (p : Nat) : Bool := decide (p < 3)
/-- Two Ethernet ports. -/
def netPortNo (p : Nat) : Bool := decide (p < 2)
/-- A LOCAL address has 41 bits (Table 1.2). -/
def localAddr (a : Nat) : Bool := decide (a < 2 ^ 41)
/-- Ten gated inputs of Cowslip (Table 14.2). -/
def gateInputs (l : List GateSample) : Bool := decide (l.length = 10)
/-- 78 temperature readings (R483). -/
def tempReadings (l : List Nat) : Bool := decide (l.length = 78)

/-- The register numbers of a scalar instruction. -/
def ScalarOp.wf : ScalarOp → Bool
  | .int _ rd rs1 rs2 _ => scalarReg rd && scalarReg rs1 && scalarReg rs2
  | .fp _ rd rs1 rs2 rs3 => scalarReg rd && scalarReg rs1 && scalarReg rs2 && scalarReg rs3
  | .load size _ rd rs1 _ => decide (size < 4) && scalarReg rd && scalarReg rs1
  | .store size rs1 rs2 _ => decide (size < 4) && scalarReg rs1 && scalarReg rs2
  | .branch _ rs1 rs2 _ link => scalarReg rs1 && scalarReg rs2 && scalarReg link
  | .illegal => true

/-- At most 16 gather slots (Table 10.2). -/
def RingReturn.wf (r : RingReturn) : Bool := decide (r.slots.length ≤ 16)

/-- At most 16 identity slots (Table 10.6). -/
def discoverWf (r : DiscoverReturn) : Bool := decide (r.nodes.length ≤ 16)

/-- A join request names modules 0..3 and carries a 32-byte digest. -/
def JoinRequest.wf (r : JoinRequest) : Bool := memberNo r.module_ && maskNo r.mask && decide (r.digest.length = 32)

/-- A peer's access lies in the LOCAL space, and a write brings its bytes. -/
def RemoteReq.wf (r : RemoteReq) : Bool :=
  memberNo r.peer && localAddr r.addr && (r.fence.map (fun f => queueNo f.1 && contextNo f.2.2)).getD true && (!r.write || decide (r.data.length = r.bytes))

/-- A loss message names a module. -/
def LossMessage.wf : LossMessage → Bool
  | .lost m => memberNo m
  | .left m => memberNo m

/-- MAC addresses have 48 bits, VLAN tags 16. -/
def MgmtFrame.wf (f : MgmtFrame) : Bool :=
  decide (f.dst < 2 ^ 48) && decide (f.src < 2 ^ 48) && (match f.vlan with | none => true | some v => decide (v < 2 ^ 16))

/-- Whether a command is well formed. -/
def Instr.wf : Instr → Bool
  | .powerOnReset msel failedInjection => memberNo msel && injectionNo failedInjection
  | .rstNAssert => true
  | .rstNRelease msel failedInjection => memberNo msel && injectionNo failedInjection
  | .bootDone => true
  | .trialBootTimeout failedInjection => injectionNo failedInjection
  | .identityTreeRebuild => true
  | .wakeNLow failedInjection => injectionNo failedInjection
  | .wakeAfterMsExpiry failedInjection => injectionNo failedInjection
  | .presNChange _ => true
  | .presTermRemoval => true
  | .vinLow _ => true
  | .busShutoff => true
  | .phaseFault phase _ => phaseNo phase
  | .powerSample _ _ _ => true
  | .boostStep => true
  | .railRampDone => true
  | .powerMessageReceive member _ _ => memberNo member
  | .jobShareAdopt => true
  | .thermalScan temps => tempReadings temps
  | .thermalTrip sensor => tripSensor sensor
  | .thermalShutdown sensor => tripSensor sensor
  | .coolantSample _ _ => true
  | .triggerFire trig failedInjection => triggerNo trig && injectionNo failedInjection
  | .ringDeliverCopy port => ringPortNo port
  | .ringFrameReturn port ret => ringPortNo port && ret.wf
  | .ringFrameOutcome port _ => ringPortNo port
  | .ringLinkChange port _ _ => ringPortNo port
  | .ringDiscoverReturn port ret => ringPortNo port && discoverWf ret
  | .ringLayoutReturn port => ringPortNo port
  | .frameRelease ctx => contextNo ctx
  | .preclear ctx => contextNo ctx
  | .preclearLift ctx => contextNo ctx
  | .sliceEnd lane => laneNo lane
  | .npForced ctx => contextNo ctx
  | .goldenFrameStart => true
  | .goldenOverdue => true
  | .commandStart q => queueNo q
  | .replyPost q => queueNo q
  | .fenceTimeout q => queueNo q
  | .teardownComplete ctx => contextNo ctx
  | .kvRegionInitDone ctx => contextNo ctx
  | .scalarInstruction tile thread op => tileNo tile && threadNo thread && op.wf
  | .halt tile thread => tileNo tile && threadNo thread
  | .ucmd tile thread _ => tileNo tile && threadNo thread
  | .unitCommandStart tile unit_ => tileNo tile && unitNo unit_
  | .unitCommandComplete tile unit_ => tileNo tile && unitNo unit_
  | .stepClose tile ctx _ _ => tileNo tile && contextNo ctx
  | .twait tile thread => tileNo tile && threadNo thread
  | .level tile thread => tileNo tile && threadNo thread
  | .dbell tile thread => tileNo tile && threadNo thread
  | .qwait tile thread => tileNo tile && threadNo thread
  | .npenter tile thread => tileNo tile && threadNo thread
  | .npexit tile thread => tileNo tile && threadNo thread
  | .jbar tile thread => tileNo tile && threadNo thread
  | .barrierArrival member barrier => memberNo member && barrierNo barrier
  | .lbar tile thread => tileNo tile && threadNo thread
  | .tnow tile thread => tileNo tile && threadNo thread
  | .cwld tile thread _ _ => tileNo tile && threadNo thread
  | .cwst tile thread _ => tileNo tile && threadNo thread
  | .kernelLaunch q n => queueNo q && packetNo n
  | .shareZero q n => queueNo q && packetNo n
  | .perfSnapshot q n => queueNo q && packetNo n
  | .seqCreate q n => queueNo q && packetNo n
  | .seqFree q n => queueNo q && packetNo n
  | .seqFork q n => queueNo q && packetNo n
  | .prefixMatch q n => queueNo q && packetNo n
  | .seqExtend q n => queueNo q && packetNo n
  | .seqTruncate q n => queueNo q && packetNo n
  | .seqTrim q n => queueNo q && packetNo n
  | .kvWrite q n => queueNo q && packetNo n
  | .attend q n => queueNo q && packetNo n
  | .stepRetire q n => queueNo q && packetNo n
  | .migrate q n => queueNo q && packetNo n
  | .copy q n => queueNo q && packetNo n
  | .fill q n => queueNo q && packetNo n
  | .translationInvalidate q n => queueNo q && packetNo n
  | .mapUpdate q n => queueNo q && packetNo n
  | .mapPublish q n => queueNo q && packetNo n
  | .planQuery q n => queueNo q && packetNo n
  | .planCheck q n => queueNo q && packetNo n
  | .libLoad q n => queueNo q && packetNo n
  | .streamStart q n => queueNo q && packetNo n
  | .streamStop q n => queueNo q && packetNo n
  | .sampleRead q n => queueNo q && packetNo n
  | .calibFeed q n => queueNo q && packetNo n
  | .calibSet q n => queueNo q && packetNo n
  | .calibRead q n => queueNo q && packetNo n
  | .setWrite q n => queueNo q && packetNo n
  | .setCommit q n => queueNo q && packetNo n
  | .setRead q n => queueNo q && packetNo n
  | .imageHoldTimeout => true
  | .fence q n _ => queueNo q && packetNo n
  | .powerCapSet q n => queueNo q && packetNo n
  | .powerModeSet q n => queueNo q && packetNo n
  | .powerRead q n => queueNo q && packetNo n
  | .storeWrite q n => queueNo q && packetNo n
  | .storeVerify q n => queueNo q && packetNo n
  | .fwActivate q n => queueNo q && packetNo n
  | .rollbackRaise q n => queueNo q && packetNo n
  | .attest q n => queueNo q && packetNo n
  | .identityRead q n => queueNo q && packetNo n
  | .measExtend q n => queueNo q && packetNo n
  | .warmReset q n failedInjection => queueNo q && packetNo n && injectionNo failedInjection
  | .powerStateSet q n => queueNo q && packetNo n
  | .netSend q n => queueNo q && packetNo n
  | .regRead q n _ _ => queueNo q && packetNo n
  | .regWrite q n _ => queueNo q && packetNo n
  | .logRead q n => queueNo q && packetNo n
  | .logFreeze q n => queueNo q && packetNo n
  | .logThaw q n => queueNo q && packetNo n
  | .logClear q n => queueNo q && packetNo n
  | .freezeExpired => true
  | .logRecordWrite => true
  | .recordStaging => true
  | .opSecondsTick => true
  | .safeRead q n => queueNo q && packetNo n
  | .safeModeSet q n => queueNo q && packetNo n
  | .safeStopRequest q n => queueNo q && packetNo n
  | .checkInput q n => queueNo q && packetNo n
  | .mainOutput q n => queueNo q && packetNo n
  | .thistlePassDone _ _ => true
  | .comparatorDecision => true
  | .compareDeadline => true
  | .verdictAction => true
  | .goldenFrameCheck => true
  | .goldenPassOverdue => true
  | .sampleGateClose inputs => gateInputs inputs
  | .cowslipFrameTick => true
  | .lockstepMismatch => true
  | .stopDiscrepancy => true
  | .watchdogExpiry => true
  | .outputReadbackCheck _ _ => true
  | .clockMonitor _ _ => true
  | .cowslipDebugHalt => true
  | .postureSettled => true
  | .safeTimeout => true
  | .proofIntervalDue => true
  | .jobJoin q n _ _ => queueNo q && packetNo n
  | .joinRequestReceive port req => linkPortNo port && req.wf
  | .joinCommitReceive port module_ mask => linkPortNo port && memberNo module_ && maskNo mask
  | .joinTimeout => true
  | .jobLeave q n => queueNo q && packetNo n
  | .lossMessageReceive port msg => linkPortNo port && msg.wf
  | .linkRetrain q n => queueNo q && packetNo n
  | .linkRead q n => queueNo q && packetNo n
  | .flitReplay port _ => linkPortNo port
  | .retrainStart port _ => linkPortNo port
  | .retrainEnd port _ _ => linkPortNo port
  | .lanesSilent port => linkPortNo port
  | .linkTrainDone port _ peer => linkPortNo port && memberNo peer
  | .linkFailedHoldoff port => linkPortNo port
  | .remoteAccess req _ => req.wf
  | .timeSetIncr q n => queueNo q && packetNo n
  | .triggerArm q n => queueNo q && packetNo n
  | .timeRead q n => queueNo q && packetNo n
  | .syncReceive domain sync => netPortNo sync.port && domainNo domain
  | .syncLost domain => domainNo domain
  | .holdoverEnd => true
  | .domainReturn => true
  | .steeringUpdate => true
  | .gateEntryExpiry port => netPortNo port
  | .netFrameTransmit port => netPortNo port
  | .mgmtSubmit port frame => netPortNo port && frame.wf
  | .mgmtPoll port frame => netPortNo port && frame.wf
  | .mgmtFrameRefused port frame => netPortNo port && frame.wf
  | .replyFrameSend port => netPortNo port
  | .replyResend port => netPortNo port
  | .sampleIngress stream _ _ => streamNo stream
  | .fuseRecordRelease group => groupNo group
  | .fuseReleaseDeadline group => groupNo group
  | .loopEnable q n => queueNo q && packetNo n
  | .loopDisable q n => queueNo q && packetNo n
  | .coefWrite q n => queueNo q && packetNo n
  | .bankSwap q n => queueNo q && packetNo n
  | .setpointWrite q n => queueNo q && packetNo n
  | .tripClear q n => queueNo q && packetNo n
  | .loopRead q n => queueNo q && packetNo n
  | .ringPortStart q n => queueNo q && packetNo n
  | .ringPortStop q n => queueNo q && packetNo n
  | .ringWordWrite q n => queueNo q && packetNo n
  | .ringSnapshot q n => queueNo q && packetNo n
  | .teaselArm q n => queueNo q && packetNo n
  | .teaselRelease q n => queueNo q && packetNo n
  | .qmgrDoorbellWrite _ _ => true
  | .queueCfgWrite _ off _ => windowOff off
  | .ctxReset _ ctx => contextNo ctx
  | .tileShareWrite _ tile ctx _ => tileNo tile && contextNo ctx
  | .tileThrAssign _ tile thread ctx => tileNo tile && threadNo thread && contextNo ctx
  | .tileThrRelease _ tile thread ctx => tileNo tile && threadNo thread && contextNo ctx
  | .perfClear _ tile => tileNo tile
  | .tileFaultClear _ tile => tileNo tile
  | .tileDbgHalt _ tile thread => tileNo tile && threadNo thread
  | .tileDbgResume _ tile thread => tileNo tile && threadNo thread
  | .tileDbgStep _ tile thread => tileNo tile && threadNo thread
  | .tileDbgRegWrite _ tile thread reg _ => tileNo tile && threadNo thread && scalarReg reg
  | .memCtxWrite _ off _ => windowOff off
  | .kvmCtxWrite _ off _ => windowOff off
  | .ctlCfgWrite _ off _ => windowOff off
  | .ctlCommit _ _ => true
  | .ringCfgWrite _ off _ => windowOff off
  | .timeSet _ _ => true
  | .timeCfgWrite _ off _ => windowOff off
  | .safeReqReq _ _ => true
  | .safeReqSto _ => true
  | .safeWdtServe _ _ => true
  | .pwrCfgWrite _ off _ => windowOff off
  | .pcieInboundWrite _ _ => true
  | .pcieCfgRead _ _ => true
  | .pcieCfgWrite _ _ _ => true
  | .pcieMemRead _ _ => true
  | .pcieMemWrite _ _ _ => true
  | .pcieInboundRequest _ => true
  | .pcieLinkChange _ _ _ => true
  | .memDbgAddrWrite _ _ => true
  | .debugReadComplete => true
  | .registerWrite _ off _ => windowOff off
  | .scrubPassRead addr _ => localAddr addr
  | .corrHourRoll => true
  | .trainingPatternSeen port => linkPortNo port
  | .gmChange domain _ _ => domainNo domain
  | .syncTransmit domain => domainNo domain
  | .stopInput _ => true
  | .otherDropped port => netPortNo port
  | .cowslipRequestPagePoll _ => true
  | .safetySramScrub _ _ _ => true

end Sys2Proof
end

