-- ==== Sys2Proof/Tests/Slice0.lean ====
section
/-! SUPPORT. The author's own tests: ill-formed commands, small checks against the spec's figures, and for every clause of a
statement that has hypotheses a state and operands that meet them together (`wit_<Statement>_<clause>`). -/

namespace Sys2Proof.Machine

set_option Elab.async false

/-! ### Small states -/

/-- A state's parts, checked. -/
theorem sound_check (s : State) (h : (Memory.wf s.mem && Memory.wf s.flash && storeWf resetWord s.cw
    && storeWf (fun _ => Thread.init) s.threads && storeWf (fun _ => UnitState.init) s.units
    && storeWf (fun _ => (0 : Word)) s.vregs && storeWf (fun _ => Queue.init) s.queues
    && storeWf (fun _ => Ctx.init) s.ctxs && storeWf (fun _ => Lane.init) s.lanes
    && storeWf (fun _ => Mgmt.init) s.mgmt && storeWf (fun _ => Barrier.init) s.barriers
    && decide (incrMin ≤ s.timeu.incr ∧ s.timeu.incr ≤ incrMax ∧ s.time < 2 ^ 64 ∧ s.frac < 2 ^ 32)) = true) : Sound s := by
  simp only [Bool.and_eq_true, decide_eq_true_eq] at h
  obtain ⟨⟨⟨⟨⟨⟨⟨⟨⟨⟨⟨h1, h2⟩, h3⟩, h4⟩, h5⟩, h6⟩, h7⟩, h8⟩, h9⟩, h10⟩, h11⟩, h12, h13, h14, h15⟩ := h
  exact ⟨h1, h2, h3, h4, h5, h6, h7, h8, h9, h10, h11, ⟨h12, h13⟩, h14, h15⟩

/-- Whether an access answered this value. -/
def okIs {ε α : Type} [DecidableEq α] (r : Except ε α) (a : α) : Bool :=
  match r with
  | .ok x => decide (x = a)
  | .error _ => false

theorem ok_of {ε α : Type} [DecidableEq α] {r : Except ε α} {a : α} (h : okIs r a = true) : r = .ok a := by
  cases r with
  | ok x => exact congrArg _ (of_decide_eq_true h)
  | error _ => cases h

/-- Whether an access answered, and the state it answered. -/
def okHas {ε : Type} (r : Except ε State) : Bool :=
  match r with
  | .ok _ => true
  | .error _ => false

def okState {ε : Type} (r : Except ε State) : State :=
  match r with
  | .ok x => x
  | .error _ => State.reset

theorem ok_got {ε : Type} {r : Except ε State} (h : okHas r = true) : r = .ok (okState r) := by
  cases r with
  | ok x => rfl
  | error _ => cases h

/-- The state a command answers. -/
def nextHas (r : Host.Outcome State Fault Refusal) : Bool :=
  match r with
  | .next _ => true
  | _ => false

def nextState (r : Host.Outcome State Fault Refusal) : State :=
  match r with
  | .next x => x
  | _ => State.reset

theorem next_got {r : Host.Outcome State Fault Refusal} (h : nextHas r = true) : r = .next (nextState r) := by
  cases r with
  | next x => rfl
  | fault _ => cases h
  | refused _ => cases h

/-- The list an access answers. -/
def okList {ε α : Type} (r : Except ε (List α)) : List α :=
  match r with
  | .ok x => x
  | .error _ => []

def okAny {ε α : Type} (r : Except ε α) : Bool :=
  match r with
  | .ok _ => true
  | .error _ => false

theorem ok_list {ε α : Type} {r : Except ε (List α)} (h : okAny r = true) : r = .ok (okList r) := by
  cases r with
  | ok x => rfl
  | error _ => cases h

/-- What a command that is done answers. -/
def doneHas (r : Verdict) : Bool :=
  match r with
  | .done _ _ _ => true
  | _ => false

def doneStatus (r : Verdict) : Nat :=
  match r with
  | .done st _ _ => st
  | _ => 0

def doneDetail (r : Verdict) : Nat :=
  match r with
  | .done _ d _ => d
  | _ => 0

def doneState (r : Verdict) : State :=
  match r with
  | .done _ _ s => s
  | _ => State.reset

theorem done_got {r : Verdict} (h : doneHas r = true) : r = .done (doneStatus r) (doneDetail r) (doneState r) := by
  cases r with
  | done _ _ _ => rfl
  | _ => cases h

/-- A packet: its opcode, its LENGTH, and other fields as (offset, size, value). -/
def packetFor (op len : Nat) (fs : List (Nat × Nat × Nat)) : List Byte :=
  fs.foldl (fun l f => l.take f.1 ++ leBytes f.2.1 f.2.2 ++ l.drop (f.1 + f.2.1))
    (leBytes 8 op ++ leBytes 4 len ++ List.replicate 52 0)

/-- A started command, number 0. -/
def aCmd (op len : Nat) (fs : List (Nat × Nat × Nat)) : QCmd := ⟨0, packetFor op len fs, .started, 0, 0, 0, false, 0, false, [], 0⟩

/-- The state with one outstanding command of a queue. -/
def withCmd (s : State) (q : Nat) (c : QCmd) : State := { s with queues := storeSet (fun _ => Queue.init) s.queues q ⟨1, 0, [c]⟩ }

/-- The state with register fields set. -/
def withFields (s : State) (fs : List (Field × Nat)) : State := forEach fs (fun f s => fset s f.1 f.2) s

/-- After reset, management queue 0 has a started command. -/
def runs (op len : Nat) (fs : List (Nat × Nat × Nat)) : State := withCmd State.reset 0 (aCmd op len fs)

/-- A context plan: class 1 on tile 0, with the given CFLAGS. -/
def aPlan (cflags : Nat) : Plan :=
  ⟨0, 1, cflags, 0, 0, 0, 1, 4, 0, 1, 0, 0, 0, 0, 16, 16, 1, 0, 0, 0, 5, 0, 1000000, 0, 1000000, 1000⟩

/-- Context 1 is ACTIVE on tile 0 and maps its addresses 0 to 0x1FFFFF to LPDDR5X at 0x200000 by one 2 MiB page and from
0x200000 on to 0x400000 by 4 KiB pages. -/
def up : State :=
  withFields
    { State.reset with
      ctxs := [(1, { Ctx.init with plan := some (aPlan 2) })]
      mem := (forEach [(0x1000, 0x2001), (0x2000, 0x3001), (0x3000, 0x20000F), (0x3008, 0x4001), (0x4000, 0x400005), (0x4008, 0x401005)]
        (fun e s => memPut s e.1 8 e.2) State.reset).mem }
    [(Reg.QMGR_CTX_STATE_STATE 1, 1), (Reg.MEM_CTX_PTROOT_ROOT 1, 1), (Reg.MEM_CTX_LP_SIZE 1, 16), (Reg.TILE_CTRL_ISSUE_EN 0, 1)]

/-- Thread 0 of tile 0, READY in context 1 at address 0x1000, with registers 1 and 2 as given. -/
def aThread (a b : DWord) : Thread := { Thread.init with state := .ready, ctx := 1, pc := 0x1000, regs := [(1, a), (2, b)] }

/-- It meets the instruction word `w`. -/
def issuing (w : Nat) (th : Thread) : State := memPut { up with threads := [(0, th)] } 0x201000 4 w

/-- A word of FUNC with rd, rs1 and rs2 (R581). -/
def issueWord (func rd rs2 rs1 : Nat) : Nat := 0x3F * 2 ^ 26 + func * 2 ^ 20 + rd * 2 ^ 15 + rs1 * 2 ^ 10 + rs2 * 2 ^ 5

/-- An entry point of kind 3 with one switch point. -/
def anEntry : Entry := ⟨3, 1, 0, 1, [0, 0, 0, 0], [0, 0, 0, 0], 0⟩

/-- A resident image with that entry. -/
def anImage : Image := ⟨0, 0, 0, 1, [], [anEntry], [], [], [], [], [], [], 0, 0, []⟩

/-- A launch of entry 0 for context 1. -/
def aLaunch : Launch := ⟨0, 1, 16, 0, 0, 1, 0, [], false, false, 0, false, none⟩

/-- A unit command of thread 0. -/
def aUnitCmd (op : UnitOp) : UnitCmd := ⟨1, 0, 0, op, none, 0, false, 0, false⟩

/-- `up`, with threads 0 and 1 of tile 0 IDLE in context 1 and the image resident. -/
def ready : State :=
  { up with
    threads := [(0, { Thread.init with state := .idle, ctx := 1 }), (1, { Thread.init with state := .idle, ctx := 1 })]
    image := some anImage }

/-- `s` with a started command of management queue 0 that names context 1. -/
def names1 (s : State) (op len : Nat) (fs : List (Nat × Nat × Nat)) : State := withCmd s 0 (aCmd op len ((3, 1, 1) :: fs))

/-- That command. -/
def cmd1 (op len : Nat) (fs : List (Nat × Nat × Nat)) : QCmd := aCmd op len ((3, 1, 1) :: fs)

/-- `up` with a key-state region of context 1 at LPDDR5X 0x1000000: eight sequences, sequence 0 VALID, 17 narrow slots, 16 wide. -/
def kvUp (flags : Nat) : State :=
  memPut (withFields up [(Reg.KVM_CTX_REG_BASE 1, 8), (Reg.KVM_CTX_REG_SIZE 1, 2), (Reg.KVM_CTX_SEQ_SEQ_MAX 1, 8),
    (Reg.KVM_CTX_SEQ_PT_UNITS 1, 1), (Reg.KVM_CTX_POOL_WIDE_UNITS 1, 1), (Reg.KVM_CTX_POOL_NARROW_SLOTS 1, 17),
    (Reg.KVM_GEOM_LAYERS, 1), (Reg.KVM_GEOM_KV_HEADS, 1), (Reg.KVM_GEOM_GROUP, 1), (Reg.KVM_GEOM_HEAD_DIM, 1),
    (Reg.KVM_GEOM_KV_FMT, 1), (Reg.KVM_GEOM_SLOT_UNITS, 1), (Reg.TILE_SHARE_SIZE 0 1, 8)]) 0x100000C 1 flags

theorem pair_of {α β : Type} {p : α × β} {a : α} (h : p.1 = a) : p = (a, p.2) := by rw [← h]

theorem pair_eta {α β : Type} {p : α × β} : p = (p.1, p.2) := rfl

theorem failAccess_done (s : State) (q : Nat) (c : QCmd) (i d : Nat) (e : AccErr) : doneHas (failAccess s q c i d e) = true := by
  cases e <;> simp only [failAccess, failUnread] <;> first | rfl | (split <;> rfl)

theorem attendFinish_done (q : Nat) (c : QCmd) (a : Attend) (s : State) : doneHas (attendFinish q c a s) = true := by
  unfold attendFinish
  extract_lets
  split
  extract_lets _ _ bad
  generalize bad = b
  cases b with
  | some _ => exact failAccess_done ..
  | none =>
    dsimp only
    generalize vaRead _ a.ctx (c.field 32 8) _ = x
    generalize (if bitAt (c.field 26 1) 0 = true then vaRead _ _ _ _ else _) = y
    cases x with
    | error _ => exact failAccess_done ..
    | ok _ =>
      cases y with
      | error _ => exact failAccess_done ..
      | ok _ =>
        dsimp only
        generalize vaWrite _ _ _ _ = z
        cases z with
        | error _ => exact failAccess_done ..
        | ok _ => rfl

theorem triple_eta {α β γ : Type} {p : α × β × γ} : p = (p.1, p.2.1, p.2.2) := rfl

theorem padTo_length (n : Nat) (l : List Byte) : (padTo n l).length = n := by
  simp only [padTo, List.length_append, List.length_take, List.length_replicate]
  omega

theorem leBytes_length (n v : Nat) : (leBytes n v).length = n := by
  induction n generalizing v with
  | zero => rfl
  | succ n ih => simp only [leBytes, List.length_cons, ih]

theorem flatMap_length {α : Type} (f : α → List Byte) (k : Nat) (h : ∀ x, (f x).length = k) (l : List α) :
    (l.flatMap f).length = k * l.length := by
  induction l with
  | nil => rfl
  | cons x l ih => rw [List.flatMap_cons, List.length_append, ih, h, List.length_cons, Nat.mul_add, Nat.mul_one, Nat.add_comm]

theorem signedReport_length (s : State) (q k : Nat) (n u : List Byte) : (signedReport q (report s k n u)).length ≤ 0x2000 := by
  have h1 : (s.harebell.stageVer.take 3).length ≤ 3 := List.length_take_le ..
  have h2 : (s.harebell.meas.take 8).length ≤ 8 := List.length_take_le ..
  unfold signedReport report
  extract_lets h flags
  simp only [List.length_append, padTo_length, leBytes_length, List.length_replicate, u8, List.length_cons, List.length_nil,
    flatMap_length (leBytes 4) 4 (fun _ => leBytes_length ..), flatMap_length (padTo 32) 32 (fun _ => padTo_length ..),
    flatMap_length (fun k => leBytes 4 (minValue s k)) 4 (fun _ => leBytes_length ..), List.length_range]
  have h3 : (h.stageVer.take 3).length ≤ 3 := h1
  have h4 : (h.meas.take 8).length ≤ 8 := h2
  omega

/-- A management queue reaches LPDDR5X where no image region lies. -/
theorem mgmt_pieces {s : State} {q va n : Nat} {u : Use} (hq : isMgmt q = true) (hi : inImageRegion s va 1 = false) (h0 : n ≠ 0)
    (hn : va + n ≤ 0x3000000000) : opPieces s q va n u = .ok [(va, n)] := by
  have hl : localOk va n = true := by
    simp only [localOk, rangeIn, isLp, Bool.and_eq_true, Bool.or_eq_true, decide_eq_true_eq]
    omega
  unfold opPieces
  rw [if_neg h0, if_pos hq, hl, hi]
  simp

/-- It can write there where nothing is uncorrectable. -/
theorem mgmt_write_ok {s : State} {q va : Nat} {bs : List Byte} (h : (isMgmt q && s.uncorr.isEmpty && !inImageRegion s va 1) = true)
    (hn : va + bs.length ≤ 0x3000000000) : okHas (opWrite s q va bs) = true := by
  simp only [Bool.and_eq_true, List.isEmpty_iff, Bool.not_eq_true'] at h
  obtain ⟨⟨h1, h2⟩, h3⟩ := h
  unfold opWrite
  by_cases h0 : bs.length = 0
  · unfold opPieces
    rw [if_pos h0]
    rfl
  · rw [mgmt_pieces h1 h3 h0 hn]
    simp only [writeBlocked, badPartial, h2, List.find?_nil]
    rfl

/-- Memory that lists nothing reads zero. -/
theorem mgmt_read_empty {s : State} {q va n : Nat} (h : (isMgmt q && s.uncorr.isEmpty && !inImageRegion s va 1 && s.mem.isEmpty) = true)
    (h0 : n ≠ 0) (hn : va + n ≤ 0x3000000000) : opRead s q va n = .ok (List.replicate n 0) := by
  simp only [Bool.and_eq_true, List.isEmpty_iff, Bool.not_eq_true'] at h
  obtain ⟨⟨⟨h1, h2⟩, h3⟩, h4⟩ := h
  have hr : ∀ (k a : Nat), storeGetList memDefault ([] : List Host.Cell) a k = List.replicate k 0 := by
    intro k
    induction k with
    | zero => intro a; rfl
    | succ k ih => intro a; rw [storeGetList, ih]; rfl
  unfold opRead
  rw [mgmt_pieces h1 h3 h0 hn]
  simp only [readPieces, badUnit, h2, List.find?_nil, memRead, h4, hr, List.append_nil]

/-- The planner is enabled for context 1: map region at LPDDR5X 0x1800000, work region at 0x1A00000. -/
def planUp : State :=
  withFields State.reset [(Reg.PLN_CFG_EN, 1), (Reg.PLN_CFG_OWNER, 1), (Reg.PLN_MAP_REG_BASE, 12), (Reg.PLN_MAP_REG_SIZE, 1),
    (Reg.PLN_WORK_REG_BASE, 13), (Reg.PLN_WORK_REG_SIZE, 1)]

/-- A query: HEUR_SCALE 1.0 and WEIGHT 1.0, all else zero. -/
def aRequest : List Byte :=
  List.replicate 48 0 ++ [0, 0, 0x80, 0x3F, 0, 0, 0x80, 0x3F] ++ List.replicate 72 0

/-- `planUp` with that query at 0x500000 and a library of 64 bytes bound. -/
def planAsked : State :=
  let s := memWrite planUp 0x500000 aRequest
  { s with vetch := { Vetch.init with lib := some 64 } }

/-- Context 1 hosts the network, owns queue 16, and a frame began at 0. -/
def hosting : State :=
  withFields { up with
    ctxs := [(1, { Ctx.init with plan := some (aPlan 4) })]
    safety := { Safety.init with frame := some 0 } } [(Reg.QMGR_QCFG_OWNER 16, 1)]

/-- A management frame of a type for port `e`, with nothing in it. -/
def aFrame (type e seq : Nat) : MgmtFrame :=
  ⟨0x02004E4C1000 + e, 0x020000000001, none, true, leBytes 1 1 ++ leBytes 3 type ++ leBytes 8 (2 ^ 32 * seq) ++ List.replicate 34 0⟩

/-- Both management ports and their queues are on. -/
def mgmtUp : State :=
  withFields State.reset [(Reg.NET_MGMT_CFG_EN 0, 1), (Reg.NET_MGMT_CFG_EN 1, 1), (Reg.QMGR_QCFG_EN 0, 1), (Reg.QMGR_QCFG_EN 1, 1)]

/-- Stream 127 is used: not a camera, 32-byte elements, four slots. -/
def sensing : State :=
  { State.reset with
    sensors := { Sensors.init with
      streams := [(127, { Stream.init with desc := [2, 0, 0, 2, 0, 0, 0, 0, 32, 0, 4, 0] ++ List.replicate 52 0 })] } }

/-- Stream 127 is used: a ring stream. -/
def ringSensing : State :=
  { State.reset with
    sensors := { Sensors.init with streams := [(127, { Stream.init with desc := [5, 0, 0, 2, 0, 0, 0, 0, 32, 0, 4, 0] ++ List.replicate 52 0 })] } }

/-- A correspondence of stream 127. -/
def anObservation : List Byte :=
  leBytes 4 127 ++ [0, 0, 0x80, 0x3F] ++ leBytes 8 0 ++ leBytes 8 1 ++ [0, 0, 0x80, 0x3F] ++ List.replicate 20 0

/-- A calibration record: the unit rotation at the origin. -/
def aSlot : List Byte :=
  [0, 0, 0x80, 0x3F] ++ List.replicate 24 0 ++ [1, 0, 1, 0] ++ List.replicate 4 0 ++ [0, 0, 0x80, 0x3F] ++ List.replicate 24 0

/-- A frame of a ring port. -/
def aFlight (k : FlightKind) : Flight := ⟨k, 0, 0, false, false, [], none, false⟩

/-- A discovery or layout frame is in flight on ring port 7. -/
def flying (k : FlightKind) : State :=
  { State.reset with rings := { Rings.init with ports := [(7, { RPort.init with flight := some (aFlight k) })] } }

/-- A cyclic frame is on the line of ring port 7. -/
def cycling : State :=
  { State.reset with rings := { Rings.init with ports := [(7, { RPort.init with line := [aFlight .cyclic] })] } }

/-- RING_WORD_WRITE of word 0 of node 0 of port 7, which no loop drives. -/
def ringWords : State :=
  withFields (runs 0x0C12 1 [(16, 1, 7), (24, 8, 0x500000)]) [(Reg.RING_PORT_CFG_NODES 7, 1), (Reg.RING_NODE_LAYOUT_CMD_WORDS 7 0, 1)]

theorem ringWords_free : ∀ l, l < 256 → loopCmdEn ringWords l = false := by decide +kernel

/-! ### Ill-formed commands: one for each check -/

theorem test_wf_queue : Instr.wf (.copy 16384 0) = false := by decide
theorem test_wf_packet : Instr.wf (.copy 0 0x100000000) = false := by decide
theorem test_wf_context : Instr.wf (.frameRelease 64) = false := by decide
theorem test_wf_tile : Instr.wf (.halt 48 0) = false := by decide
theorem test_wf_thread : Instr.wf (.halt 0 128) = false := by decide
theorem test_wf_unit : Instr.wf (.unitCommandStart 0 6) = false := by decide
theorem test_wf_lane : Instr.wf (.sliceEnd 8) = false := by decide
theorem test_wf_trigger : Instr.wf (.triggerFire 64 0) = false := by decide
theorem test_wf_domain : Instr.wf (.syncLost 2) = false := by decide
theorem test_wf_member : Instr.wf (.powerMessageReceive 4 0 0) = false := by decide
theorem test_wf_mask : Instr.wf (.joinCommitReceive 0 0 16) = false := by decide
theorem test_wf_window : Instr.wf (.registerWrite .runtime 0x4000000 0) = false := by decide
theorem test_wf_window_aligned : Instr.wf (.registerWrite .runtime 2 0) = false := by decide
theorem test_wf_scalar : Instr.wf (.tileDbgRegWrite .runtime 0 0 32 0) = false := by decide
theorem test_wf_stream : Instr.wf (.sampleIngress 128 ⟨[], .raw8, 0⟩ 0) = false := by decide
theorem test_wf_group : Instr.wf (.fuseRecordRelease 8) = false := by decide
theorem test_wf_phase : Instr.wf (.phaseFault 8 .overcurrent) = false := by decide
theorem test_wf_sensor : Instr.wf (.thermalTrip 8) = false := by decide
theorem test_wf_barrier : Instr.wf (.barrierArrival 0 64) = false := by decide
theorem test_wf_injection : Instr.wf (.trialBootTimeout 256) = false := by decide
theorem test_wf_ring_port : Instr.wf (.ringDeliverCopy 8) = false := by decide
theorem test_wf_link_port : Instr.wf (.lanesSilent 3) = false := by decide
theorem test_wf_net_port : Instr.wf (.netFrameTransmit 2) = false := by decide
theorem test_wf_local : Instr.wf (.scrubPassRead 0x20000000000 .clean) = false := by decide
theorem test_wf_gates : Instr.wf (.sampleGateClose []) = false := by decide
theorem test_wf_scan : Instr.wf (.thermalScan []) = false := by decide
theorem test_wf_operands : Instr.wf (.scalarInstruction 0 0 (.load 4 false 0 0 0)) = false := by decide
theorem test_wf_return : Instr.wf (.ringFrameReturn 0 ⟨true, 17, List.replicate 17 ⟨0, 0, 0, [], []⟩⟩) = false := by decide
theorem test_wf_discover : Instr.wf (.ringDiscoverReturn 0 ⟨true, true, 17, List.replicate 17 ⟨0, 0, 0, 0, 0, 0, 0, 0, 0⟩⟩) = false := by decide
theorem test_wf_join : Instr.wf (.joinRequestReceive 0 ⟨0, 0, 0, 0, [], 0, false, 0, 0, []⟩) = false := by decide
theorem test_wf_remote : Instr.wf (.remoteAccess ⟨1, true, 0, 4, [], none⟩ .timeout) = false := by decide
theorem test_wf_loss : Instr.wf (.lossMessageReceive 0 (.lost 4)) = false := by decide
theorem test_wf_frame : Instr.wf (.mgmtSubmit 0 ⟨0x1000000000000, 0, none, true, []⟩) = false := by decide
theorem test_wf_accepts : Instr.wf (.copy 16383 0xFFFFFFFF) = true := by decide

/-! ### The spec's own figures -/

/-- 11_time: TIME 0xFFFFFF00 and X 0x100 lie 512 ns apart, and X is not reached. -/
theorem test_time_wrap : s32diff 0x100 0xFFFFFF00 = 512 := by decide
theorem test_time_not_reached : reached { State.reset with time := 0xFFFFFF00 } 0x100 = false := by decide +kernel
/-- 01_module_architecture, locating a tile: tile 19 at offset 0x40000, and its control slot 0x23. -/
theorem test_tile_address : tileAddr 19 0x40000 = 0x10009840000 := by decide
theorem test_tile_slot : Reg.TILE_CTRL 19 / 0x100000 = 0x23 := by decide
/-- 02_campion_tiles: TILE_SHARE 0x08000820 grants units 32..39 and vector registers 0..7. -/
theorem test_share_units : bits 0x08000820 6 0 = 32 ∧ bits 0x08000820 15 8 = 8 ∧ bits 0x08000820 30 24 = 8 := by decide
/-- 03_arithmetic_quantisation: 464 narrows to E4M3 448 without saturating, 497.8 saturates; E2M1 saturates at 7. -/
theorem test_e4m3_edge : narrowElem 7 0 (Num.ofInt 464) = (0x7E, false) ∧ narrowElem 7 0 (Num.ofInt 497) = (0x7E, true) := by
  decide +kernel
theorem test_e2m1_edge : narrowElem 9 0 (Num.ofInt 7) = (7, true) ∧ narrowElem 9 0 (Num.ofInt 6) = (7, false) := by decide +kernel
/-- The delayed scale: 360 / 448 and its reciprocal. -/
theorem test_scale : rne32 ((Num.ofInt 360).div (Num.ofInt 448)) = 0x3F4DB6DB := by decide +kernel
/-- The rotated block: the group scale 282 is written 0xB9, and 5.875 and 1.875 are written 7 and 4. -/
theorem test_group_scale : roundSat .ue5m3 (Num.ofInt 282) = (0xB9, false) := by decide +kernel
theorem test_group_elements : narrowElem 0xB 0 ((Num.ofInt 47).scale (-3)) = (7, false)
    ∧ narrowElem 0xB 0 ((Num.ofInt 15).scale (-3)) = (4, false) := by decide +kernel
/-- 04_memory_tiers, one NX4 chunk: bytes 0x10 0x01 decode to 0x11 0x01. -/
theorem test_decode_chunk :
    decodeSyms (canonical ([0x10] ++ List.replicate 7 0xFF ++ [0x0F] ++ List.replicate 119 0xFF)) [0x10, 0x01] 16 2 0
      = some [0x11, 0x01] := by decide +kernel
/-- 09_yarrow_control, one min-select group: loop 40's output is 10.0 and its integrator 1.75; loop 41 has the least output. -/
theorem test_loop : (fun x => (x.out, x.ic, x.d))
    (evalLoop { Loop.init with
        bankA := [0x45000000, 0x42800000, 0x3F000000, 0x44800000, 0, 0xC2C80000, 0x42C80000, 0xC2200000, 0x42200000, 0x35800000,
          0x447A0000, 0x3B03126F, 500, 1] ++ List.replicate 18 0
        integ := 0x3FC00000, d := 0x3F000000, e := 0x3B800000 } 1044480 0x3F800000)
      = (0x41200000, 0x3FE00000, 0x3E800000) := by decide +kernel
theorem test_group_select :
    groupSelect [(40, 0x41200000), (41, 0x41180000), (42, 0x41300000), (43, 0x41600000)] = some (41, 0x41180000) := by decide +kernel
/-- 10_bindweed_rings, one ring cycle of a 12-node arm line: ROUND_NS is 20,138 ns. -/
theorem test_round : roundFor (12 * 600) 560 = 20138 := by decide
/-- 18_mallow_power_thermal, a cap enforced on one member: OWN goes 0, 13, 23. -/
theorem test_own_first : ownStep 0 4 240000000 200000000 = 13 := by decide +kernel
theorem test_own_second : ownStep 13 4 229843750 200000000 = 23 := by decide +kernel
/-- FIPS 180-4: the digest of the three bytes "abc" begins 0xBA7816BF. -/
theorem test_sha : (sha256 [0x61, 0x62, 0x63]).take 4 = [0xBA, 0x78, 0x16, 0xBF] := by decide +kernel

/-! ### Single steps -/

/-- R315, R316: INCR is 2.0 ns after reset, so one tick is 2 ns. -/
theorem test_tick : (nextState (step State.reset)).time = 2 := by decide +kernel
/-- R317: TIME_SET of another agent raises 0x5008. -/
theorem test_time_set : (nextState (exec (.timeSet .runtime 7) State.reset)).tansy.raised.map (·.code) = [0x5008] := by decide +kernel
/-- R34: a runtime write to the safety slot is refused with 0x8033. -/
theorem test_safety_slot :
    (nextState (exec (.registerWrite .runtime 0xB00000 7) State.reset)).tansy.raised.map (·.code) = [0x8033] := by decide +kernel
/-- The supply below 36 V raises 0x9008. -/
theorem test_vin : (nextState (exec (.vinLow 35999) State.reset)).tansy.raised.map (·.code) = [0x9008] := by decide +kernel
/-- R44: a store of register 2 reaches the byte its address maps to. -/
theorem test_store :
    memByte (nextState (exec (.scalarInstruction 0 0 (.store 0 1 2 0)) (issuing 0x13 (aThread 0x1FFFF8 2)))) 0x3FFFF8 = 2 := by
  decide +kernel
/-- R586: NPENTER enters one level. -/
theorem test_npenter :
    (thread (nextState (exec (.npenter 0 0) (issuing (issueWord 0x06 0 0 0) (aThread 0 0)))) 0 0).depth = 1 := by decide +kernel
/-- TNOW answers module time. -/
theorem test_tnow :
    xreg (thread (nextState (exec (.tnow 0 0) { issuing (issueWord 0x09 3 0 0) (aThread 0 0) with time := 77 })) 0 0) 3 = 77 := by
  decide +kernel
/-- HALT leaves the thread IDLE. -/
theorem test_halt :
    (thread (nextState (exec (.halt 0 0) (issuing (issueWord 0x00 0 0 0) (aThread 0 0)))) 0 0).state = .idle := by decide +kernel
/-- TRIGGER_ARM arms its range. -/
theorem test_trigger_arm : trigArmed (nextState (exec (.triggerArm 0 0) (runs 0x0B01 1 [(16, 2, 63), (18, 1, 1)]))) 63 = true := by
  decide +kernel
/-- A reply is posted only after the record of its command: while one is raised, the reply waits (R437). -/
theorem test_reply_waits :
    (nextState (exec (.replyPost 0) (raise (withCmd State.reset 0 { aCmd 0x0302 1 [] with phase := .complete }) 0x5008 0 []))).queues
      = (withCmd State.reset 0 { aCmd 0x0302 1 [] with phase := .complete }).queues := by decide +kernel

/-! ### Witnesses -/

theorem wit_StepRunsFrontCommand_1 :
    ∃ (c : Instr) (rest : List Instr) (s : State), s.pending = c :: rest :=
  ⟨.rstNAssert, [], { State.reset with pending := [.rstNAssert] }, by decide +kernel⟩

theorem wit_IdleStepTicks_1 :
    ∃ (s : State), Sound s ∧ s.pending = [] ∧ s.power.off = false :=
  ⟨State.reset, sound_check _ (by decide +kernel), by decide +kernel, by decide +kernel⟩

theorem wit_IdleStepTicks_2 :
    ∃ (s : State), s.pending = [] ∧ s.power.off = true :=
  ⟨{ State.reset with power := { Power.init with off := true } }, by decide +kernel, by decide +kernel⟩

theorem wit_StepKeepsSound_1 :
    ∃ (s t : State), Sound s ∧ step s = .next t :=
  ⟨State.reset, _, sound_check _ (by decide +kernel), rfl⟩

theorem wit_StepTakesOneCommand_1 :
    ∃ (s t : State), step s = .next t :=
  ⟨{ State.reset with pending := [.vinLow 0] }, _, rfl⟩

theorem wit_CommandsLeaveTime_1 :
    ∃ (c : Instr) (s t : State), setsTime c = false ∧ exec c s = .next t :=
  ⟨.vinLow 0, State.reset, _, by decide +kernel, rfl⟩

theorem wit_TimeSetRefused_1 :
    ∃ (a : Agent) (s : State), alive s = true ∧ (a ≠ .harebell ∨ fbit s Reg.QMGR_STATUS_ACCEPTING = true) :=
  ⟨.harebell, withFields State.reset [(Reg.QMGR_STATUS_ACCEPTING, 1)], by decide +kernel, Or.inr (by decide +kernel)⟩

theorem wit_PlainCommandsLeaveMemory_1 :
    ∃ (c : Instr) (s t : State), plainCommand c = true ∧ exec c s = .next t :=
  ⟨.vinLow 0, State.reset, _, by decide +kernel, rfl⟩

theorem wit_MemoryReadsBack_1 :
    ∃ (s : State), Sound s :=
  ⟨State.reset, sound_check _ (by decide +kernel)⟩

theorem wit_RegisterReadsBack_1 :
    ∃ (s : State) (f : Field), Sound s ∧ f.lo + f.len ≤ 64 ∧ 0 < f.len :=
  ⟨State.reset, Reg.GLB_MODNUM_JOB_MASK, sound_check _ (by decide +kernel), by decide +kernel, by decide +kernel⟩

theorem wit_BootEventsComplete_1 :
    ∃ (s : State), alive s = true ∧ s.harebell.waiting = true :=
  ⟨{ State.reset with harebell := { Harebell.init with waiting := true } }, by decide +kernel, by decide +kernel⟩

theorem wit_BootEventsComplete_2 :
    ∃ (s : State), alive s = true ∧ s.harebell.trial = true ∧ s.harebell.booted = false ∧ s.harebell.resetAt + 5000000000 ≤
      s.ticks :=
  ⟨{ State.reset with ticks := 5000000000, harebell := { Harebell.init with trial := true } }, by decide +kernel,
    by decide +kernel, by decide +kernel, by decide +kernel⟩

theorem wit_BootEventsComplete_3 :
    ∃ (s : State), alive s = true ∧ s.harebell.booted = true ∧ s.harebell.treeAt.isSome = true :=
  ⟨{ State.reset with harebell := { Harebell.init with booted := true, treeAt := some 0 } }, by decide +kernel,
    by decide +kernel, by decide +kernel⟩

theorem wit_BootEventsComplete_4 :
    ∃ (s : State), s.power.off = false :=
  ⟨State.reset, by decide +kernel⟩

theorem wit_BootEventsComplete_5 :
    ∃ (t : Nat) (s : State), s.power.off = false ∧ s.power.wakeTick = some t ∧ t ≤ s.ticks :=
  ⟨9, { State.reset with ticks := 9, power := { Power.init with wakeTick := some 9 } }, by decide +kernel,
    by decide +kernel, by decide +kernel⟩

theorem wit_SupplyEventsComplete_1 :
    ∃ (s : State), alive s = true ∧ s.power.absent = false ∧ otherMembers s = [] ∧ Sound s :=
  ⟨State.reset, by decide +kernel, by decide +kernel, by decide +kernel, sound_check _ (by decide +kernel)⟩

theorem wit_SupplyEventsComplete_2 :
    ∃ (s : State) (t : Nat), s.power.presentAt = some t ∧ s.power.presTerm = true ∧ s.power.absent = false ∧ t + 10000000 ≤
      s.time :=
  ⟨{ State.reset with time := 10000000, power := { Power.init with presTerm := true, presentAt := some 0 } }, 0,
    by decide +kernel, by decide +kernel, by decide +kernel, by decide +kernel⟩

theorem wit_SupplyEventsComplete_3 :
    ∃ (mv : Nat) (s : State), alive s = true ∧ mv < 36000 :=
  ⟨35999, State.reset, by decide +kernel, by decide +kernel⟩

theorem wit_SupplyEventsComplete_4 :
    ∃ (s : State), s.power.off = false :=
  ⟨State.reset, by decide +kernel⟩

theorem wit_SupplyEventsComplete_5 :
    ∃ (k : Nat) (s : State), alive s = true ∧ k < 7 ∧ phaseUp s k = true :=
  ⟨6, State.reset, by decide +kernel, by decide +kernel, by decide +kernel⟩

theorem wit_SupplyEventsComplete_6 :
    ∃ (s : State), alive s = true :=
  ⟨State.reset, by decide +kernel⟩

theorem wit_SupplyEventsComplete_7 :
    ∃ (k : Nat) (s : State), alive s = true ∧ fbit s Reg.PWR_STATUS_TRIP = false ∧ k < 8 :=
  ⟨7, State.reset, by decide +kernel, by decide +kernel, by decide +kernel⟩

theorem wit_SupplyEventsComplete_8 :
    ∃ (k : Nat) (s : State), alive s = true ∧ k < 8 :=
  ⟨0, State.reset, by decide +kernel, by decide +kernel⟩

theorem wit_SupplyEventsComplete_9 :
    ∃ (s : State), alive s = true :=
  ⟨State.reset, by decide +kernel⟩

theorem wit_TriggerFires_1 :
    ∃ (i : Nat) (s : State), alive s = true ∧ i < 64 ∧ trigArmed s i = true ∧ reached s (trigNext s i) = true ∧ lowerDue s i
      = false :=
  ⟨63, withFields State.reset [(Reg.TIME_TRIG_STATE_ARMED 63, 1)], by decide +kernel, by decide +kernel, by decide +kernel,
    by decide +kernel, by decide +kernel⟩

theorem wit_TriggerFires_2 :
    ∃ (i : Nat) (s : State), trigPeriod (trigRecord s i) = 0 :=
  ⟨5, State.reset, by decide +kernel⟩

theorem wit_TriggerFires_3 :
    ∃ (i : Nat) (s : State), trigPeriod (trigRecord s i) ≠ 0 :=
  ⟨5,
    { State.reset with timeu := { TimeUnit.init with records := [(5, List.replicate 8 0 ++ [1] ++ List.replicate 23 0)] } },
    by decide +kernel⟩

theorem wit_ReleaseSkipped_1 :
    ∃ (c r : Nat) (p : Plan) (s : State), Sound s ∧ alive s = true ∧ c < 64 ∧ (ctx s c).releaseAt = some r ∧ r ≤ s.time ∧
      (ctx s c).plan = some p ∧ ctxActive s c = true ∧ noFrameFor s p = false ∧ (ctx s c).frame.isSome = true :=
  ⟨1, 0, aPlan 2,
    { up with ctxs := [(1, { Ctx.init with plan := some (aPlan 2), releaseAt := some 0, frame := some ⟨0, 1, none⟩ })] },
    sound_check _ (by decide +kernel), by decide +kernel, by decide +kernel, by decide +kernel, by decide +kernel,
    by decide +kernel, by decide +kernel, by decide +kernel, by decide +kernel⟩

theorem wit_ContextEventsComplete_1 :
    ∃ (c r : Nat) (s : State), alive s = true ∧ c < 64 ∧ (ctx s c).releaseAt = some r ∧ r ≤ s.time :=
  ⟨1, 0, { up with ctxs := [(1, { Ctx.init with plan := some (aPlan 2), releaseAt := some 0 })] }, by decide +kernel,
    by decide +kernel, by decide +kernel, by decide +kernel⟩

theorem wit_ContextEventsComplete_2 :
    ∃ (c r : Nat) (p : Plan) (s : State), alive s = true ∧ c < 64 ∧ (ctx s c).plan = some p ∧ nextRelease s c p = some r ∧
      ctxActive s c = true ∧ p.excl = true ∧ (ctx s c).preclear = none ∧ inDrowse s = false ∧ r ≤ s.time + preclearNs s :=
  ⟨1, 0, aPlan 2, { up with ctxs := [(1, { Ctx.init with plan := some (aPlan 2), releaseAt := some 0 })] },
    by decide +kernel, by decide +kernel, by decide +kernel, by decide +kernel, by decide +kernel, by decide +kernel,
    by decide +kernel, by decide +kernel, by decide +kernel⟩

theorem wit_ContextEventsComplete_3 :
    ∃ (c r : Nat) (s : State), alive s = true ∧ c < 64 ∧ (ctx s c).preclear = some r ∧ (ctx s c).releaseAt = none ∧ r + 1000
      ≤ s.time :=
  ⟨63, 0, { up with time := 1000, ctxs := [(63, { Ctx.init with preclear := some 0 })] }, by decide +kernel,
    by decide +kernel, by decide +kernel, by decide +kernel, by decide +kernel⟩

theorem wit_ContextEventsComplete_4 :
    ∃ (l : Nat) (s : State), alive s = true ∧ l < 8 ∧ (lane s l).holder.isSome = true ∧ (lane s l).start + (lane s l).length
      ≤ s.time :=
  ⟨7, { up with lanes := [(7, { Lane.init with holder := some 1 })] }, by decide +kernel, by decide +kernel,
    by decide +kernel, by decide +kernel⟩

theorem wit_ContextEventsComplete_5 :
    ∃ (c : Nat) (d : Deferral) (s : State), alive s = true ∧ c < 64 ∧ (ctx s c).deferral = some d ∧ d.since + fget s
      Reg.QMGR_SCHED_CFG_NP_LIMIT * 1000 ≤ s.time :=
  ⟨1, ⟨0, 1⟩,
    { up with time := 10000000, ctxs := [(1, { Ctx.init with plan := some (aPlan 2), deferral := some ⟨0, 1⟩ })] },
    by decide +kernel, by decide +kernel, by decide +kernel, by decide +kernel⟩

theorem wit_ContextEventsComplete_6 :
    ∃ (c e : Nat) (p : Plan) (en : Entry) (s : State), alive s = true ∧ goldenHost s = some (c, p) ∧ netEntry s = some (e,
      en) ∧ ctxActive s c = true ∧ s.golden = none ∧ inDrowse s = false ∧ inHold s = false ∧ (setBitsOf p.tileMask 48).all
      (fun t => decide (p.threads ≤ (idleThreads s t c).length)) = true ∧ goldenWindow s c p = true ∧ (((bestEffortOn s
      p.tileMask).any (fun d => ctxPending s d && (setBitsOf p.tileMask 48).any (fun t => runBit s t d)) = false ∨
      s.goldenAt + goldenMaxNs s ≤ s.time)) :=
  ⟨1, 0, { aPlan 4 with threads := 0 }, anEntry,
    { up with time := 1000000000000, image := some anImage, ctxs := [(1, { Ctx.init with plan := some { aPlan 4 with threads := 0 } })] },
    by decide +kernel, by decide +kernel, by decide +kernel, by decide +kernel, by decide +kernel, by decide +kernel,
    by decide +kernel, by decide +kernel, by decide +kernel, by decide +kernel⟩

theorem wit_ContextEventsComplete_7 :
    ∃ (c : Nat) (p : Plan) (s : State), alive s = true ∧ goldenHost s = some (c, p) ∧ s.golden = none ∧ s.goldenLate = false
      ∧ inDrowse s = false ∧ s.goldenAt + 2 * goldenMaxNs s ≤ s.time :=
  ⟨1, aPlan 4, { up with time := 1000000000000, ctxs := [(1, { Ctx.init with plan := some (aPlan 4) })] },
    by decide +kernel, by decide +kernel, by decide +kernel, by decide +kernel, by decide +kernel, by decide +kernel⟩

theorem wit_ContextEventsComplete_8 :
    ∃ (c : Nat) (s : State), c < 64 ∧ ctxState s c = 2 ∧ (ownedQueues s c).all (fun q => decide (outstanding s q = 0)) =
      true :=
  ⟨1, withFields up [(Reg.QMGR_CTX_STATE_STATE 1, 2)], by decide +kernel, by decide +kernel, by decide +kernel⟩

theorem wit_ContextEventsComplete_9 :
    ∃ (c : Nat) (s : State), c < 64 ∧ (ctx s c).kvInit = true :=
  ⟨1, { up with ctxs := [(1, { Ctx.init with kvInit := true })] }, by decide +kernel, by decide +kernel⟩

theorem wit_QueueEventsComplete_1 :
    ∃ (q : Nat) (c : QCmd) (s : State), nextWaiting s q = some c ∧ servedNext s = some q :=
  ⟨0, { aCmd 0x0302 1 [] with phase := .waiting }, withCmd State.reset 0 { aCmd 0x0302 1 [] with phase := .waiting },
    by decide +kernel, by decide +kernel⟩

theorem wit_QueueEventsComplete_2 :
    ∃ (q : Nat) (c : QCmd) (rest : List QCmd) (s : State), (queue s q).out = c :: rest ∧ c.phase = .complete ∧
      s.tansy.raised = [] ∧ phaseUp s 5 = true :=
  ⟨0, { aCmd 0x0302 1 [] with phase := .complete }, [], withCmd State.reset 0 { aCmd 0x0302 1 [] with phase := .complete },
    by decide +kernel, by decide +kernel, by decide +kernel, by decide +kernel⟩

theorem wit_QueueEventsComplete_3 :
    ∃ (q : Nat) (c : QCmd) (s : State), (queue s q).out.find? (fun c => decide (c.phase = .started ∧ c.opcode = 0x0700) &&
      c.engaged) = some c ∧ fget s Reg.QMGR_FENCE_TIMEOUT_MS ≠ 0 ∧ c.startedAt + fget s Reg.QMGR_FENCE_TIMEOUT_MS * 1000000
      < s.time :=
  ⟨0, { aCmd 0x0700 1 [] with engaged := true },
    withFields { withCmd State.reset 0 { aCmd 0x0700 1 [] with engaged := true } with time := 1000001 } [(Reg.QMGR_FENCE_TIMEOUT_MS, 1)],
    by decide +kernel, by decide +kernel, by decide +kernel⟩

theorem wit_QueueEventsComplete_4 :
    ∃ (q n : Nat) (c : QCmd) (s : State), Started s q n 0x0700 c ∧ c.length = 0 :=
  ⟨0, 0, aCmd 0x0700 0 [], runs 0x0700 0 [], ⟨by decide +kernel, by decide +kernel, by decide +kernel⟩, by decide +kernel⟩

theorem wit_QueueEventsComplete_5 :
    ∃ (q n : Nat) (c : QCmd) (s : State), Started s q n 0x0700 c ∧ 0 < c.length ∧ c.length ≤ 8 ∧ c.reservedZero [(16, 2 *
      c.length)] = true ∧ c.engaged = true :=
  ⟨0, 0, { aCmd 0x0700 8 [] with engaged := true }, withCmd State.reset 0 { aCmd 0x0700 8 [] with engaged := true },
    ⟨by decide +kernel, by decide +kernel, by decide +kernel⟩, by decide +kernel, by decide +kernel, by decide +kernel,
    by decide +kernel⟩

theorem wit_QueueEventsComplete_6 :
    ∃ (q n i : Nat) (off : List Nat) (c : QCmd) (s : State), Started s q n 0x0700 c ∧ 0 < c.length ∧ c.length ≤ 8 ∧
      c.reservedZero [(16, 2 * c.length)] = true ∧ c.engaged = true ∧ ((c.captured.zip (List.range c.captured.length)).find?
      (fun e => off.contains e.2 && e.1.isRemote)).map (·.2) = some i :=
  ⟨0, 0, 0, [0], { aCmd 0x0700 8 [] with engaged := true, captured := [.remote 3 16] },
    withCmd State.reset 0 { aCmd 0x0700 8 [] with engaged := true, captured := [.remote 3 16] },
    ⟨by decide +kernel, by decide +kernel, by decide +kernel⟩, by decide +kernel, by decide +kernel, by decide +kernel,
    by decide +kernel, by decide +kernel⟩

theorem wit_StatusNeverChanges_1 :
    ∃ (s : State) (q m : Nat) (c : QCmd), Sound s ∧ findCmd s q m = some c ∧ c.phase = .complete :=
  ⟨withCmd State.reset 0 { aCmd 0x0302 1 [] with phase := .complete }, 0, 0, { aCmd 0x0302 1 [] with phase := .complete },
    sound_check _ (by decide +kernel), by decide +kernel, by decide +kernel⟩

theorem wit_StatusDecided_1 :
    ∃ (s : State) (q n : Nat) (c : QCmd), Sound s ∧ findCmd s q n = some c ∧ c.phase ≠ .complete :=
  ⟨runs 0x0302 1 [], 0, 0, aCmd 0x0302 1 [], sound_check _ (by decide +kernel), by decide +kernel, by decide +kernel⟩

theorem wit_ScalarInstructionsComplete_1 :
    ∃ (tile t w : Nat) (s : State), tile < 48 ∧ t < 128 ∧ mayIssue s tile t = true ∧ fetchWord s tile t = .ok w ∧ bits w 31
      26 ≠ 0x3F :=
  ⟨0, 0, 0x13, issuing 0x13 (aThread 1 2), by decide +kernel, by decide +kernel, by decide +kernel,
    ok_of (by decide +kernel), by decide +kernel⟩

theorem wit_ScalarInstructionsComplete_2 :
    ∃ (tile t w size rs1 va : Nat) (off : DWord) (bs : List Byte) (s : State), tile < 48 ∧ t < 128 ∧ mayIssue s tile t =
      true ∧ fetchWord s tile t = .ok w ∧ bits w 31 26 ≠ 0x3F ∧ size < 4 ∧ va = (xreg (thread s tile t) (rs1 % 32) +
      off).toNat ∧ va % 2 ^ size = 0 ∧ vaRead (countIssue s tile t) (thread s tile t).ctx va (2 ^ size) = .ok bs :=
  ⟨0, 0, 0x13, 3, 1, 8, 0, List.replicate 8 0, issuing 0x13 (aThread 8 2), by decide +kernel, by decide +kernel,
    by decide +kernel, ok_of (by decide +kernel), by decide +kernel, by decide +kernel, by decide +kernel,
    by decide +kernel, ok_of (by decide +kernel)⟩

theorem wit_ScalarInstructionsComplete_3 :
    ∃ (tile t w size rs1 rs2 va : Nat) (off : DWord) (s u : State), tile < 48 ∧ t < 128 ∧ mayIssue s tile t = true ∧
      fetchWord s tile t = .ok w ∧ bits w 31 26 ≠ 0x3F ∧ size < 4 ∧ va = (xreg (thread s tile t) (rs1 % 32) + off).toNat ∧
      va % 2 ^ size = 0 ∧ vaWrite (countIssue s tile t) (thread s tile t).ctx va (leBytes (2 ^ size) (xreg (thread s tile t)
      (rs2 % 32)).toNat) = .ok u :=
  ⟨0, 0, 0x13, 3, 1, 2, 8, 0, issuing 0x13 (aThread 8 2), _, by decide +kernel, by decide +kernel, by decide +kernel,
    ok_of (by decide +kernel), by decide +kernel, by decide +kernel, by decide +kernel, by decide +kernel,
    ok_got (by decide +kernel)⟩

theorem wit_ScalarInstructionsComplete_4 :
    ∃ (tile t w : Nat) (s : State), tile < 48 ∧ t < 128 ∧ mayIssue s tile t = true ∧ fetchWord s tile t = .ok w ∧ bits w 31
      26 ≠ 0x3F :=
  ⟨0, 0, 0x13, issuing 0x13 (aThread 1 2), by decide +kernel, by decide +kernel, by decide +kernel,
    ok_of (by decide +kernel), by decide +kernel⟩

theorem wit_ScalarInstructionsComplete_5 :
    ∃ (tile t w : Nat) (s : State), tile < 48 ∧ t < 128 ∧ mayIssue s tile t = true ∧ fetchWord s tile t = .ok w ∧ bits w 31
      26 ≠ 0x3F :=
  ⟨0, 0, 0x13, issuing 0x13 (aThread 1 2), by decide +kernel, by decide +kernel, by decide +kernel,
    ok_of (by decide +kernel), by decide +kernel⟩

theorem wit_UnitInstructionsComplete_1 :
    ∃ (tile t w : Nat) (op : UnitOp) (bs : List Byte) (s : State), Issues s tile t 0x01 w ∧ (xreg (thread s tile t) (bits w
      9 5)).toNat < 6 ∧ (xreg (thread s tile t) (bits w 14 10)).toNat % 64 = 0 ∧ unitOf op = some (xreg (thread s tile t)
      (bits w 9 5)).toNat ∧ vaRead (countIssue s tile t) (thread s tile t).ctx (xreg (thread s tile t) (bits w 14 10)).toNat
      64 = .ok bs :=
  ⟨0, 0, issueWord 0x01 3 2 1, .move ⟨0, 0, 64, none, [], none⟩, List.replicate 64 0,
    issuing (issueWord 0x01 3 2 1) (aThread 64 5),
    ⟨(by decide +kernel), (by decide +kernel), (by decide +kernel), ok_of (by decide +kernel), (by decide +kernel), (by decide +kernel)⟩,
    by decide +kernel, by decide +kernel, by decide +kernel, ok_of (by decide +kernel)⟩

theorem wit_UnitInstructionsComplete_2 :
    ∃ (tile t w : Nat) (s : State), Issues s tile t 0x08 w ∧ (xreg (thread s tile t) (bits w 14 10)).toNat < 64 :=
  ⟨0, 0, issueWord 0x08 3 2 1, issuing (issueWord 0x08 3 2 1) (aThread 63 5),
    ⟨(by decide +kernel), (by decide +kernel), (by decide +kernel), ok_of (by decide +kernel), (by decide +kernel), (by decide +kernel)⟩,
    by decide +kernel⟩

theorem wit_UnitInstructionsComplete_3 :
    ∃ (tile t w : Nat) (s : State), Issues s tile t 0x0C w :=
  ⟨0, 0, issueWord 0x0C 3 2 1, issuing (issueWord 0x0C 3 2 1) (aThread 63 5),
    ⟨(by decide +kernel), (by decide +kernel), (by decide +kernel), ok_of (by decide +kernel), (by decide +kernel), (by decide +kernel)⟩⟩

theorem wit_UnitInstructionsComplete_4 :
    ∃ (s : State) (tile u : Nat), (unit s tile u).queue.length < 16 :=
  ⟨up, 0, 0, by decide +kernel⟩

theorem wit_UnitInstructionsComplete_5 :
    ∃ (s : State) (tile u : Nat), 16 ≤ (unit s tile u).queue.length :=
  ⟨{ up with units := [(0, { UnitState.init with queue := List.replicate 16 (aUnitCmd .invalid) })] }, 0, 0,
    by decide +kernel⟩

theorem wit_UnitInstructionsComplete_6 :
    ∃ (m b : Nat) (s : State), b < 64 ∧ m ≠ modnum s ∧ inJob s m = true ∧ linkHolds s (some m) = false :=
  ⟨1, 63, withFields up [(Reg.GLB_MODNUM_JOB_MASK, 3)], by decide +kernel, by decide +kernel, by decide +kernel,
    by decide +kernel⟩

theorem wit_ThreadInstructionsComplete_1 :
    ∃ (tile t w : Nat) (s : State), Issues s tile t 0x06 w ∧ (thread s tile t).depth < 15 :=
  ⟨0, 0, issueWord 0x06 3 2 1, issuing (issueWord 0x06 3 2 1) { aThread 0 0 with depth := 14 },
    ⟨(by decide +kernel), (by decide +kernel), (by decide +kernel), ok_of (by decide +kernel), (by decide +kernel), (by decide +kernel)⟩,
    by decide +kernel⟩

theorem wit_ThreadInstructionsComplete_2 :
    ∃ (tile t w : Nat) (s : State), Issues s tile t 0x07 w ∧ (thread s tile t).depth ≠ 0 :=
  ⟨0, 0, issueWord 0x07 3 2 1, issuing (issueWord 0x07 3 2 1) { aThread 0 0 with depth := 1 },
    ⟨(by decide +kernel), (by decide +kernel), (by decide +kernel), ok_of (by decide +kernel), (by decide +kernel), (by decide +kernel)⟩,
    by decide +kernel⟩

theorem wit_ThreadInstructionsComplete_3 :
    ∃ (tile t w : Nat) (s : State), Issues s tile t 0x09 w :=
  ⟨0, 0, issueWord 0x09 3 2 1, issuing (issueWord 0x09 3 2 1) (aThread 0 0),
    ⟨(by decide +kernel), (by decide +kernel), (by decide +kernel), ok_of (by decide +kernel), (by decide +kernel), (by decide +kernel)⟩⟩

theorem wit_ThreadInstructionsComplete_4 :
    ∃ (tile t w : Nat) (s : State), Issues s tile t 0x00 w ∧ threadHasUnits s tile t = true :=
  ⟨0, 0, issueWord 0x00 3 2 1,
    { issuing (issueWord 0x00 3 2 1) (aThread 0 0) with units := [(0, { UnitState.init with queue := [aUnitCmd .invalid] })] },
    ⟨(by decide +kernel), (by decide +kernel), (by decide +kernel), ok_of (by decide +kernel), (by decide +kernel), (by decide +kernel)⟩,
    by decide +kernel⟩

theorem wit_ThreadInstructionsComplete_5 :
    ∃ (tile t w : Nat) (s : State), Issues s tile t 0x00 w ∧ threadHasUnits s tile t = false ∧ (thread s tile t).launch =
      none :=
  ⟨0, 0, issueWord 0x00 3 2 1, issuing (issueWord 0x00 3 2 1) (aThread 0 0),
    ⟨(by decide +kernel), (by decide +kernel), (by decide +kernel), ok_of (by decide +kernel), (by decide +kernel), (by decide +kernel)⟩,
    by decide +kernel, by decide +kernel⟩

theorem wit_ThreadInstructionsComplete_6 :
    ∃ (tile t w id : Nat) (x : Launch) (s u v : State), Issues s tile t 0x00 w ∧ threadHasUnits s tile t = false ∧ (thread s
      tile t).launch = some id ∧ findLaunch s id = some x ∧ u = setThread (countIssue s tile t) tile t
      { advanced (thread s tile t) with state := .idle, depth := 0, launch := none, lbars := 0, halting := false } ∧ v =
      setLaunch u { x with lbarCap := some (min (x.lbarCap.getD (thread s tile t).lbars) (thread s tile t).lbars) } :=
  ⟨0, 0, issueWord 0x00 3 2 1, 0, aLaunch,
    { issuing (issueWord 0x00 3 2 1) { aThread 0 0 with launch := some 0 } with launches := [aLaunch] }, _, _,
    ⟨(by decide +kernel), (by decide +kernel), (by decide +kernel), ok_of (by decide +kernel), (by decide +kernel), (by decide +kernel)⟩,
    by decide +kernel, by decide +kernel, by decide +kernel, rfl, rfl⟩

theorem wit_ThreadInstructionsComplete_7 :
    ∃ (tile t w : Nat) (s : State), Issues s tile t 0x02 w :=
  ⟨0, 0, issueWord 0x02 3 2 1, issuing (issueWord 0x02 3 2 1) (aThread 0 0),
    ⟨(by decide +kernel), (by decide +kernel), (by decide +kernel), ok_of (by decide +kernel), (by decide +kernel), (by decide +kernel)⟩⟩

theorem wit_ThreadInstructionsComplete_8 :
    ∃ (tile t w p : Nat) (x : Launch) (e : Entry) (s : State), Issues s tile t 0x03 w ∧ (thread s tile t).launch.bind
      (findLaunch s) = some x ∧ entryOf s x.entry = some e ∧ p = (xreg (thread s tile t) (bits w 14 10)).toNat ∧ p ≠ 0 ∧ p ≤
      e.switchCount :=
  ⟨0, 0, issueWord 0x03 3 2 1, 1, aLaunch, anEntry,
    { issuing (issueWord 0x03 3 2 1) { aThread 1 0 with launch := some 0 } with launches := [aLaunch], image := some anImage },
    ⟨(by decide +kernel), (by decide +kernel), (by decide +kernel), ok_of (by decide +kernel), (by decide +kernel), (by decide +kernel)⟩,
    by decide +kernel, by decide +kernel, by decide +kernel, by decide +kernel, by decide +kernel⟩

theorem wit_ThreadInstructionsComplete_9 :
    ∃ (tile t w q n : Nat) (s : State), Sound s ∧ Issues s tile t 0x04 w ∧ q = (xreg (thread s tile t) (bits w 14 10)).toNat
      ∧ n = (xreg (thread s tile t) (bits w 9 5)).toNat ∧ n ≤ 4096 ∧ q < 16384 ∧ n ≠ 0 ∧ 16 ≤ q ∧ owner s q = (thread s tile
      t).ctx :=
  ⟨0, 0, issueWord 0x04 3 2 1, 16, 1,
    withFields (issuing (issueWord 0x04 3 2 1) (aThread 16 1)) [(Reg.QMGR_QCFG_OWNER 16, 1)],
    sound_check _ (by decide +kernel),
    ⟨(by decide +kernel), (by decide +kernel), (by decide +kernel), ok_of (by decide +kernel), (by decide +kernel), (by decide +kernel)⟩,
    by decide +kernel, by decide +kernel, by decide +kernel, by decide +kernel, by decide +kernel, by decide +kernel,
    by decide +kernel⟩

theorem wit_ThreadInstructionsComplete_10 :
    ∃ (tile t w q : Nat) (s : State), Sound s ∧ Issues s tile t 0x05 w ∧ q = (xreg (thread s tile t) (bits w 14 10)).toNat ∧
      16 ≤ q ∧ q < 16384 ∧ owner s q = (thread s tile t).ctx :=
  ⟨0, 0, issueWord 0x05 3 2 1, 16, withFields (issuing (issueWord 0x05 3 2 1) (aThread 16 1)) [(Reg.QMGR_QCFG_OWNER 16, 1)],
    sound_check _ (by decide +kernel),
    ⟨(by decide +kernel), (by decide +kernel), (by decide +kernel), ok_of (by decide +kernel), (by decide +kernel), (by decide +kernel)⟩,
    by decide +kernel, by decide +kernel, by decide +kernel, by decide +kernel⟩

theorem wit_WindowInstructionsComplete_1 :
    ∃ (tile t w off : Nat) (s : State), Sound s ∧ Issues s tile t 0x0A w ∧ runtimeCtx s = some (thread s tile t).ctx ∧ off =
      (xreg (thread s tile t) (bits w 14 10)).toNat % 2 ^ 26 ∧ off % 4 = 0 ∧ (xreg (thread s tile t) (bits w 9 5)).toNat % 4
      = modnum s ∧ inJob s (modnum s) = true ∧ off ≠ Reg.MEM_DBG_DATA :=
  ⟨0, 0, issueWord 0x0A 3 2 1, Reg.GLB_MODNUM,
    { withFields (issuing (issueWord 0x0A 3 2 1) (aThread 4 0)) [(Reg.GLB_MODNUM_JOB_MASK, 1)] with harebell := { Harebell.init with entry3 := some (1, 0, 0) } },
    sound_check _ (by decide +kernel),
    ⟨(by decide +kernel), (by decide +kernel), (by decide +kernel), ok_of (by decide +kernel), (by decide +kernel), (by decide +kernel)⟩,
    by decide +kernel, by decide +kernel, by decide +kernel, by decide +kernel, by decide +kernel, by decide +kernel⟩

theorem wit_WindowInstructionsComplete_2 :
    ∃ (tile t w : Nat) (s : State), Sound s ∧ Issues s tile t 0x0A w ∧ runtimeCtx s = some (thread s tile t).ctx ∧ (xreg
      (thread s tile t) (bits w 14 10)).toNat % 2 ^ 26 = Reg.MEM_DBG_DATA ∧ (xreg (thread s tile t) (bits w 9 5)).toNat % 4
      = modnum s ∧ inJob s (modnum s) = true :=
  ⟨0, 0, issueWord 0x0A 3 2 1,
    { withFields (issuing (issueWord 0x0A 3 2 1) (aThread (BitVec.ofNat 64 Reg.MEM_DBG_DATA) 0)) [(Reg.GLB_MODNUM_JOB_MASK, 1)] with harebell := { Harebell.init with entry3 := some (1, 0, 0) } },
    sound_check _ (by decide +kernel),
    ⟨(by decide +kernel), (by decide +kernel), (by decide +kernel), ok_of (by decide +kernel), (by decide +kernel), (by decide +kernel)⟩,
    by decide +kernel, by decide +kernel, by decide +kernel, by decide +kernel⟩

theorem wit_WindowInstructionsComplete_3 :
    ∃ (tile t w : Nat) (s : State), Sound s ∧ Issues s tile t 0x0A w ∧ runtimeCtx s = some (thread s tile t).ctx ∧ (xreg
      (thread s tile t) (bits w 14 10)).toNat % 2 ^ 26 % 4 = 0 ∧ (xreg (thread s tile t) (bits w 9 5)).toNat % 4 ≠ modnum s
      ∧ inJob s ((xreg (thread s tile t) (bits w 9 5)).toNat % 4) = true :=
  ⟨0, 0, issueWord 0x0A 3 2 1,
    { withFields (issuing (issueWord 0x0A 3 2 1) (aThread 4 3)) [(Reg.GLB_MODNUM_JOB_MASK, 9)] with harebell := { Harebell.init with entry3 := some (1, 0, 0) } },
    sound_check _ (by decide +kernel),
    ⟨(by decide +kernel), (by decide +kernel), (by decide +kernel), ok_of (by decide +kernel), (by decide +kernel), (by decide +kernel)⟩,
    by decide +kernel, by decide +kernel, by decide +kernel, by decide +kernel⟩

theorem wit_WindowInstructionsComplete_4 :
    ∃ (tile t w off : Nat) (s : State), Sound s ∧ Issues s tile t 0x0B w ∧ runtimeCtx s = some (thread s tile t).ctx ∧ off =
      (xreg (thread s tile t) (bits w 14 10)).toNat % 2 ^ 26 ∧ off % 4 = 0 :=
  ⟨0, 0, issueWord 0x0B 3 2 1, 0x3FFFFFC,
    { issuing (issueWord 0x0B 3 2 1) (aThread 0x3FFFFFC 3) with harebell := { Harebell.init with entry3 := some (1, 0, 0) } },
    sound_check _ (by decide +kernel),
    ⟨(by decide +kernel), (by decide +kernel), (by decide +kernel), ok_of (by decide +kernel), (by decide +kernel), (by decide +kernel)⟩,
    by decide +kernel, by decide +kernel, by decide +kernel⟩

theorem wit_UnitsComplete_1 :
    ∃ (tile u gen : Nat) (d : UnitCmd) (s t : State), tile < 48 ∧ u < 6 ∧ tileWorks s tile = true ∧ fbit s
      (Reg.TILE_CTRL_ISSUE_EN tile) = true ∧ unitFree u (unit s tile u) = true ∧ unitNext s tile u = some d ∧ (∀ (b e :
      Nat), d.op = .barrier b e → gen = (barrierOf s b).gen) ∧ ((∀ (b e : Nat), d.op ≠ .barrier b e) → gen = 0) ∧ runUnit s
      tile d = (none, t) :=
  ⟨0, 5, 0, aUnitCmd (.move ⟨0, 0x200000, 64, none, [], none⟩),
    { up with units := [(5, { UnitState.init with queue := [aUnitCmd (.move ⟨0, 0x200000, 64, none, [], none⟩)] })] }, _,
    by decide +kernel, by decide +kernel, by decide +kernel, by decide +kernel, by decide +kernel, by decide +kernel,
    (fun _ _ h => by cases h), (fun _ => rfl), pair_of (by decide +kernel)⟩

theorem wit_UnitsComplete_2 :
    ∃ (tile u : Nat) (d : UnitCmd) (f : UFault) (s t : State), tile < 48 ∧ u < 6 ∧ tileWorks s tile = true ∧ fbit s
      (Reg.TILE_CTRL_ISSUE_EN tile) = true ∧ unitFree u (unit s tile u) = true ∧ unitNext s tile u = some d ∧ runUnit s tile
      d = (some f, t) :=
  ⟨0, 5, aUnitCmd .invalid, .cause 7, { up with units := [(5, { UnitState.init with queue := [aUnitCmd .invalid] })] }, _,
    by decide +kernel, by decide +kernel, by decide +kernel, by decide +kernel, by decide +kernel, by decide +kernel,
    pair_of (by decide +kernel)⟩

theorem wit_UnitsComplete_3 :
    ∃ (tile u : Nat) (d : UnitCmd) (s v w : State), tile < 48 ∧ u < 6 ∧ tileWorks s tile = true ∧ completesNext s [] (unit s
      tile u).started = some d ∧ v = setUnit s tile u
      { unit s tile u with started := removeCmd d (unit s tile u).started, figures := none } ∧ unitEnd v d (unit s tile
      u).figures = (none, w) :=
  ⟨0, 5, aUnitCmd (.move ⟨0, 0x200000, 64, none, [], none⟩),
    { up with units := [(5, { UnitState.init with started := [aUnitCmd (.move ⟨0, 0x200000, 64, none, [], none⟩)] })] }, _,
    _, by decide +kernel, by decide +kernel, by decide +kernel, by decide +kernel, rfl, pair_of (by decide +kernel)⟩

theorem wit_UnitsComplete_4 :
    ∃ (tile c r : Nat) (sm : Option Nat) (s t : State), tile < 48 ∧ tileWorks s tile = true ∧ ctxActive s c = true ∧ runBit
      s tile c = true ∧ (unit s tile 3).started = [] ∧ stepClose s tile c r sm = .ok t :=
  ⟨0, 1, 0x200000, none, memPut up 0x400004 1 1, _, by decide +kernel, by decide +kernel, by decide +kernel,
    by decide +kernel, by decide +kernel, ok_got (by decide +kernel)⟩

theorem wit_ComputeCommandsComplete_1 :
    ∃ (q n : Nat) (c : QCmd) (en : Entry) (s : State), Started s q n 0x0100 c ∧ c.engaged = false ∧ c.length ≤ 128 ∧ c.field
      16 8 = 0 ∧ c.field 32 8 < 2 ^ 48 ∧ c.reservedZero [(16, 8), (24, 2), (32, 8)] = true ∧ entryOf s (c.field 24 2) = some
      en :=
  ⟨0, 0, cmd1 0x0100 128 [], anEntry, names1 ready 0x0100 128 [], ⟨by decide +kernel, by decide +kernel, by decide +kernel⟩,
    by decide +kernel, by decide +kernel, by decide +kernel, by decide +kernel, by decide +kernel, by decide +kernel⟩

theorem wit_ComputeCommandsComplete_2 :
    ∃ (q n : Nat) (c : QCmd) (en : Entry) (s : State), Started s q n 0x0100 c ∧ c.engaged = false ∧ c.length ≤ 128 ∧ c.field
      16 8 ≠ 0 ∧ c.field 16 8 < 2 ^ 48 ∧ c.field 32 8 < 2 ^ 48 ∧ c.reservedZero [(16, 8), (24, 2), (32, 8)] = true ∧ entryOf
      s (c.field 24 2) = some en ∧ (setBitsOf (c.field 16 8) 48).find? (fun t => decide ((idleThreads s t (cmdCtx s q
      c)).length < c.length)) = none ∧ (∀ f, (ctx s (cmdCtx s q c)).frame = some f → f.launch = none → f.release ≤
      c.startedAt → fget s (Reg.QMGR_CTX_RT_ENTRY_ID (cmdCtx s q c)) ≠ c.field 24 2) :=
  ⟨0, 0, cmd1 0x0100 2 [(16, 8, 1)], anEntry, names1 ready 0x0100 2 [(16, 8, 1)],
    ⟨by decide +kernel, by decide +kernel, by decide +kernel⟩, by decide +kernel, by decide +kernel, by decide +kernel,
    by decide +kernel, by decide +kernel, by decide +kernel, by decide +kernel, by decide +kernel, by decide +kernel⟩

theorem wit_ComputeCommandsComplete_3 :
    ∃ (q n : Nat) (c : QCmd) (en : Entry) (f : CFrame) (s : State), Started s q n 0x0100 c ∧ c.engaged = false ∧ c.length ≤
      128 ∧ c.field 16 8 ≠ 0 ∧ c.field 16 8 < 2 ^ 48 ∧ c.field 32 8 < 2 ^ 48 ∧ c.reservedZero [(16, 8), (24, 2), (32, 8)] =
      true ∧ entryOf s (c.field 24 2) = some en ∧ (setBitsOf (c.field 16 8) 48).find? (fun t => decide ((idleThreads s t
      (cmdCtx s q c)).length < c.length)) = none ∧ (ctx s (cmdCtx s q c)).frame = some f ∧ f.launch = none ∧ f.release ≤
      c.startedAt ∧ fget s (Reg.QMGR_CTX_RT_ENTRY_ID (cmdCtx s q c)) = c.field 24 2 :=
  ⟨0, 0, cmd1 0x0100 2 [(16, 8, 1)], anEntry, ⟨0, 1, none⟩,
    names1 { ready with ctxs := [(1, { Ctx.init with plan := some (aPlan 2), frame := some ⟨0, 1, none⟩ })] } 0x0100 2 [(16, 8, 1)],
    ⟨by decide +kernel, by decide +kernel, by decide +kernel⟩, by decide +kernel, by decide +kernel, by decide +kernel,
    by decide +kernel, by decide +kernel, by decide +kernel, by decide +kernel, by decide +kernel, by decide +kernel,
    by decide +kernel, by decide +kernel, by decide +kernel⟩

theorem wit_ComputeCommandsComplete_4 :
    ∃ (q n : Nat) (c : QCmd) (s : State), Started s q n 0x0101 c ∧ c.reservedZero [(16, 8)] = true ∧ c.field 16 8 < 2 ^ 48 ∧
      c.field 16 8 ≠ 0 ∧ (∀ t ∈ setBitsOf (c.field 16 8) 48, c.length ≤ fget s (Reg.TILE_SHARE_SIZE t (cmdCtx s q c)) ∧
      tileThreadsBusy s t (cmdCtx s q c) = false) :=
  ⟨0, 0, cmd1 0x0101 1 [(16, 8, 1)], names1 (withFields ready [(Reg.TILE_SHARE_SIZE 0 1, 1)]) 0x0101 1 [(16, 8, 1)],
    ⟨by decide +kernel, by decide +kernel, by decide +kernel⟩, by decide +kernel, by decide +kernel, by decide +kernel,
    by decide +kernel⟩

theorem wit_ComputeCommandsComplete_5 :
    ∃ (q n : Nat) (c : QCmd) (s t : State), Started s q n 0x0102 c ∧ c.reservedZero [(16, 8), (24, 8)] = true ∧ c.field 16 8
      < 2 ^ 48 ∧ c.field 16 8 ≠ 0 ∧ c.length ≤ 6 ∧ c.field 24 8 % 8 = 0 ∧ c.field 24 8 < 2 ^ 48 ∧ vaWrite s (cmdCtx s q c)
      (c.field 24 8) ((setBitsOf (c.field 16 8) 48).flatMap fun t => (List.range c.length).flatMap fun k => leBytes 8
      (perfValue s t k)) = .ok t :=
  ⟨0, 0, cmd1 0x0102 6 [(16, 8, 1), (24, 8, 0x200008)], names1 up 0x0102 6 [(16, 8, 1), (24, 8, 0x200008)], _,
    ⟨by decide +kernel, by decide +kernel, by decide +kernel⟩, by decide +kernel, by decide +kernel, by decide +kernel,
    by decide +kernel, by decide +kernel, by decide +kernel, ok_got (by decide +kernel)⟩

theorem wit_SequenceCommandsComplete_1 :
    ∃ (q n x : Nat) (c : QCmd) (s : State), Started s q n 0x0200 c ∧ kvReady s q n x [(16, 8), (26, 1)] c ∧ c.field 26 1 ≤ 3
      ∧ seqRange s x c.seq c.length false = true ∧ (bitAt (c.field 26 1) 0 = false ∨ wideCount s + c.length ≤ 8) :=
  ⟨0, 0, 1, cmd1 0x0200 7 [(16, 4, 1), (26, 1, 1)], names1 (kvUp 1) 0x0200 7 [(16, 4, 1), (26, 1, 1)],
    ⟨by decide +kernel, by decide +kernel, by decide +kernel⟩, (by unfold kvReady; decide +kernel), by decide +kernel,
    by decide +kernel, by decide +kernel⟩

theorem wit_SequenceCommandsComplete_2 :
    ∃ (q n x : Nat) (c : QCmd) (s : State), Started s q n 0x0201 c ∧ kvReady s q n x [(16, 4)] c ∧ seqRange s x c.seq
      c.length true = true :=
  ⟨0, 0, 1, cmd1 0x0201 1 [], names1 (kvUp 1) 0x0201 1 [], ⟨by decide +kernel, by decide +kernel, by decide +kernel⟩,
    (by unfold kvReady; decide +kernel), by decide +kernel⟩

theorem wit_SequenceCommandsComplete_3 :
    ∃ (q n x : Nat) (c : QCmd) (s : State), Started s q n 0x0202 c ∧ kvReady s q n x [(16, 8)] c ∧ seqOk s x c.aux = true ∧
      seqRange s x c.seq c.length false = true ∧ (seqWide s x c.aux = false ∨ wideCount s + c.length ≤ 8) :=
  ⟨0, 0, 1, cmd1 0x0202 7 [(16, 4, 1)], names1 (kvUp 1) 0x0202 7 [(16, 4, 1)],
    ⟨by decide +kernel, by decide +kernel, by decide +kernel⟩, (by unfold kvReady; decide +kernel), by decide +kernel,
    by decide +kernel, by decide +kernel⟩

theorem wit_SequenceCommandsComplete_4 :
    ∃ (q n x : Nat) (c : QCmd) (s : State), Started s q n 0x0205 c ∧ kvReady s q n x [(16, 4)] c ∧ seqOk s x c.seq = true ∧
      c.length ≤ seqLength s x c.seq :=
  ⟨0, 0, 1, cmd1 0x0205 16 [], names1 (memPut (kvUp 1) 0x1000000 4 16) 0x0205 16 [],
    ⟨by decide +kernel, by decide +kernel, by decide +kernel⟩, (by unfold kvReady; decide +kernel), by decide +kernel,
    by decide +kernel⟩

theorem wit_SequenceCommandsComplete_5 :
    ∃ (q n x : Nat) (c : QCmd) (s : State), Started s q n 0x0206 c ∧ kvReady s q n x [(16, 4)] c ∧ seqOk s x c.seq = true ∧
      seqTrimOf s x c.seq + c.length ≤ seqLength s x c.seq :=
  ⟨0, 0, 1, cmd1 0x0206 16 [], names1 (memPut (kvUp 1) 0x1000000 4 16) 0x0206 16 [],
    ⟨by decide +kernel, by decide +kernel, by decide +kernel⟩, (by unfold kvReady; decide +kernel), by decide +kernel,
    by decide +kernel⟩

theorem wit_KvDataCommandsComplete_1 :
    ∃ (q n x : Nat) (c : QCmd) (toks : List Byte) (s : State), Started s q n 0x0203 c ∧ kvReady s q n x [(16, 4), (32, 8)] c
      ∧ seqOk s x c.seq = true ∧ seqLength s x c.seq = 0 ∧ seqWide s x c.seq = false ∧ seqShare s x c.seq = true ∧ c.length
      ≤ kvPtEntries s x * 16 ∧ c.field 32 8 < 2 ^ 48 ∧ vaRead s x (c.field 32 8) (4 * c.length) = .ok toks :=
  ⟨0, 0, 1, cmd1 0x0203 16 [(32, 8, 0x200000)], List.replicate 64 0, names1 (kvUp 5) 0x0203 16 [(32, 8, 0x200000)],
    ⟨by decide +kernel, by decide +kernel, by decide +kernel⟩, (by unfold kvReady; decide +kernel), by decide +kernel,
    by decide +kernel, by decide +kernel, by decide +kernel, by decide +kernel, by decide +kernel,
    ok_of (by decide +kernel)⟩

theorem wit_KvDataCommandsComplete_2 :
    ∃ (q n x : Nat) (c : QCmd) (toks : List Byte) (s : State), Started s q n 0x0204 c ∧ kvReady s q n x [(16, 4), (32, 8)] c
      ∧ seqOk s x c.seq = true ∧ seqLength s x c.seq + c.length ≤ kvPtEntries s x * seqPage s x c.seq ∧ c.field 32 8 < 2 ^
      48 ∧ vaRead s x (c.field 32 8) (4 * c.length) = .ok toks ∧ extendNeeds s x c.seq c.length ≤ slotsAvail s x (seqWide s
      x c.seq) ∧ (seqLength s x c.seq % seqPage s x c.seq ≠ 0 → cowBad s x c.seq (seqLength s x c.seq / seqPage s x c.seq) =
      none) :=
  ⟨0, 0, 1, cmd1 0x0204 16 [(32, 8, 0x200000)], List.replicate 64 0, names1 (kvUp 1) 0x0204 16 [(32, 8, 0x200000)],
    ⟨by decide +kernel, by decide +kernel, by decide +kernel⟩, (by unfold kvReady; decide +kernel), by decide +kernel,
    by decide +kernel, by decide +kernel, ok_of (by decide +kernel), by decide +kernel, by decide +kernel⟩

theorem wit_KvDataCommandsComplete_3 :
    ∃ (q n x : Nat) (c : QCmd) (src : List Byte) (s : State), Started s q n 0x0207 c ∧ kvReady s q n x [(16, 10), (32, 8)] c
      ∧ seqOk s x c.seq = true ∧ seqTrimOf s x c.seq ≤ c.aux ∧ c.aux + c.length ≤ seqLength s x c.seq ∧ c.field 24 2 <
      kvLayers s ∧ c.field 32 8 < 2 ^ 48 ∧ vaRead s x (c.field 32 8) (4 * kvHeads s * kvDim s * c.length) = .ok src ∧
      countIf (sharedPage s x c.seq) (pagesOf (seqPage s x c.seq) c.aux c.length) ≤ slotsAvail s x (seqWide s x c.seq) ∧
      ((pagesOf (seqPage s x c.seq) c.aux c.length).filterMap (cowBad s x c.seq)).head? = none ∧ rowsPartial s x c.seq
      (c.field 24 2) c.aux c.length = none :=
  ⟨0, 0, 1, cmd1 0x0207 1 [(20, 4, 15), (32, 8, 0x200000)], List.replicate 128 0,
    names1 (memPut (kvUp 1) 0x1000000 4 16) 0x0207 1 [(20, 4, 15), (32, 8, 0x200000)],
    ⟨by decide +kernel, by decide +kernel, by decide +kernel⟩, (by unfold kvReady; decide +kernel), by decide +kernel,
    by decide +kernel, by decide +kernel, by decide +kernel, by decide +kernel, ok_of (by decide +kernel),
    by decide +kernel, by decide +kernel, by decide +kernel⟩

theorem wit_KvDataCommandsComplete_4 :
    ∃ (q n x st d heads : Nat) (c : QCmd) (a : Attend) (p1 p2 p3 : List (Nat × Nat)) (s u t : State), Started s q n 0x0208 c
      ∧ kvReady s q n x [(16, 48)] c ∧ s.attends.find? (fun a => decide (a.q = q ∧ a.n = c.n)) = none ∧ seqOk s x c.seq =
      true ∧ c.length ≤ 32 ∧ c.field 24 2 < kvLayers s ∧ c.field 26 1 ≤ 1 ∧ c.field 56 8 ≠ 0 ∧ c.field 56 8 < 2 ^ 48 ∧ 0 <
      s32diff c.aux (kvRetired s x) ∧ c.field 32 8 < 2 ^ 48 ∧ c.field 40 8 < 2 ^ 48 ∧ heads = kvHeads s * fget s
      Reg.KVM_GEOM_GROUP ∧ vaRange s x (c.field 32 8) (c.length * heads * kvDim s * 2) .read = .ok p1 ∧ vaRange s x (c.field
      40 8) (4 * (c.length * heads * kvDim s + c.length * heads)) .write = .ok p2 ∧ (if bitAt (c.field 26 1) 0 then vaRange
      s x (c.field 48 8) (ceilDiv (seqLength s x c.seq) 8) .read else .ok []) = .ok p3 ∧ (∀ i ∈ setBitsOf (c.field 56 8) 48,
      c.field 27 1 + 4 ≤ fget s (Reg.TILE_SHARE_SIZE i x)) ∧ attendSnapshot q x c s = (a, u) ∧ attendRuns
      { modCmd u q c.n (fun d => { d with engaged := true }) with attends := u.attends ++ [a] } x (c.field 56 8) = true ∧
      attendFinish q c a { modCmd u q c.n (fun d => { d with engaged := true }) with attends := u.attends ++ [a] } = .done
      st d t :=
  ⟨0, 0, 1, _, _, 1, cmd1 0x0208 1 [(20, 4, 1), (40, 8, 0x200000), (56, 8, 1)], _, _, _, _,
    names1 (kvUp 1) 0x0208 1 [(20, 4, 1), (40, 8, 0x200000), (56, 8, 1)], _, _,
    ⟨by decide +kernel, by decide +kernel, by decide +kernel⟩, (by unfold kvReady; decide +kernel), by decide +kernel,
    by decide +kernel, by decide +kernel, by decide +kernel, by decide +kernel, by decide +kernel, by decide +kernel,
    by decide +kernel, by decide +kernel, by decide +kernel, by decide +kernel, ok_list (by decide +kernel),
    ok_list (by decide +kernel), ok_list (by decide +kernel), by decide +kernel, pair_eta, by decide +kernel,
    done_got (attendFinish_done ..)⟩

theorem wit_KvDataCommandsComplete_5 :
    ∃ (q n x st d : Nat) (c : QCmd) (a : Attend) (s t : State), Started s q n 0x0208 c ∧ kvReady s q n x [(16, 48)] c ∧
      s.attends.find? (fun a => decide (a.q = q ∧ a.n = c.n)) = some a ∧ attendRuns s x (c.field 56 8) = true ∧ attendFinish
      q c a s = .done st d t :=
  ⟨0, 0, 1, _, _, cmd1 0x0208 1 [(20, 4, 1), (40, 8, 0x200000), (56, 8, 1)], ⟨0, 0, 1, 1, 0, 0, 0, 16, []⟩,
    { names1 (kvUp 1) 0x0208 1 [(20, 4, 1), (40, 8, 0x200000), (56, 8, 1)] with attends := [⟨0, 0, 1, 1, 0, 0, 0, 16, []⟩] },
    _, ⟨by decide +kernel, by decide +kernel, by decide +kernel⟩, (by unfold kvReady; decide +kernel), by decide +kernel,
    by decide +kernel, done_got (attendFinish_done ..)⟩

theorem wit_KvDataCommandsComplete_6 :
    ∃ (q n x sat : Nat) (c : QCmd) (s u : State), Started s q n 0x0209 c ∧ kvReady s q n x [] c ∧ attendBelow s x (wrap32
      (kvRetired s x + c.length)) = false ∧ u = settlePending x (fset s (Reg.KVM_CTX_EPOCH_RETIRED x) (wrap32 (kvRetired s x
      + c.length))) ∧ sat = fget u (Reg.KVM_CTX_CNT_COUNT x 3) :=
  ⟨0, 0, 1, 0, cmd1 0x0209 1 [], names1 (kvUp 1) 0x0209 1 [], _, ⟨by decide +kernel, by decide +kernel, by decide +kernel⟩,
    (by unfold kvReady; decide +kernel), by decide +kernel, rfl, by decide +kernel⟩

theorem wit_MoveCommandsComplete_1 :
    ∃ (q n x : Nat) (c : QCmd) (found : List (Nat × Except PageErr Leaf)) (s : State), Started s q n 0x0300 c ∧ c.engaged =
      false ∧ c.reservedZero [(16, 8), (24, 2), (32, 8)] = true ∧ x = cmdCtx s q c ∧ c.field 24 1 ≤ 2 ∧ c.field 25 1 ≤ 1 ∧
      c.field 16 8 % 0x1000 = 0 ∧ c.field 32 8 % 0x1000 = 0 ∧ c.field 16 8 < 2 ^ 48 ∧ c.field 32 8 < 2 ^ 55 ∧ found =
      rangePages s x (c.field 16 8) c.length 0 c.length ∧ firstUnread found = none ∧ failedPages found = [] ∧ (∀ p ∈
      goodPages found, p.leaf.mig = false ∧ p.leaf.kind = 0 ∧ (p.leaf.big = true → c.field 32 8 % 0x200000 = 0 ∧ (c.field 32
      8 + 0x1000 * p.index) % 0x200000 = 0)) ∧ firstUnit c.length (c.field 32 8) (fun a => destIn (c.field 24 1) a 0x1000) =
      none ∧ fget s (Reg.MEM_CTX_CFG_PLACE x) ≠ 0 ∧ (∀ i, i < c.length → destShare s x (c.field 24 1) (c.field 32 8 + 0x1000
      * i) 0x1000 = true) :=
  ⟨0, 0, 1, cmd1 0x0300 1 [(16, 8, 0x200000), (24, 1, 1), (32, 8, 0x600000)], _,
    names1 (withFields up [(Reg.MEM_CTX_CFG_PLACE 1, 1)]) 0x0300 1 [(16, 8, 0x200000), (24, 1, 1), (32, 8, 0x600000)],
    ⟨by decide +kernel, by decide +kernel, by decide +kernel⟩, by decide +kernel, by decide +kernel, by decide +kernel,
    by decide +kernel, by decide +kernel, by decide +kernel, by decide +kernel, by decide +kernel, by decide +kernel, rfl,
    by decide +kernel, by decide +kernel, by decide +kernel, by decide +kernel, by decide +kernel, by decide +kernel⟩

theorem wit_MoveCommandsComplete_2 :
    ∃ (q n x : Nat) (c : QCmd) (l : Leaf) (bs : List Byte) (s u : State), Started s q n 0x0300 c ∧ c.engaged = true ∧ x =
      cmdCtx s q c ∧ pageLeaf s x (c.field 16 8) c.done = .ok l ∧ readHome s ⟨c.done, l⟩ = .ok bs ∧ u = homeNoted l
      (movePage s x (c.field 16 8) (c.field 24 1) (c.field 32 8 + 0x1000 * c.done) (bitAt (c.field 25 1) 0) ⟨c.done, l⟩ bs)
      :=
  ⟨0, 0, 1, { cmd1 0x0300 1 [(16, 8, 0x200000), (24, 1, 1), (32, 8, 0x600000)] with engaged := true },
    ⟨0x400005, 0x4000, false⟩, _,
    withCmd up 0 { cmd1 0x0300 1 [(16, 8, 0x200000), (24, 1, 1), (32, 8, 0x600000)] with engaged := true }, _,
    ⟨by decide +kernel, by decide +kernel, by decide +kernel⟩, by decide +kernel, by decide +kernel,
    ok_of (by decide +kernel), ok_list (by decide +kernel), rfl⟩

theorem wit_MoveCommandsComplete_3 :
    ∃ (q n : Nat) (c : QCmd) (as bs : List Nat) (s : State), Started s q n 0x0301 c ∧ c.engaged = false ∧ c.reservedZero
      [(16, 16)] = true ∧ c.field 16 8 % 0x1000 = 0 ∧ c.field 24 8 % 0x1000 = 0 ∧ c.field 16 8 < 2 ^ 48 ∧ c.field 24 8 < 2 ^
      48 ∧ (c.field 24 8 + 0x1000 * c.length ≤ c.field 16 8 ∨ c.field 16 8 + 0x1000 * c.length ≤ c.field 24 8) ∧ tier0Pages
      s (cmdCtx s q c) (c.field 16 8) false c.length 0 = .ok as ∧ tier0Pages s (cmdCtx s q c) (c.field 24 8) true c.length 0
      = .ok bs ∧ (∀ a ∈ as, a ∉ bs) :=
  ⟨0, 0, cmd1 0x0301 1 [(16, 8, 0x200000), (24, 8, 0x201000)], [0x400000], [0x401000],
    names1 up 0x0301 1 [(16, 8, 0x200000), (24, 8, 0x201000)], ⟨by decide +kernel, by decide +kernel, by decide +kernel⟩,
    by decide +kernel, by decide +kernel, by decide +kernel, by decide +kernel, by decide +kernel, by decide +kernel,
    by decide +kernel, ok_of (by decide +kernel), ok_of (by decide +kernel), by decide +kernel⟩

theorem wit_MoveCommandsComplete_4 :
    ∃ (q n a b : Nat) (c : QCmd) (s u : State), Started s q n 0x0301 c ∧ c.engaged = true ∧ tier0Page s (cmdCtx s q c)
      (c.field 16 8) false c.done = .ok a ∧ tier0Page s (cmdCtx s q c) (c.field 24 8) true c.done = .ok b ∧ badUnit s a
      0x1000 = none ∧ u = noteCorr a 0x1000 (softWrite s b (memRead s a 0x1000)) :=
  ⟨0, 0, 0x400000, 0x401000, { cmd1 0x0301 1 [(16, 8, 0x200000), (24, 8, 0x201000)] with engaged := true },
    withCmd up 0 { cmd1 0x0301 1 [(16, 8, 0x200000), (24, 8, 0x201000)] with engaged := true }, _,
    ⟨by decide +kernel, by decide +kernel, by decide +kernel⟩, by decide +kernel, ok_of (by decide +kernel),
    ok_of (by decide +kernel), by decide +kernel, rfl⟩

theorem wit_MoveCommandsComplete_5 :
    ∃ (q n : Nat) (c : QCmd) (as : List Nat) (s : State), Started s q n 0x0302 c ∧ c.engaged = false ∧ c.reservedZero [(16,
      16)] = true ∧ c.field 16 8 % 0x1000 = 0 ∧ c.field 16 8 < 2 ^ 48 ∧ tier0Pages s (cmdCtx s q c) (c.field 16 8) true
      c.length 0 = .ok as :=
  ⟨0, 0, cmd1 0x0302 2 [(16, 8, 0x200000)], [0x400000, 0x401000], names1 up 0x0302 2 [(16, 8, 0x200000)],
    ⟨by decide +kernel, by decide +kernel, by decide +kernel⟩, by decide +kernel, by decide +kernel, by decide +kernel,
    by decide +kernel, ok_of (by decide +kernel)⟩

theorem wit_MoveCommandsComplete_6 :
    ∃ (q n a : Nat) (c : QCmd) (s u : State), Started s q n 0x0302 c ∧ c.engaged = true ∧ tier0Page s (cmdCtx s q c)
      (c.field 16 8) true c.done = .ok a ∧ u = softWrite s a (List.replicate 512 ((c.packet.drop 24).take 8)).flatten :=
  ⟨0, 0, 0x401000, { cmd1 0x0302 2 [(16, 8, 0x200000)] with engaged := true, done := 1 },
    withCmd up 0 { cmd1 0x0302 2 [(16, 8, 0x200000)] with engaged := true, done := 1 }, _,
    ⟨by decide +kernel, by decide +kernel, by decide +kernel⟩, by decide +kernel, ok_of (by decide +kernel), rfl⟩

theorem wit_MoveCommandsComplete_7 :
    ∃ (q n : Nat) (c : QCmd) (s : State), Started s q n 0x0303 c ∧ c.reservedZero [(16, 8), (24, 1)] = true ∧ c.field 24 1 ≤
      1 ∧ c.field 16 8 % 0x1000 = 0 ∧ c.field 16 8 < 2 ^ 48 :=
  ⟨0, 0, cmd1 0x0303 1 [(16, 8, 0x200000), (24, 1, 1)], names1 up 0x0303 1 [(16, 8, 0x200000), (24, 1, 1)],
    ⟨by decide +kernel, by decide +kernel, by decide +kernel⟩, by decide +kernel, by decide +kernel, by decide +kernel,
    by decide +kernel⟩

theorem wit_PlannerCommandsComplete_1 :
    ∃ (q n : Nat) (c : QCmd) (bs : List Byte) (s : State), Started s q n 0x0400 c ∧ planAllowed s q c = true ∧ mapUnread s =
      none ∧ c.reservedZero [(16, 8)] = true ∧ planAddr (c.field 16 8) 64 = true ∧ opRead s q (c.field 16 8) (8 * c.length)
      = .ok bs ∧ (chunks c.length 8 bs).findIdx? (fun e => !updateOk e) = none ∧ ((mapBlocks ((chunks c.length 8 bs).foldl
      applyUpdate s.vetch.opn)).filter (fun b => !(blocksUsed s.vetch).contains b)).length ≤ poolBlocks s - (blocksUsed
      s.vetch).length :=
  ⟨0, 0, cmd1 0x0400 2 [(16, 8, 0x500000)], [0, 0, 0, 0, 0, 0, 1, 0, 0xFF, 1, 0, 0, 0, 0, 1, 0],
    names1 (memPut (memPut planUp 0x500006 1 1) 0x500008 8 0x10000000001FF) 0x0400 2 [(16, 8, 0x500000)],
    ⟨by decide +kernel, by decide +kernel, by decide +kernel⟩, by decide +kernel, by decide +kernel, by decide +kernel,
    by decide +kernel, ok_of (by decide +kernel), by decide +kernel, by decide +kernel⟩

theorem wit_PlannerCommandsComplete_2 :
    ∃ (q n : Nat) (c : QCmd) (s : State), Started s q n 0x0401 c ∧ planAllowed s q c = true ∧ c.reservedZero [(40, 9)] =
      true ∧ c.length ≤ 1 ∧ c.field 48 1 ≤ 1 :=
  ⟨0, 0, cmd1 0x0401 1 [(48, 1, 1)], names1 planUp 0x0401 1 [(48, 1, 1)],
    ⟨by decide +kernel, by decide +kernel, by decide +kernel⟩, by decide +kernel, by decide +kernel, by decide +kernel,
    by decide +kernel⟩

theorem wit_PlannerCommandsComplete_3 :
    ∃ (q n : Nat) (c : QCmd) (bs : List Byte) (s : State), Started s q n 0x0404 c ∧ planAllowed s q c = true ∧ ((startedCmds
      s).any (fun e => decide (e.2.opcode = 0x0402 ∨ e.2.opcode = 0x0403)) = false) ∧ c.reservedZero [(16, 8)] = true ∧
      planAddr (c.field 16 8) 0x1000 = true ∧ opRead s q (c.field 16 8) (0x1000 * c.length) = .ok bs :=
  ⟨0, 0, cmd1 0x0404 1 [(16, 8, 0x500000)], List.replicate 4096 0, names1 planUp 0x0404 1 [(16, 8, 0x500000)],
    ⟨by decide +kernel, by decide +kernel, by decide +kernel⟩, by decide +kernel, by decide +kernel, by decide +kernel,
    by decide +kernel, mgmt_read_empty (by decide +kernel) (by decide +kernel) (by decide +kernel)⟩

theorem wit_PlannerCommandsComplete_4 :
    ∃ (q n lib : Nat) (c : QCmd) (r : List Byte) (ps : List (Nat × Nat)) (s : State), Started s q n 0x0402 c ∧ planAllowed s
      q c = true ∧ mapUnread s = none ∧ c.reservedZero [(16, 8), (24, 8)] = true ∧ c.length ≤ 4096 ∧ planAddr (c.field 16 8)
      64 = true ∧ planAddr (c.field 24 8) 64 = true ∧ opRead s q (c.field 16 8) 128 = .ok r ∧ opPieces s q (c.field 24 8)
      (64 + 16 * c.length) .write = .ok ps ∧ s.vetch.lib = some lib ∧ queryOk r (enginePart s lib / 40) = true :=
  ⟨0, 0, 64, cmd1 0x0402 4096 [(16, 8, 0x500000), (24, 8, 0x600000)], aRequest, _,
    names1 planAsked 0x0402 4096 [(16, 8, 0x500000), (24, 8, 0x600000)],
    ⟨by decide +kernel, by decide +kernel, by decide +kernel⟩, by decide +kernel, by decide +kernel, by decide +kernel,
    by decide +kernel, by decide +kernel, by decide +kernel, ok_of (by decide +kernel), ok_list (by decide +kernel),
    by decide +kernel, by decide +kernel⟩

theorem wit_PlannerCommandsComplete_5 :
    ∃ (q n lib st d : Nat) (c : QCmd) (r bs : List Byte) (ps : List (Nat × Nat)) (e : Node) (s t : State), Started s q n
      0x0403 c ∧ planAllowed s q c = true ∧ mapUnread s = none ∧ c.reservedZero [(16, 8), (24, 8), (32, 8)] = true ∧
      c.length ≤ 4096 ∧ planAddr (c.field 16 8) 64 = true ∧ planAddr (c.field 24 8) 64 = true ∧ planAddr (c.field 32 8) 64 =
      true ∧ opRead s q (c.field 16 8) 128 = .ok r ∧ opPieces s q (c.field 32 8) 64 .write = .ok ps ∧ s.vetch.lib = some lib
      ∧ queryOk r (enginePart s lib / 40) = true ∧ opRead s q (c.field 24 8) (16 * c.length) = .ok bs ∧ (chunks c.length 16
      bs).findIdx? (fun e => decide (fieldAt e 11 1 ≠ 0)) = none ∧ standHits s (pinnedMap s q c.n) r = .ok false ∧
      checkSteps s (pinnedMap s q c.n) r 1 (chunks c.length 16 bs) (startNode r) = .ok (none, e) ∧ endCheck q c r (pinnedMap
      s q c.n).epoch 0 Status.ok 0 0 e ⟨[], [], 0, 0, 0, 0, none, none, none⟩ s = .done st d t :=
  ⟨0, 0, 64, _, _, cmd1 0x0403 0 [(16, 8, 0x500000), (24, 8, 0x600000), (32, 8, 0x700000)], aRequest, [], _,
    startNode aRequest, names1 planAsked 0x0403 0 [(16, 8, 0x500000), (24, 8, 0x600000), (32, 8, 0x700000)], _,
    ⟨by decide +kernel, by decide +kernel, by decide +kernel⟩, by decide +kernel, by decide +kernel, by decide +kernel,
    by decide +kernel, by decide +kernel, by decide +kernel, by decide +kernel, ok_of (by decide +kernel),
    ok_list (by decide +kernel), by decide +kernel, by decide +kernel, ok_of (by decide +kernel), by decide +kernel,
    ok_of (by decide +kernel), ok_of (by decide +kernel), done_got (by decide +kernel)⟩

theorem wit_SetCommandsComplete_1 :
    ∃ (q n : Nat) (c : QCmd) (bs : List Byte) (s u : State), Started s q n 0x0600 c ∧ c.reservedZero [(24, 8)] = true ∧
      c.length ≤ areaBytes ∧ opAligned q (c.field 24 8) 64 = true ∧ s.harebell.commit = none ∧ opRead s q (c.field 24 8)
      c.length = .ok bs ∧ u = modHarebell s (fun h =>
      { h with areas := storeSetList (fun _ => 0) h.areas (areaBase (1 - s.harebell.active)) bs, areaBad := h.areaBad.filter (fun w => !decide (areaBase (1 - s.harebell.active) ≤ w ∧ w + 8 ≤ areaBase (1 - s.harebell.active) + bs.length)) })
      :=
  ⟨0, 0, aCmd 0x0600 64 [(24, 8, 0x500000)], List.replicate 64 0, runs 0x0600 64 [(24, 8, 0x500000)], _,
    ⟨by decide +kernel, by decide +kernel, by decide +kernel⟩, by decide +kernel, by decide +kernel, by decide +kernel,
    by decide +kernel, ok_of (by decide +kernel), rfl⟩

theorem wit_SetCommandsComplete_2 :
    ∃ (q n : Nat) (c : QCmd) (s : State), Started s q n 0x0601 c ∧ c.engaged = false ∧ c.length = 1 ∧ c.reservedZero [(16,
      2)] = true ∧ inSafe s = false ∧ s.harebell.commit = none ∧ s.harebell.shadowOk = true ∧ trigArmed s (c.field 16 2) =
      true :=
  ⟨0, 0, aCmd 0x0601 1 [(16, 2, 63)],
    withFields { runs 0x0601 1 [(16, 2, 63)] with harebell := { Harebell.init with shadowOk := true } } [(Reg.TIME_TRIG_STATE_ARMED 63, 1)],
    ⟨by decide +kernel, by decide +kernel, by decide +kernel⟩, by decide +kernel, by decide +kernel, by decide +kernel,
    by decide +kernel, by decide +kernel, by decide +kernel, by decide +kernel⟩

theorem wit_SetCommandsComplete_3 :
    ∃ (q n a : Nat) (c : QCmd) (s t : State), Started s q n 0x0602 c ∧ c.reservedZero [(16, 1), (24, 8)] = true ∧ c.field 16
      1 ≤ 1 ∧ c.length ≤ areaBytes ∧ opAligned q (c.field 24 8) 64 = true ∧ a = (if c.field 16 1 = 0 then s.harebell.active
      else 1 - s.harebell.active) ∧ areaUncorr s a c.length = none ∧ opWrite s q (c.field 24 8) (areaRead s a 0 c.length) =
      .ok t :=
  ⟨0, 0, _, aCmd 0x0602 64 [(16, 1, 1), (24, 8, 0x500000)], runs 0x0602 64 [(16, 1, 1), (24, 8, 0x500000)], _,
    ⟨by decide +kernel, by decide +kernel, by decide +kernel⟩, by decide +kernel, by decide +kernel, by decide +kernel,
    by decide +kernel, rfl, by decide +kernel, ok_got (by decide +kernel)⟩

theorem wit_SetCommandsComplete_4 :
    ∃ (h : Hold) (s : State), alive s = true ∧ s.harebell.hold = some h ∧ h.start + 10000000000 ≤ s.time :=
  ⟨⟨0, 0, 0, false, false⟩,
    { State.reset with time := 10000000000, harebell := { Harebell.init with hold := some ⟨0, 0, 0, false, false⟩ } },
    by decide +kernel, by decide +kernel, by decide +kernel⟩

theorem wit_PowerRowsComplete_1 :
    ∃ (s : State), alive s = true :=
  ⟨State.reset, by decide +kernel⟩

theorem wit_PowerRowsComplete_2 :
    ∃ (s : State), Sound s ∧ alive s = true ∧ fbit s Reg.PWR_STATUS_FIXED = false ∧ s.power.ramp = none ∧ 200 ≤
      s.power.boostRun ∧ inJobWithOthers s = false ∧ fget s Reg.PWR_FREQ_CURRENT_MHZ ≤ fget s Reg.PWR_FREQ_PERMITTED_MHZ :=
  ⟨withFields { State.reset with power := { Power.init with boostRun := 200 } } [(Reg.PWR_STATUS_FIXED, 0)],
    sound_check _ (by decide +kernel), by decide +kernel, by decide +kernel, by decide +kernel, by decide +kernel,
    by decide +kernel, by decide +kernel⟩

theorem wit_PowerRowsComplete_3 :
    ∃ (fixed q n : Nat) (s : State), s.power.ramp = some (fixed, q, n) :=
  ⟨1, 0, 0, { State.reset with power := { Power.init with ramp := some (1, 0, 0) } }, by decide +kernel⟩

theorem wit_PowerRowsComplete_4 :
    ∃ (m : Nat) (s : State), alive s = true ∧ m ≠ modnum s ∧ inJob s m = true :=
  ⟨3, withFields State.reset [(Reg.GLB_MODNUM_JOB_MASK, 9)], by decide +kernel, by decide +kernel, by decide +kernel⟩

theorem wit_PowerRowsComplete_5 :
    ∃ (t : Nat) (s : State), s.power.adopt = some t ∧ (s.boundary = true ∨ t + 1000000 ≤ s.time) :=
  ⟨0, { State.reset with time := 1000000, power := { Power.init with adopt := some 0 } }, by decide +kernel,
    by decide +kernel⟩

theorem wit_PowerRowsComplete_6 :
    ∃ (q n vs vp : Nat) (c : QCmd) (s : State), Started s q n 0x0710 c ∧ c.length = 1 ∧ c.reservedZero [(16, 4)] = true ∧ vs
      = (if c.field 16 2 = 0 then fget s Reg.PWR_CAP_CAP_S else c.field 16 2) ∧ vp = (if c.field 18 2 = 0 then fget s
      Reg.PWR_CAP_CAP_P else c.field 18 2) ∧ 60 ≤ vs ∧ vs ≤ fget s Reg.PWR_CAP_CAP_S ∧ 60 ≤ vp ∧ vp ≤ fget s
      Reg.PWR_CAP_CAP_P ∧ vs ≤ vp :=
  ⟨0, 0, _, _, aCmd 0x0710 1 [(16, 2, 60)],
    withFields (runs 0x0710 1 [(16, 2, 60)]) [(Reg.PWR_CAP_CAP_S, 100), (Reg.PWR_CAP_CAP_P, 100)],
    ⟨by decide +kernel, by decide +kernel, by decide +kernel⟩, by decide +kernel, by decide +kernel, rfl, rfl,
    by decide +kernel, by decide +kernel, by decide +kernel, by decide +kernel, by decide +kernel⟩

theorem wit_PowerRowsComplete_7 :
    ∃ (q n : Nat) (c : QCmd) (s : State), Started s q n 0x0711 c ∧ c.engaged = false ∧ c.length = 1 ∧ c.reservedZero [(16,
      1)] = true ∧ c.field 16 1 ≤ 1 ∧ inSafe s = false ∧ inJobWithOthers s = false ∧ s.power.ramp = none :=
  ⟨0, 0, aCmd 0x0711 1 [(16, 1, 1)], runs 0x0711 1 [(16, 1, 1)], ⟨by decide +kernel, by decide +kernel, by decide +kernel⟩,
    by decide +kernel, by decide +kernel, by decide +kernel, by decide +kernel, by decide +kernel, by decide +kernel,
    by decide +kernel⟩

theorem wit_PowerRowsComplete_8 :
    ∃ (q n : Nat) (c : QCmd) (s t : State), Started s q n 0x0712 c ∧ c.length = 1 ∧ c.reservedZero [(24, 8)] = true ∧
      opAligned q (c.field 24 8) 64 = true ∧ opWrite s q (c.field 24 8) ((List.range 16).flatMap (fun i => leBytes 4 (if
      Reg.PWR_STATUS + 4 * i = Reg.PWR_WAKE then remainMs s else regWord s (Reg.PWR_STATUS + 4 * i)))) = .ok t :=
  ⟨0, 0, aCmd 0x0712 1 [(24, 8, 0x500000)], runs 0x0712 1 [(24, 8, 0x500000)], _,
    ⟨by decide +kernel, by decide +kernel, by decide +kernel⟩, by decide +kernel, by decide +kernel, by decide +kernel,
    ok_got (by decide +kernel)⟩

theorem wit_SecurityCommandsComplete_1 :
    ∃ (q n : Nat) (c : QCmd) (bs : List Byte) (s : State), Started s q n 0x0720 c ∧ c.reservedZero [(16, 1), (24, 8), (32,
      8)] = true ∧ c.field 16 1 ≤ 3 ∧ c.field 32 8 % 4096 = 0 ∧ c.field 32 8 + 4096 * c.length ≤ targetBytes (c.field 16 1)
      ∧ opAligned q (c.field 24 8) 64 = true ∧ targetFree s (c.field 16 1) = true ∧ opRead s q (c.field 24 8) (4096 *
      c.length) = .ok bs :=
  ⟨0, 0, aCmd 0x0720 1 [(16, 1, 3), (24, 8, 0x500000)], List.replicate 4096 0,
    runs 0x0720 1 [(16, 1, 3), (24, 8, 0x500000)], ⟨by decide +kernel, by decide +kernel, by decide +kernel⟩,
    by decide +kernel, by decide +kernel, by decide +kernel, by decide +kernel, by decide +kernel, by decide +kernel,
    mgmt_read_empty (by decide +kernel) (by decide +kernel) (by decide +kernel)⟩

theorem wit_SecurityCommandsComplete_2 :
    ∃ (q n : Nat) (c : QCmd) (s : State), Started s q n 0x0721 c ∧ c.length = 1 ∧ c.reservedZero [(16, 1)] = true ∧ c.field
      16 1 < 2 :=
  ⟨0, 0, aCmd 0x0721 1 [(16, 1, 1)], runs 0x0721 1 [(16, 1, 1)], ⟨by decide +kernel, by decide +kernel, by decide +kernel⟩,
    by decide +kernel, by decide +kernel, by decide +kernel⟩

theorem wit_SecurityCommandsComplete_3 :
    ∃ (q n : Nat) (c : QCmd) (s : State), Started s q n 0x0721 c ∧ c.length = 1 ∧ c.reservedZero [(16, 1)] = true ∧ 2 ≤
      c.field 16 1 ∧ c.field 16 1 ≤ 3 :=
  ⟨0, 0, aCmd 0x0721 1 [(16, 1, 3)], runs 0x0721 1 [(16, 1, 3)], ⟨by decide +kernel, by decide +kernel, by decide +kernel⟩,
    by decide +kernel, by decide +kernel, by decide +kernel, by decide +kernel⟩

theorem wit_SecurityCommandsComplete_4 :
    ∃ (q n : Nat) (c : QCmd) (s : State), Started s q n 0x0722 c ∧ c.length = 1 ∧ c.reservedZero [(16, 1)] = true ∧ c.field
      16 1 ≤ 1 ∧ s.harebell.verified.contains (c.field 16 1) = true :=
  ⟨0, 0, aCmd 0x0722 1 [(16, 1, 1)], { runs 0x0722 1 [(16, 1, 1)] with harebell := { Harebell.init with verified := [1] } },
    ⟨by decide +kernel, by decide +kernel, by decide +kernel⟩, by decide +kernel, by decide +kernel, by decide +kernel,
    by decide +kernel⟩

theorem wit_SecurityCommandsComplete_5 :
    ∃ (q n : Nat) (c : QCmd) (l : List Nat) (s : State), Started s q n 0x0723 c ∧ c.length = 1 ∧ c.reservedZero [] = true ∧
      l = ((List.range 5).zip (runningVersions s)).map (fun (k, v) => max v (minValue s k)) :=
  ⟨0, 0, aCmd 0x0723 1 [], _, runs 0x0723 1 [], ⟨by decide +kernel, by decide +kernel, by decide +kernel⟩,
    by decide +kernel, by decide +kernel, rfl⟩

theorem wit_SecurityCommandsComplete_6 :
    ∃ (q n k : Nat) (c : QCmd) (user : List Byte) (s t : State), Started s q n 0x0724 c ∧ c.length = 1 ∧ opAligned q
      (c.field 48 8) 64 = true ∧ (c.field 56 8 = 0 ∨ opAligned q (c.field 56 8) 64 = true) ∧ sigCounter s = some k ∧ k < 2 ^
      20 ∧ s.harebell.signed = true ∧ (c.field 56 8 = 0 → user = List.replicate 64 0) ∧ (c.field 56 8 ≠ 0 → opRead s q
      (c.field 56 8) 64 = .ok user) ∧ opWrite s q (c.field 48 8) (signedReport k (report s k (slice c.packet 16 32) user)) =
      .ok t :=
  ⟨0, 0, 0xFFFFF, aCmd 0x0724 1 [(48, 8, 0x500000)], List.replicate 64 0,
    { runs 0x0724 1 [(48, 8, 0x500000)] with harebell := { Harebell.init with signed := true, sigCopies := [some 0xFFFFF, none] } },
    _, ⟨by decide +kernel, by decide +kernel, by decide +kernel⟩, by decide +kernel, by decide +kernel, by decide +kernel,
    by decide +kernel, by decide +kernel, by decide +kernel, (fun _ => rfl), (fun h => absurd (by decide +kernel) h),
    ok_got (mgmt_write_ok (by decide +kernel) (Nat.le_trans (Nat.add_le_add_left (signedReport_length ..) _) (by decide +kernel)))⟩

theorem wit_SecurityCommandsComplete_7 :
    ∃ (q n : Nat) (c : QCmd) (s t : State), Started s q n 0x0725 c ∧ c.length = 1 ∧ c.reservedZero [(24, 8)] = true ∧
      opAligned q (c.field 24 8) 64 = true ∧ opWrite s q (c.field 24 8) (Config.certificate.take 0x10000) = .ok t :=
  ⟨0, 0, aCmd 0x0725 1 [(24, 8, 0x500000)], runs 0x0725 1 [(24, 8, 0x500000)], _,
    ⟨by decide +kernel, by decide +kernel, by decide +kernel⟩, by decide +kernel, by decide +kernel, by decide +kernel,
    ok_got (mgmt_write_ok (by decide +kernel) (Nat.le_trans (Nat.add_le_add_left (List.length_take_le ..) _) (by decide +kernel)))⟩

theorem wit_SecurityCommandsComplete_8 :
    ∃ (q n : Nat) (c : QCmd) (d : List Byte) (s : State), Started s q n 0x0726 c ∧ c.length = 1 ∧ c.reservedZero [(24, 8)] =
      true ∧ opAligned q (c.field 24 8) 64 = true ∧ opRead s q (c.field 24 8) 32 = .ok d :=
  ⟨0, 0, aCmd 0x0726 1 [(24, 8, 0x500000)], List.replicate 32 0, runs 0x0726 1 [(24, 8, 0x500000)],
    ⟨by decide +kernel, by decide +kernel, by decide +kernel⟩, by decide +kernel, by decide +kernel, by decide +kernel,
    ok_of (by decide +kernel)⟩

theorem wit_ResetCommandsComplete_1 :
    ∃ (s : State), s.power.rstLow = false :=
  ⟨State.reset, by decide +kernel⟩

theorem wit_ResetCommandsComplete_2 :
    ∃ (s : State), s.power.rstLow = false ∧ s.power.off = false ∧ s.power.dormant = false :=
  ⟨State.reset, by decide +kernel, by decide +kernel, by decide +kernel⟩

theorem wit_ResetCommandsComplete_3 :
    ∃ (s : State), s.power.rstLow = true ∧ s.power.off = false ∧ s.power.dormant = false :=
  ⟨{ State.reset with power := { Power.init with rstLow := true } }, by decide +kernel, by decide +kernel,
    by decide +kernel⟩

theorem wit_ResetCommandsComplete_4 :
    ∃ (q n : Nat) (c : QCmd) (s : State), Started s q n 0x0730 c ∧ c.length = 1 ∧ c.reservedZero [] = true ∧ inSafe s =
      false ∧ loopsOn s = false ∧ commitBusy s = false :=
  ⟨0, 0, aCmd 0x0730 1 [], runs 0x0730 1 [], ⟨by decide +kernel, by decide +kernel, by decide +kernel⟩, by decide +kernel,
    by decide +kernel, by decide +kernel, by decide +kernel, by decide +kernel⟩

theorem wit_ResetCommandsComplete_5 :
    ∃ (q n : Nat) (c : QCmd) (s : State), Started s q n 0x0731 c ∧ c.length = 1 ∧ c.reservedZero [(16, 1), (20, 4)] = true ∧
      c.field 16 1 = 0 :=
  ⟨0, 0, aCmd 0x0731 1 [], runs 0x0731 1 [], ⟨by decide +kernel, by decide +kernel, by decide +kernel⟩, by decide +kernel,
    by decide +kernel, by decide +kernel⟩

theorem wit_ResetCommandsComplete_6 :
    ∃ (q n : Nat) (c : QCmd) (s : State), Started s q n 0x0731 c ∧ c.length = 1 ∧ c.reservedZero [(16, 1), (20, 4)] = true ∧
      c.field 16 1 = 1 ∧ inSafe s = false ∧ stateBlocked s = 0 :=
  ⟨0, 0, aCmd 0x0731 1 [(16, 1, 1), (20, 4, 5)], runs 0x0731 1 [(16, 1, 1), (20, 4, 5)],
    ⟨by decide +kernel, by decide +kernel, by decide +kernel⟩, by decide +kernel, by decide +kernel, by decide +kernel,
    by decide +kernel, by decide +kernel⟩

theorem wit_ResetCommandsComplete_7 :
    ∃ (q n : Nat) (c : QCmd) (s : State), Started s q n 0x0731 c ∧ c.length = 1 ∧ c.reservedZero [(16, 1), (20, 4)] = true ∧
      c.field 16 1 = 2 ∧ inSafe s = false ∧ stateBlocked s = 0 :=
  ⟨0, 0, aCmd 0x0731 1 [(16, 1, 2)], runs 0x0731 1 [(16, 1, 2)], ⟨by decide +kernel, by decide +kernel, by decide +kernel⟩,
    by decide +kernel, by decide +kernel, by decide +kernel, by decide +kernel, by decide +kernel⟩

theorem wit_NetworkCommandsComplete_1 :
    ∃ (q n : Nat) (c : QCmd) (fs : List (Nat × NetFrame)) (s : State), Started s q n 0x0740 c ∧ c.engaged = false ∧ c.length
      ≤ 64 ∧ c.reservedZero [(24, 8)] = true ∧ opAligned q (c.field 24 8) 64 = true ∧ netList q c s c.length 0 (c.field 24
      8) = .ok fs :=
  ⟨0, 0, aCmd 0x0740 1 [(24, 8, 0x500000)], _,
    withCmd (memPut (memPut State.reset 0x50000C 2 60) 0x500016 6 0x104C4E0002) 0 (aCmd 0x0740 1 [(24, 8, 0x500000)]),
    ⟨by decide +kernel, by decide +kernel, by decide +kernel⟩, by decide +kernel, by decide +kernel, by decide +kernel,
    by decide +kernel, ok_list (by decide +kernel)⟩

theorem wit_NetworkCommandsComplete_2 :
    ∃ (p i : Nat) (f : NetFrame) (s : State), alive s = true ∧ phaseUp s 5 = true ∧ nextFrame s p = some (i, f) :=
  ⟨1, 0, ⟨7, none, List.replicate 60 0, none, 0⟩,
    { State.reset with timeu := { TimeUnit.init with net := [(1, { NetPort.init with frames := [⟨7, none, List.replicate 60 0, none, 0⟩] })] } },
    by decide +kernel, by decide +kernel, by decide +kernel⟩

theorem wit_NetworkCommandsComplete_3 :
    ∃ (p cur stop : Nat) (s : State), alive s = true ∧ phaseUp s 5 = true ∧ p < 2 ∧ (netPort s p).running = true ∧ fbit s
      (Reg.NET_GCL_CFG_EN p) = true ∧ cur = fget s (Reg.NET_GCL_STATUS_CURRENT p) ∧ stop = (netPort s p).began + ((netPort s
      p).list.getD cur (0, 0)).2 ∧ stop ≤ s.time :=
  ⟨1, 0, 100,
    withFields { State.reset with time := 100, timeu := { TimeUnit.init with net := [(1, { NetPort.init with running := true, list := [(255, 100)] })] } } [(Reg.NET_GCL_CFG_EN 1, 1)],
    by decide +kernel, by decide +kernel, by decide +kernel, by decide +kernel, by decide +kernel, by decide +kernel,
    by decide +kernel, by decide +kernel⟩

theorem wit_RegisterCommandsComplete_1 :
    ∃ (q n : Nat) (as : List PcieCompletion) (c : QCmd) (bs : List Byte) (s u v t : State), Started s q n 0x0741 c ∧
      regParamsBad q c = false ∧ c.length ≠ 0 ∧ c.field 20 1 = modnum s ∧ inJob s (modnum s) = true ∧ opWrite s q (c.field
      24 8) (List.replicate (4 * c.length) 0) = .ok v ∧ readRegs as c.length 0 (c.field 16 4) s = (bs, u) ∧ opWrite u q
      (c.field 24 8) bs = .ok t :=
  ⟨0, 0, [], aCmd 0x0741 1024 [(24, 8, 0x500000)], _,
    withFields (runs 0x0741 1024 [(24, 8, 0x500000)]) [(Reg.GLB_MODNUM_JOB_MASK, 1)], _, _, _,
    ⟨by decide +kernel, by decide +kernel, by decide +kernel⟩, by decide +kernel, by decide +kernel, by decide +kernel,
    by decide +kernel, ok_got (by decide +kernel), pair_eta, ok_got (by decide +kernel)⟩

theorem wit_RegisterCommandsComplete_2 :
    ∃ (q n : Nat) (remote : List Word) (c : QCmd) (s v t : State), Started s q n 0x0741 c ∧ regParamsBad q c = false ∧
      c.length ≠ 0 ∧ c.field 20 1 ≠ modnum s ∧ inJob s (c.field 20 1) = true ∧ opWrite s q (c.field 24 8) (List.replicate (4
      * c.length) 0) = .ok v ∧ remote.length = c.length ∧ opWrite s q (c.field 24 8) (wordsToBytes remote) = .ok t :=
  ⟨0, 0, [7], aCmd 0x0741 1 [(20, 1, 3), (24, 8, 0x500000)],
    withFields (runs 0x0741 1 [(20, 1, 3), (24, 8, 0x500000)]) [(Reg.GLB_MODNUM_JOB_MASK, 9)], _, _,
    ⟨by decide +kernel, by decide +kernel, by decide +kernel⟩, by decide +kernel, by decide +kernel, by decide +kernel,
    by decide +kernel, ok_got (by decide +kernel), by decide +kernel, ok_got (by decide +kernel)⟩

theorem wit_RegisterCommandsComplete_3 :
    ∃ (q n off : Nat) (as : List PcieCompletion) (c : QCmd) (bs : List Byte) (i : Option Nat) (s t : State), Started s q n
      0x0742 c ∧ regParamsBad q c = false ∧ c.length ≠ 0 ∧ c.field 20 1 = modnum s ∧ opRead s q (c.field 24 8) (4 *
      c.length) = .ok bs ∧ off = c.field 16 4 ∧ writeRegs as off (bytesToWords c.length bs) (writeOrder off c.length 0) none
      s = (i, t) :=
  ⟨0, 0, _, [], aCmd 0x0742 1 [(24, 8, 0x500000)], List.replicate 4 0, _, runs 0x0742 1 [(24, 8, 0x500000)], _,
    ⟨by decide +kernel, by decide +kernel, by decide +kernel⟩, by decide +kernel, by decide +kernel, by decide +kernel,
    ok_of (by decide +kernel), rfl, pair_eta⟩

theorem wit_LogRowsComplete_1 :
    ∃ (q n : Nat) (c : QCmd) (s : State), Started s q n 0x0801 c ∧ c.reservedZero [] = true ∧ c.length = 1 ∧ s.tansy.frozen
      = false :=
  ⟨0, 0, aCmd 0x0801 1 [], runs 0x0801 1 [], ⟨by decide +kernel, by decide +kernel, by decide +kernel⟩, by decide +kernel,
    by decide +kernel, by decide +kernel⟩

theorem wit_LogRowsComplete_2 :
    ∃ (q n : Nat) (c : QCmd) (s : State), Started s q n 0x0802 c ∧ c.reservedZero [] = true ∧ c.length = 1 :=
  ⟨0, 0, aCmd 0x0802 1 [], runs 0x0802 1 [], ⟨by decide +kernel, by decide +kernel, by decide +kernel⟩, by decide +kernel,
    by decide +kernel⟩

theorem wit_LogRowsComplete_3 :
    ∃ (q n : Nat) (c : QCmd) (s : State), Started s q n 0x0803 c ∧ c.reservedZero [] = true ∧ c.length = 1 ∧ s.tansy.frozen
      = true :=
  ⟨0, 0, aCmd 0x0803 1 [], { runs 0x0803 1 [] with tansy := { Tansy.init with frozen := true } },
    ⟨by decide +kernel, by decide +kernel, by decide +kernel⟩, by decide +kernel, by decide +kernel, by decide +kernel⟩

theorem wit_LogRowsComplete_4 :
    ∃ (q n k : Nat) (c : QCmd) (bs : List Byte) (s u t : State), Started s q n 0x0800 c ∧ c.reservedZero [(16, 4), (24, 8)]
      = true ∧ c.field 16 4 ≠ 0 ∧ c.length ≤ 32767 ∧ opAligned q (c.field 24 8) 64 = true ∧ (List.range c.length).foldl (fun
      p i => readSlot (c.field 16 4 + i) p) (logHeader s.tansy, 0, s) = (bs, k, u) ∧ opWrite u q (c.field 24 8) bs = .ok t
      :=
  ⟨0, 0, _, aCmd 0x0800 2 [(16, 4, 1), (24, 8, 0x500000)], _, runs 0x0800 2 [(16, 4, 1), (24, 8, 0x500000)], _, _,
    ⟨by decide +kernel, by decide +kernel, by decide +kernel⟩, by decide +kernel, by decide +kernel, by decide +kernel,
    by decide +kernel, triple_eta, ok_got (by decide +kernel)⟩

theorem wit_LogRowsComplete_5 :
    ∃ (s : State), s.tansy.frozen = true ∧ s.tansy.freezeAt + 50000000 ≤ s.time :=
  ⟨{ State.reset with time := 50000000, tansy := { Tansy.init with frozen := true } }, by decide +kernel, by decide +kernel⟩

theorem wit_LogRowsComplete_6 :
    ∃ (e : Event) (rest : List Event) (s : State), s.tansy.raised = e :: rest ∧ s.tansy.staging.length < 64 :=
  ⟨⟨0x5008, 0, 0, 0xFF, 0, []⟩, [],
    { State.reset with tansy := { Tansy.init with raised := [⟨0x5008, 0, 0, 0xFF, 0, []⟩], staging := List.replicate 63 ⟨0x5008, 0, 0, 0xFF, 0, []⟩ } },
    by decide +kernel, by decide +kernel⟩

theorem wit_LogRowsComplete_7 :
    ∃ (e : Event) (rest : List Event) (s : State), s.tansy.raised = e :: rest ∧ 64 ≤ s.tansy.staging.length :=
  ⟨⟨0x5008, 0, 0, 0xFF, 0, []⟩, [],
    { State.reset with tansy := { Tansy.init with raised := [⟨0x5008, 0, 0, 0xFF, 0, []⟩], staging := List.replicate 64 ⟨0x5008, 0, 0, 0xFF, 0, []⟩ } },
    by decide +kernel, by decide +kernel⟩

theorem wit_LogRowsComplete_8 :
    ∃ (e : Event) (rest : List Event) (s : State), s.tansy.staging = e :: rest ∧ s.tansy.frozen = false ∧ s.tansy.scanDone =
      true :=
  ⟨⟨0x5008, 0, 0, 0xFF, 0, []⟩, [],
    { State.reset with tansy := { Tansy.init with staging := [⟨0x5008, 0, 0, 0xFF, 0, []⟩], scanDone := true } },
    by decide +kernel, by decide +kernel, by decide +kernel⟩

theorem wit_LogRowsComplete_9 :
    ∃ (s : State), s.power.dormant = false ∧ s.power.off = false :=
  ⟨State.reset, by decide +kernel, by decide +kernel⟩

theorem wit_SafetyCommandsComplete_1 :
    ∃ (q n : Nat) (src : List Byte) (c : QCmd) (s t : State), Started s q n 0x0900 c ∧ c.reservedZero [(16, 1), (24, 8)] =
      true ∧ c.field 16 1 ≤ 1 ∧ src = (if c.field 16 1 = 0 then safeStatusBytes s else (s.image.map (·.goldenIn)).getD []) ∧
      64 * c.length - 63 ≤ src.length ∧ opAligned q (c.field 24 8) 64 = true ∧ opWrite s q (c.field 24 8) (padTo (64 *
      c.length) src) = .ok t :=
  ⟨0, 0, _, aCmd 0x0900 4 [(24, 8, 0x500000)], runs 0x0900 4 [(24, 8, 0x500000)], _,
    ⟨by decide +kernel, by decide +kernel, by decide +kernel⟩, by decide +kernel, by decide +kernel, rfl, by decide +kernel,
    by decide +kernel, ok_got (by decide +kernel)⟩

theorem wit_SafetyCommandsComplete_2 :
    ∃ (q n : Nat) (c : QCmd) (s : State), Started s q n 0x0901 c ∧ c.length = 1 ∧ c.reservedZero [(16, 1)] = true ∧ c.field
      16 1 ≤ 3 :=
  ⟨0, 0, aCmd 0x0901 1 [(16, 1, 3)], runs 0x0901 1 [(16, 1, 3)], ⟨by decide +kernel, by decide +kernel, by decide +kernel⟩,
    by decide +kernel, by decide +kernel, by decide +kernel⟩

theorem wit_SafetyCommandsComplete_3 :
    ∃ (q n : Nat) (c : QCmd) (s : State), Started s q n 0x0902 c ∧ c.length = 1 ∧ c.reservedZero [] = true :=
  ⟨0, 0, aCmd 0x0902 1 [], runs 0x0902 1 [], ⟨by decide +kernel, by decide +kernel, by decide +kernel⟩, by decide +kernel,
    by decide +kernel⟩

theorem wit_SafetyCommandsComplete_4 :
    ∃ (q n : Nat) (c : QCmd) (bs : List Byte) (s : State), Started s q n 0x0903 c ∧ fromHost q c false s = true ∧
      c.reservedZero [(24, 8)] = true ∧ c.length ≤ 65536 ∧ opAligned q (c.field 24 8) 64 = true ∧ opRead s q (c.field 24 8)
      c.length = .ok bs ∧ isLate s.safety.checked c s = false ∧ ofEarlier c s = false :=
  ⟨16, 0, aCmd 0x0903 64 [(24, 8, 0x200000)], List.replicate 64 0, withCmd hosting 16 (aCmd 0x0903 64 [(24, 8, 0x200000)]),
    ⟨by decide +kernel, by decide +kernel, by decide +kernel⟩, by decide +kernel, by decide +kernel, by decide +kernel,
    by decide +kernel, ok_of (by decide +kernel), by decide +kernel, by decide +kernel⟩

theorem wit_SafetyCommandsComplete_5 :
    ∃ (q n : Nat) (c : QCmd) (bs : List Byte) (s : State), Started s q n 0x0904 c ∧ fromHost q c false s = true ∧
      c.reservedZero [(16, 1), (24, 8)] = true ∧ c.field 16 1 = 0 ∧ c.length = outputCount s ∧ opAligned q (c.field 24 8) 64
      = true ∧ opRead s q (c.field 24 8) (4 * c.length) = .ok bs ∧ isLate s.safety.submitted c s = false ∧ ofEarlier c s =
      false :=
  ⟨16, 0, aCmd 0x0904 0 [(24, 8, 0x200000)], [], withCmd hosting 16 (aCmd 0x0904 0 [(24, 8, 0x200000)]),
    ⟨by decide +kernel, by decide +kernel, by decide +kernel⟩, by decide +kernel, by decide +kernel, by decide +kernel,
    by decide +kernel, by decide +kernel, ok_of (by decide +kernel), by decide +kernel, by decide +kernel⟩

theorem wit_SafetyCommandsComplete_6 :
    ∃ (q n : Nat) (c : QCmd) (bs : List Byte) (s : State), Started s q n 0x0904 c ∧ fromHost q c true s = true ∧
      c.reservedZero [(16, 1), (24, 8)] = true ∧ c.field 16 1 = 1 ∧ c.length = outputCount s ∧ opAligned q (c.field 24 8) 64
      = true ∧ opRead s q (c.field 24 8) (4 * c.length) = .ok bs :=
  ⟨0, 0, cmd1 0x0904 0 [(16, 1, 1), (24, 8, 0x500000)], [],
    names1 (withFields hosting [(Reg.QMGR_STATUS_IMAGE_HOLD, 1)]) 0x0904 0 [(16, 1, 1), (24, 8, 0x500000)],
    ⟨by decide +kernel, by decide +kernel, by decide +kernel⟩, by decide +kernel, by decide +kernel, by decide +kernel,
    by decide +kernel, by decide +kernel, ok_of (by decide +kernel)⟩

theorem wit_ComparisonEventsComplete_1 :
    ∃ (p : Pass) (rest : List Pass) (ys : List Word) (s : State), alive s = true ∧ s.safety.passes = p :: rest ∧ phaseUp s 6
      = true ∧ ys.length = outputCount s :=
  ⟨⟨false, 0, []⟩, [], [], { State.reset with safety := { Safety.init with passes := [⟨false, 0, []⟩] } },
    by decide +kernel, by decide +kernel, by decide +kernel, by decide +kernel⟩

theorem wit_ComparisonEventsComplete_2 :
    ∃ (p : Pass) (rest : List Pass) (s : State), alive s = true ∧ s.safety.passes = p :: rest ∧ phaseUp s 6 = true :=
  ⟨⟨false, 0, []⟩, [], { State.reset with safety := { Safety.init with passes := [⟨false, 0, []⟩] } }, by decide +kernel,
    by decide +kernel, by decide +kernel⟩

theorem wit_ComparisonEventsComplete_3 :
    ∃ (t : Nat) (s : State), alive s = true ∧ s.safety.frame = some t ∧ s.safety.decided = false ∧ inSafe s = false ∧
      s.safety.main.isSome = true ∧ s.safety.check.isSome = true :=
  ⟨0,
    { State.reset with safety := { Safety.init with frame := some 0, decided := false, main := some [], check := some [] } },
    by decide +kernel, by decide +kernel, by decide +kernel, by decide +kernel, by decide +kernel, by decide +kernel⟩

theorem wit_ComparisonEventsComplete_4 :
    ∃ (t : Nat) (s : State), alive s = true ∧ s.safety.frame = some t ∧ s.safety.decided = false ∧ inSafe s = false ∧ t +
      compareNs s ≤ s.time :=
  ⟨0, { State.reset with time := 1000000000000, safety := { Safety.init with frame := some 0, decided := false } },
    by decide +kernel, by decide +kernel, by decide +kernel, by decide +kernel, by decide +kernel⟩

theorem wit_ComparisonEventsComplete_5 :
    ∃ (d : Decision) (s : State), alive s = true ∧ s.safety.decision = some d ∧ firmware s = true ∧ inSafe s = false :=
  ⟨⟨.agree, 0, []⟩, { State.reset with safety := { Safety.init with decision := some ⟨.agree, 0, []⟩ } }, by decide +kernel,
    by decide +kernel, by decide +kernel, by decide +kernel⟩

theorem wit_ComparisonEventsComplete_6 :
    ∃ (ym yc : List Word) (i : Image) (s : State), alive s = true ∧ s.safety.goldenOut = some ym ∧ s.safety.goldenChk = some
      yc ∧ s.image = some i ∧ firmware s = true :=
  ⟨[], [], anImage,
    { State.reset with image := some anImage, safety := { Safety.init with goldenOut := some [], goldenChk := some [] } },
    by decide +kernel, by decide +kernel, by decide +kernel, by decide +kernel, by decide +kernel⟩

theorem wit_ComparisonEventsComplete_7 :
    ∃ (s : State), alive s = true ∧ firmware s = true ∧ s.harebell.booted = true ∧ inDrowse s = false ∧ inHold s = false ∧
      bitAt (regWord s Reg.SAFE_CAUSES) 6 = false ∧ s.safety.goldenBase + 2 * goldenMaxNs s ≤ s.time :=
  ⟨{ State.reset with time := 1000000000000, harebell := { Harebell.init with booted := true } }, by decide +kernel,
    by decide +kernel, by decide +kernel, by decide +kernel, by decide +kernel, by decide +kernel, by decide +kernel⟩

theorem wit_ComparisonEventsComplete_8 :
    ∃ (s u : State), alive s = true ∧ gateClose s s.safety.gatesDone ≤ s.ticks ∧ u = modSafety s (fun x =>
      { x with gatesDone := (s.ticks - gateClose s 0) / 256 + 1 }) :=
  ⟨{ State.reset with ticks := 12 }, _, by decide +kernel, by decide +kernel, rfl⟩

theorem wit_ComparisonEventsComplete_9 :
    ∃ (t : Nat) (s : State), alive s = true ∧ s.safety.frame = some t ∧ s.safety.ticked ≠ some t ∧ inDrowse s = false ∧
      firmware s = true :=
  ⟨5, { State.reset with safety := { Safety.init with frame := some 5 } }, by decide +kernel, by decide +kernel,
    by decide +kernel, by decide +kernel, by decide +kernel⟩

theorem wit_SafetyEventsComplete_1 :
    ∃ (s : State), alive s = true :=
  ⟨State.reset, by decide +kernel⟩

theorem wit_SafetyEventsComplete_2 :
    ∃ (t : Nat) (s : State), alive s = true ∧ s.safety.stopSince = some t ∧ t + fget s Reg.SAFE_CFG_STOP_DISC_MS * 1000000 ≤
      s.time :=
  ⟨0, { State.reset with time := 1000000000000, safety := { Safety.init with stopSince := some 0 } }, by decide +kernel,
    by decide +kernel, by decide +kernel⟩

theorem wit_SafetyEventsComplete_3 :
    ∃ (s : State), alive s = true ∧ s.harebell.booted = true ∧ bitAt (regWord s Reg.SAFE_CAUSES) 0xD = false ∧
      (s.safety.halted && fbit s Reg.SAFE_STATUS_BENCH) = false ∧ s.safety.served + 1000000 ≤ s.time :=
  ⟨{ State.reset with time := 1000000, harebell := { Harebell.init with booted := true } }, by decide +kernel,
    by decide +kernel, by decide +kernel, by decide +kernel, by decide +kernel⟩

theorem wit_SafetyEventsComplete_4 :
    ∃ (a b : Pattern) (x y : Nat) (s : State), alive s = true ∧ x = (if Pattern.code a = fget s Reg.SAFE_STATUS_OUT_A then 0
      else min (s.safety.missA + 1) 3) ∧ y = (if Pattern.code b = fget s Reg.SAFE_STATUS_OUT_B then 0 else min
      (s.safety.missB + 1) 3) :=
  ⟨.sto, .run, _, _, State.reset, by decide +kernel, rfl, rfl⟩

theorem wit_SafetyEventsComplete_5 :
    ∃ (s : State), alive s = true :=
  ⟨State.reset, by decide +kernel⟩

theorem wit_SafetyEventsComplete_6 :
    ∃ (s : State), alive s = true :=
  ⟨State.reset, by decide +kernel⟩

theorem wit_SafetyEventsComplete_7 :
    ∃ (s : State), alive s = true :=
  ⟨State.reset, by decide +kernel⟩

theorem wit_SafetyEventsComplete_8 :
    ∃ (s : State), alive s = true ∧ s.safety.halted = false :=
  ⟨State.reset, by decide +kernel, by decide +kernel⟩

theorem wit_SafetyEventsComplete_9 :
    ∃ (s : State), alive s = true ∧ firmware s = true ∧ inSafe s = true ∧ safeE s + lastKnot s ≤ s.time ∧
      s.safety.trajRecs.all (loopSettled s) = true :=
  ⟨withFields { State.reset with time := 1000000000000 } [(Reg.SAFE_STATUS_LATCH_A, 1)], by decide +kernel,
    by decide +kernel, by decide +kernel, by decide +kernel, by decide +kernel⟩

theorem wit_SafetyEventsComplete_10 :
    ∃ (s : State), alive s = true ∧ fget s Reg.SAFE_STATUS_STATE = 2 ∧ safeE s + fget s Reg.SAFE_CFG_TIMEOUT_MS * 1000000 ≤
      s.time :=
  ⟨withFields { State.reset with time := 1000000000000 } [(Reg.SAFE_STATUS_STATE, 2)], by decide +kernel, by decide +kernel,
    by decide +kernel⟩

theorem wit_SafetyEventsComplete_11 :
    ∃ (t : Nat) (s : State), alive s = true ∧ s.safety.injectAt = some t ∧ 168 + 24 * s.safety.proofSaid ≤ proofHours s t :=
  ⟨0, { State.reset with ticks := 168 * 1800000000000, safety := { Safety.init with injectAt := some 0 } },
    by decide +kernel, by decide +kernel, by decide +kernel⟩

theorem wit_SafetyEventsComplete_12 :
    ∃ (s : State), alive s = true :=
  ⟨State.reset, by decide +kernel⟩

theorem wit_JoinRowsComplete_1 :
    ∃ (q n a : Nat) (l : List Nat) (c : QCmd) (s u : State), Started s q n 0x0A00 c ∧ s.links.join = none ∧ c.engaged =
      false ∧ c.length = 1 ∧ c.reservedZero [] = true ∧ otherMembers s = [] ∧ u = modLinks (wakePorts s) (fun l =>
      { l with noAuto := false }) ∧ chooseArbiter u (fun m => l.getD m (2 ^ m)) = some a :=
  ⟨0, 0, 1, [2, 3, 4, 8], aCmd 0x0A00 1 [], withFields (runs 0x0A00 1 []) [(Reg.LINK_PORT_STATE_STATE 0, 3)], _,
    ⟨by decide +kernel, by decide +kernel, by decide +kernel⟩, by decide +kernel, by decide +kernel, by decide +kernel,
    by decide +kernel, by decide +kernel, rfl, by decide +kernel⟩

theorem wit_JoinRowsComplete_2 :
    ∃ (t a : Nat) (b : Bool) (s : State), s.links.join = some ⟨none, t, a, b⟩ :=
  ⟨0, 1, false, { State.reset with links := { Links.init with join := some ⟨none, 0, 1, false⟩ } }, by decide +kernel⟩

theorem wit_JoinRowsComplete_3 :
    ∃ (q n : Nat) (j : Join) (c : QCmd) (s : State), Started s q n 0x0A00 c ∧ c.engaged = true ∧ s.links.join = some j ∧
      j.cmd = some (q, n) :=
  ⟨0, 0, ⟨some (0, 0), 0, 1, false⟩, { aCmd 0x0A00 1 [] with engaged := true },
    { withCmd State.reset 0 { aCmd 0x0A00 1 [] with engaged := true } with links := { Links.init with join := some ⟨some (0, 0), 0, 1, false⟩ } },
    ⟨by decide +kernel, by decide +kernel, by decide +kernel⟩, by decide +kernel, by decide +kernel, by decide +kernel⟩

theorem wit_JoinRowsComplete_4 :
    ∃ (q n : Nat) (c : QCmd) (s : State), Started s q n 0x0A01 c ∧ c.length = 1 ∧ c.reservedZero [] = true ∧ otherMembers s
      = [] :=
  ⟨0, 0, aCmd 0x0A01 1 [], runs 0x0A01 1 [], ⟨by decide +kernel, by decide +kernel, by decide +kernel⟩, by decide +kernel,
    by decide +kernel, by decide +kernel⟩

theorem wit_JoinRowsComplete_5 :
    ∃ (q n : Nat) (c : QCmd) (s : State), Started s q n 0x0A01 c ∧ c.length = 1 ∧ c.reservedZero [] = true ∧ otherMembers s
      ≠ [] :=
  ⟨0, 0, aCmd 0x0A01 1 [], withFields (runs 0x0A01 1 []) [(Reg.GLB_MODNUM_JOB_MASK, 9)],
    ⟨by decide +kernel, by decide +kernel, by decide +kernel⟩, by decide +kernel, by decide +kernel, by decide +kernel⟩

theorem wit_JoinRowsComplete_6 :
    ∃ (q n p : Nat) (c : QCmd) (s : State), Started s q n 0x0A02 c ∧ c.engaged = false ∧ c.length = 1 ∧ c.reservedZero [(16,
      1)] = true ∧ p = c.field 16 1 ∧ p ≤ 2 ∧ linkState s p ≠ 5 :=
  ⟨0, 0, 2, aCmd 0x0A02 1 [(16, 1, 2)], runs 0x0A02 1 [(16, 1, 2)],
    ⟨by decide +kernel, by decide +kernel, by decide +kernel⟩, by decide +kernel, by decide +kernel, by decide +kernel,
    by decide +kernel, by decide +kernel, by decide +kernel⟩

theorem wit_JoinRowsComplete_7 :
    ∃ (q n : Nat) (c : QCmd) (s t : State), Started s q n 0x0A03 c ∧ c.length = 1 ∧ c.reservedZero [(24, 8)] = true ∧
      opAligned q (c.field 24 8) 64 = true ∧ opWrite s q (c.field 24 8) ((List.range 112).flatMap (fun i => leBytes 4
      (regWord s (Reg.LINK_STATUS + 4 * i)))) = .ok t :=
  ⟨0, 0, aCmd 0x0A03 1 [(24, 8, 0x500000)], runs 0x0A03 1 [(24, 8, 0x500000)], _,
    ⟨by decide +kernel, by decide +kernel, by decide +kernel⟩, by decide +kernel, by decide +kernel, by decide +kernel,
    ok_got (by decide +kernel)⟩

theorem wit_JoinRowsComplete_8 :
    ∃ (p : Nat) (r : JoinRequest) (s : State), alive s = true ∧ p < 3 ∧ linkState s p = 3 ∧ r.module_ = facing s p ∧ fbit s
      Reg.QMGR_STATUS_ACCEPTING = true :=
  ⟨2, ⟨3, 9, 0, 0, List.replicate 32 0, 0, true, 0, 1, []⟩,
    withFields State.reset [(Reg.LINK_PORT_STATE_STATE 2, 3), (Reg.QMGR_STATUS_ACCEPTING, 1)], by decide +kernel,
    by decide +kernel, by decide +kernel, by decide +kernel, by decide +kernel⟩

theorem wit_JoinRowsComplete_9 :
    ∃ (p m k new : Nat) (s : State), alive s = true ∧ p < 3 ∧ m < 4 ∧ linkState s p = 3 ∧ m = modnum s ∧ s.links.join.isSome
      = true ∧ new = (fget s Reg.GLB_MODNUM_JOB_MASK ||| k % 16) :=
  ⟨2, 0, 9, 9,
    withFields { State.reset with links := { Links.init with join := some ⟨none, 0, 3, false⟩ } } [(Reg.LINK_PORT_STATE_STATE 2, 3), (Reg.GLB_MODNUM_JOB_MASK, 1)],
    by decide +kernel, by decide +kernel, by decide +kernel, by decide +kernel, by decide +kernel, by decide +kernel,
    by decide +kernel⟩

theorem wit_JoinRowsComplete_10 :
    ∃ (p m k new : Nat) (s : State), alive s = true ∧ p < 3 ∧ m < 4 ∧ linkState s p = 3 ∧ m ≠ modnum s ∧ new = (fget s
      Reg.GLB_MODNUM_JOB_MASK ||| k % 16) :=
  ⟨2, 3, 9, 9, withFields State.reset [(Reg.LINK_PORT_STATE_STATE 2, 3), (Reg.GLB_MODNUM_JOB_MASK, 1)], by decide +kernel,
    by decide +kernel, by decide +kernel, by decide +kernel, by decide +kernel, by decide +kernel⟩

theorem wit_JoinRowsComplete_11 :
    ∃ (j : Join) (s : State), alive s = true ∧ s.links.join = some j ∧ j.committed = false ∧ j.at_ + 100000000 ≤ s.time :=
  ⟨⟨none, 0, 3, false⟩,
    { State.reset with time := 100000000, links := { Links.init with join := some ⟨none, 0, 3, false⟩ } },
    by decide +kernel, by decide +kernel, by decide +kernel, by decide +kernel⟩

theorem wit_JoinRowsComplete_12 :
    ∃ (p m : Nat) (s : State), alive s = true ∧ p < 3 ∧ linkState s p = 3 ∧ m ≠ modnum s ∧ inJob s m = true :=
  ⟨2, 3, withFields State.reset [(Reg.LINK_PORT_STATE_STATE 2, 3), (Reg.GLB_MODNUM_JOB_MASK, 9)], by decide +kernel,
    by decide +kernel, by decide +kernel, by decide +kernel, by decide +kernel⟩

theorem wit_JoinRowsComplete_13 :
    ∃ (p m : Nat) (s : State), alive s = true ∧ p < 3 ∧ linkState s p = 3 ∧ m = modnum s :=
  ⟨2, 0, withFields State.reset [(Reg.LINK_PORT_STATE_STATE 2, 3)], by decide +kernel, by decide +kernel, by decide +kernel,
    by decide +kernel⟩

theorem wit_JoinRowsComplete_14 :
    ∃ (p m : Nat) (s : State), alive s = true ∧ p < 3 ∧ linkState s p = 3 ∧ m ≠ modnum s ∧ inJob s m = true :=
  ⟨2, 3, withFields State.reset [(Reg.LINK_PORT_STATE_STATE 2, 3), (Reg.GLB_MODNUM_JOB_MASK, 9)], by decide +kernel,
    by decide +kernel, by decide +kernel, by decide +kernel, by decide +kernel⟩

theorem wit_LinkEventsComplete_1 :
    ∃ (p : Nat) (s : State), alive s = true ∧ p < 3 ∧ linkState s p = 1 ∧ phaseUp s 5 = true :=
  ⟨2, withFields State.reset [(Reg.LINK_PORT_STATE_STATE 2, 1)], by decide +kernel, by decide +kernel, by decide +kernel,
    by decide +kernel⟩

theorem wit_LinkEventsComplete_2 :
    ∃ (p m : Nat) (s : State), alive s = true ∧ p < 3 ∧ linkState s p = 2 ∧ m = facing s p :=
  ⟨2, 3, withFields State.reset [(Reg.LINK_PORT_STATE_STATE 2, 2)], by decide +kernel, by decide +kernel, by decide +kernel,
    by decide +kernel⟩

theorem wit_LinkEventsComplete_3 :
    ∃ (p : Nat) (s : State), alive s = true ∧ p < 3 ∧ linkState s p = 2 :=
  ⟨2, withFields State.reset [(Reg.LINK_PORT_STATE_STATE 2, 2)], by decide +kernel, by decide +kernel, by decide +kernel⟩

theorem wit_LinkEventsComplete_4 :
    ∃ (p : Nat) (l : List Nat) (s : State), alive s = true ∧ p < 3 ∧ linkState s p = 3 ∧ l = (lport s p).replays.filter (fun
      t => decide (s.time < t + 1000000)) :=
  ⟨2, [], withFields State.reset [(Reg.LINK_PORT_STATE_STATE 2, 3)], by decide +kernel, by decide +kernel,
    by decide +kernel, by decide +kernel⟩

theorem wit_LinkEventsComplete_5 :
    ∃ (p : Nat) (s : State), alive s = true ∧ p < 3 ∧ linkState s p = 3 ∧ fget s Reg.LINK_CFG_REPLAY_LIMIT < ((lport s
      p).replays.filter (fun t => decide (s.time < t + 1000000))).length :=
  ⟨2,
    withFields { State.reset with links := { Links.init with ports := [(2, { LPort.init with replays := List.replicate 256 0 })] } } [(Reg.LINK_PORT_STATE_STATE 2, 3), (Reg.LINK_CFG_REPLAY_LIMIT, 255)],
    by decide +kernel, by decide +kernel, by decide +kernel, by decide +kernel⟩

theorem wit_LinkEventsComplete_6 :
    ∃ (p : Nat) (s : State), alive s = true ∧ p < 3 ∧ linkState s p = 3 :=
  ⟨2, withFields State.reset [(Reg.LINK_PORT_STATE_STATE 2, 3)], by decide +kernel, by decide +kernel, by decide +kernel⟩

theorem wit_LinkEventsComplete_7 :
    ∃ (p ns : Nat) (s : State), alive s = true ∧ p < 3 ∧ linkState s p = 4 ∧ ns = s.time - (lport s p).retrainAt :=
  ⟨2, 0, withFields State.reset [(Reg.LINK_PORT_STATE_STATE 2, 4)], by decide +kernel, by decide +kernel, by decide +kernel,
    by decide +kernel⟩

theorem wit_LinkEventsComplete_8 :
    ∃ (p : Nat) (s : State), alive s = true ∧ p < 3 ∧ linkState s p = 4 ∧ fget s Reg.LINK_CFG_RETRAIN_MS * 1000000 ≤ s.time
      - (lport s p).retrainAt :=
  ⟨2, withFields { State.reset with time := 1000000000000 } [(Reg.LINK_PORT_STATE_STATE 2, 4)], by decide +kernel,
    by decide +kernel, by decide +kernel, by decide +kernel⟩

theorem wit_LinkEventsComplete_9 :
    ∃ (p : Nat) (s : State), alive s = true ∧ p < 3 ∧ (linkState s p = 3 ∨ linkState s p = 4) :=
  ⟨2, withFields State.reset [(Reg.LINK_PORT_STATE_STATE 2, 4)], by decide +kernel, by decide +kernel, by decide +kernel⟩

theorem wit_LinkEventsComplete_10 :
    ∃ (p : Nat) (s : State), alive s = true ∧ p < 3 ∧ linkState s p = 5 ∧ (lport s p).failedAt + 1000000 ≤ s.time :=
  ⟨2, withFields { State.reset with time := 1000000 } [(Reg.LINK_PORT_STATE_STATE 2, 5)], by decide +kernel,
    by decide +kernel, by decide +kernel, by decide +kernel⟩

theorem wit_LinkEventsComplete_11 :
    ∃ (r : RemoteReq) (s : State), alive s = true ∧ r.peer < 4 ∧ r.peer ≠ modnum s ∧ r.fence = none ∧ linkState s (portTo s
      r.peer) = 3 :=
  ⟨⟨3, false, 0x3FFFFFFFFF, 1, [], none⟩, withFields State.reset [(Reg.LINK_PORT_STATE_STATE 2, 3)], by decide +kernel,
    by decide +kernel, by decide +kernel, by decide +kernel, by decide +kernel⟩

theorem wit_LinkEventsComplete_12 :
    ∃ (r : RemoteReq) (q own : Nat) (m : Bool) (s : State), alive s = true ∧ r.peer < 4 ∧ r.peer ≠ modnum s ∧ linkState s
      (portTo s r.peer) = 3 ∧ inJob s r.peer = true ∧ fbit s Reg.LINK_STATUS_LEAVING = false ∧ r.fence = some (q, m, own) :=
  ⟨⟨3, false, 0, 0, [], some (16, false, 17)⟩, 16, 17, false,
    withFields State.reset [(Reg.LINK_PORT_STATE_STATE 2, 3), (Reg.GLB_MODNUM_JOB_MASK, 9)], by decide +kernel,
    by decide +kernel, by decide +kernel, by decide +kernel, by decide +kernel, by decide +kernel, by decide +kernel⟩

theorem wit_IncrStaysInRange_1 :
    ∃ (s t : State), Sound s ∧ step s = .next t :=
  ⟨State.reset, _, sound_check _ (by decide +kernel), rfl⟩

theorem wit_IncrStaysInRange_2 :
    ∃ (q n : Nat) (c : QCmd) (s : State), Started s q n 0x0B00 c ∧ (c.field 16 8 < incrMin ∨ incrMax < c.field 16 8) :=
  ⟨0, 0, aCmd 0x0B00 1 [(16, 8, incrMax + 1)], runs 0x0B00 1 [(16, 8, incrMax + 1)],
    ⟨by decide +kernel, by decide +kernel, by decide +kernel⟩, by decide +kernel⟩

theorem wit_TimeRowsComplete_1 :
    ∃ (q n : Nat) (c : QCmd) (s : State), Started s q n 0x0B00 c ∧ c.length = 1 ∧ c.reservedZero [(16, 8)] = true ∧ incrMin
      ≤ c.field 16 8 ∧ c.field 16 8 ≤ incrMax ∧ fget s Reg.TIME_CFG_MODE ≠ 1 :=
  ⟨0, 0, aCmd 0x0B00 1 [(16, 8, incrMax)], withFields (runs 0x0B00 1 [(16, 8, incrMax)]) [(Reg.TIME_CFG_MODE, 0)],
    ⟨by decide +kernel, by decide +kernel, by decide +kernel⟩, by decide +kernel, by decide +kernel, by decide +kernel,
    by decide +kernel, by decide +kernel⟩

theorem wit_TimeRowsComplete_2 :
    ∃ (q n : Nat) (c : QCmd) (s : State), Started s q n 0x0B01 c ∧ c.field 16 2 + c.length ≤ 64 ∧ c.reservedZero [(16, 3)] =
      true ∧ c.field 18 1 = 1 :=
  ⟨0, 0, aCmd 0x0B01 1 [(16, 2, 63), (18, 1, 1)], runs 0x0B01 1 [(16, 2, 63), (18, 1, 1)],
    ⟨by decide +kernel, by decide +kernel, by decide +kernel⟩, by decide +kernel, by decide +kernel, by decide +kernel⟩

theorem wit_TimeRowsComplete_3 :
    ∃ (q n : Nat) (c : QCmd) (s : State), Started s q n 0x0B01 c ∧ c.field 16 2 + c.length ≤ 64 ∧ c.reservedZero [(16, 3)] =
      true ∧ c.field 18 1 = 0 ∧ ((List.range c.length).map (· + c.field 16 2)).find? (fun i => trigArmed s i && trigNamed s
      i) = none :=
  ⟨0, 0, aCmd 0x0B01 64 [], runs 0x0B01 64 [], ⟨by decide +kernel, by decide +kernel, by decide +kernel⟩, by decide +kernel,
    by decide +kernel, by decide +kernel, by decide +kernel⟩

theorem wit_TimeRowsComplete_4 :
    ∃ (q n : Nat) (c : QCmd) (s t : State), Started s q n 0x0B02 c ∧ c.length = 1 ∧ c.reservedZero [(24, 8)] = true ∧
      opAligned q (c.field 24 8) 64 = true ∧ opWrite s q (c.field 24 8) (timeBlock s) = .ok t :=
  ⟨0, 0, aCmd 0x0B02 1 [(24, 8, 0x500000)], runs 0x0B02 1 [(24, 8, 0x500000)], _,
    ⟨by decide +kernel, by decide +kernel, by decide +kernel⟩, by decide +kernel, by decide +kernel, by decide +kernel,
    ok_got (by decide +kernel)⟩

theorem wit_TimeRowsComplete_5 :
    ∃ (d : Nat) (s : State), alive s = true ∧ phaseUp s 5 = true ∧ d < 2 ∧ fbit s (Reg.TIME_DOM_CFG_EN d) = true ∧ (dom s
      d).gm = true ∧ (dom s d).self_ = false :=
  ⟨1,
    withFields { State.reset with timeu := { TimeUnit.init with domains := [(1, { Domain.init with gm := true })] } } [(Reg.TIME_DOM_CFG_EN 1, 1)],
    by decide +kernel, by decide +kernel, by decide +kernel, by decide +kernel, by decide +kernel, by decide +kernel⟩

theorem wit_TimeRowsComplete_6 :
    ∃ (d : Nat) (s : State), alive s = true ∧ domValid s d = true ∧ (dom s d).self_ = false ∧ (dom s d).lastSync + 3 *
      syncInterval s d ≤ s.time :=
  ⟨1, withFields { State.reset with time := 1000000000000 } [(domField 1, 1)], by decide +kernel, by decide +kernel,
    by decide +kernel, by decide +kernel⟩

theorem wit_TimeRowsComplete_7 :
    ∃ (s : State), alive s = true ∧ timeSource s = 3 ∧ holdoverOver s = true :=
  ⟨withFields { State.reset with time := 1000000000000, timeu := { TimeUnit.init with holdAt := some 0 } } [(Reg.TIME_STATUS_SOURCE, 3)],
    by decide +kernel, by decide +kernel, by decide +kernel⟩

theorem wit_TimeRowsComplete_8 :
    ∃ (s : State), alive s = true ∧ timeSource s = 2 ∧ domValid s 0 = true ∧ (dom s 0).validAt + fget s
      Reg.TIME_CFG_RETURN_100MS * 100000000 ≤ s.time :=
  ⟨withFields { State.reset with time := 1000000000000 } [(Reg.TIME_STATUS_SOURCE, 2), (domField 0, 1)], by decide +kernel,
    by decide +kernel, by decide +kernel, by decide +kernel⟩

theorem wit_TimeRowsComplete_9 :
    ∃ (s u : State), alive s = true ∧ u = advanceDomAt 1 (advanceDomAt 0 s) :=
  ⟨State.reset, _, by decide +kernel, rfl⟩

theorem wit_TimeRowsComplete_10 :
    ∃ (d : Nat) (best : Option Nat) (s : State), alive s = true ∧ d < 2 ∧ fbit s (Reg.TIME_DOM_CFG_EN d) = true ∧ bmcaAllows
      (fget s (Reg.TIME_DOM_CFG_PRIORITY1 d)) true best = true :=
  ⟨1, none, withFields State.reset [(Reg.TIME_DOM_CFG_EN 1, 1), (Reg.TIME_DOM_CFG_PRIORITY1 1, 254)], by decide +kernel,
    by decide +kernel, by decide +kernel, by decide +kernel⟩

theorem wit_TimeRowsComplete_11 :
    ∃ (d : Nat) (best : Option Nat) (s : State), alive s = true ∧ d < 2 ∧ fbit s (Reg.TIME_DOM_CFG_EN d) = true ∧ bmcaAllows
      (fget s (Reg.TIME_DOM_CFG_PRIORITY1 d)) false best = true :=
  ⟨1, some 0, withFields State.reset [(Reg.TIME_DOM_CFG_EN 1, 1)], by decide +kernel, by decide +kernel, by decide +kernel,
    by decide +kernel⟩

theorem wit_TimeRowsComplete_12 :
    ∃ (d : Nat) (s : State), alive s = true ∧ phaseUp s 5 = true ∧ domValid s d = true ∧ (dom s d).self_ = true ∧ (∀ t :
      Nat, (dom s d).sentAt = some t → t + syncInterval s d ≤ s.time) :=
  ⟨1,
    withFields { State.reset with timeu := { TimeUnit.init with domains := [(1, { Domain.init with self_ := true })] } } [(domField 1, 1)],
    by decide +kernel, by decide +kernel, by decide +kernel, by decide +kernel,
    (fun t h => by cases (show none = some t from h))⟩

theorem wit_ManagementEventsComplete_1 :
    ∃ (e : Nat) (f : MgmtFrame) (s : State), alive s = true ∧ frameTaken s e f = true ∧ queueOn s e = true ∧ payloadSound
      f.payload = true ∧ fieldAt f.payload 1 1 = 1 :=
  ⟨0, aFrame 1 0 1, mgmtUp, by decide +kernel, by decide +kernel, by decide +kernel, by decide +kernel, by decide +kernel⟩

theorem wit_ManagementEventsComplete_2 :
    ∃ (e : Nat) (f : MgmtFrame) (s : State), alive s = true ∧ frameTaken s e f = true ∧ queueOn s e = true ∧ payloadSound
      f.payload = true ∧ fieldAt f.payload 1 1 = 4 :=
  ⟨1, aFrame 4 1 1, mgmtUp, by decide +kernel, by decide +kernel, by decide +kernel, by decide +kernel, by decide +kernel⟩

theorem wit_ManagementEventsComplete_3 :
    ∃ (e : Nat) (f : MgmtFrame) (s : State), frameTaken s e f = true ∧ payloadSound f.payload = false :=
  ⟨1, aFrame 2 1 1, mgmtUp, by decide +kernel, by decide +kernel⟩

theorem wit_ManagementEventsComplete_4 :
    ∃ (e k : Nat) (s : State), e < 2 ∧ queueOn s e = true ∧ phaseUp s 5 = true ∧ k = (s32diff (queue s e).cqTail (mgmt s
      e).unsent).toNat ∧ k ≠ 0 ∧ (16 ≤ k ∨ (mgmt s e).notify ≠ [] ∨ (mgmt s e).postedAt + 100000 ≤ s.time) :=
  ⟨1, _, { mgmtUp with time := 100000, queues := [(1, { Queue.init with cqTail := 1 })] }, by decide +kernel,
    by decide +kernel, by decide +kernel, rfl, by decide +kernel, by decide +kernel⟩

theorem wit_ManagementEventsComplete_5 :
    ∃ (e h k : Nat) (s : State), e < 2 ∧ queueOn s e = true ∧ phaseUp s 5 = true ∧ h = memNat s (cqBase s e + 8) 4 ∧ k =
      (s32diff (mgmt s e).unsent h).toNat ∧ k ≠ 0 ∧ (mgmt s e).sentAt + 10000000 ≤ s.time :=
  ⟨1, _, _, { mgmtUp with time := 10000000, mgmt := [(1, { Mgmt.init with unsent := 1 })] }, by decide +kernel,
    by decide +kernel, by decide +kernel, rfl, rfl, by decide +kernel, by decide +kernel⟩

theorem wit_ManagementEventsComplete_6 :
    ∃ (e : Nat) (s : State), e < 2 ∧ phaseUp s 5 = true :=
  ⟨1, State.reset, by decide +kernel, by decide +kernel⟩

theorem wit_SensorRowsComplete_1 :
    ∃ (q n : Nat) (c : QCmd) (s : State), Started s q n 0x0500 c ∧ sensorParams q c false = true ∧ c.field 16 2 + c.length ≤
      128 ∧ (cmdIndexes c).all (fun i => (stream s (c.field 16 2 + i)).used) = true :=
  ⟨0, 0, aCmd 0x0500 1 [(16, 2, 127)], withCmd sensing 0 (aCmd 0x0500 1 [(16, 2, 127)]),
    ⟨by decide +kernel, by decide +kernel, by decide +kernel⟩, by decide +kernel, by decide +kernel, by decide +kernel⟩

theorem wit_SensorRowsComplete_2 :
    ∃ (q n : Nat) (c : QCmd) (s : State), Started s q n 0x0501 c ∧ sensorParams q c false = true ∧ c.field 16 2 + c.length ≤
      128 ∧ (cmdIndexes c).all (fun i => (stream s (c.field 16 2 + i)).used) = true :=
  ⟨0, 0, aCmd 0x0501 1 [(16, 2, 127)], withCmd sensing 0 (aCmd 0x0501 1 [(16, 2, 127)]),
    ⟨by decide +kernel, by decide +kernel, by decide +kernel⟩, by decide +kernel, by decide +kernel, by decide +kernel⟩

theorem wit_SensorRowsComplete_3 :
    ∃ (q n : Nat) (c : QCmd) (x : Stream) (bs : List Byte) (s t : State), Started s q n 0x0502 c ∧ sensorParams q c true =
      true ∧ c.field 16 2 < 128 ∧ x = stream s (c.field 16 2) ∧ x.used = true ∧ c.length ≤ x.slots ∧ readPieces s
      ((cmdIndexes c).map (fun i => (x.slotAddr (x.seq + x.slots + 1 + i - c.length), x.recBytes))) = .ok bs ∧ opWrite s q
      (c.field 24 8) bs = .ok t :=
  ⟨0, 0, aCmd 0x0502 4 [(16, 2, 127), (24, 8, 0x500000)], stream sensing 127, List.replicate 256 0,
    withCmd sensing 0 (aCmd 0x0502 4 [(16, 2, 127), (24, 8, 0x500000)]), _,
    ⟨by decide +kernel, by decide +kernel, by decide +kernel⟩, by decide +kernel, by decide +kernel, by decide +kernel,
    by decide +kernel, by decide +kernel, ok_of (by decide +kernel), ok_got (by decide +kernel)⟩

theorem wit_SensorRowsComplete_4 :
    ∃ (q n : Nat) (c : QCmd) (bs : List Byte) (s : State), Started s q n 0x0503 c ∧ sensorParams q c true = true ∧ c.field
      16 2 = 0 ∧ opRead s q (c.field 24 8) (48 * c.length) = .ok bs ∧ (chunks c.length 48 bs).all (observationOk s) = true
      :=
  ⟨0, 0, aCmd 0x0503 1 [(24, 8, 0x500000)], _,
    withCmd (memWrite sensing 0x500000 anObservation) 0 (aCmd 0x0503 1 [(24, 8, 0x500000)]),
    ⟨by decide +kernel, by decide +kernel, by decide +kernel⟩, by decide +kernel, by decide +kernel,
    ok_list (by decide +kernel), by decide +kernel⟩

theorem wit_SensorRowsComplete_5 :
    ∃ (q n : Nat) (c : QCmd) (bs : List Byte) (s : State), Started s q n 0x0504 c ∧ sensorParams q c true = true ∧ c.field
      16 2 + c.length ≤ 32 ∧ opRead s q (c.field 24 8) (64 * c.length) = .ok bs ∧ (chunks c.length 64 bs).all slotOk = true
      :=
  ⟨0, 0, aCmd 0x0504 1 [(16, 2, 31), (24, 8, 0x500000)], _,
    withCmd (memWrite sensing 0x500000 aSlot) 0 (aCmd 0x0504 1 [(16, 2, 31), (24, 8, 0x500000)]),
    ⟨by decide +kernel, by decide +kernel, by decide +kernel⟩, by decide +kernel, by decide +kernel,
    ok_list (by decide +kernel), by decide +kernel⟩

theorem wit_SensorRowsComplete_6 :
    ∃ (q n : Nat) (c : QCmd) (s t : State), Started s q n 0x0505 c ∧ sensorParams q c true = true ∧ c.field 16 2 + c.length
      ≤ 32 ∧ opWrite s q (c.field 24 8) (leBytes 4 (fget s Reg.SNS_CAL_EPOCH_EPOCH) ++ List.replicate 12 0 ++ (cmdIndexes
      c).flatMap (fun i => (extr s (c.field 16 2 + i)).record)) = .ok t :=
  ⟨0, 0, aCmd 0x0505 32 [(24, 8, 0x500000)], runs 0x0505 32 [(24, 8, 0x500000)], _,
    ⟨by decide +kernel, by decide +kernel, by decide +kernel⟩, by decide +kernel, by decide +kernel,
    ok_got (by decide +kernel)⟩

theorem wit_SensorRowsComplete_7 :
    ∃ (k : Nat) (s : State), alive s = true ∧ k < 128 ∧ streamRun s k = true ∧ (stream s k).used = true ∧ phaseUp s 5 = true
      ∧ (stream s k).field 0 1 ≠ 5 :=
  ⟨127, withFields sensing [(Reg.SNS_STREAM_STATE_RUN 127, 1)], by decide +kernel, by decide +kernel, by decide +kernel,
    by decide +kernel, by decide +kernel, by decide +kernel⟩

theorem wit_SensorRowsComplete_8 :
    ∃ (k : Nat) (s : State), alive s = true ∧ k < 128 ∧ streamRun s k = true ∧ (stream s k).used = true ∧ phaseUp s 5 = true
      ∧ (stream s k).field 0 1 = 5 :=
  ⟨127, withFields ringSensing [(Reg.SNS_STREAM_STATE_RUN 127, 1)], by decide +kernel, by decide +kernel, by decide +kernel,
    by decide +kernel, by decide +kernel, by decide +kernel⟩

theorem wit_SensorRowsComplete_9 :
    ∃ (g : Nat) (s : State), alive s = true ∧ g < 8 ∧ phaseUp s 5 = true :=
  ⟨7, State.reset, by decide +kernel, by decide +kernel, by decide +kernel⟩

theorem wit_SensorRowsComplete_10 :
    ∃ (g k : Nat) (r : FuseOpen) (s : State), alive s = true ∧ g < 8 ∧ (group s g).open_ = some r ∧ reached s (r.t + ((group
      s g).release - 1000)) = true ∧ k = surelyBuilt ((group s g).release - 1000) r.entries ∧ k < r.entries.length :=
  ⟨7, 0, ⟨0, 0, 0, [⟨[], 0, 1⟩]⟩,
    { State.reset with time := 1000000, sensors := { Sensors.init with groups := [(7, { Group.init with open_ := some ⟨0, 0, 0, [⟨[], 0, 1⟩]⟩ })] } },
    by decide +kernel, by decide +kernel, by decide +kernel, by decide +kernel, by decide +kernel, by decide +kernel⟩

theorem wit_ControlCommandsComplete_1 :
    ∃ (q n : Nat) (c : QCmd) (s : State), Started s q n 0x0C00 c ∧ c.engaged = false ∧ ctlReady q s c false ∧ c.length ≠ 0
      :=
  ⟨0, 0, aCmd 0x0C00 1 [(16, 2, 255)], runs 0x0C00 1 [(16, 2, 255)],
    ⟨by decide +kernel, by decide +kernel, by decide +kernel⟩, by decide +kernel, (by unfold ctlReady; decide +kernel),
    by decide +kernel⟩

theorem wit_ControlCommandsComplete_2 :
    ∃ (q n : Nat) (c : QCmd) (s : State), Started s q n 0x0C01 c ∧ ctlReady q s c false :=
  ⟨0, 0, aCmd 0x0C01 256 [], runs 0x0C01 256 [], ⟨by decide +kernel, by decide +kernel, by decide +kernel⟩,
    (by unfold ctlReady; decide +kernel)⟩

theorem wit_ControlCommandsComplete_3 :
    ∃ (q n : Nat) (c : QCmd) (bs : List Byte) (s : State), Started s q n 0x0C02 c ∧ c.engaged = false ∧ ctlReady q s c true
      ∧ opRead s q (c.field 24 8) (128 * c.length) = .ok bs ∧ ((ctlLoops c).zip ((chunks c.length 128 bs).map (bytesToWords
      32))).all (fun r => coefValid r.2) = true :=
  ⟨0, 0, aCmd 0x0C02 1 [(16, 2, 255), (24, 8, 0x500000)], _,
    withCmd (memWrite State.reset 0x50002C [0, 0, 0x80, 0x3F]) 0 (aCmd 0x0C02 1 [(16, 2, 255), (24, 8, 0x500000)]),
    ⟨by decide +kernel, by decide +kernel, by decide +kernel⟩, by decide +kernel, (by unfold ctlReady; decide +kernel),
    ok_list (by decide +kernel), by decide +kernel⟩

theorem wit_ControlCommandsComplete_4 :
    ∃ (q n : Nat) (c : QCmd) (l : List Nat) (s u : State), Started s q n 0x0C03 c ∧ c.engaged = false ∧ ctlReady q s c false
      ∧ u = forEach ((ctlLoops c).filter (fun l => decide ((loop s l).state = 0))) (fun l s => setLoop s l
      { loop s l with bank := !(loop s l).bank }) s ∧ l = (ctlLoops c).filter (fun l => decide ((loop s l).state ≠ 0)) :=
  ⟨0, 0, aCmd 0x0C03 1 [(16, 2, 255)], _, runs 0x0C03 1 [(16, 2, 255)], _,
    ⟨by decide +kernel, by decide +kernel, by decide +kernel⟩, by decide +kernel, (by unfold ctlReady; decide +kernel), rfl,
    rfl⟩

theorem wit_ControlCommandsComplete_5 :
    ∃ (q n : Nat) (c : QCmd) (bs : List Byte) (s u : State), Started s q n 0x0C04 c ∧ c.engaged = false ∧ ctlReady q s c
      true ∧ opRead s q (c.field 24 8) (4 * c.length) = .ok bs ∧ (ctlLoops c).find? (fun l => loopCommitted s l && decide
      ((loop s l).state ≠ 0)) = none ∧ u = forEach ((ctlLoops c).zip (bytesToWords c.length bs)) (fun (l, v) s => setLoop s
      l (if (loop s l).state = 0 then { loop s l with spIdle := v, sp := v, spPrev := v } else
      { loop s l with spIdle := v })) s :=
  ⟨0, 0, aCmd 0x0C04 1 [(16, 2, 255), (24, 8, 0x500000)], _, runs 0x0C04 1 [(16, 2, 255), (24, 8, 0x500000)], _,
    ⟨by decide +kernel, by decide +kernel, by decide +kernel⟩, by decide +kernel, (by unfold ctlReady; decide +kernel),
    ok_list (by decide +kernel), by decide +kernel, rfl⟩

theorem wit_ControlCommandsComplete_6 :
    ∃ (q n : Nat) (c : QCmd) (s : State), Started s q n 0x0C05 c ∧ c.engaged = false ∧ ctlReady q s c false ∧ c.length ≠ 0
      :=
  ⟨0, 0, aCmd 0x0C05 1 [(16, 2, 255)], runs 0x0C05 1 [(16, 2, 255)],
    ⟨by decide +kernel, by decide +kernel, by decide +kernel⟩, by decide +kernel, (by unfold ctlReady; decide +kernel),
    by decide +kernel⟩

theorem wit_ControlCommandsComplete_7 :
    ∃ (q n : Nat) (c : QCmd) (s t : State), Started s q n 0x0C06 c ∧ ctlReady q s c true ∧ opWrite s q (c.field 24 8)
      ((ctlLoops c).flatMap (fun l => (List.range 16).flatMap (fun i => leBytes 4 (loopWord s l i)))) = .ok t :=
  ⟨0, 0, aCmd 0x0C06 1 [(16, 2, 255), (24, 8, 0x500000)], runs 0x0C06 1 [(16, 2, 255), (24, 8, 0x500000)], _,
    ⟨by decide +kernel, by decide +kernel, by decide +kernel⟩, (by unfold ctlReady; decide +kernel),
    ok_got (by decide +kernel)⟩

theorem wit_RingRowsComplete_1 :
    ∃ (q n : Nat) (c : QCmd) (s u : State), Started s q n 0x0C10 c ∧ c.engaged = false ∧ c.reservedZero [(16, 1)] = true ∧
      c.field 16 1 + c.length ≤ 8 ∧ (u = forEach (((List.range c.length).map (· + c.field 16 1)).filter (fun p => decide
      ((portState s p = 1 ∨ portState s p = 4) ∧ 0 < portNodes s p))) startDiscovery s) :=
  ⟨0, 0, aCmd 0x0C10 1 [(16, 1, 7)], runs 0x0C10 1 [(16, 1, 7)], _,
    ⟨by decide +kernel, by decide +kernel, by decide +kernel⟩, by decide +kernel, by decide +kernel, by decide +kernel, rfl⟩

theorem wit_RingRowsComplete_2 :
    ∃ (q n : Nat) (c : QCmd) (s : State), Started s q n 0x0C11 c ∧ c.engaged = false ∧ c.reservedZero [(16, 1)] = true ∧
      c.field 16 1 + c.length ≤ 8 ∧ inSafe s = false :=
  ⟨0, 0, aCmd 0x0C11 8 [], runs 0x0C11 8 [], ⟨by decide +kernel, by decide +kernel, by decide +kernel⟩, by decide +kernel,
    by decide +kernel, by decide +kernel, by decide +kernel⟩

theorem wit_RingRowsComplete_3 :
    ∃ (q n : Nat) (c : QCmd) (bs : List Byte) (s : State), Started s q n 0x0C12 c ∧ c.reservedZero [(16, 3), (24, 8)] = true
      ∧ opAligned q (c.field 24 8) 64 = true ∧ c.field 16 1 < 8 ∧ c.field 17 1 < portNodes s (c.field 16 1) ∧ c.field 18 1 +
      c.length ≤ fget s (Reg.RING_NODE_LAYOUT_CMD_WORDS (c.field 16 1) (c.field 17 1)) ∧ inSafe s = false ∧ opRead s q
      (c.field 24 8) (4 * c.length) = .ok bs ∧ (∀ k l : Nat, k < c.length → l < 256 → loopCmdEn s l = true → loopCmdKey s l
      ≠ wordKey (c.field 16 1) (c.field 17 1) (c.field 18 1 + k)) :=
  ⟨0, 0, aCmd 0x0C12 1 [(16, 1, 7), (24, 8, 0x500000)], _, ringWords,
    ⟨by decide +kernel, by decide +kernel, by decide +kernel⟩, by decide +kernel, by decide +kernel, by decide +kernel,
    by decide +kernel, by decide +kernel, by decide +kernel, ok_list (by decide +kernel),
    (fun _ l _ hl h => absurd (h.symm.trans (ringWords_free l hl)) (by decide))⟩

theorem wit_RingRowsComplete_4 :
    ∃ (q n : Nat) (c : QCmd) (s t : State), Started s q n 0x0C13 c ∧ c.reservedZero [(16, 1), (24, 8)] = true ∧ opAligned q
      (c.field 24 8) 64 = true ∧ c.field 16 1 + c.length ≤ 8 ∧ opWrite s q (c.field 24 8) ((List.range c.length).flatMap
      (fun i => snapshotBytes s (c.field 16 1 + i))) = .ok t :=
  ⟨0, 0, aCmd 0x0C13 1 [(16, 1, 7), (24, 8, 0x500000)], runs 0x0C13 1 [(16, 1, 7), (24, 8, 0x500000)], _,
    ⟨by decide +kernel, by decide +kernel, by decide +kernel⟩, by decide +kernel, by decide +kernel, by decide +kernel,
    ok_got (by decide +kernel)⟩

theorem wit_RingRowsComplete_5 :
    ∃ (q n : Nat) (c : QCmd) (s : State), Started s q n 0x0C14 c ∧ c.reservedZero [(19, 1), (20, 2)] = true ∧ c.field 19 1 ≤
      1 ∧ c.field 20 2 + c.length ≤ 256 ∧ (inSafe s = false ∨ c.field 19 1 = 1) :=
  ⟨0, 0, aCmd 0x0C14 256 [], runs 0x0C14 256 [], ⟨by decide +kernel, by decide +kernel, by decide +kernel⟩,
    by decide +kernel, by decide +kernel, by decide +kernel, Or.inl (by decide +kernel)⟩

theorem wit_RingRowsComplete_6 :
    ∃ (q n : Nat) (c : QCmd) (s : State), Started s q n 0x0C15 c ∧ c.reservedZero [(20, 2)] = true ∧ c.field 20 2 + c.length
      ≤ 256 ∧ inSafe s = false :=
  ⟨0, 0, aCmd 0x0C15 256 [], runs 0x0C15 256 [], ⟨by decide +kernel, by decide +kernel, by decide +kernel⟩,
    by decide +kernel, by decide +kernel, by decide +kernel⟩

theorem wit_RingRowsComplete_7 :
    ∃ (p t : Nat) (s : State), ringsFed s = true ∧ p < 8 ∧ portCycles s p = true ∧ t = storeGet (fun _ => 0) s.timeu.next
      (fget s (Reg.RING_PORT_CFG_TRIGGER_ID p)) ∧ trigArmed s (fget s (Reg.RING_PORT_CFG_TRIGGER_ID p)) = true ∧ 0 ≤
      timeDiff s t ∧ timeDiff s t ≤ 10000 :=
  ⟨7, 10000,
    withFields { State.reset with timeu := { TimeUnit.init with next := [(0, 10000)] } } [(Reg.RING_PORT_CFG_NODES 7, 1), (Reg.RING_PORT_STATE_STATE 7, 3), (Reg.TIME_TRIG_STATE_ARMED 0, 1)],
    by decide +kernel, by decide +kernel, by decide +kernel, by decide +kernel, by decide +kernel, by decide +kernel,
    by decide +kernel⟩

theorem wit_RingRowsComplete_8 :
    ∃ (p : Nat) (f : Flight) (s : State), ringsFed s = true ∧ p < 8 ∧ (rport s p).line.find? (fun f => decide (f.lap0 =
      none)) = some f :=
  ⟨7, aFlight .cyclic, cycling, by decide +kernel, by decide +kernel, by decide +kernel⟩

theorem wit_RingRowsComplete_9 :
    ∃ (p : Nat) (f : Flight) (s : State), ringsFed s = true ∧ p < 8 ∧ (rport s p).line.head? = some f ∧ reached s (f.launch
      + roundNs s p + 2000) = true :=
  ⟨7, aFlight .cyclic, { cycling with time := 1000000000 }, by decide +kernel, by decide +kernel, by decide +kernel,
    by decide +kernel⟩

theorem wit_RingRowsComplete_10 :
    ∃ (p : Nat) (b up : Bool) (f : Field) (s : State), ringsFed s = true ∧ p < 8 ∧ portState s p ≠ 0 ∧ f = (if b then
      Reg.RING_PORT_STATE_LINK_B p else Reg.RING_PORT_STATE_LINK_A p) ∧ fbit s f ≠ up :=
  ⟨7, true, true, Reg.RING_PORT_STATE_LINK_B 7,
    withFields State.reset [(Reg.RING_PORT_STATE_STATE 7, 1), (Reg.RING_PORT_STATE_LINK_B 7, 0)], by decide +kernel,
    by decide +kernel, by decide +kernel, by decide +kernel, by decide +kernel⟩

theorem wit_RingRowsComplete_11 :
    ∃ (p : Nat) (r : DiscoverReturn) (f : Flight) (late : Bool) (s : State), ringsFed s = true ∧ p < 8 ∧ (rport s p).flight
      = some f ∧ f.kind = .discover ∧ late = decide (timeDiff s (discoverDeadline s p f.launch) < 0) ∧ (r.returned = true ∨
      late = true) :=
  ⟨7, ⟨true, true, 0, []⟩, aFlight .discover, _, flying .discover, by decide +kernel, by decide +kernel, by decide +kernel,
    by decide +kernel, rfl, Or.inl rfl⟩

theorem wit_RingRowsComplete_12 :
    ∃ (p : Nat) (f : Flight) (s : State), ringsFed s = true ∧ p < 8 ∧ (rport s p).flight = some f ∧ f.kind = .layout :=
  ⟨7, aFlight .layout, flying .layout, by decide +kernel, by decide +kernel, by decide +kernel, by decide +kernel⟩

theorem wit_RegisterWritesComplete_1 :
    ∃ (a : Agent) (off : Nat) (s : State), alive s = true ∧ off % 4 = 0 ∧ off < 0x4000000 ∧ slotRefuses a off = false ∧
      mayAccess a = true ∧ pairLow off = none :=
  ⟨.runtime, Reg.GLB_MODNUM, State.reset, by decide +kernel, by decide +kernel, by decide +kernel, by decide +kernel,
    by decide +kernel, by decide +kernel⟩

theorem wit_RegisterWritesComplete_2 :
    ∃ (a : Agent) (off low : Nat) (s : State), alive s = true ∧ off % 4 = 0 ∧ off < 0x4000000 ∧ slotRefuses a off = false ∧
      mayAccess a = true ∧ pairLow off = some low ∧ off ≠ low ∧ (low = Reg.TIME_SET → timeSetTakes a s = true) :=
  ⟨.runtime, Reg.MEM_DBG_ADDR + 4, Reg.MEM_DBG_ADDR, State.reset, by decide +kernel, by decide +kernel, by decide +kernel,
    by decide +kernel, by decide +kernel, by decide +kernel, by decide +kernel, by decide +kernel⟩

theorem wit_RegisterWritesComplete_3 :
    ∃ (a : Agent) (off : Nat) (s : State), alive s = true ∧ off % 4 = 0 ∧ off < 0x4000000 ∧ slotRefuses a off = false ∧
      mayAccess a = true ∧ pairLow off = some off ∧ (off = Reg.TIME_SET → timeSetTakes a s = true) :=
  ⟨.runtime, Reg.MEM_DBG_ADDR, State.reset, by decide +kernel, by decide +kernel, by decide +kernel, by decide +kernel,
    by decide +kernel, by decide +kernel, by decide +kernel⟩

theorem wit_RegisterWritesComplete_4 :
    ∃ (a : Agent) (off : Nat) (s : State), alive s = true ∧ off % 4 = 0 ∧ off / 0x100000 = 0x0B ∧ a ≠ .cowslip :=
  ⟨.runtime, 0xBFFFFC, State.reset, by decide +kernel, by decide +kernel, by decide +kernel, by decide +kernel⟩

theorem wit_RegisterWritesComplete_5 :
    ∃ (a : Agent) (off : Nat) (s : State), alive s = true ∧ off % 4 = 0 ∧ off / 0x100000 = 0x01 ∧ a ≠ .harebell :=
  ⟨.runtime, 0x1FFFFC, State.reset, by decide +kernel, by decide +kernel, by decide +kernel, by decide +kernel⟩

theorem wit_RegisterWritesComplete_6 :
    ∃ (a : Agent) (off : Nat) (s : State), alive s = true ∧ off % 4 = 0 ∧ off < 0x4000000 ∧ slotRefuses a off = false ∧
      mayAccess a = true ∧ pairLow off = some Reg.TIME_SET ∧ timeSetTakes a s = false :=
  ⟨.runtime, Reg.TIME_SET, State.reset, by decide +kernel, by decide +kernel, by decide +kernel, by decide +kernel,
    by decide +kernel, by decide +kernel, by decide +kernel⟩

theorem wit_RegisterWritesComplete_7 :
    ∃ (off : Nat) (s : State), alive s = true ∧ off / 0x100000 ≠ 0x0B ∧ off / 0x100000 ≠ 0x01 :=
  ⟨0x200000, State.reset, by decide +kernel, by decide +kernel, by decide +kernel⟩

theorem wit_TileRowsComplete_1 :
    ∃ (a : Agent) (tile c : Nat) (s : State), alive s = true ∧ mayAccess a = true ∧ tile < 48 ∧ c < 64 :=
  ⟨.runtime, 47, 63, State.reset, by decide +kernel, by decide +kernel, by decide +kernel, by decide +kernel⟩

theorem wit_TileRowsComplete_2 :
    ∃ (a : Agent) (tile t c : Nat) (s : State), alive s = true ∧ mayAccess a = true ∧ tile < 48 ∧ t < 128 ∧ c < 64 ∧ (thread
      s tile t).state = .unassigned :=
  ⟨.runtime, 47, 127, 63, State.reset, by decide +kernel, by decide +kernel, by decide +kernel, by decide +kernel,
    by decide +kernel, by decide +kernel⟩

theorem wit_TileRowsComplete_3 :
    ∃ (a : Agent) (tile t c : Nat) (s : State), alive s = true ∧ mayAccess a = true ∧ tile < 48 ∧ t < 128 ∧ c < 64 ∧ (thread
      s tile t).state ≠ .unassigned :=
  ⟨.runtime, 0, 0, 1, ready, by decide +kernel, by decide +kernel, by decide +kernel, by decide +kernel, by decide +kernel,
    by decide +kernel⟩

theorem wit_TileRowsComplete_4 :
    ∃ (a : Agent) (tile t c : Nat) (s : State), alive s = true ∧ mayAccess a = true ∧ tile < 48 ∧ t < 128 ∧ c < 64 ∧ (thread
      s tile t).state = .idle ∧ (thread s tile t).ctx = c :=
  ⟨.runtime, 0, 0, 1, ready, by decide +kernel, by decide +kernel, by decide +kernel, by decide +kernel, by decide +kernel,
    by decide +kernel, by decide +kernel⟩

theorem wit_TileRowsComplete_5 :
    ∃ (a : Agent) (tile t c : Nat) (s : State), alive s = true ∧ mayAccess a = true ∧ tile < 48 ∧ t < 128 ∧ c < 64 ∧
      ((thread s tile t).state ≠ .idle ∨ (thread s tile t).ctx ≠ c) :=
  ⟨.runtime, 0, 0, 2, ready, by decide +kernel, by decide +kernel, by decide +kernel, by decide +kernel, by decide +kernel,
    by decide +kernel⟩

theorem wit_TileRowsComplete_6 :
    ∃ (a : Agent) (tile : Nat) (s : State), alive s = true ∧ mayAccess a = true ∧ tile < 48 :=
  ⟨.runtime, 47, State.reset, by decide +kernel, by decide +kernel, by decide +kernel⟩

theorem wit_TileRowsComplete_7 :
    ∃ (a : Agent) (tile : Nat) (s : State), alive s = true ∧ mayAccess a = true ∧ tile < 48 :=
  ⟨.runtime, 47, State.reset, by decide +kernel, by decide +kernel, by decide +kernel⟩

theorem wit_TileRowsComplete_8 :
    ∃ (a : Agent) (tile t : Nat) (s : State), alive s = true ∧ mayAccess a = true ∧ tile < 48 ∧ t < 128 ∧ (thread s tile
      t).state = .ready :=
  ⟨.runtime, 0, 0, { up with threads := [(0, aThread 0 0)] }, by decide +kernel, by decide +kernel, by decide +kernel,
    by decide +kernel, by decide +kernel⟩

theorem wit_TileRowsComplete_9 :
    ∃ (a : Agent) (tile t : Nat) (s : State), alive s = true ∧ mayAccess a = true ∧ tile < 48 ∧ t < 128 ∧ (thread s tile
      t).state = .waiting :=
  ⟨.runtime, 0, 0, { up with threads := [(0, { aThread 0 0 with state := .waiting })] }, by decide +kernel,
    by decide +kernel, by decide +kernel, by decide +kernel, by decide +kernel⟩

theorem wit_TileRowsComplete_10 :
    ∃ (a : Agent) (tile t : Nat) (s : State), alive s = true ∧ mayAccess a = true ∧ tile < 48 ∧ t < 128 ∧ (thread s tile
      t).busy = false :=
  ⟨.runtime, 47, 127, State.reset, by decide +kernel, by decide +kernel, by decide +kernel, by decide +kernel,
    by decide +kernel⟩

theorem wit_TileRowsComplete_11 :
    ∃ (a : Agent) (tile t : Nat) (s : State), alive s = true ∧ mayAccess a = true ∧ tile < 48 ∧ t < 128 ∧ (thread s tile
      t).state = .debugHalt :=
  ⟨.runtime, 0, 0, { up with threads := [(0, { aThread 0 0 with state := .debugHalt })] }, by decide +kernel,
    by decide +kernel, by decide +kernel, by decide +kernel, by decide +kernel⟩

theorem wit_TileRowsComplete_12 :
    ∃ (a : Agent) (tile t : Nat) (s : State), alive s = true ∧ mayAccess a = true ∧ tile < 48 ∧ t < 128 ∧ (thread s tile
      t).state ≠ .debugHalt :=
  ⟨.runtime, 47, 127, State.reset, by decide +kernel, by decide +kernel, by decide +kernel, by decide +kernel,
    by decide +kernel⟩

theorem wit_TileRowsComplete_13 :
    ∃ (a : Agent) (tile t r : Nat) (s : State), alive s = true ∧ mayAccess a = true ∧ tile < 48 ∧ t < 128 ∧ r < 32 ∧ (thread
      s tile t).state = .debugHalt :=
  ⟨.runtime, 0, 0, 31, { up with threads := [(0, { aThread 0 0 with state := .debugHalt })] }, by decide +kernel,
    by decide +kernel, by decide +kernel, by decide +kernel, by decide +kernel, by decide +kernel⟩

theorem wit_QueueRowsComplete_1 :
    ∃ (a : Agent) (s : State), alive s = true ∧ mayAccess a = true :=
  ⟨.runtime, State.reset, by decide +kernel, by decide +kernel⟩

theorem wit_QueueRowsComplete_2 :
    ∃ (a : Agent) (q r : Nat) (s : State), alive s = true ∧ mayAccess a = true ∧ q < 16384 ∧ r < 32 ∧ r % 4 = 0 ∧ pairLow
      (Reg.QMGR_QCFG q + r) = none :=
  ⟨.runtime, 16383, 28, State.reset, by decide +kernel, by decide +kernel, by decide +kernel, by decide +kernel,
    by decide +kernel, by decide +kernel⟩

theorem wit_QueueRowsComplete_3 :
    ∃ (a : Agent) (q r : Nat) (s : State), alive s = true ∧ mayAccess a = true ∧ q < 16384 ∧ r < 32 ∧ r % 4 = 0 ∧ pairLow
      (Reg.QMGR_QCFG q + r) = some (Reg.QMGR_QCFG q + r) :=
  ⟨.runtime, 16383, 8, State.reset, by decide +kernel, by decide +kernel, by decide +kernel, by decide +kernel,
    by decide +kernel, by decide +kernel⟩

theorem wit_QueueRowsComplete_4 :
    ∃ (a : Agent) (c : Nat) (s : State), alive s = true ∧ mayAccess a = true ∧ c < 64 :=
  ⟨.runtime, 63, State.reset, by decide +kernel, by decide +kernel, by decide +kernel⟩

theorem wit_ConfigRowsComplete_1 :
    ∃ (a : Agent) (off c : Nat) (s : State), alive s = true ∧ mayAccess a = true ∧ off % 4 = 0 ∧ off / 0x100000 = 0x0A ∧
      memCtxOf (off % 0x100000) = some c :=
  ⟨.runtime, Reg.MEM_CTX_LP 63, 63, State.reset, by decide +kernel, by decide +kernel, by decide +kernel, by decide +kernel,
    by decide +kernel⟩

theorem wit_ConfigRowsComplete_2 :
    ∃ (a : Agent) (off c : Nat) (s : State), alive s = true ∧ mayAccess a = true ∧ off % 4 = 0 ∧ off / 0x100000 = 0x08 ∧
      kvmCtxOf (off % 0x100000) = some c :=
  ⟨.runtime, Reg.KVM_CTX_SEQ 63, 63, State.reset, by decide +kernel, by decide +kernel, by decide +kernel,
    by decide +kernel, by decide +kernel⟩

theorem wit_ConfigRowsComplete_3 :
    ∃ (a : Agent) (off : Nat) (s : State), alive s = true ∧ mayAccess a = true ∧ off % 4 = 0 ∧ ctlCfgReg off = true :=
  ⟨.runtime, Reg.CTL_GROUP 63, State.reset, by decide +kernel, by decide +kernel, by decide +kernel, by decide +kernel⟩

theorem wit_ConfigRowsComplete_4 :
    ∃ (s : State), alive s = true :=
  ⟨State.reset, by decide +kernel⟩

theorem wit_ConfigRowsComplete_5 :
    ∃ (a : Agent) (s : State), alive s = true ∧ mayAccess a = true ∧ a ≠ .cowslip :=
  ⟨.runtime, State.reset, by decide +kernel, by decide +kernel, by decide +kernel⟩

theorem wit_ConfigRowsComplete_6 :
    ∃ (a : Agent) (off p : Nat) (s : State), alive s = true ∧ mayAccess a = true ∧ off % 4 = 0 ∧ ringCfgPort off = some p ∧
      pairLow off = none :=
  ⟨.runtime, Reg.RING_PORT_CFG 7, 7, State.reset, by decide +kernel, by decide +kernel, by decide +kernel,
    by decide +kernel, by decide +kernel⟩

theorem wit_AgentRowsComplete_1 :
    ∃ (s : State), alive s = true ∧ fbit s Reg.QMGR_STATUS_ACCEPTING = false :=
  ⟨withFields State.reset [(Reg.QMGR_STATUS_ACCEPTING, 0)], by decide +kernel, by decide +kernel⟩

theorem wit_AgentRowsComplete_2 :
    ∃ (off : Nat) (s : State), alive s = true ∧ timeCfgReg off = true :=
  ⟨Reg.TIME_LOCK, State.reset, by decide +kernel, by decide +kernel⟩

theorem wit_AgentRowsComplete_3 :
    ∃ (a : Agent) (off : Nat) (s : State), alive s = true ∧ mayAccess a = true ∧ (off = Reg.PWR_CFG ∨ off = Reg.PWR_CAP) :=
  ⟨.harebell, Reg.PWR_CAP, State.reset, by decide +kernel, by decide +kernel, Or.inr rfl⟩

theorem wit_AgentRowsComplete_4 :
    ∃ (s : State), alive s = true :=
  ⟨State.reset, by decide +kernel⟩

theorem wit_AgentRowsComplete_5 :
    ∃ (s : State), alive s = true :=
  ⟨State.reset, by decide +kernel⟩

theorem wit_AgentRowsComplete_6 :
    ∃ (s : State), alive s = true :=
  ⟨State.reset, by decide +kernel⟩

theorem wit_AgentRowsComplete_7 :
    ∃ (k : Word) (s : State), alive s = true ∧ k ≠ 0x5AFE0001 :=
  ⟨0, State.reset, by decide +kernel, by decide +kernel⟩

theorem wit_AgentRowsComplete_8 :
    ∃ (a : Agent) (s : State), alive s = true ∧ (a = .runtime ∨ a = .management) :=
  ⟨.management, State.reset, by decide +kernel, by decide +kernel⟩

theorem wit_PcieRowsComplete_1 :
    ∃ (a : Agent) (s : State), alive s = true ∧ mayAccess a = true :=
  ⟨.runtime, State.reset, by decide +kernel, by decide +kernel⟩

theorem wit_PcieRowsComplete_2 :
    ∃ (a : Agent) (s : State), alive s = true ∧ mayAccess a = true :=
  ⟨.runtime, State.reset, by decide +kernel, by decide +kernel⟩

theorem wit_PcieRowsComplete_3 :
    ∃ (a : Agent) (s : State), alive s = true ∧ mayAccess a = true :=
  ⟨.runtime, State.reset, by decide +kernel, by decide +kernel⟩

theorem wit_PcieRowsComplete_4 :
    ∃ (a : Agent) (s : State), alive s = true ∧ mayAccess a = true :=
  ⟨.runtime, State.reset, by decide +kernel, by decide +kernel⟩

theorem wit_PcieRowsComplete_5 :
    ∃ (a : Agent) (s : State), alive s = true ∧ mayAccess a = true :=
  ⟨.runtime, State.reset, by decide +kernel, by decide +kernel⟩

theorem wit_PcieRowsComplete_6 :
    ∃ (s : State), alive s = true ∧ inDrowse s = false ∧ phaseUp s 5 = true :=
  ⟨State.reset, by decide +kernel, by decide +kernel, by decide +kernel⟩

theorem wit_PcieRowsComplete_7 :
    ∃ (k w : Nat) (s : State), alive s = true ∧ inDrowse s = false ∧ phaseUp s 5 = true ∧ 1 ≤ k ∧ k ≤ fget s
      Reg.PCIE_CFG_MAX_SPEED ∧ w ∈ [1, 2, 4, 8] :=
  ⟨1, 8, withFields State.reset [(Reg.PCIE_CFG_MAX_SPEED, 1)], by decide +kernel, by decide +kernel, by decide +kernel,
    by decide +kernel, by decide +kernel, by decide +kernel⟩

theorem wit_PcieRowsComplete_8 :
    ∃ (s : State), alive s = true :=
  ⟨State.reset, by decide +kernel⟩

theorem wit_PcieRowsComplete_9 :
    ∃ (s : State), alive s = true :=
  ⟨State.reset, by decide +kernel⟩

theorem wit_PcieRowsComplete_10 :
    ∃ (a : Nat) (s : State), alive s = true ∧ isLp a = true ∧ fbit s Reg.MEM_SCRUB_EN = true :=
  ⟨0x2FFFFFFFFF, withFields State.reset [(Reg.MEM_SCRUB_EN, 1)], by decide +kernel, by decide +kernel, by decide +kernel⟩

theorem wit_PcieRowsComplete_11 :
    ∃ (s : State), alive s = true :=
  ⟨State.reset, by decide +kernel⟩

theorem wit_StoresTouchTheirPieces_1 :
    ∃ (s t : State) (c va : Nat) (bs : List Byte) (ps : List (Nat × Nat)), Sound s ∧ vaRange s c va bs.length .write = .ok
      ps ∧ vaWrite s c va bs = .ok t :=
  ⟨up, _, 1, 0x1FFFF8, List.replicate 16 7, _, sound_check _ (by decide +kernel), ok_list (by decide +kernel),
    ok_got (by decide +kernel)⟩

theorem wit_StoresTouchTheirPieces_2 :
    ∃ (s t : State) (q va : Nat) (bs : List Byte) (ps : List (Nat × Nat)), Sound s ∧ opPieces s q va bs.length .write = .ok
      ps ∧ opWrite s q va bs = .ok t :=
  ⟨up, _, 0, 0x500000, List.replicate 16 7, _, sound_check _ (by decide +kernel), ok_list (by decide +kernel),
    ok_got (by decide +kernel)⟩

theorem wit_ScalarRegisterFrame_1 :
    ∃ (tile t w f rd rs1 rs2 : Nat) (imm : DWord) (s u : State), Sound s ∧ tile < 48 ∧ t < 128 ∧ mayIssue s tile t = true ∧
      fetchWord s tile t = .ok w ∧ bits w 31 26 ≠ 0x3F ∧ storeWf (fun _ => (0 : DWord)) (thread s tile t).regs = true ∧ exec
      (.scalarInstruction tile t (.int f rd rs1 rs2 imm)) s = .next u :=
  ⟨0, 0, 0x13, 0, 31, 1, 2, 0, issuing 0x13 (aThread 1 2), _, sound_check _ (by decide +kernel), by decide +kernel,
    by decide +kernel, by decide +kernel, ok_of (by decide +kernel), by decide +kernel, by decide +kernel,
    next_got (by decide +kernel)⟩

theorem wit_ScalarRegisterFrame_2 :
    ∃ (tile t w f rs1 rs2 : Nat) (imm : DWord) (s u : State), Sound s ∧ tile < 48 ∧ t < 128 ∧ mayIssue s tile t = true ∧
      fetchWord s tile t = .ok w ∧ bits w 31 26 ≠ 0x3F ∧ exec (.scalarInstruction tile t (.branch f rs1 rs2 imm 0)) s =
      .next u :=
  ⟨0, 0, 0x13, 0, 1, 2, 16, issuing 0x13 (aThread 1 2), _, sound_check _ (by decide +kernel), by decide +kernel,
    by decide +kernel, by decide +kernel, ok_of (by decide +kernel), by decide +kernel, next_got (by decide +kernel)⟩

theorem wit_ScalarStoreFrame_1 :
    ∃ (tile t w size rs1 rs2 va : Nat) (off : DWord) (bs : List Byte) (ps : List (Nat × Nat)) (s v u : State), Sound s ∧
      tile < 48 ∧ t < 128 ∧ mayIssue s tile t = true ∧ fetchWord s tile t = .ok w ∧ bits w 31 26 ≠ 0x3F ∧ size < 4 ∧ va =
      (xreg (thread s tile t) (rs1 % 32) + off).toNat ∧ va % 2 ^ size = 0 ∧ bs = leBytes (2 ^ size) (xreg (thread s tile t)
      (rs2 % 32)).toNat ∧ vaRange (countIssue s tile t) (thread s tile t).ctx va (2 ^ size) .write = .ok ps ∧ vaWrite
      (countIssue s tile t) (thread s tile t).ctx va bs = .ok v ∧ exec (.scalarInstruction tile t (.store size rs1 rs2 off))
      s = .next u :=
  ⟨0, 0, 0x13, 3, 1, 2, 0x1FFFF8, 0, _, _, issuing 0x13 (aThread 0x1FFFF8 2), _, _, sound_check _ (by decide +kernel),
    by decide +kernel, by decide +kernel, by decide +kernel, ok_of (by decide +kernel), by decide +kernel,
    by decide +kernel, by decide +kernel, by decide +kernel, rfl, ok_list (by decide +kernel), ok_got (by decide +kernel),
    next_got (by decide +kernel)⟩

theorem wit_CompletionFrame_1 :
    ∃ (s : State), Sound s :=
  ⟨State.reset, sound_check _ (by decide +kernel)⟩

theorem wit_CompletionFrame_2 :
    ∃ (a : Agent) (tile t c : Nat) (s u : State), Sound s ∧ alive s = true ∧ tile < 48 ∧ t < 128 ∧ (exec (.tileThrAssign a
      tile t c) s = .next u ∨ exec (.tileThrRelease a tile t c) s = .next u) :=
  ⟨.runtime, 47, 127, 63, State.reset, _, sound_check _ (by decide +kernel), by decide +kernel, by decide +kernel,
    by decide +kernel, Or.inl rfl⟩

end Sys2Proof.Machine
end

section
/-! SUPPORT. What the rows of a tile do: threads' scalar instructions and their frames, unit instructions, units, tile commands and tile
registers (chapter 2 of the spec). -/

namespace Sys2Proof.Machine

/-! ### Scalar registers of a thread -/

/-- Settles O12: x0 by the case of register 0 in both accessors, the others by the store's read after write. -/
theorem registerZero : Obligations.RegisterZero := by
  intro th r v
  refine ⟨rfl, rfl, fun hr wf => ?_⟩
  simp only [xreg, setXreg, if_neg hr]
  exact storeGet_set_same th.regs r v wf

/-- A write of a register leaves every other register. -/
theorem xreg_setXreg_ne {th : Thread} {r k : Nat} (v : DWord) (wf : storeWf (fun _ => (0 : DWord)) th.regs = true) (h : k ≠ r) :
    xreg (setXreg th r v) k = xreg th k := by
  unfold setXreg xreg
  by_cases hr : r = 0
  · simp [hr]
  · by_cases hk : k = 0
    · simp [hk]
    · simp only [if_neg hr, if_neg hk]
      exact storeGet_set_ne th.regs v h wf

/-- A register reads alike in threads with the same registers. -/
theorem xreg_of_regs {a b : Thread} (h : a.regs = b.regs) (r : Nat) : xreg a r = xreg b r := by
  simp only [xreg, h]

@[simp] theorem xreg_advanced (th : Thread) (r : Nat) : xreg (advanced th) r = xreg th r := rfl
@[simp] theorem advanced_ctx (th : Thread) : (advanced th).ctx = th.ctx := rfl

/-! ### Scalar instructions -/

section
variable {s : State} {tile t w : Nat} (ht : tile < 48) (hk : t < 128) (hm : mayIssue s tile t = true) (hf : fetchWord s tile t = .ok w)
  (hw : bits w 31 26 ≠ 0x3F)
include ht hk hm hf hw

/-- A scalar word that its thread issues has its effect, after the count of issued instructions (R581). -/
theorem exec_scalar (op : ScalarOp) : exec (.scalarInstruction tile t op) s
    = .next (issued s tile t (scalarEffect tile t (thread s tile t).pc (advanced (thread s tile t)) (countIssue s tile t) op)) := by
  show execScalarInstruction tile t op s = _
  unfold execScalarInstruction
  rw [if_pos ⟨ht, hk, hm⟩, hf]
  exact if_neg hw

/-- A store that completes. -/
theorem exec_scalarStore {size rs1 rs2 va : Nat} {off : DWord} {u : State} (hs : size < 4)
    (hva : va = (xreg (thread s tile t) (rs1 % 32) + off).toNat) (al : va % 2 ^ size = 0)
    (h : vaWrite (countIssue s tile t) (thread s tile t).ctx va (leBytes (2 ^ size) (xreg (thread s tile t) (rs2 % 32)).toNat) = .ok u) :
    exec (.scalarInstruction tile t (.store size rs1 rs2 off)) s
      = .next (issued s tile t (setThread u tile t (advanced (thread s tile t)))) := by
  rw [exec_scalar ht hk hm hf hw]
  simp only [scalarEffect, xreg_advanced, advanced_ctx, Nat.mod_eq_of_lt hs, ← hva, al, h, ne_eq, not_true_eq_false, if_false]

/-- A load that completes. -/
theorem exec_scalarLoad {size rd rs1 va : Nat} {sg : Bool} {off : DWord} {bs : List Byte} (hs : size < 4)
    (hva : va = (xreg (thread s tile t) (rs1 % 32) + off).toNat) (al : va % 2 ^ size = 0)
    (h : vaRead (countIssue s tile t) (thread s tile t).ctx va (2 ^ size) = .ok bs) :
    exec (.scalarInstruction tile t (.load size sg rd rs1 off)) s = .next (issued s tile t
      (readNoted (countIssue s tile t) (thread s tile t).ctx [(va, 2 ^ size)] (setThread (countIssue s tile t) tile t
        (setXreg (advanced (thread s tile t)) (rd % 32)
          (if sg then BitVec.ofInt 64 (sint (8 * 2 ^ size) (leNat bs)) else BitVec.ofNat 64 (leNat bs)))))) := by
  rw [exec_scalar ht hk hm hf hw]
  simp only [scalarEffect, xreg_advanced, advanced_ctx, Nat.mod_eq_of_lt hs, ← hva, al, h, ne_eq, not_true_eq_false, if_false]

end

/-- Settles O23: each form's effect, on the thread that has passed the word. -/
theorem scalarInstructionsComplete : Obligations.ScalarInstructionsComplete := by
  refine ⟨?int, ?load, ?store, ?branch, ?fp⟩
  case int =>
    intro tile t w f rd rs1 rs2 imm s ht hk hm hf hw
    exact exec_scalar ht hk hm hf hw (.int f rd rs1 rs2 imm)
  case load =>
    intro tile t w size rd rs1 va sg off bs s ht hk hm hf hw hs hva al h
    exact exec_scalarLoad ht hk hm hf hw hs hva al h
  case store =>
    intro tile t w size rs1 rs2 va off s u ht hk hm hf hw hs hva al h
    exact exec_scalarStore ht hk hm hf hw hs hva al h
  case branch =>
    intro tile t w f rs1 rs2 link off s ht hk hm hf hw
    exact exec_scalar ht hk hm hf hw (.branch f rs1 rs2 off link)
  case fp =>
    intro tile t w f rd rs1 rs2 rs3 s ht hk hm hf hw
    exact exec_scalar ht hk hm hf hw (.fp f rd rs1 rs2 rs3)

/-! ### The frame of an issued instruction -/

/-- A thread's replacement leaves every other thread. -/
theorem thread_setThread_ne {s : State} {tile t j k : Nat} (x : Thread) (w : Sound s) (ht : t < 128) (hk : k < 128)
    (h : (j, k) ≠ (tile, t)) : thread (setThread s tile t x) j k = thread s j k := by
  refine storeGet_set_ne _ x (fun e => h ?_) w.threads
  have hj : j = tile := by omega
  have ht' : k = t := by omega
  rw [hj, ht']

/-- What an instruction of thread `t` of a tile leaves of the state, memory and the thread itself apart: queues, contexts and units, all
of Tansy but the events raised, every other thread, and the registers of the window but the tile's count of issued instructions and
the counters of corrected errors. -/
structure ThreadFrame (tile t : Nat) (s u : State) : Prop where
  queues : u.queues = s.queues
  ctxs : u.ctxs = s.ctxs
  units : u.units = s.units
  tansy : u.tansy = { s.tansy with raised := u.tansy.raised }
  others : ∀ j k : Nat, j < 48 → k < 128 → (j, k) ≠ (tile, t) → thread u j k = thread s j k
  words : ∀ off : Nat, off ≠ Reg.TILE_PERF tile 1 → off ≠ Reg.TILE_PERF tile 1 + 4 → corrCounter off = false →
    regWord u off = regWord s off

section
variable {tile t : Nat} {s u v : State}

theorem ThreadFrame.refl (s : State) : ThreadFrame tile t s s := ⟨rfl, rfl, rfl, rfl, fun _ _ _ _ _ => rfl, fun _ _ _ _ => rfl⟩

theorem ThreadFrame.trans (h : ThreadFrame tile t s u) (g : ThreadFrame tile t u v) : ThreadFrame tile t s v where
  queues := g.queues.trans h.queues
  ctxs := g.ctxs.trans h.ctxs
  units := g.units.trans h.units
  tansy := by rw [g.tansy, h.tansy]
  others j k hj hk ne := (g.others j k hj hk ne).trans (h.others j k hj hk ne)
  words off h1 h2 hc := (g.words off h1 h2 hc).trans (h.words off h1 h2 hc)

/-- A window word that is not of the 64-bit register written. -/
theorem regWord_setReg64_ne {off o : Nat} (x : Nat) (h : cwWf s) (h1 : o ≠ off) (h2 : o ≠ off + 4) :
    regWord (setReg64 s off x) o = regWord s o := by
  unfold setReg64
  rw [regWord_setRegWord _ _ _ (cwWf_setRegWord _ _ h), if_neg h2, regWord_setRegWord _ _ _ h, if_neg h1]

theorem sound_countIssue (tile t : Nat) (w : Sound s) : Sound (countIssue s tile t) := by
  obtain ⟨_, _, _, keeps⟩ := keep_countIssue (a1 := tile) (a2 := t) absorbs_same (.refl s)
  exact keeps w

theorem sound_setThread (tile t : Nat) (x : Thread) (w : Sound s) : Sound (setThread s tile t x) :=
  { w with threads := storeWf_set _ _ _ w.threads }

theorem threadFrame_countIssue (w : Sound s) : ThreadFrame tile t s (countIssue s tile t) where
  queues := rfl
  ctxs := rfl
  units := rfl
  tansy := rfl
  others _ _ _ _ _ := rfl
  words _ h1 h2 _ := regWord_setReg64_ne _ w.cw h1 h2

theorem threadFrame_setThread (x : Thread) (w : Sound s) (ht : t < 128) : ThreadFrame tile t s (setThread s tile t x) where
  queues := rfl
  ctxs := rfl
  units := rfl
  tansy := rfl
  others _ _ _ hk ne := thread_setThread_ne x w ht hk ne
  words _ _ _ _ := rfl

/-- Counting corrected errors leaves memory. -/
theorem OnlyCounted.mem (h : OnlyCounted s u) : u.mem = s.mem := by
  obtain ⟨hrest, -, -⟩ := h
  rw [hrest]

/-- Counting corrected errors leaves every thread. -/
theorem OnlyCounted.thread (h : OnlyCounted s u) (j k : Nat) : thread u j k = thread s j k := by
  obtain ⟨hrest, -, -⟩ := h
  unfold Machine.thread
  rw [hrest]

theorem OnlyCounted.threadFrame (h : OnlyCounted s u) : ThreadFrame tile t s u := by
  obtain ⟨hrest, -, hwords⟩ := id h
  exact { queues := by rw [hrest]
          ctxs := by rw [hrest]
          units := by rw [hrest]
          tansy := by rw [hrest]
          others := fun j k _ _ _ => h.thread j k
          words := fun off _ _ hc => hwords off hc }

/-- Halting again after a STEP replaces the thread by one with the same registers, or changes nothing. -/
theorem settleStep_cases (s : State) (tile t : Nat) (b : Bool) :
    settleStep s tile t b = s ∨ ∃ x : Thread, x.regs = (thread s tile t).regs ∧ settleStep s tile t b = setThread s tile t x := by
  unfold settleStep
  cases b with
  | false => exact .inl rfl
  | true =>
    simp only [Bool.not_true, Bool.false_eq_true, if_false]
    split
    · exact .inr ⟨{ thread s tile t with state := .debugHalt, step := false }, rfl, rfl⟩
    · split
      · exact .inr ⟨{ thread s tile t with haltNext := true, step := false }, rfl, rfl⟩
      · exact .inl rfl

theorem settleStep_frame (b : Bool) (w : Sound s) (ht : t < 128) :
    (settleStep s tile t b).mem = s.mem ∧ cwWf (settleStep s tile t b) ∧ ThreadFrame tile t s (settleStep s tile t b)
      ∧ (thread (settleStep s tile t b) tile t).regs = (thread s tile t).regs := by
  rcases settleStep_cases s tile t b with e | ⟨x, hx, e⟩
  · rw [e]; exact ⟨rfl, w.cw, .refl s, rfl⟩
  · rw [e, thread_setThread_same s tile t x w]; exact ⟨rfl, w.cw, threadFrame_setThread x w ht, hx⟩

/-- What ends an issued instruction, a STEP's halt and the corrected errors of the fetch, leaves memory, the rest of the frame and the
thread's registers. -/
theorem issued_frame (s : State) (w : Sound u) (ht : t < 128) :
    (issued s tile t u).mem = u.mem ∧ ThreadFrame tile t u (issued s tile t u)
      ∧ (thread (issued s tile t u) tile t).regs = (thread u tile t).regs := by
  obtain ⟨hmem, hcw, hframe, hregs⟩ := settleStep_frame (tile := tile) (decide ((thread s tile t).state = .debugHalt)) w ht
  have hn : OnlyCounted _ (issued s tile t u) := noteCorrs_frame (fetchPieces s tile t) hcw
  exact ⟨hn.mem.trans hmem, hframe.trans hn.threadFrame, (congrArg Thread.regs (hn.thread tile t)).trans hregs⟩

/-- An instruction that only replaces its own thread by `x` leaves memory and the rest of the frame, and the thread's registers are
those of `x`. -/
theorem issued_setThread_frame (x : Thread) (w : Sound s) (ht : t < 128)
    (hu : u = issued s tile t (setThread (countIssue s tile t) tile t x)) :
    memorySame s u ∧ ThreadFrame tile t s u ∧ (thread u tile t).regs = x.regs := by
  subst hu
  have wc := sound_countIssue tile t w
  obtain ⟨hmem, hframe, hregs⟩ := issued_frame (tile := tile) s (sound_setThread tile t x wc) ht
  refine ⟨fun a => congrArg (storeGet memDefault · a) hmem,
    ((threadFrame_countIssue w).trans (threadFrame_setThread x wc ht)).trans hframe, ?_⟩
  rw [hregs, thread_setThread_same _ tile t x wc]

end

/-- Settles O58: each form replaces its own thread only, after the count of issued instructions. -/
theorem scalarRegisterFrame : Obligations.ScalarRegisterFrame := by
  constructor
  · intro tile t w f rd rs1 rs2 imm s u hs ht hk hm hf hw wf hu
    rw [exec_scalar ht hk hm hf hw] at hu
    obtain ⟨hmem, hframe, hregs⟩ := issued_setThread_frame _ hs hk (Host.Outcome.next.inj hu).symm
    refine ⟨hmem, hframe.queues, hframe.ctxs, hframe.units, hframe.tansy, hframe.others, fun r hr => ?_, hframe.words⟩
    exact (xreg_of_regs hregs r).trans (xreg_setXreg_ne _ wf hr)
  · intro tile t w f rs1 rs2 imm s u hs ht hk hm hf hw hu
    rw [exec_scalar ht hk hm hf hw] at hu
    obtain ⟨hmem, hframe, hregs⟩ := issued_setThread_frame _ hs hk (Host.Outcome.next.inj hu).symm
    refine ⟨hmem, hframe.queues, hframe.ctxs, hframe.units, hframe.tansy, hframe.others, hregs.trans ?_, hframe.words⟩
    simp only [Nat.zero_mod, setXreg, if_true]
    split <;> rfl

/-! ### Stores -/

/-- A store of a context changes memory, the marks of unreadable units and the page tables' old entries, and no byte outside its pieces. -/
theorem vaWrite_frame {s v : State} {c va : Nat} {bs : List Byte} {ps : List (Nat × Nat)} (w : Sound s)
    (hp : vaRange s c va bs.length .write = .ok ps) (h : vaWrite s c va bs = .ok v) :
    v = { s with mem := v.mem, uncorr := v.uncorr, stale := v.stale }
      ∧ ∀ a : Nat, (∀ p ∈ ps, a < p.1 ∨ p.1 + p.2 ≤ a) → memByte v a = memByte s a := by
  have hv : v = writePieces s ps bs := by
    simp only [vaWrite, hp] at h
    split at h <;> cases h
    rfl
  rw [hv]
  exact writePieces_frame ps s bs w

/-- What a store changes is nothing of the frame. -/
theorem threadFrame_of_memory {tile t : Nat} {s v : State} (h : v = { s with mem := v.mem, uncorr := v.uncorr, stale := v.stale }) :
    ThreadFrame tile t s v where
  queues := by rw [h]
  ctxs := by rw [h]
  units := by rw [h]
  tansy := by rw [h]
  others _ _ _ _ _ := by rw [h]; rfl
  words _ _ _ _ := by rw [h]; rfl

theorem sound_vaWrite {s v : State} {c va : Nat} {bs : List Byte} (w : Sound s) (h : vaWrite s c va bs = .ok v) : Sound v := by
  obtain ⟨_, _, keeps⟩ := okE_get (keep_vaWrite absorbs_held (.refl s)) h
  exact keeps w

/-- The number of bytes of a value; stated here because no proof rests on the tests, which hold it too. -/
theorem length_leBytes : ∀ n v : Nat, (leBytes n v).length = n
  | 0, _ => rfl
  | n + 1, v => congrArg Nat.succ (length_leBytes n (v / 256))

/-- Settles O59: the frames of the count, of the store, of the thread's advance and of what ends the instruction, in turn. -/
theorem scalarStoreFrame : Obligations.ScalarStoreFrame := by
  intro tile t w size rs1 rs2 va off bs ps s v u hs ht hk hm hf hw hsize hva al hbs hp hv hu
  subst hbs
  have wc := sound_countIssue tile t hs
  have wv := sound_vaWrite wc hv
  obtain ⟨hrest, hbytes⟩ := vaWrite_frame wc (by rwa [length_leBytes]) hv
  rw [exec_scalarStore ht hk hm hf hw hsize hva al hv] at hu
  obtain rfl := Host.Outcome.next.inj hu
  obtain ⟨hmem, hend, hregs⟩ := issued_frame (tile := tile) s (sound_setThread tile t (advanced (thread s tile t)) wv) hk
  have hframe := (((threadFrame_countIssue hs).trans (threadFrame_of_memory hrest)).trans (threadFrame_setThread _ wv hk)).trans hend
  refine ⟨fun a ha => ?_, hframe.others, ?_, hframe.queues, hframe.ctxs, hframe.units⟩
  · exact (congrArg (storeGet memDefault · a) hmem).trans (hbytes a ha)
  · rw [hregs, thread_setThread_same _ tile t _ wv]; rfl

/-! ### Unit instructions -/

/-- A UCMD of its thread whose descriptor can be read (R48, R50). -/
theorem execUcmd_queued {tile t w : Nat} {op : UnitOp} {bs : List Byte} {s : State} (h : Issues s tile t 0x01 w)
    (hu : (xreg (thread s tile t) (bits w 9 5)).toNat < 6) (al : (xreg (thread s tile t) (bits w 14 10)).toNat % 64 = 0)
    (ho : unitOf op = some (xreg (thread s tile t) (bits w 9 5)).toNat)
    (hr : vaRead (countIssue s tile t) (thread s tile t).ctx (xreg (thread s tile t) (bits w 14 10)).toNat 64 = .ok bs) :
    execUcmd tile t op s = .next (issued s tile t (readNoted (countIssue s tile t) (thread s tile t).ctx
      [((xreg (thread s tile t) (bits w 14 10)).toNat, 64)] (issueUnit (countIssue s tile t) tile t
        (xreg (thread s tile t) (bits w 9 5)).toNat (advanced (thread s tile t)) (bits w 4 0 % 16) 0 op))) := by
  have hu' : ¬ 6 ≤ (decodeMod (thread s tile t) w).rs2.toNat := Nat.not_le.2 hu
  have al' : ¬ (decodeMod (thread s tile t) w).rs1.toNat % 64 ≠ 0 := fun h => h al
  have ho' : unitOf op = some (decodeMod (thread s tile t) w).rs2.toNat := ho
  have hr' : vaRead (countIssue s tile t) (advanced (thread s tile t)).ctx (decodeMod (thread s tile t) w).rs1.toNat 64 = .ok bs := hr
  unfold execUcmd
  rw [issue_run h]
  simp only [if_neg hu', if_neg al', hr', if_pos ho']
  rfl

/-- Settles O24: each instruction by what its thread issues; a unit's queue by its room; an arrival by what lets it in. -/
theorem unitInstructionsComplete : Obligations.UnitInstructionsComplete := by
  refine ⟨?ucmd, ?jbar, ?lbar, ?room, ?full, ?arrival⟩
  case ucmd =>
    intro tile t w op bs s h hu al ho hr
    exact execUcmd_queued h hu al ho hr
  case jbar =>
    intro tile t w s h hb
    show execJbar tile t s = _
    unfold execJbar
    rw [issue_run h]
    exact congrArg (fun x => Host.Outcome.next (issued s tile t x)) (if_neg (Nat.not_le.2 hb))
  case lbar =>
    intro tile t w s h
    exact congrArg Host.Outcome.next (issue_run h)
  case room =>
    intro s tile t u token seq th op h
    exact if_neg (Nat.not_le.2 h)
  case full =>
    intro s tile t u token seq th op h
    exact if_pos h
  case arrival =>
    intro m b s hb hm hj hl
    exact if_neg (by simp [Nat.not_le.2 hb, hm, hj, hl])

/-! ### Units -/

section
variable {tile u : Nat} {d : UnitCmd} {s t : State} (ht : tile < 48) (hu : u < 6) (hw : tileWorks s tile = true)
  (he : fbit s (Reg.TILE_CTRL_ISSUE_EN tile) = true) (hf : unitFree u (unit s tile u) = true) (hn : unitNext s tile u = some d)
include ht hu hw he hf hn

/-- A free unit starts the command that is next (R50). -/
theorem execUnitCommandStart_runs {gen : Nat} (hb : ∀ b e : Nat, d.op = .barrier b e → gen = (barrierOf s b).gen)
    (ho : (∀ b e : Nat, d.op ≠ .barrier b e) → gen = 0) (hr : runUnit s tile d = (none, t)) :
    execUnitCommandStart tile u s = .next (readNoted s d.ctx (unitReads d) (wakeUnitWaiters (setUnit t tile u
      ⟨removeCmd d (unit s tile u).queue, (unit s tile u).started ++ [{ d with gen := gen }], d.ctx, (unit t tile u).figures⟩))) := by
  unfold execUnitCommandStart
  rw [if_neg (by simp [Nat.not_le.2 ht, Nat.not_le.2 hu, hw, he, hf]), hn]
  simp only [hr]
  split
  · rename_i b e hop
    rw [hb b e hop]
  · rename_i hop
    rw [ho hop]

/-- A command that its unit does not start, or that an access stops, leaves the queue and ends its context (R52, R98). -/
theorem execUnitCommandStart_faults {f : UFault} (hr : runUnit s tile d = (some f, t)) :
    execUnitCommandStart tile u s = .next (unitFault (wakeUnitWaiters (setUnit t tile u
      { unit s tile u with queue := removeCmd d (unit s tile u).queue, last := d.ctx })) tile d f) := by
  unfold execUnitCommandStart
  rw [if_neg (by simp [Nat.not_le.2 ht, Nat.not_le.2 hu, hw, he, hf]), hn]
  simp only [hr]

end

/-- The started command that completes next ends, signals its token and lets a HALT retire; one of a dead thread only ends (R47, R48). -/
theorem execUnitCommandComplete_ends {tile u : Nat} {d : UnitCmd} {s w : State} (ht : tile < 48) (hu : u < 6)
    (hw : tileWorks s tile = true) (hn : completesNext s [] (unit s tile u).started = some d)
    (hr : unitEnd (setUnit s tile u { unit s tile u with started := removeCmd d (unit s tile u).started, figures := none })
      d (unit s tile u).figures = (none, w)) :
    execUnitCommandComplete tile u s
      = .next (if d.dead then w else settleHalt tile d.thread (signalToken w tile d.thread d.token)) := by
  unfold execUnitCommandComplete
  rw [if_neg (by simp [Nat.not_le.2 ht, Nat.not_le.2 hu, hw])]
  simp only [hn, hr]
  split <;> rfl

/-- Settles O27: the start with and without a fault, the completion, and the step close of a free scale unit. -/
theorem unitsComplete : Obligations.UnitsComplete := by
  refine ⟨?starts, ?faults, ?completes, ?closes⟩
  case starts =>
    intro tile u gen d s t ht hu hw he hf hn hb ho hr
    exact execUnitCommandStart_runs ht hu hw he hf hn hb ho hr
  case faults =>
    intro tile u d f s t ht hu hw he hf hn hr
    exact execUnitCommandStart_faults ht hu hw he hf hn hr
  case completes =>
    intro tile u d s v w ht hu hw hn hv hr
    exact execUnitCommandComplete_ends ht hu hw hn (hv ▸ hr)
  case closes =>
    intro tile c r sm s t ht hw hc hr hs hok
    show execStepClose tile c r sm s = _
    unfold execStepClose
    rw [if_neg (by simp [Nat.not_le.2 ht, hw, hc, hr, hs]), hok]

/-! ### Compute commands -/

/-- A launch that settles closes an open frame of its entry (R246). -/
theorem launchEngine_done {q st d : Nat} {c : QCmd} {s t : State} (h : launchCore q c s = .done st d t) :
    launchEngine q c s = .done st d (closeEmptyFrame t q c c.startedAt) := by
  simp [launchEngine, h, Verdict.after]

/-- A launch that goes on has no more effect. -/
theorem launchEngine_wait {q : Nat} {c : QCmd} {s t : State} (h : launchCore q c s = .wait t) : launchEngine q c s = .wait t := by
  simp [launchEngine, h, Verdict.after]

section
variable {q : Nat} {c : QCmd} {en : Entry} {s : State} (he : c.engaged = false) (hl : c.length ≤ 128)
  (ha : c.field 32 8 < 2 ^ 48) (hz : c.reservedZero [(16, 8), (24, 2), (32, 8)] = true) (hen : entryOf s (c.field 24 2) = some en)
include he hl ha hz hen

/-- A sound launch on no tile settles with OK_EMPTY (R72). -/
theorem launchCore_empty (h0 : c.field 16 8 = 0) : launchCore q c s = .done Status.okEmpty 0 s := by
  unfold launchCore
  simp only [he, Bool.false_eq_true, if_false]
  rw [if_neg (by simp [hz]; omega), hen]
  exact if_pos h0

variable (hm : c.field 16 8 < 2 ^ 48) (h0 : c.field 16 8 ≠ 0)
  (hi : (setBitsOf (c.field 16 8) 48).find? (fun t => decide ((idleThreads s t (cmdCtx s q c)).length < c.length)) = none)
include hm h0 hi

/-- A sound launch with idle threads enough and no frame to run in is opened, and its threads start (R72, R73). -/
theorem launchCore_opens (hno : ∀ f, (ctx s (cmdCtx s q c)).frame = some f → f.launch = none → f.release ≤ c.startedAt →
      fget s (Reg.QMGR_CTX_RT_ENTRY_ID (cmdCtx s q c)) ≠ c.field 24 2) {u : State}
    (hu : u = { modCmd s q c.n (fun d => { d with engaged := true }) with
      launches := s.launches ++
        [⟨s.nextLaunch, cmdCtx s q c, q, c.n, c.field 24 2, c.length, 0, [], false, false, c.startedAt, false, none⟩]
      nextLaunch := s.nextLaunch + 1 }) :
    launchCore q c s = .wait (startThreads (cmdCtx s q c) s.nextLaunch
      (imageVa + en.code.getD (((findLaunch u s.nextLaunch).map (·.level)).getD 0) 0) (c.field 32 8) c.length
      (setBitsOf (c.field 16 8) 48).length 0 (setBitsOf (c.field 16 8) 48) u) := by
  unfold launchCore
  simp only [he, Bool.false_eq_true, if_false]
  rw [if_neg (by simp [hz]; omega), hen]
  simp only [if_neg h0, hi]
  cases hf : (ctx s (cmdCtx s q c)).frame with
  | none => rw [hu]
  | some f => simp only [if_neg fun (⟨hl, hr, hid⟩ : _ ∧ _ ∧ _) => hno f hf hl hr hid]; rw [hu]

/-- A sound launch with idle threads enough, of the entry of an open frame without a launch, runs in that frame at the level that meets
its deadline (R246, R247). -/
theorem launchCore_opensInFrame {f : CFrame} (hf : (ctx s (cmdCtx s q c)).frame = some f) (hfl : f.launch = none)
    (hr : f.release ≤ c.startedAt) (hid : fget s (Reg.QMGR_CTX_RT_ENTRY_ID (cmdCtx s q c)) = c.field 24 2) {l : Launch} {u v w : State}
    (hl' : l = ⟨s.nextLaunch, cmdCtx s q c, q, c.n, c.field 24 2, c.length, 0, [], false, false, c.startedAt, false, none⟩)
    (hu : u = { modCmd s q c.n (fun d => { d with engaged := true }) with launches := s.launches ++ [l], nextLaunch := s.nextLaunch + 1 })
    (hv : v = setCtx u (cmdCtx s q c) { ctx u (cmdCtx s q c) with frame := some { f with launch := some s.nextLaunch } })
    (hw : w = riseLevel v l 0 (chooseLevel v en.wcet (fget v (Reg.QMGR_CTX_SCHED_MARGIN (cmdCtx s q c))) f.deadline en.levels 4 0)) :
    launchCore q c s = .wait (startThreads (cmdCtx s q c) s.nextLaunch
      (imageVa + en.code.getD (((findLaunch w s.nextLaunch).map (·.level)).getD 0) 0) (c.field 32 8) c.length
      (setBitsOf (c.field 16 8) 48).length 0 (setBitsOf (c.field 16 8) 48) w) := by
  unfold launchCore
  simp only [he, Bool.false_eq_true, if_false]
  rw [if_neg (by simp [hz]; omega), hen]
  simp only [if_neg h0, hi, hf, if_pos (show _ ∧ _ ∧ _ from ⟨hfl, hr, hid⟩)]
  subst hl' hu hv hw
  rfl

end

/-- SHARE_ZERO of idle tiles whose shares are large enough (R75). -/
theorem shareZeroEngine_ok {q : Nat} {c : QCmd} {s : State} (hz : c.reservedZero [(16, 8)] = true) (hm : c.field 16 8 < 2 ^ 48)
    (h0 : c.field 16 8 ≠ 0)
    (ht : ∀ t ∈ setBitsOf (c.field 16 8) 48,
      c.length ≤ fget s (Reg.TILE_SHARE_SIZE t (cmdCtx s q c)) ∧ tileThreadsBusy s t (cmdCtx s q c) = false) :
    shareZeroEngine q c s = okay (forEach (setBitsOf (c.field 16 8) 48) (fun t u =>
      memZero u (tileAddr t (fget u (Reg.TILE_SHARE_BASE t (cmdCtx s q c)) * 0x10000)) (c.length * 0x10000)) s) := by
  have hfit : ¬ (setBitsOf (c.field 16 8) 48).any (fun t =>
      decide (fget s (Reg.TILE_SHARE_SIZE t (cmdCtx s q c)) < c.length) || tileThreadsBusy s t (cmdCtx s q c)) = true := by
    rw [List.any_eq_true]
    rintro ⟨t, hmem, hbad⟩
    obtain ⟨hsize, hbusy⟩ := ht t hmem
    simp [hbusy, Nat.not_lt.2 hsize] at hbad
  unfold shareZeroEngine
  simp only
  rw [if_neg (by simp [hz]; omega), if_neg hfit, if_neg h0]

/-- PERF_SNAPSHOT whose store completes (R76). -/
theorem perfEngine_ok {q : Nat} {c : QCmd} {s t : State} (hz : c.reservedZero [(16, 8), (24, 8)] = true) (hm : c.field 16 8 < 2 ^ 48)
    (h0 : c.field 16 8 ≠ 0) (hl : c.length ≤ 6) (al : c.field 24 8 % 8 = 0) (hd : c.field 24 8 < 2 ^ 48)
    (hw : vaWrite s (cmdCtx s q c) (c.field 24 8) ((setBitsOf (c.field 16 8) 48).flatMap fun t =>
      (List.range c.length).flatMap fun k => leBytes 8 (perfValue s t k)) = .ok t) :
    perfEngine q c s = okay { t with free := t.free + 512 } := by
  unfold perfEngine
  simp only
  rw [if_neg (by simp [hz, al]; omega), if_neg h0, hw]

/-- Settles O28: the engine of each command decides it, or takes it on. -/
theorem computeCommandsComplete : Obligations.ComputeCommandsComplete := by
  refine ⟨?empty, ?opens, ?inFrame, ?zero, ?snapshot⟩
  case empty =>
    intro q n c en s h he hl h0 ha hz hen
    exact runEngine_done h (launchEngine_done (launchCore_empty he hl ha hz hen h0))
  case opens =>
    intro q n c en s h he hl h0 hm ha hz hen hi hno
    exact ⟨_, runEngine_wait h (launchEngine_wait (launchCore_opens he hl ha hz hen hm h0 hi hno rfl)), rfl⟩
  case inFrame =>
    intro q n c en f s h he hl h0 hm ha hz hen hi hf hfl hr hid
    exact ⟨_, _, _, _, rfl, rfl, rfl, rfl, runEngine_wait h
      (launchEngine_wait (launchCore_opensInFrame he hl ha hz hen hm h0 hi hf hfl hr hid rfl rfl rfl rfl))⟩
  case zero =>
    intro q n c s h hz hm h0 ht
    exact runEngine_done h (shareZeroEngine_ok hz hm h0 ht)
  case snapshot =>
    intro q n c s t h hz hm h0 hl al hd hw
    exact runEngine_done h (perfEngine_ok hz hm h0 hl al hd hw)

/-! ### Tile registers -/

section
variable {a : Agent} {tile t c : Nat} {s : State}

/-- A write of a word of a tile that is a register of its own reaches the tile (R8, R33). -/
theorem regRow_tile {o off v : Nat} (hv : alive s = true) (ha : mayAccess a = true) (ht : tile < 48) (ho : o < 0x100000) (h4 : o % 4 = 0)
    (e : off = 0x1000000 + 0x100000 * tile + o) (hp : pairLow off = none) : regRow a off v s = .next (tileWrite tile o v s) := by
  rw [regRow_word hv (by omega) (by omega) (slotRefuses_other (by omega) (by omega)) ha hp, e, slotWrite_tile ht ho]

/-! Which rule a tile's write follows, by offset. -/

theorem tileWrite_share {v : Nat} (hc : c < 64) : tileWrite tile (0x200 + 4 * c) v s = shareWrite tile c v s := by
  unfold tileWrite
  rw [if_neg (by omega), if_neg (by omega), if_neg (by omega), if_pos (by omega), show (0x200 + 4 * c - 0x200) / 4 = c by omega]

theorem tileWrite_thr {v : Nat} (ht : t < 128) : tileWrite tile (0x400 + 4 * t) v s = thrWrite tile t v s := by
  unfold tileWrite
  rw [if_neg (by omega), if_neg (by omega), if_neg (by omega), if_neg (by omega), if_pos (by omega),
    show (0x400 + 4 * t - 0x400) / 4 = t by omega]

theorem tileWrite_dbg {v : Nat} (ht : t < 128) : tileWrite tile (0xC00 + 4 * t) v s = dbgWrite tile t v s := by
  unfold tileWrite
  rw [if_neg (by omega), if_neg (by omega), if_neg (by omega), if_neg (by omega), if_neg (by omega), if_pos (by omega),
    show (0xC00 + 4 * t - 0xC00) / 4 = t by omega]

theorem tileWrite_dbgReg {r v : Nat} (ht : t < 128) (hr : r < 32) :
    tileWrite tile (0x1000 + (256 * t + 8 * r)) v s = dbgRegWrite tile t r v s := by
  unfold tileWrite
  rw [if_neg (by omega), if_neg (by omega), if_neg (by omega), if_neg (by omega), if_neg (by omega), if_neg (by omega),
    if_pos (by omega), show (0x1000 + (256 * t + 8 * r) - 0x1000) / 256 = t by omega,
    show (0x1000 + (256 * t + 8 * r) - 0x1000) / 8 % 32 = r by omega]

/-! What each row of a tile register writes. -/

section
variable (hv : alive s = true) (ha : mayAccess a = true) (ht : tile < 48)
include hv ha ht

theorem exec_tileShareWrite (v : Word) (hc : c < 64) : exec (.tileShareWrite a tile c v) s = .next (shareWrite tile c v.toNat s) := by
  show regRowIf _ _ _ _ _ = _
  rw [regRowIf, if_pos (decide_eq_true ⟨ht, hc⟩),
    regRow_tile (o := 0x200 + 4 * c) hv ha ht (by omega) (by omega) (by unfold Reg.TILE_SHARE; omega) (pairLow_tileShare ht hc),
    tileWrite_share hc]

/-- A row of TILE_THR. -/
theorem regRowIf_thr (v : Nat) (hk : t < 128) (hc : c < 64) :
    regRowIf (decide (tile < 48 ∧ t < 128 ∧ c < 64)) a (Reg.TILE_THR tile t) v s = .next (thrWrite tile t v s) := by
  rw [regRowIf, if_pos (decide_eq_true ⟨ht, hk, hc⟩),
    regRow_tile (o := 0x400 + 4 * t) hv ha ht (by omega) (by omega) (by unfold Reg.TILE_THR; omega) (pairLow_tileThr ht hk),
    tileWrite_thr hk]

/-- A row of TILE_DBG. -/
theorem regRowIf_dbg (v : Nat) (hk : t < 128) :
    regRowIf (decide (tile < 48 ∧ t < 128)) a (Reg.TILE_DBG tile t) v s = .next (dbgWrite tile t v s) := by
  rw [regRowIf, if_pos (decide_eq_true ⟨ht, hk⟩),
    regRow_tile (o := 0xC00 + 4 * t) hv ha ht (by omega) (by omega) (by unfold Reg.TILE_DBG; omega) (pairLow_tileDbg ht hk),
    tileWrite_dbg hk]

theorem exec_perfClear : exec (.perfClear a tile) s = .next (tileCtrlWrite tile (2 + fget s (Reg.TILE_CTRL_ISSUE_EN tile)) s) := by
  show regRowIf _ _ _ _ _ = _
  rw [regRowIf, if_pos (decide_eq_true ht),
    regRow_tile (o := 4) hv ha ht (by omega) (by omega) (by unfold Reg.TILE_CTRL; omega) (pairLow_tileCtrl ht)]
  rfl

theorem exec_tileFaultClear : exec (.tileFaultClear a tile) s = .next (faultClear tile 0x80000000 s) := by
  show regRowIf _ _ _ _ _ = _
  rw [regRowIf, if_pos (decide_eq_true ht),
    regRow_tile (o := 0x10) hv ha ht (by omega) (by omega) (by unfold Reg.TILE_FAULT; omega) (pairLow_tileFault ht)]
  rfl

end

/-! TILE_THR (R71): bit 13 assigns, bit 14 releases. -/

theorem assign_bits (hc : c < 64) : bitAt (0x2000 + c) 13 = true ∧ bitAt (0x2000 + c) 14 = false ∧ (0x2000 + c) % 64 = c := by
  refine ⟨decide_eq_true ?_, decide_eq_false ?_, by omega⟩ <;> omega

theorem release_bits (hc : c < 64) : bitAt (0x4000 + c) 13 = false ∧ bitAt (0x4000 + c) 14 = true ∧ (0x4000 + c) % 64 = c := by
  refine ⟨decide_eq_false ?_, decide_eq_true ?_, by omega⟩ <;> omega

theorem thrWrite_assign (hc : c < 64) (h : (thread s tile t).state = .unassigned) :
    thrWrite tile t (0x2000 + c) s = setThread s tile t { thread s tile t with state := .idle, ctx := c, pc := 0 } := by
  obtain ⟨h13, h14, hmod⟩ := assign_bits hc
  simp [thrWrite, thrOk, thrEffect, h, h13, h14, hmod]

theorem thrWrite_assign_refused (hc : c < 64) (h : (thread s tile t).state ≠ .unassigned) :
    thrWrite tile t (0x2000 + c) s = raise s 0x2002 tile [] := by
  obtain ⟨h13, -, -⟩ := assign_bits hc
  have hno : thrOk (thread s tile t) (0x2000 + c) = false := by
    unfold thrOk
    split
    · contradiction
    · rw [h13]; rfl
    · rw [h13]; rfl
  rw [thrWrite, hno]; rfl

theorem thrWrite_release (hc : c < 64) (h : (thread s tile t).state = .idle) (hx : (thread s tile t).ctx = c) :
    thrWrite tile t (0x4000 + c) s = setThread s tile t { thread s tile t with state := .unassigned, pc := 0 } := by
  obtain ⟨h13, h14, hmod⟩ := release_bits hc
  simp [thrWrite, thrOk, thrEffect, h, h13, h14, hmod, hx]

theorem thrWrite_release_refused (hc : c < 64) (h : (thread s tile t).state ≠ .idle ∨ (thread s tile t).ctx ≠ c) :
    thrWrite tile t (0x4000 + c) s = raise s 0x2002 tile [] := by
  obtain ⟨-, h14, hmod⟩ := release_bits hc
  have hno : thrOk (thread s tile t) (0x4000 + c) = false := by
    unfold thrOk
    split
    · rw [h14]; rfl
    · rename_i hidle
      have hx : c ≠ (thread s tile t).ctx := (h.resolve_left fun hne => hne hidle).symm
      rw [hmod, decide_eq_false hx, Bool.and_false]
    · rw [h14, Bool.not_true, Bool.and_false, Bool.false_and]
  rw [thrWrite, hno]; rfl

/-! TILE_DBG (R593): bit 0 halts, bit 1 resumes, bit 2 steps. -/

theorem dbgWrite_taken {v : Nat} (h : dbgOk (thread s tile t) v = true) :
    dbgWrite tile t v s = rescheduleAll (setThread s tile t (dbgEffect (thread s tile t) v)) := if_pos h

theorem dbgWrite_refused {v : Nat} (h : dbgOk (thread s tile t) v = false) : dbgWrite tile t v s = raise s 0x2002 tile [] :=
  if_neg (by simp [h])

/-- HALT names a READY or WAITING thread. -/
theorem dbgOk_halt (th : Thread) : dbgOk th 1 = th.busy := by
  simp [dbgOk, bitAt]

/-- RESUME names a halted thread. -/
theorem dbgOk_resume (th : Thread) : dbgOk th 2 = decide (th.state = .debugHalt) := by
  simp [dbgOk, bitAt]

/-- STEP names a halted thread. -/
theorem dbgOk_step (th : Thread) : dbgOk th 4 = decide (th.state = .debugHalt) := by
  simp [dbgOk, bitAt]

end

/-! A whole write of a 64-bit register (R33). -/

section
variable {a : Agent} {p : PcieCompletion} {off low v : Nat} {s : State}

/-- The high word is held. -/
theorem windowWrite_high (hs : slotRefuses a off = false) (ha : mayAccess a = true) (hp : pairLow off = some low) (hl : off ≠ low)
    (ht : low ≠ Reg.TIME_SET) :
    windowWrite a p off v s = { s with held := storeSet (fun _ => none) s.held low (some (BitVec.ofNat 32 v)) } := by
  simp [windowWrite, hs, ha, hp, hl, ht]

/-- The low word takes effect with the high word held for it. -/
theorem windowWrite_low (hs : slotRefuses a off = false) (ha : mayAccess a = true) (hp : pairLow off = some off)
    (ht : off ≠ Reg.TIME_SET) :
    windowWrite a p off v s = slotWrite a p off (v + 2 ^ 32 * highHeld s off) (heldCleared s off) := by
  simp [windowWrite, hs, ha, hp, ht]

/-- The high word held is the one written last. -/
theorem highHeld_held (w : Word) :
    highHeld { s with held := storeSet (fun _ => none) s.held off (some w) } off = w.toNat := by
  unfold highHeld
  rw [storeGet_set_of_ne (d := fun _ => none) off (some w) (by simp)]

end

/-- The high word of a 64-bit value. -/
theorem high_word (v : DWord) : BitVec.ofNat 32 (v.toNat / 2 ^ 32) = v.extractLsb' 32 32 := by
  apply BitVec.eq_of_toNat_eq
  simp [Nat.shiftRight_eq_div_pow]

/-- A write of both words of TILE_DBG_REG reaches the tile whole. -/
theorem exec_tileDbgRegWrite {a : Agent} {tile t r : Nat} {v : DWord} {s u : State} (hv : alive s = true) (ha : mayAccess a = true)
    (ht : tile < 48) (hk : t < 128) (hr : r < 32)
    (hu : u = heldCleared { s with held := storeSet (fun _ => none) s.held (Reg.TILE_DBG_REG tile t r) (some (v.extractLsb' 32 32)) }
      (Reg.TILE_DBG_REG tile t r)) :
    exec (.tileDbgRegWrite a tile t r v) s = .next (dbgRegWrite tile t r v.toNat u) := by
  have e : Reg.TILE_DBG_REG tile t r = 0x1000000 + 0x100000 * tile + (0x1000 + (256 * t + 8 * r)) := by
    unfold Reg.TILE_DBG_REG; omega
  have htime : Reg.TILE_DBG_REG tile t r ≠ Reg.TIME_SET := by
    have : Reg.TIME_SET < 0x1000000 := by decide
    omega
  have hwhole : v.toNat % 2 ^ 32 + 2 ^ 32 * (v.extractLsb' 32 32).toNat = v.toNat := by
    have := v.isLt
    rw [← high_word, BitVec.toNat_ofNat]; omega
  show execTileDbgRegWrite a tile t r v s = _
  rw [execTileDbgRegWrite, if_pos ⟨ht, hk, hr⟩, regRow64, whenAlive_alive hv,
    windowWrite_high (slotRefuses_other (by omega) (by omega)) ha (pairLow_tileDbgRegHigh ht hk hr) (by omega) htime, high_word,
    windowWrite_low (slotRefuses_other (by omega) (by omega)) ha (pairLow_tileDbgReg ht hk hr) htime, highHeld_held, hwhole, ← hu]
  rw [e, slotWrite_tile ht (by omega), tileWrite_dbgReg hk hr]

/-- Settles O52: each row by the rule of its register. -/
theorem tileRowsComplete : Obligations.TileRowsComplete := by
  refine ⟨?share, ?assign, ?assignRefused, ?release, ?releaseRefused, ?perf, ?fault, ?halt, ?haltLater, ?haltRefused, ?resume,
    ?resumeRefused, ?reg⟩
  case share =>
    intro a tile c v s hv ha ht hc
    exact exec_tileShareWrite hv ha ht v hc
  case assign =>
    intro a tile t c s hv ha ht hk hc hstate
    exact (regRowIf_thr hv ha ht _ hk hc).trans (congrArg _ (thrWrite_assign hc hstate))
  case assignRefused =>
    intro a tile t c s hv ha ht hk hc hstate
    exact (regRowIf_thr hv ha ht _ hk hc).trans (congrArg _ (thrWrite_assign_refused hc hstate))
  case release =>
    intro a tile t c s hv ha ht hk hc hstate hx
    exact (regRowIf_thr hv ha ht _ hk hc).trans (congrArg _ (thrWrite_release hc hstate hx))
  case releaseRefused =>
    intro a tile t c s hv ha ht hk hc hstate
    exact (regRowIf_thr hv ha ht _ hk hc).trans (congrArg _ (thrWrite_release_refused hc hstate))
  case perf =>
    intro a tile s hv ha ht
    have hbit : bitAt (2 + fget s (Reg.TILE_CTRL_ISSUE_EN tile)) 1 = true := by
      have : fget s (Reg.TILE_CTRL_ISSUE_EN tile) < 2 := Nat.mod_lt _ (Nat.two_pow_pos 1)
      exact decide_eq_true (by omega)
    exact (exec_perfClear hv ha ht).trans (congrArg _ (if_pos hbit))
  case fault =>
    intro a tile s hv ha ht
    exact exec_tileFaultClear hv ha ht
  case halt =>
    intro a tile t s hv ha ht hk hstate
    have hok := (dbgOk_halt (thread s tile t)).trans (decide_eq_true (.inl hstate))
    refine (regRowIf_dbg hv ha ht 1 hk).trans (congrArg _ ((dbgWrite_taken hok).trans ?_))
    simp [dbgEffect, bitAt, hstate]
  case haltLater =>
    intro a tile t s hv ha ht hk hstate
    have hok := (dbgOk_halt (thread s tile t)).trans (decide_eq_true (.inr hstate))
    refine (regRowIf_dbg hv ha ht 1 hk).trans (congrArg _ ((dbgWrite_taken hok).trans ?_))
    simp [dbgEffect, bitAt, hstate]
  case haltRefused =>
    intro a tile t s hv ha ht hk hbusy
    exact (regRowIf_dbg hv ha ht 1 hk).trans (congrArg _ (dbgWrite_refused ((dbgOk_halt _).trans hbusy)))
  case resume =>
    intro a tile t s hv ha ht hk hstate
    constructor
    · exact (regRowIf_dbg hv ha ht 2 hk).trans (congrArg _ (dbgWrite_taken ((dbgOk_resume _).trans (decide_eq_true hstate))))
    · exact (regRowIf_dbg hv ha ht 4 hk).trans (congrArg _ (dbgWrite_taken ((dbgOk_step _).trans (decide_eq_true hstate))))
  case resumeRefused =>
    intro a tile t s hv ha ht hk hstate
    constructor
    · exact (regRowIf_dbg hv ha ht 2 hk).trans (congrArg _ (dbgWrite_refused ((dbgOk_resume _).trans (decide_eq_false hstate))))
    · exact (regRowIf_dbg hv ha ht 4 hk).trans (congrArg _ (dbgWrite_refused ((dbgOk_step _).trans (decide_eq_false hstate))))
  case reg =>
    intro a tile t r v s hv ha ht hk hr hstate
    refine ⟨_, (exec_tileDbgRegWrite hv ha ht hk hr rfl).trans ?_, rfl⟩
    exact congrArg _ ((if_pos hstate).trans (by rw [BitVec.ofNat_toNat, BitVec.setWidth_eq]; rfl))

end Sys2Proof.Machine
end

section
/-! SUPPORT. The memory tiers: the pages that move commands take, the configuration registers of contexts, loops and ring ports, and what
a store of a command's result leaves (chapter 4 of the spec). -/

namespace Sys2Proof.Machine

/-! ### Stores (R114, R115, R117) -/

/-- A result of a command changes memory, the marks of unreadable units and the page tables' old entries, and no byte outside its
pieces. -/
theorem opWrite_frame {s v : State} {q va : Nat} {bs : List Byte} {ps : List (Nat × Nat)} (w : Sound s)
    (hp : opPieces s q va bs.length .write = .ok ps) (h : opWrite s q va bs = .ok v) :
    v = { s with mem := v.mem, uncorr := v.uncorr, stale := v.stale }
      ∧ ∀ a : Nat, (∀ p ∈ ps, a < p.1 ∨ p.1 + p.2 ≤ a) → memByte v a = memByte s a := by
  have hv : v = writePieces s ps bs := by
    simp only [opWrite, hp] at h
    split at h <;> cases h
    rfl
  rw [hv]
  exact writePieces_frame ps s bs w

/-- Settles O57: a context's store and a command's result both write over the pieces of their range. -/
theorem storesTouchTheirPieces : Obligations.StoresTouchTheirPieces :=
  ⟨fun _ _ _ _ _ _ w hp h => vaWrite_frame w hp h, fun _ _ _ _ _ _ w hp h => opWrite_frame w hp h⟩

/-! ### Configuration registers -/

section
variable {a : Agent} {off v : Nat} {s : State}

/-- A row's write of a register that is a word of its own takes effect at its slot. -/
theorem regRowIf_word {ok : Bool} (hok : ok = true) (hv : alive s = true) (ha : mayAccess a = true) (h4 : off % 4 = 0)
    (hw : off < 0x4000000) (hsafe : off / 0x100000 ≠ 0x0B) (hsec : off / 0x100000 ≠ 0x01) (hp : pairLow off = none) :
    regRowIf ok a off v s = .next (slotWrite a .timeout off v s) :=
  (if_pos hok).trans (regRow_word hv h4 hw (slotRefuses_other hsafe hsec) ha hp)

/-- A row's write of the low word of a 64-bit register outside TIME takes effect at its slot, with the high word held for it (R33). -/
theorem regRowIf_low {ok : Bool} (hok : ok = true) (hv : alive s = true) (ha : mayAccess a = true) (h4 : off % 4 = 0)
    (hw : off < 0x4000000) (hsafe : off / 0x100000 ≠ 0x0B) (hsec : off / 0x100000 ≠ 0x01) (htime : off / 0x100000 ≠ 0x03)
    (hp : pairLow off = some off) :
    regRowIf ok a off v s = .next (slotWrite a .timeout off (v + 2 ^ 32 * highHeld s off) (heldCleared s off)) :=
  (if_pos hok).trans (regRow_low hv h4 hw (slotRefuses_other hsafe hsec) ha hp fun e => absurd (congrArg (· / 0x100000) e) htime)

/-! Which rule a write follows, by slot and register. -/

theorem slotWrite_memCtx {c : Nat} (hs : off / 0x100000 = 0x0A) (hc : memCtxOf (off % 0x100000) = some c) :
    slotWrite a .timeout off v s = memCtxStore c off v s := by
  simp only [slotWrite, hs, memSlotWrite, hc]

theorem slotWrite_kvmCtx {c : Nat} (hs : off / 0x100000 = 0x08) (hc : kvmCtxOf (off % 0x100000) = some c) :
    slotWrite a .timeout off v s = kvmCtxStore c off v s := by
  simp only [slotWrite, hs, kvmSlotWrite, hc]

theorem slotWrite_ctl (hs : off / 0x100000 = 0x04) : slotWrite a .timeout off v s = ctlSlotWrite a off v s := by
  simp only [slotWrite, hs]

theorem slotWrite_ringCfg {p : Nat} (hs : off / 0x100000 = 0x05) (hp : ringCfgPort off = some p) :
    slotWrite a .timeout off v s = ringCfgStore p off v s := by
  simp only [slotWrite, hs, ringSlotWrite, hp]

/-- CTL's configuration registers lie in the CTL slot, and CTL_COMMIT is none of them. -/
theorem ctlCfgReg_slot (h : ctlCfgReg off = true) : off / 0x100000 = 0x04 ∧ off ≠ Reg.CTL_COMMIT := by
  have hoff := of_decide_eq_true h
  simp only [Reg.CTL_FRAME_CFG, Reg.CTL_RATE_TRIG, Reg.CTL_GROUP, Reg.CTL_LOOP_CFG] at hoff
  unfold Reg.CTL_COMMIT
  omega

/-- A configuration register of a ring port lies in the RING slot. -/
theorem ringCfgPort_slot {p : Nat} (h : ringCfgPort off = some p) : off / 0x100000 = 0x05 := by
  unfold ringCfgPort at h
  obtain ⟨⟨hs, -⟩, -⟩ := Option.ite_none_right_eq_some.mp h
  exact hs

/-- A write of a CTL configuration register stores what the loops can run with, and is refused otherwise (R277). -/
theorem ctlSlotWrite_cfg (h : ctlCfgReg off = true) (hne : off ≠ Reg.CTL_COMMIT) : ctlSlotWrite a off v s
    = if ctlCfgOk s (storeBoth off v s) off then storeBoth off v s else ctlRefused off s :=
  (if_neg hne).trans (if_pos h)

/-- A row of CTL_COMMIT reaches the register's own rule (R274). -/
theorem exec_ctlCommit (hv : alive s = true) (ha : mayAccess a = true) (w : Word) :
    exec (.ctlCommit a w) s = .next (commitReg a w.toNat s) :=
  regRow_word hv (by decide) (by decide) (slotRefuses_other (by decide) (by decide)) ha pairLow_ctlCommit

end

/-- Settles O54: each row by its slot's rule, for a word of its own and for the low word of a pair. -/
theorem configRowsComplete : Obligations.ConfigRowsComplete := by
  refine ⟨?mem, ?kvm, ?ctl, ?commit, ?commitRefused, ?ring⟩
  case mem =>
    intro a off c v s hv ha h4 hs hc
    have hok : (decide (off / 0x100000 = 0x0A) && (memCtxOf (off % 0x100000)).isSome) = true := by simp [hs, hc]
    constructor
    · intro hp
      exact (regRowIf_word hok hv ha h4 (by omega) (by omega) (by omega) hp).trans (congrArg _ (slotWrite_memCtx hs hc))
    · intro hp
      exact (regRowIf_low hok hv ha h4 (by omega) (by omega) (by omega) (by omega) hp).trans (congrArg _ (slotWrite_memCtx hs hc))
  case kvm =>
    intro a off c v s hv ha h4 hs hc
    have hok : (decide (off / 0x100000 = 0x08) && (kvmCtxOf (off % 0x100000)).isSome) = true := by simp [hs, hc]
    constructor
    · intro hp
      exact (regRowIf_word hok hv ha h4 (by omega) (by omega) (by omega) hp).trans (congrArg _ (slotWrite_kvmCtx hs hc))
    · intro hp
      exact (regRowIf_low hok hv ha h4 (by omega) (by omega) (by omega) (by omega) hp).trans (congrArg _ (slotWrite_kvmCtx hs hc))
  case ctl =>
    intro a off v s hv ha h4 hcfg
    obtain ⟨hs, hne⟩ := ctlCfgReg_slot hcfg
    constructor
    · intro hp
      exact (regRowIf_word hcfg hv ha h4 (by omega) (by omega) (by omega) hp).trans
        (congrArg _ ((slotWrite_ctl hs).trans (ctlSlotWrite_cfg hcfg hne)))
    · intro hp
      exact (regRowIf_low hcfg hv ha h4 (by omega) (by omega) (by omega) (by omega) hp).trans (congrArg _ (slotWrite_ctl hs))
  case commit =>
    intro v s hv
    exact exec_ctlCommit hv rfl v
  case commitRefused =>
    intro a v s hv ha hne
    exact (exec_ctlCommit hv ha v).trans (congrArg _ (if_neg hne))
  case ring =>
    intro a off p v s hv ha h4 hport hp
    have hs := ringCfgPort_slot hport
    exact (regRowIf_word (by simp [hport]) hv ha h4 (by omega) (by omega) (by omega) hp).trans
      (congrArg _ (slotWrite_ringCfg hs hport))

/-! ### Move commands (R122 to R125, R143 to R147) -/

/-- A move command whose row has completed its pages below `i` completes after the last page, and waits for the next before. -/
theorem runEngine_pagesDone {op q n i : Nat} {f : QCmd → State → Verdict} {s u : State} {c : QCmd} (h : Started s q n op c)
    (e : f c s = pagesDone q c i u) :
    runEngine op q n f s = .next (if c.length ≤ i then completeCmd u q n Status.ok 0
      else modCmd u q c.n (fun d => { d with done := i })) := by
  by_cases hi : i < c.length
  · rw [if_neg (by omega)]
    exact runEngine_wait h (e.trans (if_pos hi))
  · rw [if_pos (by omega)]
    exact runEngine_done h (e.trans (if_neg hi))

section
variable {s : State} {q : Nat} {c : QCmd}

/-- A MIGRATE whose range, destination and share are sound reserves its pages and runs (R122, R143, R147). -/
theorem migrateEngine_engage {found : List (Nat × Except PageErr Leaf)} (he : c.engaged = false)
    (hz : c.reservedZero [(16, 8), (24, 2), (32, 8)] = true) (htier : c.field 24 1 ≤ 2) (hflags : c.field 25 1 ≤ 1)
    (hva : c.field 16 8 % 0x1000 = 0) (hdst : c.field 32 8 % 0x1000 = 0) (hva48 : c.field 16 8 < 2 ^ 48) (hdst55 : c.field 32 8 < 2 ^ 55)
    (hfound : found = rangePages s (cmdCtx s q c) (c.field 16 8) c.length 0 c.length) (hread : firstUnread found = none)
    (hfail : failedPages found = [])
    (hpages : ∀ p ∈ goodPages found, p.leaf.mig = false ∧ p.leaf.kind = 0
      ∧ (p.leaf.big = true → c.field 32 8 % 0x200000 = 0 ∧ (c.field 32 8 + 0x1000 * p.index) % 0x200000 = 0))
    (hin : firstUnit c.length (c.field 32 8) (fun a => destIn (c.field 24 1) a 0x1000) = none)
    (hplace : fget s (Reg.MEM_CTX_CFG_PLACE (cmdCtx s q c)) ≠ 0)
    (hshare : ∀ i, i < c.length → destShare s (cmdCtx s q c) (c.field 24 1) (c.field 32 8 + 0x1000 * i) 0x1000 = true) :
    migrateEngine q c s = engage q c (forEach (goodPages found) reservePage s) := by
  have hmig : (goodPages found).filter (fun p => p.leaf.mig) = [] :=
    List.filter_eq_nil_iff.mpr fun p hp => by
      obtain ⟨hm, -, -⟩ := hpages p hp
      simp [hm]
  have hkind : (goodPages found).filter (fun p => decide (p.leaf.kind ≠ 0)) = [] :=
    List.filter_eq_nil_iff.mpr fun p hp => by
      obtain ⟨-, hk, -⟩ := hpages p hp
      simp [hk]
  have hbig : ¬ ((goodPages found).any (fun p => p.leaf.big) = true ∧ c.field 32 8 % 0x200000 ≠ 0) := by
    rintro ⟨hany, hne⟩
    obtain ⟨p, hp, hb⟩ := List.any_eq_true.mp hany
    obtain ⟨-, -, halign⟩ := hpages p hp
    obtain ⟨hd, -⟩ := halign hb
    exact hne hd
  have hpiece : (goodPages found).filter
      (fun p => p.leaf.big && decide ((c.field 32 8 + 0x1000 * p.index) % 0x200000 ≠ 0)) = [] :=
    List.filter_eq_nil_iff.mpr fun p hp => by
      obtain ⟨-, -, halign⟩ := hpages p hp
      simp only [Bool.and_eq_true, decide_eq_true_eq]
      rintro ⟨hb, hne⟩
      exact hne (halign hb).2
  have hflash : (if c.field 24 1 = 2 then
      (firstUnit c.length (c.field 32 8) (fun a => destShare s (cmdCtx s q c) 2 a 0x1000)).toList else []) = [] := by
    split
    · next h2 =>
      have : firstUnit c.length (c.field 32 8) (fun a => destShare s (cmdCtx s q c) 2 a 0x1000) = none :=
        List.find?_eq_none.mpr fun i hi => by simp [h2 ▸ hshare i (List.mem_range.mp hi)]
      rw [this]; rfl
    · rfl
  have hroom : ¬ (c.field 24 1 ≠ 2 ∧ (List.range c.length).any
      (fun i => !destShare s (cmdCtx s q c) (c.field 24 1) (c.field 32 8 + 0x1000 * i) 0x1000) = true) := by
    rintro ⟨-, hany⟩
    obtain ⟨i, hi, hno⟩ := List.any_eq_true.mp hany
    simp [hshare i (List.mem_range.mp hi)] at hno
  subst hfound
  unfold migrateEngine
  rw [if_neg (by simp [he]), if_neg (by simp only [hz, reduceCtorEq, false_or]; omega)]
  simp only [hread, hfail, hmig, hkind, hin, hpiece, hflash, if_neg hbig, if_neg hplace, if_neg hroom, List.map_nil, List.append_nil,
    Option.toList_none, List.min?_nil]

/-- A running MIGRATE moves its next page (R122). -/
theorem migrateEngine_page {l : Leaf} {bs : List Byte} (he : c.engaged = true)
    (hl : pageLeaf s (cmdCtx s q c) (c.field 16 8) c.done = .ok l) (hb : readHome s ⟨c.done, l⟩ = .ok bs) :
    migrateEngine q c s = pagesDone q c (c.done + l.pages) (homeNoted l (movePage s (cmdCtx s q c) (c.field 16 8) (c.field 24 1)
      (c.field 32 8 + 0x1000 * c.done) (bitAt (c.field 25 1) 0) ⟨c.done, l⟩ bs)) := by
  unfold migrateEngine
  rw [if_pos he]
  simp only [migrateStep, hl, hb]

/-- A COPY between ranges that translate and do not overlap runs (R144). -/
theorem copyEngine_engage {as bs : List Nat} (he : c.engaged = false) (hz : c.reservedZero [(16, 16)] = true)
    (hsrc : c.field 16 8 % 0x1000 = 0) (hdst : c.field 24 8 % 0x1000 = 0) (hsrc48 : c.field 16 8 < 2 ^ 48) (hdst48 : c.field 24 8 < 2 ^ 48)
    (hapart : c.field 24 8 + 0x1000 * c.length ≤ c.field 16 8 ∨ c.field 16 8 + 0x1000 * c.length ≤ c.field 24 8)
    (has : tier0Pages s (cmdCtx s q c) (c.field 16 8) false c.length 0 = .ok as)
    (hbs : tier0Pages s (cmdCtx s q c) (c.field 24 8) true c.length 0 = .ok bs) (hdisj : ∀ a ∈ as, a ∉ bs) :
    copyEngine q c s = engage q c s := by
  have hnone : ¬ as.any (fun a => bs.contains a) = true := by
    simpa using hdisj
  unfold copyEngine
  rw [if_neg (by simp [he]), if_neg (by simp only [hz, reduceCtorEq, false_or]; omega)]
  simp only [has, hbs, if_neg hnone]

/-- A running COPY copies its next page (R144). -/
theorem copyEngine_page {a b : Nat} (he : c.engaged = true)
    (ha : tier0Page s (cmdCtx s q c) (c.field 16 8) false c.done = .ok a)
    (hb : tier0Page s (cmdCtx s q c) (c.field 24 8) true c.done = .ok b) (hgood : badUnit s a 0x1000 = none) :
    copyEngine q c s = pagesDone q c (c.done + 1) (noteCorr a 0x1000 (softWrite s b (memRead s a 0x1000))) := by
  unfold copyEngine
  rw [if_pos he]
  simp only [copyStep, ha, hb, hgood]

/-- A FILL of a range that translates runs (R145). -/
theorem fillEngine_engage {as : List Nat} (he : c.engaged = false) (hz : c.reservedZero [(16, 16)] = true)
    (hdst : c.field 16 8 % 0x1000 = 0) (hdst48 : c.field 16 8 < 2 ^ 48)
    (has : tier0Pages s (cmdCtx s q c) (c.field 16 8) true c.length 0 = .ok as) : fillEngine q c s = engage q c s := by
  unfold fillEngine
  rw [if_neg (by simp [he]), if_neg (by simp only [hz, reduceCtorEq, false_or]; omega)]
  simp only [has]

/-- A running FILL fills its next page (R145). -/
theorem fillEngine_page {a : Nat} (he : c.engaged = true) (ha : tier0Page s (cmdCtx s q c) (c.field 16 8) true c.done = .ok a) :
    fillEngine q c s = pagesDone q c (c.done + 1) (softWrite s a (fillPage c)) := by
  unfold fillEngine
  rw [if_pos he]
  simp only [fillStep, ha]

/-- TRANSLATION_INVALIDATE drops the old entries of its range, or all of its context's (R146). -/
theorem invalidateEngine_ok (hz : c.reservedZero [(16, 8), (24, 1)] = true) (hflags : c.field 24 1 ≤ 1)
    (hva : c.field 16 8 % 0x1000 = 0) (hva48 : c.field 16 8 < 2 ^ 48) :
    invalidateEngine q c s = okay (if bitAt (c.field 24 1) 0 then invalidateAll (cmdCtx s q c) s
      else invalidateRange (cmdCtx s q c) (c.field 16 8) (0x1000 * c.length) s) :=
  if_neg (by simp only [hz, reduceCtorEq, false_or]; omega)

end

/-- Settles O31: each engine takes its command up, does a page of it, or completes it. -/
theorem moveCommandsComplete : Obligations.MoveCommandsComplete := by
  refine ⟨?migrate, ?migratePage, ?copy, ?copyPage, ?fill, ?fillPage, ?invalidate⟩
  case migrate =>
    intro q n x c found s h he hz hx htier hflags hva hdst hva48 hdst55 hfound hread hfail hpages hin hplace hshare
    subst hx
    exact runEngine_wait h
      (migrateEngine_engage he hz htier hflags hva hdst hva48 hdst55 hfound hread hfail hpages hin hplace hshare)
  case migratePage =>
    intro q n x c l bs s u h he hx hl hb hu
    subst hx hu
    exact runEngine_pagesDone h (migrateEngine_page he hl hb)
  case copy =>
    intro q n c as bs s h he hz hsrc hdst hsrc48 hdst48 hapart has hbs hdisj
    exact runEngine_wait h (copyEngine_engage he hz hsrc hdst hsrc48 hdst48 hapart has hbs hdisj)
  case copyPage =>
    intro q n a b c s u h he ha hb hgood hu
    subst hu
    exact runEngine_pagesDone h (copyEngine_page he ha hb hgood)
  case fill =>
    intro q n c as s h he hz hdst hdst48 has
    exact runEngine_wait h (fillEngine_engage he hz hdst hdst48 has)
  case fillPage =>
    intro q n a c s u h he ha hu
    subst hu
    exact runEngine_pagesDone h (fillEngine_page he ha)
  case invalidate =>
    intro q n c s h hz hflags hva hva48
    exact runEngine_done h (invalidateEngine_ok hz hflags hva hva48)

end Sys2Proof.Machine
end

section
/-! SUPPORT. What the commands of the key-state unit do: sequences, their data and attention (chapter 5 of the spec). -/

namespace Sys2Proof.Machine

/-- A started key-state command that is ready and that its engine decides completes with that status, after the corrected errors of
its tables' stacks are counted (R137, R173). -/
theorem runEngine_kvDone {op q n x st d : Nat} {used : List (Nat × Nat)} {f : Nat → QCmd → State → Verdict} {c : QCmd} {s t : State}
    (h : Started s q n op c) (hk : kvReady s q n x used c) (e : f x c s = .done st d t) :
    runEngine op q n (kvEngine q n used f) s = .next (completeCmd (noteStacks t) q n st d) := by
  refine runEngine_done h ?_
  rw [kvEngine_ready hk, e]
  rfl

/-! ### Sequence commands (R156, R173) -/

section
variable {x : Nat} {c : QCmd} {s : State}

/-- Sequences that are not wide, or that fit among the eight wide ones of the module, are not refused for room. -/
theorem wideCount_fits {wide : Bool} (h : wide = false ∨ wideCount s + c.length ≤ 8) :
    ¬ (wide = true ∧ 8 < wideCount s + c.length) := by
  rintro ⟨rfl, hover⟩
  rcases h with hnarrow | hfits
  · cases hnarrow
  · omega

/-- SEQ_CREATE of sequences that are all free, within the wide sequences of the module. -/
theorem seqCreateEngine_ok (hflags : c.field 26 1 ≤ 3) (hfree : seqRange s x c.seq c.length false = true)
    (hwide : bitAt (c.field 26 1) 0 = false ∨ wideCount s + c.length ≤ 8) :
    seqCreateEngine x c s = okay (forRange c.length (fun i s =>
      createSeq x c.aux (1 + 2 * (c.field 26 1 % 2) + 4 * (c.field 26 1 / 2)) (c.seq + i) s) s) :=
  (if_neg (by simp [hfree]; omega)).trans (if_neg (wideCount_fits hwide))

/-- SEQ_FREE of sequences that are all VALID. -/
theorem seqFreeEngine_ok (hvalid : seqRange s x c.seq c.length true = true) :
    seqFreeEngine x c s = okay (forRange c.length (fun i s => freeSeq x (c.seq + i) s) s) :=
  if_neg (by simp [hvalid])

/-- SEQ_FORK of a VALID parent into free sequences, within the wide sequences of the module. -/
theorem seqForkEngine_ok (hparent : seqOk s x c.aux = true) (hfree : seqRange s x c.seq c.length false = true)
    (hwide : seqWide s x c.aux = false ∨ wideCount s + c.length ≤ 8) :
    seqForkEngine x c s = okay (forRange c.length (fun i s => forkSeq x c.aux (c.seq + i) s) s) :=
  (if_neg (by simp [hparent, hfree])).trans (if_neg (wideCount_fits hwide))

/-- SEQ_TRUNCATE by no more than the sequence's length. -/
theorem seqTruncateEngine_ok (hseq : seqOk s x c.seq = true) (hlen : c.length ≤ seqLength s x c.seq) :
    seqTruncateEngine x c s = okay (setSeqLength
      (forRange (ceilDiv (seqLength s x c.seq) (seqPage s x c.seq) - ceilDiv (seqLength s x c.seq - c.length) (seqPage s x c.seq))
        (fun i u => dropEntry u x c.seq (ceilDiv (seqLength s x c.seq - c.length) (seqPage s x c.seq) + i)) s)
      x c.seq (seqLength s x c.seq - c.length)) :=
  if_neg (by simp [hseq]; omega)

/-- SEQ_TRIM up to the sequence's length (R156). -/
theorem seqTrimEngine_ok {u : State} (hseq : seqOk s x c.seq = true) (hlen : seqTrimOf s x c.seq + c.length ≤ seqLength s x c.seq)
    (hu : u = memPut s (kvSeqAddr s x c.seq + 4) 4 (seqTrimOf s x c.seq + c.length)) :
    seqTrimEngine x c s = okay (forRange ((seqTrimOf s x c.seq + c.length) / seqPage u x c.seq) (fun i s => dropEntry s x c.seq i) u) := by
  subst hu
  exact if_neg (by simp [hseq]; omega)

end

/-- Settles O29: the engine of each command passes its checks and makes, frees, forks, cuts or trims its sequences. -/
theorem sequenceCommandsComplete : Obligations.SequenceCommandsComplete := by
  refine ⟨?create, ?free, ?fork, ?truncate, ?trim⟩
  case create =>
    intro q n x c s h hk hflags hfree hwide
    exact runEngine_kvDone h hk (seqCreateEngine_ok hflags hfree hwide)
  case free =>
    intro q n x c s h hk hvalid
    exact runEngine_kvDone h hk (seqFreeEngine_ok hvalid)
  case fork =>
    intro q n x c s h hk hparent hfree hwide
    exact runEngine_kvDone h hk (seqForkEngine_ok hparent hfree hwide)
  case truncate =>
    intro q n x c s h hk hseq hlen
    exact ⟨_, runEngine_kvDone h hk (seqTruncateEngine_ok hseq hlen), rfl⟩
  case trim =>
    intro q n x c s h hk hseq hlen
    exact ⟨_, runEngine_kvDone h hk (seqTrimEngine_ok hseq hlen rfl), rfl⟩

/-! ### Data and attention (R158 to R172) -/

section
variable {q x : Nat} {c : QCmd} {s : State}

/-- PREFIX_MATCH into an empty narrow shared sequence, of token IDs that can be read (R166). -/
theorem prefixMatchEngine_ok {toks : List Byte} (hseq : seqOk s x c.seq = true) (hempty : seqLength s x c.seq = 0)
    (hnarrow : seqWide s x c.seq = false) (hshare : seqShare s x c.seq = true) (hlen : c.length ≤ kvPtEntries s x * 16)
    (hva : c.field 32 8 < 2 ^ 48) (hread : vaRead s x (c.field 32 8) (4 * c.length) = .ok toks) {k : Nat} {u : State}
    (hmatch : (k, u) = matchChunks x c.seq (c.length / 16) 0 0 noSlot toks s) :
    prefixMatchEngine q x c s
      = okay (fadd (setSeqLength u x c.seq (16 * k)) (Reg.KVM_CTX_CNT_COUNT x 1) k) (min k 0xFFFF) := by
  unfold prefixMatchEngine
  rw [if_neg (by simp [hseq, hempty, hnarrow, hshare]; omega), hread]
  simp only [← hmatch]

/-- SEQ_EXTEND within the sequence's entries, with slots enough and a last page that can be owned (R161, R163). -/
theorem seqExtendEngine_ok {toks : List Byte} (hseq : seqOk s x c.seq = true)
    (hlen : seqLength s x c.seq + c.length ≤ kvPtEntries s x * seqPage s x c.seq) (hva : c.field 32 8 < 2 ^ 48)
    (hread : vaRead s x (c.field 32 8) (4 * c.length) = .ok toks)
    (hslots : extendNeeds s x c.seq c.length ≤ slotsAvail s x (seqWide s x c.seq))
    (htail : seqLength s x c.seq % seqPage s x c.seq ≠ 0 → cowBad s x c.seq (seqLength s x c.seq / seqPage s x c.seq) = none) :
    seqExtendEngine q x c s = okay (forEach (chunks c.length 4 toks) (fun tok s => addPosition x c.seq tok s)
      (if seqLength s x c.seq % seqPage s x c.seq ≠ 0
        then (ownPage s x c.seq (seqLength s x c.seq / seqPage s x c.seq)).getD s else s)) := by
  have hown : (if seqLength s x c.seq % seqPage s x c.seq ≠ 0
      then cowBad s x c.seq (seqLength s x c.seq / seqPage s x c.seq) else none) = none := by
    split
    · next hpart => exact htail hpart
    · rfl
  unfold seqExtendEngine
  simp only
  rw [if_neg (by simp [hseq]; omega), hread]
  simp only
  rw [if_neg (by omega), hown]

/-- KV_WRITE of positions that the sequence holds, with slots enough for its shared pages and no unit to read that is
uncorrectable (R172). -/
theorem kvWriteEngine_ok {src : List Byte} (hseq : seqOk s x c.seq = true) (htrim : seqTrimOf s x c.seq ≤ c.aux)
    (hlen : c.aux + c.length ≤ seqLength s x c.seq) (hlayer : c.field 24 2 < kvLayers s) (hva : c.field 32 8 < 2 ^ 48)
    (hread : vaRead s x (c.field 32 8) (4 * kvHeads s * kvDim s * c.length) = .ok src)
    (hslots : countIf (sharedPage s x c.seq) (pagesOf (seqPage s x c.seq) c.aux c.length) ≤ slotsAvail s x (seqWide s x c.seq))
    (hpages : ((pagesOf (seqPage s x c.seq) c.aux c.length).filterMap (cowBad s x c.seq)).head? = none)
    (hrows : rowsPartial s x c.seq (c.field 24 2) c.aux c.length = none) {u w : State}
    (hu : u = forEach (pagesOf (seqPage s x c.seq) c.aux c.length) (fun i s => (ownPage s x c.seq i).getD s) s)
    (hw : w = writePositions x c.seq (c.field 24 2) c.aux (chunks c.length (4 * kvHeads s * kvDim s) src) u) :
    kvWriteEngine q x c s = okay (tryPages x c.seq 0 (pagesOf (seqPage s x c.seq) c.aux c.length) w) := by
  subst hu hw
  unfold kvWriteEngine
  simp only
  rw [if_neg (by simp [hseq]; omega), hread]
  simp only
  rw [if_neg (by omega), hpages, hrows]

/-- An ATTEND whose operands are sound is taken with its snapshot and pins, and finishes at once where its tiles run the context
(R158, R171). -/
theorem attendEngine_starts {heads : Nat} {a : Attend} {p1 p2 p3 : List (Nat × Nat)} {u v : State}
    (hnew : s.attends.find? (fun a => decide (a.q = q ∧ a.n = c.n)) = none) (hseq : seqOk s x c.seq = true) (hrows : c.length ≤ 32)
    (hlayer : c.field 24 2 < kvLayers s) (hflags : c.field 26 1 ≤ 1) (hmask0 : c.field 56 8 ≠ 0) (hmask : c.field 56 8 < 2 ^ 48)
    (hepoch : 0 < s32diff c.aux (kvRetired s x)) (hq : c.field 32 8 < 2 ^ 48) (hout : c.field 40 8 < 2 ^ 48)
    (hheads : heads = kvHeads s * fget s Reg.KVM_GEOM_GROUP)
    (hqr : vaRange s x (c.field 32 8) (c.length * heads * kvDim s * 2) .read = .ok p1)
    (hor : vaRange s x (c.field 40 8) (4 * (c.length * heads * kvDim s + c.length * heads)) .write = .ok p2)
    (hmr : (if bitAt (c.field 26 1) 0 then vaRange s x (c.field 48 8) (ceilDiv (seqLength s x c.seq) 8) .read else .ok []) = .ok p3)
    (hshares : ∀ i ∈ setBitsOf (c.field 56 8) 48, c.field 27 1 + 4 ≤ fget s (Reg.TILE_SHARE_SIZE i x))
    (hsnap : attendSnapshot q x c s = (a, u))
    (hv : v = { modCmd u q c.n (fun d => { d with engaged := true }) with attends := u.attends ++ [a] })
    (hrun : attendRuns v x (c.field 56 8) = true) :
    attendEngine q x c s = attendFinish q c a v := by
  have hfit : (setBitsOf (c.field 56 8) 48).find? (fun t => decide (fget s (Reg.TILE_SHARE_SIZE t x) < c.field 27 1 + 4)) = none :=
    List.find?_eq_none.mpr fun t ht => by simpa using hshares t ht
  subst hheads hv
  unfold attendEngine
  rw [hnew]
  simp only
  rw [if_neg (by simp [hseq]; omega), hqr, hor, hmr]
  simp only [hfit, hsnap]
  exact if_pos hrun

/-- A taken ATTEND finishes where its tiles run the context (R171). -/
theorem attendEngine_resumes {a : Attend} (htaken : s.attends.find? (fun a => decide (a.q = q ∧ a.n = c.n)) = some a)
    (hrun : attendRuns s x (c.field 56 8) = true) : attendEngine q x c s = attendFinish q c a s := by
  unfold attendEngine
  rw [htaken]
  exact if_pos hrun

/-- STEP_RETIRE past which no taken ATTEND runs retires its epoch, settles the pending slots and reports new saturation (R159,
R160). -/
theorem stepRetireEngine_ok {sat : Nat} {u w : State} (hbelow : attendBelow s x (wrap32 (kvRetired s x + c.length)) = false)
    (hu : u = settlePending x (fset s (Reg.KVM_CTX_EPOCH_RETIRED x) (wrap32 (kvRetired s x + c.length))))
    (hsat : sat = fget u (Reg.KVM_CTX_CNT_COUNT x 3))
    (hw : w = if (ctx u x).kvSatSeen < sat then raiseCtx u 0x3002 kvIsland x [] else u) :
    stepRetireEngine x c s = okay (setCtx w x { ctx w x with kvSatSeen := sat }) := by
  subst hw hsat hu
  exact if_neg (by simp [hbelow])

end

/-- Settles O30: the engine of each command passes its checks; an ATTEND, new or taken before, settles as its computation does. -/
theorem kvDataCommandsComplete : Obligations.KvDataCommandsComplete := by
  refine ⟨?prefixMatch, ?extend, ?write, ?attend, ?attendTaken, ?retire⟩
  case prefixMatch =>
    intro q n x c toks s h hk hseq hempty hnarrow hshare hlen hva hread
    exact ⟨_, _, rfl, runEngine_kvDone h hk (prefixMatchEngine_ok hseq hempty hnarrow hshare hlen hva hread rfl)⟩
  case extend =>
    intro q n x c toks s h hk hseq hlen hva hread hslots htail
    exact runEngine_kvDone h hk (seqExtendEngine_ok hseq hlen hva hread hslots htail)
  case write =>
    intro q n x c src s h hk hseq htrim hlen hlayer hva hread hslots hpages hrows
    exact ⟨_, _, rfl, rfl,
      runEngine_kvDone h hk (kvWriteEngine_ok hseq htrim hlen hlayer hva hread hslots hpages hrows rfl rfl)⟩
  case attend =>
    intro q n x st d heads c a p1 p2 p3 s u t h hk hnew hseq hrows hlayer hflags hmask0 hmask hepoch hq hout hheads hqr hor hmr
      hshares hsnap hrun hfin
    exact runEngine_kvDone h hk ((attendEngine_starts hnew hseq hrows hlayer hflags hmask0 hmask hepoch hq hout hheads hqr hor hmr
      hshares hsnap rfl hrun).trans hfin)
  case attendTaken =>
    intro q n x st d c a s t h hk htaken hrun hfin
    exact runEngine_kvDone h hk ((attendEngine_resumes htaken hrun).trans hfin)
  case retire =>
    intro q n x sat c s u h hk hbelow hu hsat
    exact ⟨_, rfl, runEngine_kvDone h hk (stepRetireEngine_ok hbelow hu hsat rfl)⟩

end Sys2Proof.Machine
end

section
/-! SUPPORT. What the queue manager does: the status of a command, the rows of its events, the FENCE, and the writes of its registers
(chapter 7 of the spec). -/

namespace Sys2Proof.Machine

/-! ### Commands by number (R207, R216, R446) -/

/-- A change of command `n` that keeps its number reaches command `n` of its queue and no other command of it. -/
theorem findCmd_modCmd {s : State} {q n m : Nat} {f : QCmd → QCmd} (w : Sound s) (hf : ∀ c, (f c).n = c.n) :
    findCmd (modCmd s q n f) q m = (findCmd s q m).map (fun c => if c.n = n then f c else c) := by
  have hn : ∀ c : QCmd, (if c.n = n then f c else c).n = c.n := by
    intro c
    split
    · exact hf c
    · rfl
  unfold findCmd modCmd
  simp only [queue_setQueue_same _ _ _ w, List.find?_map, Function.comp_def, hn]

/-- A command that is found by its number has it. -/
theorem findCmd_n {s : State} {q n : Nat} {c : QCmd} (h : findCmd s q n = some c) : c.n = n := by
  simpa using List.find?_some h

/-- What a completion makes of the commands of its queue. -/
theorem findCmd_completeCmd {s : State} {q n m st d : Nat} (w : Sound s) :
    findCmd (completeCmd s q n st d) q m = (findCmd s q m).map (fun c => if c.n = n then
      (if c.phase = .complete then c else { c with phase := .complete, status := st, detail := d % 0x10000, time := s.time }) else c) :=
  findCmd_modCmd w fun c => by
    split <;> rfl

/-- Settles O22: the completion reaches the command of its number, which is not complete. -/
theorem statusDecided : Obligations.StatusDecided := by
  intro s q n st d c w hfind hphase
  rw [findCmd_completeCmd w, hfind, Option.map_some, if_pos (findCmd_n hfind), if_neg hphase]

/-! ### Starts, replies and timeouts (R208, R217, R220) -/

/-- The first element that satisfies `p` is the first that satisfies `p` and `r`, where it satisfies `r` too. -/
theorem find?_and_of_find? {α : Type} {p r : α → Bool} {l : List α} {x : α} (h : l.find? p = some x) (hr : r x = true) :
    l.find? (fun y => p y && r y) = some x := by
  obtain ⟨hp, before, after, hl, hbefore⟩ := List.find?_eq_some_iff_append.mp h
  refine List.find?_eq_some_iff_append.mpr ⟨by simp [hp, hr], before, after, hl, ?_⟩
  intro y hy
  have hno : p y = false := by simpa using hbefore y hy
  simp [hno]

section
variable {q : Nat} {c : QCmd} {s : State}

/-- A start serves the next waiting command of the queue whose turn it is (R209). -/
theorem exec_commandStart_served (hnext : nextWaiting s q = some c) (hturn : servedNext s = some q) :
    exec (.commandStart q) s = .next (startCmd s q c) := by
  show execCommandStart q s = _
  unfold execCommandStart
  rw [hnext]
  exact if_pos hturn

/-- The reply of a complete head command is posted when no event record waits to be handed over (R217, R437). -/
theorem exec_replyPost_head {rest : List QCmd} (hout : (queue s q).out = c :: rest) (hphase : c.phase = .complete)
    (hraised : s.tansy.raised = []) (hfed : phaseUp s 5 = true) : exec (.replyPost q) s = .next (postReply s q c) := by
  show execReplyPost q s = _
  unfold execReplyPost
  rw [hout]
  exact if_pos ⟨hphase, hraised, hfed⟩

/-- A FENCE past its timeout raises 0x2043 with the first queue that it still waits for, and completes with CONTEXT_FAULT; on a
context's queue it ends the context (R220). -/
theorem exec_fenceTimeout_expired {i : Nat} {u : State}
    (hfind : (queue s q).out.find? (fun c => decide (c.phase = .started ∧ c.opcode = 0x0700) && c.engaged) = some c)
    (hon : fget s Reg.QMGR_FENCE_TIMEOUT_MS ≠ 0) (hlate : c.startedAt + fget s Reg.QMGR_FENCE_TIMEOUT_MS * 1000000 < s.time)
    (hi : i = c.captured.findIdx (fun w => decide (w ≠ .reached)))
    (hu : u = completeCmd (raiseCtx s 0x2043 69 (queueCtx s q) (u16 q ++ leBytes 4 c.tag ++ u16 (c.field (16 + 2 * i) 2)))
      q c.n Status.contextFault i) :
    exec (.fenceTimeout q) s = .next (if isMgmt q then u else beginTeardown u (owner u q) 4 (some (q, c.n, i))) := by
  have hdue := find?_and_of_find? (r := fun c => decide (fget s Reg.QMGR_FENCE_TIMEOUT_MS ≠ 0
    ∧ c.startedAt + fget s Reg.QMGR_FENCE_TIMEOUT_MS * 1000000 < s.time)) hfind (decide_eq_true ⟨hon, hlate⟩)
  subst hi hu
  show execFenceTimeout q s = _
  unfold execFenceTimeout
  simp only [hdue]

/-! ### FENCE (R219, R220) -/

theorem fenceEngine_empty {reached off other : List Nat} (hlen : c.length = 0) :
    fenceEngine q reached off other c s = .done Status.okEmpty 0 s :=
  if_pos hlen

section
variable (hpos : 0 < c.length) (hmax : c.length ≤ 8) (hres : c.reservedZero [(16, 2 * c.length)] = true) (heng : c.engaged = true)
include hpos hmax hres heng

/-- An engaged FENCE takes the answers of other modules: a queue that is reached settles its entries and lets the FENCE go on (R219). -/
theorem fenceEngine_reached {reached : List Nat} :
    fenceEngine q reached [] [] c s = .wait (settleFences (modCmd s q c.n (fun d => { d with
      captured := (c.captured.zip (List.range c.captured.length)).map (fun e =>
        if e.1.isRemote && reached.contains e.2 then FenceWait.reached else e.1) }))) := by
  have hnone (l : List (FenceWait × Nat)) : l.find? (fun e => ([] : List Nat).contains e.2 && e.1.isRemote) = none :=
    List.find?_eq_none.mpr fun e _ => by simp
  unfold fenceEngine
  simp only
  rw [if_neg (by omega), if_neg (by omega), if_neg (by simp [hres]), if_neg (by simp [heng]), hnone]
  rfl

/-- An engaged FENCE ends with INVALID_PARAM at the first entry whose queue another module finds off (R220). -/
theorem fenceEngine_off {reached off other : List Nat} {i : Nat}
    (hoff : ((c.captured.zip (List.range c.captured.length)).find? (fun e => off.contains e.2 && e.1.isRemote)).map (·.2) = some i) :
    fenceEngine q reached off other c s = .done Status.invalidParam i s := by
  unfold fenceEngine
  simp only
  rw [if_neg (by omega), if_neg (by omega), if_neg (by simp [hres]), if_neg (by simp [heng]), hoff]
  rfl

end

end

/-- Settles O20: each event by its row's rule, and the FENCE by what its engine makes of the answers. -/
theorem queueEventsComplete : Obligations.QueueEventsComplete := by
  refine ⟨?start, ?reply, ?timeout, ?empty, ?reached, ?off⟩
  case start =>
    intro q c s hnext hturn
    exact exec_commandStart_served hnext hturn
  case reply =>
    intro q c rest s hout hphase hraised hfed
    exact exec_replyPost_head hout hphase hraised hfed
  case timeout =>
    intro q c s hfind hon hlate
    exact ⟨_, _, rfl, rfl, exec_fenceTimeout_expired hfind hon hlate rfl rfl⟩
  case empty =>
    intro q n reached off other c s h hlen
    exact runEngine_done h (fenceEngine_empty hlen)
  case reached =>
    intro q n reached c s h hpos hmax hres heng
    exact runEngine_wait h (fenceEngine_reached hpos hmax hres heng)
  case off =>
    intro q n i reached off other c s h hpos hmax hres heng hoff
    exact runEngine_done h (fenceEngine_off hpos hmax hres heng hoff)

/-! ### Registers of the queue manager (R203, R230, R253) -/

section
variable {a : Agent} {v : Nat} {s : State}

/-! Which rule a write of the QMGR slot follows, by register. -/

theorem slotWrite_doorbell : slotWrite a .timeout Reg.QMGR_DOORBELL v s = doorbellWrite v s := rfl

theorem slotWrite_queueReg {q r : Nat} (hq : q < 16384) (hr : r < 32) :
    slotWrite a .timeout (Reg.QMGR_QCFG q + r) v s = queueRegWrite a q r v s := by
  have hslot : (Reg.QMGR_QCFG q + r) / 0x100000 = 0x09 := by unfold Reg.QMGR_QCFG; omega
  have hoff : (Reg.QMGR_QCFG q + r) % 0x100000 = 0x80000 + (32 * q + r) := by unfold Reg.QMGR_QCFG; omega
  simp only [slotWrite, hslot, qmgrSlotWrite, hoff]
  rw [if_neg (by omega), if_neg (by omega), if_pos (by omega), show (0x80000 + (32 * q + r) - 0x80000) / 32 = q by omega,
    show (0x80000 + (32 * q + r)) % 32 = r by omega]

/-- The registers of queue `q` are words of the row's range, in the QMGR slot. -/
theorem queueReg_row {q r : Nat} (hq : q < 16384) (hr : r < 32) (h4 : r % 4 = 0) :
    decide (Reg.QMGR_QCFG 0 ≤ Reg.QMGR_QCFG q + r ∧ Reg.QMGR_QCFG q + r < Reg.QMGR_QCFG 16384) = true
      ∧ (Reg.QMGR_QCFG q + r) / 0x100000 = 0x09 ∧ (Reg.QMGR_QCFG q + r) % 4 = 0 := by
  unfold Reg.QMGR_QCFG
  refine ⟨decide_eq_true ?_, ?_, ?_⟩ <;> omega

/-- RESET is bit 31 of QMGR_CTX_STATE. -/
theorem slotWrite_ctxState {c : Nat} (hc : c < 64) (hreset : bitAt v 31 = true) :
    slotWrite a .timeout (Reg.QMGR_CTX_STATE c) v s = ctxResetWrite c s := by
  have hslot : Reg.QMGR_CTX_STATE c / 0x100000 = 0x09 := by unfold Reg.QMGR_CTX_STATE; omega
  have hoff : Reg.QMGR_CTX_STATE c % 0x100000 = 0x10000 + 64 * c := by unfold Reg.QMGR_CTX_STATE; omega
  simp only [slotWrite, hslot, qmgrSlotWrite, hoff]
  rw [if_neg (by omega), if_neg (by omega), if_neg (by omega), if_pos (by omega), if_pos hreset,
    show (0x10000 + 64 * c - 0x10000) / 64 = c by omega]

end

/-- Settles O53: each row's write reaches its register's own rule, for a word of its own and for the low word of a pair. -/
theorem queueRowsComplete : Obligations.QueueRowsComplete := by
  refine ⟨?doorbell, ?word, ?low, ?reset⟩
  case doorbell =>
    intro a v s hv ha
    exact (regRow_word hv (by decide) (by decide) (slotRefuses_other (by decide) (by decide)) ha pairLow_doorbell).trans
      (congrArg _ slotWrite_doorbell)
  case word =>
    intro a q r v s hv ha hq hr h4 hp
    obtain ⟨hok, hslot, h4'⟩ := queueReg_row hq hr h4
    exact (regRowIf_word hok hv ha (by omega) (by omega) (by omega) (by omega) hp).trans (congrArg _ (slotWrite_queueReg hq hr))
  case low =>
    intro a q r v s hv ha hq hr h4 hp
    obtain ⟨hok, hslot, h4'⟩ := queueReg_row hq hr h4
    exact (regRowIf_low hok hv ha (by omega) (by omega) (by omega) (by omega) (by omega) hp).trans
      (congrArg _ (slotWrite_queueReg hq hr))
  case reset =>
    intro a c s hv ha hc
    have hoff : Reg.QMGR_CTX_STATE c = 0x910000 + 64 * c := rfl
    exact (regRowIf_word (decide_eq_true hc) hv ha (by omega) (by omega) (by omega) (by omega) (pairLow_ctxState hc)).trans
      (congrArg _ (slotWrite_ctxState hc (by decide)))

end Sys2Proof.Machine
end

section
/-! SUPPORT. What the scheduler's events do: releases and pre-clears, slices and non-preemptible sections, golden frames, teardown and
the initialization of key state (R175, R241, R242, R246, R251 to R253). -/

namespace Sys2Proof.Machine

section
variable {c : Nat} {s : State}

/-! ### Releases (R242, R246) -/

/-- A release that is reached is taken (R246). -/
theorem exec_frameRelease_due {r : Nat} (ha : alive s = true) (hc : c < 64) (hr : (ctx s c).releaseAt = some r) (hdue : r ≤ s.time) :
    exec (.frameRelease c) s = .next (frameRelease c s) := by
  show execFrameRelease c s = _
  unfold execFrameRelease
  rw [whenAlive_alive ha, hr]
  exact if_pos ⟨hc, hdue⟩

/-- While the previous frame is open, a release ends its pre-clear and is skipped (R246). -/
theorem frameRelease_skipped {r : Nat} {p : Plan} (w : Sound s) (hr : (ctx s c).releaseAt = some r) (hp : (ctx s c).plan = some p)
    (hactive : ctxActive s c = true) (hframes : noFrameFor s p = false) (hopen : (ctx s c).frame.isSome = true) :
    frameRelease c s = rescheduleAll (raiseCtx (finc (setCtx s c { ctx s c with releaseAt := none, preclear := none })
      (Reg.QMGR_CTX_CNT_COUNT c 4)) 0x2053 69 c []) := by
  have hruns (x : Ctx) : ¬ (ctxActive (setCtx s c x) c = false ∨ noFrameFor (setCtx s c x) p = true) := by
    show ¬ (ctxActive s c = false ∨ noFrameFor s p = true)
    simp [hactive, hframes]
  have hstill : (ctx (setCtx s c { ctx s c with releaseAt := none, preclear := none }) c).frame.isSome = true := by
    rwa [ctx_setCtx_same s c _ w]
  unfold frameRelease
  rw [hr, hp]
  exact (if_neg (hruns _)).trans (if_pos hstill)

/-- The clear for an exclusive release is requested at most PRECLEAR before it (R242). -/
theorem exec_preclear_requested {r : Nat} {p : Plan} (ha : alive s = true) (hc : c < 64) (hp : (ctx s c).plan = some p)
    (hr : nextRelease s c p = some r) (hactive : ctxActive s c = true) (hexcl : p.excl = true) (hnone : (ctx s c).preclear = none)
    (hawake : inDrowse s = false) (hnear : r ≤ s.time + preclearNs s) {u : State}
    (hu : u = forEach ((bestEffortOn s p.tileMask).map (fun d => (d, runMask s d p.tileMask))) (fun e s => deferClear s e.1 e.2) s) :
    exec (.preclear c) s = .next (rescheduleAll (setCtx u c { ctx u c with preclear := some r })) := by
  subst hu
  show execPreclear c s = _
  unfold execPreclear
  rw [whenAlive_alive ha, hp]
  dsimp only
  rw [hr]
  exact if_pos ⟨hc, hactive, hexcl, hnone, hawake, hnear⟩

/-- A pre-clear ends 1 µs after an expected release that did not come (R242). -/
theorem exec_preclearLift_due {r : Nat} (ha : alive s = true) (hc : c < 64) (hr : (ctx s c).preclear = some r)
    (hnone : (ctx s c).releaseAt = none) (hdue : r + 1000 ≤ s.time) :
    exec (.preclearLift c) s = .next (rescheduleAll (setCtx s c { ctx s c with preclear := none })) := by
  show execPreclearLift c s = _
  unfold execPreclearLift
  rw [whenAlive_alive ha, hr]
  exact if_pos ⟨hc, hnone, hdue⟩

/-! ### Slices and non-preemptible sections (R241) -/

theorem exec_sliceEnd_due {l : Nat} (ha : alive s = true) (hl : l < 8) (hheld : (lane s l).holder.isSome = true)
    (hdue : (lane s l).start + (lane s l).length ≤ s.time) : exec (.sliceEnd l) s = .next (rescheduleAll (dropHolder s l)) := by
  show execSliceEnd l s = _
  unfold execSliceEnd
  rw [whenAlive_alive ha]
  exact if_pos ⟨hl, hheld, hdue⟩

/-- A deferral that lasts NP_LIMIT is forced out, counted and recorded (R241). -/
theorem exec_npForced_due {d : Deferral} (ha : alive s = true) (hc : c < 64) (hd : (ctx s c).deferral = some d)
    (hdue : d.since + fget s Reg.QMGR_SCHED_CFG_NP_LIMIT * 1000 ≤ s.time) : exec (.npForced c) s
      = .next (rescheduleAll (raiseCtx (finc (endDeferral s c) (Reg.QMGR_CTX_CNT_COUNT c 6)) 0x2055 69 c [])) := by
  show execNpForced c s = _
  unfold execNpForced
  rw [whenAlive_alive ha, hd]
  exact if_pos ⟨hc, hdue⟩

/-! ### Golden frames (R251) -/

section
variable {p : Plan} (ha : alive s = true) (hhost : goldenHost s = some (c, p)) (hidle : s.golden = none) (hawake : inDrowse s = false)
include ha hhost hidle hawake

/-- A golden frame starts in a window with idle threads, once the host's tiles have no best-effort work or GOLDEN_MAX is over. -/
theorem exec_goldenFrameStart_window {e : Nat} {en : Entry} (hentry : netEntry s = some (e, en)) (hactive : ctxActive s c = true)
    (hhold : inHold s = false) (hthreads : (setBitsOf p.tileMask 48).all (fun t => decide (p.threads ≤ (idleThreads s t c).length)) = true)
    (hwindow : goldenWindow s c p = true)
    (hquiet : ((bestEffortOn s p.tileMask).any (fun d => ctxPending s d
      && (setBitsOf p.tileMask 48).any (fun t => runBit s t d)) = false ∨ s.goldenAt + goldenMaxNs s ≤ s.time)) :
    exec .goldenFrameStart s = .next (startGolden c p e en s) := by
  show execGoldenFrameStart s = _
  unfold execGoldenFrameStart
  rw [whenAlive_alive ha, hhost, hentry]
  exact if_pos ⟨hactive, hidle, hawake, hhold, hthreads, hwindow, hquiet⟩

/-- No window within 2 × GOLDEN_MAX is recorded once. -/
theorem exec_goldenOverdue_due (hfirst : s.goldenLate = false) (hdue : s.goldenAt + 2 * goldenMaxNs s ≤ s.time) :
    exec .goldenOverdue s = .next (raiseCtx { s with goldenLate := true } 0x2059 69 c []) := by
  show execGoldenOverdue s = _
  unfold execGoldenOverdue
  rw [whenAlive_alive ha, hhost]
  exact if_pos ⟨hidle, hfirst, hawake, hdue⟩

end

/-! ### Teardown and key state (R175, R252) -/

/-- A teardown ends once the context's queues are empty: a reset's creates the context again (R253), any other leaves it FAULTED. -/
theorem exec_teardownComplete_empty (hc : c < 64) (hstate : ctxState s c = 2)
    (hempty : (ownedQueues s c).all (fun q => decide (outstanding s q = 0)) = true) : exec (.teardownComplete c) s
      = .next (if (ctx s c).resetStarted then recreateCtx c s else fset s (Reg.QMGR_CTX_STATE_STATE c) 3) :=
  if_pos ⟨hc, hstate, hempty⟩

/-- INIT_BUSY stays while another context's key state is being initialized (R175). -/
theorem exec_kvRegionInitDone_running (hc : c < 64) (hinit : (ctx s c).kvInit = true) : exec (.kvRegionInitDone c) s
      = .next (fsetb (setCtx s c { ctx s c with kvInit := false }) Reg.KVM_STATUS_INIT_BUSY
        (s.ctxs.any (fun e => decide (e.1 ≠ c) && e.2.kvInit))) :=
  if_neg (by simp [hinit, hc])

end

/-- Settles O18: the release is reached, and the frame that it finds open is left as it is. -/
theorem releaseSkipped : Obligations.ReleaseSkipped := by
  intro c r p s w ha hc hr hdue hp hactive hframes hopen
  refine ⟨_, ?next, rfl, ?frame, rfl, ?threads⟩
  case next => rw [exec_frameRelease_due ha hc hr hdue, frameRelease_skipped w hr hp hactive hframes hopen]
  case frame => rw [ctx_raiseCtx, ctx_finc, ctx_setCtx_same s c _ w]
  case threads => rfl

/-- Settles O19: each event by its row's rule. -/
theorem contextEventsComplete : Obligations.ContextEventsComplete := by
  refine ⟨?release, ?preclear, ?lift, ?slice, ?forced, ?goldenStart, ?goldenLate, ?teardown, ?init⟩
  case release =>
    intro c r s ha hc hr hdue
    exact exec_frameRelease_due ha hc hr hdue
  case preclear =>
    intro c r p s ha hc hp hr hactive hexcl hnone hawake hnear
    exact ⟨_, exec_preclear_requested ha hc hp hr hactive hexcl hnone hawake hnear rfl, rfl⟩
  case lift =>
    intro c r s ha hc hr hnone hdue
    exact exec_preclearLift_due ha hc hr hnone hdue
  case slice =>
    intro l s ha hl hheld hdue
    exact exec_sliceEnd_due ha hl hheld hdue
  case forced =>
    intro c d s ha hc hd hdue
    exact exec_npForced_due ha hc hd hdue
  case goldenStart =>
    intro c e p en s ha hhost hentry hactive hidle hawake hhold hthreads hwindow hquiet
    exact exec_goldenFrameStart_window ha hhost hidle hawake hentry hactive hhold hthreads hwindow hquiet
  case goldenLate =>
    intro c p s ha hhost hidle hfirst hawake hdue
    exact exec_goldenOverdue_due ha hhost hidle hawake hfirst hdue
  case teardown =>
    intro c s hc hstate hempty
    exact exec_teardownComplete_empty hc hstate hempty
  case init =>
    intro c s hc hinit
    exact exec_kvRegionInitDone_running hc hinit

end Sys2Proof.Machine
end

section
/-! SUPPORT. What the control commands do: which of them wait for the sample boundaries of their loops, and which complete at once (chapter 9
of the spec). -/

namespace Sys2Proof.Machine

/-- A control command of one loop or more names a loop. -/
theorem ctlLoops_ne_nil {c : QCmd} (hlen : c.length ≠ 0) : ctlLoops c ≠ [] := by
  simpa [ctlLoops] using hlen

/-- A started command that asks something of one loop or more waits for their boundaries (R601). -/
theorem runEngine_asks {op q n : Nat} {f : QCmd → State → Verdict} {c : QCmd} {kind : ReqKind} {ls : List Nat} {s u : State}
    (h : Started s q n op c) (hls : ls ≠ []) (e : f c s = askVerdict q c kind ls u) :
    runEngine op q n f s = .next (askLoops q c kind ls (modCmd u q c.n (fun d => { d with engaged := true }))) :=
  runEngine_wait h (e.trans (if_neg hls))

/-- A started command that asks something of loops completes where it names none, and otherwise waits for their boundaries (R601). -/
theorem runEngine_ask {op q n : Nat} {f : QCmd → State → Verdict} {c : QCmd} {kind : ReqKind} {ls : List Nat} {s u : State}
    (h : Started s q n op c) (e : f c s = askVerdict q c kind ls u) :
    runEngine op q n f s = .next (if ls = [] then completeCmd u q n Status.ok 0
      else askLoops q c kind ls (modCmd u q c.n (fun d => { d with engaged := true }))) := by
  by_cases hls : ls = []
  · rw [if_pos hls]
    exact runEngine_done h (e.trans (if_pos hls))
  · rw [if_neg hls]
    exact runEngine_asks h hls e

section
variable {q n : Nat} {c : QCmd} {s : State}

/-! ### Commands that wait for a sample boundary (R272, R273, R275, R601) -/

section
variable (he : c.engaged = false)
include he

/-- LOOP_ENABLE asks its loops (R601). -/
theorem loopEnableEngine_asks (hr : ctlReady q s c false) : loopEnableEngine q c s = askVerdict q c .enable (ctlLoops c) s := by
  rw [loopEnableEngine, if_neg (by simp [he]), ctlChecked_ready hr]

/-- TRIP_CLEAR asks its loops (R601). -/
theorem tripClearEngine_asks (hr : ctlReady q s c false) : tripClearEngine q c s = askVerdict q c .clear (ctlLoops c) s := by
  rw [tripClearEngine, if_neg (by simp [he]), ctlChecked_ready hr]

/-- BANK_SWAP swaps the banks of its loops in OFF and asks the others (R272). -/
theorem bankSwapEngine_asks (hr : ctlReady q s c false) :
    bankSwapEngine q c s = askVerdict q c .swap ((ctlLoops c).filter (fun l => decide ((loop s l).state ≠ 0)))
      (forEach ((ctlLoops c).filter (fun l => decide ((loop s l).state = 0)))
        (fun l s => setLoop s l { loop s l with bank := !(loop s l).bank }) s) := by
  rw [bankSwapEngine, if_neg (by simp [he]), ctlChecked_ready hr]

/-- SETPOINT_WRITE of loops that take no committed setpoints writes them and asks the loops that are on (R275). -/
theorem setpointEngine_asks {bs : List Byte} {u : State} (hr : ctlReady q s c true)
    (hread : opRead s q (c.field 24 8) (4 * c.length) = .ok bs)
    (hfree : (ctlLoops c).find? (fun l => loopCommitted s l && decide ((loop s l).state ≠ 0)) = none)
    (hu : u = forEach ((ctlLoops c).zip (bytesToWords c.length bs)) (fun (l, v) s => setLoop s l (if (loop s l).state = 0
      then { loop s l with spIdle := v, sp := v, spPrev := v } else { loop s l with spIdle := v })) s) :
    setpointEngine q c s = askVerdict q c .setpoint ((ctlLoops c).filter (fun l => decide ((loop u l).state ≠ 0))) u := by
  subst hu
  rw [setpointEngine, if_neg (by simp [he]), ctlChecked_ready hr, hread]
  simp only [hfree]

/-- COEF_WRITE of valid records writes those it can, completes where none is left, and waits with the rest (R273). -/
theorem coefWriteEngine_advances {bs : List Byte} {recs l : List (Nat × List Word)} {u : State} (hr : ctlReady q s c true)
    (hread : opRead s q (c.field 24 8) (128 * c.length) = .ok bs)
    (hrecs : recs = (ctlLoops c).zip ((chunks c.length 128 bs).map (bytesToWords 32)))
    (hvalid : recs.all (fun r => coefValid r.2) = true) (hadv : coefAdvance ⟨q, c.n, recs⟩ s = (l, u)) :
    coefWriteEngine q c s = if l = [] then okay u
      else .wait (modYarrow (modCmd u q c.n (fun d => { d with engaged := true }))
        (fun y => { y with coefs := y.coefs ++ [⟨q, c.n, l⟩] })) := by
  have hnone : recs.find? (fun r => !coefValid r.2) = none :=
    List.find?_eq_none.mpr fun r hmem => by simp [List.all_eq_true.mp hvalid r hmem]
  subst hrecs
  rw [coefWriteEngine, if_neg (by simp [he]), ctlChecked_ready hr, hread]
  simp only [hnone, hadv]

end

/-- COEF_WRITE of valid records completes at once where a swap keeps none of them out, and waits with the rest otherwise (R273). -/
theorem exec_coefWrite_advances {bs : List Byte} {recs l : List (Nat × List Word)} {u : State} (h : Started s q n 0x0C02 c)
    (he : c.engaged = false) (hr : ctlReady q s c true) (hread : opRead s q (c.field 24 8) (128 * c.length) = .ok bs)
    (hrecs : recs = (ctlLoops c).zip ((chunks c.length 128 bs).map (bytesToWords 32)))
    (hvalid : recs.all (fun r => coefValid r.2) = true) (hadv : coefAdvance ⟨q, c.n, recs⟩ s = (l, u)) :
    exec (.coefWrite q n) s = .next (if l = [] then completeCmd u q n Status.ok 0
      else modYarrow (modCmd u q c.n (fun d => { d with engaged := true })) (fun y => { y with coefs := y.coefs ++ [⟨q, c.n, l⟩] })) := by
  have e := coefWriteEngine_advances he hr hread hrecs hvalid hadv
  by_cases hl : l = []
  · rw [if_pos hl]
    exact runEngine_done h (e.trans (if_pos hl))
  · rw [if_neg hl]
    exact runEngine_wait h (e.trans (if_neg hl))

/-! ### Commands that complete at once (R279) -/

/-- LOOP_DISABLE puts its loops off and settles what waited for a boundary of them (R267, R279). -/
theorem loopDisableEngine_ok (hr : ctlReady q s c false) :
    loopDisableEngine q c s = okay (takeDeferred (settleControl (coefSettle
      (forEach (ctlLoops c) (fun l s => setLoop s l (loop s l).off) s)))) :=
  ctlChecked_ready hr

/-- LOOP_READ whose store completes (R279). -/
theorem loopReadEngine_ok {t : State} (hr : ctlReady q s c true) (hw : opWrite s q (c.field 24 8)
      ((ctlLoops c).flatMap (fun l => (List.range 16).flatMap (fun i => leBytes 4 (loopWord s l i)))) = .ok t) :
    loopReadEngine q c s = okay t := by
  rw [loopReadEngine, ctlChecked_ready hr]
  simp only [hw]

end

/-- Settles O49: the engine of each command passes its checks; then it asks its loops, or decides the command. -/
theorem controlCommandsComplete : Obligations.ControlCommandsComplete := by
  refine ⟨?enable, ?disable, ?coef, ?swap, ?setpoint, ?clear, ?read⟩
  case enable =>
    intro q n c s h he hr hlen
    exact runEngine_asks h (ctlLoops_ne_nil hlen) (loopEnableEngine_asks he hr)
  case disable =>
    intro q n c s h hr
    exact runEngine_done h (loopDisableEngine_ok hr)
  case coef =>
    intro q n c bs s h he hr hread hvalid
    exact ⟨_, _, rfl, exec_coefWrite_advances h he hr hread rfl hvalid rfl⟩
  case swap =>
    intro q n c l s u h he hr hu hl
    subst hu hl
    exact runEngine_ask h (bankSwapEngine_asks he hr)
  case setpoint =>
    intro q n c bs s u h he hr hread hfree hu
    exact ⟨_, rfl, runEngine_ask h (setpointEngine_asks he hr hread hfree hu)⟩
  case clear =>
    intro q n c s h he hr hlen
    exact runEngine_asks h (ctlLoops_ne_nil hlen) (tripClearEngine_asks he hr)
  case read =>
    intro q n c s t h hr hw
    exact runEngine_done h (loopReadEngine_ok hr hw)

end Sys2Proof.Machine
end

section
/-! SUPPORT. What the ring commands and the events of ring frames do: which commands wait for their ports, what keeps an event out, and
what an event does (chapter 10 of the spec). -/

namespace Sys2Proof.Machine

/-- A started command waits where its engine finds something to wait for, and completes otherwise. -/
theorem runEngine_waitsIf {op q n : Nat} {f : QCmd → State → Verdict} {c : QCmd} {s t u : State} {P : Prop} [Decidable P]
    (h : Started s q n op c) (e : f c s = if P then .wait t else okay u) :
    runEngine op q n f s = .next (if P then t else completeCmd u q n Status.ok 0) := by
  by_cases hP : P
  · rw [if_pos hP]
    exact runEngine_wait h (e.trans (if_pos hP))
  · rw [if_neg hP]
    exact runEngine_done h (e.trans (if_neg hP))

section
variable {q : Nat} {c : QCmd} {s : State}

/-! ### Commands on ports (R307, R312) -/

section
variable (he : c.engaged = false) (hz : c.reservedZero [(16, 1)] = true) (hports : c.field 16 1 + c.length ≤ 8)
include he hz hports

/-- RING_PORT_START of ports that exist starts their discoveries, and waits while one of them is in DISCOVER (R305, R312). -/
theorem portStartEngine_starts {u : State} (hu : u = forEach ((portsNamed c).filter (fun p =>
      decide ((portState s p = 1 ∨ portState s p = 4) ∧ 0 < portNodes s p))) startDiscovery s) :
    portStartEngine q c s = if (portsNamed c).any (fun p => decide (portState u p = 2))
      then .wait (modCmd u q c.n (fun d => { d with engaged := true })) else okay u := by
  subst hu
  unfold portStartEngine
  rw [if_neg (by simp [he]), if_neg (by simp [hz]), if_neg (Nat.not_lt.2 hports)]

/-- RING_PORT_STOP of ports that exist, out of the safe state, stops them, and completes the stops none of whose ports still waits (R312). -/
theorem portStopEngine_stops (hsafe : inSafe s = false) :
    portStopEngine q c s = .wait (settleStops (forEach (portsNamed c) stopPort
      (modCmd s q c.n (fun d => { d with engaged := true })))) := by
  unfold portStopEngine
  rw [if_neg (by simp [he]), if_neg (by simp [hz]), if_neg (Nat.not_lt.2 hports), if_neg (by simp [hsafe])]

end

/-! ### Words and snapshots (R295, R312) -/

/-- In a run of words that no loop writes, the search for a word that a loop writes finds none (R258, R295). -/
theorem loopWords_none {p m w n : Nat}
    (hfree : ∀ k l : Nat, k < n → l < 256 → loopCmdEn s l = true → loopCmdKey s l ≠ wordKey p m (w + k)) :
    (List.range n).find? (fun k =>
      (List.range 256).any (fun l => loopCmdEn s l && decide (loopCmdKey s l = wordKey p m (w + k)))) = none := by
  refine List.find?_eq_none.mpr fun k hk hany => ?_
  obtain ⟨l, hl, hbound⟩ := List.any_eq_true.mp hany
  obtain ⟨hen, hkey⟩ := (Bool.and_eq_true _ _).mp hbound
  exact hfree k l (List.mem_range.mp hk) (List.mem_range.mp hl) hen (of_decide_eq_true hkey)

/-- RING_WORD_WRITE of words that a node has and no loop writes, out of the safe state, writes them to the port's image (R295). -/
theorem wordWriteEngine_ok {bs : List Byte} (hz : c.reservedZero [(16, 3), (24, 8)] = true) (al : opAligned q (c.field 24 8) 64 = true)
    (hp : c.field 16 1 < 8) (hn : c.field 17 1 < portNodes s (c.field 16 1))
    (hw : c.field 18 1 + c.length ≤ fget s (Reg.RING_NODE_LAYOUT_CMD_WORDS (c.field 16 1) (c.field 17 1)))
    (hsafe : inSafe s = false) (hread : opRead s q (c.field 24 8) (4 * c.length) = .ok bs)
    (hfree : ∀ k l : Nat, k < c.length → l < 256 → loopCmdEn s l = true →
      loopCmdKey s l ≠ wordKey (c.field 16 1) (c.field 17 1) (c.field 18 1 + k)) :
    wordWriteEngine q c s = okay (forEach ((List.range c.length).zip (bytesToWords c.length bs)) (fun e u =>
      imageWrite (c.field 16 1) (c.field 17 1) (c.field 18 1 + e.1) u.time e.2 u) s) := by
  unfold wordWriteEngine
  rw [if_neg (by simp [hz, al]), if_neg (by omega), if_neg (by simp [hsafe]), hread]
  simp only [loopWords_none hfree]

/-- RING_SNAPSHOT whose store completes (R312). -/
theorem snapshotEngine_ok {t : State} (hz : c.reservedZero [(16, 1), (24, 8)] = true) (al : opAligned q (c.field 24 8) 64 = true)
    (hports : c.field 16 1 + c.length ≤ 8)
    (hwrite : opWrite s q (c.field 24 8) ((portsNamed c).flatMap (snapshotBytes s)) = .ok t) : snapshotEngine q c s = okay t := by
  unfold snapshotEngine
  rw [if_neg (by simp [hz, al]), if_neg (Nat.not_lt.2 hports), hwrite]

/-- What is gathered of the ports that a command names, port by port from PORT on. -/
theorem portsNamed_flatMap {α : Type} (f : Nat → List α) :
    (portsNamed c).flatMap f = (List.range c.length).flatMap (fun i => f (c.field 16 1 + i)) := by
  simp only [portsNamed, List.flatMap_map, Nat.add_comm]

/-! ### Teasel (R302) -/

/-- A Teasel command on rules that exist goes on with them (R312, R313). -/
theorem teaselChecked_rules {arm : Bool} {k : List Nat → Verdict}
    (hz : c.reservedZero (if arm then [(19, 1), (20, 2)] else [(20, 2)]) = true) (harm : arm = true → c.field 19 1 ≤ 1)
    (hrules : c.field 20 2 + c.length ≤ 256) :
    teaselChecked c arm s k = k ((List.range c.length).map (· + c.field 20 2)) := by
  have hfields : ¬ (c.reservedZero (if arm then [(19, 1), (20, 2)] else [(20, 2)]) = false ∨ (arm = true ∧ 1 < c.field 19 1)) := by
    rintro (hbad | ⟨ha, hbad⟩)
    · exact Bool.false_ne_true (hbad.symm.trans hz)
    · exact Nat.not_lt.2 (harm ha) hbad
  exact (if_neg hfields).trans (if_neg (Nat.not_lt.2 hrules))

/-- TEASEL_ARM of rules that exist arms or disarms them; in the safe state it only arms (R302). -/
theorem teaselArmEngine_ok (hz : c.reservedZero [(19, 1), (20, 2)] = true) (harm : c.field 19 1 ≤ 1)
    (hrules : c.field 20 2 + c.length ≤ 256) (hsafe : inSafe s = false ∨ c.field 19 1 = 1) :
    teaselArmEngine c s = okay (forEach ((List.range c.length).map (· + c.field 20 2))
      (fun r u => fset u (Reg.RING_RULE_STATE_ARMED r) (c.field 19 1)) s) := by
  have hallowed : ¬ (inSafe s = true ∧ c.field 19 1 = 0) := by
    rintro ⟨hin, hdisarm⟩
    obtain hout | harms := hsafe
    · exact Bool.false_ne_true (hout.symm.trans hin)
    · omega
  exact (teaselChecked_rules hz (fun _ => harm) hrules).trans (if_neg hallowed)

/-- TEASEL_RELEASE of rules that exist, out of the safe state, releases their latches (R302). -/
theorem teaselReleaseEngine_ok (hz : c.reservedZero [(20, 2)] = true) (hrules : c.field 20 2 + c.length ≤ 256)
    (hsafe : inSafe s = false) :
    teaselReleaseEngine c s = okay (forEach ((List.range c.length).map (· + c.field 20 2))
      (fun r u => fsetb u (Reg.RING_RULE_STATE_LATCHED r) false) s) :=
  (teaselChecked_rules (arm := false) hz nofun hrules).trans (if_neg (by simp [hsafe]))

end

/-! ### Frames of a port (R295, R296, R305 to R309) -/

section
variable {p : Nat} {f : Flight} {s : State} (hfed : ringsFed s = true) (hp : p < 8)
include hfed hp

/-- The image of a cycling port is copied in the 10 µs before its trigger (R295). -/
theorem exec_ringDeliverCopy_near {t : Nat} (hcycles : portCycles s p = true)
    (ht : t = storeGet (fun _ => 0) s.timeu.next (fget s (Reg.RING_PORT_CFG_TRIGGER_ID p)))
    (harmed : trigArmed s (fget s (Reg.RING_PORT_CFG_TRIGGER_ID p)) = true) (hahead : 0 ≤ timeDiff s t) (hnear : timeDiff s t ≤ 10000) :
    exec (.ringDeliverCopy p) s = .next (setRport s p { rport s p with copied := some (t, copyImage s p t) }) := by
  subst ht
  exact if_pos ⟨hp, hfed, hcycles, harmed, hahead, hnear⟩

/-- The oldest frame that has not come back returns (R296). -/
theorem exec_ringFrameReturn_oldest {r : RingReturn} (hf : (rport s p).line.find? (fun f => decide (f.lap0 = none)) = some f) :
    exec (.ringFrameReturn p r) s = .next (frameReturn p r f s) := by
  show execRingFrameReturn p r s = _
  unfold execRingFrameReturn
  rw [hf]
  exact if_pos ⟨hp, hfed⟩

/-- The oldest frame on the line has its outcome at its return deadline (R308). -/
theorem exec_ringFrameOutcome_due {o : RingOutcome} (hf : (rport s p).line.head? = some f)
    (hdue : reached s (f.launch + roundNs s p + 2000) = true) :
    exec (.ringFrameOutcome p o) s = .next (frameOutcome p f o s) := by
  show execRingFrameOutcome p o s = _
  unfold execRingFrameOutcome
  rw [hf]
  exact if_pos ⟨hp, hfed, hdue⟩

/-- A link of a port that is not OFF changes, with its event; where it goes down, a port in RUN goes to LINE_DOWN (R309, R314). -/
theorem exec_ringLinkChange_changes {b up : Bool} {g : Field} {u : State} (hon : portState s p ≠ 0)
    (hg : g = if b then Reg.RING_PORT_STATE_LINK_B p else Reg.RING_PORT_STATE_LINK_A p) (hchange : fbit s g ≠ up)
    (hu : u = raise (fsetb s g up) 0x4101 ringIsland (u16 p ++ u8 (if b then 2 else 1))) :
    exec (.ringLinkChange p b up) s = .next (if up = false ∧ portState u p = 3 then lineDown p u else u) := by
  have hlink : linkTo p b up s = u := by
    subst hg hu
    exact if_neg hchange
  have hwas : (fbit s g = true ∧ up = false ∧ portState u p = 3) ↔ (up = false ∧ portState u p = 3) := by
    refine ⟨And.right, fun ⟨hdown, hrun⟩ => ⟨?_, hdown, hrun⟩⟩
    rw [hdown] at hchange
    exact eq_true_of_ne_false hchange
  show execRingLinkChange p b up s = _
  unfold execRingLinkChange
  rw [if_neg (by simp [hfed, hon, Nat.not_le.2 hp])]
  simp only [hlink, ← hg, hwas]

/-- A discovery returns, or its deadline passes: then it counts as not returned (R305, R306). -/
theorem exec_ringDiscoverReturn_settles {r : DiscoverReturn} {late : Bool} (hf : (rport s p).flight = some f)
    (hkind : f.kind = .discover) (hlate : late = decide (timeDiff s (discoverDeadline s p f.launch) < 0))
    (hends : r.returned = true ∨ late = true) :
    exec (.ringDiscoverReturn p r) s = .next (discoverReturn p (if late then { r with returned := false } else r) s) := by
  subst hlate
  show execRingDiscoverReturn p r s = _
  unfold execRingDiscoverReturn
  rw [hf]
  exact if_pos ⟨hp, hfed, hkind, hends⟩

/-- A layout frame returns (R307). -/
theorem exec_ringLayoutReturn_returns (hf : (rport s p).flight = some f) (hkind : f.kind = .layout) :
    exec (.ringLayoutReturn p) s = .next (leaveIdle p (setRport s p { rport s p with flight := none, laidOut := true })) := by
  show execRingLayoutReturn p s = _
  unfold execRingLayoutReturn
  rw [hf]
  exact if_pos ⟨hp, hfed, hkind⟩

end

/-- Settles O50: the engine of each command passes its checks; each event of a port by its row's rule. -/
theorem ringRowsComplete : Obligations.RingRowsComplete := by
  refine ⟨?start, ?stop, ?words, ?snapshot, ?arm, ?release, ?copy, ?frameReturns, ?outcome, ?link, ?discover, ?layout⟩
  case start =>
    intro q n c s u h he hz hports hu
    exact runEngine_waitsIf h (portStartEngine_starts he hz hports hu)
  case stop =>
    intro q n c s h he hz hports hsafe
    exact runEngine_wait h (portStopEngine_stops he hz hports hsafe)
  case words =>
    intro q n c bs s h hz al hp hn hw hsafe hread hfree
    exact runEngine_done h (wordWriteEngine_ok hz al hp hn hw hsafe hread hfree)
  case snapshot =>
    intro q n c s t h hz al hports hwrite
    rw [← portsNamed_flatMap (snapshotBytes s)] at hwrite
    exact runEngine_done h (snapshotEngine_ok hz al hports hwrite)
  case arm =>
    intro q n c s h hz harm hrules hsafe
    exact runEngine_done h (teaselArmEngine_ok hz harm hrules hsafe)
  case release =>
    intro q n c s h hz hrules hsafe
    exact runEngine_done h (teaselReleaseEngine_ok hz hrules hsafe)
  case copy =>
    intro p t s hfed hp hcycles ht harmed hahead hnear
    exact exec_ringDeliverCopy_near hfed hp hcycles ht harmed hahead hnear
  case frameReturns =>
    intro p r f s hfed hp hf
    exact exec_ringFrameReturn_oldest hfed hp hf
  case outcome =>
    intro p o f s hfed hp hf hdue
    exact exec_ringFrameOutcome_due hfed hp hf hdue
  case link =>
    intro p b up f s hfed hp hon hf hchange
    exact ⟨_, rfl, exec_ringLinkChange_changes hfed hp hon hf hchange rfl⟩
  case discover =>
    intro p r f late s hfed hp hf hkind hlate hends
    exact exec_ringDiscoverReturn_settles hfed hp hf hkind hlate hends
  case layout =>
    intro p f s hfed hp hf hkind
    exact exec_ringLayoutReturn_returns hfed hp hf hkind

end Sys2Proof.Machine
end

section
/-! SUPPORT. What every row keeps, row by row, and what follows for a step: a sound state stays sound, and module time stands but for the
rows that may set it. -/

namespace Sys2Proof.Machine

/-- What a row keeps: the waiting commands and soundness always, module time too unless the row may set it, and memory too where the
row writes none. -/
def rowKeeps (c : Instr) : State → State → Prop :=
  if setsTime c then Kept else if plainCommand c then Same else Held

/-- Every row keeps what its kind says, by the law of its meaning. -/
theorem exec_keeps (c : Instr) (s : State) : okO (rowKeeps c) s (exec c s) :=
  have same := Same.refl s
  have held := Held.refl s
  have kept := Kept.refl s
  match c with
  | .powerOnReset .. => keep_execPowerOnReset absorbs_kept kept
  | .rstNAssert .. => keep_execRstNAssert absorbs_kept kept
  | .rstNRelease .. => keep_execRstNRelease absorbs_kept kept
  | .bootDone .. => keep_execBootDone absorbs_kept kept
  | .trialBootTimeout .. => keep_execTrialBootTimeout absorbs_kept kept
  | .identityTreeRebuild .. => keep_execIdentityTreeRebuild absorbs_same same
  | .wakeNLow .. => keep_execWakeNLow absorbs_kept kept
  | .wakeAfterMsExpiry .. => keep_execWakeAfterMsExpiry absorbs_kept kept
  | .presNChange .. => keep_execPresNChange absorbs_same same
  | .presTermRemoval .. => keep_execPresTermRemoval absorbs_same same
  | .vinLow .. => keep_execVinLow absorbs_same same
  | .busShutoff .. => keep_execBusShutoff absorbs_kept kept
  | .phaseFault .. => keep_execPhaseFault absorbs_kept kept
  | .powerSample .. => keep_execPowerSample absorbs_same same
  | .boostStep .. => keep_execBoostStep absorbs_same same
  | .railRampDone .. => keep_execRailRampDone absorbs_same same
  | .powerMessageReceive .. => keep_execPowerMessageReceive absorbs_same same
  | .jobShareAdopt .. => keep_execJobShareAdopt absorbs_same same
  | .thermalScan .. => keep_execThermalScan absorbs_same same
  | .thermalTrip .. => keep_execThermalTrip absorbs_same same
  | .thermalShutdown .. => keep_execThermalShutdown absorbs_kept kept
  | .coolantSample .. => keep_execCoolantSample absorbs_same same
  | .triggerFire .. => keep_execTriggerFire absorbs_held held
  | .ringDeliverCopy .. => keep_execRingDeliverCopy absorbs_same same
  | .ringFrameReturn .. => keep_execRingFrameReturn absorbs_same same
  | .ringFrameOutcome .. => keep_execRingFrameOutcome absorbs_same same
  | .ringLinkChange .. => keep_execRingLinkChange absorbs_same same
  | .ringDiscoverReturn .. => keep_execRingDiscoverReturn absorbs_same same
  | .ringLayoutReturn .. => keep_execRingLayoutReturn absorbs_same same
  | .frameRelease .. => keep_execFrameRelease absorbs_same same
  | .preclear .. => keep_execPreclear absorbs_same same
  | .preclearLift .. => keep_execPreclearLift absorbs_same same
  | .sliceEnd .. => keep_execSliceEnd absorbs_same same
  | .npForced .. => keep_execNpForced absorbs_same same
  | .goldenFrameStart .. => keep_execGoldenFrameStart absorbs_same same
  | .goldenOverdue .. => keep_execGoldenOverdue absorbs_same same
  | .commandStart .. => keep_execCommandStart absorbs_same same
  | .replyPost .. => keep_execReplyPost absorbs_held held
  | .fenceTimeout .. => keep_execFenceTimeout absorbs_held held
  | .teardownComplete .. => keep_execTeardownComplete absorbs_held held
  | .kvRegionInitDone .. => keep_execKvRegionInitDone absorbs_same same
  | .scalarInstruction .. => keep_execScalarInstruction absorbs_held held
  | .halt .. => keep_execHalt absorbs_held held
  | .ucmd .. => keep_execUcmd absorbs_held held
  | .unitCommandStart .. => keep_execUnitCommandStart absorbs_held held
  | .unitCommandComplete .. => keep_execUnitCommandComplete absorbs_held held
  | .stepClose .. => keep_execStepClose absorbs_held held
  | .twait .. => keep_execTwait absorbs_held held
  | .level .. => keep_execLevel absorbs_held held
  | .dbell .. => keep_execDbell absorbs_held held
  | .qwait .. => keep_execQwait absorbs_held held
  | .npenter .. => keep_execNpenter absorbs_held held
  | .npexit .. => keep_execNpexit absorbs_held held
  | .jbar .. => keep_execJbar absorbs_held held
  | .barrierArrival .. => keep_execBarrierArrival absorbs_same same
  | .lbar .. => keep_execLbar absorbs_held held
  | .tnow .. => keep_execTnow absorbs_held held
  | .cwld .. => keep_execCwld absorbs_held held
  | .cwst .. => keep_execCwst absorbs_kept kept
  | .kernelLaunch .. => keep_execKernelLaunch absorbs_same same
  | .shareZero .. => keep_execShareZero absorbs_held held
  | .perfSnapshot .. => keep_execPerfSnapshot absorbs_held held
  | .seqCreate .. => keep_execSeqCreate absorbs_held held
  | .seqFree .. => keep_execSeqFree absorbs_held held
  | .seqFork .. => keep_execSeqFork absorbs_held held
  | .prefixMatch .. => keep_execPrefixMatch absorbs_held held
  | .seqExtend .. => keep_execSeqExtend absorbs_held held
  | .seqTruncate .. => keep_execSeqTruncate absorbs_held held
  | .seqTrim .. => keep_execSeqTrim absorbs_held held
  | .kvWrite .. => keep_execKvWrite absorbs_held held
  | .attend .. => keep_execAttend absorbs_held held
  | .stepRetire .. => keep_execStepRetire absorbs_held held
  | .migrate .. => keep_execMigrate absorbs_held held
  | .copy .. => keep_execCopy absorbs_held held
  | .fill .. => keep_execFill absorbs_held held
  | .translationInvalidate .. => keep_execTranslationInvalidate absorbs_same same
  | .mapUpdate .. => keep_execMapUpdate absorbs_held held
  | .mapPublish .. => keep_execMapPublish absorbs_held held
  | .planQuery .. => keep_execPlanQuery absorbs_held held
  | .planCheck .. => keep_execPlanCheck absorbs_held held
  | .libLoad .. => keep_execLibLoad absorbs_held held
  | .streamStart .. => keep_execStreamStart absorbs_same same
  | .streamStop .. => keep_execStreamStop absorbs_same same
  | .sampleRead .. => keep_execSampleRead absorbs_held held
  | .calibFeed .. => keep_execCalibFeed absorbs_held held
  | .calibSet .. => keep_execCalibSet absorbs_held held
  | .calibRead .. => keep_execCalibRead absorbs_held held
  | .setWrite .. => keep_execSetWrite absorbs_held held
  | .setCommit .. => keep_execSetCommit absorbs_same same
  | .setRead .. => keep_execSetRead absorbs_held held
  | .imageHoldTimeout .. => keep_execImageHoldTimeout absorbs_same same
  | .fence .. => keep_execFence absorbs_same same
  | .powerCapSet .. => keep_execPowerCapSet absorbs_same same
  | .powerModeSet .. => keep_execPowerModeSet absorbs_same same
  | .powerRead .. => keep_execPowerRead absorbs_held held
  | .storeWrite .. => keep_execStoreWrite absorbs_held held
  | .storeVerify .. => keep_execStoreVerify absorbs_same same
  | .fwActivate .. => keep_execFwActivate absorbs_same same
  | .rollbackRaise .. => keep_execRollbackRaise absorbs_same same
  | .attest .. => keep_execAttest absorbs_held held
  | .identityRead .. => keep_execIdentityRead absorbs_held held
  | .measExtend .. => keep_execMeasExtend absorbs_held held
  | .warmReset .. => keep_execWarmReset absorbs_kept kept
  | .powerStateSet .. => keep_execPowerStateSet absorbs_kept kept
  | .netSend .. => keep_execNetSend absorbs_held held
  | .regRead .. => keep_execRegRead absorbs_held held
  | .regWrite .. => keep_execRegWrite absorbs_kept kept
  | .logRead .. => keep_execLogRead absorbs_held held
  | .logFreeze .. => keep_execLogFreeze absorbs_same same
  | .logThaw .. => keep_execLogThaw absorbs_same same
  | .logClear .. => keep_execLogClear absorbs_same same
  | .freezeExpired .. => keep_execFreezeExpired absorbs_same same
  | .logRecordWrite .. => keep_execLogRecordWrite absorbs_same same
  | .recordStaging .. => keep_execRecordStaging absorbs_same same
  | .opSecondsTick .. => keep_execOpSecondsTick absorbs_same same
  | .safeRead .. => keep_execSafeRead absorbs_held held
  | .safeModeSet .. => keep_execSafeModeSet absorbs_same same
  | .safeStopRequest .. => keep_execSafeStopRequest absorbs_same same
  | .checkInput .. => keep_execCheckInput absorbs_held held
  | .mainOutput .. => keep_execMainOutput absorbs_held held
  | .thistlePassDone .. => keep_execThistlePassDone absorbs_same same
  | .comparatorDecision .. => keep_execComparatorDecision absorbs_same same
  | .compareDeadline .. => keep_execCompareDeadline absorbs_same same
  | .verdictAction .. => keep_execVerdictAction absorbs_same same
  | .goldenFrameCheck .. => keep_execGoldenFrameCheck absorbs_held held
  | .goldenPassOverdue .. => keep_execGoldenPassOverdue absorbs_same same
  | .sampleGateClose .. => keep_execSampleGateClose absorbs_same same
  | .cowslipFrameTick .. => keep_execCowslipFrameTick absorbs_same same
  | .lockstepMismatch .. => keep_execLockstepMismatch absorbs_same same
  | .stopDiscrepancy .. => keep_execStopDiscrepancy absorbs_same same
  | .watchdogExpiry .. => keep_execWatchdogExpiry absorbs_same same
  | .outputReadbackCheck .. => keep_execOutputReadbackCheck absorbs_same same
  | .clockMonitor copyB _ => keep_execClockMonitor (a0 := copyB) absorbs_same same
  | .cowslipDebugHalt .. => keep_execCowslipDebugHalt absorbs_same same
  | .postureSettled .. => keep_execPostureSettled absorbs_same same
  | .safeTimeout .. => keep_execSafeTimeout absorbs_same same
  | .proofIntervalDue .. => keep_execProofIntervalDue absorbs_same same
  | .jobJoin .. => keep_execJobJoin absorbs_same same
  | .joinRequestReceive .. => keep_execJoinRequestReceive absorbs_same same
  | .joinCommitReceive .. => keep_execJoinCommitReceive absorbs_same same
  | .joinTimeout .. => keep_execJoinTimeout absorbs_same same
  | .jobLeave .. => keep_execJobLeave absorbs_same same
  | .lossMessageReceive .. => keep_execLossMessageReceive absorbs_same same
  | .linkRetrain .. => keep_execLinkRetrain absorbs_same same
  | .linkRead .. => keep_execLinkRead absorbs_held held
  | .flitReplay .. => keep_execFlitReplay absorbs_same same
  | .retrainStart .. => keep_execRetrainStart absorbs_same same
  | .retrainEnd .. => keep_execRetrainEnd absorbs_same same
  | .lanesSilent .. => keep_execLanesSilent absorbs_same same
  | .linkTrainDone .. => keep_execLinkTrainDone absorbs_same same
  | .linkFailedHoldoff .. => keep_execLinkFailedHoldoff absorbs_same same
  | .remoteAccess .. => keep_execRemoteAccess absorbs_held held
  | .timeSetIncr .. => keep_execTimeSetIncr absorbs_same same
  | .triggerArm .. => keep_execTriggerArm absorbs_same same
  | .timeRead .. => keep_execTimeRead absorbs_held held
  | .syncReceive .. => keep_execSyncReceive absorbs_same same
  | .syncLost .. => keep_execSyncLost absorbs_same same
  | .holdoverEnd .. => keep_execHoldoverEnd absorbs_same same
  | .domainReturn .. => keep_execDomainReturn absorbs_same same
  | .steeringUpdate .. => keep_execSteeringUpdate absorbs_same same
  | .gateEntryExpiry .. => keep_execGateEntryExpiry absorbs_same same
  | .netFrameTransmit .. => keep_execNetFrameTransmit absorbs_same same
  | .mgmtSubmit .. => keep_execMgmtSubmit absorbs_held held
  | .mgmtPoll .. => keep_execMgmtPoll absorbs_held held
  | .mgmtFrameRefused .. => keep_execMgmtFrameRefused absorbs_same same
  | .replyFrameSend .. => keep_execReplyFrameSend absorbs_same same
  | .replyResend .. => keep_execReplyResend absorbs_same same
  | .sampleIngress .. => keep_execSampleIngress absorbs_held held
  | .fuseRecordRelease .. => keep_execFuseRecordRelease absorbs_held held
  | .fuseReleaseDeadline .. => keep_execFuseReleaseDeadline absorbs_held held
  | .loopEnable .. => keep_execLoopEnable absorbs_same same
  | .loopDisable .. => keep_execLoopDisable absorbs_same same
  | .coefWrite .. => keep_execCoefWrite absorbs_held held
  | .bankSwap .. => keep_execBankSwap absorbs_same same
  | .setpointWrite .. => keep_execSetpointWrite absorbs_held held
  | .tripClear .. => keep_execTripClear absorbs_same same
  | .loopRead .. => keep_execLoopRead absorbs_held held
  | .ringPortStart .. => keep_execRingPortStart absorbs_same same
  | .ringPortStop .. => keep_execRingPortStop absorbs_same same
  | .ringWordWrite .. => keep_execRingWordWrite absorbs_held held
  | .ringSnapshot .. => keep_execRingSnapshot absorbs_held held
  | .teaselArm .. => keep_execTeaselArm absorbs_same same
  | .teaselRelease .. => keep_execTeaselRelease absorbs_same same
  | .qmgrDoorbellWrite .. => keep_execQmgrDoorbellWrite absorbs_kept kept
  | .queueCfgWrite .. => keep_execQueueCfgWrite absorbs_kept kept
  | .ctxReset .. => keep_execCtxReset absorbs_kept kept
  | .tileShareWrite .. => keep_execTileShareWrite absorbs_kept kept
  | .tileThrAssign .. => keep_execTileThrAssign absorbs_kept kept
  | .tileThrRelease .. => keep_execTileThrRelease absorbs_kept kept
  | .perfClear .. => keep_execPerfClear absorbs_kept kept
  | .tileFaultClear .. => keep_execTileFaultClear absorbs_kept kept
  | .tileDbgHalt .. => keep_execTileDbgHalt absorbs_kept kept
  | .tileDbgResume .. => keep_execTileDbgResume absorbs_kept kept
  | .tileDbgStep .. => keep_execTileDbgStep absorbs_kept kept
  | .tileDbgRegWrite .. => keep_execTileDbgRegWrite absorbs_kept kept
  | .memCtxWrite .. => keep_execMemCtxWrite absorbs_kept kept
  | .kvmCtxWrite .. => keep_execKvmCtxWrite absorbs_kept kept
  | .ctlCfgWrite .. => keep_execCtlCfgWrite absorbs_kept kept
  | .ctlCommit .. => keep_execCtlCommit absorbs_kept kept
  | .ringCfgWrite .. => keep_execRingCfgWrite absorbs_kept kept
  | .timeSet .. => keep_execTimeSet absorbs_kept kept
  | .timeCfgWrite .. => keep_execTimeCfgWrite absorbs_same same
  | .safeReqReq .. => keep_execSafeReqReq absorbs_same same
  | .safeReqSto .. => keep_execSafeReqSto absorbs_same same
  | .safeWdtServe .. => keep_execSafeWdtServe absorbs_same same
  | .pwrCfgWrite .. => keep_execPwrCfgWrite absorbs_kept kept
  | .pcieInboundWrite .. => keep_execPcieInboundWrite absorbs_same same
  | .pcieCfgRead .. => keep_execPcieCfgRead absorbs_same same
  | .pcieCfgWrite .. => keep_execPcieCfgWrite absorbs_same same
  | .pcieMemRead .. => keep_execPcieMemRead absorbs_same same
  | .pcieMemWrite .. => keep_execPcieMemWrite absorbs_same same
  | .pcieInboundRequest .. => keep_execPcieInboundRequest absorbs_held held
  | .pcieLinkChange .. => keep_execPcieLinkChange absorbs_same same
  | .memDbgAddrWrite .. => keep_execMemDbgAddrWrite absorbs_kept kept
  | .debugReadComplete .. => keep_execDebugReadComplete absorbs_same same
  | .registerWrite .. => keep_execRegisterWrite absorbs_kept kept
  | .scrubPassRead .. => keep_execScrubPassRead absorbs_same same
  | .corrHourRoll .. => keep_execCorrHourRoll absorbs_same same
  | .trainingPatternSeen .. => keep_execTrainingPatternSeen absorbs_same same
  | .gmChange .. => keep_execGmChange absorbs_same same
  | .syncTransmit .. => keep_execSyncTransmit absorbs_same same
  | .stopInput .. => keep_execStopInput absorbs_same same
  | .otherDropped .. => keep_execOtherDropped absorbs_same same
  | .cowslipRequestPagePoll .. => keep_execCowslipRequestPagePoll absorbs_same same
  | .safetySramScrub .. => keep_execSafetySramScrub absorbs_same same

section
variable {R : State → State → Prop} {c : Instr} {s t : State}

/-- The state of an outcome that is a next state. -/
theorem okO_get {o : Out} (h : okO R s o) (e : o = .next t) : R s t := by
  subst e; cases h; assumption

theorem rowKeeps.kept (h : rowKeeps c s t) : Kept s t := by
  unfold rowKeeps at h
  split at h
  · exact h
  · split at h
    · exact h.2.2
    · exact h.2

theorem rowKeeps.held (h : rowKeeps c s t) (hc : setsTime c = false) : Held s t := by
  unfold rowKeeps at h
  rw [if_neg (Bool.eq_false_iff.mp hc)] at h
  split at h
  · exact h.2
  · exact h

/-- With nothing waiting a step is a tick. -/
theorem step_of_idle (h : s.pending = []) : step s = .next (clockTick s) := by
  unfold step; rw [h]

/-- A waiting command is taken off the queue and run. -/
theorem step_of_pending {rest : List Instr} (h : s.pending = c :: rest) : step s = exec c { s with pending := rest } := by
  unfold step; rw [h]

/-- Soundness does not speak of the waiting commands. -/
theorem sound_pending {l : List Instr} (h : Sound s) : Sound { s with pending := l } := h

theorem sound_step (h : Sound s) (e : step s = .next t) : Sound t := by
  rcases hp : s.pending with _ | ⟨c, rest⟩
  · rw [step_of_idle hp] at e
    cases e
    exact (keep_clockTick absorbs_kept (Kept.refl s)).2 h
  · rw [step_of_pending hp] at e
    exact (okO_get (exec_keeps c _) e).kept.2 (sound_pending h)

end

/-- Settles O3: a tick by the law of the time clock, a command by the law of its row. -/
theorem stepKeepsSound : Obligations.StepKeepsSound := fun _ _ h e => sound_step h e

/-- Settles O7: the law of every row outside `setsTime` keeps module time. -/
theorem commandsLeaveTime : Obligations.CommandsLeaveTime :=
  fun c s _ hc e => ((okO_get (exec_keeps c s) e).held hc).1

end Sys2Proof.Machine
end

section
/-! SUPPORT. What the time unit does: the tick, the values at reset, triggers, the time commands and the events of gPTP synchronization
(chapter 11 of the spec). -/

namespace Sys2Proof.Machine

/-! ### The time clock (R315, R316, R319) -/

/-- Without supply the clock does not run. -/
theorem clockTick_off {s : State} (h : s.power.off = true) : clockTick s = s := if_pos h

/-- With supply a tick adds INCR to TIME:FRAC as one 96-bit sum. -/
theorem clockTick_adds {s : State} (h : s.power.off = false) :
    (clockTick s).time * 2 ^ 32 + (clockTick s).frac = (s.time * 2 ^ 32 + s.frac + s.timeu.incr) % 2 ^ 96 := by
  rw [clockTick, if_neg (Bool.eq_false_iff.mp h), show (2 : Nat) ^ 96 = 2 ^ 32 * 2 ^ 64 from rfl, Nat.mod_mul]
  show _ / 2 ^ 32 % 2 ^ 64 * 2 ^ 32 + _ % 2 ^ 32 = _
  rw [Nat.add_comm, Nat.mul_comm (_ % 2 ^ 64)]

/-- With supply a tick changes TIME, FRAC and the count of ticks alone. -/
theorem clockTick_frame {s : State} (h : s.power.off = false) :
    clockTick s = { s with time := (clockTick s).time, frac := (clockTick s).frac, ticks := s.ticks + 1 } := by
  rw [clockTick, if_neg (Bool.eq_false_iff.mp h)]

/-- Settles O2: an idle step is a tick, with or without supply. -/
theorem idleStepTicks : Obligations.IdleStepTicks := by
  refine ⟨fun s _ hp hon => ?supplied, fun s hp hoff => ?off⟩
  case supplied => exact ⟨clockTick s, step_of_idle hp, clockTick_adds hon, clockTick_frame hon⟩
  case off => rw [step_of_idle hp, clockTick_off hoff]

/-- Settles O13: the fields of the reset state, and of the state that a power-on reset leaves. -/
theorem resetValues : Obligations.ResetValues :=
  ⟨⟨rfl, rfl, rfl⟩, fun m s => ⟨resetState_time .powerOn m s, resetState_frac .powerOn m s,
    congrArg TimeUnit.incr (resetState_timeu .powerOn m s)⟩⟩

/-- The signed difference of two instants is that of their low words. -/
theorem s32diff_low (a b : Nat) : s32diff (a % 2 ^ 32) (b % 2 ^ 32) = s32diff a b := by
  have h : (a % 2 ^ 32 + 2 ^ 32 - b % 2 ^ 32 % 2 ^ 32) % 2 ^ 32 = (a + 2 ^ 32 - b % 2 ^ 32) % 2 ^ 32 := by omega
  rw [s32diff, h, s32diff]

/-- Settles O17: the low words alone decide the difference. -/
theorem reachedRule : Obligations.ReachedRule := by
  intro s x
  rw [reached, timeDiff, s32diff_low]

/-! ### Triggers (R327, R330) -/

/-- A one-shot trigger disarms after its firing. -/
theorem advanceTrigger_oneShot {i : Nat} {s : State} (h : trigPeriod (trigRecord s i) = 0) : advanceTrigger i s = disarmTrigger i s :=
  if_pos h

/-- A periodic trigger adds its period to NEXT. -/
theorem advanceTrigger_periodic {i : Nat} {s : State} (h : trigPeriod (trigRecord s i) ≠ 0) :
    advanceTrigger i s = setTrigNext s i (trigNext s i + trigPeriod (trigRecord s i)) := if_neg h

/-- Settles O16: a live module takes the firing of the lowest due trigger. -/
theorem triggerFires : Obligations.TriggerFires := by
  refine ⟨fun i k s ha hi harmed hdue hlow => ?fires, fun i s h => advanceTrigger_oneShot h, fun i s h => advanceTrigger_periodic h⟩
  have htakes : ¬ (64 ≤ i ∨ trigArmed s i = false ∨ reached s (trigNext s i) = false ∨ lowerDue s i = true) := by
    simp [hi, harmed, hdue, hlow]
  show execTriggerFire i k s = _
  unfold execTriggerFire
  rw [whenAlive_alive ha]
  exact if_neg htakes

/-! ### Time commands (R318, R336) -/

section
variable {q : Nat} {c : QCmd} {s : State}

/-- TIME_SET_INCR refuses a value outside the range of R318. -/
theorem timeSetIncrEngine_outside (h : c.field 16 8 < incrMin ∨ incrMax < c.field 16 8) : timeSetIncrEngine c s = invalid s :=
  if_pos (.inr (.inr h))

/-- TIME_SET_INCR of a value in range, while the source is not gPTP's. -/
theorem timeSetIncrEngine_ok (hlen : c.length = 1) (hz : c.reservedZero [(16, 8)] = true) (hmin : incrMin ≤ c.field 16 8)
    (hmax : c.field 16 8 ≤ incrMax) (hmode : fget s Reg.TIME_CFG_MODE ≠ 1) :
    timeSetIncrEngine c s = okay (setIncr s (c.field 16 8)) := by
  have hvalid : ¬ (c.length ≠ 1 ∨ c.reservedZero [(16, 8)] = false ∨ c.field 16 8 < incrMin ∨ incrMax < c.field 16 8) := by
    simp [hlen, hz, hmin, hmax]
  exact (if_neg hvalid).trans (if_neg hmode)

section
variable (hrange : c.field 16 2 + c.length ≤ 64) (hz : c.reservedZero [(16, 3)] = true)
include hrange hz

/-- TRIGGER_ARM arms the run of triggers that it names. -/
theorem triggerArmEngine_arms (harm : c.field 18 1 = 1) :
    triggerArmEngine c s = okay (forEach ((List.range c.length).map (· + c.field 16 2)) armTrigger s) := by
  rw [triggerArmEngine, if_neg (by omega), if_neg (by simp [hz, harm]), if_pos harm]

/-- TRIGGER_ARM disarms them where no consumer names an armed one of them. -/
theorem triggerArmEngine_disarms (harm : c.field 18 1 = 0)
    (hfree : ((List.range c.length).map (· + c.field 16 2)).find? (fun i => trigArmed s i && trigNamed s i) = none) :
    triggerArmEngine c s = okay (forEach ((List.range c.length).map (· + c.field 16 2)) disarmTrigger s) := by
  rw [triggerArmEngine, if_neg (by omega), if_neg (by simp [hz, harm]), if_neg (by omega)]
  simp only [hfree]

end

/-- TIME_READ whose store completes. -/
theorem timeReadEngine_ok {t : State} (hlen : c.length = 1) (hz : c.reservedZero [(24, 8)] = true)
    (hal : opAligned q (c.field 24 8) 64 = true) (hw : opWrite s q (c.field 24 8) (timeBlock s) = .ok t) :
    timeReadEngine q c s = okay t := by
  rw [timeReadEngine, if_neg (by simp [hlen, hz, hal]), hw]

end

/-- Settles O45: soundness holds INCR in its range, and the engine of TIME_SET_INCR sets nothing outside it. -/
theorem incrStaysInRange : Obligations.IncrStaysInRange :=
  ⟨fun _ _ h e => (sound_step h e).incr, fun _ _ _ _ h hout => runEngine_done h (timeSetIncrEngine_outside hout)⟩

/-! ### Synchronization (R320 to R324) -/

section
variable {d : Nat} {s : State} (ha : alive s = true)
include ha

/-- A Sync of the grandmaster, received on the domain's port, measures the domain's offset and gains the domain. -/
theorem exec_syncReceive_measures {o k p : Nat} {u : State} (hfed : phaseUp s 5 = true) (hd : d < 2)
    (hen : fbit s (Reg.TIME_DOM_CFG_EN d) = true) (hgm : (dom s d).gm = true) (hself : (dom s d).self_ = false)
    (hp : p = fget s (Reg.TIME_DOM_CFG_PORT d)) (hu : u = setNetPort s p { netPort s p with linkDelay := k }) :
    exec (.syncReceive d ⟨p, o, k⟩) s = .next (domGained d (setDom u d (measureRate { dom s d with
      syncs := ((o + k, s.ticks) :: (dom s d).syncs).take 8, lastSync := s.time, advanced := s.ticks
      offset := ((s.time * fracUnit + s.frac : Nat) : Int) - (((o + k) * fracUnit : Nat) : Int) }))) := by
  have htakes : ¬ (2 ≤ d ∨ fbit s (Reg.TIME_DOM_CFG_EN d) = false ∨ (dom s d).gm = false ∨ (dom s d).self_ = true
      ∨ fget s (Reg.TIME_DOM_CFG_PORT d) ≠ p) := by simp [hd, hen, hgm, hself, hp]
  subst hu
  show execSyncReceive d _ s = _
  unfold execSyncReceive
  rw [whenFed_fed ha hfed]
  exact if_neg htakes

/-- Three missing Syncs lose a domain that follows a grandmaster. -/
theorem exec_syncLost_loses (hvalid : domValid s d = true) (hself : (dom s d).self_ = false)
    (hdue : (dom s d).lastSync + 3 * syncInterval s d ≤ s.time) : exec (.syncLost d) s = .next (domLost d s) := by
  show execSyncLost d s = _
  unfold execSyncLost
  rw [whenAlive_alive ha]
  exact if_pos ⟨hvalid, hself, hdue⟩

/-- Holdover that is over gives way to the source that R323 names, or unlocks where there is none. -/
theorem exec_holdoverEnd_over (hsrc : timeSource s = 3) (hover : holdoverOver s = true) :
    exec .holdoverEnd s = .next (if sourceAfterHold s = 3 then setLocked s false else setSource (sourceAfterHold s) s) := by
  show execHoldoverEnd s = _
  unfold execHoldoverEnd
  rw [whenAlive_alive ha]
  exact if_pos ⟨hsrc, hover⟩

/-- Domain 0 that has been VALID long enough is the source again. -/
theorem exec_domainReturn_due (hsrc : timeSource s = 2) (hvalid : domValid s 0 = true)
    (hdue : (dom s 0).validAt + fget s Reg.TIME_CFG_RETURN_100MS * 100000000 ≤ s.time) :
    exec .domainReturn s = .next (setSource 1 s) := by
  show execDomainReturn s = _
  unfold execDomainReturn
  rw [whenAlive_alive ha]
  exact if_pos ⟨hsrc, hvalid, hdue⟩

/-- Offsets advance, and a domain that is the source steers INCR. -/
theorem exec_steeringUpdate {u : State} (hu : u = advanceDomAt 1 (advanceDomAt 0 s)) :
    exec .steeringUpdate s = .next (settleLock (if timeSource u = 1 ∨ timeSource u = 2
      then setIncr u (steeredIncr (fget u Reg.TIME_CFG_RAMP_PPM) (dom u (timeSource u - 1))) else u)) := by
  subst hu
  show execSteeringUpdate s = _
  unfold execSteeringUpdate
  rw [whenAlive_alive ha]

section
variable {g : DWord} {best : Option Nat} {u : State} (hd : d < 2) (hen : fbit s (Reg.TIME_DOM_CFG_EN d) = true)
  (hu : u = if g.toNat = (dom s d).gmid then s else raise s 0x5006 timeIsland [])
include hd hen hu

/-- The module becomes grandmaster: the domain is its own, and is gained. -/
theorem exec_gmChange_self (hbest : bmcaAllows (fget s (Reg.TIME_DOM_CFG_PRIORITY1 d)) true best = true) :
    exec (.gmChange d true ⟨g, best⟩) s = .next (domGained d (setDom u d { dom s d with
      gm := true, self_ := true, gmid := g.toNat, offset := 0, rateNum := 1, rateDen := 1, syncs := [], sentAt := none })) := by
  subst hu
  show execGmChange d true _ s = _
  unfold execGmChange
  rw [whenAlive_alive ha]
  exact if_neg (by simp [hd, hen, hbest])

/-- Another grandmaster is followed; a domain that was the module's own is lost. -/
theorem exec_gmChange_other {v : State} (hbest : bmcaAllows (fget s (Reg.TIME_DOM_CFG_PRIORITY1 d)) false best = true)
    (hv : v = setDom u d { dom s d with gm := true, self_ := false, gmid := g.toNat, syncs := [] }) :
    exec (.gmChange d false ⟨g, best⟩) s = .next (if (dom s d).self_ then domLost d v else v) := by
  subst hv hu
  show execGmChange d false _ s = _
  unfold execGmChange
  rw [whenAlive_alive ha]
  exact if_neg (by simp [hd, hen, hbest])

end

/-- The module as grandmaster sends a Sync on the domain's port each interval. -/
theorem exec_syncTransmit_due (hfed : phaseUp s 5 = true) (hvalid : domValid s d = true) (hself : (dom s d).self_ = true)
    (hdue : ∀ t : Nat, (dom s d).sentAt = some t → t + syncInterval s d ≤ s.time) :
    exec (.syncTransmit d) s
      = .next (setDom { s with outbox := s.outbox ++ [.sync (fget s (Reg.TIME_DOM_CFG_PORT d)) d s.time] } d
        { dom s d with sentAt := some s.time }) := by
  have hsent : (dom s d).sentAt.all (fun t => decide (t + syncInterval s d ≤ s.time)) = true :=
    (Option.all_eq_true _ _).mpr fun t ht => decide_eq_true (hdue t ht)
  show execSyncTransmit d s = _
  unfold execSyncTransmit
  rw [whenFed_fed ha hfed]
  exact if_pos ⟨hvalid, hself, hsent⟩

end

/-- Settles O46: the time commands by their engines, the events by the rule of each. -/
theorem timeRowsComplete : Obligations.TimeRowsComplete := by
  refine ⟨?incr, ?arm, ?disarm, ?read, ?sync, ?lost, ?holdover, ?returns, ?steering, ?own, ?other, ?transmit⟩
  case incr =>
    intro q n c s h hlen hz hmin hmax hmode
    exact runEngine_done h (timeSetIncrEngine_ok hlen hz hmin hmax hmode)
  case arm =>
    intro q n c s h hrange hz harm
    exact runEngine_done h (triggerArmEngine_arms hrange hz harm)
  case disarm =>
    intro q n c s h hrange hz harm hfree
    exact runEngine_done h (triggerArmEngine_disarms hrange hz harm hfree)
  case read =>
    intro q n c s t h hlen hz hal hw
    exact runEngine_done h (timeReadEngine_ok hlen hz hal hw)
  case sync =>
    intro d o k s ha hfed hd hen hgm hself
    exact ⟨_, _, rfl, rfl, exec_syncReceive_measures ha hfed hd hen hgm hself rfl rfl⟩
  case lost =>
    intro d s ha hvalid hself hdue
    exact exec_syncLost_loses ha hvalid hself hdue
  case holdover =>
    intro s ha hsrc hover
    exact exec_holdoverEnd_over ha hsrc hover
  case returns =>
    intro s ha hsrc hvalid hdue
    exact exec_domainReturn_due ha hsrc hvalid hdue
  case steering =>
    intro s u ha hu
    exact exec_steeringUpdate ha hu
  case own =>
    intro d g best s ha hd hen hbest
    exact ⟨_, rfl, exec_gmChange_self ha hd hen rfl hbest⟩
  case other =>
    intro d g best s ha hd hen hbest
    exact ⟨_, _, rfl, rfl, exec_gmChange_other ha hd hen rfl hbest rfl⟩
  case transmit =>
    intro d s ha hfed hvalid hself hdue
    exact exec_syncTransmit_due ha hfed hvalid hself hdue

/-! ### Registers that one agent writes (R34, R317, R337, R487, R595) -/

section
variable {a : Agent} {v : Nat} {s : State}

/-! What each row writes, in a live module. -/

section
variable (ha : alive s = true)
include ha

theorem exec_timeSet (w : DWord) : exec (.timeSet a w) s = .next (timeSetWrite a w.toNat s) := by
  show execTimeSet a w s = _
  unfold execTimeSet
  rw [whenAlive_alive ha]

theorem exec_timeCfgWrite {off : Nat} (hreg : timeCfgReg off = true) (w : Word) :
    exec (.timeCfgWrite a off w) s = .next (timeCfgWrite a off w.toNat s) := by
  show execTimeCfgWrite a off w s = _
  unfold execTimeCfgWrite
  rw [whenAlive_alive ha]
  exact if_pos hreg

theorem exec_safeReqReq (k : Nat) : exec (.safeReqReq a k) s = .next (safeWrite a Reg.SAFE_REQ (1 + 256 * (k % 256)) s) := by
  show execSafeReqReq a k s = _
  unfold execSafeReqReq
  rw [whenAlive_alive ha]

theorem exec_safeReqSto : exec (.safeReqSto a) s = .next (safeWrite a Reg.SAFE_REQ 2 s) := by
  show execSafeReqSto a s = _
  unfold execSafeReqSto
  rw [whenAlive_alive ha]

theorem exec_safeWdtServe (k : Word) : exec (.safeWdtServe a k) s = .next (safeWrite a Reg.SAFE_WDT k.toNat s) := by
  show execSafeWdtServe a k s = _
  unfold execSafeWdtServe
  rw [whenAlive_alive ha]

/-- A write of PWR_CFG or PWR_CAP reaches the rule of its slot. -/
theorem exec_pwrCfgWrite {off : Nat} (hm : mayAccess a = true) (hoff : off = Reg.PWR_CFG ∨ off = Reg.PWR_CAP)
    (w : Word) : exec (.pwrCfgWrite a off w) s = .next (pwrSlotWrite a off w.toNat s) := by
  have hpair : pairLow off = none := by
    rcases hoff with rfl | rfl
    · exact pairLow_pwrCfg.1
    · exact pairLow_pwrCfg.2
  have hslot : off / 0x100000 = 0x02 := by
    rcases hoff with rfl | rfl <;> decide
  have h4 : off % 4 = 0 := by
    rcases hoff with rfl | rfl <;> decide
  refine (regRowIf_word (decide_eq_true hoff) ha hm h4 (by omega) (by omega) (by omega) hpair).trans ?_
  simp only [slotWrite, hslot]

/-- A write of MEM_DBG_ADDR's low word takes effect with the high word held for it, and starts a read for the agents of R595. -/
theorem exec_memDbgAddrWrite (hagent : a = .runtime ∨ a = .management) (w : Word) :
    exec (.memDbgAddrWrite a w) s = .next (dbgAddrWrite a (w.toNat + 2 ^ 32 * highHeld s Reg.MEM_DBG_ADDR)
      (rwStore (heldCleared s Reg.MEM_DBG_ADDR) (Reg.MEM_DBG_ADDR + 4)
        ((w.toNat + 2 ^ 32 * highHeld s Reg.MEM_DBG_ADDR) / 2 ^ 32))) := by
  have hm : mayAccess a = true := by rcases hagent with rfl | rfl <;> rfl
  refine (regRow_low ha (by decide) (by decide) (slotRefuses_other (by decide) (by decide)) hm pairLow_memDbgAddr
    fun e => absurd e (by decide)).trans ?_
  rcases hagent with rfl | rfl <;> rfl

end

/-! What the registers make of the write. -/

/-- TIME_SET takes a write of Harebell before ACCEPTING. -/
theorem timeSetWrite_taken (h : fbit s Reg.QMGR_STATUS_ACCEPTING = false) : timeSetWrite .harebell v s = setTime s v :=
  if_pos (by simp [timeSetTakes, h])

/-- TIME_SET takes no other write. -/
theorem timeSetWrite_refused (h : a ≠ .harebell ∨ fbit s Reg.QMGR_STATUS_ACCEPTING = true) :
    timeSetWrite a v s = raise s 0x5008 timeIsland (regData Reg.TIME_SET) := by
  have hno : timeSetTakes a s = false := by
    rcases h with h | h <;> simp [timeSetTakes, h]
  exact if_neg (Bool.eq_false_iff.mp hno)

/-- A write of SAFE_REQ with REQ alone requests the safe state with its cause (R410). -/
theorem safeWrite_req (k : Nat) : safeWrite .cowslip Reg.SAFE_REQ (1 + 256 * (k % 256)) s = safeBoth (k % 256) s := by
  have hreq : bitAt (1 + 256 * (k % 256)) 0 = true := decide_eq_true (by omega)
  have hsto : bitAt (1 + 256 * (k % 256)) 1 = false := decide_eq_false (by omega)
  have hcause : bits (1 + 256 * (k % 256)) 15 8 = k % 256 := by
    show (1 + 256 * (k % 256)) / 256 % 256 = k % 256
    omega
  simp [safeWrite, hreq, hsto, hcause]

/-- A write of SAFE_REQ with STO alone writes STO (R414). -/
theorem safeWrite_sto : safeWrite .cowslip Reg.SAFE_REQ 2 s = stoWrite s := by
  simp [safeWrite, bitAt]

/-- The right key serves the watchdog. -/
theorem safeWrite_serve : safeWrite .cowslip Reg.SAFE_WDT 0x5AFE0001 s = modSafety s (fun x => { x with served := s.time }) := rfl

/-- Another key does nothing. -/
theorem safeWrite_wrongKey (h : v ≠ 0x5AFE0001) : safeWrite .cowslip Reg.SAFE_WDT v s = s := by
  have hreg : Reg.SAFE_WDT ≠ Reg.SAFE_REQ := by decide
  simp [safeWrite, hreg, h]

end

/-- Settles O8: the refusal of TIME_SET, for every agent that may not set time. -/
theorem timeSetRefused : Obligations.TimeSetRefused :=
  fun _ _ _ ha h => (exec_timeSet ha _).trans (congrArg _ (timeSetWrite_refused h))

/-- Settles O55: each row by the rule of its register. -/
theorem agentRowsComplete : Obligations.AgentRowsComplete := by
  refine ⟨?time, ?timeCfg, ?power, ?request, ?sto, ?serve, ?wrongKey, ?debug⟩
  case time =>
    intro v s ha haccepting
    exact (exec_timeSet ha v).trans (congrArg _ (timeSetWrite_taken haccepting))
  case timeCfg =>
    intro a off v s ha hreg
    exact exec_timeCfgWrite ha hreg v
  case power =>
    intro a off v s ha hm hoff
    exact (exec_pwrCfgWrite ha hm hoff v).trans (congrArg _ (if_pos hoff))
  case request =>
    intro k s ha
    exact (exec_safeReqReq ha k).trans (congrArg _ (safeWrite_req k))
  case sto =>
    intro s ha
    exact (exec_safeReqSto ha).trans (congrArg _ safeWrite_sto)
  case serve =>
    intro s ha
    exact (exec_safeWdtServe ha _).trans (congrArg _ safeWrite_serve)
  case wrongKey =>
    intro k s ha hk
    exact (exec_safeWdtServe ha k).trans (congrArg _ (safeWrite_wrongKey fun e => hk (BitVec.eq_of_toNat_eq e)))
  case debug =>
    intro a v s ha hagent
    exact exec_memDbgAddrWrite ha hagent v

end Sys2Proof.Machine
end

section
/-! SUPPORT. What the sensor commands, a sample's arrival and the release of a fusion record do (chapter 12 of the spec). -/

namespace Sys2Proof.Machine

/-- Among records that all keep a check, the search for the first one that breaks it finds none. -/
theorem findIdx?_failing_none {α : Type} {p : α → Bool} {l : List α} (h : l.all p = true) :
    l.findIdx? (fun x => !p x) = none :=
  List.findIdx?_eq_none_iff.mpr fun x hx => by simp [List.all_eq_true.mp h x hx]

section
variable {q : Nat} {c : QCmd} {s : State}

/-! ### Commands on streams (R364) -/

/-- A command on a run of configured streams acts on each of them. -/
theorem streamsEngine_ok {f : Nat → State → State} (hparams : sensorParams q c false = true) (hrun : c.field 16 2 + c.length ≤ 128)
    (hused : (cmdIndexes c).all (fun i => (stream s (c.field 16 2 + i)).used) = true) :
    streamsEngine q f c s = okay (forEach (cmdIndexes c) (fun i u => f (c.field 16 2 + i) u) s) := by
  have hnone : (cmdIndexes c).find? (fun i => !(stream s (c.field 16 2 + i)).used) = none :=
    List.find?_eq_none.mpr fun i hi => by simp [List.all_eq_true.mp hused i hi]
  unfold streamsEngine
  simp only
  rw [if_neg (by simp [hparams]), if_neg (Nat.not_lt.2 hrun), hnone]

/-- SAMPLE_READ of no more records than a configured stream has slots stores its newest records. -/
theorem sampleReadEngine_ok {x : Stream} {bs : List Byte} {t : State} (hparams : sensorParams q c true = true)
    (hstream : c.field 16 2 < 128) (hx : x = stream s (c.field 16 2)) (hused : x.used = true) (hslots : c.length ≤ x.slots)
    (hread : readPieces s ((cmdIndexes c).map (fun i => (x.slotAddr (x.seq + x.slots + 1 + i - c.length), x.recBytes))) = .ok bs)
    (hwrite : opWrite s q (c.field 24 8) bs = .ok t) : sampleReadEngine q c s = okay t := by
  subst hx
  unfold sampleReadEngine
  simp only
  rw [if_neg (by simp [hparams, hused, hstream]), if_neg (Nat.not_lt.2 hslots), hread]
  simp only [hwrite]

/-! ### Calibration (R361, R362, R364) -/

/-- CALIB_FEED of sound observations takes them in turn, and its DETAIL counts those it used. -/
theorem calibFeedEngine_ok {bs : List Byte} {used : Nat} {t : State} (hparams : sensorParams q c true = true) (hzero : c.field 16 2 = 0)
    (hread : opRead s q (c.field 24 8) (48 * c.length) = .ok bs)
    (hsound : (chunks c.length 48 bs).all (observationOk s) = true)
    (hfed : (chunks c.length 48 bs).foldl (fun p b => feedOne b p) (0, s) = (used, t)) :
    calibFeedEngine q c s = okay t used := by
  unfold calibFeedEngine
  rw [if_neg (by simp [hparams, hzero]), hread]
  simp only [findIdx?_failing_none hsound, hfed]

/-- CALIB_SET of sound records writes the pose of each slot of its run, and raises CAL_EPOCH once. -/
theorem calibSetEngine_ok {bs : List Byte} (hparams : sensorParams q c true = true) (hrun : c.field 16 2 + c.length ≤ 32)
    (hread : opRead s q (c.field 24 8) (64 * c.length) = .ok bs) (hsound : (chunks c.length 64 bs).all slotOk = true) :
    calibSetEngine q c s = okay (raiseEpoch (forEach ((cmdIndexes c).zip (chunks c.length 64 bs)) (fun (i, r) u =>
      setExtr u (c.field 16 2 + i) { extr u (c.field 16 2 + i) with pose := r.take 28 }) s)) := by
  unfold calibSetEngine
  simp only
  rw [if_neg (by simp [hparams]), if_neg (Nat.not_lt.2 hrun), hread]
  simp only [findIdx?_failing_none hsound]

/-- CALIB_READ whose store completes. -/
theorem calibReadEngine_ok {t : State} (hparams : sensorParams q c true = true) (hrun : c.field 16 2 + c.length ≤ 32)
    (hwrite : opWrite s q (c.field 24 8) (leBytes 4 (fget s Reg.SNS_CAL_EPOCH_EPOCH) ++ List.replicate 12 0
      ++ (cmdIndexes c).flatMap (fun i => (extr s (c.field 16 2 + i)).record)) = .ok t) :
    calibReadEngine q c s = okay t := by
  unfold calibReadEngine
  simp only
  rw [if_neg (by simp [hparams]), if_neg (Nat.not_lt.2 hrun), hwrite]

end

section
variable {s : State} (ha : alive s = true)
include ha

/-! ### Samples (R343) -/

section
variable {k : Nat} (hk : k < 128) (hrun : streamRun s k = true) (hused : (stream s k).used = true) (hfed : phaseUp s 5 = true)
include hk hrun hused hfed

/-- A running stream whose source is a port takes the sample that the port brings. -/
theorem exec_sampleIngress_port (x : SampleIn) (ago : Nat) (hsource : (stream s k).field 0 1 ≠ 5) :
    exec (.sampleIngress k x ago) s
      = .next (sampleIngress k (if (stream s k).camera then unpackPixels x.type x.raw else x.raw) x.error (s.time - 2 * ago) s) := by
  show execSampleIngress k x ago s = _
  rw [execSampleIngress, whenAlive_alive ha, if_pos ⟨hk, hrun, hused, hfed⟩, if_neg hsource]

/-- A running ring stream takes its next gather slot. -/
theorem exec_sampleIngress_ring (x : SampleIn) (ago : Nat) (hsource : (stream s k).field 0 1 = 5) :
    exec (.sampleIngress k x ago) s = .next (ringIngress k s) := by
  show execSampleIngress k x ago s = _
  rw [execSampleIngress, whenAlive_alive ha, if_pos ⟨hk, hrun, hused, hfed⟩, if_pos hsource]

end

/-! ### Fusion records (R355, R356) -/

section
variable {g : Nat} (hg : g < 8)
include hg

/-- A record whose entries are all built is released. -/
theorem exec_fuseRecordRelease_built (hfed : phaseUp s 5 = true) : exec (.fuseRecordRelease g) s = .next (releaseRecord g s) := by
  show execFuseRecordRelease g s = _
  rw [execFuseRecordRelease, whenAlive_alive ha, if_pos ⟨hg, hfed⟩]

/-- An open record whose deadline has come is released with the entries that are not built INCOMPLETE: a free value says how many
are built, from those that are certainly built on, and at least one is not. -/
theorem exec_fuseReleaseDeadline_due {k f : Nat} {r : FuseOpen} {u : State} (hopen : (group s g).open_ = some r)
    (hdue : reached s (r.t + ((group s g).release - 1000)) = true) (hk : k = surelyBuilt ((group s g).release - 1000) r.entries)
    (hleft : k < r.entries.length) (hfree : (f, u) = takeFree s) {j : Nat}
    (hj : j = k + (Config.freeWord f).toNat % (r.entries.length - k)) :
    exec (.fuseReleaseDeadline g) s = .next (releaseRecord g (setGroup u g { group s g with
      open_ := some { r with entries := r.entries.take j ++ (r.entries.drop j).map incompleteEntry } })) := by
  subst hk hj
  show execFuseReleaseDeadline g s = _
  rw [execFuseReleaseDeadline, whenAlive_alive ha]
  simp only [hopen]
  rw [if_neg (by simp [hdue, Nat.not_le.2 hg, Nat.not_le.2 hleft]), ← hfree]

end

end

/-- Settles O48: the engine of each command passes its checks; each event by its row's rule. -/
theorem sensorRowsComplete : Obligations.SensorRowsComplete := by
  refine ⟨?start, ?stop, ?read, ?feed, ?set, ?readSlots, ?port, ?ring, ?release, ?deadline⟩
  case start =>
    intro q n c s h hparams hrun hused
    exact runEngine_done h (streamsEngine_ok hparams hrun hused)
  case stop =>
    intro q n c s h hparams hrun hused
    exact runEngine_done h (streamsEngine_ok hparams hrun hused)
  case read =>
    intro q n c x bs s t h hparams hstream hx hused hslots hread hwrite
    exact runEngine_done h (sampleReadEngine_ok hparams hstream hx hused hslots hread hwrite)
  case feed =>
    intro q n c bs s h hparams hzero hread hsound
    exact ⟨_, _, rfl, runEngine_done h (calibFeedEngine_ok hparams hzero hread hsound rfl)⟩
  case set =>
    intro q n c bs s h hparams hrun hread hsound
    exact runEngine_done h (calibSetEngine_ok hparams hrun hread hsound)
  case readSlots =>
    intro q n c s t h hparams hrun hwrite
    exact runEngine_done h (calibReadEngine_ok hparams hrun hwrite)
  case port =>
    intro k ago x s ha hk hrun hused hfed hsource
    exact exec_sampleIngress_port ha hk hrun hused hfed x ago hsource
  case ring =>
    intro k ago x s ha hk hrun hused hfed hsource
    exact exec_sampleIngress_ring ha hk hrun hused hfed x ago hsource
  case release =>
    intro g s ha hg hfed
    exact exec_fuseRecordRelease_built ha hg hfed
  case deadline =>
    intro g k r s ha hg hopen hdue hk hleft
    exact ⟨_, _, _, rfl, rfl, exec_fuseReleaseDeadline_due ha hg hopen hdue hk hleft rfl rfl⟩

end Sys2Proof.Machine
end

section
/-! SUPPORT. What the planner's commands do (chapter 13 of the spec). -/

namespace Sys2Proof.Machine

section
variable {s : State} {q : Nat} {c : QCmd} (hallowed : planAllowed s q c = true)
include hallowed

/-! ### The gate of every planner command, and the checks of a query (R379, R388) -/

/-- A command that the planner allows and that does not read the map goes on to its own work. -/
theorem planGate_allowed (k : Verdict) : planGate q c false s k = k := by
  simp [planGate, hallowed]

/-- A command that the planner allows and that meets no unreadable unit of the map goes on to its own work. -/
theorem planGate_mapRead (hmap : mapUnread s = none) (k : Verdict) : planGate q c true s k = k := by
  simp [planGate, hallowed, hmap]

/-- A query record that can be read and is sound for the bound library, with a result that can be stored, is taken up. -/
theorem queryChecked_sound {used : List (Nat × Nat)} {result bytes lib : Nat} {r : List Byte} {ps : List (Nat × Nat)}
    (hmap : mapUnread s = none) (hz : c.reservedZero used = true) (hlen : c.length ≤ 4096)
    (haddr : used.all (fun u => planAddr (c.field u.1 8) 64) = true) (hread : opRead s q (c.field 16 8) 128 = .ok r)
    (hresult : opPieces s q result bytes .write = .ok ps) (hlib : s.vetch.lib = some lib)
    (hquery : queryOk r (enginePart s lib / 40) = true) (k : List Byte → State → Verdict) :
    queryChecked q c used result bytes s k = k r s := by
  have hparams : ¬ (c.reservedZero used = false ∨ 4096 < c.length ∨ used.all (fun u => planAddr (c.field u.1 8) 64) = false) := by
    simp only [hz, haddr, reduceCtorEq, false_or, or_false]
    omega
  rw [queryChecked, planGate_mapRead hallowed hmap, if_neg hparams]
  simp only [hread, hresult, hlib, if_pos hquery]

/-! ### The map and the library (R372, R374, R378) -/

/-- MAP_UPDATE by sound entries changes the open map, where the pool has the blocks that the changed map needs. -/
theorem mapUpdateEngine_ok {bs : List Byte} (hmap : mapUnread s = none) (hz : c.reservedZero [(16, 8)] = true)
    (haddr : planAddr (c.field 16 8) 64 = true) (hread : opRead s q (c.field 16 8) (8 * c.length) = .ok bs)
    (hsound : (chunks c.length 8 bs).findIdx? (fun e => !updateOk e) = none)
    (hfits : ((mapBlocks ((chunks c.length 8 bs).foldl applyUpdate s.vetch.opn)).filter
      (fun b => !(blocksUsed s.vetch).contains b)).length ≤ poolBlocks s - (blocksUsed s.vetch).length) :
    mapUpdateEngine q c s
      = okay (modVetch s (fun v => { v with opn := (chunks c.length 8 bs).foldl applyUpdate s.vetch.opn })) := by
  rw [mapUpdateEngine, planGate_mapRead hallowed hmap, if_neg (by simp [hz, haddr])]
  simp only [hread, hsound, if_neg (Nat.not_lt.2 hfits)]

/-- MAP_PUBLISH makes the open map the published one, with its own slices or those of the map published before. -/
theorem mapPublishEngine_ok (hz : c.reservedZero [(40, 9)] = true) (hlen : c.length ≤ 1) (hkeep : c.field 48 1 ≤ 1) :
    mapPublishEngine q c s = okay (publishMap (if c.field 48 1 = 1 then s.vetch.pub.sb else c.field 40 8) s) := by
  rw [mapPublishEngine, planGate_allowed hallowed, if_neg (by simp [hz, hlen, hkeep])]

section
variable {bs : List Byte}
  (hidle : (startedCmds s).any (fun e => decide (e.2.opcode = 0x0402 ∨ e.2.opcode = 0x0403)) = false)
  (hz : c.reservedZero [(16, 8)] = true) (haddr : planAddr (c.field 16 8) 0x1000 = true)
  (hread : opRead s q (c.field 16 8) (0x1000 * c.length) = .ok bs)
include hidle hz haddr hread

/-- LIB_LOAD of a library that fails a check is refused with an event that names the check. -/
theorem libLoadEngine_unsound {k : Nat} (hcheck : libCheck bs = some k) :
    libLoadEngine q c s = invalid (planEvent s 0x7004 (u8 k)) := by
  rw [libLoadEngine, planGate_allowed hallowed, if_neg (ne_true_of_eq_false hidle), if_neg (by simp [hz, haddr]), hread]
  simp only [hcheck]

/-- LIB_LOAD of a sound library binds it where every query engine keeps its least part of the work region. -/
theorem libLoadEngine_sound (hcheck : libCheck bs = none) :
    libLoadEngine q c s = if enginePart s (0x1000 * c.length) < 0x200000 then noResource s
      else okay (modVetch (fsetb (memWrite s (workBase s) bs) Reg.PLN_STATUS_LIB_BOUND true)
        (fun v => { v with lib := some (0x1000 * c.length) })) := by
  rw [libLoadEngine, planGate_allowed hallowed, if_neg (ne_true_of_eq_false hidle), if_neg (by simp [hz, haddr]), hread]
  simp only [hcheck]

end

/-! ### Queries and checks (R382, R386) -/

section
variable {lib : Nat} {r : List Byte} {ps : List (Nat × Nat)} (hmap : mapUnread s = none) (hlen : c.length ≤ 4096)
  (hreq : planAddr (c.field 16 8) 64 = true) (hsteps : planAddr (c.field 24 8) 64 = true)
  (hread : opRead s q (c.field 16 8) 128 = .ok r) (hlib : s.vetch.lib = some lib)
  (hquery : queryOk r (enginePart s lib / 40) = true)
include hmap hlen hreq hsteps hread hlib hquery

/-- PLAN_QUERY with a sound record runs its search. -/
theorem planQueryEngine_runs (hz : c.reservedZero [(16, 8), (24, 8)] = true)
    (hresult : opPieces s q (c.field 24 8) (64 + 16 * c.length) .write = .ok ps) : planQueryEngine q c s = runQuery q c r s :=
  queryChecked_sound hallowed hmap hz hlen (by simp [hreq, hsteps]) hread hresult hlib hquery _

/-- PLAN_CHECK of a path none of whose steps fails, from a stand that hits nothing, ends with outcome 0. -/
theorem planCheckEngine_passes {bs : List Byte} {e : Node} (hz : c.reservedZero [(16, 8), (24, 8), (32, 8)] = true)
    (haddr : planAddr (c.field 32 8) 64 = true) (hresult : opPieces s q (c.field 32 8) 64 .write = .ok ps)
    (hpath : opRead s q (c.field 24 8) (16 * c.length) = .ok bs)
    (hclear : (chunks c.length 16 bs).findIdx? (fun e => decide (fieldAt e 11 1 ≠ 0)) = none)
    (hstand : standHits s (pinnedMap s q c.n) r = .ok false)
    (hpass : checkSteps s (pinnedMap s q c.n) r 1 (chunks c.length 16 bs) (startNode r) = .ok (none, e)) :
    planCheckEngine q c s
      = endCheck q c r (pinnedMap s q c.n).epoch 0 Status.ok 0 0 e ⟨[], [], 0, 0, 0, 0, none, none, none⟩ s := by
  rw [planCheckEngine, queryChecked_sound hallowed hmap hz hlen (by simp [hreq, hsteps, haddr]) hread hresult hlib hquery]
  simp only [hpath, hclear, hstand, hpass]

end

end

/-- Settles O32: each engine passes its gate and its checks; a library is bound or not by its check and its room, a query ends as its
search does. -/
theorem plannerCommandsComplete : Obligations.PlannerCommandsComplete := by
  refine ⟨?update, ?publish, ?load, ?query, ?check⟩
  case update =>
    intro q n c bs s h ha hmap hz haddr hread hsound hfits
    exact runEngine_done h (mapUpdateEngine_ok ha hmap hz haddr hread hsound hfits)
  case publish =>
    intro q n c s h ha hz hlen hkeep
    exact runEngine_done h (mapPublishEngine_ok ha hz hlen hkeep)
  case load =>
    intro q n c bs s h ha hidle hz haddr hread
    cases hcheck : libCheck bs with
    | some k => exact runEngine_done h (libLoadEngine_unsound ha hidle hz haddr hread hcheck)
    | none =>
      have hsound := libLoadEngine_sound ha hidle hz haddr hread hcheck
      by_cases hroom : enginePart s (0x1000 * c.length) < 0x200000
      · rw [if_pos hroom] at hsound
        exact (runEngine_done h hsound).trans (congrArg _ (if_pos hroom).symm)
      · rw [if_neg hroom] at hsound
        exact (runEngine_done h hsound).trans (congrArg _ (if_neg hroom).symm)
  case query =>
    intro q n lib c r ps s h ha hmap hz hlen hreq hsteps hread hresult hlib hquery
    have hruns := planQueryEngine_runs ha hmap hlen hreq hsteps hread hlib hquery hz hresult
    cases hend : runQuery q c r s with
    | done st d t => exact runEngine_done h (hruns.trans hend)
    | wait t => exact runEngine_wait h (hruns.trans hend)
  case check =>
    intro q n lib st d c r bs ps e s t h ha hmap hz hlen hreq hsteps haddr hread hresult hlib hquery hpath hclear hstand hpass hend
    exact runEngine_done h
      ((planCheckEngine_passes ha hmap hlen hreq hsteps hread hlib hquery hz haddr hresult hpath hclear hstand hpass).trans hend)

end Sys2Proof.Machine
end

section
/-! SUPPORT. What the safety commands, the comparison and Cowslip's monitors do (chapter 14 of the spec). -/

namespace Sys2Proof.Machine

/-! ### Safety commands (R396, R404, R422) -/

section
variable {q : Nat} {c : QCmd} {s : State}

/-- SAFE_READ of no more blocks than its source fills stores that source, padded to whole blocks. -/
theorem safeReadEngine_ok {src : List Byte} {t : State} (hz : c.reservedZero [(16, 1), (24, 8)] = true) (hsel : c.field 16 1 ≤ 1)
    (hsrc : src = if c.field 16 1 = 0 then safeStatusBytes s else (s.image.map (·.goldenIn)).getD [])
    (hlen : 64 * c.length - 63 ≤ src.length) (hal : opAligned q (c.field 24 8) 64 = true)
    (hwrite : opWrite s q (c.field 24 8) (padTo (64 * c.length) src) = .ok t) : safeReadEngine q c s = okay t := by
  unfold safeReadEngine
  simp only [← hsrc]
  rw [if_neg (by simp [hz, hal, Nat.not_lt.2 hsel, Nat.not_lt.2 hlen]), hwrite]

/-- SAFE_MODE_SET of a mode of R404 stages it. -/
theorem safeModeEngine_ok (hlen : c.length = 1) (hz : c.reservedZero [(16, 1)] = true) (hmode : c.field 16 1 ≤ 3) :
    safeModeEngine c s = okay (modSafety s (fun x => { x with modeNext := some (c.field 16 1) })) :=
  if_neg (by simp [hlen, hz, Nat.not_lt.2 hmode])

/-- SAFE_STOP_REQUEST takes the safe state with cause 0x0E, where it is not taken yet. -/
theorem safeStopEngine_ok (hlen : c.length = 1) (hz : c.reservedZero [] = true) :
    safeStopEngine c s = okay (if inSafe s then s else safeBoth 0xE s) :=
  if_neg (by simp [hlen, hz])

/-- CHECK_INPUT of the frame's host, in time, hands the frame's check input to Thistle. -/
theorem checkInputEngine_ok {bs : List Byte} (hhost : fromHost q c false s = true) (hz : c.reservedZero [(24, 8)] = true)
    (hlen : c.length ≤ 65536) (hal : opAligned q (c.field 24 8) 64 = true) (hread : opRead s q (c.field 24 8) c.length = .ok bs)
    (htimely : isLate s.safety.checked c s = false) (hlatest : ofEarlier c s = false) :
    checkInputEngine q c s = okay (modSafety s (fun x => { x with
      checked := true, passes := addPass ⟨false, x.frame.getD 0, bs⟩ x.passes })) := by
  unfold checkInputEngine
  simp only
  rw [if_neg (by simp [hhost]), if_neg (by simp [hz, hal, Nat.not_lt.2 hlen]), hread]
  simp [htimely, hlatest]

section
variable {bs : List Byte} (hz : c.reservedZero [(16, 1), (24, 8)] = true) (hlen : c.length = outputCount s)
  (hal : opAligned q (c.field 24 8) 64 = true) (hread : opRead s q (c.field 24 8) (4 * c.length) = .ok bs)
include hz hlen hal hread

/-- MAIN_OUTPUT of the frame's host, in time, gives the frame's main outputs, which count within the window alone. -/
theorem mainOutputEngine_frame (hhost : fromHost q c false s = true) (hframe : c.field 16 1 = 0)
    (htimely : isLate s.safety.submitted c s = false) (hlatest : ofEarlier c s = false) :
    mainOutputEngine q c s = okay (modSafety s (fun x =>
      { x with submitted := true, main := if inWindow s then some (bytesToWords c.length bs) else none })) := by
  have hgolden : bitAt (c.field 16 1) 0 = false := by rw [hframe]; rfl
  unfold mainOutputEngine
  simp only [hgolden]
  rw [if_neg (by simp [hhost]), if_neg (by simp [hz, hframe, ← hlen, hal]), hread]
  simp [htimely, hlatest]

/-- A golden MAIN_OUTPUT gives the main channel's golden outputs and hands the golden input to Thistle. -/
theorem mainOutputEngine_golden (hhost : fromHost q c true s = true) (hflag : c.field 16 1 = 1) :
    mainOutputEngine q c s = okay (modSafety s (fun x => { x with
      goldenOut := some (bytesToWords c.length bs), goldenChk := none
      passes := addPass ⟨true, 0, (s.image.map (·.goldenIn)).getD []⟩ x.passes })) := by
  have hgolden : bitAt (c.field 16 1) 0 = true := by rw [hflag]; rfl
  unfold mainOutputEngine
  simp only [hgolden]
  rw [if_neg (by simp [hhost]), if_neg (by simp [hz, hflag, ← hlen, hal]), hread]
  rfl

end

end

/-- Settles O40: the engine of each command passes its checks. -/
theorem safetyCommandsComplete : Obligations.SafetyCommandsComplete := by
  refine ⟨?read, ?mode, ?stop, ?check, ?main, ?golden⟩
  case read =>
    intro q n src c s t h hz hsel hsrc hlen hal hwrite
    exact runEngine_done h (safeReadEngine_ok hz hsel hsrc hlen hal hwrite)
  case mode =>
    intro q n c s h hlen hz hmode
    exact runEngine_done h (safeModeEngine_ok hlen hz hmode)
  case stop =>
    intro q n c s h hlen hz
    exact runEngine_done h (safeStopEngine_ok hlen hz)
  case check =>
    intro q n c bs s h hhost hz hlen hal hread htimely hlatest
    exact runEngine_done h (checkInputEngine_ok hhost hz hlen hal hread htimely hlatest)
  case main =>
    intro q n c bs s h hhost hz hframe hlen hal hread htimely hlatest
    exact runEngine_done h (mainOutputEngine_frame hz hlen hal hread hhost hframe htimely hlatest)
  case golden =>
    intro q n c bs s h hhost hz hflag hlen hal hread
    exact runEngine_done h (mainOutputEngine_golden hz hlen hal hread hhost hflag)

section
variable {s : State} (ha : alive s = true)
include ha

/-! ### Check passes (R395) -/

section
variable {p : Pass} {rest : List Pass} (hpasses : s.safety.passes = p :: rest) (hfed : phaseUp s 6 = true)
include hpasses hfed

/-- The pass at the head gives its outputs: a golden one to the golden check, another to its frame, while that one's window lasts. -/
theorem exec_thistlePassDone_outputs {ys : List Word} (hcount : ys.length = outputCount s) :
    exec (.thistlePassDone ys false) s = .next (modSafety s (fun x =>
      if p.golden then { x with passes := rest, goldenChk := some ys }
      else if x.frame = some p.frame ∧ inWindow s = true then { x with passes := rest, check := some ys }
      else { x with passes := rest })) := by
  show execThistlePassDone ys false s = _
  unfold execThistlePassDone
  rw [whenAlive_alive ha]
  simp only [hpasses]
  rw [if_neg (by simp [hfed, hcount])]
  rfl

/-- An uncorrectable error leaves the pass at the head without a result; a golden pass is abandoned. -/
theorem exec_thistlePassDone_uncorrectable (ys : List Word) :
    exec (.thistlePassDone ys true) s = .next (raise (modSafety s (fun x =>
      { x with passes := rest, goldenOut := if p.golden then none else x.goldenOut })) 0x8004 66 []) := by
  show execThistlePassDone ys true s = _
  unfold execThistlePassDone
  rw [whenAlive_alive ha]
  simp only [hpasses]
  rw [if_neg (by simp [hfed])]
  rfl

end

/-! ### The comparison (R397, R399) -/

section
variable {t : Nat} (hframe : s.safety.frame = some t)
include hframe

section
variable (hopen : s.safety.decided = false) (hout : inSafe s = false)
include hopen hout

/-- A frame is decided once both channels' outputs are there. -/
theorem exec_comparatorDecision_both (hmain : s.safety.main.isSome = true) (hcheck : s.safety.check.isSome = true) :
    exec .comparatorDecision s = .next (decideFrame t s) := by
  show execComparatorDecision s = _
  unfold execComparatorDecision
  rw [whenAlive_alive ha]
  simp only [hframe]
  exact if_pos ⟨hopen, hout, hmain, hcheck⟩

/-- A frame is decided at its deadline with what is there. -/
theorem exec_compareDeadline_due (hdue : t + compareNs s ≤ s.time) : exec .compareDeadline s = .next (decideFrame t s) := by
  show execCompareDeadline s = _
  unfold execCompareDeadline
  rw [whenAlive_alive ha]
  simp only [hframe]
  exact if_pos ⟨hopen, hout, hdue⟩

end

/-- Cowslip's firmware ticks once for each frame (R404). -/
theorem exec_cowslipFrameTick_fresh (hfresh : s.safety.ticked ≠ some t) (hawake : inDrowse s = false) (hfirm : firmware s = true) :
    exec .cowslipFrameTick s = .next (frameTick t s) := by
  show execCowslipFrameTick s = _
  unfold execCowslipFrameTick
  rw [whenAlive_alive ha]
  simp only [hframe]
  exact if_neg (by simp [hfresh, hawake, hfirm])

end

/-- Outside the safe state the firmware takes a decision, once. -/
theorem exec_verdictAction_takes {d : Decision} (hdecision : s.safety.decision = some d) (hfirm : firmware s = true)
    (hout : inSafe s = false) : exec .verdictAction s =
      .next (takeVerdict d (modSafety s (fun x => { x with decision := none }))) := by
  have hstays : ¬ inSafe (modSafety s (fun x => { x with decision := none })) = true := ne_true_of_eq_false hout
  show execVerdictAction s = _
  unfold execVerdictAction
  rw [whenAlive_alive ha]
  simp only [hdecision]
  rw [if_neg (by simp [hfirm]), if_neg hstays]

/-! ### Golden passes and gates (R403, R407) -/

/-- A golden pass of both channels passes by its two signatures and by the agreement of its outputs. -/
theorem exec_goldenFrameCheck_judges {ym yc : List Word} {i : Image} {u : State} (hmain : s.safety.goldenOut = some ym)
    (hcheck : s.safety.goldenChk = some yc) (himage : s.image = some i) (hfirm : firmware s = true)
    (hu : u = modSafety s (fun x => { x with goldenOut := none, goldenChk := none })) :
    exec .goldenFrameCheck s = .next
      (if signature ym = i.sigMain ∧ signature yc = i.sigChk ∧ (compareAll i.tolerance ym yc).1 = .agree then goldenPassed u
        else goldenFailed (signature ym) (signature yc) u) := by
  subst hu
  show execGoldenFrameCheck s = _
  unfold execGoldenFrameCheck
  rw [whenAlive_alive ha]
  simp only [hmain, hcheck, himage]
  exact if_neg (by simp [hfirm])

/-- A golden pass that stays away for twice its interval takes the safe state. -/
theorem exec_goldenPassOverdue_due (hfirm : firmware s = true) (hbooted : s.harebell.booted = true) (hawake : inDrowse s = false)
    (hrun : inHold s = false) (hfirst : bitAt (regWord s Reg.SAFE_CAUSES) 6 = false)
    (hdue : s.safety.goldenBase + 2 * goldenMaxNs s ≤ s.time) : exec .goldenPassOverdue s = .next (safeBoth 6 s) := by
  show execGoldenPassOverdue s = _
  exact (whenAlive_alive ha).trans (if_pos ⟨hfirm, hbooted, hawake, hrun, hfirst, hdue⟩)

/-- A gate that has closed is taken, with the gates before it, and each of the ten inputs acts as it was sampled. -/
theorem exec_sampleGateClose_closed {u : State} (hclosed : gateClose s s.safety.gatesDone ≤ s.ticks)
    (hu : u = modSafety s (fun x => { x with gatesDone := (s.ticks - gateClose s 0) / 256 + 1 })) (l : List GateSample) :
    exec (.sampleGateClose l) s
      = .next (forEach ((List.range 10).zip l) (fun e v => gateInput e.1 (if e.1 = 3 then critInput v e.2 else e.2) v) u) := by
  subst hu
  show execSampleGateClose l s = _
  exact (whenAlive_alive ha).trans (if_neg (Nat.not_lt.2 hclosed))

end

/-- Settles O41: each event by its row's rule. -/
theorem comparisonEventsComplete : Obligations.ComparisonEventsComplete := by
  refine ⟨?outputs, ?uncorrectable, ?both, ?deadline, ?verdict, ?golden, ?overdue, ?gate, ?tick⟩
  case outputs =>
    intro p rest ys s ha hpasses hfed hcount
    exact exec_thistlePassDone_outputs ha hpasses hfed hcount
  case uncorrectable =>
    intro p rest ys s ha hpasses hfed
    exact exec_thistlePassDone_uncorrectable ha hpasses hfed ys
  case both =>
    intro t s ha hframe hopen hout hmain hcheck
    exact exec_comparatorDecision_both ha hframe hopen hout hmain hcheck
  case deadline =>
    intro t s ha hframe hopen hout hdue
    exact exec_compareDeadline_due ha hframe hopen hout hdue
  case verdict =>
    intro d s ha hdecision hfirm hout
    exact exec_verdictAction_takes ha hdecision hfirm hout
  case golden =>
    intro ym yc i s ha hmain hcheck himage hfirm
    exact ⟨_, rfl, exec_goldenFrameCheck_judges ha hmain hcheck himage hfirm rfl⟩
  case overdue =>
    intro s ha hfirm hbooted hawake hrun hfirst hdue
    exact exec_goldenPassOverdue_due ha hfirm hbooted hawake hrun hfirst hdue
  case gate =>
    intro l s u ha hclosed hu
    exact exec_sampleGateClose_closed ha hclosed hu l
  case tick =>
    intro t s ha hframe hfresh hawake hfirm
    exact exec_cowslipFrameTick_fresh ha hframe hfresh hawake hfirm

section
variable {s : State} (ha : alive s = true)
include ha

/-! ### Hardware causes of the safe state (Table 14.5; R401, R410, R411, R417) -/

theorem exec_lockstepMismatch : exec .lockstepMismatch s = .next (safeBoth 3 s) := by
  show execLockstepMismatch s = _
  exact whenAlive_alive ha

theorem exec_stopInput (b : Bool) : exec (.stopInput b) s = .next (stopLevel b false s) := by
  show execStopInput b s = _
  exact whenAlive_alive ha

/-- Stop contacts that have differed for STOP_DISC_MS. -/
theorem exec_stopDiscrepancy_due {t : Nat} (hsince : s.safety.stopSince = some t)
    (hdue : t + fget s Reg.SAFE_CFG_STOP_DISC_MS * 1000000 ≤ s.time) :
    exec .stopDiscrepancy s = .next (safeBoth 0xA (modSafety s (fun x => { x with stopSince := none }))) := by
  show execStopDiscrepancy s = _
  unfold execStopDiscrepancy
  rw [whenAlive_alive ha]
  simp only [hsince]
  exact if_pos hdue

/-- A watchdog not served for 1 ms, but for a Cowslip that bench debug holds halted (R420). -/
theorem exec_watchdogExpiry_due (hbooted : s.harebell.booted = true) (hfirst : bitAt (regWord s Reg.SAFE_CAUSES) 0xD = false)
    (hrun : (s.safety.halted && fbit s Reg.SAFE_STATUS_BENCH) = false) (hdue : s.safety.served + 1000000 ≤ s.time) :
    exec .watchdogExpiry s = .next (safeBoth 0xD s) := by
  show execWatchdogExpiry s = _
  exact (whenAlive_alive ha).trans (if_pos ⟨hbooted, hfirst, hrun, hdue⟩)

/-- Each output counts its mismatches in a row, and the second one is a cause. -/
theorem exec_outputReadbackCheck {a b : Pattern} {x y : Nat} {u : State}
    (hx : x = if Pattern.code a = fget s Reg.SAFE_STATUS_OUT_A then 0 else min (s.safety.missA + 1) 3)
    (hy : y = if Pattern.code b = fget s Reg.SAFE_STATUS_OUT_B then 0 else min (s.safety.missB + 1) 3)
    (hu : u = modSafety s (fun z => { z with missA := x, missB := y })) :
    exec (.outputReadbackCheck a b) s = .next (if x = 2 ∨ y = 2 then safeBoth 0xC u else u) := by
  subst hu hx hy
  show execOutputReadbackCheck a b s = _
  exact whenAlive_alive ha

/-- A clock of either island outside 250 MHz ± 5 % is a cause. -/
theorem exec_clockMonitor (b : Bool) (k : Nat) :
    exec (.clockMonitor b k) s = .next (if k < 237500 ∨ 262500 < k then safeBoth 0x10 s else s) := by
  show execClockMonitor b k s = _
  exact (whenAlive_alive ha).trans (apply_ite Host.Outcome.next _ _ _).symm

/-- Corrected words of Thistle and Cowslip are counted; an uncorrectable one of Cowslip is a cause. -/
theorem exec_safetySramScrub {j k : Nat} {u : State} (hu : u = fadd (fadd s (Reg.SAFE_CNT_COUNT 6) j) (Reg.SAFE_CNT_COUNT 7) k)
    (b : Bool) : exec (.safetySramScrub j k b) s = .next (if b then safeBoth 0x12 u else u) := by
  subst hu
  show execSafetySramScrub j k b s = _
  exact whenAlive_alive ha

/-! ### Cowslip's firmware (R414, R419, R430, R594) -/

theorem exec_cowslipDebugHalt_running (hrun : s.safety.halted = false) : exec .cowslipDebugHalt s = .next (haltCowslip s) := by
  show execCowslipDebugHalt s = _
  exact (whenAlive_alive ha).trans (if_neg (ne_true_of_eq_false hrun))

/-- In the safe state the firmware writes STO when the trajectory is over and all its loops are settled. -/
theorem exec_postureSettled_settled (hfirm : firmware s = true) (hin : inSafe s = true) (hknots : safeE s + lastKnot s ≤ s.time)
    (hloops : s.safety.trajRecs.all (loopSettled s) = true) : exec .postureSettled s = .next (stoWrite s) := by
  show execPostureSettled s = _
  exact (whenAlive_alive ha).trans (if_pos ⟨hfirm, hin, hknots, hloops⟩)

/-- An entry into the safe state reaches STO after TIMEOUT_MS. -/
theorem exec_safeTimeout_due (hstate : fget s Reg.SAFE_STATUS_STATE = 2)
    (hdue : safeE s + fget s Reg.SAFE_CFG_TIMEOUT_MS * 1000000 ≤ s.time) : exec .safeTimeout s = .next (reachSto 2 s) := by
  show execSafeTimeout s = _
  exact (whenAlive_alive ha).trans (if_pos ⟨hstate, hdue⟩)

/-- An overdue proof test is said with its age in hours, at 168 h and at every further 24 h. -/
theorem exec_proofIntervalDue_due {t : Nat} (hinjected : s.safety.injectAt = some t)
    (hdue : 168 + 24 * s.safety.proofSaid ≤ proofHours s t) :
    exec .proofIntervalDue s = .next (raise (modSafety s (fun x => { x with proofSaid := x.proofSaid + 1 })) 0x8032 safeIsland
      (u32 (proofHours s t))) := by
  show execProofIntervalDue s = _
  unfold execProofIntervalDue
  rw [whenAlive_alive ha]
  simp only [hinjected]
  exact if_pos hdue

theorem exec_cowslipRequestPagePoll (l : List CowslipRequest) :
    exec (.cowslipRequestPagePoll l) s = .next (forEach l serveRequest s) := by
  show execCowslipRequestPagePoll l s = _
  exact whenAlive_alive ha

end

/-- Settles O42: each monitor and each event of the firmware by its row's rule. -/
theorem safetyEventsComplete : Obligations.SafetyEventsComplete := by
  refine ⟨?lockstep, ?discrepancy, ?watchdog, ?readback, ?clock, ?scrub, ?stop, ?halt, ?settled, ?timeout, ?proof, ?page⟩
  case lockstep =>
    intro s ha
    exact exec_lockstepMismatch ha
  case discrepancy =>
    intro t s ha hsince hdue
    exact exec_stopDiscrepancy_due ha hsince hdue
  case watchdog =>
    intro s ha hbooted hfirst hrun hdue
    exact exec_watchdogExpiry_due ha hbooted hfirst hrun hdue
  case readback =>
    intro a b x y s ha hx hy
    exact ⟨_, rfl, exec_outputReadbackCheck ha hx hy rfl⟩
  case clock =>
    intro b k s ha
    exact exec_clockMonitor ha b k
  case scrub =>
    intro j k b s ha
    exact ⟨_, rfl, exec_safetySramScrub ha rfl b⟩
  case stop =>
    intro b s ha
    exact exec_stopInput ha b
  case halt =>
    intro s ha hrun
    exact exec_cowslipDebugHalt_running ha hrun
  case settled =>
    intro s ha hfirm hin hknots hloops
    exact exec_postureSettled_settled ha hfirm hin hknots hloops
  case timeout =>
    intro s ha hstate hdue
    exact exec_safeTimeout_due ha hstate hdue
  case proof =>
    intro t s ha hinjected hdue
    exact exec_proofIntervalDue_due ha hinjected hdue
  case page =>
    intro l s ha
    exact exec_cowslipRequestPagePoll ha l

end Sys2Proof.Machine
end

section
/-! SUPPORT. What every step does: it takes the front command and no other, every command answers, the rows that write no memory leave it,
and memory keeps what is written to it. -/

namespace Sys2Proof.Machine

/-! ### The block as a whole -/

/-- Settles O1: the step's case of a waiting command. -/
theorem stepRunsFrontCommand : Obligations.StepRunsFrontCommand := fun _ _ _ h => step_of_pending h

/-- Settles O5: with nothing waiting a tick leaves the empty queue; a command keeps the queue's rest, by the law of its row. -/
theorem stepTakesOneCommand : Obligations.StepTakesOneCommand := by
  intro s t e
  rcases hp : s.pending with _ | ⟨c, rest⟩
  · rw [step_of_idle hp] at e
    cases e
    exact (keep_clockTick absorbs_kept (Kept.refl s)).1.trans hp
  · rw [step_of_pending hp] at e
    exact (okO_get (exec_keeps c _) e).kept.1

/-- Settles O6: the meaning of each row answers. -/
theorem everyCommandAnswers : Obligations.EveryCommandAnswers := fun c _ => match c with
  | .powerOnReset .. => answers_execPowerOnReset ..
  | .rstNAssert => answers_execRstNAssert ..
  | .rstNRelease .. => answers_execRstNRelease ..
  | .bootDone => answers_execBootDone ..
  | .trialBootTimeout .. => answers_execTrialBootTimeout ..
  | .identityTreeRebuild => answers_execIdentityTreeRebuild ..
  | .wakeNLow .. => answers_execWakeNLow ..
  | .wakeAfterMsExpiry .. => answers_execWakeAfterMsExpiry ..
  | .presNChange .. => answers_execPresNChange ..
  | .presTermRemoval => answers_execPresTermRemoval ..
  | .vinLow .. => answers_execVinLow ..
  | .busShutoff => answers_execBusShutoff ..
  | .phaseFault .. => answers_execPhaseFault ..
  | .powerSample .. => answers_execPowerSample ..
  | .boostStep => answers_execBoostStep ..
  | .railRampDone => answers_execRailRampDone ..
  | .powerMessageReceive .. => answers_execPowerMessageReceive ..
  | .jobShareAdopt => answers_execJobShareAdopt ..
  | .thermalScan .. => answers_execThermalScan ..
  | .thermalTrip .. => answers_execThermalTrip ..
  | .thermalShutdown .. => answers_execThermalShutdown ..
  | .coolantSample .. => answers_execCoolantSample ..
  | .triggerFire .. => answers_execTriggerFire ..
  | .ringDeliverCopy .. => answers_execRingDeliverCopy ..
  | .ringFrameReturn .. => answers_execRingFrameReturn ..
  | .ringFrameOutcome .. => answers_execRingFrameOutcome ..
  | .ringLinkChange .. => answers_execRingLinkChange ..
  | .ringDiscoverReturn .. => answers_execRingDiscoverReturn ..
  | .ringLayoutReturn .. => answers_execRingLayoutReturn ..
  | .frameRelease .. => answers_execFrameRelease ..
  | .preclear .. => answers_execPreclear ..
  | .preclearLift .. => answers_execPreclearLift ..
  | .sliceEnd .. => answers_execSliceEnd ..
  | .npForced .. => answers_execNpForced ..
  | .goldenFrameStart => answers_execGoldenFrameStart ..
  | .goldenOverdue => answers_execGoldenOverdue ..
  | .commandStart .. => answers_execCommandStart ..
  | .replyPost .. => answers_execReplyPost ..
  | .fenceTimeout .. => answers_execFenceTimeout ..
  | .teardownComplete .. => answers_execTeardownComplete ..
  | .kvRegionInitDone .. => answers_execKvRegionInitDone ..
  | .scalarInstruction .. => answers_execScalarInstruction ..
  | .halt .. => answers_execHalt ..
  | .ucmd .. => answers_execUcmd ..
  | .unitCommandStart .. => answers_execUnitCommandStart ..
  | .unitCommandComplete .. => answers_execUnitCommandComplete ..
  | .stepClose .. => answers_execStepClose ..
  | .twait .. => answers_execTwait ..
  | .level .. => answers_execLevel ..
  | .dbell .. => answers_execDbell ..
  | .qwait .. => answers_execQwait ..
  | .npenter .. => answers_execNpenter ..
  | .npexit .. => answers_execNpexit ..
  | .jbar .. => answers_execJbar ..
  | .barrierArrival .. => answers_execBarrierArrival ..
  | .lbar .. => answers_execLbar ..
  | .tnow .. => answers_execTnow ..
  | .cwld .. => answers_execCwld ..
  | .cwst .. => answers_execCwst ..
  | .kernelLaunch .. => answers_execKernelLaunch ..
  | .shareZero .. => answers_execShareZero ..
  | .perfSnapshot .. => answers_execPerfSnapshot ..
  | .seqCreate .. => answers_execSeqCreate ..
  | .seqFree .. => answers_execSeqFree ..
  | .seqFork .. => answers_execSeqFork ..
  | .prefixMatch .. => answers_execPrefixMatch ..
  | .seqExtend .. => answers_execSeqExtend ..
  | .seqTruncate .. => answers_execSeqTruncate ..
  | .seqTrim .. => answers_execSeqTrim ..
  | .kvWrite .. => answers_execKvWrite ..
  | .attend .. => answers_execAttend ..
  | .stepRetire .. => answers_execStepRetire ..
  | .migrate .. => answers_execMigrate ..
  | .copy .. => answers_execCopy ..
  | .fill .. => answers_execFill ..
  | .translationInvalidate .. => answers_execTranslationInvalidate ..
  | .mapUpdate .. => answers_execMapUpdate ..
  | .mapPublish .. => answers_execMapPublish ..
  | .planQuery .. => answers_execPlanQuery ..
  | .planCheck .. => answers_execPlanCheck ..
  | .libLoad .. => answers_execLibLoad ..
  | .streamStart .. => answers_execStreamStart ..
  | .streamStop .. => answers_execStreamStop ..
  | .sampleRead .. => answers_execSampleRead ..
  | .calibFeed .. => answers_execCalibFeed ..
  | .calibSet .. => answers_execCalibSet ..
  | .calibRead .. => answers_execCalibRead ..
  | .setWrite .. => answers_execSetWrite ..
  | .setCommit .. => answers_execSetCommit ..
  | .setRead .. => answers_execSetRead ..
  | .imageHoldTimeout => answers_execImageHoldTimeout ..
  | .fence .. => answers_execFence ..
  | .powerCapSet .. => answers_execPowerCapSet ..
  | .powerModeSet .. => answers_execPowerModeSet ..
  | .powerRead .. => answers_execPowerRead ..
  | .storeWrite .. => answers_execStoreWrite ..
  | .storeVerify .. => answers_execStoreVerify ..
  | .fwActivate .. => answers_execFwActivate ..
  | .rollbackRaise .. => answers_execRollbackRaise ..
  | .attest .. => answers_execAttest ..
  | .identityRead .. => answers_execIdentityRead ..
  | .measExtend .. => answers_execMeasExtend ..
  | .warmReset .. => answers_execWarmReset ..
  | .powerStateSet .. => answers_execPowerStateSet ..
  | .netSend .. => answers_execNetSend ..
  | .regRead .. => answers_execRegRead ..
  | .regWrite .. => answers_execRegWrite ..
  | .logRead .. => answers_execLogRead ..
  | .logFreeze .. => answers_execLogFreeze ..
  | .logThaw .. => answers_execLogThaw ..
  | .logClear .. => answers_execLogClear ..
  | .freezeExpired => answers_execFreezeExpired ..
  | .logRecordWrite => answers_execLogRecordWrite ..
  | .recordStaging => answers_execRecordStaging ..
  | .opSecondsTick => answers_execOpSecondsTick ..
  | .safeRead .. => answers_execSafeRead ..
  | .safeModeSet .. => answers_execSafeModeSet ..
  | .safeStopRequest .. => answers_execSafeStopRequest ..
  | .checkInput .. => answers_execCheckInput ..
  | .mainOutput .. => answers_execMainOutput ..
  | .thistlePassDone .. => answers_execThistlePassDone ..
  | .comparatorDecision => answers_execComparatorDecision ..
  | .compareDeadline => answers_execCompareDeadline ..
  | .verdictAction => answers_execVerdictAction ..
  | .goldenFrameCheck => answers_execGoldenFrameCheck ..
  | .goldenPassOverdue => answers_execGoldenPassOverdue ..
  | .sampleGateClose .. => answers_execSampleGateClose ..
  | .cowslipFrameTick => answers_execCowslipFrameTick ..
  | .lockstepMismatch => answers_execLockstepMismatch ..
  | .stopDiscrepancy => answers_execStopDiscrepancy ..
  | .watchdogExpiry => answers_execWatchdogExpiry ..
  | .outputReadbackCheck .. => answers_execOutputReadbackCheck ..
  | .clockMonitor copyB _ => answers_execClockMonitor (a0 := copyB) ..
  | .cowslipDebugHalt => answers_execCowslipDebugHalt ..
  | .postureSettled => answers_execPostureSettled ..
  | .safeTimeout => answers_execSafeTimeout ..
  | .proofIntervalDue => answers_execProofIntervalDue ..
  | .jobJoin .. => answers_execJobJoin ..
  | .joinRequestReceive .. => answers_execJoinRequestReceive ..
  | .joinCommitReceive .. => answers_execJoinCommitReceive ..
  | .joinTimeout => answers_execJoinTimeout ..
  | .jobLeave .. => answers_execJobLeave ..
  | .lossMessageReceive .. => answers_execLossMessageReceive ..
  | .linkRetrain .. => answers_execLinkRetrain ..
  | .linkRead .. => answers_execLinkRead ..
  | .flitReplay .. => answers_execFlitReplay ..
  | .retrainStart .. => answers_execRetrainStart ..
  | .retrainEnd .. => answers_execRetrainEnd ..
  | .lanesSilent .. => answers_execLanesSilent ..
  | .linkTrainDone .. => answers_execLinkTrainDone ..
  | .linkFailedHoldoff .. => answers_execLinkFailedHoldoff ..
  | .remoteAccess .. => answers_execRemoteAccess ..
  | .timeSetIncr .. => answers_execTimeSetIncr ..
  | .triggerArm .. => answers_execTriggerArm ..
  | .timeRead .. => answers_execTimeRead ..
  | .syncReceive .. => answers_execSyncReceive ..
  | .syncLost .. => answers_execSyncLost ..
  | .holdoverEnd => answers_execHoldoverEnd ..
  | .domainReturn => answers_execDomainReturn ..
  | .steeringUpdate => answers_execSteeringUpdate ..
  | .gateEntryExpiry .. => answers_execGateEntryExpiry ..
  | .netFrameTransmit .. => answers_execNetFrameTransmit ..
  | .mgmtSubmit .. => answers_execMgmtSubmit ..
  | .mgmtPoll .. => answers_execMgmtPoll ..
  | .mgmtFrameRefused .. => answers_execMgmtFrameRefused ..
  | .replyFrameSend .. => answers_execReplyFrameSend ..
  | .replyResend .. => answers_execReplyResend ..
  | .sampleIngress .. => answers_execSampleIngress ..
  | .fuseRecordRelease .. => answers_execFuseRecordRelease ..
  | .fuseReleaseDeadline .. => answers_execFuseReleaseDeadline ..
  | .loopEnable .. => answers_execLoopEnable ..
  | .loopDisable .. => answers_execLoopDisable ..
  | .coefWrite .. => answers_execCoefWrite ..
  | .bankSwap .. => answers_execBankSwap ..
  | .setpointWrite .. => answers_execSetpointWrite ..
  | .tripClear .. => answers_execTripClear ..
  | .loopRead .. => answers_execLoopRead ..
  | .ringPortStart .. => answers_execRingPortStart ..
  | .ringPortStop .. => answers_execRingPortStop ..
  | .ringWordWrite .. => answers_execRingWordWrite ..
  | .ringSnapshot .. => answers_execRingSnapshot ..
  | .teaselArm .. => answers_execTeaselArm ..
  | .teaselRelease .. => answers_execTeaselRelease ..
  | .qmgrDoorbellWrite .. => answers_execQmgrDoorbellWrite ..
  | .queueCfgWrite .. => answers_execQueueCfgWrite ..
  | .ctxReset .. => answers_execCtxReset ..
  | .tileShareWrite .. => answers_execTileShareWrite ..
  | .tileThrAssign .. => answers_execTileThrAssign ..
  | .tileThrRelease .. => answers_execTileThrRelease ..
  | .perfClear .. => answers_execPerfClear ..
  | .tileFaultClear .. => answers_execTileFaultClear ..
  | .tileDbgHalt .. => answers_execTileDbgHalt ..
  | .tileDbgResume .. => answers_execTileDbgResume ..
  | .tileDbgStep .. => answers_execTileDbgStep ..
  | .tileDbgRegWrite .. => answers_execTileDbgRegWrite ..
  | .memCtxWrite .. => answers_execMemCtxWrite ..
  | .kvmCtxWrite .. => answers_execKvmCtxWrite ..
  | .ctlCfgWrite .. => answers_execCtlCfgWrite ..
  | .ctlCommit .. => answers_execCtlCommit ..
  | .ringCfgWrite .. => answers_execRingCfgWrite ..
  | .timeSet .. => answers_execTimeSet ..
  | .timeCfgWrite .. => answers_execTimeCfgWrite ..
  | .safeReqReq .. => answers_execSafeReqReq ..
  | .safeReqSto .. => answers_execSafeReqSto ..
  | .safeWdtServe .. => answers_execSafeWdtServe ..
  | .pwrCfgWrite .. => answers_execPwrCfgWrite ..
  | .pcieInboundWrite .. => answers_execPcieInboundWrite ..
  | .pcieCfgRead .. => answers_execPcieCfgRead ..
  | .pcieCfgWrite .. => answers_execPcieCfgWrite ..
  | .pcieMemRead .. => answers_execPcieMemRead ..
  | .pcieMemWrite .. => answers_execPcieMemWrite ..
  | .pcieInboundRequest .. => answers_execPcieInboundRequest ..
  | .pcieLinkChange .. => answers_execPcieLinkChange ..
  | .memDbgAddrWrite .. => answers_execMemDbgAddrWrite ..
  | .debugReadComplete => answers_execDebugReadComplete ..
  | .registerWrite .. => answers_execRegisterWrite ..
  | .scrubPassRead .. => answers_execScrubPassRead ..
  | .corrHourRoll => answers_execCorrHourRoll ..
  | .trainingPatternSeen .. => answers_execTrainingPatternSeen ..
  | .gmChange .. => answers_execGmChange ..
  | .syncTransmit .. => answers_execSyncTransmit ..
  | .stopInput .. => answers_execStopInput ..
  | .otherDropped .. => answers_execOtherDropped ..
  | .cowslipRequestPagePoll .. => answers_execCowslipRequestPagePoll ..
  | .safetySramScrub .. => answers_execSafetySramScrub ..

/-! ### Memory -/

/-- No row writes no memory and may set module time. -/
theorem plain_and_setsTime (c : Instr) : (plainCommand c && setsTime c) = false := by
  cases c <;> rfl

/-- A row that writes no memory keeps it. -/
theorem rowKeeps.same {c : Instr} {s t : State} (h : rowKeeps c s t) (hc : plainCommand c = true) : Same s t := by
  have hno : setsTime c = false := by
    simpa [hc] using plain_and_setsTime c
  rwa [rowKeeps, hno, if_neg Bool.false_ne_true, if_pos hc] at h

/-- Settles O9: the law of every row of `plainCommand` keeps the memory's bytes. -/
theorem plainCommandsLeaveMemory : Obligations.PlainCommandsLeaveMemory := by
  intro c s t hc e a
  obtain ⟨hmem, -⟩ := (okO_get (exec_keeps c s) e).same hc
  exact congrArg (storeGet memDefault · a) hmem

/-- Settles O10: the store's read after write, inside the bytes written and outside. -/
theorem memoryReadsBack : Obligations.MemoryReadsBack :=
  fun s a bs w => ⟨storeGetList_setList bs s.mem a w.mem, fun _ hb => memByte_memWrite_ne w hb⟩

/-- An empty store is in canonical form, so a state of empty stores is sound with its registers and clock in range. -/
theorem sound_reset : Sound State.reset where
  mem := storeWf_nil
  flash := storeWf_nil
  cw := by decide
  threads := storeWf_nil
  units := storeWf_nil
  vregs := storeWf_nil
  queues := storeWf_nil
  ctxs := storeWf_nil
  lanes := storeWf_nil
  mgmt := storeWf_nil
  barriers := storeWf_nil
  incr := by decide
  time := Nat.two_pow_pos 64
  frac := Nat.two_pow_pos 32

/-- Settles O4: the stores of the reset state are empty, and RESET_CAUSE is a word of its window. -/
theorem resetIsSound : Obligations.ResetIsSound := ⟨sound_reset, by decide, rfl, fun _ => rfl⟩

end Sys2Proof.Machine
end

section
/-! SUPPORT. What the module instructions of a thread do: sections, time, halting, tokens, levels, queues, and the registers of the window
(chapter 24 of the spec). -/

namespace Sys2Proof.Machine

/-! ### An issued instruction -/

@[simp] theorem advanced_launch (th : Thread) : (advanced th).launch = th.launch := rfl

section
variable {s : State} {tile t w : Nat}

/-- An instruction that its thread issues leaves what its effect leaves, on the thread past it and after the count. -/
theorem next_issue {func : Nat} {k : ModInstr → Thread → State → State} {u : State} (h : Issues s tile t func w)
    (e : k (decodeMod (thread s tile t) w) (advanced (thread s tile t)) (countIssue s tile t) = u) :
    (Host.Outcome.next (issue s tile t func k) : Out) = .next (issued s tile t u) := by
  rw [issue_run h, e]

/-- The count of issued instructions lies among the registers of the tiles, so a field of a lower word keeps its value. -/
theorem fget_countIssue (f : Field) (hf : f.word) (hlow : f.off < 0x1000000) (wf : Sound s) :
    fget (countIssue s tile t) f = fget s f := by
  rw [fget_word _ _ hf, fget_word _ _ hf]
  have hperf : 0x1000000 ≤ Reg.TILE_PERF tile 1 := by unfold Reg.TILE_PERF; omega
  exact congrArg (fun x => x / 2 ^ f.lo % 2 ^ f.len) (regWord_setReg64_ne _ wf.cw (by omega) (by omega))

theorem owner_countIssue {q : Nat} (hq : q < 16384) (wf : Sound s) : owner (countIssue s tile t) q = owner s q :=
  fget_countIssue (Reg.QMGR_QCFG_OWNER q) ⟨Nat.succ_pos _, Nat.le_of_ble_eq_true rfl⟩
    (by show Reg.QMGR_QCFG q < _; unfold Reg.QMGR_QCFG; omega) wf

theorem modnum_countIssue (wf : Sound s) : modnum (countIssue s tile t) = modnum s :=
  fget_countIssue _ ⟨by decide, by decide⟩ (by decide) wf

theorem inJob_countIssue (m : Nat) (wf : Sound s) : inJob (countIssue s tile t) m = inJob s m := by
  unfold inJob
  rw [fget_countIssue Reg.GLB_MODNUM_JOB_MASK ⟨by decide, by decide⟩ (by decide) wf]

/-! ### Halting (R47) -/

/-- A HALT of a thread outside a launch leaves it IDLE. -/
theorem retireHalt_alone {th : Thread} (hl : th.launch = none) : retireHalt tile t th s = rescheduleAll (sectionLeft (setThread s tile t
    { th with state := .idle, depth := 0, launch := none, lbars := 0, halting := false }) th.ctx) := by
  unfold retireHalt
  rw [hl]
  rfl

/-- A HALT of a thread of a launch leaves it IDLE, and finishes the launch where no thread of it is left (R72). -/
theorem retireHalt_launched {th : Thread} {id : Nat} {x y : Launch} {v : State} (hl : th.launch = some id)
    (hx : findLaunch s id = some x) (hy : y = { x with lbarCap := some (min (x.lbarCap.getD th.lbars) th.lbars) })
    (hv : v = setLaunch (setThread s tile t
      { th with state := .idle, depth := 0, launch := none, lbars := 0, halting := false }) y) :
    retireHalt tile t th s = rescheduleAll (sectionLeft
      (if (listedThreads v).any (fun e => decide (e.2.2.launch = some id)) then v else finishLaunch v y) th.ctx) := by
  have hfound (z : Thread) : (some id).bind (findLaunch (setThread s tile t z)) = some x := hx
  subst hy hv
  unfold retireHalt
  simp only [hl, hfound]

/-! ### Sections, time and halting (R47, R315, R587) -/

/-- NPENTER below depth 15 goes one section deeper. -/
theorem exec_npenter_deeper (h : Issues s tile t 0x06 w) (hd : (thread s tile t).depth < 15) :
    exec (.npenter tile t) s = .next (issued s tile t (setThread (countIssue s tile t) tile t
      { advanced (thread s tile t) with depth := (thread s tile t).depth + 1 })) :=
  next_issue h (if_neg (Nat.not_le.2 hd))

/-- NPEXIT inside a section leaves it. -/
theorem exec_npexit_leaves (h : Issues s tile t 0x07 w) (hd : (thread s tile t).depth ≠ 0) :
    exec (.npexit tile t) s = .next (issued s tile t (sectionLeft (setThread (countIssue s tile t) tile t
      { advanced (thread s tile t) with depth := (thread s tile t).depth - 1 }) (thread s tile t).ctx)) :=
  next_issue h (if_neg hd)

theorem exec_tnow_issued (h : Issues s tile t 0x09 w) : exec (.tnow tile t) s
    = .next (issued s tile t (setThread (countIssue s tile t) tile t
      (setXreg (advanced (thread s tile t)) (bits w 19 15) (BitVec.ofNat 64 s.time)))) :=
  next_issue h rfl

/-- A HALT waits for the thread's unit commands. -/
theorem exec_halt_waits (h : Issues s tile t 0x00 w) (hu : threadHasUnits s tile t = true) : exec (.halt tile t) s
    = .next (issued s tile t (setThread (countIssue s tile t) tile t { advanced (thread s tile t) with halting := true })) :=
  next_issue h (if_pos hu)

/-- A HALT of a thread without unit commands retires. -/
theorem exec_halt_retires (h : Issues s tile t 0x00 w) (hu : threadHasUnits s tile t = false) : exec (.halt tile t) s
    = .next (issued s tile t (retireHalt tile t (advanced (thread s tile t)) (countIssue s tile t))) :=
  next_issue h (if_neg (ne_true_of_eq_false hu))

/-! ### Tokens and levels (R48, R584) -/

theorem exec_twait_issued (h : Issues s tile t 0x02 w) : exec (.twait tile t) s
    = .next (issued s tile t (setThread (countIssue s tile t) tile t
      (if tokensIn (thread s tile t).tokens ((xreg (thread s tile t) (bits w 14 10)).toNat % 2 ^ 16)
        then { advanced (thread s tile t) with
          tokens := clearTokens (thread s tile t).tokens ((xreg (thread s tile t) (bits w 14 10)).toNat % 2 ^ 16) }
        else { advanced (thread s tile t) with
          state := .waiting, wait := .tokens ((xreg (thread s tile t) (bits w 14 10)).toNat % 2 ^ 16) }))) :=
  next_issue h (apply_ite (setThread (countIssue s tile t) tile t) _ _ _).symm

/-- LEVEL gives the level latched at a switch point of the launch's entry. -/
theorem exec_level_latched {p : Nat} {x : Launch} {e : Entry} (h : Issues s tile t 0x03 w)
    (hx : (thread s tile t).launch.bind (findLaunch s) = some x) (he : entryOf s x.entry = some e)
    (hp : p = (xreg (thread s tile t) (bits w 14 10)).toNat) (h0 : p ≠ 0) (hle : p ≤ e.switchCount) :
    exec (.level tile t) s = .next (issued s tile t (setThread (latchLevel (countIssue s tile t) x e p).2 tile t
      (setXreg (advanced (thread s tile t)) (bits w 19 15) (BitVec.ofNat 64 (latchLevel (countIssue s tile t) x e p).1)))) := by
  have hx' : (advanced (thread s tile t)).launch.bind (findLaunch (countIssue s tile t)) = some x := hx
  have he' : entryOf (countIssue s tile t) x.entry = some e := he
  subst hp
  refine next_issue h ?_
  simp only [hx', he']
  exact if_neg (not_or.2 ⟨h0, Nat.not_lt.2 hle⟩)

/-! ### Queues (R203, R586) -/

section
variable {q : Nat} (wf : Sound s) (hq : q = (xreg (thread s tile t) (bits w 14 10)).toNat) (h16 : 16 ≤ q) (hmax : q < 16384)
  (hown : owner s q = (thread s tile t).ctx)
include wf hq h16 hmax hown

/-- DBELL of at most 4,096 commands rings a queue of the context. -/
theorem exec_dbell_rings {n : Nat} (h : Issues s tile t 0x04 w) (hn : n = (xreg (thread s tile t) (bits w 9 5)).toNat) (hle : n ≤ 4096)
    (h0 : n ≠ 0) : exec (.dbell tile t) s
      = .next (issued s tile t (doorbell (setThread (countIssue s tile t) tile t (advanced (thread s tile t))) q n false)) := by
  subst hq hn
  have hmine : owner (countIssue s tile t) (xreg (thread s tile t) (bits w 14 10)).toNat = (thread s tile t).ctx :=
    (owner_countIssue hmax wf).trans hown
  refine next_issue h ?_
  exact (if_neg (not_or.2 ⟨Nat.not_lt.2 hle, Nat.not_le.2 hmax⟩)).trans ((if_neg h0).trans
    (if_neg (not_or.2 ⟨Nat.not_lt.2 h16, not_not_intro hmine⟩)))

/-- QWAIT of a queue of the context reads CQ_TAIL where it has moved, and waits for it otherwise. -/
theorem exec_qwait_issued (h : Issues s tile t 0x05 w) : exec (.qwait tile t) s
    = .next (issued s tile t (setThread (countIssue s tile t) tile t
      (if (queue s q).cqTail ≠ (xreg (thread s tile t) (bits w 9 5)).toNat % 2 ^ 32
        then setXreg (advanced (thread s tile t)) (bits w 19 15) (BitVec.ofNat 64 (queue s q).cqTail)
        else { advanced (thread s tile t) with
          state := .waiting, wait := .queue q ((xreg (thread s tile t) (bits w 9 5)).toNat % 2 ^ 32) (bits w 19 15) }))) := by
  subst hq
  have hmine : owner (countIssue s tile t) (xreg (thread s tile t) (bits w 14 10)).toNat = (thread s tile t).ctx :=
    (owner_countIssue hmax wf).trans hown
  refine next_issue h ?_
  exact (if_neg (not_or.2 ⟨Nat.not_lt.2 h16, not_or.2 ⟨Nat.not_le.2 hmax, not_not_intro hmine⟩⟩)).trans
    (apply_ite (setThread (countIssue s tile t) tile t) _ _ _).symm

end

end

/-- Settles O25: each instruction by its effect on the thread past it. -/
theorem threadInstructionsComplete : Obligations.ThreadInstructionsComplete := by
  refine ⟨?enter, ?exit, ?now, ?haltWaits, ?haltAlone, ?haltLaunched, ?tokens, ?level, ?ring, ?tail⟩
  case enter =>
    intro tile t w s h hd
    exact exec_npenter_deeper h hd
  case exit =>
    intro tile t w s h hd
    exact exec_npexit_leaves h hd
  case now =>
    intro tile t w s h
    exact exec_tnow_issued h
  case haltWaits =>
    intro tile t w s h hu
    exact exec_halt_waits h hu
  case haltAlone =>
    intro tile t w s h hu hl
    rw [exec_halt_retires h hu, retireHalt_alone ((advanced_launch _).trans hl)]
    rfl
  case haltLaunched =>
    intro tile t w id x s u v h hu hl hx hthread hv
    have hx' : findLaunch (countIssue s tile t) id = some x := hx
    subst hthread
    rw [exec_halt_retires h hu, retireHalt_launched ((advanced_launch _).trans hl) hx' rfl hv]
    rfl
  case tokens =>
    intro tile t w s h
    exact exec_twait_issued h
  case level =>
    intro tile t w p x e s h hx he hp h0 hle
    exact exec_level_latched h hx he hp h0 hle
  case ring =>
    intro tile t w q n s wf h hq hn hle hmax h0 h16 hown
    exact exec_dbell_rings wf hq h16 hmax hown h hn hle h0
  case tail =>
    intro tile t w q s wf h hq h16 hmax hown
    exact exec_qwait_issued wf hq h16 hmax hown h

/-! ### Registers of the window (R583) -/

section
variable {s : State} {tile t w : Nat} (hrun : runtimeCtx s = some (thread s tile t).ctx)
  (h4 : (xreg (thread s tile t) (bits w 14 10)).toNat % 2 ^ 26 % 4 = 0)
include hrun h4

section
variable (wf : Sound s) (h : Issues s tile t 0x0A w)
include wf h

/-- CWLD of the runtime's thread that names this module reads a register of its own window. -/
theorem exec_cwld_local (hown : (xreg (thread s tile t) (bits w 9 5)).toNat % 4 = modnum s) (hjob : inJob s (modnum s) = true)
    (v : Word) (a : PcieCompletion) : exec (.cwld tile t v a) s
      = .next (issued s tile t (cwldLocal tile t (bits w 19 15) ((xreg (thread s tile t) (bits w 14 10)).toNat % 2 ^ 26)
        (advanced (thread s tile t)) a (countIssue s tile t))) := by
  have hin : ¬ inJob (countIssue s tile t) ((xreg (thread s tile t) (bits w 9 5)).toNat % 4) = false := by
    simp [inJob_countIssue _ wf, hown, hjob]
  exact next_issue h ((if_neg (not_not_intro hrun)).trans ((if_neg (not_not_intro h4)).trans
    ((if_neg hin).trans (if_pos (hown.trans (modnum_countIssue wf).symm)))))

/-- CWLD of the runtime's thread that names another member gives the word it answers. -/
theorem exec_cwld_remote (hother : (xreg (thread s tile t) (bits w 9 5)).toNat % 4 ≠ modnum s)
    (hjob : inJob s ((xreg (thread s tile t) (bits w 9 5)).toNat % 4) = true) (v : Word) (a : PcieCompletion) :
    exec (.cwld tile t v a) s = .next (issued s tile t (setThread (countIssue s tile t) tile t
      (setXreg (advanced (thread s tile t)) (bits w 19 15) (v.setWidth 64)))) := by
  have hin : ¬ inJob (countIssue s tile t) ((xreg (thread s tile t) (bits w 9 5)).toNat % 4) = false := by
    simp [inJob_countIssue _ wf, hjob]
  exact next_issue h ((if_neg (not_not_intro hrun)).trans ((if_neg (not_not_intro h4)).trans
    ((if_neg hin).trans (if_neg fun e => hother (e.trans (modnum_countIssue wf))))))

end

/-- CWST of the runtime's thread writes a register of the window. -/
theorem exec_cwst_writes (h : Issues s tile t 0x0B w) (a : PcieCompletion) : exec (.cwst tile t a) s
    = .next (issued s tile t (windowWrite .runtime a ((xreg (thread s tile t) (bits w 14 10)).toNat % 2 ^ 26)
      ((xreg (thread s tile t) (bits w 9 5)).toNat % 2 ^ 32) (setThread (countIssue s tile t) tile t (advanced (thread s tile t))))) :=
  next_issue h ((if_neg (not_not_intro hrun)).trans (if_neg (not_not_intro h4)))

end

/-- A local read of a register that is not the debug window's data. -/
theorem cwldLocal_reads {tile t rd off : Nat} {th : Thread} {a : PcieCompletion} {s : State} (hoff : off ≠ Reg.MEM_DBG_DATA) :
    cwldLocal tile t rd off th a s
      = setThread (windowRead a s off).2 tile t (setXreg th rd (BitVec.ofNat 64 (windowRead a s off).1)) :=
  if_neg fun e => hoff e.1

/-- Settles O26: CWLD by the module it names, CWST by the write of the window. -/
theorem windowInstructionsComplete : Obligations.WindowInstructionsComplete := by
  refine ⟨?reads, ?data, ?remote, ?writes⟩
  case reads =>
    intro tile t w off v a s wf h hrun hoff h4 hown hjob hdata
    subst hoff
    rw [exec_cwld_local hrun h4 wf h hown hjob, cwldLocal_reads hdata]
  case data =>
    intro tile t w v a s wf h hrun hoff hown hjob
    rw [exec_cwld_local hrun (by rw [hoff]; decide) wf h hown hjob, hoff]
  case remote =>
    intro tile t w v a s wf h hrun h4 hother hjob
    exact exec_cwld_remote hrun h4 wf h hother hjob v a
  case writes =>
    intro tile t w off a s wf h hrun hoff h4
    subst hoff
    exact exec_cwst_writes hrun h4 h a

end Sys2Proof.Machine
end

section
/-! SUPPORT. What REG_READ and REG_WRITE do (R579), and the rows of the PCIe root port and of memory upkeep (R140, R445, R566 to R568,
R595). -/

namespace Sys2Proof.Machine

/-! ### REG_READ and REG_WRITE -/

section
variable {q : Nat} {c : QCmd} {s : State} (hparams : regParamsBad q c = false) (hlen : c.length ≠ 0)

/-- What REG_READ read is stored at its operand. -/
theorem putRegs_ok {bs : List Byte} {t : State} (hwrite : opWrite s q (c.field 24 8) bs = .ok t) : putRegs q c bs s = okay t := by
  unfold putRegs
  rw [hwrite]

section
variable {n : Nat} {v : State} (hroom : opWrite s q (c.field 24 8) (List.replicate (4 * c.length) 0) = .ok v)
include hparams hlen hroom

/-- REG_READ of this module reads its own window upward. -/
theorem regReadEngine_local {as : List PcieCompletion} {bs : List Byte} {t u : State} (hown : c.field 20 1 = modnum s)
    (hjob : inJob s (modnum s) = true) (hread : readRegs as c.length 0 (c.field 16 4) s = (bs, u))
    (hwrite : opWrite u q (c.field 24 8) bs = .ok t) (remote : List Word) : regReadEngine q n remote as c s = okay t := by
  unfold regReadEngine
  rw [if_neg (ne_true_of_eq_false hparams), if_neg hlen, if_neg (by simp [hown, hjob]), hroom]
  dsimp only
  rw [if_neg (not_not_intro hown), hread]
  exact putRegs_ok hwrite

/-- REG_READ of another member gives the words it answers. -/
theorem regReadEngine_remote {remote : List Word} {t : State} (hother : c.field 20 1 ≠ modnum s)
    (hjob : inJob s (c.field 20 1) = true) (hcount : remote.length = c.length)
    (hwrite : opWrite s q (c.field 24 8) (wordsToBytes remote) = .ok t) (as : List PcieCompletion) :
    regReadEngine q n remote as c s = okay t := by
  unfold regReadEngine
  rw [if_neg (ne_true_of_eq_false hparams), if_neg hlen, if_neg (by simp [hjob]), hroom]
  dsimp only
  rw [if_pos hother, if_pos hcount]
  exact putRegs_ok hwrite

end

/-- REG_WRITE of this module writes its window in order; its detail names the first word that was refused. -/
theorem regWriteEngine_local {as : List PcieCompletion} {bs : List Byte} {i : Option Nat} {t : State} (hparams : regParamsBad q c = false)
    (hlen : c.length ≠ 0) (hown : c.field 20 1 = modnum s) (hread : opRead s q (c.field 24 8) (4 * c.length) = .ok bs)
    (hwrite : writeRegs as (c.field 16 4) (bytesToWords c.length bs) (writeOrder (c.field 16 4) c.length 0) none s = (i, t)) :
    regWriteEngine q as c s = okay t ((i.map (1 + ·)).getD 0) := by
  unfold regWriteEngine
  rw [if_neg (ne_true_of_eq_false hparams), if_neg hlen, if_neg (not_not_intro hown), hread]
  dsimp only
  rw [hwrite]
  cases i <;> rfl

end

/-- Settles O38: the engine of each command passes its checks. -/
theorem registerCommandsComplete : Obligations.RegisterCommandsComplete := by
  refine ⟨?reads, ?asks, ?writes⟩
  case reads =>
    intro q n remote as c bs s u v t h hparams hlen hown hjob hroom hread hwrite
    exact runEngine_done h (regReadEngine_local hparams hlen hroom hown hjob hread hwrite remote)
  case asks =>
    intro q n remote as c s v t h hparams hlen hother hjob hroom hcount hwrite
    exact runEngine_done h (regReadEngine_remote hparams hlen hroom hother hjob hcount hwrite as)
  case writes =>
    intro q n off as c bs i s t h hparams hlen hown hread hoff hwrite
    subst hoff
    exact runEngine_done h (regWriteEngine_local hparams hlen hown hread hwrite)

/-! ### The PCIe root port, the debug window and the scrubber -/

section
variable {s : State} (ha : alive s = true)
include ha

/-- An access of an agent that R34 lets into the window takes effect in a live module. -/
theorem whenAlive_agent {a : Agent} {f : State → State} (hm : mayAccess a = true) :
    whenAlive s (fun s => .next (if mayAccess a then f s else s)) = .next (f s) :=
  (whenAlive_alive ha).trans (congrArg Host.Outcome.next (if_pos hm))

/-- A link that comes up at a speed and width it has shows them, and raises 0xA101 where it was down (R568). -/
theorem exec_pcieLinkChange_up {k w : Nat} (hawake : inDrowse s = false) (hfed : phaseUp s 5 = true) (h1 : 1 ≤ k)
    (hk : k ≤ fget s Reg.PCIE_CFG_MAX_SPEED) (hw : w ∈ [1, 2, 4, 8]) {u : State}
    (hu : u = setRegWord s Reg.PCIE_STATUS (w * 0x100 + k * 4 + 1)) :
    exec (.pcieLinkChange true k w) s = .next (if fbit s Reg.PCIE_STATUS_LINK_UP = true then u
      else raise u 0xA101 pcieIsland (u8 (bits (w * 0x100 + k * 4 + 1) 4 2) ++ u8 (bits (w * 0x100 + k * 4 + 1) 11 8))) := by
  have hwidth : [1, 2, 4, 8].contains w = true := List.contains_iff_mem.2 hw
  have hsound : ¬ (true = true ∧ (inDrowse s = true ∨ phaseUp s 5 = false ∨ ¬ (1 ≤ k ∧ k ≤ fget s Reg.PCIE_CFG_MAX_SPEED)
      ∨ [1, 2, 4, 8].contains w = false)) := by
    rw [hwidth]
    simp [hawake, hfed, h1, hk]
  subst hu
  show execPcieLinkChange true k w s = _
  unfold execPcieLinkChange
  rw [whenAlive_alive ha]
  exact if_neg hsound

/-- A link that goes down shows nothing, and raises 0xA101 where it was up (R568). -/
theorem exec_pcieLinkChange_down (k w : Nat) :
    exec (.pcieLinkChange false k w) s = .next (if fbit s Reg.PCIE_STATUS_LINK_UP = false then setRegWord s Reg.PCIE_STATUS 0
      else raise (setRegWord s Reg.PCIE_STATUS 0) 0xA101 pcieIsland (u8 0 ++ u8 0)) := by
  show execPcieLinkChange false k w s = _
  unfold execPcieLinkChange
  rw [whenAlive_alive ha]
  have hdown : ¬ (false = true ∧ (inDrowse s = true ∨ phaseUp s 5 = false
      ∨ ¬ (1 ≤ k ∧ k ≤ fget s Reg.PCIE_CFG_MAX_SPEED) ∨ [1, 2, 4, 8].contains w = false)) := fun h => Bool.false_ne_true h.1
  rw [if_neg hdown]
  simp only [Bool.false_eq_true, if_false]
  rfl

end

/-- Settles O56: each row by the rule of its register or event. -/
theorem pcieRowsComplete : Obligations.PcieRowsComplete := by
  refine ⟨?window, ?cfgRead, ?cfgWrite, ?memRead, ?memWrite, ?request, ?linkUp, ?linkDown, ?debug, ?scrub, ?hour⟩
  case window =>
    intro a v s ha hm
    exact whenAlive_agent ha hm
  case cfgRead =>
    intro a p s ha hm
    exact whenAlive_agent ha (f := fun s => keepData Reg.PCIE_CFG_DATA (pcieCfgRead p s)) hm
  case cfgWrite =>
    intro a v p s ha hm
    exact whenAlive_agent ha hm
  case memRead =>
    intro a p s ha hm
    exact whenAlive_agent ha (f := fun s => keepData Reg.PCIE_MEM_DATA (pcieMemRead p s)) hm
  case memWrite =>
    intro a v p s ha hm
    exact whenAlive_agent ha hm
  case request =>
    intro r s ha hawake hfed
    show execPcieInboundRequest r s = _
    exact (whenFed_fed ha hfed).trans (congrArg _ (if_neg (ne_true_of_eq_false hawake)))
  case linkUp =>
    intro k w s ha hawake hfed h1 hk hw
    exact ⟨_, rfl, exec_pcieLinkChange_up ha hawake hfed h1 hk hw rfl⟩
  case linkDown =>
    intro k w s ha
    exact exec_pcieLinkChange_down ha k w
  case debug =>
    intro s ha
    show execDebugReadComplete s = _
    exact whenAlive_alive ha
  case scrub =>
    intro a r s ha hlp hon
    show execScrubPassRead a r s = _
    exact (whenAlive_alive ha).trans (if_pos ⟨hlp, hon⟩)
  case hour =>
    intro s ha
    show execCorrHourRoll s = _
    exact whenAlive_alive ha

end Sys2Proof.Machine
end

section
/-! SUPPORT. What the log commands and the recorder do: freezing, clearing and reading the log, staging, writing, and the second counter
(chapter 17 of the spec). -/

namespace Sys2Proof.Machine

section
variable {c : QCmd} {s : State}

/-! ### Log commands (R462 to R464) -/

section
variable (hz : c.reservedZero [] = true) (hlen : c.length = 1)
include hz hlen

/-- LOG_FREEZE of a log that runs stops it at its newest record. -/
theorem logFreezeEngine_ok (hruns : s.tansy.frozen = false) : logFreezeEngine c s
    = okay (modTansy s (fun t => { t with frozen := true, freezeSeq := t.nextSeq - 1, freezeAt := s.time })) :=
  if_neg (by simp [hz, hlen, hruns])

theorem logThawEngine_ok : logThawEngine c s = okay (modTansy s (fun t => { t with frozen := false })) :=
  if_neg (by simp [hz, hlen])

/-- LOG_CLEAR of a frozen log empties it, and the record of the clear is its first. -/
theorem logClearEngine_ok (hfrozen : s.tansy.frozen = true) {e : Event}
    (he : e = Event.mk 0xC003 logIsland 0 0xFF s.time (u32 s.tansy.nextSeq ++ u32 s.tansy.lostTotal ++ u32 s.tansy.dropped)) :
    logClearEngine c s = okay (modTansy s (fun t => logAppend { t with
      slots := storeDrop (fun i => decide (i < t.nextSeq)) t.slots, bad := t.bad.filter (fun i => decide (t.nextSeq ≤ i))
      clearTime := s.time, clearCycle := t.powerCycle, clearSeconds := t.opSeconds, nextSeq := 1, full := false
      reserveFull := false, lostTotal := 0, dropped := 0, freezeSeq := 0 } (modnum s) e)) := by
  subst he
  exact if_neg (by simp [hz, hlen, hfrozen])

end

/-- LOG_READ stores the header and the slots it reads, and counts those that it could read. -/
theorem logReadEngine_ok {q k : Nat} {bs : List Byte} {t u : State} (hz : c.reservedZero [(16, 4), (24, 8)] = true)
    (hfirst : c.field 16 4 ≠ 0) (hlen : c.length ≤ 32767) (hal : opAligned q (c.field 24 8) 64 = true)
    (hread : (List.range c.length).foldl (fun p i => readSlot (c.field 16 4 + i) p) (logHeader s.tansy, 0, s) = (bs, k, u))
    (hwrite : opWrite u q (c.field 24 8) bs = .ok t) : logReadEngine q c s = okay t (min k 0xFFFF) := by
  unfold logReadEngine
  dsimp only
  rw [if_neg (by simp [hz, hfirst, hal, Nat.not_lt.2 hlen]), hread]
  dsimp only
  rw [hwrite]

/-! ### The recorder (R457, R459 to R462) -/

/-- A freeze of 50 ms ends, and is recorded. -/
theorem exec_freezeExpired_due (hfrozen : s.tansy.frozen = true) (hdue : s.tansy.freezeAt + 50000000 ≤ s.time) :
    exec .freezeExpired s = .next (raise (modTansy s (fun t => { t with frozen := false })) 0xC005 logIsland []) :=
  if_pos ⟨hfrozen, hdue⟩

section
variable {e : Event} {rest : List Event}

section
variable (hraised : s.tansy.raised = e :: rest)
include hraised

/-- A raised record is staged where fewer than 64 wait. -/
theorem exec_recordStaging_room (hroom : s.tansy.staging.length < 64) : exec .recordStaging s
    = .next (modTansy s (fun t => dropRefused { t with raised := rest, staging := t.staging ++ [e] } s.time)) := by
  show execRecordStaging s = _
  unfold execRecordStaging
  rw [hraised]
  exact congrArg (fun t => Host.Outcome.next { s with tansy := t }) (if_pos hroom)

/-- A raised record is lost where 64 wait. -/
theorem exec_recordStaging_full (hfull : 64 ≤ s.tansy.staging.length) : exec .recordStaging s
    = .next (modTansy s (fun t => { t with
      raised := rest, lost := t.lost + 1, lostTotal := satAdd 32 t.lostTotal 1
      lostFirst := if t.lost = 0 then e.time else t.lostFirst, lostLast := e.time })) := by
  show execRecordStaging s = _
  unfold execRecordStaging
  rw [hraised]
  exact congrArg (fun t => Host.Outcome.next { s with tansy := t }) (if_neg (Nat.not_lt.2 hfull))

end

/-- The oldest staged record is written into a log that is neither frozen nor still scanned. -/
theorem exec_logRecordWrite_oldest (hstaged : s.tansy.staging = e :: rest) (hruns : s.tansy.frozen = false)
    (hscan : s.tansy.scanDone = true) : exec .logRecordWrite s = .next (modTansy s (fun t =>
      dropRefused (logWrite (noteLost { t with staging := rest } s.time) (modnum s) s.time e) s.time)) := by
  show execLogRecordWrite s = _
  unfold execLogRecordWrite
  rw [hstaged]
  exact if_neg (by simp [hruns, hscan])

end

/-- A second of operation counts, and the count is stored every 60 s. -/
theorem exec_opSecondsTick_counts (hawake : s.power.dormant = false) (hon : s.power.off = false) {k : Nat}
    (hk : k = (s.tansy.opSeconds + 1) % 2 ^ 32) : exec .opSecondsTick s
      = .next (modTansy s (fun t => { t with opSeconds := k, stored := if k % 60 = 0 then k else t.stored })) := by
  subst hk
  exact if_neg (by simp [hawake, hon])

end

/-- Settles O39: the engine of each log command passes its checks, and each event of the recorder is due. -/
theorem logRowsComplete : Obligations.LogRowsComplete := by
  refine ⟨?freeze, ?thaw, ?clear, ?read, ?expired, ?staged, ?lost, ?write, ?second⟩
  case freeze =>
    intro q n c s h hz hlen hruns
    exact runEngine_done h (logFreezeEngine_ok hz hlen hruns)
  case thaw =>
    intro q n c s h hz hlen
    exact runEngine_done h (logThawEngine_ok hz hlen)
  case clear =>
    intro q n c s h hz hlen hfrozen
    exact ⟨_, rfl, runEngine_done h (logClearEngine_ok hz hlen hfrozen rfl)⟩
  case read =>
    intro q n k c bs s u t h hz hfirst hlen hal hread hwrite
    exact runEngine_done h (logReadEngine_ok hz hfirst hlen hal hread hwrite)
  case expired =>
    intro s hfrozen hdue
    exact exec_freezeExpired_due hfrozen hdue
  case staged =>
    intro e rest s hraised hroom
    exact exec_recordStaging_room hraised hroom
  case lost =>
    intro e rest s hraised hfull
    exact exec_recordStaging_full hraised hfull
  case write =>
    intro e rest s hstaged hruns hscan
    exact exec_logRecordWrite_oldest hstaged hruns hscan
  case second =>
    intro s hawake hon
    exact ⟨_, rfl, exec_opSecondsTick_counts hawake hon rfl⟩

end Sys2Proof.Machine
end

section
/-! SUPPORT. What Mallow's rows do: samples, boost, ramps and job shares, the power commands, and the events of presence, supply and
temperature (chapter 18 of the spec). -/

namespace Sys2Proof.Machine

/-! ### Samples, boost, ramps and shares (R475 to R480) -/

section
variable {s : State}

/-- A boost step raises the clock by 25 MHz, up to the permitted clock. -/
theorem exec_boostStep_rises (ha : alive s = true) (hboost : fbit s Reg.PWR_STATUS_FIXED = false) (hramp : s.power.ramp = none)
    (hrun : 200 ≤ s.power.boostRun) (halone : inJobWithOthers s = false)
    (hle : fget s Reg.PWR_FREQ_CURRENT_MHZ ≤ fget s Reg.PWR_FREQ_PERMITTED_MHZ) :
    exec .boostStep s = .next (modPower (fset s Reg.PWR_FREQ_CURRENT_MHZ
      (min (fget s Reg.PWR_FREQ_CURRENT_MHZ + 25) (fget s Reg.PWR_FREQ_PERMITTED_MHZ))) (fun p => { p with boostRun := 0 })) := by
  have hup : max (fget s Reg.PWR_FREQ_CURRENT_MHZ) (min (fget s Reg.PWR_FREQ_CURRENT_MHZ + 25) (fget s Reg.PWR_FREQ_PERMITTED_MHZ))
      = min (fget s Reg.PWR_FREQ_CURRENT_MHZ + 25) (fget s Reg.PWR_FREQ_PERMITTED_MHZ) := by omega
  rw [← hup]
  exact if_pos ⟨ha, hboost, hramp, hrun, halone⟩

/-- The clock of a boost step is read back, since it does not exceed another clock of the register. -/
theorem fget_boosted (w : Sound s) {v : Nat} (hv : v ≤ fget s Reg.PWR_FREQ_PERMITTED_MHZ) :
    fget (fset s Reg.PWR_FREQ_CURRENT_MHZ v) Reg.PWR_FREQ_CURRENT_MHZ = v := by
  have hwide : fget s Reg.PWR_FREQ_PERMITTED_MHZ < 2 ^ 10 := Nat.mod_lt _ (Nat.two_pow_pos 10)
  rw [fget_fset_same _ _ ⟨by decide, by decide⟩ w.cw]
  exact Nat.mod_eq_of_lt (Nat.lt_of_le_of_lt hv hwide)

/-- The end of a rail's ramp changes FIXED and completes the command that started it. -/
theorem exec_railRampDone_ends {fixed q n : Nat} (hramp : s.power.ramp = some (fixed, q, n)) :
    exec .railRampDone s = .next (completeCmd
      (fset (modPower (fsetb s Reg.PWR_STATUS_RAMPING false) (fun p => { p with ramp := none })) Reg.PWR_STATUS_FIXED fixed)
      q n Status.ok 0) := by
  show execRailRampDone s = _
  unfold execRailRampDone
  rw [hramp]

/-- An element put into a sorted list is in it. -/
theorem mem_insertBy {α : Type} (key : α → Nat) (x : α) : ∀ l : List α, x ∈ insertBy key x l
  | [] => List.mem_singleton_self x
  | y :: ys => by
    unfold insertBy
    split
    · exact List.mem_cons_self
    · exact List.mem_cons_of_mem _ (mem_insertBy key x ys)

/-- A power message of another member is kept, and changes no register and no memory, whether it starts an adoption or not. -/
theorem exec_powerMessageReceive_keeps {m : Nat} (ha : alive s = true) (hm : m ≠ modnum s) (hjob : inJob s m = true) (own mhz : Nat) :
    ∃ t, exec (.powerMessageReceive m own mhz) s = .next t ∧ (m, min own 224, mhz) ∈ t.power.peers ∧ t.cw = s.cw ∧ t.mem = s.mem := by
  show ∃ t, execPowerMessageReceive m own mhz s = _ ∧ _
  unfold execPowerMessageReceive
  rw [if_neg (by simp [ha, hm, hjob])]
  dsimp only
  split
  · exact ⟨_, rfl, mem_insertBy _ _ _, rfl, rfl⟩
  · exact ⟨_, rfl, mem_insertBy _ _ _, rfl, rfl⟩

/-- The job's share and clock are adopted at a boundary, or 1 ms after the message. -/
theorem exec_jobShareAdopt_due {t : Nat} (hadopt : s.power.adopt = some t) (hdue : s.boundary = true ∨ t + 1000000 ≤ s.time) :
    exec .jobShareAdopt s = .next (adoptJob s) := by
  show execJobShareAdopt s = _
  unfold execJobShareAdopt
  rw [hadopt]
  exact if_pos hdue

/-! ### Power commands (R479, R488) -/

section
variable {q : Nat} {c : QCmd} (hlen : c.length = 1)
include hlen

/-- POWER_CAP_SET of caps of 60 W or more, up to the set's, lowers the caps and tests the bucket again. -/
theorem powerCapEngine_ok {vs vp : Nat} (hz : c.reservedZero [(16, 4)] = true)
    (hvs : vs = (if c.field 16 2 = 0 then fget s Reg.PWR_CAP_CAP_S else c.field 16 2))
    (hvp : vp = (if c.field 18 2 = 0 then fget s Reg.PWR_CAP_CAP_P else c.field 18 2))
    (hs : 60 ≤ vs) (hs' : vs ≤ fget s Reg.PWR_CAP_CAP_S) (hp : 60 ≤ vp) (hp' : vp ≤ fget s Reg.PWR_CAP_CAP_P) (hle : vs ≤ vp) :
    powerCapEngine c s = okay (bucketTest (modPower s (fun p => { p with
      capS := capField vs (fget s Reg.PWR_CAP_CAP_S), capP := capField vp (fget s Reg.PWR_CAP_CAP_P) }))) := by
  unfold powerCapEngine
  simp only [← hvs, ← hvp]
  exact if_neg (by simp [hz, hlen, Nat.not_lt.2 hs, Nat.not_lt.2 hs', Nat.not_lt.2 hp, Nat.not_lt.2 hp', Nat.not_lt.2 hle])

section
variable (hz : c.reservedZero [(16, 1)] = true) (he : c.engaged = false) (hmode : c.field 16 1 ≤ 1) (hsafe : inSafe s = false)
  (halone : inJobWithOthers s = false) (hramp : s.power.ramp = none)
include hz he hmode hsafe halone hramp

/-- POWER_MODE_SET outside the safe state, a job and a ramp looks at the mode. -/
theorem powerModeEngine_checked : powerModeEngine q c s = if fget s Reg.PWR_STATUS_FIXED = c.field 16 1 then okay s
    else .wait (startRamp (c.field 16 1) q c.n (modCmd s q c.n (fun d => { d with engaged := true }))) := by
  unfold powerModeEngine
  dsimp only
  rw [if_neg (ne_true_of_eq_false he), if_neg (by simp [hz, hlen, Nat.not_lt.2 hmode]), if_neg (ne_true_of_eq_false hsafe),
    if_neg (ne_true_of_eq_false halone), if_neg (by simp [hramp])]

/-- POWER_MODE_SET completes where the mode is set already, and starts a ramp otherwise. -/
theorem exec_powerModeSet_checked {n : Nat} (h : Started s q n 0x0711 c) :
    exec (.powerModeSet q n) s = .next (if fget s Reg.PWR_STATUS_FIXED = c.field 16 1 then completeCmd s q n Status.ok 0
      else startRamp (c.field 16 1) q c.n (modCmd s q c.n (fun d => { d with engaged := true }))) := by
  have hengine := powerModeEngine_checked (q := q) hlen hz he hmode hsafe halone hramp
  by_cases hfixed : fget s Reg.PWR_STATUS_FIXED = c.field 16 1
  · rw [if_pos hfixed] at hengine ⊢
    exact runEngine_done h hengine
  · rw [if_neg hfixed] at hengine ⊢
    exact runEngine_wait h hengine

end

/-- POWER_READ stores the sixteen words of the power registers. -/
theorem powerReadEngine_ok {t : State} (hz : c.reservedZero [(24, 8)] = true) (hal : opAligned q (c.field 24 8) 64 = true)
    (hwrite : opWrite s q (c.field 24 8) ((List.range 16).flatMap (fun i => leBytes 4
      (if Reg.PWR_STATUS + 4 * i = Reg.PWR_WAKE then remainMs s else regWord s (Reg.PWR_STATUS + 4 * i)))) = .ok t) :
    powerReadEngine q c s = okay t := by
  unfold powerReadEngine
  dsimp only
  rw [if_neg (by simp [hz, hlen, hal]), hwrite]

end

end

/-- Settles O34: each event that is due has its effect, and the engine of each command passes its checks. -/
theorem powerRowsComplete : Obligations.PowerRowsComplete := by
  refine ⟨?sample, ?boost, ?ramp, ?message, ?adopt, ?caps, ?mode, ?read⟩
  case sample =>
    intro v e l s ha
    show execPowerSample v l e s = _
    exact whenAlive_alive ha
  case boost =>
    intro s w ha hboost hramp hrun halone hle
    exact ⟨_, exec_boostStep_rises ha hboost hramp hrun halone hle, rfl, fget_boosted w (Nat.min_le_right _ _),
      fset_mem .., fset_threads .., fset_queues ..⟩
  case ramp =>
    intro fixed q n s hramp
    exact exec_railRampDone_ends hramp
  case message =>
    intro m own mhz s ha hm hjob
    exact exec_powerMessageReceive_keeps ha hm hjob own mhz
  case adopt =>
    intro t s hadopt hdue
    exact exec_jobShareAdopt_due hadopt hdue
  case caps =>
    intro q n vs vp c s h hlen hz hvs hvp hs hs' hp hp' hle
    exact runEngine_done h (powerCapEngine_ok hlen hz hvs hvp hs hs' hp hp' hle)
  case mode =>
    intro q n c s h he hlen hz hmode hsafe halone hramp
    exact exec_powerModeSet_checked hlen hz he hmode hsafe halone hramp h
  case read =>
    intro q n c s t h hlen hz hal hwrite
    exact runEngine_done h (powerReadEngine_ok hlen hz hal hwrite)

/-! ### Presence (R556) -/

section
variable {s : State}

/-- SEATED is no part of the job's registers. -/
theorem otherMembers_seated (b : Bool) (w : Sound s) : otherMembers (fsetb s Reg.LINK_STATUS_SEATED b) = otherMembers s := by
  have hnum : modnum (fsetb s Reg.LINK_STATUS_SEATED b) = modnum s :=
    fget_fset_apart _ _ _ ⟨by decide, by decide⟩ ⟨by decide, by decide⟩ (.inl (by decide)) w.cw
  have hmask : fget (fsetb s Reg.LINK_STATUS_SEATED b) Reg.GLB_MODNUM_JOB_MASK = fget s Reg.GLB_MODNUM_JOB_MASK :=
    fget_fset_apart _ _ _ ⟨by decide, by decide⟩ ⟨by decide, by decide⟩ (.inl (by decide)) w.cw
  simp only [otherMembers, inJob, hnum, hmask]

theorem sound_fsetb (f : Field) (b : Bool) (w : Sound s) : Sound (fsetb s f b) := by
  obtain ⟨-, -, -, keeps⟩ := keep_fsetb (a1 := f) (a2 := b) absorbs_same (.refl s)
  exact keeps w

/-- The removal of a module that is its job's only member clears SEATED, opens the termination and ends automatic joins. -/
theorem exec_presNChange_removed (ha : alive s = true) (hin : s.power.absent = false) (halone : otherMembers s = []) (w : Sound s) :
    exec (.presNChange false) s = .next (modLinks (fsetb (modPower (fsetb s Reg.LINK_STATUS_SEATED false)
      (fun p => { p with absent := true, presentAt := none, presTerm := true })) Reg.LINK_STATUS_SEATED false)
      (fun l => { l with noAuto := true })) := by
  have hhere : (fsetb s Reg.LINK_STATUS_SEATED false).power.absent = false := by rw [fsetb_power, hin]
  have w' : Sound (modPower (fsetb s Reg.LINK_STATUS_SEATED false)
      (fun p => { p with absent := true, presentAt := none, presTerm := true })) := sound_fsetb _ _ w
  have hstill : otherMembers (modLinks (fsetb (modPower (fsetb s Reg.LINK_STATUS_SEATED false)
      (fun p => { p with absent := true, presentAt := none, presTerm := true })) Reg.LINK_STATUS_SEATED false)
      (fun l => { l with noAuto := true })) = [] :=
    (otherMembers_seated false w').trans ((otherMembers_seated false w).trans halone)
  show execPresNChange false s = _
  unfold execPresNChange
  rw [whenAlive_alive ha]
  dsimp only
  rw [if_neg Bool.false_ne_true, if_neg (ne_true_of_eq_false hhere), if_pos hstill]

/-- The termination ends 10 ms after the insertion. -/
theorem exec_presTermRemoval_due {t : Nat} (hat : s.power.presentAt = some t) (hterm : s.power.presTerm = true)
    (hin : s.power.absent = false) (hdue : t + 10000000 ≤ s.time) :
    exec .presTermRemoval s = .next (modPower s (fun p => { p with presTerm := false, presentAt := none })) := by
  show execPresTermRemoval s = _
  unfold execPresTermRemoval
  rw [hat]
  exact if_pos ⟨hterm, hin, hdue⟩

/-! ### Supply and temperature (R468, R469, R483 to R486) -/

/-- A shut-off empties memory and threads, and keeps flash and module time. -/
theorem shutOff_frame (s : State) : (shutOff s).power.off = true ∧ (shutOff s).mem = [] ∧ (shutOff s).threads = []
    ∧ (shutOff s).flash = s.flash ∧ (shutOff s).time = s.time := by
  unfold shutOff
  dsimp only
  rw [modPower_mem, modPower_threads, modPower_flash, modPower_time, resetState_mem, resetState_threads,
    resetState_flash, resetState_time, if_neg (by decide)]
  unfold modPower
  exact ⟨rfl, rfl, rfl, rfl, rfl⟩

section
variable (ha : alive s = true)
include ha

/-- The fault of a phase other than that of Cowslip and Harebell is latched, counted and recorded, and stops what the phase supplies. -/
theorem exec_phaseFault_latched {k : Nat} (hk : k < 7) (hup : phaseUp s k = true) (c : PhaseCause) {u : State}
    (hu : u = raise (finc (fsetb s (Reg.PWR_PHASE_FAULT k) true) (Reg.PWR_CNT_COUNT 5)) 0x9009 powerIsland
      (u16 k ++ u8 (PhaseCause.code c))) :
    exec (.phaseFault k c) s = .next (rescheduleAll (if k = 5 then linksDown u else u)) := by
  subst hu
  show execPhaseFault k c s = _
  unfold execPhaseFault
  rw [whenAlive_alive ha]
  dsimp only
  rw [if_neg (by simp [hup]; omega), if_neg (by omega)]

/-- A hardware trip latches TRIP and takes the safe state with cause 0x0B. -/
theorem exec_thermalTrip_trips {k : Nat} (hfirst : fbit s Reg.PWR_STATUS_TRIP = false) (hk : k < 8) :
    exec (.thermalTrip k) s
      = .next (raise (safeBoth 0xB (setEff (fsetb s Reg.PWR_STATUS_TRIP true))) 0x9006 powerIsland (u16 k)) :=
  if_neg (by simp [ha, hfirst, Nat.not_le.2 hk])

/-- The thermal shutdown writes what is on its way to the log before the supply goes. -/
theorem exec_thermalShutdown_drains {k : Nat} (hk : k < 8) :
    exec (.thermalShutdown k) s = .next (shutOff (drainLog (raise s 0x9007 powerIsland []))) := by
  show execThermalShutdown k s = _
  unfold execThermalShutdown
  rw [whenAlive_alive ha]
  exact if_neg (Nat.not_le.2 hk)

end

end

/-- Settles O15: each event by its row's rule. -/
theorem supplyEventsComplete : Obligations.SupplyEventsComplete := by
  refine ⟨?removed, ?termination, ?vin, ?bus, ?phase, ?scan, ?trip, ?shutdown, ?coolant⟩
  case removed =>
    intro s ha hin halone w
    have hseat (x : State) (hx : cwWf x) : fbit (fsetb x Reg.LINK_STATUS_SEATED false) Reg.LINK_STATUS_SEATED = false :=
      fbit_fsetb_same _ _ ⟨by decide, by decide⟩ rfl hx
    exact ⟨_, exec_presNChange_removed ha hin halone w, by simp [modLinks, modPower], by simp [modLinks, modPower],
      hseat _ (cwWf_fsetb _ _ w.cw), rfl, by simp [modLinks, modPower], by simp [modLinks, modPower]⟩
  case termination =>
    intro s t hat hterm hin hdue
    exact exec_presTermRemoval_due hat hterm hin hdue
  case vin =>
    intro mv s ha hlow
    exact if_pos ⟨ha, hlow⟩
  case bus =>
    intro s hon
    exact ⟨shutOff s, congrArg Host.Outcome.next (if_neg (ne_true_of_eq_false hon)), shutOff_frame s⟩
  case phase =>
    intro k c s ha hk hup
    exact ⟨_, rfl, exec_phaseFault_latched ha hk hup c rfl⟩
  case scan =>
    intro l s ha
    show execThermalScan l s = _
    exact whenAlive_alive ha
  case trip =>
    intro k s ha hfirst hk
    exact exec_thermalTrip_trips ha hfirst hk
  case shutdown =>
    intro k s ha hk
    exact ⟨_, exec_thermalShutdown_drains ha hk, rfl, rfl⟩
  case coolant =>
    intro a b s ha
    show execCoolantSample a b s = _
    exact whenAlive_alive ha

end Sys2Proof.Machine
end

section
/-! SUPPORT. What the link commands, the messages of joins and losses, the ports' events and the accesses of other modules do (chapter 19
of the spec). -/

namespace Sys2Proof.Machine

/-! ### Link commands (R499, R502, R511, R513) -/

section
variable {c : QCmd} {s : State}

/-- JOB_JOIN of a module with no other member asks the arbiter it chooses, and waits. -/
theorem jobJoinEngine_asks {q a : Nat} {l : List Nat} {o : Option (Nat × Nat)} (hnew : c.engaged = false) (hlen : c.length = 1)
    (hz : c.reservedZero [] = true) (halone : otherMembers s = []) {u : State}
    (hu : u = modLinks (wakePorts s) (fun l => { l with noAuto := false }))
    (harb : chooseArbiter u (fun m => l.getD m (2 ^ m)) = some a) : jobJoinEngine q l o c s
      = .wait (startJoin (some (q, c.n)) a (modCmd u q c.n (fun d => { d with engaged := true }))) := by
  subst hu
  unfold jobJoinEngine
  rw [if_neg (ne_true_of_eq_false hnew), if_neg (by simp [hlen, hz]), if_neg (not_not_intro halone)]
  dsimp only
  rw [harb]

/-- A refusal ends the join that a JOB_JOIN waits for. -/
theorem jobJoinEngine_refused {q m k : Nat} {l : List Nat} (hasked : c.engaged = true) :
    jobJoinEngine q l (some (m, k)) c s = .wait (refuseJoin m k s) :=
  if_pos hasked

/-- A module whose own join no JOB_JOIN began runs JOB_JOIN as any queue command. -/
theorem exec_jobJoin_noJoin {q n : Nat} {l : List Nat} {o : Option (Nat × Nat)} (hj : s.links.join = none) :
    exec (.jobJoin q n l o) s = runEngine 0x0A00 q n (jobJoinEngine q l o) s := by
  show execJobJoin q n l o s = _
  unfold execJobJoin
  rw [hj]

/-- A refusal of the join that AUTO_JOIN began ends it, whatever command it names. -/
theorem exec_jobJoin_autoJoin {q n m k : Nat} {l : List Nat} {j : Join} (hj : s.links.join = some j) (hauto : j.cmd = none) :
    exec (.jobJoin q n l (some (m, k))) s = .next (refuseJoin m k s) := by
  obtain ⟨cmd, t, a, b⟩ := j
  obtain rfl : cmd = none := hauto
  show execJobJoin q n l _ s = _
  unfold execJobJoin
  rw [hj]

/-- A refusal of the join that a JOB_JOIN began goes to the command's engine. -/
theorem exec_jobJoin_ofCommand {q n : Nat} {l : List Nat} {o : Option (Nat × Nat)} {j : Join} {e : Nat × Nat}
    (hj : s.links.join = some j) (hcmd : j.cmd = some e) :
    exec (.jobJoin q n l o) s = runEngine 0x0A00 q n (jobJoinEngine q l o) s := by
  obtain ⟨cmd, t, a, b⟩ := j
  obtain rfl : cmd = some e := hcmd
  show execJobJoin q n l _ s = _
  unfold execJobJoin
  rw [hj]

section
variable (hlen : c.length = 1)
include hlen

theorem jobLeaveEngine_alone (hz : c.reservedZero [] = true) (halone : otherMembers s = []) : jobLeaveEngine c s = okay s := by
  unfold jobLeaveEngine
  rw [if_neg (by simp [hlen, hz]), if_pos halone]

/-- JOB_LEAVE of a job with other members leaves it and takes the ports down. -/
theorem jobLeaveEngine_leaves (hz : c.reservedZero [] = true) (hjob : otherMembers s ≠ []) : jobLeaveEngine c s
    = okay (fsetb (forRange 3 (fun p u => fsetb (fset (setLinkState u p 0) (Reg.LINK_PORT_STATE_LOCK p) 0)
        (Reg.LINK_PORT_STATE_PEER_VALID p) false) (leaveSteps s)) Reg.LINK_STATUS_READY_TO_REMOVE true) := by
  unfold jobLeaveEngine
  rw [if_neg (by simp [hlen, hz]), if_neg hjob]

/-- LINK_RETRAIN of a port that has not failed waits, and retrains a port that is UP. -/
theorem linkRetrainEngine_waits {q p : Nat} (hnew : c.engaged = false) (hz : c.reservedZero [(16, 1)] = true) (hp : p = c.field 16 1)
    (hport : p ≤ 2) (hgood : linkState s p ≠ 5) {u : State} (hu : u = modCmd s q c.n (fun d => { d with engaged := true })) :
    linkRetrainEngine q c s = .wait (if linkState s p = 3 then startRetrain p 3 u else u) := by
  subst hu hp
  have hup : linkState (modCmd s q c.n (fun d => { d with engaged := true })) (c.field 16 1) = linkState s (c.field 16 1) := rfl
  unfold linkRetrainEngine
  dsimp only
  rw [if_neg (ne_true_of_eq_false hnew), if_neg (by simp [hlen, hz, hport]), if_neg hgood, hup]

theorem linkReadEngine_ok {q : Nat} {t : State} (hz : c.reservedZero [(24, 8)] = true) (hal : opAligned q (c.field 24 8) 64 = true)
    (hwrite : opWrite s q (c.field 24 8) ((List.range 112).flatMap (fun i => leBytes 4 (regWord s (Reg.LINK_STATUS + 4 * i)))) = .ok t) :
    linkReadEngine q c s = okay t := by
  unfold linkReadEngine
  rw [if_neg (by simp [hlen, hz, hal])]
  dsimp only
  rw [hwrite]

end
end

/-! ### Messages of joins and losses (R502, R504, R506) -/

section
variable {s : State} (ha : alive s = true)
include ha

/-- The request of the module that a port faces is held while a port that it concerns retrains, and arbitrated otherwise. -/
theorem exec_joinRequestReceive_facing {p : Nat} {r : JoinRequest} (hp : p < 3) (hup : linkState s p = 3)
    (hfacing : r.module_ = facing s p) (hacc : fbit s Reg.QMGR_STATUS_ACCEPTING = true) :
    exec (.joinRequestReceive p r) s = .next (if s.links.held ≠ [] ∨ joinHeld s p = true
      then modLinks (fsetb s Reg.LINK_STATUS_JOIN_BUSY true) (fun l => { l with held := l.held ++ [(p, r)] })
      else arbitrate p r s) := by
  show execJoinRequestReceive p r s = _
  unfold execJoinRequestReceive
  rw [whenAlive_alive ha, if_neg (by simp [hup, hfacing, hacc, Nat.not_le.2 hp])]
  exact (apply_ite Host.Outcome.next _ _ _).symm

section
variable {p m k new : Nat} (hp : p < 3) (hm : m < 4) (hup : linkState s p = 3)
  (hnew : new = (fget s Reg.GLB_MODNUM_JOB_MASK ||| k % 16))
include hp hm hup hnew

/-- The commit of this module's join takes the job's members, and completes the join once the ports to them are UP. -/
theorem exec_joinCommitReceive_own (hown : m = modnum s) (hjoin : s.links.join.isSome = true) :
    exec (.joinCommitReceive p m k) s = .next (settleJoin (modLinks
      (raise (fset s Reg.GLB_MODNUM_JOB_MASK new) 0xA005 (linkIsland p) (u16 m ++ u8 new))
      (fun l => { l with join := l.join.map (fun j => { j with committed := true }) }))) := by
  subst hnew
  show execJoinCommitReceive p m k s = _
  unfold execJoinCommitReceive
  rw [whenAlive_alive ha]
  dsimp only
  rw [if_neg (by simp [hup, Nat.not_le.2 hp, Nat.not_le.2 hm, Option.isSome_iff_ne_none.1 hjoin]), if_pos (decide_eq_true hown)]

/-- The commit of another module's join adds its bits to the job's members. -/
theorem exec_joinCommitReceive_other (hother : m ≠ modnum s) : exec (.joinCommitReceive p m k) s
    = .next (raise (fset s Reg.GLB_MODNUM_JOB_MASK new) 0xA005 (linkIsland p) (u16 m ++ u8 new)) := by
  subst hnew
  show execJoinCommitReceive p m k s = _
  unfold execJoinCommitReceive
  rw [whenAlive_alive ha]
  dsimp only
  rw [if_neg (by simp [hup, Nat.not_le.2 hp, Nat.not_le.2 hm, hother]), if_neg (by simp [hother])]

end

/-- A join not committed within 100 ms is refused with cause 7. -/
theorem exec_joinTimeout_due {j : Join} (hjoin : s.links.join = some j) (hopen : j.committed = false)
    (hdue : j.at_ + 100000000 ≤ s.time) : exec .joinTimeout s = .next (refuseJoin j.arbiter 7 s) := by
  show execJoinTimeout s = _
  unfold execJoinTimeout
  rw [whenAlive_alive ha, hjoin]
  exact if_pos ⟨hopen, hdue⟩

section
variable {p m : Nat} (hp : p < 3) (hup : linkState s p = 3)
include hp hup

theorem exec_lossMessageReceive_lostMember (hother : m ≠ modnum s) (hjob : inJob s m = true) :
    exec (.lossMessageReceive p (.lost m)) s = .next (sendLost m none (declareLost m 1 (linkIsland p) s)) := by
  show execLossMessageReceive p (.lost m) s = _
  unfold execLossMessageReceive
  rw [whenAlive_alive ha, if_neg (by simp [hup, Nat.not_le.2 hp])]
  exact (if_neg hother).trans (if_pos hjob)

theorem exec_lossMessageReceive_lostSelf (hself : m = modnum s) : exec (.lossMessageReceive p (.lost m)) s
    = .next (if otherMembers s = [] then s else sendLeft none (leaveJob 1 (linkIsland p) s)) := by
  show execLossMessageReceive p (.lost m) s = _
  unfold execLossMessageReceive
  rw [whenAlive_alive ha, if_neg (by simp [hup, Nat.not_le.2 hp])]
  exact if_pos hself

theorem exec_lossMessageReceive_left (hother : m ≠ modnum s) (hjob : inJob s m = true) : exec (.lossMessageReceive p (.left m)) s
    = .next (forEach (upPorts s) (fun p s => emit s (.leftMsg p m)) (declareLost m 2 (linkIsland p) s)) := by
  show execLossMessageReceive p (.left m) s = _
  unfold execLossMessageReceive
  rw [whenAlive_alive ha, if_neg (by simp [hup, Nat.not_le.2 hp])]
  exact if_pos ⟨hother, hjob⟩

end

/-! ### The ports (R498 to R501) -/

theorem exec_trainingPatternSeen_detect {p : Nat} (hp : p < 3) (hdown : linkState s p = 1) (hfed : phaseUp s 5 = true) :
    exec (.trainingPatternSeen p) s = .next (setLinkState s p 2) := by
  show execTrainingPatternSeen p s = _
  unfold execTrainingPatternSeen
  rw [whenAlive_alive ha]
  exact if_pos ⟨hp, hdown, hfed⟩

section
variable {p m : Nat} (hp : p < 3) (htrains : linkState s p = 2)
include hp htrains

/-- A port that has trained with the module it faces is UP, and ends the retrains that wait for it. -/
theorem exec_linkTrainDone_up (hpeer : m = facing s p) {u : State}
    (hu : u = fsetb (fset (fset (setLinkState s p 3) (Reg.LINK_PORT_STATE_LOCK p) 0xFF) (Reg.LINK_PORT_STATE_PEER p) m)
      (Reg.LINK_PORT_STATE_PEER_VALID p) true) : exec (.linkTrainDone p true m) s
      = .next (settleJoin (endRetrainCmds p Status.ok 0 (raise u 0xA001 (linkIsland p) (u16 p ++ u16 m)))) := by
  subst hu
  show execLinkTrainDone p true m s = _
  unfold execLinkTrainDone
  rw [whenAlive_alive ha, if_neg (by simp [htrains, Nat.not_le.2 hp]), if_pos rfl]
  exact if_neg (not_not_intro hpeer)

/-- A port whose training failed is DOWN. -/
theorem exec_linkTrainDone_failed : exec (.linkTrainDone p false m) s
    = .next (fset (setLinkState s p 1) (Reg.LINK_PORT_STATE_LOCK p) 0) := by
  show execLinkTrainDone p false m s = _
  unfold execLinkTrainDone
  rw [whenAlive_alive ha, if_neg (by simp [htrains, Nat.not_le.2 hp])]
  exact if_neg Bool.false_ne_true

end

section
variable {p : Nat} (hp : p < 3) (hup : linkState s p = 3)
include hp hup

/-- A replay is counted and kept with those of the last millisecond, and the first of them is recorded. -/
theorem exec_flitReplay_up {b : Bool} {l : List Nat} (hl : l = (lport s p).replays.filter (fun t => decide (s.time < t + 1000000)))
    {z u v : State}
    (hz : z = fadd (takeFree s).2 (Reg.LINK_PORT_CNT_COUNT p 3) ((Config.freeWord (takeFree s).1).toNat % 2 ^ 32))
    (hu : u = finc (finc z (Reg.LINK_PORT_CNT_COUNT p (if b then 4 else 0))) (Reg.LINK_PORT_CNT_COUNT p 1))
    (hv : v = setLport u p { lport u p with replays := (s.time :: l).take 256 }) :
    exec (.flitReplay p b) s = .next (if l = [] then raise v 0xA009 (linkIsland p) (u16 p) else v) := by
  have htime : u.time = s.time := by simp only [hu, hz, finc_time, fadd_time, takeFree_time]
  rw [← htime] at hv
  subst hv hu hz hl
  show execFlitReplay p b s = _
  unfold execFlitReplay
  rw [whenAlive_alive ha, if_neg (by simp [hup, Nat.not_le.2 hp])]

/-- A retrain of an UP port starts for more replays than the limit within 1 ms. -/
theorem exec_retrainStart_replays (hmany : fget s Reg.LINK_CFG_REPLAY_LIMIT
    < ((lport s p).replays.filter (fun t => decide (s.time < t + 1000000))).length) :
    exec (.retrainStart p .replays) s = .next (startRetrain p 1 s) := by
  show execRetrainStart p .replays s = _
  unfold execRetrainStart
  rw [whenAlive_alive ha, if_neg (by simp [hup, Nat.not_le.2 hp])]
  exact if_pos hmany

theorem exec_retrainStart_laneLock : exec (.retrainStart p .laneLock) s = .next (startRetrain p 2 s) := by
  show execRetrainStart p .laneLock s = _
  unfold execRetrainStart
  rw [whenAlive_alive ha, if_neg (by simp [hup, Nat.not_le.2 hp])]

end

section
variable {p l : Nat} (hp : p < 3) (hretrains : linkState s p = 4)
include hp hretrains

/-- A retrain that succeeds ends with the port UP, and the joins and FENCEs that it held go on. -/
theorem exec_retrainEnd_up {ns : Nat} (hns : ns = s.time - (lport s p).retrainAt) {u : State}
    (hu : u = raise (fset (setLinkState s p 3) (Reg.LINK_PORT_STATE_LOCK p) 0xFF) 0xA003 (linkIsland p) (u16 p ++ u32 (ns / 1000))) :
    exec (.retrainEnd p true l) s
      = .next (settleHeld (settleJoin (endRetrainCmds p Status.ok 0 (forgiveFences p ns u)))) := by
  subst hu hns
  show execRetrainEnd p true l s = _
  unfold execRetrainEnd
  rw [whenAlive_alive ha, if_neg (by simp [hretrains, Nat.not_le.2 hp])]
  exact if_pos rfl

/-- A retrain that has not succeeded within RETRAIN_MS fails the port. -/
theorem exec_retrainEnd_failed (hlate : fget s Reg.LINK_CFG_RETRAIN_MS * 1000000 ≤ s.time - (lport s p).retrainAt) :
    exec (.retrainEnd p false l) s = .next (failLink p (l % 256) s) := by
  show execRetrainEnd p false l s = _
  unfold execRetrainEnd
  rw [whenAlive_alive ha, if_neg (by simp [hretrains, Nat.not_le.2 hp])]
  exact (if_neg Bool.false_ne_true).trans (if_pos hlate)

end

theorem exec_lanesSilent_up {p : Nat} (hp : p < 3) (hup : linkState s p = 3 ∨ linkState s p = 4) :
    exec (.lanesSilent p) s = .next (failLink p 0 s) := by
  show execLanesSilent p s = _
  unfold execLanesSilent
  rw [whenAlive_alive ha]
  exact if_pos ⟨hp, hup⟩

theorem exec_linkFailedHoldoff_due {p : Nat} (hp : p < 3) (hfailed : linkState s p = 5) (hdue : (lport s p).failedAt + 1000000 ≤ s.time) :
    exec (.linkFailedHoldoff p) s = .next (fset (setLinkState s p 1) (Reg.LINK_PORT_STATE_LOCK p) 0) := by
  show execLinkFailedHoldoff p s = _
  unfold execLinkFailedHoldoff
  rw [whenAlive_alive ha]
  exact if_pos ⟨hp, hfailed, hdue⟩

/-! ### Accesses of other modules (R497, R219) -/

section
variable {r : RemoteReq} {p : PcieCompletion} (hpeer : r.peer < 4) (hother : r.peer ≠ modnum s)
  (hup : linkState s (portTo s r.peer) = 3)
include hpeer hother hup

/-- An access of a peer outside the job, or of a module that is leaving it, is refused. -/
theorem exec_remoteAccess_refused (hout : inJob s r.peer = false ∨ fbit s Reg.LINK_STATUS_LEAVING = true) :
    exec (.remoteAccess r p) s = .next (answerPeer r false [] s) := by
  show execRemoteAccess r p s = _
  unfold execRemoteAccess
  rw [whenAlive_alive ha, if_neg (by simp [hother, hup, Nat.not_le.2 hpeer]), if_pos hout]

/-- A member's FENCE asks for the doorbells accepted so far. -/
theorem exec_remoteAccess_fence (hin : ¬(inJob s r.peer = false ∨ fbit s Reg.LINK_STATUS_LEAVING = true)) {q own : Nat} {m : Bool}
    (hfence : r.fence = some (q, m, own)) : exec (.remoteAccess r p) s = .next (captureRequest r.peer q m own s) := by
  show execRemoteAccess r p s = _
  unfold execRemoteAccess
  rw [whenAlive_alive ha, if_neg (by simp [hother, hup, Nat.not_le.2 hpeer]), if_neg hin, hfence]

/-- A member's access is one of the window or of memory. -/
theorem exec_remoteAccess_served (hin : ¬(inJob s r.peer = false ∨ fbit s Reg.LINK_STATUS_LEAVING = true))
    (hfence : r.fence = none) : exec (.remoteAccess r p) s
      = .next (if isWindow r.addr then remoteWindow r p s else remoteMemory r s) := by
  show execRemoteAccess r p s = _
  unfold execRemoteAccess
  rw [whenAlive_alive ha, if_neg (by simp [hother, hup, Nat.not_le.2 hpeer]), if_neg hin, hfence]
  exact (apply_ite Host.Outcome.next _ _ _).symm

end
end

/-- Settles O43: the engine of each link command passes its checks, and each message of a join or a loss is one that its port takes. -/
theorem joinRowsComplete : Obligations.JoinRowsComplete := by
  refine ⟨?join, ?autoRefused, ?joinRefused, ?leaveAlone, ?leave, ?retrain, ?read, ?request, ?commitOwn, ?commitOther, ?timeout,
    ?lostMember, ?lostSelf, ?left⟩
  case join =>
    intro q n a l o c s u h hj hnew hlen hz halone hu harb
    exact (exec_jobJoin_noJoin hj).trans (runEngine_wait h (jobJoinEngine_asks hnew hlen hz halone hu harb))
  case autoRefused =>
    intro q n m k t a l b s hj
    exact exec_jobJoin_autoJoin hj rfl
  case joinRefused =>
    intro q n m k l j c s h hasked hj hcmd
    exact (exec_jobJoin_ofCommand hj hcmd).trans (runEngine_wait h (jobJoinEngine_refused hasked))
  case leaveAlone =>
    intro q n c s h hlen hz halone
    exact runEngine_done h (jobLeaveEngine_alone hlen hz halone)
  case leave =>
    intro q n c s h hlen hz hjob
    exact runEngine_done h (jobLeaveEngine_leaves hlen hz hjob)
  case retrain =>
    intro q n p c s h hnew hlen hz hp hport hgood
    exact ⟨_, rfl, runEngine_wait h (linkRetrainEngine_waits hlen hnew hz hp hport hgood rfl)⟩
  case read =>
    intro q n c s t h hlen hz hal hwrite
    exact runEngine_done h (linkReadEngine_ok hlen hz hal hwrite)
  case request =>
    intro p r s ha hp hup hfacing hacc
    exact exec_joinRequestReceive_facing ha hp hup hfacing hacc
  case commitOwn =>
    intro p m k new s ha hp hm hup hown hjoin hnew
    exact exec_joinCommitReceive_own ha hp hm hup hnew hown hjoin
  case commitOther =>
    intro p m k new s ha hp hm hup hother hnew
    exact exec_joinCommitReceive_other ha hp hm hup hnew hother
  case timeout =>
    intro j s ha hjoin hopen hdue
    exact exec_joinTimeout_due ha hjoin hopen hdue
  case lostMember =>
    intro p m s ha hp hup hother hjob
    exact exec_lossMessageReceive_lostMember ha hp hup hother hjob
  case lostSelf =>
    intro p m s ha hp hup hself
    exact exec_lossMessageReceive_lostSelf ha hp hup hself
  case left =>
    intro p m s ha hp hup hother hjob
    exact exec_lossMessageReceive_left ha hp hup hother hjob

/-- Settles O44: the port of each event is in the state that the event needs, and a member's access over an UP port is served. -/
theorem linkEventsComplete : Obligations.LinkEventsComplete := by
  refine ⟨?pattern, ?trained, ?untrained, ?replay, ?replays, ?laneLock, ?retrained, ?retrainFailed, ?silent, ?holdoff, ?access, ?fence⟩
  case pattern =>
    intro p s ha hp hdown hfed
    exact exec_trainingPatternSeen_detect ha hp hdown hfed
  case trained =>
    intro p m s ha hp htrains hpeer
    exact ⟨_, rfl, exec_linkTrainDone_up ha hp htrains hpeer rfl⟩
  case untrained =>
    intro p m s ha hp htrains
    exact exec_linkTrainDone_failed ha hp htrains
  case replay =>
    intro p b l s ha hp hup hl
    exact ⟨_, _, _, rfl, rfl, rfl, exec_flitReplay_up ha hp hup hl rfl rfl rfl⟩
  case replays =>
    intro p s ha hp hup hmany
    exact exec_retrainStart_replays ha hp hup hmany
  case laneLock =>
    intro p s ha hp hup
    exact exec_retrainStart_laneLock ha hp hup
  case retrained =>
    intro p l ns s ha hp hretrains hns
    exact ⟨_, rfl, exec_retrainEnd_up ha hp hretrains hns rfl⟩
  case retrainFailed =>
    intro p l s ha hp hretrains hlate
    exact exec_retrainEnd_failed ha hp hretrains hlate
  case silent =>
    intro p s ha hp hup
    exact exec_lanesSilent_up ha hp hup
  case holdoff =>
    intro p s ha hp hfailed hdue
    exact exec_linkFailedHoldoff_due ha hp hfailed hdue
  case access =>
    intro r a s ha hpeer hother hfence hup
    by_cases hout : inJob s r.peer = false ∨ fbit s Reg.LINK_STATUS_LEAVING = true
    · rw [if_pos hout]
      exact exec_remoteAccess_refused ha hpeer hother hup hout
    · rw [if_neg hout]
      exact exec_remoteAccess_served ha hpeer hother hup hout hfence
  case fence =>
    intro r a q own m s ha hpeer hother hup hjob hstays hfence
    exact exec_remoteAccess_fence ha hpeer hother hup (by simp [hjob, hstays]) hfence

end Sys2Proof.Machine
end

section
/-! SUPPORT. What the events of a bring-up, the wake sources, the reset lines, WARM_RESET and POWER_STATE_SET do (chapters 20 and 21 of the
spec). -/

namespace Sys2Proof.Machine

/-! ### Bring-up and wake (R523, R524, R533, R544, R546) -/

section
variable {s : State}

section
variable (ha : alive s = true)
include ha

theorem exec_bootDone_waiting (hwaits : s.harebell.waiting = true) : exec .bootDone s = .next (bootDone s) := by
  show execBootDone s = _
  unfold execBootDone
  rw [whenAlive_alive ha]
  exact if_pos hwaits

/-- A trial bank that is not up 10 s after reset is abandoned, and the module restarts from its boot bank with cause 4. -/
theorem exec_trialBootTimeout_due {k : Nat} (htrial : s.harebell.trial = true) (hdown : s.harebell.booted = false)
    (hdue : s.harebell.resetAt + 5000000000 ≤ s.ticks) : exec (.trialBootTimeout k) s
      = .next (bringUp 4 k (decide (s.harebell.trialBank = 0))
        (useBank (restart 4 (abandonTrial 2 s)).harebell.bootBank false (restart 4 (abandonTrial 2 s)))) := by
  show execTrialBootTimeout k s = _
  unfold execTrialBootTimeout
  rw [whenAlive_alive ha]
  exact if_pos ⟨htrial, hdown, hdue⟩

/-- The rebuilt level-1 tree makes signing possible. -/
theorem exec_identityTreeRebuild_signs (hbooted : s.harebell.booted = true) (htree : s.harebell.treeAt.isSome = true) :
    exec .identityTreeRebuild s = .next (modHarebell s (fun h => { h with treeAt := none, signed := true })) := by
  show execIdentityTreeRebuild s = _
  unfold execIdentityTreeRebuild
  rw [whenAlive_alive ha]
  exact if_pos ⟨hbooted, htree⟩

end

/-- A wake source of a powered module leaves DORMANT where it holds, and DROWSE otherwise. -/
theorem wakeUp_powered {w k : Nat} (hon : s.power.off = false) :
    wakeUp w k s = if s.power.dormant then exitDormant w k s else drowseExit w s :=
  if_neg (ne_true_of_eq_false hon)

/-- The wake timer acts once its tick is reached. -/
theorem exec_wakeAfterMsExpiry_due {k t : Nat} (hat : s.power.wakeTick = some t) (hdue : t ≤ s.ticks) :
    exec (.wakeAfterMsExpiry k) s = .next (wakeUp 2 k s) := by
  show execWakeAfterMsExpiry k s = _
  unfold execWakeAfterMsExpiry
  rw [hat]
  exact if_pos hdue

/-! ### The reset lines (R537, R538) -/

/-- A power-on reset with RST_N high starts a bring-up with cause 1. -/
theorem exec_powerOnReset_high {m k : Nat} (hhigh : s.power.rstLow = false) {u : State}
    (hu : u = modPower s (fun p => { p with absent := false, presentAt := none, presTerm := false })) :
    exec (.powerOnReset m k) s = .next (startBringUp k 1 0 (resetState .powerOn m u)) := by
  subst hu
  have hstays : (resetState .powerOn m (modPower s (fun p => { p with absent := false, presentAt := none, presTerm := false }))).power.rstLow
      = false :=
    (resetState_rstLow ..).trans hhigh
  exact congrArg _ (if_neg (ne_true_of_eq_false hstays))

section
variable (hon : s.power.off = false) (hawake : s.power.dormant = false)
include hon hawake

/-- RST_N low resets a powered module that is not in DORMANT. -/
theorem exec_rstNAssert_powered (hhigh : s.power.rstLow = false) :
    exec .rstNAssert s = .next (modPower (resetState .module_ (modnum s) s) (fun p => { p with rstLow := true })) := by
  show execRstNAssert s = _
  unfold execRstNAssert
  rw [if_neg (ne_true_of_eq_false hhigh)]
  dsimp only
  rw [if_neg (by simp [hon, hawake])]

/-- The release of RST_N of a powered module that is not in DORMANT starts a bring-up with cause 2. -/
theorem exec_rstNRelease_powered {m k : Nat} (hlow : s.power.rstLow = true) : exec (.rstNRelease m k) s
    = .next (startBringUp k 2 0 (resetState .module_ m (modPower s (fun p => { p with rstLow := false })))) := by
  show execRstNRelease m k s = _
  unfold execRstNRelease
  rw [if_neg (by simp [hlow])]
  dsimp only
  rw [if_neg (by simp [modPower, hon, hawake])]

end
end

/-! ### WARM_RESET and POWER_STATE_SET (R539, R541) -/

section
variable {c : QCmd} {s : State} (hlen : c.length = 1)
include hlen

/-- A warm reset that nothing holds back leaves the job and starts a bring-up with cause 3. -/
theorem warmResetEngine_resets {k : Nat} (hz : c.reservedZero [] = true) (hsafe : inSafe s = false) (hloops : loopsOn s = false)
    (hcommit : commitBusy s = false) :
    warmResetEngine k c s = .wait (startBringUp k 3 0 (resetState .warm 0 (leaveSteps s))) := by
  unfold warmResetEngine
  rw [if_neg (by simp [hlen, hz]), if_neg (ne_true_of_eq_false hsafe), if_neg (ne_true_of_eq_false hloops),
    if_neg (ne_true_of_eq_false hcommit)]

section
variable {q : Nat} (hz : c.reservedZero [(16, 1), (20, 4)] = true)
include hz

theorem powerStateEngine_active (hst : c.field 16 1 = 0) : powerStateEngine q c s = okay s := by
  unfold powerStateEngine
  dsimp only
  rw [if_neg (by simp [hlen, hz, hst]), if_pos hst]

section
variable (hsafe : inSafe s = false) (hfree : stateBlocked s = 0)
include hsafe hfree

theorem powerStateEngine_drowse (hst : c.field 16 1 = 1) : powerStateEngine q c s = okay (enterDrowse (c.field 20 4) s) := by
  unfold powerStateEngine
  dsimp only
  rw [if_neg (by simp [hlen, hz, hst]), if_neg (by simp [hst]), if_neg (ne_true_of_eq_false hsafe), if_neg (not_not_intro hfree),
    if_pos hst]

/-- DORMANT waits until its command heads its queue. -/
theorem powerStateEngine_dormant (hst : c.field 16 1 = 2) : powerStateEngine q c s
    = .wait (if ((queue s q).out.head?.map (·.n)) = some c.n then replyThenSleep q (c.field 20 4) c s else s) := by
  unfold powerStateEngine
  dsimp only
  rw [if_neg (by simp [hlen, hz, hst]), if_neg (by simp [hst]), if_neg (ne_true_of_eq_false hsafe), if_neg (not_not_intro hfree),
    if_neg (by simp [hst])]
  exact (apply_ite Verdict.wait _ _ _).symm

end
end
end

/-- Settles O14: each bring-up event is due, and a wake source leaves the power state that holds. -/
theorem bootEventsComplete : Obligations.BootEventsComplete := by
  refine ⟨?boot, ?trial, ?tree, ?wakeN, ?wakeTimer⟩
  case boot =>
    intro s ha hwaits
    exact exec_bootDone_waiting ha hwaits
  case trial =>
    intro k s ha htrial hdown hdue
    exact exec_trialBootTimeout_due ha htrial hdown hdue
  case tree =>
    intro s ha hbooted htree
    exact exec_identityTreeRebuild_signs ha hbooted htree
  case wakeN =>
    intro k s hon
    exact congrArg Host.Outcome.next (wakeUp_powered hon)
  case wakeTimer =>
    intro k t s hon hat hdue
    rw [exec_wakeAfterMsExpiry_due hat hdue, wakeUp_powered hon]

/-- Settles O36: the level of RST_N and the power state say what a reset line does, and each command passes its engine's checks. -/
theorem resetCommandsComplete : Obligations.ResetCommandsComplete := by
  refine ⟨?powerOn, ?assert, ?release, ?warm, ?active, ?drowse, ?dormant⟩
  case powerOn =>
    intro m k s hhigh
    exact ⟨_, rfl, exec_powerOnReset_high hhigh rfl⟩
  case assert =>
    intro s hhigh hon hawake
    exact exec_rstNAssert_powered hon hawake hhigh
  case release =>
    intro m k s hlow hon hawake
    exact exec_rstNRelease_powered hon hawake hlow
  case warm =>
    intro q n k c s h hlen hz hsafe hloops hcommit
    exact runEngine_wait h (warmResetEngine_resets hlen hz hsafe hloops hcommit)
  case active =>
    intro q n c s h hlen hz hst
    exact runEngine_done h (powerStateEngine_active hlen hz hst)
  case drowse =>
    intro q n c s h hlen hz hst hsafe hfree
    exact runEngine_done h (powerStateEngine_drowse hlen hz hsafe hfree hst)
  case dormant =>
    intro q n c s h hlen hz hst hsafe hfree
    exact runEngine_wait h (powerStateEngine_dormant hlen hz hsafe hfree hst)

end Sys2Proof.Machine
end

section
/-! SUPPORT. What the commands of the configuration sets, of the protected store and of attestation do (chapter 20 of the spec). -/

namespace Sys2Proof.Machine

section
variable {c : QCmd} {s : State}

/-! ### Configuration sets (R196, R530, R534) -/

/-- SET_WRITE stores the bytes into the shadow area; a set that passes its checks may be committed. -/
theorem setWriteEngine_checks {q : Nat} {bs : List Byte} {u : State} (hz : c.reservedZero [(24, 8)] = true) (hlen : c.length ≤ areaBytes)
    (hal : opAligned q (c.field 24 8) 64 = true) (hidle : s.harebell.commit = none) (hread : opRead s q (c.field 24 8) c.length = .ok bs)
    (hu : u = modHarebell s (fun h => { h with
      areas := storeSetList (fun _ => 0) h.areas (areaBase (1 - s.harebell.active)) bs
      areaBad := h.areaBad.filter (fun w => !decide (areaBase (1 - s.harebell.active) ≤ w
        ∧ w + 8 ≤ areaBase (1 - s.harebell.active) + bs.length)) })) :
    (setFails u (1 - s.harebell.active) = none → setWriteEngine q c s = okay (modHarebell u (fun h => { h with shadowOk := true })))
    ∧ ∀ k, setFails u (1 - s.harebell.active) = some k → setWriteEngine q c s
      = invalid (raise (modHarebell u (fun h => { h with shadowOk := false })) 0xB004 secIsland (u8 (1 - s.harebell.active) ++ u8 k)) := by
  subst hu
  unfold setWriteEngine
  dsimp only
  rw [if_neg (by simp [hz, hal, Nat.not_lt.2 hlen]), if_neg (by simp [hidle]), hread]
  dsimp only
  constructor
  · intro hok
    rw [hok]
  · intro k hbad
    rw [hbad]

/-- SET_COMMIT of a set that passed its checks waits for the trigger it names. -/
theorem setCommitEngine_waits {q : Nat} (hnew : c.engaged = false) (hlen : c.length = 1) (hz : c.reservedZero [(16, 2)] = true)
    (hsafe : inSafe s = false) (hidle : s.harebell.commit = none) (hok : s.harebell.shadowOk = true)
    (harmed : trigArmed s (c.field 16 2) = true) : setCommitEngine q c s
      = .wait (modHarebell (modCmd s q c.n (fun d => { d with engaged := true }))
        (fun h => { h with commit := some (q, c.n, c.field 16 2) })) := by
  unfold setCommitEngine
  dsimp only
  rw [if_neg (ne_true_of_eq_false hnew), if_neg (by simp [hlen, hz]), if_neg (ne_true_of_eq_false hsafe), if_neg (by simp [hidle]),
    if_neg (by simp [hok, harmed])]

theorem setReadEngine_ok {q a : Nat} {t : State} (hz : c.reservedZero [(16, 1), (24, 8)] = true) (hwhich : c.field 16 1 ≤ 1)
    (hlen : c.length ≤ areaBytes) (hal : opAligned q (c.field 24 8) 64 = true)
    (ha : a = if c.field 16 1 = 0 then s.harebell.active else 1 - s.harebell.active) (hgood : areaUncorr s a c.length = none)
    (hwrite : opWrite s q (c.field 24 8) (areaRead s a 0 c.length) = .ok t) : setReadEngine q c s = okay t := by
  subst ha
  unfold setReadEngine
  dsimp only
  rw [if_neg (by simp [hz, hal, Nat.not_lt.2 hwhich, Nat.not_lt.2 hlen]), hgood]
  dsimp only
  rw [hwrite]

/-- An image hold that lasts 10 s takes the safe state with cause 0x0F. -/
theorem exec_imageHoldTimeout_due {h : Hold} (ha : alive s = true) (hhold : s.harebell.hold = some h)
    (hdue : h.start + 10000000000 ≤ s.time) : exec .imageHoldTimeout s = .next (safeBoth 0xF s) := by
  show execImageHoldTimeout s = _
  unfold execImageHoldTimeout
  rw [whenAlive_alive ha, hhold]
  exact if_pos hdue

/-! ### Attestation reports (R533) -/

/-- A report that can be stored takes the next one-time key. -/
theorem signReport_ok {q k : Nat} {user : List Byte} {t u : State}
    (hwrite : opWrite s q (c.field 48 8) (signedReport k (report s k (slice c.packet 16 32) user)) = .ok t)
    (hu : u = if k = 943718 then raise (fsetb t Reg.SEC_STATUS_KEY_LOW true) 0xB202 secIsland [] else t) :
    signReport q k c user s = okay (raise (modHarebell (setCounter (k + 1) u)
      (fun h => { h with signed := decide ((k + 1) % 1024 ≠ 0) })) 0xB201 secIsland (leBytes 4 k)) := by
  subst hu
  unfold signReport
  rw [hwrite]

/-! ### The protected store (R524, R527, R534) -/

theorem storeWriteEngine_ok {q : Nat} {bs : List Byte} (hz : c.reservedZero [(16, 1), (24, 8), (32, 8)] = true)
    (htarget : c.field 16 1 ≤ 3) (hpage : c.field 32 8 % 4096 = 0)
    (hfits : c.field 32 8 + 4096 * c.length ≤ targetBytes (c.field 16 1)) (hal : opAligned q (c.field 24 8) 64 = true)
    (hfree : targetFree s (c.field 16 1) = true) (hread : opRead s q (c.field 24 8) (4096 * c.length) = .ok bs) :
    storeWriteEngine q c s = okay (countFlash (flashWrite (setVerified (c.field 16 1) false s)
      (targetBase (c.field 16 1) + c.field 32 8) bs) (4096 * c.length)) := by
  unfold storeWriteEngine
  dsimp only
  rw [if_neg (by simp [hz, hpage, hal, Nat.not_lt.2 htarget, Nat.not_lt.2 hfits]), if_neg (by simp [hfree]), hread]

section
variable (hlen : c.length = 1)
include hlen

section
variable (hz : c.reservedZero [(16, 1)] = true)
include hz

section
variable (hbank : c.field 16 1 < 2)
include hbank

/-- A bank whose stages all pass is verified. -/
theorem storeVerifyEngine_bankPasses (hok : bankFails s (c.field 16 1 + 1) = none) :
    storeVerifyEngine c s = okay (setVerified (c.field 16 1) true s) := by
  unfold storeVerifyEngine
  dsimp only
  rw [if_neg (by simp [hlen, hz]; omega), if_pos hbank, hok]

/-- A bank with a stage that fails is not, and the stage is recorded. -/
theorem storeVerifyEngine_bankFails {stage k : Nat} (hbad : bankFails s (c.field 16 1 + 1) = some (stage, k)) :
    storeVerifyEngine c s = invalid (stageRefused stage (c.field 16 1 + 1) k
      (stageReport (c.field 16 1 + 1) stage (setVerified (c.field 16 1) false s))) stage := by
  unfold storeVerifyEngine
  dsimp only
  rw [if_neg (by simp [hlen, hz]; omega), if_pos hbank, hbad]

end

section
variable (hslot : 2 ≤ c.field 16 1) (htarget : c.field 16 1 ≤ 3)
include hslot htarget

/-- A slot whose image passes its checks is verified. -/
theorem storeVerifyEngine_slotPasses {parts : List Byte × List Section}
    (hok : imageHead s (c.field 16 1 - 2) = .ok parts) :
    storeVerifyEngine c s = okay (setVerified (c.field 16 1) true s) := by
  unfold storeVerifyEngine
  dsimp only
  rw [if_neg (by simp [hlen, hz, htarget]), if_neg (Nat.not_lt.2 hslot), hok]

/-- A slot with a part that fails its verification is not, and the part is recorded. -/
theorem storeVerifyEngine_slotUnverified {i : Nat} (hbad : imageHead s (c.field 16 1 - 2) = .error (.verify i)) :
    storeVerifyEngine c s = invalid (imageEvent (c.field 16 1 - 2) (.verify i)
      (slotReport (c.field 16 1 - 2) i (setVerified (c.field 16 1) false s))) i := by
  unfold storeVerifyEngine
  dsimp only
  rw [if_neg (by simp [hlen, hz, htarget]), if_neg (Nat.not_lt.2 hslot), hbad]

/-- A slot whose image is refused is not, and the refusal is recorded. -/
theorem storeVerifyEngine_slotRefused {k : Nat} (hbad : imageHead s (c.field 16 1 - 2) = .error (.refused k)) :
    storeVerifyEngine c s
      = invalid (imageEvent (c.field 16 1 - 2) (.refused k) (setVerified (c.field 16 1) false s)) := by
  unfold storeVerifyEngine
  dsimp only
  rw [if_neg (by simp [hlen, hz, htarget]), if_neg (Nat.not_lt.2 hslot), hbad]

end

/-- FW_ACTIVATE makes a verified bank the trial bank. -/
theorem fwActivateEngine_ok (hbank : c.field 16 1 ≤ 1) (hverified : s.harebell.verified.contains (c.field 16 1) = true) :
    fwActivateEngine c s = okay (modHarebell s (fun h => { h with trialBank := c.field 16 1 + 1 })) := by
  unfold fwActivateEngine
  dsimp only
  rw [if_neg (by rw [hlen, hz, hverified]; simp [hbank])]

end

/-- ROLLBACK_RAISE raises each minimum version to the one that runs. -/
theorem rollbackEngine_ok (hz : c.reservedZero [] = true) {l : List Nat}
    (hl : l = ((List.range 5).zip (runningVersions s)).map (fun (k, v) => max v (minValue s k))) : rollbackEngine c s
      = okay (raise (modHarebell s (fun h => { h with minCopies := [some l, some l] })) 0xB006 secIsland (l.flatMap (leBytes 4))) := by
  subst hl
  exact if_neg (by simp [hlen, hz])

/-! ### Attestation commands (R532, R533, R534) -/

/-- ATTEST with a key left and its tree built signs a report over the caller's data, or over zeros where it gives none. -/
theorem attestEngine_signs {q k : Nat} {user : List Byte} (hal : opAligned q (c.field 48 8) 64 = true)
    (hualign : c.field 56 8 = 0 ∨ opAligned q (c.field 56 8) 64 = true) (hkey : sigCounter s = some k) (hleft : k < 2 ^ 20)
    (htree : s.harebell.signed = true) (hzeros : c.field 56 8 = 0 → user = List.replicate 64 0)
    (hread : c.field 56 8 ≠ 0 → opRead s q (c.field 56 8) 64 = .ok user) : attestEngine q c s = signReport q k c user s := by
  unfold attestEngine
  dsimp only
  rw [if_neg (by simp [hlen, hal]; exact Or.resolve_left hualign), hkey]
  dsimp only
  rw [if_neg (Nat.not_le.2 hleft), if_neg (by simp [htree])]
  by_cases hnone : c.field 56 8 = 0
  · rw [if_pos hnone, hzeros hnone]
  · rw [if_neg hnone, hread hnone]

section
variable {q : Nat} (hz : c.reservedZero [(24, 8)] = true) (hal : opAligned q (c.field 24 8) 64 = true)
include hz hal

theorem identityReadEngine_ok {t : State} (hwrite : opWrite s q (c.field 24 8) (Config.certificate.take 0x10000) = .ok t) :
    identityReadEngine q c s = okay t := by
  unfold identityReadEngine
  dsimp only
  rw [if_neg (by simp [hlen, hz, hal]), hwrite]

theorem measExtendEngine_ok {d : List Byte} (hread : opRead s q (c.field 24 8) 32 = .ok d) :
    measExtendEngine q c s = okay (extendMeas 7 d s) := by
  unfold measExtendEngine
  dsimp only
  rw [if_neg (by simp [hlen, hz, hal]), hread]

end
end
end

/-- Settles O33: the engine of each set command passes its checks, and a hold of 10 s is due. -/
theorem setCommandsComplete : Obligations.SetCommandsComplete := by
  refine ⟨?write, ?commit, ?read, ?hold⟩
  case write =>
    intro q n c bs s u h hz hlen hal hidle hread hu
    obtain ⟨hpasses, hfails⟩ := setWriteEngine_checks hz hlen hal hidle hread hu
    cases hset : setFails u (1 - s.harebell.active) with
    | none => exact runEngine_done h (hpasses hset)
    | some k => exact runEngine_done h (hfails k hset)
  case commit =>
    intro q n c s h hnew hlen hz hsafe hidle hok harmed
    exact runEngine_wait h (setCommitEngine_waits hnew hlen hz hsafe hidle hok harmed)
  case read =>
    intro q n a c s t h hz hwhich hlen hal ha hgood hwrite
    exact runEngine_done h (setReadEngine_ok hz hwhich hlen hal ha hgood hwrite)
  case hold =>
    intro h s ha hhold hdue
    exact exec_imageHoldTimeout_due ha hhold hdue

/-- Settles O35: the engine of each command passes its checks; STORE_VERIFY has a case per outcome of the target's checks. -/
theorem securityCommandsComplete : Obligations.SecurityCommandsComplete := by
  refine ⟨?write, ?verifyBank, ?verifySlot, ?activate, ?rollback, ?attest, ?identity, ?meas⟩
  case write =>
    intro q n c bs s h hz htarget hpage hfits hal hfree hread
    exact runEngine_done h (storeWriteEngine_ok hz htarget hpage hfits hal hfree hread)
  case verifyBank =>
    intro q n c s h hlen hz hbank
    cases hstages : bankFails s (c.field 16 1 + 1) with
    | none => exact runEngine_done h (storeVerifyEngine_bankPasses hlen hz hbank hstages)
    | some e => exact runEngine_done h (storeVerifyEngine_bankFails hlen hz hbank hstages)
  case verifySlot =>
    intro q n c s h hlen hz hslot htarget
    cases himage : imageHead s (c.field 16 1 - 2) with
    | ok i => exact runEngine_done h (storeVerifyEngine_slotPasses hlen hz hslot htarget himage)
    | error e => cases e with
      | verify i => exact runEngine_done h (storeVerifyEngine_slotUnverified hlen hz hslot htarget himage)
      | refused k => exact runEngine_done h (storeVerifyEngine_slotRefused hlen hz hslot htarget himage)
  case activate =>
    intro q n c s h hlen hz hbank hverified
    exact runEngine_done h (fwActivateEngine_ok hlen hz hbank hverified)
  case rollback =>
    intro q n c l s h hlen hz hl
    exact runEngine_done h (rollbackEngine_ok hlen hz hl)
  case attest =>
    intro q n k c user s t h hlen hal hualign hkey hleft htree hzeros hread hwrite
    exact ⟨_, rfl, runEngine_done h
      ((attestEngine_signs hlen hal hualign hkey hleft htree hzeros hread).trans (signReport_ok hwrite rfl))⟩
  case identity =>
    intro q n c s t h hlen hz hal hwrite
    exact runEngine_done h (identityReadEngine_ok hlen hz hal hwrite)
  case meas =>
    intro q n c d s h hlen hz hal hread
    exact runEngine_done h (measExtendEngine_ok hlen hz hal hread)

end Sys2Proof.Machine
end

section
/-! SUPPORT. What the Ethernet ports do: NET_SEND, the transmission of frames, gate lists, and management frames (chapters 11 and 23 of the
spec); and that a command keeps the status it has. -/

namespace Sys2Proof.Machine

section
variable {s : State}

/-! ### NET_SEND, transmission and gate lists (R333, R334, R578) -/

/-- NET_SEND queues the frames of its list on their ports, and waits until they have left. -/
theorem netSendEngine_queues {c : QCmd} {q : Nat} {fs : List (Nat × NetFrame)} (hnew : c.engaged = false) (hlen : c.length ≤ 64)
    (hz : c.reservedZero [(24, 8)] = true) (hal : opAligned q (c.field 24 8) 64 = true)
    (hlist : netList q c s c.length 0 (c.field 24 8) = .ok fs) : netSendEngine q c s
      = .wait (forEach fs (fun e u => setNetPort u e.1 { netPort u e.1 with frames := (netPort u e.1).frames ++ [e.2] })
        (modCmd s q c.n (fun d => { d with engaged := true }))) := by
  unfold netSendEngine
  rw [if_neg (ne_true_of_eq_false hnew), if_neg (by simp [hz, hal, Nat.not_lt.2 hlen]), hlist]
  rfl

/-- The entry in effect of a gate list that runs has ended. -/
theorem gateEntry_ended {p stop : Nat} (hp : p < 2) (hruns : (netPort s p).running = true) (hen : fbit s (Reg.NET_GCL_CFG_EN p) = true)
    (hdue : stop ≤ s.time) :
    ¬(2 ≤ p ∨ (netPort s p).running = false ∨ fbit s (Reg.NET_GCL_CFG_EN p) = false ∨ s.time < stop) := by
  simp [Nat.not_le.2 hp, Nat.not_lt.2 hdue, hruns, hen]

section
variable (ha : alive s = true) (hfed : phaseUp s 5 = true)
include ha hfed

/-- A port sends the frame that is next, and the frame's command completes with its last one. -/
theorem exec_netFrameTransmit_next {p i : Nat} {f : NetFrame} (hnext : nextFrame s p = some (i, f)) {u : State}
    (hu : u = setNetPort (noteLaunch s p f) p { netPort s p with frames := (netPort s p).frames.eraseIdx i }) :
    exec (.netFrameTransmit p) s = .next (settleNetSend f.own { u with outbox := u.outbox ++ [.net p f.cls f.bytes] }) := by
  subst hu
  show execNetFrameTransmit p s = _
  unfold execNetFrameTransmit
  rw [whenFed_fed ha hfed, hnext]

section
variable {p cur stop : Nat} (hp : p < 2) (hruns : (netPort s p).running = true) (hen : fbit s (Reg.NET_GCL_CFG_EN p) = true)
  (hdue : stop ≤ s.time)
  (hcur : cur = fget s (Reg.NET_GCL_STATUS_CURRENT p))
  (hstop : stop = (netPort s p).began + ((netPort s p).list.getD cur (0, 0)).2)
include hp hruns hen hdue hcur hstop

/-- A gate list stops after its last entry. -/
theorem exec_gateEntryExpiry_last (hlast : (netPort s p).list[cur + 1]? = none) :
    exec (.gateEntryExpiry p) s = .next (setNetPort s p { netPort s p with running := false }) := by
  have hended := gateEntry_ended hp hruns hen hdue
  subst hstop hcur
  show execGateEntryExpiry p s = _
  unfold execGateEntryExpiry
  rw [whenFed_fed ha hfed]
  dsimp only
  rw [if_neg hended, hlast]

/-- A gate list goes on with its next entry when the one in effect ends. -/
theorem exec_gateEntryExpiry_goesOn {e : Nat × Nat} (hnext : (netPort s p).list[cur + 1]? = some e) :
    exec (.gateEntryExpiry p) s = .next (fset (setNetPort s p { netPort s p with began := stop, gates := e.1 })
      (Reg.NET_GCL_STATUS_CURRENT p) (cur + 1)) := by
  have hended := gateEntry_ended hp hruns hen hdue
  subst hstop hcur
  show execGateEntryExpiry p s = _
  unfold execGateEntryExpiry
  rw [whenFed_fed ha hfed]
  dsimp only
  rw [if_neg hended, hnext]

end
end

/-! ### Management frames (R575 to R577) -/

/-- A sound frame to a running queue is acted on. -/
theorem mgmtArrival_sound {ty e : Nat} {f : MgmtFrame} (act : Nat → MgmtFrame → State → State) (htaken : frameTaken s e f = true)
    (hon : queueOn s e = true) (hsound : payloadSound f.payload = true) (hty : fieldAt f.payload 1 1 = ty) :
    mgmtArrival ty e f act s = act e f s := by
  unfold mgmtArrival
  rw [if_neg (by simp [htaken]), if_neg (by simp [hon]), if_pos ⟨hsound, hty⟩]

theorem exec_mgmtFrameRefused_unsound {e : Nat} {f : MgmtFrame} (htaken : frameTaken s e f = true)
    (hbad : payloadSound f.payload = false) : exec (.mgmtFrameRefused e f) s = .next (refuseFrame (noteTaken s e f) e f) :=
  if_neg (by simp [htaken, hbad])

section
variable {e : Nat} (he : e < 2) (hfed : phaseUp s 5 = true)
include he hfed

section
variable (hon : queueOn s e = true)
include hon

/-- Sixteen waiting replies, a notification, or 100 µs make the port send the replies that wait. -/
theorem exec_replyFrameSend_due {k : Nat} (hk : k = (s32diff (queue s e).cqTail (mgmt s e).unsent).toNat) (hsome : k ≠ 0)
    (hdue : 16 ≤ k ∨ (mgmt s e).notify ≠ [] ∨ (mgmt s e).postedAt + 100000 ≤ s.time) {u : State}
    (hu : u = sendReplies s e (mgmt s e).unsent (min k 90)) : exec (.replyFrameSend e) s
      = .next (setMgmt u e { mgmt u e with unsent := wrap32 ((mgmt s e).unsent + min k 90), sentAt := u.time }) := by
  have hwaits : ¬(k = 0 ∨ (k < 16 ∧ (mgmt s e).notify = [] ∧ s.time < (mgmt s e).postedAt + 100000)) := by
    rintro (hnone | ⟨hfew, hquiet, hearly⟩)
    · exact hsome hnone
    · rcases hdue with hmany | hnotify | hlate
      · omega
      · exact hnotify hquiet
      · omega
  subst hu hk
  show execReplyFrameSend e s = _
  unfold execReplyFrameSend
  rw [if_neg (by simp [hon, hfed, he])]
  exact if_neg hwaits

/-- Replies that the queue's head has not passed within 10 ms are sent again. -/
theorem exec_replyResend_due {h k : Nat} (hh : h = memNat s (cqBase s e + 8) 4) (hk : k = (s32diff (mgmt s e).unsent h).toNat)
    (hsome : k ≠ 0) (hdue : (mgmt s e).sentAt + 10000000 ≤ s.time) {u : State} (hu : u = resend e 4096 h k s) :
    exec (.replyResend e) s = .next (setMgmt u e { mgmt u e with sentAt := u.time }) := by
  have hlate : ¬(k = 0 ∨ s.time < (mgmt s e).sentAt + 10000000) := by omega
  subst hu hk hh
  show execReplyResend e s = _
  unfold execReplyResend
  rw [if_neg (by simp [hon, hfed, he])]
  exact if_neg hlate

end

theorem exec_otherDropped_counts : exec (.otherDropped e) s = .next (finc s (Reg.NET_MGMT_CNT_COUNT e 4)) :=
  if_neg (by simp [hfed, he])

end
end

/-- Settles O37: NET_SEND's list passes its checks, and a port's next frame and gate entry are due. -/
theorem networkCommandsComplete : Obligations.NetworkCommandsComplete := by
  refine ⟨?send, ?transmit, ?gate⟩
  case send =>
    intro q n c fs s h hnew hlen hz hal hlist
    exact runEngine_wait h (netSendEngine_queues hnew hlen hz hal hlist)
  case transmit =>
    intro p i f s ha hfed hnext
    exact ⟨_, rfl, exec_netFrameTransmit_next ha hfed hnext rfl⟩
  case gate =>
    intro p cur stop s ha hfed hp hruns hen hcur hstop hdue
    cases hlist : (netPort s p).list[cur + 1]? with
    | none => exact exec_gateEntryExpiry_last ha hfed hp hruns hen hdue hcur hstop hlist
    | some e => exact exec_gateEntryExpiry_goesOn ha hfed hp hruns hen hdue hcur hstop hlist

/-- Settles O47: a sound frame reaches its action, an unsound one is refused, and waiting replies are due. -/
theorem managementEventsComplete : Obligations.ManagementEventsComplete := by
  refine ⟨?submit, ?poll, ?refused, ?send, ?resend, ?other⟩
  case submit =>
    intro e f s ha htaken hon hsound hty
    show execMgmtSubmit e f s = _
    unfold execMgmtSubmit
    rw [whenAlive_alive ha, mgmtArrival_sound _ htaken hon hsound hty]
  case poll =>
    intro e f s ha htaken hon hsound hty
    show execMgmtPoll e f s = _
    unfold execMgmtPoll
    rw [whenAlive_alive ha, mgmtArrival_sound _ htaken hon hsound hty]
  case refused =>
    intro e f s htaken hbad
    exact exec_mgmtFrameRefused_unsound htaken hbad
  case send =>
    intro e k s he hon hfed hk hsome hdue
    exact ⟨_, rfl, exec_replyFrameSend_due he hfed hon hk hsome hdue rfl⟩
  case resend =>
    intro e h k s he hon hfed hh hk hsome hdue
    exact ⟨_, rfl, exec_replyResend_due he hfed hon hh hk hsome hdue rfl⟩
  case other =>
    intro e s he hfed
    exact exec_otherDropped_counts he hfed

/-- Settles O21: a completion changes no command that is complete, and none of another number. -/
theorem statusNeverChanges : Obligations.StatusNeverChanges := by
  intro s q n m st d c w hfind hphase
  rw [findCmd_completeCmd w, hfind, Option.map_some, if_pos hphase, ite_self]

end Sys2Proof.Machine
end
